-- ==== Sys2Proof/Word.lean ====
section
/-! DEFINITION. The word types of the model: a byte, a 32-bit register word (Scope and Conventions, "Registers"), and
the plainest arithmetic on them. -/

namespace Sys2Proof

/-- A byte of a packet, a block or a memory. -/
abbrev Byte := BitVec 8

/-- A register word: registers are 32 bits wide, bit 0 least significant. -/
abbrev Word := BitVec 32

/-- A string of bytes, byte 0 first. -/
abbrev Bytes := List Byte

/-- An endpoint ID (Table 0.5). -/
abbrev EpId := BitVec 16

/-- A port code of Table 4.3. -/
abbrev Code := BitVec 11

end Sys2Proof
end

