-- ==== Sys2Proof/Units.lean ====
section
/-! DEFINITION. The units of the device that commands name (R2, R3, Table 0.4, Table 1.2). -/

namespace Sys2Proof

/-- The two switch planes: 0 Hoist, 1 Fly (R2). -/
inductive Plane where
  | hoist | fly
  deriving DecidableEq, Repr

/-- The other plane, across Halyard. -/
def Plane.other : Plane → Plane
  | .hoist => .fly
  | .fly => .hoist

/-- The plane's number p of Table 0.4. -/
def Plane.num : Plane → Nat
  | .hoist => 0
  | .fly => 1

/-- The engines of a plane that are LFP endpoints (Table 1.3). -/
inductive Eng where
  | col | dsp | mem
  deriving DecidableEq, Repr

/-- An error that the check bits show to an operation (R252, R253). `word`: which of the words, or LPDDR5X lines, that the
operation touches, from 0; for an engine, the region of Table 8.15 it reads. `kind`: 1 a correctable and 2 an
uncorrectable error in the word; 3 an error on the device's link that link ECC corrects, 4 one that its retry does not
clear. `col`: the sub-array and column to which a correctable error is traced (R255). -/
structure EccHit where
  word : Nat
  kind : BitVec 3
  col  : Option (BitVec 8 × BitVec 8)
  deriving DecidableEq, Repr

/-- The blocks that TOP_RST_CTL resets (Table 1.10). -/
inductive Blk where
  | swc | col | dsp | mem | tst
  deriving DecidableEq, Repr

/-- An endpoint inside the device: an engine of the plane (R103), or the endpoint logic of a golden port, named by the
port's first lane modulo 576 (R385). -/
inductive Endpt where
  | eng (e : Eng)
  | gold (i : Fin 576)
  deriving DecidableEq, Repr

/-- The four rings of Table 9.5. -/
inductive Ring where
  | cmdq | cplq | evtq | capq
  deriving DecidableEq, Repr

/-- Ring number r of Table 9.5. -/
def Ring.num : Ring → Nat
  | .cmdq => 0
  | .cplq => 1
  | .evtq => 2
  | .capq => 3

/-- How a management message is carried (R310). `fabric i` is a MGMT packet that arrived on the port whose first lane
modulo 576 is `i`; its answer goes to `ret`. -/
inductive Transport where
  | ethernet
  | fabric (code : Code) (ret : EpId)
  | cascade (slot : BitVec 4)
  | mailbox
  deriving DecidableEq, Repr

/-- The side of the cascade ring a frame arrives on (R314). -/
inductive Side where
  | next | prev
  deriving DecidableEq, Repr

/-- What makes the device act as for EPO (R331, Table 10.15: source 0 pin, 1 PREV_RX, 2 NEXT_RX). -/
inductive EpoSource where
  | pin | prevRx | nextRx
  deriving DecidableEq, Repr

/-- Types of unit that EPC_UNIT_CTL names (Table 11.18). -/
inductive UnitType where
  | pg | chiplet | tile | spine
  deriving DecidableEq, Repr

/-- Units that are power-gated on demand in Active (R357). -/
inductive GateUnit where
  | quad (q : Fin 144)
  | pg (g : Fin 18)
  | eng (e : Eng)
  deriving DecidableEq, Repr

end Sys2Proof
end

