-- ==== Sys2Proof/Packet.lean ====
section
/-! DEFINITION. What travels: LFP packets field by field (Tables 3.2, 3.4), SOP blocks (Table 3.1), Halyard flits
(Table 5.6), Gnotric Link flits and messages (Tables 9.2, 9.3), TIME blocks (Table 12.2), management messages
(Table 10.7). Only the shapes; meaning is in Machine/. -/

namespace Sys2Proof

/-- The 16-byte base header of Table 3.2, reserved bits included. -/
structure Header where
  ver  : BitVec 2
  type : BitVec 4
  path : Bool
  pen  : Bool
  vc   : BitVec 4
  tc   : BitVec 3
  ce   : Bool
  dst  : EpId
  src  : EpId
  ece  : Bool
  rsv6 : Bool
  len  : BitVec 14
  op   : Byte
  hops : BitVec 5
  rsv9 : BitVec 3
  tag  : BitVec 16
  wseq : BitVec 16
  hcrc : BitVec 16
  deriving DecidableEq, Repr

/-- The 12-byte path extension of Table 3.4: the 88-bit selector field, two reserved bits, LAST and PTR. -/
structure PathExt where
  sels : BitVec 88
  rsv  : BitVec 2
  last : BitVec 3
  ptr  : BitVec 3
  deriving DecidableEq, Repr

/-- A packet (R72). `ext` travels only when the header's PATH bit is 1. -/
structure Packet where
  hdr     : Header
  ext     : PathExt
  payload : Bytes
  trailer : BitVec 32
  deriving DecidableEq, Repr

/-- A received codeword pair (R37): what each of its codewords decodes to, the symbols corrected or none where it is
uncorrectable; or its levels, 0 to 3 for −3 to +3, and the lane's skew in symbols. -/
inductive PairRx where
  | outcome (a b : Option (Fin 16))
  | symbols (levels : List (Fin 4)) (skew : BitVec 16)
  deriving DecidableEq, Repr

/-- Bytes 1 to 3 of an SOP block (Table 3.1); `rsv` says that some bit the table gives as 0 is set. -/
structure SopBlock where
  abort : Bool
  wh    : Bool
  vc    : BitVec 4
  units : BitVec 16
  rsv   : Bool
  deriving DecidableEq, Repr

/-- A cell's place: ingress slice, egress slice and sequence number within the pair (Table 5.4). -/
structure CellId where
  src  : Fin 46
  dst  : Fin 46
  pseq : BitVec 12
  deriving DecidableEq, Repr

/-- A Halyard flit as received (Table 5.6); `crcOk` is the outcome of the check of bytes 284 to 287. -/
structure HalFlit where
  data   : Bytes
  txSeq  : BitVec 12
  vc     : BitVec 4
  ackSeq : BitVec 12
  nak    : Bool
  kind   : BitVec 3
  sopm   : BitVec 4
  nu     : BitVec 2
  bad    : Bool
  counts : List (BitVec 16)
  crcOk  : Bool
  deriving DecidableEq, Repr

/-- A Gnotric Link message header slot and its line (Table 9.3, R267). -/
structure GlMsg where
  code   : Byte
  status : Byte
  mtag   : BitVec 16
  arg    : BitVec 32
  addr   : BitVec 64
  line   : Bytes
  deriving DecidableEq, Repr

/-- A Gnotric Link flit as received (Table 9.2), its slots already grouped into messages. -/
structure GlFlit where
  msgs   : List GlMsg
  txSeq  : BitVec 12
  kind   : BitVec 2
  ackSeq : BitVec 12
  nak    : Bool
  crReq  : Byte
  crSnp  : Byte
  crMmio : Byte
  crcOk  : Bool
  deriving DecidableEq, Repr

/-- A TIME LINK block (Table 12.2) without its KIND; times in 1/65,536 ns. -/
structure TimeBlock where
  state   : BitVec 2
  stratum : BitVec 4
  seq     : Byte
  t       : Nat
  t3      : Nat
  root    : BitVec 64
  deriving DecidableEq, Repr

/-- A management request as it arrives (Table 10.7), its code apart: the die it reaches, its transport, the SIGNED bit,
sequence, target, body and signature; and what the cryptographic checks of a signed request find (R309): the first 32
bytes of SHAKE256 of the key in the body's final 57 bytes, and whether the signature verifies under it. -/
structure MgmtReq where
  via       : Plane
  transport : Transport
  signed    : Bool
  seq       : BitVec 32
  target    : Byte
  body      : Bytes
  sig       : Bytes
  fp        : Bytes
  verifies  : Bool
  deriving DecidableEq, Repr

/-- A directory of a boot flash (R302): sequence, preferred slot, offsets of the slots. -/
structure FlashDir where
  seq  : Nat
  pref : Nat
  offA : Nat
  offB : Nat
  deriving DecidableEq, Repr

/-- What the cryptographic checks of an image find (R304): the key's fingerprint is that of its slot, the signature
verifies, the body has its digest. -/
structure ImgProof where
  key  : Bool
  sig  : Bool
  body : Bool
  deriving DecidableEq, Repr

/-- The boot configuration of a flash (Table 10.4): START_HELD, the addresses of the management Ethernet port (none where
they are configured automatically, R312), and the sensor limits, whose layout and effect the spec does not give. -/
structure BootConf where
  startHeld : Bool
  ip6       : Option (BitVec 128)
  ip4       : Option (BitVec 32)
  limits    : Bytes
  deriving DecidableEq, Repr

/-- An image's 512 header bytes and what the checks of it find. -/
structure Image where
  hdr   : Bytes
  proof : ImgProof
  deriving DecidableEq, Repr

/-- A boot flash as the ROM reads it (Tables 10.4, 10.5): its directory copies where valid, the certificate region, the
boot configuration, the 512 header bytes at either slot and what the checks of its image find. -/
structure FlashView where
  dir0      : Option FlashDir
  dir1      : Option FlashDir
  cert      : Bytes
  conf      : BootConf
  hdrA      : Bytes
  hdrB      : Bytes
  proofA    : ImgProof
  proofB    : ImgProof
  deriving DecidableEq, Repr

/-- The head of a command descriptor (Table 9.7): INTR and TAG. -/
structure CmdHead where
  intr : Bool
  tag  : BitVec 16
  deriving DecidableEq, Repr

/-- A record of the journal (R296): which item changed and its new bytes. Items: 0 caps, RM_LIMIT and HOST_REQ;
1 a sensor; 2 inventory counters; 3 neighbour report; 4 tray master state; 5 last signed sequence;
6 unacknowledged notifications; 7 health report; 8 unit states of the standby's plane (R300). -/
structure JournalRec where
  item : BitVec 8
  key  : Nat
  data : Bytes
  deriving DecidableEq, Repr

/-- One poll of a sensor (R320): the readings of the two sensors of a pair, or the one reading as `a`; `none` for a
sensor that does not answer; whether a reading lies outside its physical range; the flags of a regulator or a laser
module. -/
structure Sample where
  a    : Option (BitVec 24)
  b    : Option (BitVec 24)
  oorA : Bool
  oorB : Bool
  warn : Bool
  crit : Bool
  deriving DecidableEq, Repr

/-- A cascade frame (R314) without its framing and CRC. -/
structure CascFrame where
  src     : BitVec 4
  dst     : BitVec 4
  type    : Byte
  payload : Bytes
  crcOk   : Bool
  deriving DecidableEq, Repr

end Sys2Proof
end

