-- ==== Sys2Proof/Syntax.lean ====
section
/-! DEFINITION. The commands of the device, one constructor per row of the spec's table of steps, each with the operands
its rule gives it: the plane, the unit concerned and what arrives or is written. `i` is a port, named by its first lane
in the plane. What the environment alone knows (which receivers a sense finds, whether a check of a received code
passes, how a converging equaliser stands) is an operand. Rows without operands stand last. -/

namespace Sys2Proof

/-- A command of the device (the rows of spec/opcode_table.json). -/
inductive Instr where
  /-- REGISTER_WRITE (R7): An aligned 32-bit write to a register that has no row of its own stores each field
  according to its access type and class. -/
  | registerWrite (addr : BitVec 27) (v : Word)
  /-- RESET_DEASSERT (R352): RESET_N deasserts: the straps are latched, all logic registers take their reset values
  and the start-up sequence begins. -/
  | resetDeassert (straps : BitVec 7)
  /-- SELF_TEST_DONE (R352): The start-up self-tests of PGs, chiplets, spine elements and tiles complete and the
  units' OK bits are set. -/
  | selfTestDone (p : Plane) (pg : BitVec 18) (chip : BitVec 9) (tile : BitVec 16) (elem : BitVec 24) (hal : Bool)
  /-- SWC_RST (R351): A write of 1 to SWC_RST resets the plane's switch core, flushes every queue and discards cells
  in the spine. -/
  | swcRst (p : Plane)
  /-- COL_RST (R201): A write of 1 to COL_RST resets the collective engine and aborts every ACTIVE group with code
  ENGINE. -/
  | colRst (p : Plane)
  /-- DSP_RST (R351): A write of 1 to DSP_RST resets the dispatch engine and aborts every ACTIVE layer with code
  ENGINE. -/
  | dspRst (p : Plane)
  /-- MEM_RST (R251): A write of 1 to MEM_RST resets the memory engine, drops operations in progress and marks every
  destination window unsynchronised. -/
  | memRst (p : Plane)
  /-- TST_RST (R398): A write of 1 to TST_RST stops the streams, releases delayed packets, frees the checker flows
  and restarts the golden windows. -/
  | tstRst (p : Plane)
  /-- BLOCK_RESET_DONE (R27): A block reset completes, its TOP_RST_CTL bit clears and the block's status bit
  returns. -/
  | blockResetDone (p : Plane) (b : Blk)
  /-- PORT_ENABLE (R55): A write that sets PORT_EN from 0 to 1 checks and applies the port configuration and starts
  Detect, or sets CFG_REJ. -/
  | portEnable (p : Plane) (i : Fin 576) (v : Word)
  /-- PORT_DISABLE (R56): A write that clears PORT_EN takes the port down in the cycle written, applies its S fields
  and flushes its queues. -/
  | portDisable (p : Plane) (i : Fin 576) (v : Word)
  /-- DETECT_SENSE (R42): Every 1 ms the transmitter applies a common-mode step, and when two successive senses
  agree on enough lanes the port leaves Detect for Train. -/
  | detectSense (p : Plane) (i : Fin 576) (mask : BitVec 16)
  /-- TRAINING_FRAME (R44): A training frame with a good CRC is received, its coefficient requests and reports are
  handled, and Train ends on the lane after 16 RX_READY frames each way. -/
  | trainingFrame (p : Plane) (lane : Fin 584) (bytes : Bytes) (converged : Bool)
  /-- TRAIN_TIMEOUT (R45): TRAIN_MAX expires, and the port proceeds to Lock with its widest aligned trained set or
  fails Train with reason 0xA. -/
  | trainTimeout (p : Plane) (i : Fin 576)
  /-- ALIGNMENT_MARKER (R39): An alignment marker is received, giving codeword lock, marker lock and deskew of the
  port's lanes. -/
  | alignmentMarker (p : Plane) (lane : Fin 576) (bytes : Bytes) (atSpacing : Bool) (skew : BitVec 16)
  /-- MARKER_LOSS (R39): Two markers in a row are missing or misplaced on a lane, which loses marker lock and is
  declared failed. -/
  | markerLoss (p : Plane) (lane : Fin 576)
  /-- LOCK_TIMEOUT (R41): Lock does not complete within 1 ms, and the stage fails with reason 0xB. -/
  | lockTimeout (p : Plane) (i : Fin 576)
  /-- SIGNAL_DETECT_LOSS (R41): Signal detect is lost for 100 ns on a lane, which is failed or ends its port's stage
  according to the stage. -/
  | signalDetectLoss (p : Plane) (lane : Fin 576)
  /-- CODEWORD_PAIR (R37): A codeword pair is decoded: errors are corrected or its 40 blocks are marked bad, and a
  run of UNCORR_FAIL bad pairs fails the lane. -/
  | codewordPair (p : Plane) (lane : Fin 576) (r : PairRx)
  /-- ENSIGN_BLOCK (R47): An ENSIGN fragment is received, and once two identical records have arrived on every lane
  they are checked against each other and the wiring plan. -/
  | ensignBlock (p : Plane) (lane : Fin 576) (bytes : Bytes)
  /-- EXCHANGE_TIMEOUT (R41): The Ensign records are not received within 10 ms, and Exchange fails with reason 0xC. -/
  | exchangeTimeout (p : Plane) (i : Fin 576)
  /-- ENSIGN_TAIL_END (R49): Ten microseconds after entering Active with no more ENSIGN blocks arriving, the port
  stops sending ENSIGN blocks. -/
  | ensignTailEnd (p : Plane) (i : Fin 576)
  /-- ADMIT (R51): A write of ADMIT in Quarantine admits the far end if the lane checks passed and stores its
  admitted identity. -/
  | portAdmit (p : Plane) (i : Fin 576)
  /-- RETRAIN (R41): A write of RETRAIN takes the port down, restarts it at Detect and clears its retry count. -/
  | retrain (p : Plane) (i : Fin 576)
  /-- RESTORE (R59): A write of RESTORE starts Detect, Train and Lock on the inactive lanes of a Half-mast port
  while the active lanes carry traffic. -/
  | restore (p : Plane) (i : Fin 576)
  /-- RESTORE_AUTO_TICK (R59): With RESTORE_AUTO set, the device tries once per second to restore the inactive lanes
  of a Half-mast port. -/
  | restoreAutoTick (p : Plane)
  /-- WIRE_CTL_WRITE (R52): A write to LNE_WIRE_CTL re-runs the checks at once for a port in Quarantine, forgets the
  admitted identity and otherwise takes effect at the next Exchange. -/
  | wireCtlWrite (p : Plane) (i : Fin 576) (v : Word)
  /-- NEIGHBOUR_MISSING (R53): A planned port is still in Detect after PLAN_WAIT, and NEIGHBOUR_MISSING is raised
  once. -/
  | neighbourMissing (p : Plane) (i : Fin 576)
  /-- WIDTH_BLOCK (R58): A WIDTH block is received, its failed-lane mask is merged, and the port switches to the new
  active set once masks match and SWITCH blocks are exchanged. -/
  | widthBlock (p : Plane) (i : Fin 576) (mask : BitVec 16) (sw : Bool) (seq : Byte)
  /-- WIDTH_SEND (R58): Every 64 block positions during a width change, the port sends WIDTH blocks with its merged
  mask on all surviving lanes. -/
  | widthSend (p : Plane) (i : Fin 576)
  /-- RUN_LIMIT (R35): The run monitor counts 64 equal levels, and a STUFF block is placed in the port's next block
  position on every active lane. -/
  | runLimit (p : Plane) (lane : Fin 576)
  /-- LPI_IDLE_EXPIRY (R61): A port with LPI_EN has carried only idle traffic for LPI_IDLE, and it sends an LPI
  request. -/
  | lpiIdleExpiry (p : Plane) (i : Fin 576)
  /-- LPI_BLOCK (R61): An LPI REQ or ACK is received, and the ends answer, freeze their adaptation and stop their
  transmitters. -/
  | lpiBlock (p : Plane) (i : Fin 576) (code : Byte)
  /-- LPI_WAKE (R62): A packet reaches a transmitter in low-power idle, or the far end's wake pattern is detected,
  and the port wakes and relocks on fast markers. -/
  | lpiWake (p : Plane) (i : Fin 576) (far : Bool)
  /-- WAKE_TIMEOUT (R62): Marker lock is not regained within 10 µs of a wake, and the port restarts at Train with
  its trained set. -/
  | wakeTimeout (p : Plane) (i : Fin 576)
  /-- LPI_MAX_WAKE (R63): A port has been in low-power idle for 100 ms or its die temperature has moved by more than
  10 °C, and it wakes. -/
  | lpiMaxWake (p : Plane) (i : Fin 576)
  /-- LPI_REENTRY_ALLOWED (R63): After a forced wake, 50 µs of IDLE with adaptation pass and the port may enter low-
  power idle again. -/
  | lpiReentryAllowed (p : Plane) (i : Fin 576)
  /-- TX_SQUELCH (R57): A write of TX_SQUELCH silences a lane's transmitter, and a lane of an Active port is failed
  and logged with cause 4. -/
  | txSquelch (p : Plane) (lane : Fin 576)
  /-- PRBS_CLR (R66): A write of PRBS_CLR zeroes the lane's PRBS error counter. -/
  | prbsClr (p : Plane) (lane : Fin 576)
  /-- PRBS_LOCK_LOSS (R66): The PRBS checker sees 64 consecutive wrong symbols, so PRBS_LOCK drops and the counter
  stops. -/
  | prbsLockLoss (p : Plane) (lane : Fin 576)
  /-- EYE_SCAN_START (R67): A write of START to LNE_EYE_CTL starts a 1 ms scan of the selected eye through the
  shadow sampler. -/
  | eyeScanStart (p : Plane) (lane : Fin 576) (eye : BitVec 2)
  /-- EYE_SCAN_DONE (R67): An eye scan finishes, and its height and width are reported with DONE set. -/
  | eyeScanDone (p : Plane) (lane : Fin 576) (h w : Byte)
  /-- LASER_READY (R69): On the PT1152-O the Canton enables a laser module that reports ready, and the engine's
  lanes may leave Detect. -/
  | laserReady (p : Plane) (c : Fin 9)
  /-- LASER_INPUT_FAIL (R69): A laser input's power falls by 3 dB, its 8 transmitters stop and their lanes are
  declared failed. -/
  | laserInputFail (p : Plane) (c : Fin 9) (k : Fin 8)
  /-- SOP_BLOCK (R73): An SOP block is received, giving the VC and units of the next packet, or ending the packet in
  progress as bad when it is early or carries ABORT. -/
  | sopBlock (p : Plane) (i : Fin 576) (b : SopBlock) (got : BitVec 16)
  /-- PACKET_INGRESS (R84): A packet is received whole at an ingress, checked in order, routed once, charged to a
  buffer account and entered in its VOQ, or discarded. -/
  | packetIngress (p : Plane) (i : Fin 576) (pkt : Packet) (bad : Bool) (unknown got : Nat) (more : Bool)
  /-- PCHK_LINK_SILENCE (R390): No CREDIT or no SENT block arrives for more than 1 µs in Active, which the protocol
  checker records as a violation. -/
  | pchkLinkSilence (p : Plane) (i : Fin 576) (sent : Bool)
  /-- CREDIT_BLOCK (R92): A CREDIT LINK block is received, and the sender's LIMIT_RX and available credit per VC are
  updated. -/
  | creditBlock (p : Plane) (i : Fin 576) (counts : List (BitVec 16)) (rsv : Bool)
  /-- SENT_BLOCK (R94): A SENT LINK block is received, and missing units are reclaimed or excess units are flagged
  as a credit violation. -/
  | sentBlock (p : Plane) (i : Fin 576) (counts : List (BitVec 16)) (rsv : Bool)
  /-- CREDIT_SEND (R93): LIMIT has advanced by 64 units, or 64 ns have passed since an unsent advance, or 1 µs since
  the last one, and a CREDIT block is sent. -/
  | creditSend (p : Plane) (i : Fin 577)
  /-- SENT_SEND (R93): One microsecond has passed since the last SENT block, and a SENT block is sent. -/
  | sentSend (p : Plane) (i : Fin 576)
  /-- PACKET_TRANSMIT (R157): The egress scheduler chooses a packet whose credit and units are ready, reserves its
  credit and starts its transmission. -/
  | packetTransmit (p : Plane) (code : Code)
  /-- WH_FALLBACK (R97): In flow mode 2, a packet has waited WH_WAIT for credit at the head of the port and is sent
  in wormhole mode. -/
  | whFallback (p : Plane) (i : Fin 576) (vc : Fin 9)
  /-- WH_TRUNCATE (R98): A wormhole packet has stalled for WH_MAX without sending a unit and is ended with an ABORT
  SOP. -/
  | whTruncate (p : Plane) (i : Fin 576)
  /-- ESCAPE_MOVE (R125): A unicast packet has waited ESC_WAIT at the head of its traffic-VC queue and moves to the
  escape VC. -/
  | escapeMove (p : Plane) (slice : Fin 46) (code : Code) (vc : Fin 9)
  /-- CELL_TIME (R151): Each cell time the matcher runs three request, grant and accept rounds and assigns the
  matched cells to spine elements. -/
  | cellTime (p : Plane)
  /-- CELL_ARRIVAL (R156): A cell arrives at an egress resequencer and is released in PSEQ order, or a HEC error
  declares it lost. -/
  | cellArrival (p : Plane) (src dst : Fin 46) (pseq : BitVec 12) (hec : Bool)
  /-- RESEQ_LOSS (R156): A later PSEQ has waited 4 cell times, the missing cell is declared lost and the packets
  with units in it are discarded. -/
  | reseqLoss (p : Plane) (src dst : Fin 46)
  /-- SPINE_FAIL (R140): A spine element fails and is removed within one cell time, lowering n and raising
  SPINE_DEGRADED. -/
  | spineFail (p : Plane) (elem : Fin 24) (lost : List CellId)
  /-- PG_FAIL (R24): A PG fails, its lanes are squelched, its ports go down and its queues are flushed. -/
  | pgFail (p : Plane) (g : Fin 18)
  /-- CHIPLET_FAIL (R24): An edge chiplet fails, and both of its PGs are taken out as for a PG failure. -/
  | chipletFail (p : Plane) (c : Fin 9)
  /-- ENGINE_FAIL (R24): A collective, dispatch or memory engine fails, its groups or epochs abort and further
  packets for it are discarded. -/
  | engineFail (p : Plane) (e : Eng)
  /-- HOLD_DOWN_END (R161): HOLD_DOWN expires for a returned port or Halyard, the code becomes available and
  PORT_AVAILABLE is raised. -/
  | holdDownEnd (p : Plane) (code : Code)
  /-- HD_CLR (R161): A write of HD_CLR ends hold-down in the cycle written and raises PORT_AVAILABLE. -/
  | hdClr (p : Plane) (code : Code)
  /-- HALYARD_FLIT (R163): A Halyard flit is received in TX_SEQ order and accepted, or a CRC error discards it with
  a NAK that triggers a resend. -/
  | halyardFlit (p : Plane) (f : HalFlit)
  /-- MIRROR_RECORD (R168): A record leaves the mirror staging store for CAPQ at no more than RATE records per µs. -/
  | mirrorRecord (p : Plane)
  /-- WINDOWED_ARRIVAL (R103): A windowed packet arrives at a destination and is discarded, performed or held as a
  Pennant, and the window base advances. -/
  | windowedArrival (p : Plane) (e : Endpt) (pkt : Packet)
  /-- HOLE_SKIP (R105): A window's stall timer reaches HOLE_T, the missing WSEQs are taken as lost and the held
  Pennants within 511 fail. -/
  | holeSkip (p : Plane) (e : Endpt) (src : EpId)
  /-- PENNANT_DEADLINE (R105): A held Pennant's deadline passes, and it fails with ORDER_LOST. -/
  | pennantDeadline (p : Plane) (e : Endpt) (src : EpId) (wseq : BitVec 16)
  /-- WIN_SYNC (R102): A WIN_SYNC is received, held Pennants are completed unperformed, the window is cleared and
  rebased, and a CPL OK is returned. -/
  | winSync (p : Plane) (e : Endpt) (pkt : Packet)
  /-- ACK_RECEIVED (R100): An ACK is received at a source, raising the window base it may send to and applying any
  ECE decrease of cwnd. -/
  | ackReceived (p : Plane) (e : Endpt) (pkt : Packet)
  /-- ACK_DELAY (R101): ACK_DELAY passes after an unacknowledged base advance, and the destination sends an ACK. -/
  | ackDelay (p : Plane) (e : Endpt) (src : EpId)
  /-- CPL_RECEIVED (R111): A CPL is received and completes its outstanding request, or is discarded as stale. -/
  | cplReceived (p : Plane) (e : Endpt) (pkt : Packet)
  /-- OP_TIMEOUT (R111): No CPL arrives within OP_TIMEOUT, and the source completes the request locally with status
  TIMEOUT. -/
  | opTimeout (p : Plane) (e : Endpt) (tag : BitVec 16)
  /-- TAG_RELEASE (R111): A further OP_TIMEOUT after a timeout passes, and the TAG may be reused. -/
  | tagRelease (p : Plane) (e : Endpt) (tag : BitVec 16)
  /-- CWND_INCREASE (R109): INC_INT passes with no ECE from a destination, and cwnd for it increases by INC up to
  W_SRC. -/
  | cwndIncrease (p : Plane) (e : Endpt) (dst : EpId)
  /-- DRAIN_START (R131): A write of START begins a drain, marks the packets inside as old and flips the non-
  awaiting ports to new. -/
  | drainStart (p : Plane) (id : BitVec 16)
  /-- DRAIN_ABORT (R133): A write of ABORT ends the running drain, flips the remaining ports and raises
  DRAIN_ABORTED. -/
  | drainAbort (p : Plane)
  /-- DRAIN_MARKER (R134): A drain marker is received on a fabric port, recorded in RTE_MARK_RX and flips an
  awaiting port. -/
  | drainMarker (p : Plane) (i : Fin 576) (id : BitVec 16)
  /-- ROUTE_DRAINED (R131): Every port has flipped and no old packet is left, so the drain is done, ROUTE_DRAINED is
  raised and markers are sent. -/
  | routeDrained (p : Plane)
  /-- CMAP_SAMPLE (R136): Every 1.024 µs each plane samples the egress queue depth of each port and Halyard into its
  bins. -/
  | cmapSample (p : Plane)
  /-- CMAP_INTERVAL (R136): A MAP_INT interval ends, the congestion map entries are written, RTE_CMAP_SEQ increments
  and the entries are pushed to CAPQ if enabled. -/
  | cmapInterval (p : Plane)
  /-- CONTRIB (R189): A CONTRIB is received by a collective engine, checked against credit and epoch, and folded
  into its chunk's slots. -/
  | contrib (p : Plane) (pkt : Packet) (ecc : List EccHit)
  /-- PARTIAL (R189): A PARTIAL from a lower engine or a forward return is received and folded into its chunk or
  relayed. -/
  | partialIn (p : Plane) (pkt : Packet) (ecc : List EccHit)
  /-- CHUNK_FREED (R187): A chunk's partial or result has been handed to the switch core, so the chunk is freed,
  BASE advances and an epoch may close. -/
  | chunkFreed (p : Plane) (g : Fin 1024) (chunk : BitVec 32)
  /-- SLOT_CRED (R188): A SLOT_CRED is received from a node's parent, raising the LIMIT that releases waiting
  partials. -/
  | slotCred (p : Plane) (pkt : Packet)
  /-- SLOT_CRED_DELAY (R188): An advance of LIMIT has been unsent for 1 µs, and SLOT_CRED is sent to each child. -/
  | slotCredDelay (p : Plane) (g : Fin 1024)
  /-- SLOT_CRED_REFRESH (R188): CRED_REFRESH passes in an open epoch, and SLOT_CRED is sent to each child again. -/
  | slotCredRefresh (p : Plane) (g : Fin 1024)
  /-- COL_CTL (R199): A COL_CTL ABORT is received from the parent or a child, and the group aborts with code PEER. -/
  | colCtl (p : Plane) (pkt : Packet)
  /-- COLLECTIVE_TIMEOUT (R197): A group's collective timer reaches GRP_TMO while the node holds open work, and the
  group aborts with TIMEOUT. -/
  | collectiveTimeout (p : Plane) (g : Fin 1024)
  /-- GROUP_ACTIVATE (R196): A write of ACTIVATE allocates the group's ring and opens epoch 0, or sets REJ with its
  REJ_CODE. -/
  | groupActivate (p : Plane) (g : Fin 1024)
  /-- GROUP_DEACTIVATE (R196): A write of DEACTIVATE discards what the group holds, frees its allocation and sets
  IDLE. -/
  | groupDeactivate (p : Plane) (g : Fin 1024)
  /-- GROUP_ABORT (R198): A write of ABORT aborts an ACTIVE group with code SOFTWARE. -/
  | groupAbort (p : Plane) (g : Fin 1024)
  /-- REFORM (R200): A write of REFORM restarts an ABORTED group in the next epoch with an empty ring and SLOT_CRED. -/
  | reform (p : Plane) (g : Fin 1024)
  /-- ENGINE_STATE_FLIT (R201): A collective engine-state control flit is received, and groups with XPLANE = 1 abort
  if the other engine is down. -/
  | engineStateFlit (p : Plane) (up : Bool)
  /-- ENGINE_STATE_SEND (R201): The engine state changes or 10 µs pass, and a collective control flit is sent over
  Halyard. -/
  | engineStateSend (p : Plane)
  /-- TOKEN (R210): A TOKEN fragment is received, checked, and its choices are decided on the first fragment and
  sent as EXPERT_IN. -/
  | token (p : Plane) (pkt : Packet) (ecc : List EccHit)
  /-- EXPERT_OUT (R217): An EXPERT_OUT is received, checked and folded into the token's gate-weighted accumulator,
  completing rounds and fragments. -/
  | expertOut (p : Plane) (pkt : Packet) (ecc : List EccHit)
  /-- LAYER_TIMEOUT (R225): A layer's timer reaches LYR_TMO in an open epoch, and the epoch aborts with TIMEOUT. -/
  | layerTimeout (p : Plane) (l : Fin 64)
  /-- LAYER_ACTIVATE (R224): A write of ACTIVATE reserves the layer's records, slots and queue and opens epoch 0, or
  sets REJ. -/
  | layerActivate (p : Plane) (l : Fin 64)
  /-- LAYER_DEACTIVATE (R224): A write of DEACTIVATE discards what the layer holds, frees its reservation and sets
  IDLE. -/
  | layerDeactivate (p : Plane) (l : Fin 64)
  /-- LAYER_ABORT (R226): A write of ABORT aborts an ACTIVE layer with code SOFTWARE. -/
  | layerAbort (p : Plane) (l : Fin 64)
  /-- LAYER_REFORM (R228): A write of REFORM restarts an ABORTED layer in the next epoch and sends EPOCH_OPEN. -/
  | layerReform (p : Plane) (l : Fin 64)
  /-- PUT (R241): A PUT is checked, looked up in the window map and written to local memory or forwarded. -/
  | put (p : Plane) (pkt : Packet) (ecc : List EccHit)
  /-- GET (R241): A GET is checked, looked up and read from local memory or forwarded, and its CPL carries the data. -/
  | get (p : Plane) (pkt : Packet) (ecc : List EccHit)
  /-- PUT_RED (R245): A PUT_RED combines its elements with the stored elements under ROP and replaces them. -/
  | putRed (p : Plane) (pkt : Packet) (ecc : List EccHit)
  /-- COPY (R246): A COPY is checked and started as a series of GET and PUT pieces. -/
  | copy (p : Plane) (pkt : Packet)
  /-- COPY_PIECE_DONE (R246): A COPY piece has been written, the next piece starts, and the COPY completes once
  every piece is done or one has failed. -/
  | copyPieceDone (p : Plane) (id piece : Nat) (ecc : List EccHit)
  /-- FADD_I (R244): FADD_I adds its operand to the aligned word modulo its width and returns the prior value. -/
  | faddI (p : Plane) (pkt : Packet) (ecc : List EccHit)
  /-- FADD_F (R244): FADD_F adds its operand to the word as FP32 or FP64 and returns the prior value. -/
  | faddF (p : Plane) (pkt : Packet) (ecc : List EccHit)
  /-- CAS (R244): CAS writes its operand only when the word equals the compare value and returns the prior value. -/
  | cas (p : Plane) (pkt : Packet) (ecc : List EccHit)
  /-- SWAP (R244): SWAP writes its operand and returns the prior value. -/
  | swap (p : Plane) (pkt : Packet) (ecc : List EccHit)
  /-- AMAX (R244): AMAX keeps the larger of the word and the operand under ATYPE and returns the prior value. -/
  | amax (p : Plane) (pkt : Packet) (ecc : List EccHit)
  /-- AMIN (R244): AMIN keeps the smaller of the word and the operand under ATYPE and returns the prior value. -/
  | amin (p : Plane) (pkt : Packet) (ecc : List EccHit)
  /-- FWD_TIMEOUT (R248): A forwarded operation's CPL does not arrive within OP_TIMEOUT, and its proxy entry is
  freed silently. -/
  | fwdTimeout (p : Plane) (tag : BitVec 16)
  /-- SCRUB_TICK (R254): Patrol scrubbing reads the next SRAM word or LPDDR5X line, corrects what it can and handles
  uncorrectable errors. -/
  | scrubTick (p : Plane) (lp : Bool) (unit : Fin 16) (addr : BitVec 40) (sub col : Byte) (err : BitVec 2)
  /-- COLUMN_REPAIR_DONE (R255): A column repair's copy to a spare finishes, the column is remapped and MEM_REPAIR
  is raised. -/
  | columnRepairDone (p : Plane) (t : Fin 16) (sub col : Byte)
  /-- TILE_FAIL (R257): An SRAM tile fails, its owners abort with MEM_ERROR, its blocks are withdrawn and
  MEM_TILE_FAIL is raised. -/
  | tileFail (p : Plane) (t : Fin 16)
  /-- LP_DEVICE_FAIL (R257): An LPDDR5X device fails, its owners abort with MEM_ERROR, its blocks are withdrawn and
  MEM_LP_FAIL is raised. -/
  | lpDeviceFail (p : Plane) (m : Fin 16)
  /-- SRAM_ZERO_DONE (R234): Zeroing of the deep-buffer region and SRAM pool finishes, and SRAM_ZERO reads 1. -/
  | sramZeroDone (p : Plane)
  /-- LP_INIT_DONE (R236): Training and PPR of a named LPDDR5X device finish, and it enters service or reads FAIL. -/
  | lpInitDone (p : Plane) (m : Fin 16) (ok : Bool) (bad : BitVec 8)
  /-- LP_ZERO_DONE (R236): Zeroing of the LPDDR5X pool finishes on every device in service, and LP_ZERO reads 1. -/
  | lpZeroDone (p : Plane)
  /-- PPR_START (R256): A write of START to MEM_PPR_CTL repeats initialisation and PPR of a device that is not in
  service, or sets REJ. -/
  | pprStart (p : Plane) (m : Fin 16)
  /-- GL_DETECT_SENSE (R262): A Gnotric Link half senses receivers on at least 4 lanes and leaves Detect for Train. -/
  | glDetectSense (half : Plane) (mask : Byte)
  /-- GL_STAGE_TIMEOUT (R263): A Gnotric Link half's stage exceeds its limit and fails, restarting at Detect after 1
  ms or entering Failed. -/
  | glStageTimeout (half : Plane)
  /-- GL_INIT_FLIT (R264): INIT flits are received, and after 8 in a row each way the half enters Active with its
  initial credits. -/
  | glInitFlit (half : Plane) (f : GlFlit)
  /-- GL_FLIT (R265): A Gnotric Link flit is received in order with its slots and credits, or a CRC error triggers
  NAK and replay. -/
  | glFlit (half : Plane) (f : GlFlit)
  /-- GL_LANE_FAIL (R263): A lane of an Active half fails, and the half changes to 4 lanes or leaves Active. -/
  | glLaneFail (half : Plane) (lane : Fin 8)
  /-- GL_HALF_DOWN (R271): A half leaves Active, raises GL_HALF_DOWN, drops its lines to I and reissues its
  outstanding requests on the other half. -/
  | glHalfDown (half : Plane)
  /-- GL_RETRAIN (R263): A write of RETRAIN restarts the half at Detect and clears its retry count. -/
  | glRetrain (half : Plane)
  /-- GL_DATA (R269): A DATA message answers a RD_S or RD_NC, bringing a doorbell line into S or a descriptor or
  data line to the device. -/
  | glData (half : Plane) (m : GlMsg)
  /-- GL_CMP (R270): A CMP completes a WR_PUSH or EVICT, making the written ring entry valid. -/
  | glCmp (half : Plane) (m : GlMsg)
  /-- SNP_INV (R269): An SNP_INV is received, answered with SNP_RSP within 50 ns, and for a doorbell line followed
  by a RD_S. -/
  | snpInv (half : Plane) (m : GlMsg)
  /-- MMIO_RD (R272): An MMIO_RD reads a register of either plane and is answered with MMIO_RSP. -/
  | mmioRd (half : Plane) (m : GlMsg)
  /-- MMIO_WR (R272): An MMIO_WR writes a register of either plane and is answered with MMIO_RSP once performed. -/
  | mmioWr (half : Plane) (m : GlMsg)
  /-- NOP (R279): The NOP command does nothing and writes its completion. -/
  | nop (p : Plane) (h : CmdHead)
  /-- REG_WR (R279): The REG_WR command writes its register pairs in order and writes its completion. -/
  | regWr (p : Plane) (h : CmdHead) (pairs : List (Word × Word))
  /-- REG_RD (R279): The REG_RD command reads consecutive registers, pushes them to host memory and writes its
  completion. -/
  | regRd (p : Plane) (h : CmdHead) (off words : Word) (haddr : BitVec 64) (fault : Option Nat)
  /-- BULK_WR (R279): The BULK_WR command reads words from host memory, writes them to consecutive registers and
  writes its completion. -/
  | bulkWr (p : Plane) (h : CmdHead) (off words : Word) (haddr : BitVec 64) (data : List Word) (fault : Bool)
  /-- MODE_SET (R289): The MODE_SET command writes one function's mode bit and raises MODE_CHANGE. -/
  | modeSet (p : Plane) (h : CmdHead) (func mode : Byte)
  /-- CWND_SET (R289): The CWND_SET command sets cwnd for a destination in host-assisted congestion mode, or is
  REJECTED. -/
  | cwndSet (p : Plane) (h : CmdHead) (dst : EpId) (cwnd : BitVec 16)
  /-- ADAPT (R279): The ADAPT command sends one coefficient request on a lane in Train, or is REJECTED. -/
  | adapt (p : Plane) (h : CmdHead) (lane : BitVec 16) (reqA reqB ctl : Byte)
  /-- ADAPT_DONE (R279): The far end reports on an ADAPT request, or 10 µs pass, and the command's completion is
  written. -/
  | adaptDone (p : Plane) (report : Option (BitVec 32))
  /-- RING_ENABLE (R273): Setting a ring's EN bit resets its indices and arming value and starts holding its
  doorbell line. -/
  | ringEnable (p : Plane) (r : Ring)
  /-- RING_DISABLE (R280): Clearing a ring's EN bit stops it, completes remaining commands with FLUSHED for CMDQ and
  releases unused doorbell lines. -/
  | ringDisable (p : Plane) (r : Ring)
  /-- STATUS_LINE_WRITE (R278): An index has changed and STAT_INT has passed, or an interrupt is due, and the status
  line is pushed. -/
  | statusLineWrite (p : Plane)
  /-- INTR_COALESCE (R287): An armed ring holds COAL_CNT unsignalled entries, COAL_TIME passes or an INTR command
  completes, and the ring sends an INTR. -/
  | intrCoalesce (p : Plane) (r : Ring)
  /-- EVENT_RAISE (R282): An event is written to EVTQ through the event store, held back under EVT_HOLD or lost when
  the store is full. -/
  | eventRaise (p : Plane) (code : BitVec 16) (unit : Word) (args : List Word)
  /-- EVT_HOLD_END (R282): EVT_HOLD ends for an H-code pair, a summary entry with REPEAT is written if any
  occurrences were held, and the tracker is freed. -/
  | evtHoldEnd (p : Plane) (code : BitVec 16) (unit : Word)
  /-- FUNC_MODE_WRITE (R289): A write to HIF_FUNC_MODE changes function modes and raises MODE_CHANGE for each
  changed bit. -/
  | funcModeWrite (p : Plane) (v : Word)
  /-- HOST_WATCHDOG (R290): No host activity is seen for HOST_WDT while a function is host-assisted, so every mode
  bit clears and HOST_LOST is raised. -/
  | hostWatchdog (p : Plane)
  /-- HOST_LINK_LOST (R290): Both Gnotric Link halves have been out of Active for 1 ms, so every mode bit clears and
  HOST_LOST is raised. -/
  | hostLinkLost (p : Plane)
  /-- HOST_BACK (R292): A half enters Active and host activity is then seen, so the Canton raises HOST_BACK and
  notifies the rack manager. -/
  | hostBack (p : Plane)
  /-- HEARTBEAT_SEND (R295): Every 100 µs each Canton sends a heartbeat control flit over Halyard. -/
  | heartbeatSend (p : Plane)
  /-- HEARTBEAT (R295): A heartbeat is received, updating journal acknowledgment, and one with ROLE 0 from the
  active Canton triggers a takeover. -/
  | heartbeat (p : Plane) (role : BitVec 2) (seq : BitVec 16) (jrn : BitVec 32) (time : BitVec 64) (health : BitVec 16)
  /-- HEARTBEAT_MISS (R298): HB_MISS successive heartbeats of the active Canton are missing with Halyard up, and the
  standby takes over or raises CANTON_LOST. -/
  | heartbeatMiss (p : Plane)
  /-- CANTON_CLAIM (R299): With no active Canton, a booted and eligible Canton takes the role by asserting the
  fence. -/
  | cantonClaim (p : Plane)
  /-- JOURNAL_RECORD (R296): A journal record from the active Canton is received and applied to the standby's state. -/
  | journalRecord (p : Plane) (seq : BitVec 32) (r : JournalRec)
  /-- HEALTH_REPORT (R297): Every 100 ms each Canton forms a health report, and shadow disagreement in 3 polls sets
  ACTIVE_SUSPECT and raises HEALTH_FAIL. -/
  | healthReport (p : Plane) (agree flashOk : Bool)
  /-- SELF_TEST_TICK (R297): The standby runs the next segment of its SRAM march test or its periodic known-answer
  test. -/
  | selfTestTick (p : Plane) (kat ok : Bool)
  /-- CANTON_WATCHDOG (R298): The Canton watchdog expires and resets the Canton, which boots again. -/
  | cantonWatchdog (p : Plane)
  /-- CANTON_BOOT (R304): A Canton's boot ROM checks the image slots, records FW_MEAS and starts the firmware, or
  stays in the ROM. -/
  | cantonBoot (p : Plane) (flash : Option FlashView)
  /-- CANTON_BOOT_DONE (R298): A Canton finishes booting and testing itself and becomes standby, or takes the role
  it holds. -/
  | cantonBootDone (p : Plane) (ok : Bool) (mc : Option Image)
  /-- HANDOVER (R301): A signed HANDOVER message or a write of CAN_CTL.HANDOVER starts a planned move of the active
  role to the standby. -/
  | handover (p : Plane) (req : Option MgmtReq)
  /-- HANDOVER_ACK (R301): The standby acknowledges the last journal record of a handover and asserts the fence to
  take the role. -/
  | handoverAck (p : Plane)
  /-- HEALTH_GET (R297): A HEALTH_GET request is answered with both health reports. -/
  | healthGet (req : MgmtReq)
  /-- INVENTORY_GET (R317): An INVENTORY_GET request is answered with the inventory records, gathered from every
  member by the tray master. -/
  | inventoryGet (req : MgmtReq) (members : List (BitVec 4 × Bytes))
  /-- SENSOR_GET (R320): A SENSOR_GET request is answered with the requested raw sensor readings. -/
  | sensorGet (req : MgmtReq)
  /-- ATTEST (R307): An ATTEST request is answered with an attestation report signed with the identity key. -/
  | attest (req : MgmtReq)
  /-- NEIGHBOUR_GET (R333): A NEIGHBOUR_GET request is answered with the whole neighbour report. -/
  | neighbourGet (req : MgmtReq)
  /-- CAP_SET (R326): A signed CAP_SET sets the rack manager's device cap or the tray cap. -/
  | capSet (req : MgmtReq)
  /-- POWER_SET (R327): A signed POWER_SET sets RM_LIMIT and may start a power-state change or assert PWR_OFF_REQ. -/
  | powerSet (req : MgmtReq)
  /-- FW_WRITE (R309): A signed FW_WRITE writes image bytes to the non-preferred slot of both flashes. -/
  | fwWrite (req : MgmtReq)
  /-- FW_ACTIVATE (R311): A signed FW_ACTIVATE makes the written slot preferred, restarts the standby on it and
  hands over. -/
  | fwActivate (req : MgmtReq)
  /-- SVN_COMMIT (R305): A signed SVN_COMMIT raises an OTP anti-rollback counter to the running image's SVN. -/
  | svnCommit (req : MgmtReq)
  /-- KEY_REVOKE (R305): A signed KEY_REVOKE revokes a key slot if its statement is signed by another unrevoked
  slot. -/
  | keyRevoke (req : MgmtReq) (signer : Option (Fin 4))
  /-- OWNER_SET (R309): A signed OWNER_SET writes OWNER_FP once from the key that signed it. -/
  | ownerSet (req : MgmtReq)
  /-- MASTER_HANDOVER (R315): A signed MASTER_HANDOVER moves the tray master role to the named slot. -/
  | masterHandover (req : MgmtReq)
  /-- MBOX_SEND (R313): A write of SEND passes the request in CAN_MBOX_TX to the active Canton, which answers in
  CAN_MBOX_RX and sets DONE. -/
  | mboxSend (p : Plane)
  /-- CASCADE_MSG (R314): A cascade frame is received and delivered if addressed to the device or broadcast, and
  forwarded out of the opposite side otherwise. -/
  | cascadeMsg (side : Side) (f : CascFrame)
  /-- ANNOUNCE (R315): An ANNOUNCE frame is received, and duplicate slots or two masters are resolved. -/
  | announce (slot : BitVec 3) (serial : BitVec 64) (eligible master : Bool)
  /-- MEMBER_LOST (R334): A member's ANNOUNCE frames have been missing for 50 ms, and the tray master reports
  MEMBER_LOST. -/
  | memberLost (slot : BitVec 3)
  /-- TRAY_TIME_FRAME (R316): A TIME frame or delay echo is received on the cascade port and used to keep tray time. -/
  | trayTimeFrame (side : Side) (kind : Fin 3) (lock : Bool) (t rx : BitVec 64)
  /-- TRAY_TIME_SEND (R316): Every 1 ms the tray master sends TIME frames, and every 100 ms each hop measures its
  link delay. -/
  | trayTimeSend (ask : Bool)
  /-- PTP_MESSAGE (R316): An IEEE 1588 message is received on the management Ethernet port and updates tray time at
  the master. -/
  | ptpMessage (kind : Byte) (t rx : BitVec 64)
  /-- TRAY_CAP_SPLIT (R328): Every 100 ms the tray master divides the tray cap among members and sends each share in
  a POWER frame. -/
  | trayCapSplit (members : List (BitVec 3 × BitVec 16 × BitVec 16))
  /-- POWER_FRAME (R328): A POWER frame is received, and the member writes its share to CAP_TRAY. -/
  | powerFrame (share : BitVec 16)
  /-- SENSOR_POLL (R320): A sensor is read, fault and pair rules are applied, and warning and critical crossings
  take their actions. -/
  | sensorPoll (p : Plane) (k : Fin 119) (r : Sample)
  /-- LEAK_MEASURE (R322): Every 1 ms the leak loop resistance is measured, and three agreeing measurements change
  the loop's state. -/
  | leakMeasure (loop : Fin 4) (ohms : Option Nat)
  /-- LEAK_POWER_OFF (R322): LEAK_OFF_S seconds after a loop turns WET, PWR_OFF_REQ is asserted. -/
  | leakPowerOff (loop : Fin 4)
  /-- THROTTLE_STEP (R329): Every 5 µs the throttle compares the plane's average power with PLANE_CAP and raises or
  lowers its level. -/
  | throttleStep (p : Plane)
  /-- SHARE_UPDATE (R329): Every 10 ms the active Canton sets each plane's SHARE by demand and recomputes the floor. -/
  | shareUpdate (hoist fly : BitVec 16)
  /-- CAP_UNMEET (R330): A cap is written below the floor, or a plane stays above PLANE_CAP at level 7 for 100 µs,
  so UNMEET is set and CAP_UNMEET raised. -/
  | capUnmeet (p : Plane)
  /-- CAP_HOST_WRITE (R326): A write of CAP_HOST sets fabric software's cap, which takes effect in both planes
  within 1 µs. -/
  | capHostWrite (p : Plane) (v : Word)
  /-- HOST_REQ_WRITE (R327): A write of HOST_REQ requests a power state, which is taken up to RM_LIMIT or held with
  REJ and POWER_HELD. -/
  | hostReqWrite (p : Plane) (v : Word)
  /-- EPO_ASSERT (R331): EPO_N asserts or 4 EPO codes arrive, so every lane is squelched, the cores are held,
  PWR_OFF_REQ is asserted and EPO codes are sent. -/
  | epoAssert (src : EpoSource)
  /-- THERMAL_TRIP (R332): A junction, chiplet or tile reads 110 °C for 100 µs, and the device acts as for EPO, sets
  TRIP and RM_LIMIT Off. -/
  | thermalTrip (p : Plane) (k : Fin 41)
  /-- COMMIT (R344): A write of COMMIT starts a commit, setting BUSY and starting the consistency check, or sets REJ
  while busy. -/
  | commit (p : Plane)
  /-- DISCARD (R341): A write of DISCARD copies every committed value into its staged copy. -/
  | discard (p : Plane)
  /-- UNIT_RETIRE (R359): A write of RETIRE takes a PG, chiplet, tile or spine element out of service as if it had
  failed, or sets REJ. -/
  | unitRetire (p : Plane) (v : Word)
  /-- UNIT_TEST (R359): A write of TEST starts the self-test of a unit out of service, or sets REJ. -/
  | unitTest (p : Plane) (v : Word)
  /-- UNIT_TEST_DONE (R359): A unit's self-test ends, returning it to service with UNIT_RESTORED or leaving it out
  with UNIT_TEST_FAIL. -/
  | unitTestDone (p : Plane) (pass : Bool)
  /-- ENGINE_GATE (R357): A unit with no condition to stay powered has seen no traffic for 1 ms and is gated. -/
  | engineGate (p : Plane) (u : GateUnit)
  /-- UNIT_WAKE (R357): A gated PG, quad or engine is needed and wakes, applying new microcode, and waiting packets
  proceed. -/
  | unitWake (p : Plane) (u : GateUnit)
  /-- FREEZE (R361): A write of FREEZE stops the written plane's clocks at the next safe edge and the other plane's
  through a control flit. -/
  | freeze (p : Plane)
  /-- FREEZE_PIN (R361): FREEZE_N asserts, or freeze codes arrive on the cascade port, and both planes stop at the
  next safe edge. -/
  | freezePin (casc : Option Side)
  /-- ERROR_LOGGED (R368): An error is logged in the ring, folded, suppressed or lost to overflow, and the first-
  error capture is updated. -/
  | errorLogged (p : Plane) (code : Byte) (unit info0 info1 info2 : Word)
  /-- LOG_RP_WRITE (R368): A write of EPC_LOG_RP consumes log entries and makes room. -/
  | logRpWrite (p : Plane) (v : Word)
  /-- CONFIG_ECC_ERROR (R366): An uncorrectable error in a committed configuration word logs code 0x0F and makes the
  entry act as invalid. -/
  | configEccError (p : Plane) (off : BitVec 26)
  /-- FT_CFG_WRITE (R375): A write of TST_FT_CFG that is the first or changes SRC makes the plane take the named
  time source. -/
  | ftCfgWrite (p : Plane) (v : Word)
  /-- FT_SET (R375): A write of TST_FT_SET's high word loads the fabric time counter while the plane is a local
  root. -/
  | ftSet (p : Plane) (v : BitVec 64)
  /-- SYNC_SEND (R378): Every SYNC_INT a DOWN port in Active sends a SYNC with its departure time. -/
  | syncSend (p : Plane) (i : Fin 576)
  /-- DREQ_SEND (R378): Every 1 ms an UP port sends a DREQ. -/
  | dreqSend (p : Plane) (i : Fin 576)
  /-- SYNC (R379): A SYNC is received and, if accepted, steps the counter or adjusts FREQ, locking after 16 close
  SYNCs. -/
  | sync (p : Plane) (i : Fin 576) (b : TimeBlock)
  /-- DREQ (R378): A DREQ is received on a DOWN port and answered with a DRESP within 1 µs. -/
  | dreq (p : Plane) (i : Fin 576) (b : TimeBlock)
  /-- DRESP (R379): A DRESP is received on an UP port and updates the mean path delay. -/
  | dresp (p : Plane) (i : Fin 576) (b : TimeBlock)
  /-- TIME_SOURCE_LOST (R380): The selected time source's port leaves Active or gives no accepted SYNC for 4 ×
  SYNC_INT, and the plane switches to backup or holds over. -/
  | timeSourceLost (p : Plane)
  /-- TIME_SOURCE_RETURN (R380): The primary port has delivered accepted SYNCs for 1 ms, and the plane returns to
  it. -/
  | timeSourceReturn (p : Plane)
  /-- TIME_FLIT_SEND (R381): Every 1 µs a plane sends its time in a Halyard control flit. -/
  | timeFlitSend (p : Plane)
  /-- TIME_FLIT (R381): A Halyard time flit is received by a plane with SRC 2 and applied as a SYNC with zero delay. -/
  | timeFlit (p : Plane) (b : TimeBlock)
  /-- PPS_IN_EDGE (R382): A rising edge of PPS_IN aligns the counter to the nearest whole second. -/
  | ppsInEdge (p : Plane)
  /-- PPS_MISSING (R382): No PPS_IN edge arrives for 1.1 s, and the plane holds over and raises PPS_MISSING. -/
  | ppsMissing (p : Plane)
  /-- PPS_OUT (R382): Fabric time reaches a whole second, and PPS_OUT is driven high for 1 ms. -/
  | ppsOut (p : Plane)
  /-- GEN_START (R386): A START bit starts a generator stream, or is refused with REJ. -/
  | genStart (p : Plane) (g : Fin 18) (streams : BitVec 16)
  /-- GEN_STOP (R386): A STOP bit stops a running stream, which raises GEN_DONE. -/
  | genStop (p : Plane) (g : Fin 18) (streams : BitVec 16)
  /-- GEN_PACKET (R387): A stream's token bucket allows the next packet, which is formed from the template and sent,
  ending the run after COUNT packets. -/
  | genPacket (p : Plane) (g : Fin 18) (st : Fin 16)
  /-- GEP_RECEIVE (R385): A golden port's endpoint logic takes a received packet and processes it as an endpoint,
  passing test packets to the checker. -/
  | gepReceive (p : Plane) (i : Fin 576) (pkt : Packet)
  /-- CHK_CLR (R389): A write of TST_CHK_CLR frees every flow record of the PG. -/
  | chkClr (p : Plane) (g : Fin 18)
  /-- INJECT_DELAY_END (R393): A packet held by a delay injection has waited DELAY ns and proceeds. -/
  | injectDelayEnd (p : Plane) (code : Code)
  /-- FEC_INJECT (R395): With EN set, the lane corrupts codeword A of every EVERY-th pair and clears EN when LEFT
  reaches 0. -/
  | fecInject (p : Plane) (lane : Fin 576)
  /-- REFCLK_LOSS (R408): A reference clock is lost or off frequency, failing its chiplets' lanes, switching to the
  secondary or failing the plane. -/
  | refclkLoss (p : Plane) (k : Fin 4)
  /-- REFCLK_RETURN (R408): A reference clock has been within tolerance for 1 ms, and its REFCLK_OK bit sets again. -/
  | refclkReturn (p : Plane) (k : Fin 4)
  /-- SAMPLE_PRELOAD (R396): The SAMPLE/PRELOAD instruction samples pins and preloads the boundary cells. -/
  | samplePreload (cells : List Bool)
  /-- FRZ_CHAIN (R364): The FRZ_CHAIN instruction shifts out a named frozen chain, which recirculates. -/
  | frzChain (sel : BitVec 17)
  /-- FRZ_MEM (R364): The FRZ_MEM instruction reads words of a frozen memory with an incrementing address. -/
  | frzMem (sel : BitVec 64)
  /-- FRZ_REG (R364): The FRZ_REG instruction reads any register of either frozen plane without side effects. -/
  | frzReg (addr : BitVec 27)
  /-- NOTIFY_ACK (R296): The rack manager's acknowledgment of a NOTIFY arrives and the notification leaves the
  unacknowledged set kept in the journal. -/
  | notifyAck (seq : BitVec 32)
  /-- MGMT_ETH_LINK_CHANGE (R315): The management Ethernet link comes up or goes down, changing ETH_UP and the
  device's tray master eligibility. -/
  | mgmtEthLinkChange (up : Bool)
  /-- ALIGNMENT_MARKER_SEND (R38): An AM block opens every 8,192nd codeword pair, or every 128th pair during Lock,
  Exchange and after a wake, and AM_COUNT increments. -/
  | alignmentMarkerSend (p : Plane) (i : Fin 576)
  /-- ENSIGN_SEND (R47): Every 16 block positions in Exchange or Quarantine a lane sends the next ENSIGN fragment
  with its FLAG. -/
  | ensignSend (p : Plane) (lane : Fin 576)
  /-- TRAINING_FRAME_SEND (R44): Every 4,096 symbols in Train a lane sends a training frame carrying its requests,
  reports, RX_READY and SEQ. -/
  | trainingFrameSend (p : Plane) (lane : Fin 584)
  /-- BAD_OP (R279): A command with an unknown OP or an out-of-range field is completed with status BAD_OP without
  effect. -/
  | badOp (p : Plane) (h : CmdHead) (op : Byte)
  /-- MGMT_UNKNOWN (R309): A management request whose code is not in Table 10.8, or is not permitted on its
  transport, is answered UNKNOWN or DENIED. -/
  | mgmtUnknown (req : MgmtReq) (code : Byte)
  /-- HALYARD_FAIL (R166): RETRY_MAX resends make no progress, Halyard fails, code 0x240 is flushed and HALYARD_LOSS
  splits the package. -/
  | halyardFail
  /-- HALYARD_RETURN (R166): Halyard retrains by itself, enters hold-down, resumes heartbeats and ends the split. -/
  | halyardReturn
  /-- ANNOUNCE_SEND (R315): Every 10 ms each device broadcasts an ANNOUNCE frame with its slot, serial, ELIGIBLE and
  MASTER. -/
  | announceSend
  /-- MASTER_ELECTION (R315): After 100 ms of listening, or when a master stops being eligible or its announcements
  are missing for 50 ms, the lowest eligible slot becomes master. -/
  | masterElection
  /-- INVENTORY_SAVE (R317): Every 10 min, and at each orderly move to Standby or Off, the inventory is written to
  both flashes. -/
  | inventorySave
  /-- THERM_CAP_STEP (R324): Each second while a warning persists CAP_THERM is lowered, and every 10 s after
  warnings clear it is raised. -/
  | thermCapStep
  /-- EPO_RELEASE (R331): EPO_N releases and no EPO code has arrived for 10 µs, and the device stays Off with
  RM_LIMIT Off. -/
  | epoRelease
  /-- NEIGHBOUR_LOST (R334): Each 100 ms the active Canton groups LINK_DOWN events by far serial and notifies each
  group as NEIGHBOUR_LOST. -/
  | neighbourLost
  /-- NEIGHBOUR_NOTIFY (R333): The neighbour report changes, and the Canton sends the changed entries to the rack
  manager within 1 s. -/
  | neighbourNotify
  /-- VIEW_CHECK (R335): Every 100 ms the active Canton compares its view of each unit with hardware status and
  raises VIEW_DISAGREE for each difference. -/
  | viewCheck
  /-- AVS_SET (R404): On entry to Standby, and as the hottest junction crosses 30 °C or 35 °C, the active Canton
  sets the VDD_CORE regulator target. -/
  | avsSet
  /-- COMMIT_DECISION (R345): The consistency check completes, and the commit either fails with FAIL_BLOCK and
  COMMIT_FAIL or names its commit instant. -/
  | commitDecision
  /-- COMMIT_INSTANT (R346): At the commit instant every staged G value becomes committed, the derived values are
  recomputed and COMMIT_DONE is raised. -/
  | commitInstant
  /-- CFG_MEAS_DONE (R307): The active Canton finishes computing CFG_MEAS after a commit, clearing CFG_STALE. -/
  | cfgMeasDone
  /-- POWER_TRANSITION (R354): A new power target starts a transition to the adjacent state toward it. -/
  | powerTransition
  /-- POWER_STATE (R355): A power transition reaches its state, POWER_STATE is raised and any pending target starts
  the next transition. -/
  | powerState
  /-- PWRGD_LOSS (R406): PWRGD deasserts for 200 ns, or a main rail is below critical for 2 µs, and the device goes
  to Off within 1 µs. -/
  | pwrgdLoss
  /-- PWRGD_ASSERT (R406): PWRGD asserts, and the device passes from Off to Standby and on to the state of its
  limits. -/
  | pwrgdAssert
  /-- AON_CLK_LOSS (R408): AON_CLK is lost, AON_OK clears and the always-on islands run on the internal oscillator. -/
  | aonClkLoss
  /-- EXTEST (R397): The EXTEST instruction drives and captures pins through the boundary cells while RESET_N is
  asserted. -/
  | extest
  /-- IDCODE (R396): The IDCODE instruction returns 0x1115_2593. -/
  | idcode
  /-- CLAMP (R397): The CLAMP instruction holds pins from the boundary cells with BYPASS selected while RESET_N is
  asserted. -/
  | clamp
  /-- HIGHZ (R397): The HIGHZ instruction places pins at high impedance while RESET_N is asserted. -/
  | highz
  /-- EXTEST_PULSE (R397): The EXTEST_PULSE instruction tests AC-coupled lanes under IEEE 1149.6 while RESET_N is
  asserted. -/
  | extestPulse
  /-- EXTEST_TRAIN (R397): The EXTEST_TRAIN instruction tests AC-coupled lanes with pulse trains under IEEE 1149.6
  while RESET_N is asserted. -/
  | extestTrain
  /-- BYPASS (R396): The BYPASS instruction, or any unassigned code, selects the one-bit bypass register. -/
  | bypass
  /-- FRZ_STATUS (R364): The FRZ_STATUS instruction shifts out the freeze status and EPC_FREEZE_TIME. -/
  | frzStatus
  /-- FRZ_DIR (R364): The FRZ_DIR instruction shifts out the directory of scan chains. -/
  | frzDir
  /-- RESET_ASSERT (R363): RESET_N asserts, holding the logic and Cantons in reset and ending any freeze. -/
  | resetAssert
  /-- STANDBY_SUPPLY_LOSS (R350): The standby supply is lost, resetting the always-on monitors, the Cantons and all
  state. -/
  | standbySupplyLoss
  /-- CORE_PLL_LOCK (R352): The core PLL and Halyard clock lock after reset, CORE_LOCK sets, CORE_MHZ reads 0x0640
  and a pending FREEZE_N takes effect. -/
  | corePllLock
  /-- AON_CLK_RETURN (R408): AON_CLK returns, AON_OK sets again and the always-on islands leave the internal
  oscillator. -/
  | aonClkReturn
  /-- INVENTORY_MINUTE_COUNT (R317): Every minute the powered-hours counter and the per-lane active-hours counters
  of the inventory are advanced. -/
  | inventoryMinuteCount
  deriving DecidableEq, Repr

end Sys2Proof
end

