-- ==== Sys2Proof/Machine/Bits.lean ====
section
/-! DEFINITION. Bit fields of numbers, byte orders, and the two checks the wire formats use: the 16-bit HCRC (R76) and
the CRC-32 (R77). A word is handled as a number here, so that a field read after a field write is plain arithmetic. -/

namespace Sys2Proof.Machine

/-- Bits `hi` to `lo` of `n`. -/
def bits (hi lo n : Nat) : Nat := n / 2 ^ lo % 2 ^ (hi + 1 - lo)

/-- Bit `i` of `n`. -/
def bit (i n : Nat) : Bool := n / 2 ^ i % 2 == 1

/-- A number for a truth value. -/
def b2n (b : Bool) : Nat := if b then 1 else 0

/-- `n` with bits `hi` to `lo` replaced by the low bits of `v`. -/
def setBits (hi lo n v : Nat) : Nat :=
  n / 2 ^ (hi + 1) * 2 ^ (hi + 1) + v % 2 ^ (hi + 1 - lo) * 2 ^ lo + n % 2 ^ lo

/-- `n` with bit `i` set to `b`. -/
def setBit (i n : Nat) (b : Bool) : Nat := setBits i i n (b2n b)

/-- The number with ones at the positions below `n` where `f` holds. -/
def maskOf (n : Nat) (f : Nat → Bool) : Nat := (List.range n).foldl (fun a i => if f i then a + 2 ^ i else a) 0

/-- How many of the bits below `n` are set. -/
def popcount (n x : Nat) : Nat := ((List.range n).filter (fun i => bit i x)).length

/-- The positions below `n` of the set bits, rising. -/
def onesOf (n x : Nat) : List Nat := (List.range n).filter (fun i => bit i x)

/-- Bytes to a number, first byte least significant. -/
def leNat : List (BitVec 8) → Nat
  | [] => 0
  | b :: bs => b.toNat + 256 * leNat bs

/-- The `n` bytes of a number, least significant first. -/
def leBytes : Nat → Nat → List (BitVec 8)
  | 0, _ => []
  | n + 1, x => BitVec.ofNat 8 x :: leBytes n (x / 256)

/-- Bytes to a number, first byte most significant. -/
def beNat (bs : List (BitVec 8)) : Nat := leNat bs.reverse

/-- The `n` bytes of a number, most significant first. -/
def beBytes (n x : Nat) : List (BitVec 8) := (leBytes n x).reverse

/-- `n` bytes of a list from `o`, filled with zeros past its end. -/
def slice (o n : Nat) (bs : List (BitVec 8)) : List (BitVec 8) :=
  let t := (bs.drop o).take n
  t ++ List.replicate (n - t.length) 0

/-- The list with `src` written over it from position `o`. -/
def overlay (o : Nat) (src dst : List (BitVec 8)) : List (BitVec 8) :=
  slice 0 o dst ++ src ++ dst.drop (o + src.length)

/-- One step of a CRC that takes the most significant bit first: width `w`, polynomial `poly`. -/
def crcStepMsb (w poly : Nat) (crc : Nat) (b : Bool) : Nat :=
  let top := bit (w - 1) crc != b
  let sh := crc * 2 % 2 ^ w
  if top then Nat.xor sh poly else sh

/-- A CRC over bytes, each most significant bit first. -/
def crcMsb (w poly init : Nat) (bs : List (BitVec 8)) : Nat :=
  bs.foldl (fun c b => (List.range 8).foldl (fun c i => crcStepMsb w poly c (b.getLsbD (7 - i))) c) init

/-- One step of a reflected CRC: the least significant bit first. -/
def crcStepLsb (poly : Nat) (crc : Nat) (b : Bool) : Nat :=
  let low := bit 0 crc != b
  if low then Nat.xor (crc / 2) poly else crc / 2

/-- A reflected CRC over bytes, each least significant bit first. -/
def crcLsb (poly init : Nat) (bs : List (BitVec 8)) : Nat :=
  bs.foldl (fun c b => (List.range 8).foldl (fun c i => crcStepLsb poly c (b.getLsbD i)) c) init

/-- A two's-complement reading of the low `w` bits. -/
def toInt (w n : Nat) : Int := if n % 2 ^ w < 2 ^ (w - 1) then (n % 2 ^ w : Nat) else (n % 2 ^ w : Nat) - (2 : Int) ^ w

/-- The low `w` bits of an integer in two's complement. -/
def ofInt (w : Nat) (i : Int) : Nat := (i % ((2 : Int) ^ w)).toNat

/-- An event or discard counter of width `w` counts and saturates (R12). -/
def satInc (w n : Nat) : Nat := if n + 1 < 2 ^ w then n + 1 else 2 ^ w - 1

/-- A saturating addition. -/
def satAdd (w n k : Nat) : Nat := min (n + k) (2 ^ w - 1)

/-- Is the 16-bit serial number `a` ahead of `b` (the half-range rule of wrapping sequence numbers). -/
def seqAhead (w a b : Nat) : Nat := (a + 2 ^ w - b % 2 ^ w) % 2 ^ w

end Sys2Proof.Machine
end

