-- ==== Sys2Proof/Machine/Arith.lean ====
section
/-! DEFINITION. Element formats and reduction arithmetic (Tables 6.3, 6.4, R176 to R184): values are exact dyadic numbers,
rounded once where the spec rounds. -/

namespace Sys2Proof.Machine

/-- A floating-point value: (−1)^neg × m × 2^e, an infinity or a NaN. -/
inductive Fp where
  | nan
  | inf (neg : Bool)
  | num (neg : Bool) (m : Nat) (e : Int)
  deriving DecidableEq, Repr

/-- A binary format: exponent and fraction bits, bias, whether it has infinities and NaNs as IEEE 754 has (`ieee`), or
the one NaN pattern of E4M3 (`oneNan`), or neither. -/
structure FFmt where
  eb     : Nat
  mb     : Nat
  bias   : Nat
  ieee   : Bool
  oneNan : Bool
  deriving DecidableEq, Repr

def fp32 : FFmt := ⟨8, 23, 127, true, false⟩
def fp64 : FFmt := ⟨11, 52, 1023, true, false⟩
def bf16 : FFmt := ⟨8, 7, 127, true, false⟩
def fp16 : FFmt := ⟨5, 10, 15, true, false⟩
def e4m3 : FFmt := ⟨4, 3, 7, false, true⟩
def e5m2 : FFmt := ⟨5, 2, 15, true, false⟩
def e3m2 : FFmt := ⟨3, 2, 3, false, false⟩
def e2m3 : FFmt := ⟨2, 3, 1, false, false⟩
def e2m1 : FFmt := ⟨2, 1, 1, false, false⟩

/-- Width in bits. -/
def FFmt.w (f : FFmt) : Nat := 1 + f.eb + f.mb

/-- A value from its bits. -/
def decodeF (f : FFmt) (n : Nat) : Fp :=
  let neg := bit (f.eb + f.mb) n
  let e := n / 2 ^ f.mb % 2 ^ f.eb
  let m := n % 2 ^ f.mb
  if f.ieee ∧ e = 2 ^ f.eb - 1 then (if m = 0 then .inf neg else .nan)
  else if f.oneNan ∧ e = 2 ^ f.eb - 1 ∧ m = 2 ^ f.mb - 1 then .nan
  else if e = 0 then .num neg m (1 - (f.bias : Int) - f.mb)
  else .num neg (2 ^ f.mb + m) ((e : Int) - f.bias - f.mb)

/-- The largest finite magnitude as bits, without sign. -/
def maxBits (f : FFmt) : Nat :=
  if f.ieee then 2 ^ (f.eb + f.mb) - 2 ^ f.mb - 1
  else if f.oneNan then 2 ^ (f.eb + f.mb) - 2
  else 2 ^ (f.eb + f.mb) - 1

def signBit (f : FFmt) (neg : Bool) : Nat := if neg then 2 ^ (f.eb + f.mb) else 0
def infBits (f : FFmt) : Nat := 2 ^ (f.eb + f.mb) - 2 ^ f.mb

/-- The format's NaN: quiet and positive; E4M3 has one. -/
def nanBits (f : FFmt) : Nat :=
  if f.oneNan then 2 ^ (f.eb + f.mb) - 1 else 2 ^ (f.eb + f.mb) - 2 ^ f.mb + 2 ^ (f.mb - 1)

/-- A rounding: the magnitude m with its d low bits dropped. -/
abbrev Rounding := Nat → Nat → Nat

/-- Round to nearest even. -/
def rne : Rounding := fun m d =>
  if d = 0 then m else
    let q := m / 2 ^ d
    let r := m % 2 ^ d
    let h := 2 ^ (d - 1)
    if r < h then q else if h < r then q + 1 else q + q % 2

/-- The magnitude of m × 2^e rounded to a format, as bits without sign; it may lie beyond `maxBits`. -/
def roundMag (f : FFmt) (rnd : Rounding) (m : Nat) (e : Int) : Nat :=
  if m = 0 then 0 else
    let top : Int := (Nat.log2 m : Int) + e
    let emin : Int := 1 - (f.bias : Int)
    let q : Int := (max top emin) - f.mb
    let n := if e < q then rnd m (q - e).toNat else m * 2 ^ (e - q).toNat
    if n = 0 then 0
    else if n < 2 ^ f.mb then n
    else
      -- exponent field of the quantum, then a carry out of the fraction raises it
      let ef := (q + f.mb + f.bias).toNat
      (ef - 1) * 2 ^ f.mb + n

/-- Round a value to an IEEE format, to nearest even: overflow gives an infinity, a NaN the canonical one. -/
def encodeF (f : FFmt) (v : Fp) : Nat :=
  match v with
  | .nan => nanBits f
  | .inf neg => signBit f neg + infBits f
  | .num neg m e =>
    let b := roundMag f rne m e
    signBit f neg + (if maxBits f < b then infBits f else b)

/-- A signed integer m × 2^e as a value; zero takes the sign given. -/
def ofSigned (zero : Bool) (i : Int) (e : Int) : Fp :=
  if i = 0 then .num zero 0 e else .num (decide (i < 0)) i.natAbs e

def signedAt (neg : Bool) (m : Nat) (e e0 : Int) : Int :=
  let k : Int := (m * 2 ^ (e - e0).toNat : Nat)
  if neg then -k else k

/-- The exact sum. -/
def addFp (a b : Fp) : Fp :=
  match a, b with
  | .nan, _ => .nan
  | _, .nan => .nan
  | .inf x, .inf y => if x = y then .inf x else .nan
  | .inf x, _ => .inf x
  | _, .inf y => .inf y
  | .num n1 m1 e1, .num n2 m2 e2 =>
    let e0 := min e1 e2
    ofSigned (n1 && n2) (signedAt n1 m1 e1 e0 + signedAt n2 m2 e2 e0) e0

/-- The exact product of two finite or special values. -/
def mulFp (a b : Fp) : Fp :=
  match a, b with
  | .nan, _ => .nan
  | _, .nan => .nan
  | .inf x, .inf y => .inf (x != y)
  | .inf x, .num n m _ => if m = 0 then .nan else .inf (x != n)
  | .num n m _, .inf y => if m = 0 then .nan else .inf (n != y)
  | .num n1 m1 e1, .num n2 m2 e2 => .num (n1 != n2) (m1 * m2) (e1 + e2)

def negFp : Fp → Fp
  | .nan => .nan
  | .inf n => .inf (!n)
  | .num n m e => .num (!n) m e

/-- One IEEE 754 addition, subtraction and multiplication of bit patterns, rounded to nearest even. -/
def addBits (f : FFmt) (a b : Nat) : Nat := encodeF f (addFp (decodeF f a) (decodeF f b))
def subBits (f : FFmt) (a b : Nat) : Nat := encodeF f (addFp (decodeF f a) (negFp (decodeF f b)))
def mulBits (f : FFmt) (a b : Nat) : Nat := encodeF f (mulFp (decodeF f a) (decodeF f b))

/-- The order of R179 for non-NaN patterns: −0 below +0; a total order on sign and magnitude. -/
def ordBits (f : FFmt) (n : Nat) : Int :=
  let m := n % 2 ^ (f.eb + f.mb)
  if bit (f.eb + f.mb) n then -(m : Int) - 1 else m

/-- max and min of bit patterns (R179). -/
def maxF (f : FFmt) (a b : Nat) : Nat :=
  if decodeF f a = .nan ∨ decodeF f b = .nan then nanBits f else if ordBits f a < ordBits f b then b else a
def minF (f : FFmt) (a b : Nat) : Nat :=
  if decodeF f a = .nan ∨ decodeF f b = .nan then nanBits f else if ordBits f b < ordBits f a then b else a

/-- The FP32 value nearest to 1 / n (R181). -/
def recip (n : Nat) : Nat :=
  let k := 2 ^ 64 / n
  encodeF fp32 (.num false (2 * k + (if 2 ^ 64 % n = 0 then 0 else 1)) (-65))

/-- An element of a two-word sum and its addition (R180). -/
def addComp (hi lo v : Nat) : Nat × Nat :=
  let s := addBits fp32 hi v
  let bb := subBits fp32 s hi
  let e := addBits fp32 (subBits fp32 hi (subBits fp32 s bb)) (subBits fp32 v bb)
  (s, addBits fp32 lo e)

/-! ## Format codes -/

/-- The element format of a floating-point format code (Table 6.3). -/
def elemFmt : Nat → FFmt
  | 0 => fp32
  | 1 => bf16
  | 2 => fp16
  | 3 => e4m3
  | 4 => e5m2
  | 5 => e4m3
  | 6 => e5m2
  | 7 => e3m2
  | 8 => e2m3
  | _ => e2m1

def fmtInt (c : Nat) : Bool := c == 0xA || c == 0xB
def fmtMx (c : Nat) : Bool := decide (5 ≤ c ∧ c ≤ 9)
def fmtKnown (c : Nat) : Bool := decide (c ≤ 0xB)

/-- Bits of an element. -/
def elemBits (c : Nat) : Nat := if c = 0xA then 32 else if c = 0xB then 8 else (elemFmt c).w

/-- Operation codes of Table 6.12: 0 sum, 1 max, 2 min, 3 mean, 4 AND, 5 OR, 6 XOR. Is one allowed for a format
(Table 6.4). -/
def opAllowed (c op : Nat) : Bool := if fmtInt c then decide (op ≤ 2 ∨ (4 ≤ op ∧ op ≤ 6)) else decide (op ≤ 3)

/-- The accumulator is INT64 (INT32 under sum). -/
def accWide (c op : Nat) : Bool := c == 0xA && op == 0

/-- Elements per slot (Table 6.4). -/
def epsOf (c op : Nat) (comp : Bool) : Nat := if comp ∨ accWide c op then 32 else 64

/-- Wire bytes of k elements at the front of a slot of `eps`: an MX slot opens with all of its scale bytes (R176). -/
def slotBytes (c eps k : Nat) : Nat := (if fmtMx c then eps / 32 else 0) + k * elemBits c / 8

/-- Wire bytes of n elements (R176). -/
def wireBytes (c eps n : Nat) : Nat :=
  n / eps * slotBytes c eps eps + (if n % eps = 0 then 0 else slotBytes c eps (n % eps))

/-- The k-th element pattern of packed elements. -/
def unpack (w k : Nat) (n : Nat) : Nat := n / 2 ^ (w * k) % 2 ^ w

/-- An element as its accumulator takes it (R178): an FP32 pattern, or an integer in 64 bits of two's complement. -/
def toAcc (c scale e : Nat) : Nat :=
  if c = 0xA then ofInt 64 (toInt 32 e)
  else if c = 0xB then ofInt 64 (toInt 8 e)
  else if fmtMx c then
    if scale = 0xFF then nanBits fp32
    else match decodeF (elemFmt c) e with
      | .num n m x => encodeF fp32 (.num n m (x + scale - 127))
      | v => encodeF fp32 v
  else encodeF fp32 (decodeF (elemFmt c) e)

/-- The elements of one slot's bytes. -/
def slotElems (c eps k : Nat) (b : List (BitVec 8)) : List Nat :=
  let sc := if fmtMx c then eps / 32 else 0
  let n := leNat (b.drop sc)
  (List.range k).map (fun j => toAcc c (if fmtMx c then leNat (slice (j / 32) 1 b) else 0) (unpack (elemBits c) j n))

/-- The elements of a chunk's wire data. -/
def chunkElems (c eps : Nat) : Nat → Nat → List (BitVec 8) → List Nat
  | 0, _, _ => []
  | f + 1, n, b =>
    if n = 0 then [] else
      let k := min n eps
      slotElems c eps k b ++ chunkElems c eps f (n - k) (b.drop (slotBytes c eps k))

/-! ## Accumulators: a list of words, two per element with COMP -/

/-- One element combined (R179, R180). -/
def combine1 (c op a v : Nat) : Nat :=
  if fmtInt c then
    match op with
    | 0 => (a + v) % 2 ^ 64
    | 1 => if toInt 64 a < toInt 64 v then v else a
    | 2 => if toInt 64 v < toInt 64 a then v else a
    | 4 => Nat.land a v
    | 5 => Nat.lor a v
    | _ => Nat.xor a v
  else
    match op with
    | 1 => maxF fp32 a v
    | 2 => minF fp32 a v
    | _ => addBits fp32 a v

/-- A first contribution sets the accumulator; each word hi is followed by its lo with COMP. -/
def firstAcc (comp : Bool) (vs : List Nat) : List Nat := if comp then vs.flatMap (fun v => [v, 0]) else vs

/-- Contributions combined into an accumulator with COMP. -/
def combineComp : List Nat → List Nat → List Nat
  | hi :: lo :: a, v :: vs =>
    let (h, l) := addComp hi lo v
    h :: l :: combineComp a vs
  | _, _ => []

/-- A child's two-word partial combined (R180). -/
def combineImg : List Nat → List Nat → List Nat
  | hi :: lo :: a, ch :: cl :: vs =>
    let (h, l) := addComp hi lo ch
    let (h, l) := addComp h l cl
    h :: l :: combineImg a vs
  | _, _ => []

/-- Elements combined into an accumulator. -/
def combine (c op : Nat) (comp : Bool) (a vs : List Nat) : List Nat :=
  if comp then combineComp a vs else List.zipWith (combine1 c op) a vs

/-- Words per accumulator image element and its bytes: INT64 8, else 4. -/
def imgBytes (c op : Nat) : Nat := if accWide c op then 8 else 4

/-- A chunk's accumulator image: each slot's 256-byte line (R176). -/
def imageOf (c op eps : Nat) (comp : Bool) : Nat → List Nat → List (BitVec 8)
  | 0, _ => []
  | f + 1, a =>
    if a.isEmpty then [] else
      let k := if comp then 2 * eps else eps
      slice 0 256 ((a.take k).flatMap (leBytes (imgBytes c op))) ++ imageOf c op eps comp f (a.drop k)

/-- The accumulator words of a slot's line: integers are sign-extended to 64 bits. -/
def imageWords (c op k : Nat) (b : List (BitVec 8)) : List Nat :=
  let w := imgBytes c op
  (List.range k).map (fun j =>
    let n := leNat (slice (w * j) w b)
    if fmtInt c ∧ w = 4 then ofInt 64 (toInt 32 n) else n)

/-- The accumulator of a chunk of n elements from its image. -/
def imageElems (c op eps : Nat) (comp : Bool) : Nat → Nat → List (BitVec 8) → List Nat
  | 0, _, _ => []
  | f + 1, n, b =>
    if n = 0 then [] else
      let k := min n eps
      imageWords c op (if comp then 2 * k else k) b ++ imageElems c op eps comp f (n - k) (b.drop 256)

/-- The FP32 value of each element carried to output (R180). -/
def outValues (comp : Bool) : List Nat → List Nat
  | a => if comp then pairs a else a
where
  pairs : List Nat → List Nat
    | hi :: lo :: r => addBits fp32 hi lo :: pairs r
    | _ => []

/-! ## Output conversion -/

/-- The mix of R183. -/
def mix (seed epoch idx : Nat) : Nat :=
  let m := 2 ^ 64
  let x := Nat.xor (Nat.xor seed (epoch * 2 ^ 24) * 2 ^ 32 % m) (idx % m)
  let x := Nat.xor x (x / 2 ^ 33) * 0xFF51AFD7ED558CCD % m
  let x := Nat.xor x (x / 2 ^ 33) * 0xC4CEB9FE1A85EC53 % m
  Nat.xor x (x / 2 ^ 33)

/-- Stochastic rounding (R183) with the mix value x. -/
def stoch (x : Nat) : Rounding := fun m d =>
  let r := if d = 0 then 0 else if d ≤ 64 then x / 2 ^ (64 - d) else x * 2 ^ (d - 64)
  (m + r) / 2 ^ d

/-- One element converted to a floating-point format that is not MX (R182): the bits and whether it saturates. -/
def outFloat (f : FFmt) (rnd : Rounding) (ovf : Bool) (v : Nat) : Nat × Bool :=
  match decodeF fp32 v with
  | .nan => (nanBits f, false)
  | .inf neg =>
    if f.ieee then (signBit f neg + infBits f, false)
    else if ovf then (nanBits f, false) else (signBit f neg + maxBits f, true)
  | .num neg m e =>
    let b := roundMag f rnd m e
    if b ≤ maxBits f then (signBit f neg + b, false)
    else if ovf then ((if f.ieee then signBit f neg + infBits f else nanBits f), false)
    else (signBit f neg + maxBits f, true)

/-- One element converted to an integer format (R182). -/
def outInt (c v : Nat) : Nat × Bool :=
  let i := toInt 64 v
  let w := if c = 0xA then 32 else 8
  let hi : Int := 2 ^ (w - 1) - 1
  let lo : Int := -(2 ^ (w - 1))
  (ofInt w (max lo (min hi i)), decide (hi < i ∨ i < lo))

/-- emax of R184. -/
def mxEmax (c : Nat) : Int :=
  match c with
  | 5 => 8
  | 6 => 15
  | 7 => 4
  | _ => 2

/-- One MX element: V / 2^e rounded and saturated (R184); the largest finite magnitude for an infinity. -/
def mxElem (f : FFmt) (e : Int) (rnd : Rounding) (v : Nat) : Nat × Bool :=
  match decodeF fp32 v with
  | .nan => (0, false)
  | .inf neg => (signBit f neg + mxMax f, true)
  | .num neg m x =>
    let b := roundMag f rnd m (x - e)
    if b ≤ mxMax f then (signBit f neg + b, false) else (signBit f neg + mxMax f, true)
where
  mxMax (f : FFmt) : Nat := maxBits f

/-- floor(log2 |v|) of a finite nonzero pattern. -/
def log2F (v : Nat) : Int :=
  match decodeF fp32 v with
  | .num _ m e => (Nat.log2 m : Int) + e
  | _ => 0

/-- One block of MX output (R184): scale byte, element patterns, saturations. -/
def mxBlock (c : Nat) (rnds : List Rounding) (vs : List Nat) : Nat × List Nat × Nat :=
  let f := elemFmt c
  let go := fun (e : Int) =>
    let l := List.zipWith (fun r v => mxElem f e r v) rnds vs
    (l.map (·.1), (l.filter (·.2)).length)
  let mag := vs.map (fun v => v % 2 ^ 31)
  let amax := mag.foldl max 0
  if vs.any (fun v => decodeF fp32 v == .nan) then (0xFF, vs.map (fun _ => 0), 0)
  else if amax = infBits fp32 then
    let r := go 127
    (0xFE, r.1, r.2)
  else if amax = 0 then (0, vs.map (fun _ => 0), 0)
  else
    let e := max (-127) (min 127 (log2F amax - mxEmax c))
    let r := go e
    ((e + 127).toNat, r.1, r.2)

/-- Patterns packed at a bit width, little-endian. -/
def packBits (w : Nat) (l : List Nat) : Nat := l.foldr (fun x a => x + 2 ^ w * a) 0

/-- The blocks of 32 of a list. -/
def blocks32 {α : Type} : Nat → List α → List (List α)
  | 0, _ => []
  | f + 1, l => if l.isEmpty then [] else l.take 32 :: blocks32 f (l.drop 32)

/-- One slot's output bytes and saturations; `rnds` gives each element's rounding. -/
def slotOut (c eps : Nat) (ovf : Bool) (rnds : List Rounding) (vs : List Nat) : List (BitVec 8) × Nat :=
  if fmtMx c then
    let bs := List.zipWith (mxBlock c) (blocks32 (eps / 32) rnds) (blocks32 (eps / 32) vs)
    let scales := bs.map (·.1) ++ List.replicate (eps / 32 - bs.length) 0
    let es := bs.flatMap (fun b => b.2.1)
    (scales.flatMap (leBytes 1) ++ leBytes (es.length * elemBits c / 8) (packBits (elemBits c) es),
     (bs.map (fun b => b.2.2)).sum)
  else
    let l := if fmtInt c then vs.map (outInt c) else List.zipWith (fun r v => outFloat (elemFmt c) r ovf v) rnds vs
    (l.flatMap (fun x => leBytes (elemBits c / 8) x.1), (l.filter (·.2)).length)

/-- A chunk's output bytes and saturations: values, and the rounding of each. -/
def chunkOut (c eps : Nat) (ovf : Bool) : Nat → List Rounding → List Nat → List (BitVec 8) × Nat
  | 0, _, _ => ([], 0)
  | f + 1, rnds, vs =>
    if vs.isEmpty then ([], 0) else
      let a := slotOut c eps ovf (rnds.take eps) (vs.take eps)
      let b := chunkOut c eps ovf f (rnds.drop eps) (vs.drop eps)
      (a.1 ++ b.1, a.2 + b.2)

/-- The roundings of n elements from vector position `idx` (R182, R183). -/
def roundings (stochastic : Bool) (seed epoch idx n : Nat) : List Rounding :=
  (List.range n).map (fun k => if stochastic then stoch (mix seed epoch (idx + k)) else rne)

end Sys2Proof.Machine
end

