-- ==== Sys2Proof/Config.lean ====
section
/-! DEFINITION. What the spec fixes per unit or leaves open, as constants without a body: no proof can see their values,
so a statement holds whatever they are. Each is named in the assumption log. -/

namespace Sys2Proof.Config

/-- A free value by its number: the value the spec does not state at one place of one run. -/
opaque freeNat : Nat → Nat

/-- The pattern a checker compares a flow with (R389): the test header does not name it, and the spec does not say how
the checker knows it. By SRC and stream. -/
opaque chkPattern : Nat → Nat → Nat

/-- The n-th number of the pseudo-random sequence of LEN_MODE 1, which restarts at each START (Table 12.4). -/
opaque genLen : Nat → Nat

/-- The n-th level of SSPRQ, which IEEE 802.3 defines and the spec does not (R66). -/
opaque ssprq : Nat → Nat

/-- What the check bits show to the n-th read that no command describes: a held Pennant's, a COPY piece's, an operation's
that comes in a packet (R252, R253). -/
opaque readErrs : Nat → List EccHit

/-- The unit's serial number (R307, OTP). -/
opaque serial : BitVec 64

/-- The serial and the revision in the board's EEPROM (Table 10.9). -/
opaque boardSerial : Nat
opaque boardRev : Nat

/-- KEY_FP of key slot k in OTP: 32 bytes (R305). -/
opaque keyFp : Nat → Bytes

/-- ID_FP, the first 16 bytes of the digest of the identity public key (R306). -/
opaque idFp : Bytes

/-- The fused AVS value of a die in mV (R404). -/
opaque avsFuse : Plane → Nat

/-- SHAKE256 with 64 bytes of output. The spec names the function and does not define it. -/
opaque shake256 : Bytes → Bytes

/-- Does an Ed448 signature (114 bytes) verify over a message under a public key (57 bytes). -/
opaque ed448Verify : (key msg sig : Bytes) → Bool

/-- The key slot whose signature a revocation statement for a key slot carries (R305 gives no layout). -/
opaque revokedBy : (slot : Nat) → (statement : Bytes) → Option Nat

/-- The Ed448 signature of a message under the unit's identity key (R306, R307). -/
opaque ed448Sign : Bytes → Bytes

/-- The bytes of a record whose content the spec gives and whose layout it does not: by kind of record, from its
numbers. Kinds: 1 a journal record, 2 an inventory, 3 a neighbour report, 4 ANNOUNCE, 5 TIME, 6 POWER frame payloads. -/
opaque recordBytes : Nat → List Nat → Bytes

/-- The directory entries of the scan chains but the last (FRZ_DIR, Table 11.12; the spec names no chain). -/
opaque scanDir : List (BitVec 64)

/-- What a scan chain of a frozen plane holds (FRZ_CHAIN, Table 11.12): by the 17 bits that select it and the time of the
freeze, from the cell headers in the plane's switch core, which some chain shows at a place the spec does not give. -/
opaque chainBits : (sel : Nat) → (at_ : Nat) → (headers : List Bytes) → Nat

/-- A word of a frozen plane's memory whose layout the spec does not give (FRZ_MEM): by the 64 bits that select it and the
time of the freeze. -/
opaque memBits : (sel : Nat) → (at_ : Nat) → Nat

end Sys2Proof.Config
end

