-- ==== Sys2Proof/Machine/PacketOps.lean ====
section
/-! DEFINITION. The bytes of a packet and the checks over them (R72, R76, R77, R79, R80, Tables 3.2 to 3.7). -/

namespace Sys2Proof.Machine

/-- Header bytes 0 to 13 (Table 3.2). -/
def hdrBytes14 (h : Header) : Bytes :=
  [BitVec.ofNat 8 (64 * h.ver.toNat + 4 * h.type.toNat + 2 * b2n h.path + b2n h.pen),
   BitVec.ofNat 8 (16 * h.vc.toNat + 2 * h.tc.toNat + b2n h.ce)] ++
  leBytes 2 h.dst.toNat ++ leBytes 2 h.src.toNat ++
  leBytes 2 (32768 * b2n h.ece + 16384 * b2n h.rsv6 + h.len.toNat) ++
  [h.op, BitVec.ofNat 8 (8 * h.hops.toNat + h.rsv9.toNat)] ++
  leBytes 2 h.tag.toNat ++ leBytes 2 h.wseq.toNat

/-- The 12 bytes of the path extension (Table 3.4). -/
def extBytes (e : PathExt) : Bytes :=
  leBytes 11 e.sels.toNat ++ [BitVec.ofNat 8 (64 * e.rsv.toNat + 8 * e.last.toNat + e.ptr.toNat)]

/-- HCRC of a header and its extension (R76): x^16 + x^12 + x^5 + 1, initial value 0xFFFF, bit 7 first. -/
def hcrcOf (k : Packet) : BitVec 16 :=
  BitVec.ofNat 16 (crcMsb 16 0x1021 0xFFFF (hdrBytes14 k.hdr ++ if k.hdr.path then extBytes k.ext else []))

/-- The packet with HCRC recomputed. -/
def withHcrc (k : Packet) : Packet := { k with hdr := { k.hdr with hcrc := hcrcOf k } }

/-- CRC-32 of IEEE 802.3 over bytes (R77); over no bytes it is 0. -/
def crc32 (bs : Bytes) : BitVec 32 :=
  BitVec.ofNat 32 (Nat.xor (crcLsb 0xEDB88320 0xFFFFFFFF bs) 0xFFFFFFFF)

/-- The correct trailer of a packet, and the trailer that marks it stomped (R86). -/
def trailerOf (k : Packet) : BitVec 32 := crc32 k.payload
def stompOf (k : Packet) : BitVec 32 := trailerOf k ^^^ 0xFFFFFFFF
def crcOk (k : Packet) : Bool := k.trailer == trailerOf k
def stomped (k : Packet) : Bool := k.trailer == stompOf k
def stomp (k : Packet) : Packet := { k with trailer := stompOf k }

/-- T, the packet's length in bytes (R72). -/
def lenT (k : Packet) : Nat := 20 + (if k.hdr.path then 12 else 0) + k.payload.length

/-- Credit units of 64 bytes (R72). -/
def unitsOf (k : Packet) : Nat := (lenT k + 63) / 64

/-- The packet's bytes in order. -/
def pktBytes (k : Packet) : Bytes :=
  hdrBytes14 k.hdr ++ leBytes 2 k.hdr.hcrc.toNat ++ (if k.hdr.path then extBytes k.ext else []) ++ k.payload ++
    leBytes 4 k.trailer.toNat

/-- The header and extension at the front of some bytes. -/
def parseHdr (b : Bytes) : Header :=
  let n := leNat (slice 0 16 b)
  { ver := BitVec.ofNat 2 (bits 7 6 n), type := BitVec.ofNat 4 (bits 5 2 n), path := bit 1 n, pen := bit 0 n,
    vc := BitVec.ofNat 4 (bits 15 12 n), tc := BitVec.ofNat 3 (bits 11 9 n), ce := bit 8 n,
    dst := BitVec.ofNat 16 (bits 31 16 n), src := BitVec.ofNat 16 (bits 47 32 n), ece := bit 63 n, rsv6 := bit 62 n,
    len := BitVec.ofNat 14 (bits 61 48 n), op := BitVec.ofNat 8 (bits 71 64 n), hops := BitVec.ofNat 5 (bits 79 75 n),
    rsv9 := BitVec.ofNat 3 (bits 74 72 n), tag := BitVec.ofNat 16 (bits 95 80 n),
    wseq := BitVec.ofNat 16 (bits 111 96 n), hcrc := BitVec.ofNat 16 (bits 127 112 n) }

def parseExt (b : Bytes) : PathExt :=
  let n := leNat (slice 0 12 b)
  { sels := BitVec.ofNat 88 n, rsv := BitVec.ofNat 2 (bits 95 94 n), last := BitVec.ofNat 3 (bits 93 91 n),
    ptr := BitVec.ofNat 3 (bits 90 88 n) }

/-- A packet from its bytes. -/
def parsePkt (b : Bytes) : Packet :=
  let h := parseHdr b
  let o := if h.path then 28 else 16
  { hdr := h, ext := parseExt (slice 16 12 b), payload := slice o h.len.toNat b,
    trailer := BitVec.ofNat 32 (leNat (slice (o + h.len.toNat) 4 b)) }

def noExt : PathExt := ⟨0, 0, 0, 0⟩

/-- A packet that the device forms: version 1, no path, good checks (R76, R77, R90: VC = TC for originated ones). -/
def mkPkt (type : BitVec 4) (op : Byte) (dst src : EpId) (vc : BitVec 4) (tc : BitVec 3) (tag wseq : BitVec 16)
    (pen ece : Bool) (payload : Bytes) : Packet :=
  let k : Packet :=
    { hdr := { ver := 1, type := type, path := false, pen := pen, vc := vc, tc := tc, ce := false, dst := dst,
               src := src, ece := ece, rsv6 := false, len := BitVec.ofNat 14 payload.length, op := op, hops := 0,
               rsv9 := 0, tag := tag, wseq := wseq, hcrc := 0 }
      ext := noExt, payload := payload, trailer := crc32 payload }
  withHcrc k

/-- Packet types of Table 3.5. -/
def tREQ : BitVec 4 := 1
def tCPL : BitVec 4 := 2
def tACK : BitVec 4 := 3
def tMGMT : BitVec 4 := 4
def tMARK : BitVec 4 := 5
def tTEST : BitVec 4 := 6

/-- Is a TYPE of Table 3.5 not reserved. -/
def typeKnown (t : BitVec 4) : Bool := decide (1 ≤ t.toNat ∧ t.toNat ≤ 6)

/-- Opcodes that Table 3.6 marks windowed. -/
def opWindowed (op : Byte) : Bool :=
  [0x01, 0x02, 0x10, 0x11, 0x12, 0x13, 0x18, 0x19, 0x1A, 0x1B, 0x1C, 0x1D, 0x20, 0x21, 0x30, 0x31, 0x32, 0x33,
   0x34].contains op.toNat

/-- Opcodes for which Table 3.6 returns a CPL. -/
def opReturns (op : Byte) : Bool :=
  [0x02, 0x03, 0x10, 0x11, 0x12, 0x13, 0x18, 0x19, 0x1A, 0x1B, 0x1C, 0x1D].contains op.toNat

/-- Is a packet windowed (R80). -/
def windowed (h : Header) : Bool := h.type == tREQ && opWindowed h.op

/-- Is an ID device-internal (Table 0.5). -/
def internalId (e : EpId) : Bool := decide (0xFF00 ≤ e.toNat ∧ e.toNat ≤ 0xFFFE)

/-- Selector k of the path extension (R79). -/
def selector (e : PathExt) (k : Nat) : Nat := bits (11 * k + 10) (11 * k) e.sels.toNat

/-- Completion status codes (Table 3.7). -/
def stOK : Byte := 0x00
def stUNMAPPED : Byte := 0x01
def stDENIED : Byte := 0x02
def stUNSUPPORTED : Byte := 0x03
def stORDER_LOST : Byte := 0x04
def stABORTED : Byte := 0x05
def stDROPPED : Byte := 0x06
def stMEM_ERROR : Byte := 0x07
def stSYNCED : Byte := 0x08
def stRESYNC : Byte := 0x0A

end Sys2Proof.Machine
end

