-- ==== Sys2Proof/Machine/LineCode.lean ====
section
/-! DEFINITION. The line code of a lane as plain functions (R29 to R36, R43, R66): blocks, scrambling, the RS(544,514)
code, Gray mapping and precoding, and their inverses; the framing of packets in blocks. A level is 0 to 3 for −3, −1, +1,
+3. -/

namespace Sys2Proof.Machine

/-! ## Blocks (R32 to R34) -/

/-- A 257-bit block: its type bit and its 32 bytes. -/
structure Block where
  data  : Bool
  bytes : Bytes
  deriving DecidableEq, Repr

/-- Type codes of control blocks (Table 2.2). -/
def bIDLE : Nat := 0x1E
def bSOP : Nat := 0xB4
def bLINK : Nat := 0x78
def bAM : Nat := 0x4B
def bSTUFF : Nat := 0x2D
def bENSIGN : Nat := 0xE1
def bWIDTH : Nat := 0xD2
def bLPI : Nat := 0x96

/-- A control block with a type code and the bytes after it. -/
def ctlBlock (code : Nat) (bs : Bytes) : Block := ⟨false, BitVec.ofNat 8 code :: slice 0 31 bs⟩

/-- The IDLE block: zeros before scrambling. -/
def idleBlock : Block := ctlBlock bIDLE []

/-- The type code of a block. -/
def Block.code (b : Block) : Nat := leNat (b.bytes.take 1)

/-- Is a type code one of Table 2.2; is it that of a slot block. -/
def slotCode (c : Nat) : Bool := [bAM, bSTUFF, bENSIGN, bWIDTH, bLPI].contains c
def knownCode (c : Nat) : Bool := slotCode c || [bIDLE, bSOP, bLINK].contains c

/-- Is a block as it stands on the line a slot block: a control block with a slot code, which is not scrambled. -/
def Block.slot (b : Block) : Bool := !b.data && slotCode b.code

/-- The DATA blocks of a packet's bytes, the last one filled with zeros (R34). -/
def dataBlocks (bs : Bytes) : Nat → List Block
  | 0 => []
  | n + 1 => if bs.isEmpty then [] else ⟨true, slice 0 32 bs⟩ :: dataBlocks (bs.drop 32) n

/-- Bytes 1 to 3 and more of an SOP block (Table 3.1). -/
def sopBytes (abort wh : Bool) (vc units : Nat) : Bytes :=
  [BitVec.ofNat 8 (64 * b2n abort + 32 * b2n wh + vc % 16)] ++ leBytes 2 units

/-- The port blocks of a packet: its SOP and its DATA blocks (R34, R73). -/
def packetBlocks (wh : Bool) (vc : Nat) (k : Packet) : List Block :=
  let bs := pktBytes k
  ctlBlock bSOP (sopBytes false wh vc (unitsOf k)) :: dataBlocks bs (bs.length / 32 + 1)

/-! ## Bits, scrambling (R31) -/

/-- The bits of a byte string in line order: byte 0 first, bit 7 of each byte first. -/
def lineBits (bs : Bytes) : List Bool := bs.flatMap (fun b => (List.range 8).map (fun k => b.getLsbD (7 - k)))

/-- The byte of eight bits in line order. -/
def lineByte (l : List Bool) : BitVec 8 := BitVec.ofNat 8 (l.foldl (fun a b => 2 * a + b2n b) 0)

/-- Bytes of bits in line order. -/
def lineBytes (l : List Bool) : Nat → Bytes
  | 0 => []
  | n + 1 => lineByte (l.take 8) :: lineBytes (l.drop 8) n

/-- The scrambler's state after a bit has gone out: the 58 last bits of the line, the newest lowest. -/
def scrShift (st : Nat) (b : Bool) : Nat := (2 * st + b2n b) % 2 ^ 58

/-- The tap bits of 1 + x^39 + x^58. -/
def scrTap (st : Nat) : Bool := bit 38 st != bit 57 st

/-- Bits scrambled, and bits descrambled, with the state after. -/
def scramble : Nat → List Bool → List Bool × Nat
  | st, [] => ([], st)
  | st, b :: l =>
    let o := b != scrTap st
    let r := scramble (scrShift st o) l
    (o :: r.1, r.2)
def descramble : Nat → List Bool → List Bool × Nat
  | st, [] => ([], st)
  | st, b :: l =>
    let r := descramble (scrShift st b) l
    ((b != scrTap st) :: r.1, r.2)

/-- The bits of a block as they stand on the line: the type bit, then the payload, scrambled unless it is a slot block. -/
def blockOut (st : Nat) (b : Block) : List Bool × Nat :=
  if b.slot then (b.data :: lineBits b.bytes, st)
  else
    let r := scramble st (lineBits b.bytes)
    (b.data :: r.1, r.2)

/-- A block from its 257 bits on the line. -/
def blockIn (st : Nat) (l : List Bool) : Block × Nat :=
  let raw : Block := ⟨l.headD false, lineBytes l.tail 32⟩
  if raw.slot then (raw, st)
  else
    let r := descramble st l.tail
    (⟨raw.data, lineBytes r.1 32⟩, r.2)

/-- The bits of blocks one after the other, and blocks from bits. -/
def blocksOut : Nat → List Block → List Bool × Nat
  | st, [] => ([], st)
  | st, b :: l =>
    let x := blockOut st b
    let r := blocksOut x.2 l
    (x.1 ++ r.1, r.2)
def blocksIn : Nat → Nat → List Bool → List Block × Nat
  | 0, st, _ => ([], st)
  | n + 1, st, l =>
    let x := blockIn st (l.take 257)
    let r := blocksIn n x.2 (l.drop 257)
    (x.1 :: r.1, r.2)

/-! ## RS(544,514) over GF(2^10) (R36) -/

/-- Multiplication by α in GF(2^10), α^10 = α^3 + 1. -/
def gfDouble (a : Nat) : Nat := if 1024 ≤ 2 * a then Nat.xor (2 * a - 1024) 9 else 2 * a

/-- The product of two field elements: `n` bits of `b` are left. -/
def gfMulN : Nat → Nat → Nat → Nat
  | 0, _, _ => 0
  | n + 1, a, b => Nat.xor (if b % 2 = 1 then a else 0) (gfMulN n (gfDouble a) (b / 2))
def gfMul (a b : Nat) : Nat := gfMulN 10 a b

/-- α^n, and the inverse a^1022 of an element. -/
def gfExp : Nat → Nat
  | 0 => 1
  | n + 1 => gfDouble (gfExp n)
def gfPow (a : Nat) : Nat → Nat
  | 0 => 1
  | n + 1 => gfMul a (gfPow a n)
def gfInv (a : Nat) : Nat := gfPow a 1022

/-- A polynomial by its coefficients, the lowest first: its value, its sum with and its product by another. -/
def polyEval (f : List Nat) (x : Nat) : Nat := f.foldr (fun c a => Nat.xor c (gfMul a x)) 0
def polyAdd : List Nat → List Nat → List Nat
  | [], g => g
  | f, [] => f
  | a :: f, b :: g => Nat.xor a b :: polyAdd f g
def polyScale (c : Nat) (f : List Nat) : List Nat := f.map (gfMul c)
def polyMul : List Nat → List Nat → List Nat
  | [], _ => []
  | a :: f, g => polyAdd (polyScale a g) (0 :: polyMul f g)

/-- The generator of the code: the product of x − α^i for i from 0 to 29. -/
def rsGen : List Nat := (List.range 30).foldl (fun g i => polyMul g [gfExp i, 1]) [1]

/-- The 30 check symbols of 514 message symbols, the highest power first: the remainder of m(x) x^30. -/
def rsCheck (m : List Nat) : List Nat :=
  let g := (rsGen.take 30).reverse
  m.foldl (fun r c =>
    let q := Nat.xor c (r.headD 0)
    polyAdd (r.tail ++ [0]) (polyScale q g)) (List.replicate 30 0)

/-- A codeword: the message and its check symbols. -/
def rsEncode (m : List Nat) : List Nat := m ++ rsCheck m

/-- The 30 syndromes of 544 received symbols. -/
def rsSyndromes (c : List Nat) : List Nat := (List.range 30).map (fun i => polyEval c.reverse (gfExp i))

/-- The error locator of the syndromes (Berlekamp and Massey): `n` is the step, `L` the length, `m` the shift of the
older locator `b`, whose discrepancy was `d`. -/
def rsLocator (syn : List Nat) : Nat → Nat → Nat → Nat → Nat → List Nat → List Nat → List Nat
  | 0, _, _, _, _, c, _ => c
  | fuel + 1, n, L, m, d, c, b =>
    let e := (List.range (L + 1)).foldl (fun a i => Nat.xor a (gfMul (c.getD i 0) (syn.getD (n - i) 0))) 0
    if e = 0 then rsLocator syn fuel (n + 1) L (m + 1) d c b
    else
      let c' := polyAdd c (polyScale (gfMul e (gfInv d)) (List.replicate m 0 ++ b))
      if 2 * L ≤ n then rsLocator syn fuel (n + 1) (n + 1 - L) 1 e c' c
      else rsLocator syn fuel (n + 1) L (m + 1) d c' b

/-- The value of the error at power k of the codeword (Forney), from the locator and the syndromes. -/
def rsErrorAt (syn loc : List Nat) (k : Nat) : Nat :=
  let x := gfExp ((1023 - k % 1023) % 1023)
  if polyEval loc x ≠ 0 then 0 else
    let omega := (polyMul syn loc).take 30
    let diff := (loc.zipIdx.tail).map (fun e => if e.2 % 2 = 1 then e.1 else 0)
    gfMul (gfExp (k % 1023)) (gfMul (polyEval omega x) (gfInv (polyEval diff x)))

/-- A received word decoded: the message and how many symbols were corrected, up to 15; `none` where it is
uncorrectable. -/
def rsDecode (c : List Nat) : Option (List Nat × Nat) :=
  let syn := rsSyndromes c
  if syn.all (· == 0) then some (c.take 514, 0) else
    let loc := rsLocator syn 30 0 0 1 1 [1] [1]
    let err := (List.range 544).map (fun j => rsErrorAt syn loc (543 - j))
    let fixed := (c.zip err).map (fun e => Nat.xor e.1 e.2)
    let n := (err.filter (· ≠ 0)).length
    if n ≤ 15 ∧ (rsSyndromes fixed).all (· == 0) then some (fixed.take 514, n) else none

/-- 10-bit symbols of bits in line order, the first bit the lowest, and back. -/
def symbolOf (l : List Bool) : Nat := l.foldr (fun b a => 2 * a + b2n b) 0
def symbolsOf (l : List Bool) : Nat → List Nat
  | 0 => []
  | n + 1 => symbolOf (l.take 10) :: symbolsOf (l.drop 10) n
def symbolBits (l : List Nat) : List Bool := l.flatMap (fun c => (List.range 10).map (fun k => bit k c))

/-- Every other element, from the first, and two lists in turn: codewords A and B alternate (R36). -/
def evens {α : Type} : List α → List α
  | [] => []
  | [a] => [a]
  | a :: _ :: l => a :: evens l
def interleave {α : Type} : List α → List α → List α
  | [], bs => bs
  | as_, [] => as_
  | a :: as_, b :: bs => a :: b :: interleave as_ bs

/-- A codeword with the FEC injector's corruption: `inj.2` symbols from symbol `inj.1` on inverted, wrapping (R395). -/
def rsInject (inj : Option (Nat × Nat)) (c : List Nat) : List Nat :=
  match inj with
  | none => c
  | some (off, n) => c.zipIdx.map (fun e => if (e.2 + 544 - off % 544) % 544 < n then Nat.xor e.1 0x3FF else e.1)

/-- The 10,880 bits of a pair of codewords from the 10,280 bits of its 40 blocks. -/
def pairBits (inj : Option (Nat × Nat)) (l : List Bool) : List Bool :=
  let m := symbolsOf l 1028
  symbolBits (interleave (rsInject inj (rsEncode (evens m))) (rsEncode (evens m.tail)))

/-! ## Levels (R30) -/

/-- Gray mapping of a pair of bits, and back. -/
def gray (a b : Bool) : Nat := if a then (if b then 2 else 3) else (if b then 1 else 0)
def ungray (g : Nat) : List Bool := [decide (2 ≤ g), decide (g = 1 ∨ g = 2)]

/-- Bits to Gray values, taken in pairs. -/
def grayOf : List Bool → List Nat
  | a :: b :: l => gray a b :: grayOf l
  | _ => []

/-- Precoding from the last value sent: P(n) = (G(n) − P(n − 1)) mod 4; and its inverse. -/
def precode : Nat → List Nat → List Nat
  | _, [] => []
  | q, g :: l =>
    let v := (g + 4 - q % 4) % 4
    v :: precode v l
def unprecode : Nat → List Nat → List Nat
  | _, [] => []
  | q, v :: l => (v + q) % 4 :: unprecode v l

/-- Polarity inverted (TX_INV, RX_INV): −3 and +3, −1 and +1 change places. -/
def invert (b : Bool) (l : List Nat) : List Nat := if b then l.map (3 - ·) else l

/-- The 5,440 levels of a codeword pair from its blocks: scrambler state and last level before, and after. -/
def pairOut (scr pre : Nat) (inj : Option (Nat × Nat)) (bs : List Block) : List Nat × Nat × Nat :=
  let r := blocksOut scr bs
  let l := precode pre (grayOf (pairBits inj r.1))
  (l, r.2, l.getLastD pre)

/-- What a received pair decodes to: the outcome of each codeword (the symbols corrected), and its 40 blocks where both
decode. -/
structure PairIn where
  a      : Option Nat
  b      : Option Nat
  blocks : Option (List Block)
  scr    : Nat
  pre    : Nat
  deriving DecidableEq, Repr

/-- The receiver undoes the steps of Table 2.1 in reverse order (R29). An uncorrectable pair leaves the descrambler with
the bits as they were received. -/
def pairIn (scr pre : Nat) (levels : List Nat) : PairIn :=
  let bitsIn := (unprecode pre levels).flatMap ungray
  let c := symbolsOf bitsIn 1088
  let a := rsDecode (evens c)
  let b := rsDecode (evens c.tail)
  match a, b with
  | some x, some y =>
    let r := blocksIn 40 scr (symbolBits (interleave x.1 y.1))
    ⟨some x.2, some y.2, some r.1, r.2, levels.getLastD pre⟩
  | _, _ => ⟨a.map (·.2), b.map (·.2), none, (blocksIn 40 scr (symbolBits (c.take 1028))).2, levels.getLastD pre⟩

/-! ## Test patterns (R43, R66) -/

/-- One bit of a PRBS x^n + x^m + 1 from its last n bits, the newest lowest. -/
def prbsBit (n m st : Nat) : Bool := bit (n - 1) st != bit (m - 1) st
/-- The same for PRBS13, x^13 + x^12 + x^2 + x + 1. -/
def prbs13Bit (st : Nat) : Bool := (bit 12 st != bit 11 st) != (bit 1 st != bit 0 st)

/-- Length of the register of PRBS_GEN or PRBS_CHK code k (Table 2.15), and its next bit. -/
def prbsLen : Nat → Nat
  | 1 => 7
  | 2 => 9
  | 3 => 13
  | 4 => 15
  | 5 => 23
  | _ => 31
def prbsStep (k st : Nat) : Bool :=
  match k with
  | 1 => prbsBit 7 6 st
  | 2 => prbsBit 9 5 st
  | 3 => prbs13Bit st
  | 4 => prbsBit 15 14 st
  | 5 => prbsBit 23 18 st
  | _ => prbsBit 31 28 st

/-- `n` bits of a PRBS and the register after them. -/
def prbsRun (k : Nat) : Nat → Nat → List Bool × Nat
  | 0, st => ([], st)
  | n + 1, st =>
    let b := prbsStep k st
    let r := prbsRun k n ((2 * st + b2n b) % 2 ^ prbsLen k)
    (b :: r.1, r.2)

/-- The 4,096 levels of a training frame (R30, R43): the frame marker, the control field on the outer levels, and PRBS13
from the lane's seed, Gray-mapped and precoded. -/
def trainLevels (control : Bytes) (seed : Nat) : List Nat :=
  let c := (lineBits control).map (fun b => if b then 3 else 0)
  List.replicate 32 3 ++ List.replicate 32 0 ++ c ++
    precode (c.getLastD 0) (grayOf (prbsRun 3 7808 seed).1)

end Sys2Proof.Machine
end

