-- ==== Sys2Proof/Machine/Out.lean ====
section
/-! DEFINITION. What leaves the device. A sending step appends what it sends to the record of the state (the newest
first), so that a statement can say what a step sends. -/

namespace Sys2Proof.Machine

/-- Something the device sent or drove. `port` is the first lane of a port modulo 576. -/
inductive Out where
  /-- a packet on a fabric port; `abort` where it was cut short with an ABORT SOP (R98, R87) -/
  | packet (p : Plane) (port : Nat) (wh : Bool) (pkt : Packet)
  | abort (p : Plane) (port : Nat)
  /-- a training frame (Table 2.6), an AM block, an ENSIGN fragment on a lane -/
  | trainFrame (p : Plane) (lane : Nat) (bytes : Bytes)
  | marker (p : Plane) (lane : Nat) (bytes : Bytes)
  | ensign (p : Plane) (lane : Nat) (bytes : Bytes)
  /-- the wake pattern on a lane: +3 and -3 in turn at 1/8 of the symbol rate for 200 ns (R62) -/
  | wake (p : Plane) (lane : Nat)
  /-- a control block with its SUB code and the bytes after it (Tables 2.2, 3.9) -/
  | block (p : Plane) (port : Nat) (kind : Byte) (bytes : Bytes)
  /-- a Halyard data flit, and a control flit by CLASS with its data bytes (R165) -/
  | halFlit (p : Plane) (f : HalFlit)
  | halCtl (p : Plane) (cls : Byte) (data : Bytes)
  /-- a flit on a Gnotric Link half -/
  | gl (half : Plane) (f : GlFlit)
  /-- a notification to the rack manager, and a management response -/
  | notify (seq : BitVec 32) (code : BitVec 16) (plane : Nat) (unit : Word) (args : List Word)
  | mgmt (via : Transport) (msg : Bytes)
  /-- a cascade frame, EPO or freeze codes on one side of the ring -/
  | casc (side : Side) (f : CascFrame)
  | epoCode (side : Side)
  | freezeCode (side : Side)
  /-- a PTP delay request, the regulator target of a die in mV, a laser enable -/
  | ptp (kind : Byte)
  | avs (p : Plane) (mv : Nat)
  | laser (p : Plane) (c : Nat) (on : Bool)
  /-- PWR_OFF_REQ and PPS_OUT levels, the fence line towards a die -/
  | pwrOff (on : Bool)
  | pps (p : Plane) (high : Bool)
  | fence (die : Plane) (on : Bool)
  deriving DecidableEq, Repr

end Sys2Proof.Machine
end

