-- ==== Sys2Proof/Machine/Maps.lean ====
section
/-! DEFINITION. Sparse tables: a table of the spec (registers, windows, groups, queues, memory bytes …) is a list of key
and value pairs in one canonical form: keys strictly rising, and no entry equal to what an unlisted key reads as. -/

namespace Sys2Proof.Machine

/-- A sparse table from numbers to `α`. -/
abbrev SMap (α : Type) := List (Nat × α)

/-- What key `k` reads as; `d` is what an unlisted key reads as. (The test is a Bool, which the kernel evaluates fast;
`mget_cons` says the same with a proposition.) -/
def mget {α : Type} (d : α) (k : Nat) : SMap α → α
  | [] => d
  | (k', v) :: m =>
    match Nat.beq k k' with
    | true => v
    | false => mget d k m

/-- The table without key `k`. -/
def mdel {α : Type} (k : Nat) : SMap α → SMap α
  | [] => []
  | (k', v) :: m => if k = k' then mdel k m else (k', v) :: mdel k m

/-- A table that does not list key `k`, with `k` listed as `v`. -/
def mins {α : Type} (k : Nat) (v : α) : SMap α → SMap α
  | [] => [(k, v)]
  | (k', v') :: m => if k < k' then (k, v) :: (k', v') :: m else (k', v') :: mins k v m

/-- The table after a write of `v` at `k`: a value that an unlisted key reads as is not listed. -/
def mset {α : Type} [DecidableEq α] (d : α) (k : Nat) (v : α) (m : SMap α) : SMap α :=
  if v = d then mdel k m else mins k v (mdel k m)

/-- The table with `f` applied at key `k`. -/
def mmod {α : Type} [DecidableEq α] (d : α) (k : Nat) (f : α → α) (m : SMap α) : SMap α :=
  mset d k (f (mget d k m)) m

/-- Keys strictly rising, all above `b`. -/
def keysAbove {α : Type} : Option Nat → SMap α → Bool
  | _, [] => true
  | none, (k, _) :: m => keysAbove (some k) m
  | some b, (k, _) :: m => decide (b < k) && keysAbove (some k) m

/-- The canonical form of a table whose unlisted keys read as `d`. -/
def SMap.wf {α : Type} [DecidableEq α] (d : α) (m : SMap α) : Bool :=
  keysAbove none m && m.all (fun e => decide (e.2 ≠ d))

/-- Is key `k` listed. -/
def mhas {α : Type} (k : Nat) (m : SMap α) : Bool := m.any (fun e => e.1 == k)

/-- Tables whose unlisted keys read as "nothing". -/
def mfind {α : Type} (k : Nat) (m : SMap α) : Option α := (m.find? (fun e => e.1 == k)).map (·.2)

/-- The elements of a list, each once, in the order of their first occurrence. -/
def dedup {α : Type} [BEq α] (l : List α) : List α :=
  (l.foldl (fun acc x => if acc.contains x then acc else x :: acc) []).reverse

/-- A number put into a rising list. -/
def insertNat (x : Nat) : List Nat → List Nat
  | [] => [x]
  | y :: ys => if x ≤ y then x :: y :: ys else y :: insertNat x ys

/-- A list of numbers in rising order. -/
def sortNat (l : List Nat) : List Nat := l.foldr insertNat []

/-- The numbers of a list, put at position `i`. -/
def listSet {α : Type} (i : Nat) (v : α) : List α → List α
  | [] => []
  | x :: xs => match i with
    | 0 => v :: xs
    | i + 1 => x :: listSet i v xs

/-- The list of results of `f` at 0, 1, …, n − 1. -/
def tabulate {α : Type} (n : Nat) (f : Nat → α) : List α := (List.range n).map f

end Sys2Proof.Machine
end

