-- ==== Sys2Proof/Machine/RegTypes.lean ====
section
/-! DEFINITION. The registers of one plane's 64 MiB window by their manual names (R6, Table 0.6), the access types of
Table 0.7 and the field classes of R338. The tables themselves (offsets, fields, reset values) are in RegMap.lean. -/

namespace Sys2Proof.Machine

/-- Access types of Table 0.7 (R11). -/
inductive Acc where
  | rw | ro | w1c | w1s | wo | rc
  deriving DecidableEq, Repr

/-- Field classes of R338: static, staged, live; `none` for a field that cannot be written. -/
inductive Cls where
  | s | g | l | none
  deriving DecidableEq, Repr

/-- Every register of the register maps of the spec's chapters (Tables 0.3, 1.8 to 1.12, 2.13, 3.12, 4.10, 5.10,
6.11, 7.10, 8.13, 8.17, 9.15, 10.12, 11.16, 12.12). A register that repeats per lane, port, group … is one name with
an index. -/
inductive Reg where
  | TOP_CHIP_ID | TOP_STRAP | TOP_CLK_STAT | TOP_RST_CTL | TOP_UNIT_STAT | TOP_PG_STAT | LNE_GLB_CFG | LNE_FABRIC_ID
  | LNE_QDISC_CNT | LNE_BADBLK | LNE_LANE_CFG | LNE_LANE_STAT | LNE_FEC_CORR | LNE_FEC_UNCORR | LNE_FEC_SYMERR
  | LNE_PRBS_ERR | LNE_TX_COEF | LNE_EYE_CTL | LNE_EYE_STAT | LNE_PORT_CFG | LNE_PORT_CTL | LNE_PORT_STAT
  | LNE_WIRE_CTL | LNE_WIRE_ID | LNE_WIRE_SER | LNE_WIRE_FAB | LNE_FAR_ENSIGN | LFP_GLB_CFG | LFP_CE_CFG
  | LFP_WIN_CFG | LFP_TMO_CFG | LFP_CC_CFG | LFP_CRED_ESC | LFP_CRED_ADV0 | LFP_CRED_ADV1 | LFP_CRED_ADV2
  | LFP_CRED_ADV3 | LFP_CRED_ADV4 | LFP_HCRC_DISC | LFP_HDR_DISC | LFP_CRC_DISC | LFP_STOMP_TX | LFP_STOMP_RX
  | LFP_OVERSIZE_DISC | LFP_WH_TRUNC | LFP_AGE_DISC | LFP_OOW_DISC | LFP_LATE_DISC | LFP_HOLE_CNT | LFP_PEN_FAIL
  | LFP_OP_TMO | LFP_STALE_CPL | LFP_CRED_RECON | LFP_HOP_DISC | LFP_CRED_VIOL | LFP_PORT_CFG | LFP_PORT_STAT
  | LFP_PORT_CREDIT | RTE_GLB_CFG | RTE_HASH_SEED | RTE_DRAIN_CTL | RTE_DRAIN_STAT | RTE_DRAIN_OLD | RTE_CMAP_CFG
  | RTE_CMAP_SEQ | RTE_ALIAS | RTE_MISS_DISC | RTE_PATH_DISC | RTE_ESC_DISC | RTE_INT_DISC | RTE_MC_DISC
  | RTE_ESC_MOVE | RTE_NOPORT_DISC | RTE_CMAP_LOST | RTE_PORT_CFG | RTE_MARK_RX | RTE_ENTRY | RTE_SET | RTE_MCG
  | RTE_CMAP | SWC_BUF_CFG | SWC_ALPHA | SWC_EGR_CFG | SWC_SCHED_LO | SWC_SCHED_HI | SWC_HAL_CFG | SWC_MIR_CFG
  | SWC_BUF_STAT | SWC_POOL_SIZE | SWC_POOL_USED | SWC_HELD | SWC_SPINE_STAT | SWC_HAL_STAT | SWC_FLUSH_DISC
  | SWC_OVF_DISC | SWC_RESEQ_LOSS | SWC_SPINE_ERR | SWC_HAL_REPLAY | SWC_HAL_CRC | SWC_MIR_DROP | SWC_PORT_CTL
  | SWC_PORT_STAT | SWC_PORT_FLUSH | SWC_QDEPTH | COL_GLB_CFG | COL_SLOT_FREE | COL_REC_FREE | COL_SPILL_FREE
  | COL_ACT_CNT | COL_DIAG_CTL | COL_CRED_DISC | COL_STALE_DISC | COL_ABORT_DISC | COL_GRP_DISC | COL_SAT_CNT
  | COL_CACHE_HIT | COL_CACHE_MISS | COL_FWD_CNT | COL_DIAG_MAP | COL_GRP | COL_GRP_CTL | COL_GRP_STAT | COL_GRP_BASE
  | COL_GRP_LIMIT | COL_ID | DSP_GLB_CFG | DSP_REC_FREE | DSP_OVF_FREE | DSP_ACT_CNT | DSP_STORE_USED | DSP_LYR_DISC
  | DSP_REFUSE_CNT | DSP_STALE_DISC | DSP_DROP_CNT | DSP_QUEUE_CNT | DSP_OVF_FULL | DSP_HOST_CNT | DSP_OUT_DISC
  | DSP_ABORT_DISC | DSP_SAT_CNT | DSP_LYR | DSP_LYR_CTL | DSP_LYR_STAT | DSP_LYR_TOK | DSP_LYR_OPEN | DSP_EMAP
  | DSP_ECNT | DSP_ORIG | MEM_PART_CFG | MEM_LP_CFG | MEM_ECC_CFG | MEM_SCRUB_CFG | MEM_STAT | MEM_SRAM_POOL
  | MEM_LP_POOL | MEM_DEEP_FREE | MEM_PPR_CTL | MEM_ERR_ADDR | MEM_ERR_INFO | MEM_SRAM_CE | MEM_SRAM_UE | MEM_LP_CE
  | MEM_LP_UE | MEM_LINK_CE | MEM_LINK_UE | MEM_REPAIR_CNT | MEM_TILE_STAT | MEM_TILE_CE | MEM_LP_DEV
  | MEM_LP_DEV_ROW | MEM_PPR_LIST | GWM_CFG | GWM_FWD_USED | GWM_COPY_ACT | GWM_UNSUP_CNT | GWM_UNMAP_CNT
  | GWM_DENY_CNT | GWM_MEMERR_CNT | GWM_FWD_CNT | GWM_FWD_TMO | GWM_OPS_CNT | GWM_SAT_CNT | GWM_WIN | HIF_LINK_CFG
  | HIF_LINK_STAT | HIF_CTL | HIF_FUNC_MODE | HIF_EVT_CFG | HIF_WDT_CFG | HIF_DB_ADDR | HIF_CI_ADDR | HIF_STAT_ADDR
  | HIF_RING_BASE | HIF_RING_CFG | HIF_RING_VEC | HIF_EVT_LOST | HIF_HOST_FAULT | HIF_GL_REPLAY | HIF_GL_CRC
  | HIF_CMD_CNT | HIF_INTR_CNT | HIF_RING_IDX | CAN_STAT | CAN_CTL | CAN_HB_CFG | CAN_BOOT_STAT | CAN_CAP_HOST
  | CAN_CAP_RM | CAN_CAP_TRAY | CAN_CAP_THERM | CAN_PWR_STAT | CAN_PWR_STATE | CAN_THR_CFG | CAN_LEAK | CAN_FLOW_CFG
  | CAN_HEALTH | CAN_MBOX_CTL | CAN_TAKEOVER_CNT | CAN_SIG_FAIL | CAN_SENSOR | CAN_MBOX_TX | CAN_MBOX_RX
  | EPC_COMMIT_CTL | EPC_COMMIT_STAT | EPC_COMMIT_SEQ | EPC_FAIL_ADDR | EPC_DIRTY | EPC_S_IGN_ADDR | EPC_UNIT_CTL
  | EPC_UNIT_STAT | EPC_GATE_STAT | EPC_FREEZE_CTL | EPC_FREEZE_STAT | EPC_FREEZE_TIME | EPC_ERR_CFG | EPC_LOG_WP
  | EPC_LOG_RP | EPC_S_IGN_CNT | EPC_LOG_OVF | EPC_SUPPR_CNT | EPC_FIRST | EPC_LOG | TST_FT_CFG | TST_FT_STAT
  | TST_FT | TST_FT_SET | TST_FT_OFFSET | TST_FT_DELAY | TST_FT_FREQ | TST_PCHK_EN | TST_CHK_NOFLOW | TST_GEP_DISC
  | TST_PCHK_CNT | TST_PORT_TIME | TST_PORT_TSTAT | TST_PORT_DELAY | TST_MATCH | TST_MATCH_CNT | TST_INJ
  | TST_INJ_CNT | TST_PG_CFG | TST_GEN_CTL | TST_GEN_STAT | TST_CHK_CLR | TST_GEN_SENT | TST_FEC_INJ
  | TST_FEC_INJ_CNT | TST_GEN_STR | TST_GEP_ID | TST_PCHK_FIRST | TST_CHK_FLOW
  deriving DecidableEq, Repr

/-- One field of a register: bits `hi` to `lo` of word `word`, its access type, class and reset value. -/
structure Fld where
  reg   : Reg
  word  : Nat
  hi    : Nat
  lo    : Nat
  acc   : Acc
  cls   : Cls
  reset : Nat
  deriving DecidableEq, Repr

/-- Where a register lies: `base + stride * i + 4 * w` for index `i < count` and word `w < words`. Of the indices only
those with `i % period < valid` exist (a table of rows that are not packed). `multi` marks a value wider than 32 bits
to which R13 applies. -/
structure RegInfo where
  base   : Nat
  stride : Nat
  count  : Nat
  words  : Nat
  period : Nat
  valid  : Nat
  multi  : Bool
  deriving DecidableEq, Repr

end Sys2Proof.Machine
end

