-- ==== Sys2Proof/Machine/RegMap.lean ====
section
/-! DEFINITION. The register maps of the spec: where each register lies and its fields with access type, class and
reset value, taken field by field from the spec's register tables. Reserved bits have no field (R9). -/

namespace Sys2Proof.Machine

/-- Offsets, counts and widths of the registers (the register map tables of the chapters). -/
def Reg.info : Reg → RegInfo
  | .TOP_CHIP_ID => ⟨0x0, 0x4, 1, 1, 1, 1, false⟩
  | .TOP_STRAP => ⟨0x4, 0x4, 1, 1, 1, 1, false⟩
  | .TOP_CLK_STAT => ⟨0x8, 0x4, 1, 1, 1, 1, false⟩
  | .TOP_RST_CTL => ⟨0xc, 0x4, 1, 1, 1, 1, false⟩
  | .TOP_UNIT_STAT => ⟨0x10, 0x4, 1, 1, 1, 1, false⟩
  | .TOP_PG_STAT => ⟨0x14, 0x4, 1, 1, 1, 1, false⟩
  | .LNE_GLB_CFG => ⟨0x400000, 0x4, 1, 1, 1, 1, false⟩
  | .LNE_FABRIC_ID => ⟨0x400004, 0x4, 1, 1, 1, 1, false⟩
  | .LNE_QDISC_CNT => ⟨0x400008, 0x4, 1, 1, 1, 1, false⟩
  | .LNE_BADBLK => ⟨0x40000c, 0x4, 1, 1, 1, 1, false⟩
  | .LNE_LANE_CFG => ⟨0x410000, 0x40, 576, 1, 1, 1, false⟩
  | .LNE_LANE_STAT => ⟨0x410004, 0x40, 576, 1, 1, 1, false⟩
  | .LNE_FEC_CORR => ⟨0x410008, 0x40, 576, 1, 1, 1, false⟩
  | .LNE_FEC_UNCORR => ⟨0x41000c, 0x40, 576, 1, 1, 1, false⟩
  | .LNE_FEC_SYMERR => ⟨0x410010, 0x40, 576, 1, 1, 1, false⟩
  | .LNE_PRBS_ERR => ⟨0x410014, 0x40, 576, 2, 1, 1, true⟩
  | .LNE_TX_COEF => ⟨0x41001c, 0x40, 576, 1, 1, 1, false⟩
  | .LNE_EYE_CTL => ⟨0x410020, 0x40, 576, 1, 1, 1, false⟩
  | .LNE_EYE_STAT => ⟨0x410024, 0x40, 576, 1, 1, 1, false⟩
  | .LNE_PORT_CFG => ⟨0x420000, 0x20, 576, 1, 1, 1, false⟩
  | .LNE_PORT_CTL => ⟨0x420004, 0x20, 576, 1, 1, 1, false⟩
  | .LNE_PORT_STAT => ⟨0x420008, 0x20, 576, 1, 1, 1, false⟩
  | .LNE_WIRE_CTL => ⟨0x430000, 0x20, 576, 1, 1, 1, false⟩
  | .LNE_WIRE_ID => ⟨0x430004, 0x20, 576, 1, 1, 1, false⟩
  | .LNE_WIRE_SER => ⟨0x430008, 0x20, 576, 2, 1, 1, true⟩
  | .LNE_WIRE_FAB => ⟨0x430010, 0x20, 576, 1, 1, 1, false⟩
  | .LNE_FAR_ENSIGN => ⟨0x440000, 0x40, 576, 16, 1, 1, false⟩
  | .LFP_GLB_CFG => ⟨0x800000, 0x4, 1, 1, 1, 1, false⟩
  | .LFP_CE_CFG => ⟨0x800004, 0x4, 1, 1, 1, 1, false⟩
  | .LFP_WIN_CFG => ⟨0x800008, 0x4, 1, 1, 1, 1, false⟩
  | .LFP_TMO_CFG => ⟨0x80000c, 0x4, 1, 1, 1, 1, false⟩
  | .LFP_CC_CFG => ⟨0x800010, 0x4, 1, 1, 1, 1, false⟩
  | .LFP_CRED_ESC => ⟨0x800014, 0x4, 1, 1, 1, 1, false⟩
  | .LFP_CRED_ADV0 => ⟨0x800018, 0x4, 1, 1, 1, 1, false⟩
  | .LFP_CRED_ADV1 => ⟨0x80001c, 0x4, 1, 1, 1, 1, false⟩
  | .LFP_CRED_ADV2 => ⟨0x800020, 0x4, 1, 1, 1, 1, false⟩
  | .LFP_CRED_ADV3 => ⟨0x800024, 0x4, 1, 1, 1, 1, false⟩
  | .LFP_CRED_ADV4 => ⟨0x800028, 0x4, 1, 1, 1, 1, false⟩
  | .LFP_HCRC_DISC => ⟨0x800040, 0x4, 1, 1, 1, 1, false⟩
  | .LFP_HDR_DISC => ⟨0x800044, 0x4, 1, 1, 1, 1, false⟩
  | .LFP_CRC_DISC => ⟨0x800048, 0x4, 1, 1, 1, 1, false⟩
  | .LFP_STOMP_TX => ⟨0x80004c, 0x4, 1, 1, 1, 1, false⟩
  | .LFP_STOMP_RX => ⟨0x800050, 0x4, 1, 1, 1, 1, false⟩
  | .LFP_OVERSIZE_DISC => ⟨0x800054, 0x4, 1, 1, 1, 1, false⟩
  | .LFP_WH_TRUNC => ⟨0x800058, 0x4, 1, 1, 1, 1, false⟩
  | .LFP_AGE_DISC => ⟨0x80005c, 0x4, 1, 1, 1, 1, false⟩
  | .LFP_OOW_DISC => ⟨0x800060, 0x4, 1, 1, 1, 1, false⟩
  | .LFP_LATE_DISC => ⟨0x800064, 0x4, 1, 1, 1, 1, false⟩
  | .LFP_HOLE_CNT => ⟨0x800068, 0x4, 1, 1, 1, 1, false⟩
  | .LFP_PEN_FAIL => ⟨0x80006c, 0x4, 1, 1, 1, 1, false⟩
  | .LFP_OP_TMO => ⟨0x800070, 0x4, 1, 1, 1, 1, false⟩
  | .LFP_STALE_CPL => ⟨0x800074, 0x4, 1, 1, 1, 1, false⟩
  | .LFP_CRED_RECON => ⟨0x800078, 0x4, 1, 1, 1, 1, false⟩
  | .LFP_HOP_DISC => ⟨0x80007c, 0x4, 1, 1, 1, 1, false⟩
  | .LFP_CRED_VIOL => ⟨0x800080, 0x4, 1, 1, 1, 1, false⟩
  | .LFP_PORT_CFG => ⟨0x810000, 0x10, 576, 1, 1, 1, false⟩
  | .LFP_PORT_STAT => ⟨0x810004, 0x10, 576, 1, 1, 1, false⟩
  | .LFP_PORT_CREDIT => ⟨0x820000, 0x4, 9216, 1, 16, 9, false⟩
  | .RTE_GLB_CFG => ⟨0xc00000, 0x4, 1, 1, 1, 1, false⟩
  | .RTE_HASH_SEED => ⟨0xc00004, 0x4, 1, 1, 1, 1, false⟩
  | .RTE_DRAIN_CTL => ⟨0xc00008, 0x4, 1, 1, 1, 1, false⟩
  | .RTE_DRAIN_STAT => ⟨0xc0000c, 0x4, 1, 1, 1, 1, false⟩
  | .RTE_DRAIN_OLD => ⟨0xc00010, 0x4, 1, 1, 1, 1, false⟩
  | .RTE_CMAP_CFG => ⟨0xc00014, 0x4, 1, 1, 1, 1, false⟩
  | .RTE_CMAP_SEQ => ⟨0xc00018, 0x4, 1, 1, 1, 1, false⟩
  | .RTE_ALIAS => ⟨0xc00020, 0x4, 4, 1, 1, 1, false⟩
  | .RTE_MISS_DISC => ⟨0xc00040, 0x4, 1, 1, 1, 1, false⟩
  | .RTE_PATH_DISC => ⟨0xc00044, 0x4, 1, 1, 1, 1, false⟩
  | .RTE_ESC_DISC => ⟨0xc00048, 0x4, 1, 1, 1, 1, false⟩
  | .RTE_INT_DISC => ⟨0xc0004c, 0x4, 1, 1, 1, 1, false⟩
  | .RTE_MC_DISC => ⟨0xc00050, 0x4, 1, 1, 1, 1, false⟩
  | .RTE_ESC_MOVE => ⟨0xc00054, 0x4, 1, 1, 1, 1, false⟩
  | .RTE_NOPORT_DISC => ⟨0xc00058, 0x4, 1, 1, 1, 1, false⟩
  | .RTE_CMAP_LOST => ⟨0xc0005c, 0x4, 1, 1, 1, 1, false⟩
  | .RTE_PORT_CFG => ⟨0xc10000, 0x10, 577, 1, 1, 1, false⟩
  | .RTE_MARK_RX => ⟨0xc10004, 0x10, 577, 1, 1, 1, false⟩
  | .RTE_ENTRY => ⟨0xc40000, 0x4, 65536, 1, 1, 1, false⟩
  | .RTE_SET => ⟨0xc80000, 0x20, 4096, 8, 1, 1, true⟩
  | .RTE_MCG => ⟨0xca0000, 0x80, 4096, 19, 1, 1, true⟩
  | .RTE_CMAP => ⟨0xd20000, 0x20, 577, 8, 1, 1, false⟩
  | .SWC_BUF_CFG => ⟨0x1000000, 0x4, 1, 1, 1, 1, false⟩
  | .SWC_ALPHA => ⟨0x1000004, 0x4, 1, 1, 1, 1, false⟩
  | .SWC_EGR_CFG => ⟨0x1000008, 0x4, 1, 1, 1, 1, false⟩
  | .SWC_SCHED_LO => ⟨0x100000c, 0x4, 1, 1, 1, 1, false⟩
  | .SWC_SCHED_HI => ⟨0x1000010, 0x4, 1, 1, 1, 1, false⟩
  | .SWC_HAL_CFG => ⟨0x1000014, 0x4, 1, 1, 1, 1, false⟩
  | .SWC_MIR_CFG => ⟨0x1000018, 0x4, 1, 1, 1, 1, false⟩
  | .SWC_BUF_STAT => ⟨0x1000020, 0x4, 1, 1, 1, 1, false⟩
  | .SWC_POOL_SIZE => ⟨0x1000024, 0x4, 1, 1, 1, 1, false⟩
  | .SWC_POOL_USED => ⟨0x1000028, 0x4, 1, 1, 1, 1, false⟩
  | .SWC_HELD => ⟨0x100002c, 0x4, 1, 1, 1, 1, false⟩
  | .SWC_SPINE_STAT => ⟨0x1000030, 0x4, 1, 1, 1, 1, false⟩
  | .SWC_HAL_STAT => ⟨0x1000034, 0x4, 1, 1, 1, 1, false⟩
  | .SWC_FLUSH_DISC => ⟨0x1000040, 0x4, 1, 1, 1, 1, false⟩
  | .SWC_OVF_DISC => ⟨0x1000044, 0x4, 1, 1, 1, 1, false⟩
  | .SWC_RESEQ_LOSS => ⟨0x1000048, 0x4, 1, 1, 1, 1, false⟩
  | .SWC_SPINE_ERR => ⟨0x100004c, 0x4, 1, 1, 1, 1, false⟩
  | .SWC_HAL_REPLAY => ⟨0x1000050, 0x4, 1, 1, 1, 1, false⟩
  | .SWC_HAL_CRC => ⟨0x1000054, 0x4, 1, 1, 1, 1, false⟩
  | .SWC_MIR_DROP => ⟨0x1000058, 0x4, 1, 1, 1, 1, false⟩
  | .SWC_PORT_CTL => ⟨0x1010000, 0x10, 581, 1, 1, 1, false⟩
  | .SWC_PORT_STAT => ⟨0x1010004, 0x10, 581, 1, 1, 1, false⟩
  | .SWC_PORT_FLUSH => ⟨0x1010008, 0x10, 581, 1, 1, 1, false⟩
  | .SWC_QDEPTH => ⟨0x1020000, 0x4, 9296, 1, 16, 9, false⟩
  | .COL_GLB_CFG => ⟨0x1400000, 0x4, 1, 1, 1, 1, false⟩
  | .COL_SLOT_FREE => ⟨0x1400004, 0x4, 1, 1, 1, 1, false⟩
  | .COL_REC_FREE => ⟨0x1400008, 0x4, 1, 1, 1, 1, false⟩
  | .COL_SPILL_FREE => ⟨0x140000c, 0x4, 1, 1, 1, 1, false⟩
  | .COL_ACT_CNT => ⟨0x1400010, 0x4, 1, 1, 1, 1, false⟩
  | .COL_DIAG_CTL => ⟨0x1400014, 0x4, 1, 1, 1, 1, false⟩
  | .COL_CRED_DISC => ⟨0x1400040, 0x4, 1, 1, 1, 1, false⟩
  | .COL_STALE_DISC => ⟨0x1400044, 0x4, 1, 1, 1, 1, false⟩
  | .COL_ABORT_DISC => ⟨0x1400048, 0x4, 1, 1, 1, 1, false⟩
  | .COL_GRP_DISC => ⟨0x140004c, 0x4, 1, 1, 1, 1, false⟩
  | .COL_SAT_CNT => ⟨0x1400050, 0x4, 1, 1, 1, 1, false⟩
  | .COL_CACHE_HIT => ⟨0x1400054, 0x4, 1, 1, 1, 1, false⟩
  | .COL_CACHE_MISS => ⟨0x1400058, 0x4, 1, 1, 1, 1, false⟩
  | .COL_FWD_CNT => ⟨0x140005c, 0x4, 1, 1, 1, 1, false⟩
  | .COL_DIAG_MAP => ⟨0x1400080, 0x4, 32, 1, 1, 1, false⟩
  | .COL_GRP => ⟨0x1410000, 0x40, 1024, 16, 1, 1, false⟩
  | .COL_GRP_CTL => ⟨0x1420000, 0x10, 1024, 1, 1, 1, false⟩
  | .COL_GRP_STAT => ⟨0x1420004, 0x10, 1024, 1, 1, 1, false⟩
  | .COL_GRP_BASE => ⟨0x1420008, 0x10, 1024, 1, 1, 1, false⟩
  | .COL_GRP_LIMIT => ⟨0x142000c, 0x10, 1024, 1, 1, 1, false⟩
  | .COL_ID => ⟨0x1500000, 0x4, 65536, 1, 1, 1, false⟩
  | .DSP_GLB_CFG => ⟨0x1800000, 0x4, 1, 1, 1, 1, false⟩
  | .DSP_REC_FREE => ⟨0x1800004, 0x4, 1, 1, 1, 1, false⟩
  | .DSP_OVF_FREE => ⟨0x1800008, 0x4, 1, 1, 1, 1, false⟩
  | .DSP_ACT_CNT => ⟨0x180000c, 0x4, 1, 1, 1, 1, false⟩
  | .DSP_STORE_USED => ⟨0x1800010, 0x4, 1, 1, 1, 1, false⟩
  | .DSP_LYR_DISC => ⟨0x1800040, 0x4, 1, 1, 1, 1, false⟩
  | .DSP_REFUSE_CNT => ⟨0x1800044, 0x4, 1, 1, 1, 1, false⟩
  | .DSP_STALE_DISC => ⟨0x1800048, 0x4, 1, 1, 1, 1, false⟩
  | .DSP_DROP_CNT => ⟨0x180004c, 0x4, 1, 1, 1, 1, false⟩
  | .DSP_QUEUE_CNT => ⟨0x1800050, 0x4, 1, 1, 1, 1, false⟩
  | .DSP_OVF_FULL => ⟨0x1800054, 0x4, 1, 1, 1, 1, false⟩
  | .DSP_HOST_CNT => ⟨0x1800058, 0x4, 1, 1, 1, 1, false⟩
  | .DSP_OUT_DISC => ⟨0x180005c, 0x4, 1, 1, 1, 1, false⟩
  | .DSP_ABORT_DISC => ⟨0x1800060, 0x4, 1, 1, 1, 1, false⟩
  | .DSP_SAT_CNT => ⟨0x1800064, 0x4, 1, 1, 1, 1, false⟩
  | .DSP_LYR => ⟨0x1810000, 0x40, 64, 16, 1, 1, false⟩
  | .DSP_LYR_CTL => ⟨0x1820000, 0x10, 64, 1, 1, 1, false⟩
  | .DSP_LYR_STAT => ⟨0x1820004, 0x10, 64, 1, 1, 1, false⟩
  | .DSP_LYR_TOK => ⟨0x1820008, 0x10, 64, 1, 1, 1, false⟩
  | .DSP_LYR_OPEN => ⟨0x182000c, 0x10, 64, 1, 1, 1, false⟩
  | .DSP_EMAP => ⟨0x1840000, 0x8, 16384, 2, 1, 1, false⟩
  | .DSP_ECNT => ⟨0x1860000, 0x4, 16384, 1, 1, 1, false⟩
  | .DSP_ORIG => ⟨0x1880000, 0x4, 8192, 1, 1, 1, false⟩
  | .MEM_PART_CFG => ⟨0x1c00000, 0x4, 1, 1, 1, 1, false⟩
  | .MEM_LP_CFG => ⟨0x1c00004, 0x4, 1, 1, 1, 1, false⟩
  | .MEM_ECC_CFG => ⟨0x1c00008, 0x4, 1, 1, 1, 1, false⟩
  | .MEM_SCRUB_CFG => ⟨0x1c0000c, 0x4, 1, 1, 1, 1, false⟩
  | .MEM_STAT => ⟨0x1c00010, 0x4, 1, 1, 1, 1, false⟩
  | .MEM_SRAM_POOL => ⟨0x1c00014, 0x4, 1, 1, 1, 1, false⟩
  | .MEM_LP_POOL => ⟨0x1c00018, 0x4, 1, 1, 1, 1, false⟩
  | .MEM_DEEP_FREE => ⟨0x1c0001c, 0x4, 1, 1, 1, 1, false⟩
  | .MEM_PPR_CTL => ⟨0x1c00060, 0x4, 1, 1, 1, 1, false⟩
  | .MEM_ERR_ADDR => ⟨0x1c00070, 0x8, 1, 2, 1, 1, true⟩
  | .MEM_ERR_INFO => ⟨0x1c00078, 0x4, 1, 1, 1, 1, false⟩
  | .MEM_SRAM_CE => ⟨0x1c00080, 0x4, 1, 1, 1, 1, false⟩
  | .MEM_SRAM_UE => ⟨0x1c00084, 0x4, 1, 1, 1, 1, false⟩
  | .MEM_LP_CE => ⟨0x1c00088, 0x4, 1, 1, 1, 1, false⟩
  | .MEM_LP_UE => ⟨0x1c0008c, 0x4, 1, 1, 1, 1, false⟩
  | .MEM_LINK_CE => ⟨0x1c00090, 0x4, 1, 1, 1, 1, false⟩
  | .MEM_LINK_UE => ⟨0x1c00094, 0x4, 1, 1, 1, 1, false⟩
  | .MEM_REPAIR_CNT => ⟨0x1c00098, 0x4, 1, 1, 1, 1, false⟩
  | .MEM_TILE_STAT => ⟨0x1c10000, 0x10, 16, 1, 1, 1, false⟩
  | .MEM_TILE_CE => ⟨0x1c10004, 0x10, 16, 1, 1, 1, false⟩
  | .MEM_LP_DEV => ⟨0x1c20000, 0x10, 16, 1, 1, 1, false⟩
  | .MEM_LP_DEV_ROW => ⟨0x1c20004, 0x10, 16, 1, 1, 1, false⟩
  | .MEM_PPR_LIST => ⟨0x1c30000, 0x4, 128, 1, 1, 1, false⟩
  | .GWM_CFG => ⟨0x2000000, 0x4, 1, 1, 1, 1, false⟩
  | .GWM_FWD_USED => ⟨0x2000004, 0x4, 1, 1, 1, 1, false⟩
  | .GWM_COPY_ACT => ⟨0x2000008, 0x4, 1, 1, 1, 1, false⟩
  | .GWM_UNSUP_CNT => ⟨0x2000040, 0x4, 1, 1, 1, 1, false⟩
  | .GWM_UNMAP_CNT => ⟨0x2000044, 0x4, 1, 1, 1, 1, false⟩
  | .GWM_DENY_CNT => ⟨0x2000048, 0x4, 1, 1, 1, 1, false⟩
  | .GWM_MEMERR_CNT => ⟨0x200004c, 0x4, 1, 1, 1, 1, false⟩
  | .GWM_FWD_CNT => ⟨0x2000050, 0x4, 1, 1, 1, 1, false⟩
  | .GWM_FWD_TMO => ⟨0x2000054, 0x4, 1, 1, 1, 1, false⟩
  | .GWM_OPS_CNT => ⟨0x2000058, 0x4, 1, 1, 1, 1, false⟩
  | .GWM_SAT_CNT => ⟨0x200005c, 0x4, 1, 1, 1, 1, false⟩
  | .GWM_WIN => ⟨0x2010000, 0x20, 4096, 8, 1, 1, true⟩
  | .HIF_LINK_CFG => ⟨0x2400000, 0x4, 1, 1, 1, 1, false⟩
  | .HIF_LINK_STAT => ⟨0x2400004, 0x4, 1, 1, 1, 1, false⟩
  | .HIF_CTL => ⟨0x2400008, 0x4, 1, 1, 1, 1, false⟩
  | .HIF_FUNC_MODE => ⟨0x240000c, 0x4, 1, 1, 1, 1, false⟩
  | .HIF_EVT_CFG => ⟨0x2400010, 0x4, 1, 1, 1, 1, false⟩
  | .HIF_WDT_CFG => ⟨0x2400014, 0x4, 1, 1, 1, 1, false⟩
  | .HIF_DB_ADDR => ⟨0x2400020, 0x8, 1, 2, 1, 1, true⟩
  | .HIF_CI_ADDR => ⟨0x2400028, 0x8, 1, 2, 1, 1, true⟩
  | .HIF_STAT_ADDR => ⟨0x2400030, 0x8, 1, 2, 1, 1, true⟩
  | .HIF_RING_BASE => ⟨0x2400040, 0x10, 4, 2, 1, 1, true⟩
  | .HIF_RING_CFG => ⟨0x2400048, 0x10, 4, 1, 1, 1, false⟩
  | .HIF_RING_VEC => ⟨0x240004c, 0x10, 4, 1, 1, 1, false⟩
  | .HIF_EVT_LOST => ⟨0x2400080, 0x4, 1, 1, 1, 1, false⟩
  | .HIF_HOST_FAULT => ⟨0x2400084, 0x4, 1, 1, 1, 1, false⟩
  | .HIF_GL_REPLAY => ⟨0x2400088, 0x4, 1, 1, 1, 1, false⟩
  | .HIF_GL_CRC => ⟨0x240008c, 0x4, 1, 1, 1, 1, false⟩
  | .HIF_CMD_CNT => ⟨0x2400090, 0x4, 1, 1, 1, 1, false⟩
  | .HIF_INTR_CNT => ⟨0x2400094, 0x4, 1, 1, 1, 1, false⟩
  | .HIF_RING_IDX => ⟨0x24000a0, 0x4, 4, 1, 1, 1, false⟩
  | .CAN_STAT => ⟨0x2800000, 0x4, 1, 1, 1, 1, false⟩
  | .CAN_CTL => ⟨0x2800004, 0x4, 1, 1, 1, 1, false⟩
  | .CAN_HB_CFG => ⟨0x2800008, 0x4, 1, 1, 1, 1, false⟩
  | .CAN_BOOT_STAT => ⟨0x280000c, 0x4, 1, 1, 1, 1, false⟩
  | .CAN_CAP_HOST => ⟨0x2800010, 0x4, 1, 1, 1, 1, false⟩
  | .CAN_CAP_RM => ⟨0x2800014, 0x4, 1, 1, 1, 1, false⟩
  | .CAN_CAP_TRAY => ⟨0x2800018, 0x4, 1, 1, 1, 1, false⟩
  | .CAN_CAP_THERM => ⟨0x280001c, 0x4, 1, 1, 1, 1, false⟩
  | .CAN_PWR_STAT => ⟨0x2800020, 0x4, 1, 1, 1, 1, false⟩
  | .CAN_PWR_STATE => ⟨0x2800024, 0x4, 1, 1, 1, 1, false⟩
  | .CAN_THR_CFG => ⟨0x2800028, 0x4, 1, 1, 1, 1, false⟩
  | .CAN_LEAK => ⟨0x280002c, 0x4, 1, 1, 1, 1, false⟩
  | .CAN_FLOW_CFG => ⟨0x2800030, 0x4, 1, 1, 1, 1, false⟩
  | .CAN_HEALTH => ⟨0x2800040, 0x4, 16, 1, 1, 1, false⟩
  | .CAN_MBOX_CTL => ⟨0x2800080, 0x4, 1, 1, 1, 1, false⟩
  | .CAN_TAKEOVER_CNT => ⟨0x2800090, 0x4, 1, 1, 1, 1, false⟩
  | .CAN_SIG_FAIL => ⟨0x2800094, 0x4, 1, 1, 1, 1, false⟩
  | .CAN_SENSOR => ⟨0x2800100, 0x4, 119, 1, 1, 1, false⟩
  | .CAN_MBOX_TX => ⟨0x2801000, 0x4, 320, 1, 1, 1, false⟩
  | .CAN_MBOX_RX => ⟨0x2802000, 0x4, 320, 1, 1, 1, false⟩
  | .EPC_COMMIT_CTL => ⟨0x2c00000, 0x4, 1, 1, 1, 1, false⟩
  | .EPC_COMMIT_STAT => ⟨0x2c00004, 0x4, 1, 1, 1, 1, false⟩
  | .EPC_COMMIT_SEQ => ⟨0x2c00008, 0x4, 1, 1, 1, 1, false⟩
  | .EPC_FAIL_ADDR => ⟨0x2c0000c, 0x4, 1, 1, 1, 1, false⟩
  | .EPC_DIRTY => ⟨0x2c00010, 0x4, 1, 1, 1, 1, false⟩
  | .EPC_S_IGN_ADDR => ⟨0x2c00014, 0x4, 1, 1, 1, 1, false⟩
  | .EPC_UNIT_CTL => ⟨0x2c00018, 0x4, 1, 1, 1, 1, false⟩
  | .EPC_UNIT_STAT => ⟨0x2c0001c, 0x4, 1, 1, 1, 1, false⟩
  | .EPC_GATE_STAT => ⟨0x2c00020, 0x4, 1, 1, 1, 1, false⟩
  | .EPC_FREEZE_CTL => ⟨0x2c00024, 0x4, 1, 1, 1, 1, false⟩
  | .EPC_FREEZE_STAT => ⟨0x2c00028, 0x4, 1, 1, 1, 1, false⟩
  | .EPC_FREEZE_TIME => ⟨0x2c0002c, 0x8, 1, 2, 1, 1, true⟩
  | .EPC_ERR_CFG => ⟨0x2c00034, 0x4, 1, 1, 1, 1, false⟩
  | .EPC_LOG_WP => ⟨0x2c00038, 0x4, 1, 1, 1, 1, false⟩
  | .EPC_LOG_RP => ⟨0x2c0003c, 0x4, 1, 1, 1, 1, false⟩
  | .EPC_S_IGN_CNT => ⟨0x2c00040, 0x4, 1, 1, 1, 1, false⟩
  | .EPC_LOG_OVF => ⟨0x2c00044, 0x4, 1, 1, 1, 1, false⟩
  | .EPC_SUPPR_CNT => ⟨0x2c00048, 0x4, 1, 1, 1, 1, false⟩
  | .EPC_FIRST => ⟨0x2c00080, 0x20, 3, 8, 1, 1, false⟩
  | .EPC_LOG => ⟨0x2c10000, 0x20, 256, 8, 1, 1, false⟩
  | .TST_FT_CFG => ⟨0x3000000, 0x4, 1, 1, 1, 1, false⟩
  | .TST_FT_STAT => ⟨0x3000004, 0x4, 1, 1, 1, 1, false⟩
  | .TST_FT => ⟨0x3000008, 0x8, 1, 2, 1, 1, true⟩
  | .TST_FT_SET => ⟨0x3000010, 0x8, 1, 2, 1, 1, true⟩
  | .TST_FT_OFFSET => ⟨0x3000018, 0x4, 1, 1, 1, 1, false⟩
  | .TST_FT_DELAY => ⟨0x300001c, 0x4, 1, 1, 1, 1, false⟩
  | .TST_FT_FREQ => ⟨0x3000020, 0x4, 1, 1, 1, 1, false⟩
  | .TST_PCHK_EN => ⟨0x3000024, 0x4, 1, 1, 1, 1, false⟩
  | .TST_CHK_NOFLOW => ⟨0x3000040, 0x4, 1, 1, 1, 1, false⟩
  | .TST_GEP_DISC => ⟨0x3000044, 0x4, 1, 1, 1, 1, false⟩
  | .TST_PCHK_CNT => ⟨0x3000084, 0x4, 12, 1, 1, 1, false⟩
  | .TST_PORT_TIME => ⟨0x3010000, 0x10, 576, 1, 1, 1, false⟩
  | .TST_PORT_TSTAT => ⟨0x3010004, 0x10, 576, 1, 1, 1, false⟩
  | .TST_PORT_DELAY => ⟨0x3010008, 0x10, 576, 1, 1, 1, false⟩
  | .TST_MATCH => ⟨0x3020000, 0x40, 32, 9, 1, 1, false⟩
  | .TST_MATCH_CNT => ⟨0x3020024, 0x40, 32, 1, 1, 1, false⟩
  | .TST_INJ => ⟨0x3030000, 0x10, 16, 3, 1, 1, false⟩
  | .TST_INJ_CNT => ⟨0x303000c, 0x10, 16, 1, 1, 1, false⟩
  | .TST_PG_CFG => ⟨0x3040000, 0x100, 18, 1, 1, 1, false⟩
  | .TST_GEN_CTL => ⟨0x3040004, 0x100, 18, 1, 1, 1, false⟩
  | .TST_GEN_STAT => ⟨0x3040008, 0x100, 18, 1, 1, 1, false⟩
  | .TST_CHK_CLR => ⟨0x304000c, 0x100, 18, 1, 1, 1, false⟩
  | .TST_GEN_SENT => ⟨0x3040040, 0x4, 1152, 1, 64, 16, false⟩
  | .TST_FEC_INJ => ⟨0x3050000, 0x10, 576, 2, 1, 1, false⟩
  | .TST_FEC_INJ_CNT => ⟨0x305000c, 0x10, 576, 1, 1, 1, false⟩
  | .TST_GEN_STR => ⟨0x3060000, 0x40, 288, 16, 1, 1, false⟩
  | .TST_GEP_ID => ⟨0x3080000, 0x4, 576, 1, 1, 1, false⟩
  | .TST_PCHK_FIRST => ⟨0x3090000, 0x20, 576, 8, 1, 1, false⟩
  | .TST_CHK_FLOW => ⟨0x3100000, 0x40, 4608, 12, 1, 1, false⟩

/-! TOP_CHIP_ID: 00_scope.md R1 -/
def Fld.TOP_CHIP_ID.PART : Fld := ⟨.TOP_CHIP_ID, 0, 31, 16, .ro, .none, 0x1152⟩
def Fld.TOP_CHIP_ID.VARIANT : Fld := ⟨.TOP_CHIP_ID, 0, 15, 12, .ro, .none, 0⟩
def Fld.TOP_CHIP_ID.STEP_MAJOR : Fld := ⟨.TOP_CHIP_ID, 0, 11, 8, .ro, .none, 2⟩
def Fld.TOP_CHIP_ID.STEP_MINOR : Fld := ⟨.TOP_CHIP_ID, 0, 7, 4, .ro, .none, 1⟩
def Fld.TOP_CHIP_ID.PLANE : Fld := ⟨.TOP_CHIP_ID, 0, 0, 0, .ro, .none, 0⟩
/-! TOP_STRAP: 01_architecture.md R26 -/
def Fld.TOP_STRAP.SPI_WIDTH : Fld := ⟨.TOP_STRAP, 0, 6, 5, .ro, .none, 0⟩
def Fld.TOP_STRAP.CASC_EN : Fld := ⟨.TOP_STRAP, 0, 4, 4, .ro, .none, 0⟩
def Fld.TOP_STRAP.CASC_PRIO : Fld := ⟨.TOP_STRAP, 0, 3, 1, .ro, .none, 0⟩
def Fld.TOP_STRAP.CANTON_SEL : Fld := ⟨.TOP_STRAP, 0, 0, 0, .ro, .none, 0⟩
/-! TOP_CLK_STAT: 01_architecture.md R26, R408 -/
def Fld.TOP_CLK_STAT.CORE_MHZ : Fld := ⟨.TOP_CLK_STAT, 0, 31, 16, .ro, .none, 0⟩
def Fld.TOP_CLK_STAT.HALYARD_LOCK : Fld := ⟨.TOP_CLK_STAT, 0, 6, 6, .ro, .none, 0⟩
def Fld.TOP_CLK_STAT.CORE_LOCK : Fld := ⟨.TOP_CLK_STAT, 0, 5, 5, .ro, .none, 0⟩
def Fld.TOP_CLK_STAT.AON_OK : Fld := ⟨.TOP_CLK_STAT, 0, 4, 4, .ro, .none, 1⟩
def Fld.TOP_CLK_STAT.REFCLK_OK : Fld := ⟨.TOP_CLK_STAT, 0, 3, 0, .ro, .none, 0⟩
/-! TOP_RST_CTL: 01_architecture.md R27 -/
def Fld.TOP_RST_CTL.TST_RST : Fld := ⟨.TOP_RST_CTL, 0, 4, 4, .w1s, .l, 0⟩
def Fld.TOP_RST_CTL.MEM_RST : Fld := ⟨.TOP_RST_CTL, 0, 3, 3, .w1s, .l, 0⟩
def Fld.TOP_RST_CTL.DSP_RST : Fld := ⟨.TOP_RST_CTL, 0, 2, 2, .w1s, .l, 0⟩
def Fld.TOP_RST_CTL.COL_RST : Fld := ⟨.TOP_RST_CTL, 0, 1, 1, .w1s, .l, 0⟩
def Fld.TOP_RST_CTL.SWC_RST : Fld := ⟨.TOP_RST_CTL, 0, 0, 0, .w1s, .l, 0⟩
/-! TOP_UNIT_STAT: 01_architecture.md R28 -/
def Fld.TOP_UNIT_STAT.TILE_OK : Fld := ⟨.TOP_UNIT_STAT, 0, 31, 16, .ro, .none, 0⟩
def Fld.TOP_UNIT_STAT.CHIPLET_OK : Fld := ⟨.TOP_UNIT_STAT, 0, 8, 0, .ro, .none, 0⟩
/-! TOP_PG_STAT: 01_architecture.md R28 -/
def Fld.TOP_PG_STAT.PLANE_OK : Fld := ⟨.TOP_PG_STAT, 0, 23, 23, .ro, .none, 0⟩
def Fld.TOP_PG_STAT.CANTON_ACTIVE : Fld := ⟨.TOP_PG_STAT, 0, 22, 22, .ro, .none, 0⟩
def Fld.TOP_PG_STAT.MEM_OK : Fld := ⟨.TOP_PG_STAT, 0, 21, 21, .ro, .none, 0⟩
def Fld.TOP_PG_STAT.DSP_OK : Fld := ⟨.TOP_PG_STAT, 0, 20, 20, .ro, .none, 0⟩
def Fld.TOP_PG_STAT.COL_OK : Fld := ⟨.TOP_PG_STAT, 0, 19, 19, .ro, .none, 0⟩
def Fld.TOP_PG_STAT.HALYARD_OK : Fld := ⟨.TOP_PG_STAT, 0, 18, 18, .ro, .none, 0⟩
def Fld.TOP_PG_STAT.PG_OK : Fld := ⟨.TOP_PG_STAT, 0, 17, 0, .ro, .none, 0⟩
/-! LNE_GLB_CFG: 02_lanes.md R71 -/
def Fld.LNE_GLB_CFG.TRAIN_MAX : Fld := ⟨.LNE_GLB_CFG, 0, 31, 24, .rw, .l, 50⟩
def Fld.LNE_GLB_CFG.LPI_IDLE : Fld := ⟨.LNE_GLB_CFG, 0, 23, 16, .rw, .l, 10⟩
def Fld.LNE_GLB_CFG.RETRY_MAX : Fld := ⟨.LNE_GLB_CFG, 0, 15, 12, .rw, .l, 8⟩
def Fld.LNE_GLB_CFG.UNCORR_FAIL : Fld := ⟨.LNE_GLB_CFG, 0, 11, 8, .rw, .l, 4⟩
def Fld.LNE_GLB_CFG.PLAN_WAIT : Fld := ⟨.LNE_GLB_CFG, 0, 7, 0, .rw, .l, 100⟩
/-! LNE_FABRIC_ID: 02_lanes.md R71 -/
def Fld.LNE_FABRIC_ID.ID : Fld := ⟨.LNE_FABRIC_ID, 0, 31, 0, .rw, .g, 0⟩
/-! LNE_QDISC_CNT: 02_lanes.md R49 -/
def Fld.LNE_QDISC_CNT.N : Fld := ⟨.LNE_QDISC_CNT, 0, 31, 0, .rc, .none, 0⟩
/-! LNE_BADBLK: 02_lanes.md R32 -/
def Fld.LNE_BADBLK.N : Fld := ⟨.LNE_BADBLK, 0, 31, 0, .rc, .none, 0⟩
/-! LNE_LANE_CFG: 02_lanes.md R71 -/
def Fld.LNE_LANE_CFG.LOOPBACK : Fld := ⟨.LNE_LANE_CFG, 0, 31, 29, .rw, .s, 0⟩
def Fld.LNE_LANE_CFG.PRBS_GEN : Fld := ⟨.LNE_LANE_CFG, 0, 28, 25, .rw, .s, 0⟩
def Fld.LNE_LANE_CFG.PRBS_CHK : Fld := ⟨.LNE_LANE_CFG, 0, 24, 21, .rw, .s, 0⟩
def Fld.LNE_LANE_CFG.PRBS_CLR : Fld := ⟨.LNE_LANE_CFG, 0, 20, 20, .w1s, .l, 0⟩
def Fld.LNE_LANE_CFG.TX_INV : Fld := ⟨.LNE_LANE_CFG, 0, 19, 19, .rw, .s, 0⟩
def Fld.LNE_LANE_CFG.RX_INV : Fld := ⟨.LNE_LANE_CFG, 0, 18, 18, .rw, .s, 0⟩
def Fld.LNE_LANE_CFG.TX_SQUELCH : Fld := ⟨.LNE_LANE_CFG, 0, 17, 17, .rw, .l, 0⟩
/-! LNE_LANE_STAT: 02_lanes.md R71 -/
def Fld.LNE_LANE_STAT.SIG_DET : Fld := ⟨.LNE_LANE_STAT, 0, 31, 31, .ro, .none, 0⟩
def Fld.LNE_LANE_STAT.BIT_LOCK : Fld := ⟨.LNE_LANE_STAT, 0, 30, 30, .ro, .none, 0⟩
def Fld.LNE_LANE_STAT.CW_LOCK : Fld := ⟨.LNE_LANE_STAT, 0, 29, 29, .ro, .none, 0⟩
def Fld.LNE_LANE_STAT.AM_LOCK : Fld := ⟨.LNE_LANE_STAT, 0, 28, 28, .ro, .none, 0⟩
def Fld.LNE_LANE_STAT.PRBS_LOCK : Fld := ⟨.LNE_LANE_STAT, 0, 27, 27, .ro, .none, 0⟩
def Fld.LNE_LANE_STAT.LANE_FAIL : Fld := ⟨.LNE_LANE_STAT, 0, 26, 26, .ro, .none, 0⟩
def Fld.LNE_LANE_STAT.LPI : Fld := ⟨.LNE_LANE_STAT, 0, 25, 25, .ro, .none, 0⟩
def Fld.LNE_LANE_STAT.SNR : Fld := ⟨.LNE_LANE_STAT, 0, 24, 16, .ro, .none, 0⟩
def Fld.LNE_LANE_STAT.DESKEW : Fld := ⟨.LNE_LANE_STAT, 0, 12, 0, .ro, .none, 0⟩
/-! LNE_FEC_CORR: 02_lanes.md R71 -/
def Fld.LNE_FEC_CORR.N : Fld := ⟨.LNE_FEC_CORR, 0, 31, 0, .rc, .none, 0⟩
/-! LNE_FEC_UNCORR: 02_lanes.md R37 -/
def Fld.LNE_FEC_UNCORR.N : Fld := ⟨.LNE_FEC_UNCORR, 0, 31, 0, .rc, .none, 0⟩
/-! LNE_FEC_SYMERR: 02_lanes.md R71 -/
def Fld.LNE_FEC_SYMERR.N : Fld := ⟨.LNE_FEC_SYMERR, 0, 31, 0, .rc, .none, 0⟩
/-! LNE_PRBS_ERR: 02_lanes.md R66 -/
def Fld.LNE_PRBS_ERR.LO : Fld := ⟨.LNE_PRBS_ERR, 0, 31, 0, .ro, .none, 0⟩
def Fld.LNE_PRBS_ERR.HI : Fld := ⟨.LNE_PRBS_ERR, 1, 31, 0, .ro, .none, 0⟩
/-! LNE_TX_COEF: 02_lanes.md R71 -/
def Fld.LNE_TX_COEF.CM3 : Fld := ⟨.LNE_TX_COEF, 0, 29, 24, .ro, .none, 0⟩
def Fld.LNE_TX_COEF.CM2 : Fld := ⟨.LNE_TX_COEF, 0, 23, 18, .ro, .none, 0⟩
def Fld.LNE_TX_COEF.CM1 : Fld := ⟨.LNE_TX_COEF, 0, 17, 12, .ro, .none, 0⟩
def Fld.LNE_TX_COEF.C0 : Fld := ⟨.LNE_TX_COEF, 0, 11, 6, .ro, .none, 0⟩
def Fld.LNE_TX_COEF.CP1 : Fld := ⟨.LNE_TX_COEF, 0, 5, 0, .ro, .none, 0⟩
/-! LNE_EYE_CTL: 02_lanes.md R67 -/
def Fld.LNE_EYE_CTL.START : Fld := ⟨.LNE_EYE_CTL, 0, 31, 31, .w1s, .l, 0⟩
def Fld.LNE_EYE_CTL.EYE : Fld := ⟨.LNE_EYE_CTL, 0, 30, 29, .rw, .l, 0⟩
/-! LNE_EYE_STAT: 02_lanes.md R67 -/
def Fld.LNE_EYE_STAT.DONE : Fld := ⟨.LNE_EYE_STAT, 0, 31, 31, .ro, .none, 0⟩
def Fld.LNE_EYE_STAT.HEIGHT : Fld := ⟨.LNE_EYE_STAT, 0, 30, 24, .ro, .none, 0⟩
def Fld.LNE_EYE_STAT.WIDTH : Fld := ⟨.LNE_EYE_STAT, 0, 23, 16, .ro, .none, 0⟩
/-! LNE_PORT_CFG: 02_lanes.md R55 -/
def Fld.LNE_PORT_CFG.PORT_EN : Fld := ⟨.LNE_PORT_CFG, 0, 31, 31, .rw, .l, 0⟩
def Fld.LNE_PORT_CFG.AUTO_ADMIT : Fld := ⟨.LNE_PORT_CFG, 0, 30, 30, .rw, .s, 0⟩
def Fld.LNE_PORT_CFG.QMGMT : Fld := ⟨.LNE_PORT_CFG, 0, 29, 29, .rw, .s, 0⟩
def Fld.LNE_PORT_CFG.LPI_EN : Fld := ⟨.LNE_PORT_CFG, 0, 28, 28, .rw, .l, 0⟩
def Fld.LNE_PORT_CFG.RESTORE_AUTO : Fld := ⟨.LNE_PORT_CFG, 0, 27, 27, .rw, .l, 0⟩
def Fld.LNE_PORT_CFG.MIN_WIDTH : Fld := ⟨.LNE_PORT_CFG, 0, 23, 21, .rw, .s, 0⟩
def Fld.LNE_PORT_CFG.WIDTH : Fld := ⟨.LNE_PORT_CFG, 0, 20, 18, .rw, .s, 0⟩
/-! LNE_PORT_CTL: 02_lanes.md R71 -/
def Fld.LNE_PORT_CTL.RESTORE : Fld := ⟨.LNE_PORT_CTL, 0, 2, 2, .w1s, .l, 0⟩
def Fld.LNE_PORT_CTL.ADMIT : Fld := ⟨.LNE_PORT_CTL, 0, 1, 1, .w1s, .l, 0⟩
def Fld.LNE_PORT_CTL.RETRAIN : Fld := ⟨.LNE_PORT_CTL, 0, 0, 0, .w1s, .l, 0⟩
/-! LNE_PORT_STAT: 02_lanes.md R41 -/
def Fld.LNE_PORT_STAT.STAGE : Fld := ⟨.LNE_PORT_STAT, 0, 31, 29, .ro, .none, 0⟩
def Fld.LNE_PORT_STAT.ACT_WIDTH : Fld := ⟨.LNE_PORT_STAT, 0, 28, 26, .ro, .none, 0⟩
def Fld.LNE_PORT_STAT.HALF_MAST : Fld := ⟨.LNE_PORT_STAT, 0, 25, 25, .ro, .none, 0⟩
def Fld.LNE_PORT_STAT.CFG_REJ : Fld := ⟨.LNE_PORT_STAT, 0, 24, 24, .w1c, .none, 0⟩
def Fld.LNE_PORT_STAT.REASON : Fld := ⟨.LNE_PORT_STAT, 0, 23, 20, .ro, .none, 0⟩
def Fld.LNE_PORT_STAT.RETRIES : Fld := ⟨.LNE_PORT_STAT, 0, 19, 16, .ro, .none, 0⟩
def Fld.LNE_PORT_STAT.ACT_MASK : Fld := ⟨.LNE_PORT_STAT, 0, 15, 0, .ro, .none, 0⟩
/-! LNE_WIRE_CTL: 02_lanes.md R52 -/
def Fld.LNE_WIRE_CTL.VALID : Fld := ⟨.LNE_WIRE_CTL, 0, 31, 31, .rw, .l, 0⟩
def Fld.LNE_WIRE_CTL.CHECK : Fld := ⟨.LNE_WIRE_CTL, 0, 30, 26, .rw, .l, 0⟩
def Fld.LNE_WIRE_CTL.EXP_ROLE : Fld := ⟨.LNE_WIRE_CTL, 0, 25, 24, .rw, .l, 0⟩
/-! LNE_WIRE_ID: 02_lanes.md R71 -/
def Fld.LNE_WIRE_ID.EXP_EP_ID : Fld := ⟨.LNE_WIRE_ID, 0, 31, 16, .rw, .l, 0⟩
def Fld.LNE_WIRE_ID.EXP_PORT_ID : Fld := ⟨.LNE_WIRE_ID, 0, 15, 0, .rw, .l, 0⟩
/-! LNE_WIRE_SER: 02_lanes.md R71 -/
def Fld.LNE_WIRE_SER.LO : Fld := ⟨.LNE_WIRE_SER, 0, 31, 0, .rw, .l, 0⟩
def Fld.LNE_WIRE_SER.HI : Fld := ⟨.LNE_WIRE_SER, 1, 31, 0, .rw, .l, 0⟩
/-! LNE_WIRE_FAB: 02_lanes.md R71 -/
def Fld.LNE_WIRE_FAB.ID : Fld := ⟨.LNE_WIRE_FAB, 0, 31, 0, .rw, .l, 0⟩
/-! LNE_FAR_ENSIGN: 02_lanes.md R71 -/
/-! LFP_GLB_CFG: 03_fabric_protocol.md R112 -/
def Fld.LFP_GLB_CFG.MAX_RES : Fld := ⟨.LFP_GLB_CFG, 0, 23, 16, .rw, .g, 100⟩
def Fld.LFP_GLB_CFG.HOP_LIMIT : Fld := ⟨.LFP_GLB_CFG, 0, 12, 8, .rw, .g, 16⟩
/-! LFP_CE_CFG: 03_fabric_protocol.md R107 -/
def Fld.LFP_CE_CFG.CE_MAX : Fld := ⟨.LFP_CE_CFG, 0, 31, 16, .rw, .g, 0x200⟩
def Fld.LFP_CE_CFG.CE_MIN : Fld := ⟨.LFP_CE_CFG, 0, 15, 0, .rw, .g, 0x100⟩
/-! LFP_WIN_CFG: 03_fabric_protocol.md R100 -/
def Fld.LFP_WIN_CFG.W_SRC : Fld := ⟨.LFP_WIN_CFG, 0, 31, 22, .rw, .g, 0x200⟩
def Fld.LFP_WIN_CFG.ACK_STRIDE : Fld := ⟨.LFP_WIN_CFG, 0, 21, 14, .rw, .g, 64⟩
def Fld.LFP_WIN_CFG.ACK_DELAY : Fld := ⟨.LFP_WIN_CFG, 0, 13, 8, .rw, .g, 10⟩
def Fld.LFP_WIN_CFG.ECE_INT : Fld := ⟨.LFP_WIN_CFG, 0, 7, 0, .rw, .g, 10⟩
/-! LFP_TMO_CFG: 03_fabric_protocol.md R111 -/
def Fld.LFP_TMO_CFG.OP_TIMEOUT : Fld := ⟨.LFP_TMO_CFG, 0, 31, 16, .rw, .g, 0x7d0⟩
def Fld.LFP_TMO_CFG.HOLE_T : Fld := ⟨.LFP_TMO_CFG, 0, 15, 0, .rw, .g, 0x3e8⟩
/-! LFP_CC_CFG: 03_fabric_protocol.md R109 -/
def Fld.LFP_CC_CFG.INC_INT : Fld := ⟨.LFP_CC_CFG, 0, 23, 16, .rw, .g, 10⟩
def Fld.LFP_CC_CFG.DEC_INT : Fld := ⟨.LFP_CC_CFG, 0, 15, 8, .rw, .g, 20⟩
def Fld.LFP_CC_CFG.DEC_SHIFT : Fld := ⟨.LFP_CC_CFG, 0, 7, 4, .rw, .g, 2⟩
def Fld.LFP_CC_CFG.INC : Fld := ⟨.LFP_CC_CFG, 0, 3, 0, .rw, .g, 1⟩
/-! LFP_CRED_ESC: 03_fabric_protocol.md R95 -/
def Fld.LFP_CRED_ESC.ADV : Fld := ⟨.LFP_CRED_ESC, 0, 14, 0, .rw, .g, 0x102⟩
/-! LFP_CRED_ADV0: 03_fabric_protocol.md R95 -/
def Fld.LFP_CRED_ADV0.ADV : Fld := ⟨.LFP_CRED_ADV0, 0, 14, 0, .rw, .g, 0x19d⟩
/-! LFP_CRED_ADV1: 03_fabric_protocol.md R95 -/
def Fld.LFP_CRED_ADV1.ADV : Fld := ⟨.LFP_CRED_ADV1, 0, 14, 0, .rw, .g, 0x237⟩
/-! LFP_CRED_ADV2: 03_fabric_protocol.md R95 -/
def Fld.LFP_CRED_ADV2.ADV : Fld := ⟨.LFP_CRED_ADV2, 0, 14, 0, .rw, .g, 0x36c⟩
/-! LFP_CRED_ADV3: 03_fabric_protocol.md R95 -/
def Fld.LFP_CRED_ADV3.ADV : Fld := ⟨.LFP_CRED_ADV3, 0, 14, 0, .rw, .g, 0x5d6⟩
/-! LFP_CRED_ADV4: 03_fabric_protocol.md R95 -/
def Fld.LFP_CRED_ADV4.ADV : Fld := ⟨.LFP_CRED_ADV4, 0, 14, 0, .rw, .g, 0xaa9⟩
/-! LFP_HCRC_DISC: 03_fabric_protocol.md R84 -/
def Fld.LFP_HCRC_DISC.N : Fld := ⟨.LFP_HCRC_DISC, 0, 31, 0, .rc, .none, 0⟩
/-! LFP_HDR_DISC: 03_fabric_protocol.md R84 -/
def Fld.LFP_HDR_DISC.N : Fld := ⟨.LFP_HDR_DISC, 0, 31, 0, .rc, .none, 0⟩
/-! LFP_CRC_DISC: 03_fabric_protocol.md R86 -/
def Fld.LFP_CRC_DISC.N : Fld := ⟨.LFP_CRC_DISC, 0, 31, 0, .rc, .none, 0⟩
/-! LFP_STOMP_TX: 03_fabric_protocol.md R86 -/
def Fld.LFP_STOMP_TX.N : Fld := ⟨.LFP_STOMP_TX, 0, 31, 0, .rc, .none, 0⟩
/-! LFP_STOMP_RX: 03_fabric_protocol.md R86 -/
def Fld.LFP_STOMP_RX.N : Fld := ⟨.LFP_STOMP_RX, 0, 31, 0, .rc, .none, 0⟩
/-! LFP_OVERSIZE_DISC: 03_fabric_protocol.md R97 -/
def Fld.LFP_OVERSIZE_DISC.N : Fld := ⟨.LFP_OVERSIZE_DISC, 0, 31, 0, .rc, .none, 0⟩
/-! LFP_WH_TRUNC: 03_fabric_protocol.md R98 -/
def Fld.LFP_WH_TRUNC.N : Fld := ⟨.LFP_WH_TRUNC, 0, 31, 0, .rc, .none, 0⟩
/-! LFP_AGE_DISC: 03_fabric_protocol.md R85 -/
def Fld.LFP_AGE_DISC.N : Fld := ⟨.LFP_AGE_DISC, 0, 31, 0, .rc, .none, 0⟩
/-! LFP_OOW_DISC: 03_fabric_protocol.md R103 -/
def Fld.LFP_OOW_DISC.N : Fld := ⟨.LFP_OOW_DISC, 0, 31, 0, .rc, .none, 0⟩
/-! LFP_LATE_DISC: 03_fabric_protocol.md R103 -/
def Fld.LFP_LATE_DISC.N : Fld := ⟨.LFP_LATE_DISC, 0, 31, 0, .rc, .none, 0⟩
/-! LFP_HOLE_CNT: 03_fabric_protocol.md R105 -/
def Fld.LFP_HOLE_CNT.N : Fld := ⟨.LFP_HOLE_CNT, 0, 31, 0, .rc, .none, 0⟩
/-! LFP_PEN_FAIL: 03_fabric_protocol.md R105 -/
def Fld.LFP_PEN_FAIL.N : Fld := ⟨.LFP_PEN_FAIL, 0, 31, 0, .rc, .none, 0⟩
/-! LFP_OP_TMO: 03_fabric_protocol.md R111 -/
def Fld.LFP_OP_TMO.N : Fld := ⟨.LFP_OP_TMO, 0, 31, 0, .rc, .none, 0⟩
/-! LFP_STALE_CPL: 03_fabric_protocol.md R111 -/
def Fld.LFP_STALE_CPL.N : Fld := ⟨.LFP_STALE_CPL, 0, 31, 0, .rc, .none, 0⟩
/-! LFP_CRED_RECON: 03_fabric_protocol.md R94 -/
def Fld.LFP_CRED_RECON.N : Fld := ⟨.LFP_CRED_RECON, 0, 31, 0, .rc, .none, 0⟩
/-! LFP_HOP_DISC: 03_fabric_protocol.md R84 -/
def Fld.LFP_HOP_DISC.N : Fld := ⟨.LFP_HOP_DISC, 0, 31, 0, .rc, .none, 0⟩
/-! LFP_CRED_VIOL: 03_fabric_protocol.md R84 -/
def Fld.LFP_CRED_VIOL.N : Fld := ⟨.LFP_CRED_VIOL, 0, 31, 0, .rc, .none, 0⟩
/-! LFP_PORT_CFG: 03_fabric_protocol.md R97 -/
def Fld.LFP_PORT_CFG.FLOW_MODE : Fld := ⟨.LFP_PORT_CFG, 0, 31, 30, .rw, .s, 0⟩
def Fld.LFP_PORT_CFG.PATH_EN : Fld := ⟨.LFP_PORT_CFG, 0, 29, 29, .rw, .s, 1⟩
def Fld.LFP_PORT_CFG.WH_WAIT : Fld := ⟨.LFP_PORT_CFG, 0, 27, 20, .rw, .g, 10⟩
def Fld.LFP_PORT_CFG.WH_MAX : Fld := ⟨.LFP_PORT_CFG, 0, 19, 12, .rw, .g, 10⟩
/-! LFP_PORT_STAT: 03_fabric_protocol.md R112 -/
def Fld.LFP_PORT_STAT.WH_TX : Fld := ⟨.LFP_PORT_STAT, 0, 31, 31, .ro, .none, 0⟩
def Fld.LFP_PORT_STAT.FAR_WH : Fld := ⟨.LFP_PORT_STAT, 0, 30, 30, .ro, .none, 0⟩
def Fld.LFP_PORT_STAT.CRED_UP : Fld := ⟨.LFP_PORT_STAT, 0, 29, 29, .ro, .none, 0⟩
/-! LFP_PORT_CREDIT: 03_fabric_protocol.md R112 -/
def Fld.LFP_PORT_CREDIT.FAR_ADV : Fld := ⟨.LFP_PORT_CREDIT, 0, 30, 16, .ro, .none, 0⟩
def Fld.LFP_PORT_CREDIT.AVAIL : Fld := ⟨.LFP_PORT_CREDIT, 0, 14, 0, .ro, .none, 0⟩
/-! RTE_GLB_CFG: 04_routing.md R138 -/
def Fld.RTE_GLB_CFG.ESC_EN : Fld := ⟨.RTE_GLB_CFG, 0, 31, 31, .rw, .g, 1⟩
def Fld.RTE_GLB_CFG.ESC_WAIT : Fld := ⟨.RTE_GLB_CFG, 0, 23, 16, .rw, .g, 20⟩
def Fld.RTE_GLB_CFG.ADAPT_BIAS : Fld := ⟨.RTE_GLB_CFG, 0, 15, 8, .rw, .g, 32⟩
/-! RTE_HASH_SEED: 04_routing.md R120 -/
def Fld.RTE_HASH_SEED.SEED : Fld := ⟨.RTE_HASH_SEED, 0, 15, 0, .rw, .g, 0xffff⟩
/-! RTE_DRAIN_CTL: 04_routing.md R131 -/
def Fld.RTE_DRAIN_CTL.START : Fld := ⟨.RTE_DRAIN_CTL, 0, 31, 31, .w1s, .l, 0⟩
def Fld.RTE_DRAIN_CTL.ABORT : Fld := ⟨.RTE_DRAIN_CTL, 0, 30, 30, .w1s, .l, 0⟩
def Fld.RTE_DRAIN_CTL.DRAIN_ID : Fld := ⟨.RTE_DRAIN_CTL, 0, 15, 0, .rw, .l, 0⟩
/-! RTE_DRAIN_STAT: 04_routing.md R131 -/
def Fld.RTE_DRAIN_STAT.BUSY : Fld := ⟨.RTE_DRAIN_STAT, 0, 31, 31, .ro, .none, 0⟩
def Fld.RTE_DRAIN_STAT.DONE : Fld := ⟨.RTE_DRAIN_STAT, 0, 30, 30, .ro, .none, 0⟩
def Fld.RTE_DRAIN_STAT.REJ : Fld := ⟨.RTE_DRAIN_STAT, 0, 29, 29, .w1c, .none, 0⟩
def Fld.RTE_DRAIN_STAT.ABT : Fld := ⟨.RTE_DRAIN_STAT, 0, 28, 28, .ro, .none, 0⟩
def Fld.RTE_DRAIN_STAT.ID : Fld := ⟨.RTE_DRAIN_STAT, 0, 15, 0, .ro, .none, 0⟩
/-! RTE_DRAIN_OLD: 04_routing.md R131 -/
def Fld.RTE_DRAIN_OLD.N : Fld := ⟨.RTE_DRAIN_OLD, 0, 23, 0, .ro, .none, 0⟩
/-! RTE_CMAP_CFG: 04_routing.md R136 -/
def Fld.RTE_CMAP_CFG.PUSH_EN : Fld := ⟨.RTE_CMAP_CFG, 0, 31, 31, .rw, .l, 0⟩
def Fld.RTE_CMAP_CFG.MAP_INT : Fld := ⟨.RTE_CMAP_CFG, 0, 6, 0, .rw, .g, 10⟩
/-! RTE_CMAP_SEQ: 04_routing.md R136 -/
def Fld.RTE_CMAP_SEQ.N : Fld := ⟨.RTE_CMAP_SEQ, 0, 31, 0, .ro, .none, 0⟩
/-! RTE_ALIAS: 04_routing.md R115 -/
def Fld.RTE_ALIAS.VALID : Fld := ⟨.RTE_ALIAS, 0, 31, 31, .rw, .g, 0⟩
def Fld.RTE_ALIAS.ID : Fld := ⟨.RTE_ALIAS, 0, 15, 0, .rw, .g, 0⟩
/-! RTE_MISS_DISC: 04_routing.md R116 -/
def Fld.RTE_MISS_DISC.N : Fld := ⟨.RTE_MISS_DISC, 0, 31, 0, .rc, .none, 0⟩
/-! RTE_PATH_DISC: 04_routing.md R124 -/
def Fld.RTE_PATH_DISC.N : Fld := ⟨.RTE_PATH_DISC, 0, 31, 0, .rc, .none, 0⟩
/-! RTE_ESC_DISC: 04_routing.md R126 -/
def Fld.RTE_ESC_DISC.N : Fld := ⟨.RTE_ESC_DISC, 0, 31, 0, .rc, .none, 0⟩
/-! RTE_INT_DISC: 04_routing.md R113 -/
def Fld.RTE_INT_DISC.N : Fld := ⟨.RTE_INT_DISC, 0, 31, 0, .rc, .none, 0⟩
/-! RTE_MC_DISC: 04_routing.md R128 -/
def Fld.RTE_MC_DISC.N : Fld := ⟨.RTE_MC_DISC, 0, 31, 0, .rc, .none, 0⟩
/-! RTE_ESC_MOVE: 04_routing.md R123 -/
def Fld.RTE_ESC_MOVE.N : Fld := ⟨.RTE_ESC_MOVE, 0, 31, 0, .rc, .none, 0⟩
/-! RTE_NOPORT_DISC: 04_routing.md R123 -/
def Fld.RTE_NOPORT_DISC.N : Fld := ⟨.RTE_NOPORT_DISC, 0, 31, 0, .rc, .none, 0⟩
/-! RTE_CMAP_LOST: 04_routing.md R137 -/
def Fld.RTE_CMAP_LOST.N : Fld := ⟨.RTE_CMAP_LOST, 0, 31, 0, .rc, .none, 0⟩
/-! RTE_PORT_CFG: 04_routing.md R126 -/
def Fld.RTE_PORT_CFG.DIR : Fld := ⟨.RTE_PORT_CFG, 0, 31, 31, .rw, .g, 0⟩
def Fld.RTE_PORT_CFG.MARK_TX : Fld := ⟨.RTE_PORT_CFG, 0, 30, 30, .rw, .l, 0⟩
def Fld.RTE_PORT_CFG.AWAIT : Fld := ⟨.RTE_PORT_CFG, 0, 29, 29, .rw, .l, 0⟩
/-! RTE_MARK_RX: 04_routing.md R134 -/
def Fld.RTE_MARK_RX.VALID : Fld := ⟨.RTE_MARK_RX, 0, 31, 31, .ro, .none, 0⟩
def Fld.RTE_MARK_RX.PEND : Fld := ⟨.RTE_MARK_RX, 0, 30, 30, .ro, .none, 0⟩
def Fld.RTE_MARK_RX.ID : Fld := ⟨.RTE_MARK_RX, 0, 15, 0, .ro, .none, 0⟩
/-! RTE_ENTRY: 04_routing.md R118 -/
def Fld.RTE_ENTRY.VALID : Fld := ⟨.RTE_ENTRY, 0, 31, 31, .rw, .l, 0⟩
def Fld.RTE_ENTRY.POLICY : Fld := ⟨.RTE_ENTRY, 0, 30, 29, .rw, .l, 0⟩
def Fld.RTE_ENTRY.MC : Fld := ⟨.RTE_ENTRY, 0, 28, 28, .rw, .l, 0⟩
def Fld.RTE_ENTRY.INDEX : Fld := ⟨.RTE_ENTRY, 0, 27, 16, .rw, .l, 0⟩
def Fld.RTE_ENTRY.TAGH : Fld := ⟨.RTE_ENTRY, 0, 12, 12, .rw, .l, 0⟩
def Fld.RTE_ENTRY.ESC_EN : Fld := ⟨.RTE_ENTRY, 0, 11, 11, .rw, .l, 0⟩
def Fld.RTE_ENTRY.ESC_CODE : Fld := ⟨.RTE_ENTRY, 0, 10, 0, .rw, .l, 0⟩
/-! RTE_SET: 04_routing.md R119 -/
def Fld.RTE_SET.W0 : Fld := ⟨.RTE_SET, 0, 31, 0, .rw, .l, 0⟩
def Fld.RTE_SET.W1 : Fld := ⟨.RTE_SET, 1, 31, 0, .rw, .l, 0⟩
def Fld.RTE_SET.W2 : Fld := ⟨.RTE_SET, 2, 31, 0, .rw, .l, 0⟩
def Fld.RTE_SET.W3 : Fld := ⟨.RTE_SET, 3, 31, 0, .rw, .l, 0⟩
def Fld.RTE_SET.W4 : Fld := ⟨.RTE_SET, 4, 31, 0, .rw, .l, 0⟩
def Fld.RTE_SET.COUNT : Fld := ⟨.RTE_SET, 5, 20, 16, .rw, .l, 0⟩
def Fld.RTE_SET.W5 : Fld := ⟨.RTE_SET, 5, 15, 0, .rw, .l, 0⟩
/-! RTE_MCG: 04_routing.md R130 -/
def Fld.RTE_MCG.UP_VALID : Fld := ⟨.RTE_MCG, 18, 31, 31, .rw, .l, 0⟩
def Fld.RTE_MCG.UP_SET : Fld := ⟨.RTE_MCG, 18, 27, 16, .rw, .l, 0⟩
def Fld.RTE_MCG.INTERNAL : Fld := ⟨.RTE_MCG, 18, 4, 0, .rw, .l, 0⟩
/-! RTE_CMAP: 04_routing.md R136 -/
/-! SWC_BUF_CFG: 05_switch_core.md R170 -/
def Fld.SWC_BUF_CFG.GUAR : Fld := ⟨.SWC_BUF_CFG, 0, 31, 16, .rw, .g, 0x400⟩
def Fld.SWC_BUF_CFG.SHARED_MIN : Fld := ⟨.SWC_BUF_CFG, 0, 9, 0, .rw, .g, 0x200⟩
/-! SWC_ALPHA: 05_switch_core.md R170 -/
def Fld.SWC_ALPHA.ALPHA_MC : Fld := ⟨.SWC_ALPHA, 0, 29, 27, .rw, .g, 2⟩
def Fld.SWC_ALPHA.ALPHA8 : Fld := ⟨.SWC_ALPHA, 0, 26, 24, .rw, .g, 7⟩
def Fld.SWC_ALPHA.ALPHAS : Fld := ⟨.SWC_ALPHA, 0, 23, 0, .rw, .g, 0x924924⟩
/-! SWC_EGR_CFG: 05_switch_core.md R170 -/
def Fld.SWC_EGR_CFG.HOLD_DOWN : Fld := ⟨.SWC_EGR_CFG, 0, 31, 16, .rw, .g, 100⟩
def Fld.SWC_EGR_CFG.STAGE_HI : Fld := ⟨.SWC_EGR_CFG, 0, 15, 0, .rw, .g, 0x400⟩
/-! SWC_SCHED_LO: 05_switch_core.md R158 -/
def Fld.SWC_SCHED_LO.W : Fld := ⟨.SWC_SCHED_LO, 0, 31, 0, .rw, .g, 0x10101010⟩
/-! SWC_SCHED_HI: 05_switch_core.md R158 -/
def Fld.SWC_SCHED_HI.W : Fld := ⟨.SWC_SCHED_HI, 0, 31, 0, .rw, .g, 0x10101010⟩
/-! SWC_HAL_CFG: 05_switch_core.md R164 -/
def Fld.SWC_HAL_CFG.HAL_ADV : Fld := ⟨.SWC_HAL_CFG, 0, 31, 16, .rw, .g, 0x2000⟩
def Fld.SWC_HAL_CFG.RETRY_MAX : Fld := ⟨.SWC_HAL_CFG, 0, 15, 12, .rw, .g, 8⟩
/-! SWC_MIR_CFG: 05_switch_core.md R168 -/
def Fld.SWC_MIR_CFG.ING_EN : Fld := ⟨.SWC_MIR_CFG, 0, 31, 31, .rw, .l, 0⟩
def Fld.SWC_MIR_CFG.EGR_EN : Fld := ⟨.SWC_MIR_CFG, 0, 30, 30, .rw, .l, 0⟩
def Fld.SWC_MIR_CFG.RATE : Fld := ⟨.SWC_MIR_CFG, 0, 15, 0, .rw, .g, 64⟩
/-! SWC_BUF_STAT: 05_switch_core.md R143 -/
def Fld.SWC_BUF_STAT.STALE : Fld := ⟨.SWC_BUF_STAT, 0, 31, 31, .ro, .none, 0⟩
def Fld.SWC_BUF_STAT.GUAR_EFF : Fld := ⟨.SWC_BUF_STAT, 0, 15, 0, .ro, .none, 0x400⟩
/-! SWC_POOL_SIZE: 05_switch_core.md R144 -/
def Fld.SWC_POOL_SIZE.SIZE : Fld := ⟨.SWC_POOL_SIZE, 0, 22, 0, .ro, .none, 0x3dac00⟩
/-! SWC_POOL_USED: 05_switch_core.md R144 -/
def Fld.SWC_POOL_USED.USED : Fld := ⟨.SWC_POOL_USED, 0, 22, 0, .ro, .none, 0⟩
/-! SWC_HELD: 05_switch_core.md R145 -/
def Fld.SWC_HELD.HELD : Fld := ⟨.SWC_HELD, 0, 22, 0, .ro, .none, 0⟩
/-! SWC_SPINE_STAT: 05_switch_core.md R140 -/
def Fld.SWC_SPINE_STAT.N : Fld := ⟨.SWC_SPINE_STAT, 0, 28, 24, .ro, .none, 0⟩
def Fld.SWC_SPINE_STAT.ELEM_OK : Fld := ⟨.SWC_SPINE_STAT, 0, 23, 0, .ro, .none, 0⟩
/-! SWC_HAL_STAT: 05_switch_core.md R170 -/
def Fld.SWC_HAL_STAT.UP : Fld := ⟨.SWC_HAL_STAT, 0, 31, 31, .ro, .none, 0⟩
def Fld.SWC_HAL_STAT.RTT : Fld := ⟨.SWC_HAL_STAT, 0, 15, 0, .ro, .none, 0⟩
/-! SWC_FLUSH_DISC: 05_switch_core.md R160 -/
def Fld.SWC_FLUSH_DISC.N : Fld := ⟨.SWC_FLUSH_DISC, 0, 31, 0, .rc, .none, 0⟩
/-! SWC_OVF_DISC: 05_switch_core.md R148 -/
def Fld.SWC_OVF_DISC.N : Fld := ⟨.SWC_OVF_DISC, 0, 31, 0, .rc, .none, 0⟩
/-! SWC_RESEQ_LOSS: 05_switch_core.md R156 -/
def Fld.SWC_RESEQ_LOSS.N : Fld := ⟨.SWC_RESEQ_LOSS, 0, 31, 0, .rc, .none, 0⟩
/-! SWC_SPINE_ERR: 05_switch_core.md R156 -/
def Fld.SWC_SPINE_ERR.N : Fld := ⟨.SWC_SPINE_ERR, 0, 31, 0, .rc, .none, 0⟩
/-! SWC_HAL_REPLAY: 05_switch_core.md R163 -/
def Fld.SWC_HAL_REPLAY.N : Fld := ⟨.SWC_HAL_REPLAY, 0, 31, 0, .rc, .none, 0⟩
/-! SWC_HAL_CRC: 05_switch_core.md R163 -/
def Fld.SWC_HAL_CRC.N : Fld := ⟨.SWC_HAL_CRC, 0, 31, 0, .rc, .none, 0⟩
/-! SWC_MIR_DROP: 05_switch_core.md R168 -/
def Fld.SWC_MIR_DROP.N : Fld := ⟨.SWC_MIR_DROP, 0, 31, 0, .rc, .none, 0⟩
/-! SWC_PORT_CTL: 05_switch_core.md R161 -/
def Fld.SWC_PORT_CTL.HD_CLR : Fld := ⟨.SWC_PORT_CTL, 0, 0, 0, .w1s, .l, 0⟩
/-! SWC_PORT_STAT: 05_switch_core.md R161 -/
def Fld.SWC_PORT_STAT.HOLD : Fld := ⟨.SWC_PORT_STAT, 0, 31, 31, .ro, .none, 0⟩
def Fld.SWC_PORT_STAT.HD_LEFT : Fld := ⟨.SWC_PORT_STAT, 0, 15, 0, .ro, .none, 0⟩
/-! SWC_PORT_FLUSH: 05_switch_core.md R160 -/
def Fld.SWC_PORT_FLUSH.N : Fld := ⟨.SWC_PORT_FLUSH, 0, 31, 0, .rc, .none, 0⟩
/-! SWC_QDEPTH: 05_switch_core.md R147 -/
def Fld.SWC_QDEPTH.DEPTH : Fld := ⟨.SWC_QDEPTH, 0, 22, 0, .ro, .none, 0⟩
/-! COL_GLB_CFG: 06_collectives.md R203 -/
def Fld.COL_GLB_CFG.GRP_TMO : Fld := ⟨.COL_GLB_CFG, 0, 31, 16, .rw, .g, 100⟩
def Fld.COL_GLB_CFG.CRED_STRIDE : Fld := ⟨.COL_GLB_CFG, 0, 15, 8, .rw, .g, 8⟩
def Fld.COL_GLB_CFG.CRED_REFRESH : Fld := ⟨.COL_GLB_CFG, 0, 7, 0, .rw, .g, 10⟩
/-! COL_SLOT_FREE: 06_collectives.md R203 -/
def Fld.COL_SLOT_FREE.N : Fld := ⟨.COL_SLOT_FREE, 0, 22, 0, .ro, .none, 0x400000⟩
/-! COL_REC_FREE: 06_collectives.md R203 -/
def Fld.COL_REC_FREE.N : Fld := ⟨.COL_REC_FREE, 0, 18, 0, .ro, .none, 0x40000⟩
/-! COL_SPILL_FREE: 06_collectives.md R203, R237 -/
def Fld.COL_SPILL_FREE.N : Fld := ⟨.COL_SPILL_FREE, 0, 31, 0, .ro, .none, 0⟩
/-! COL_ACT_CNT: 06_collectives.md R203 -/
def Fld.COL_ACT_CNT.N : Fld := ⟨.COL_ACT_CNT, 0, 6, 0, .ro, .none, 0⟩
/-! COL_DIAG_CTL: 06_collectives.md R203 -/
def Fld.COL_DIAG_CTL.GROUP : Fld := ⟨.COL_DIAG_CTL, 0, 9, 0, .rw, .l, 0⟩
/-! COL_CRED_DISC: 06_collectives.md R189 -/
def Fld.COL_CRED_DISC.N : Fld := ⟨.COL_CRED_DISC, 0, 31, 0, .rc, .none, 0⟩
/-! COL_STALE_DISC: 06_collectives.md R189 -/
def Fld.COL_STALE_DISC.N : Fld := ⟨.COL_STALE_DISC, 0, 31, 0, .rc, .none, 0⟩
/-! COL_ABORT_DISC: 06_collectives.md R199 -/
def Fld.COL_ABORT_DISC.N : Fld := ⟨.COL_ABORT_DISC, 0, 31, 0, .rc, .none, 0⟩
/-! COL_GRP_DISC: 06_collectives.md R172 -/
def Fld.COL_GRP_DISC.N : Fld := ⟨.COL_GRP_DISC, 0, 31, 0, .rc, .none, 0⟩
/-! COL_SAT_CNT: 06_collectives.md R182 -/
def Fld.COL_SAT_CNT.N : Fld := ⟨.COL_SAT_CNT, 0, 31, 0, .rc, .none, 0⟩
/-! COL_CACHE_HIT: 06_collectives.md R186 -/
def Fld.COL_CACHE_HIT.N : Fld := ⟨.COL_CACHE_HIT, 0, 31, 0, .rc, .none, 0⟩
/-! COL_CACHE_MISS: 06_collectives.md R186 -/
def Fld.COL_CACHE_MISS.N : Fld := ⟨.COL_CACHE_MISS, 0, 31, 0, .rc, .none, 0⟩
/-! COL_FWD_CNT: 06_collectives.md R193 -/
def Fld.COL_FWD_CNT.N : Fld := ⟨.COL_FWD_CNT, 0, 31, 0, .rc, .none, 0⟩
/-! COL_DIAG_MAP: 06_collectives.md R203 -/
def Fld.COL_DIAG_MAP.W : Fld := ⟨.COL_DIAG_MAP, 0, 31, 0, .ro, .none, 0⟩
/-! COL_GRP: 06_collectives.md R203 -/
def Fld.COL_GRP.VALID : Fld := ⟨.COL_GRP, 0, 31, 31, .rw, .g, 0⟩
def Fld.COL_GRP.KIND : Fld := ⟨.COL_GRP, 0, 30, 28, .rw, .g, 0⟩
def Fld.COL_GRP.FMT : Fld := ⟨.COL_GRP, 0, 27, 24, .rw, .g, 0⟩
def Fld.COL_GRP.OUT_FMT : Fld := ⟨.COL_GRP, 0, 23, 20, .rw, .g, 0⟩
def Fld.COL_GRP.OP : Fld := ⟨.COL_GRP, 0, 19, 17, .rw, .g, 0⟩
def Fld.COL_GRP.COMP : Fld := ⟨.COL_GRP, 0, 16, 16, .rw, .g, 0⟩
def Fld.COL_GRP.RND : Fld := ⟨.COL_GRP, 0, 15, 15, .rw, .g, 0⟩
def Fld.COL_GRP.OVF : Fld := ⟨.COL_GRP, 0, 14, 14, .rw, .g, 0⟩
def Fld.COL_GRP.PART_FMT : Fld := ⟨.COL_GRP, 0, 13, 13, .rw, .g, 0⟩
def Fld.COL_GRP.ROOT : Fld := ⟨.COL_GRP, 0, 12, 12, .rw, .g, 0⟩
def Fld.COL_GRP.EXHAUST : Fld := ⟨.COL_GRP, 0, 11, 10, .rw, .g, 0⟩
def Fld.COL_GRP.DOWN_FORM : Fld := ⟨.COL_GRP, 0, 9, 9, .rw, .g, 0⟩
def Fld.COL_GRP.XPLANE : Fld := ⟨.COL_GRP, 0, 8, 8, .rw, .g, 0⟩
def Fld.COL_GRP.TC : Fld := ⟨.COL_GRP, 0, 7, 5, .rw, .g, 0⟩
def Fld.COL_GRP.CHUNK_SLOTS : Fld := ⟨.COL_GRP, 0, 4, 0, .rw, .g, 15⟩
def Fld.COL_GRP.CHILD_BASE : Fld := ⟨.COL_GRP, 1, 31, 16, .rw, .g, 0⟩
def Fld.COL_GRP.CHILD_COUNT : Fld := ⟨.COL_GRP, 1, 10, 0, .rw, .g, 0⟩
def Fld.COL_GRP.PARENT_ID : Fld := ⟨.COL_GRP, 2, 31, 16, .rw, .g, 0xffff⟩
def Fld.COL_GRP.DOWN_ID : Fld := ⟨.COL_GRP, 2, 15, 0, .rw, .g, 0xffff⟩
def Fld.COL_GRP.ALLOC_CHUNKS : Fld := ⟨.COL_GRP, 3, 31, 16, .rw, .g, 0x200⟩
def Fld.COL_GRP.SPILL_CHUNKS : Fld := ⟨.COL_GRP, 3, 15, 0, .rw, .g, 0⟩
def Fld.COL_GRP.FWD_EP : Fld := ⟨.COL_GRP, 4, 31, 16, .rw, .g, 0xffff⟩
def Fld.COL_GRP.FWD_CHUNKS : Fld := ⟨.COL_GRP, 4, 15, 8, .rw, .g, 4⟩
def Fld.COL_GRP.SEED : Fld := ⟨.COL_GRP, 5, 31, 0, .rw, .g, 0⟩
def Fld.COL_GRP.MEAN_N : Fld := ⟨.COL_GRP, 6, 31, 16, .rw, .g, 0⟩
def Fld.COL_GRP.SEG_CHUNKS : Fld := ⟨.COL_GRP, 6, 15, 0, .rw, .g, 0⟩
def Fld.COL_GRP.MEMBER_BASE : Fld := ⟨.COL_GRP, 7, 31, 16, .rw, .g, 0⟩
def Fld.COL_GRP.MEMBER_COUNT : Fld := ⟨.COL_GRP, 7, 15, 0, .rw, .g, 0⟩
def Fld.COL_GRP.ROOT_EP : Fld := ⟨.COL_GRP, 8, 31, 16, .rw, .g, 0xffff⟩
/-! COL_GRP_CTL: 06_collectives.md R196 -/
def Fld.COL_GRP_CTL.REFORM : Fld := ⟨.COL_GRP_CTL, 0, 3, 3, .w1s, .l, 0⟩
def Fld.COL_GRP_CTL.ABORT : Fld := ⟨.COL_GRP_CTL, 0, 2, 2, .w1s, .l, 0⟩
def Fld.COL_GRP_CTL.DEACTIVATE : Fld := ⟨.COL_GRP_CTL, 0, 1, 1, .w1s, .l, 0⟩
def Fld.COL_GRP_CTL.ACTIVATE : Fld := ⟨.COL_GRP_CTL, 0, 0, 0, .w1s, .l, 0⟩
/-! COL_GRP_STAT: 06_collectives.md R196 -/
def Fld.COL_GRP_STAT.STATE : Fld := ⟨.COL_GRP_STAT, 0, 31, 30, .ro, .none, 0⟩
def Fld.COL_GRP_STAT.REJ : Fld := ⟨.COL_GRP_STAT, 0, 29, 29, .w1c, .none, 0⟩
def Fld.COL_GRP_STAT.ORIGIN : Fld := ⟨.COL_GRP_STAT, 0, 28, 28, .ro, .none, 0⟩
def Fld.COL_GRP_STAT.ABORT_CODE : Fld := ⟨.COL_GRP_STAT, 0, 27, 24, .ro, .none, 0⟩
def Fld.COL_GRP_STAT.EPOCH : Fld := ⟨.COL_GRP_STAT, 0, 15, 8, .ro, .none, 0⟩
def Fld.COL_GRP_STAT.REJ_CODE : Fld := ⟨.COL_GRP_STAT, 0, 7, 4, .ro, .none, 0⟩
/-! COL_GRP_BASE: 06_collectives.md R187 -/
def Fld.COL_GRP_BASE.N : Fld := ⟨.COL_GRP_BASE, 0, 31, 0, .ro, .none, 0⟩
/-! COL_GRP_LIMIT: 06_collectives.md R187 -/
def Fld.COL_GRP_LIMIT.N : Fld := ⟨.COL_GRP_LIMIT, 0, 31, 0, .ro, .none, 0⟩
/-! COL_ID: 06_collectives.md R172 -/
def Fld.COL_ID.VALID : Fld := ⟨.COL_ID, 0, 31, 31, .rw, .g, 0⟩
def Fld.COL_ID.ENGINE : Fld := ⟨.COL_ID, 0, 30, 30, .rw, .g, 0⟩
def Fld.COL_ID.ID : Fld := ⟨.COL_ID, 0, 15, 0, .rw, .g, 0⟩
/-! DSP_GLB_CFG: 07_expert_dispatch.md R230 -/
def Fld.DSP_GLB_CFG.LYR_TMO : Fld := ⟨.DSP_GLB_CFG, 0, 31, 16, .rw, .g, 100⟩
def Fld.DSP_GLB_CFG.STORE_HI : Fld := ⟨.DSP_GLB_CFG, 0, 15, 8, .rw, .g, 12⟩
/-! DSP_REC_FREE: 07_expert_dispatch.md R230 -/
def Fld.DSP_REC_FREE.N : Fld := ⟨.DSP_REC_FREE, 0, 17, 0, .ro, .none, 0x20000⟩
/-! DSP_OVF_FREE: 07_expert_dispatch.md R230, R232 -/
def Fld.DSP_OVF_FREE.N : Fld := ⟨.DSP_OVF_FREE, 0, 31, 0, .ro, .none, 0x20000000⟩
/-! DSP_ACT_CNT: 07_expert_dispatch.md R230 -/
def Fld.DSP_ACT_CNT.N : Fld := ⟨.DSP_ACT_CNT, 0, 4, 0, .ro, .none, 0⟩
/-! DSP_STORE_USED: 07_expert_dispatch.md R221 -/
def Fld.DSP_STORE_USED.N : Fld := ⟨.DSP_STORE_USED, 0, 24, 0, .ro, .none, 0⟩
/-! DSP_LYR_DISC: 07_expert_dispatch.md R204 -/
def Fld.DSP_LYR_DISC.N : Fld := ⟨.DSP_LYR_DISC, 0, 31, 0, .rc, .none, 0⟩
/-! DSP_REFUSE_CNT: 07_expert_dispatch.md R212 -/
def Fld.DSP_REFUSE_CNT.N : Fld := ⟨.DSP_REFUSE_CNT, 0, 31, 0, .rc, .none, 0⟩
/-! DSP_STALE_DISC: 07_expert_dispatch.md R222 -/
def Fld.DSP_STALE_DISC.N : Fld := ⟨.DSP_STALE_DISC, 0, 31, 0, .rc, .none, 0⟩
/-! DSP_DROP_CNT: 07_expert_dispatch.md R210 -/
def Fld.DSP_DROP_CNT.N : Fld := ⟨.DSP_DROP_CNT, 0, 31, 0, .rc, .none, 0⟩
/-! DSP_QUEUE_CNT: 07_expert_dispatch.md R210 -/
def Fld.DSP_QUEUE_CNT.N : Fld := ⟨.DSP_QUEUE_CNT, 0, 31, 0, .rc, .none, 0⟩
/-! DSP_OVF_FULL: 07_expert_dispatch.md R210 -/
def Fld.DSP_OVF_FULL.N : Fld := ⟨.DSP_OVF_FULL, 0, 31, 0, .rc, .none, 0⟩
/-! DSP_HOST_CNT: 07_expert_dispatch.md R210 -/
def Fld.DSP_HOST_CNT.N : Fld := ⟨.DSP_HOST_CNT, 0, 31, 0, .rc, .none, 0⟩
/-! DSP_OUT_DISC: 07_expert_dispatch.md R217 -/
def Fld.DSP_OUT_DISC.N : Fld := ⟨.DSP_OUT_DISC, 0, 31, 0, .rc, .none, 0⟩
/-! DSP_ABORT_DISC: 07_expert_dispatch.md R224 -/
def Fld.DSP_ABORT_DISC.N : Fld := ⟨.DSP_ABORT_DISC, 0, 31, 0, .rc, .none, 0⟩
/-! DSP_SAT_CNT: 07_expert_dispatch.md R219 -/
def Fld.DSP_SAT_CNT.N : Fld := ⟨.DSP_SAT_CNT, 0, 31, 0, .rc, .none, 0⟩
/-! DSP_LYR: 07_expert_dispatch.md R230 -/
def Fld.DSP_LYR.VALID : Fld := ⟨.DSP_LYR, 0, 31, 31, .rw, .g, 0⟩
def Fld.DSP_LYR.Y_FMT : Fld := ⟨.DSP_LYR, 0, 27, 24, .rw, .g, 1⟩
def Fld.DSP_LYR.R_FMT : Fld := ⟨.DSP_LYR, 0, 23, 20, .rw, .g, 1⟩
def Fld.DSP_LYR.RND : Fld := ⟨.DSP_LYR, 0, 19, 19, .rw, .g, 0⟩
def Fld.DSP_LYR.OVF : Fld := ⟨.DSP_LYR, 0, 18, 18, .rw, .g, 0⟩
def Fld.DSP_LYR.RENORM : Fld := ⟨.DSP_LYR, 0, 17, 17, .rw, .g, 0⟩
def Fld.DSP_LYR.RET_DATA : Fld := ⟨.DSP_LYR, 0, 16, 16, .rw, .g, 0⟩
def Fld.DSP_LYR.POLICY : Fld := ⟨.DSP_LYR, 0, 15, 14, .rw, .g, 0⟩
def Fld.DSP_LYR.TC : Fld := ⟨.DSP_LYR, 0, 13, 11, .rw, .g, 0⟩
def Fld.DSP_LYR.FRAGS : Fld := ⟨.DSP_LYR, 0, 10, 8, .rw, .g, 0⟩
def Fld.DSP_LYR.ROUNDS_MAX : Fld := ⟨.DSP_LYR, 0, 7, 4, .rw, .g, 1⟩
def Fld.DSP_LYR.KMAX : Fld := ⟨.DSP_LYR, 0, 3, 0, .rw, .g, 2⟩
def Fld.DSP_LYR.EXP_BASE : Fld := ⟨.DSP_LYR, 1, 31, 16, .rw, .g, 0⟩
def Fld.DSP_LYR.EXP_COUNT : Fld := ⟨.DSP_LYR, 1, 15, 0, .rw, .g, 0⟩
def Fld.DSP_LYR.ORIG_BASE : Fld := ⟨.DSP_LYR, 2, 31, 16, .rw, .g, 0⟩
def Fld.DSP_LYR.ORIG_COUNT : Fld := ⟨.DSP_LYR, 2, 15, 0, .rw, .g, 0⟩
def Fld.DSP_LYR.TOK_MAX : Fld := ⟨.DSP_LYR, 3, 31, 16, .rw, .g, 0⟩
def Fld.DSP_LYR.OVF_TOKENS : Fld := ⟨.DSP_LYR, 3, 15, 0, .rw, .g, 0⟩
def Fld.DSP_LYR.TOK_BYTES : Fld := ⟨.DSP_LYR, 4, 31, 16, .rw, .g, 0⟩
def Fld.DSP_LYR.OUT_ELEMS : Fld := ⟨.DSP_LYR, 4, 15, 0, .rw, .g, 0⟩
def Fld.DSP_LYR.OVF_EP : Fld := ⟨.DSP_LYR, 5, 31, 16, .rw, .g, 0xffff⟩
def Fld.DSP_LYR.SEED : Fld := ⟨.DSP_LYR, 6, 31, 0, .rw, .g, 0⟩
/-! DSP_LYR_CTL: 07_expert_dispatch.md R224 -/
def Fld.DSP_LYR_CTL.REFORM : Fld := ⟨.DSP_LYR_CTL, 0, 3, 3, .w1s, .l, 0⟩
def Fld.DSP_LYR_CTL.ABORT : Fld := ⟨.DSP_LYR_CTL, 0, 2, 2, .w1s, .l, 0⟩
def Fld.DSP_LYR_CTL.DEACTIVATE : Fld := ⟨.DSP_LYR_CTL, 0, 1, 1, .w1s, .l, 0⟩
def Fld.DSP_LYR_CTL.ACTIVATE : Fld := ⟨.DSP_LYR_CTL, 0, 0, 0, .w1s, .l, 0⟩
/-! DSP_LYR_STAT: 07_expert_dispatch.md R224 -/
def Fld.DSP_LYR_STAT.STATE : Fld := ⟨.DSP_LYR_STAT, 0, 31, 30, .ro, .none, 0⟩
def Fld.DSP_LYR_STAT.REJ : Fld := ⟨.DSP_LYR_STAT, 0, 29, 29, .w1c, .none, 0⟩
def Fld.DSP_LYR_STAT.ABORT_CODE : Fld := ⟨.DSP_LYR_STAT, 0, 27, 24, .ro, .none, 0⟩
def Fld.DSP_LYR_STAT.EPOCH : Fld := ⟨.DSP_LYR_STAT, 0, 15, 8, .ro, .none, 0⟩
def Fld.DSP_LYR_STAT.REJ_CODE : Fld := ⟨.DSP_LYR_STAT, 0, 7, 4, .ro, .none, 0⟩
/-! DSP_LYR_TOK: 07_expert_dispatch.md R230 -/
def Fld.DSP_LYR_TOK.N : Fld := ⟨.DSP_LYR_TOK, 0, 31, 0, .ro, .none, 0⟩
/-! DSP_LYR_OPEN: 07_expert_dispatch.md R230 -/
def Fld.DSP_LYR_OPEN.N : Fld := ⟨.DSP_LYR_OPEN, 0, 31, 0, .ro, .none, 0⟩
/-! DSP_EMAP: 07_expert_dispatch.md R206 -/
def Fld.DSP_EMAP.VALID : Fld := ⟨.DSP_EMAP, 0, 31, 31, .rw, .g, 0⟩
def Fld.DSP_EMAP.LSLOT : Fld := ⟨.DSP_EMAP, 0, 23, 16, .rw, .g, 0⟩
def Fld.DSP_EMAP.EP_ID : Fld := ⟨.DSP_EMAP, 0, 15, 0, .rw, .g, 0xffff⟩
def Fld.DSP_EMAP.CAP : Fld := ⟨.DSP_EMAP, 1, 31, 16, .rw, .g, 0⟩
/-! DSP_ECNT: 07_expert_dispatch.md R230 -/
def Fld.DSP_ECNT.SENT : Fld := ⟨.DSP_ECNT, 0, 31, 16, .ro, .none, 0⟩
def Fld.DSP_ECNT.QUEUED : Fld := ⟨.DSP_ECNT, 0, 15, 4, .ro, .none, 0⟩
def Fld.DSP_ECNT.ROUND : Fld := ⟨.DSP_ECNT, 0, 3, 0, .ro, .none, 0⟩
/-! DSP_ORIG: 07_expert_dispatch.md R230 -/
def Fld.DSP_ORIG.VALID : Fld := ⟨.DSP_ORIG, 0, 31, 31, .rw, .g, 0⟩
def Fld.DSP_ORIG.ID : Fld := ⟨.DSP_ORIG, 0, 15, 0, .rw, .g, 0⟩
/-! MEM_PART_CFG: 08_memory_and_windows.md R259 -/
def Fld.MEM_PART_CFG.SPILL_BLK : Fld := ⟨.MEM_PART_CFG, 0, 23, 16, .rw, .g, 8⟩
def Fld.MEM_PART_CFG.LP_SPILL : Fld := ⟨.MEM_PART_CFG, 0, 8, 0, .rw, .g, 16⟩
/-! MEM_LP_CFG: 08_memory_and_windows.md R236 -/
def Fld.MEM_LP_CFG.CFG_REJ : Fld := ⟨.MEM_LP_CFG, 0, 31, 31, .w1c, .none, 0⟩
def Fld.MEM_LP_CFG.LINK_ECC : Fld := ⟨.MEM_LP_CFG, 0, 21, 21, .rw, .s, 1⟩
def Fld.MEM_LP_CFG.SPEED : Fld := ⟨.MEM_LP_CFG, 0, 18, 16, .rw, .s, 4⟩
def Fld.MEM_LP_CFG.PRESENT : Fld := ⟨.MEM_LP_CFG, 0, 15, 0, .rw, .g, 0⟩
/-! MEM_ECC_CFG: 08_memory_and_windows.md R259 -/
def Fld.MEM_ECC_CFG.REPAIR_CE : Fld := ⟨.MEM_ECC_CFG, 0, 31, 24, .rw, .g, 4⟩
def Fld.MEM_ECC_CFG.TILE_UE_MAX : Fld := ⟨.MEM_ECC_CFG, 0, 23, 16, .rw, .g, 16⟩
def Fld.MEM_ECC_CFG.LP_UE_MAX : Fld := ⟨.MEM_ECC_CFG, 0, 15, 8, .rw, .g, 16⟩
/-! MEM_SCRUB_CFG: 08_memory_and_windows.md R254 -/
def Fld.MEM_SCRUB_CFG.SRAM_SCRUB : Fld := ⟨.MEM_SCRUB_CFG, 0, 31, 16, .rw, .g, 8⟩
def Fld.MEM_SCRUB_CFG.LP_SCRUB : Fld := ⟨.MEM_SCRUB_CFG, 0, 15, 0, .rw, .g, 60⟩
/-! MEM_STAT: 08_memory_and_windows.md R259 -/
def Fld.MEM_STAT.SRAM_ZERO : Fld := ⟨.MEM_STAT, 0, 31, 31, .ro, .none, 0⟩
def Fld.MEM_STAT.LP_OK : Fld := ⟨.MEM_STAT, 0, 30, 30, .ro, .none, 0⟩
def Fld.MEM_STAT.LP_ZERO : Fld := ⟨.MEM_STAT, 0, 29, 29, .ro, .none, 0⟩
/-! MEM_SRAM_POOL: 08_memory_and_windows.md R233 -/
def Fld.MEM_SRAM_POOL.MIB : Fld := ⟨.MEM_SRAM_POOL, 0, 15, 0, .ro, .none, 0x9c0⟩
/-! MEM_LP_POOL: 08_memory_and_windows.md R237 -/
def Fld.MEM_LP_POOL.MIB : Fld := ⟨.MEM_LP_POOL, 0, 19, 0, .ro, .none, 0⟩
/-! MEM_DEEP_FREE: 08_memory_and_windows.md R232 -/
def Fld.MEM_DEEP_FREE.KIB : Fld := ⟨.MEM_DEEP_FREE, 0, 19, 0, .ro, .none, 0x80000⟩
/-! MEM_PPR_CTL: 08_memory_and_windows.md R256 -/
def Fld.MEM_PPR_CTL.START : Fld := ⟨.MEM_PPR_CTL, 0, 31, 31, .w1s, .l, 0⟩
def Fld.MEM_PPR_CTL.REJ : Fld := ⟨.MEM_PPR_CTL, 0, 30, 30, .w1c, .none, 0⟩
def Fld.MEM_PPR_CTL.DEV : Fld := ⟨.MEM_PPR_CTL, 0, 3, 0, .rw, .l, 0⟩
/-! MEM_ERR_ADDR: 08_memory_and_windows.md R252 -/
def Fld.MEM_ERR_ADDR.LO : Fld := ⟨.MEM_ERR_ADDR, 0, 31, 0, .ro, .none, 0⟩
def Fld.MEM_ERR_ADDR.HI : Fld := ⟨.MEM_ERR_ADDR, 1, 31, 0, .ro, .none, 0⟩
/-! MEM_ERR_INFO: 08_memory_and_windows.md R252 -/
def Fld.MEM_ERR_INFO.ERR_VALID : Fld := ⟨.MEM_ERR_INFO, 0, 31, 31, .w1c, .none, 0⟩
def Fld.MEM_ERR_INFO.REGION : Fld := ⟨.MEM_ERR_INFO, 0, 30, 28, .ro, .none, 0⟩
def Fld.MEM_ERR_INFO.UNIT : Fld := ⟨.MEM_ERR_INFO, 0, 27, 24, .ro, .none, 0⟩
def Fld.MEM_ERR_INFO.SCRUB : Fld := ⟨.MEM_ERR_INFO, 0, 23, 23, .ro, .none, 0⟩
/-! MEM_SRAM_CE: 08_memory_and_windows.md R252 -/
def Fld.MEM_SRAM_CE.N : Fld := ⟨.MEM_SRAM_CE, 0, 31, 0, .rc, .none, 0⟩
/-! MEM_SRAM_UE: 08_memory_and_windows.md R252 -/
def Fld.MEM_SRAM_UE.N : Fld := ⟨.MEM_SRAM_UE, 0, 31, 0, .rc, .none, 0⟩
/-! MEM_LP_CE: 08_memory_and_windows.md R253 -/
def Fld.MEM_LP_CE.N : Fld := ⟨.MEM_LP_CE, 0, 31, 0, .rc, .none, 0⟩
/-! MEM_LP_UE: 08_memory_and_windows.md R253 -/
def Fld.MEM_LP_UE.N : Fld := ⟨.MEM_LP_UE, 0, 31, 0, .rc, .none, 0⟩
/-! MEM_LINK_CE: 08_memory_and_windows.md R253 -/
def Fld.MEM_LINK_CE.N : Fld := ⟨.MEM_LINK_CE, 0, 31, 0, .rc, .none, 0⟩
/-! MEM_LINK_UE: 08_memory_and_windows.md R253 -/
def Fld.MEM_LINK_UE.N : Fld := ⟨.MEM_LINK_UE, 0, 31, 0, .rc, .none, 0⟩
/-! MEM_REPAIR_CNT: 08_memory_and_windows.md R255 -/
def Fld.MEM_REPAIR_CNT.N : Fld := ⟨.MEM_REPAIR_CNT, 0, 31, 0, .rc, .none, 0⟩
/-! MEM_TILE_STAT: 08_memory_and_windows.md R255 -/
def Fld.MEM_TILE_STAT.FAIL : Fld := ⟨.MEM_TILE_STAT, 0, 31, 31, .ro, .none, 0⟩
def Fld.MEM_TILE_STAT.SPARES : Fld := ⟨.MEM_TILE_STAT, 0, 25, 16, .ro, .none, 0x200⟩
/-! MEM_TILE_CE: 08_memory_and_windows.md R259 -/
def Fld.MEM_TILE_CE.N : Fld := ⟨.MEM_TILE_CE, 0, 31, 0, .rc, .none, 0⟩
/-! MEM_LP_DEV: 08_memory_and_windows.md R256 -/
def Fld.MEM_LP_DEV.INIT_OK : Fld := ⟨.MEM_LP_DEV, 0, 31, 31, .ro, .none, 0⟩
def Fld.MEM_LP_DEV.FAIL : Fld := ⟨.MEM_LP_DEV, 0, 30, 30, .ro, .none, 0⟩
def Fld.MEM_LP_DEV.DENSITY : Fld := ⟨.MEM_LP_DEV, 0, 29, 27, .ro, .none, 0⟩
def Fld.MEM_LP_DEV.PPR_DONE : Fld := ⟨.MEM_LP_DEV, 0, 23, 16, .ro, .none, 0⟩
def Fld.MEM_LP_DEV.PPR_FAIL : Fld := ⟨.MEM_LP_DEV, 0, 15, 8, .ro, .none, 0⟩
/-! MEM_LP_DEV_ROW: 08_memory_and_windows.md R256 -/
def Fld.MEM_LP_DEV_ROW.CH : Fld := ⟨.MEM_LP_DEV_ROW, 0, 31, 28, .ro, .none, 0⟩
def Fld.MEM_LP_DEV_ROW.BANK : Fld := ⟨.MEM_LP_DEV_ROW, 0, 27, 24, .ro, .none, 0⟩
def Fld.MEM_LP_DEV_ROW.ROW : Fld := ⟨.MEM_LP_DEV_ROW, 0, 17, 0, .ro, .none, 0⟩
/-! MEM_PPR_LIST: 08_memory_and_windows.md R256 -/
def Fld.MEM_PPR_LIST.VALID : Fld := ⟨.MEM_PPR_LIST, 0, 31, 31, .rw, .s, 0⟩
def Fld.MEM_PPR_LIST.DENSITY : Fld := ⟨.MEM_PPR_LIST, 0, 30, 28, .rw, .s, 0⟩
def Fld.MEM_PPR_LIST.CH : Fld := ⟨.MEM_PPR_LIST, 0, 27, 26, .rw, .s, 0⟩
def Fld.MEM_PPR_LIST.RANK : Fld := ⟨.MEM_PPR_LIST, 0, 25, 25, .rw, .s, 0⟩
def Fld.MEM_PPR_LIST.BANK : Fld := ⟨.MEM_PPR_LIST, 0, 24, 21, .rw, .s, 0⟩
def Fld.MEM_PPR_LIST.ROW : Fld := ⟨.MEM_PPR_LIST, 0, 17, 0, .rw, .s, 0⟩
/-! GWM_CFG: 08_memory_and_windows.md R260 -/
def Fld.GWM_CFG.COPY_MAX : Fld := ⟨.GWM_CFG, 0, 14, 8, .rw, .g, 64⟩
def Fld.GWM_CFG.COPY_PIECES : Fld := ⟨.GWM_CFG, 0, 4, 0, .rw, .g, 16⟩
/-! GWM_FWD_USED: 08_memory_and_windows.md R249 -/
def Fld.GWM_FWD_USED.N : Fld := ⟨.GWM_FWD_USED, 0, 14, 0, .ro, .none, 0⟩
/-! GWM_COPY_ACT: 08_memory_and_windows.md R260 -/
def Fld.GWM_COPY_ACT.N : Fld := ⟨.GWM_COPY_ACT, 0, 6, 0, .ro, .none, 0⟩
/-! GWM_UNSUP_CNT: 08_memory_and_windows.md R242 -/
def Fld.GWM_UNSUP_CNT.N : Fld := ⟨.GWM_UNSUP_CNT, 0, 31, 0, .rc, .none, 0⟩
/-! GWM_UNMAP_CNT: 08_memory_and_windows.md R242 -/
def Fld.GWM_UNMAP_CNT.N : Fld := ⟨.GWM_UNMAP_CNT, 0, 31, 0, .rc, .none, 0⟩
/-! GWM_DENY_CNT: 08_memory_and_windows.md R242 -/
def Fld.GWM_DENY_CNT.N : Fld := ⟨.GWM_DENY_CNT, 0, 31, 0, .rc, .none, 0⟩
/-! GWM_MEMERR_CNT: 08_memory_and_windows.md R242 -/
def Fld.GWM_MEMERR_CNT.N : Fld := ⟨.GWM_MEMERR_CNT, 0, 31, 0, .rc, .none, 0⟩
/-! GWM_FWD_CNT: 08_memory_and_windows.md R247 -/
def Fld.GWM_FWD_CNT.N : Fld := ⟨.GWM_FWD_CNT, 0, 31, 0, .rc, .none, 0⟩
/-! GWM_FWD_TMO: 08_memory_and_windows.md R248 -/
def Fld.GWM_FWD_TMO.N : Fld := ⟨.GWM_FWD_TMO, 0, 31, 0, .rc, .none, 0⟩
/-! GWM_OPS_CNT: 08_memory_and_windows.md R260 -/
def Fld.GWM_OPS_CNT.N : Fld := ⟨.GWM_OPS_CNT, 0, 31, 0, .rc, .none, 0⟩
/-! GWM_SAT_CNT: 08_memory_and_windows.md R245 -/
def Fld.GWM_SAT_CNT.N : Fld := ⟨.GWM_SAT_CNT, 0, 31, 0, .rc, .none, 0⟩
/-! GWM_WIN: 08_memory_and_windows.md R238 -/
def Fld.GWM_WIN.BASE_LO : Fld := ⟨.GWM_WIN, 0, 31, 12, .rw, .g, 0⟩
def Fld.GWM_WIN.BASE_HI : Fld := ⟨.GWM_WIN, 1, 31, 0, .rw, .g, 0⟩
def Fld.GWM_WIN.LIMIT_LO : Fld := ⟨.GWM_WIN, 2, 31, 12, .rw, .g, 0⟩
def Fld.GWM_WIN.LIMIT_HI : Fld := ⟨.GWM_WIN, 3, 31, 0, .rw, .g, 0⟩
def Fld.GWM_WIN.OFFSET_LO : Fld := ⟨.GWM_WIN, 4, 31, 12, .rw, .g, 0⟩
def Fld.GWM_WIN.OFFSET_HI : Fld := ⟨.GWM_WIN, 5, 31, 0, .rw, .g, 0⟩
def Fld.GWM_WIN.VALID : Fld := ⟨.GWM_WIN, 6, 31, 31, .rw, .g, 0⟩
def Fld.GWM_WIN.KIND : Fld := ⟨.GWM_WIN, 6, 30, 29, .rw, .g, 0⟩
def Fld.GWM_WIN.PR : Fld := ⟨.GWM_WIN, 6, 28, 28, .rw, .g, 0⟩
def Fld.GWM_WIN.PW : Fld := ⟨.GWM_WIN, 6, 27, 27, .rw, .g, 0⟩
def Fld.GWM_WIN.PA : Fld := ⟨.GWM_WIN, 6, 26, 26, .rw, .g, 0⟩
def Fld.GWM_WIN.PX : Fld := ⟨.GWM_WIN, 6, 25, 25, .rw, .g, 0⟩
def Fld.GWM_WIN.TGT_ID : Fld := ⟨.GWM_WIN, 6, 15, 0, .rw, .g, 0xffff⟩
/-! HIF_LINK_CFG: 09_host_interface.md R291 -/
def Fld.HIF_LINK_CFG.EN : Fld := ⟨.HIF_LINK_CFG, 0, 31, 31, .rw, .l, 1⟩
def Fld.HIF_LINK_CFG.RETRAIN : Fld := ⟨.HIF_LINK_CFG, 0, 30, 30, .w1s, .l, 0⟩
def Fld.HIF_LINK_CFG.RETRY_MAX : Fld := ⟨.HIF_LINK_CFG, 0, 27, 24, .rw, .g, 8⟩
/-! HIF_LINK_STAT: 09_host_interface.md R291 -/
def Fld.HIF_LINK_STAT.STAGE : Fld := ⟨.HIF_LINK_STAT, 0, 31, 29, .ro, .none, 0⟩
def Fld.HIF_LINK_STAT.WIDTH : Fld := ⟨.HIF_LINK_STAT, 0, 28, 27, .ro, .none, 0⟩
def Fld.HIF_LINK_STAT.OTHER_UP : Fld := ⟨.HIF_LINK_STAT, 0, 26, 26, .ro, .none, 0⟩
def Fld.HIF_LINK_STAT.VIA_HAL : Fld := ⟨.HIF_LINK_STAT, 0, 25, 25, .ro, .none, 0⟩
def Fld.HIF_LINK_STAT.RTT : Fld := ⟨.HIF_LINK_STAT, 0, 15, 0, .ro, .none, 0⟩
/-! HIF_CTL: 09_host_interface.md R291 -/
def Fld.HIF_CTL.EN : Fld := ⟨.HIF_CTL, 0, 3, 0, .rw, .l, 0⟩
/-! HIF_FUNC_MODE: 09_host_interface.md R288 -/
def Fld.HIF_FUNC_MODE.MODE : Fld := ⟨.HIF_FUNC_MODE, 0, 6, 0, .rw, .l, 0⟩
/-! HIF_EVT_CFG: 09_host_interface.md R282 -/
def Fld.HIF_EVT_CFG.MASK : Fld := ⟨.HIF_EVT_CFG, 0, 27, 16, .rw, .l, 0⟩
def Fld.HIF_EVT_CFG.EVT_HOLD : Fld := ⟨.HIF_EVT_CFG, 0, 15, 0, .rw, .l, 100⟩
/-! HIF_WDT_CFG: 09_host_interface.md R290 -/
def Fld.HIF_WDT_CFG.HOST_WDT : Fld := ⟨.HIF_WDT_CFG, 0, 31, 16, .rw, .l, 100⟩
def Fld.HIF_WDT_CFG.STAT_INT : Fld := ⟨.HIF_WDT_CFG, 0, 15, 0, .rw, .l, 10⟩
/-! HIF_DB_ADDR: 09_host_interface.md R275 -/
def Fld.HIF_DB_ADDR.LO : Fld := ⟨.HIF_DB_ADDR, 0, 31, 6, .rw, .s, 0⟩
def Fld.HIF_DB_ADDR.HI : Fld := ⟨.HIF_DB_ADDR, 1, 31, 0, .rw, .s, 0⟩
/-! HIF_CI_ADDR: 09_host_interface.md R275 -/
def Fld.HIF_CI_ADDR.LO : Fld := ⟨.HIF_CI_ADDR, 0, 31, 6, .rw, .s, 0⟩
def Fld.HIF_CI_ADDR.HI : Fld := ⟨.HIF_CI_ADDR, 1, 31, 0, .rw, .s, 0⟩
/-! HIF_STAT_ADDR: 09_host_interface.md R275 -/
def Fld.HIF_STAT_ADDR.LO : Fld := ⟨.HIF_STAT_ADDR, 0, 31, 6, .rw, .s, 0⟩
def Fld.HIF_STAT_ADDR.HI : Fld := ⟨.HIF_STAT_ADDR, 1, 31, 0, .rw, .s, 0⟩
/-! HIF_RING_BASE: 09_host_interface.md R273 -/
def Fld.HIF_RING_BASE.LO : Fld := ⟨.HIF_RING_BASE, 0, 31, 12, .rw, .s, 0⟩
def Fld.HIF_RING_BASE.HI : Fld := ⟨.HIF_RING_BASE, 1, 31, 0, .rw, .s, 0⟩
/-! HIF_RING_CFG: 09_host_interface.md R273 -/
def Fld.HIF_RING_CFG.SIZE : Fld := ⟨.HIF_RING_CFG, 0, 31, 28, .rw, .s, 0⟩
def Fld.HIF_RING_CFG.COAL_CNT : Fld := ⟨.HIF_RING_CFG, 0, 27, 20, .rw, .l, 1⟩
def Fld.HIF_RING_CFG.COAL_TIME : Fld := ⟨.HIF_RING_CFG, 0, 19, 12, .rw, .l, 10⟩
/-! HIF_RING_VEC: 09_host_interface.md R287 -/
def Fld.HIF_RING_VEC.VEC : Fld := ⟨.HIF_RING_VEC, 0, 15, 0, .rw, .l, 0⟩
/-! HIF_EVT_LOST: 09_host_interface.md R282 -/
def Fld.HIF_EVT_LOST.N : Fld := ⟨.HIF_EVT_LOST, 0, 31, 0, .rc, .none, 0⟩
/-! HIF_HOST_FAULT: 09_host_interface.md R291 -/
def Fld.HIF_HOST_FAULT.N : Fld := ⟨.HIF_HOST_FAULT, 0, 31, 0, .rc, .none, 0⟩
/-! HIF_GL_REPLAY: 09_host_interface.md R265 -/
def Fld.HIF_GL_REPLAY.N : Fld := ⟨.HIF_GL_REPLAY, 0, 31, 0, .rc, .none, 0⟩
/-! HIF_GL_CRC: 09_host_interface.md R265 -/
def Fld.HIF_GL_CRC.N : Fld := ⟨.HIF_GL_CRC, 0, 31, 0, .rc, .none, 0⟩
/-! HIF_CMD_CNT: 09_host_interface.md R291 -/
def Fld.HIF_CMD_CNT.N : Fld := ⟨.HIF_CMD_CNT, 0, 31, 0, .rc, .none, 0⟩
/-! HIF_INTR_CNT: 09_host_interface.md R287 -/
def Fld.HIF_INTR_CNT.N : Fld := ⟨.HIF_INTR_CNT, 0, 31, 0, .rc, .none, 0⟩
/-! HIF_RING_IDX: 09_host_interface.md R291 -/
def Fld.HIF_RING_IDX.N : Fld := ⟨.HIF_RING_IDX, 0, 31, 0, .ro, .none, 0⟩
/-! CAN_STAT: 10_management.md R336 -/
def Fld.CAN_STAT.ROLE : Fld := ⟨.CAN_STAT, 0, 31, 30, .ro, .none, 0⟩
def Fld.CAN_STAT.SPLIT : Fld := ⟨.CAN_STAT, 0, 29, 29, .ro, .none, 0⟩
def Fld.CAN_STAT.OTHER_OK : Fld := ⟨.CAN_STAT, 0, 28, 28, .ro, .none, 0⟩
def Fld.CAN_STAT.MASTER : Fld := ⟨.CAN_STAT, 0, 27, 27, .ro, .none, 0⟩
def Fld.CAN_STAT.SLOT : Fld := ⟨.CAN_STAT, 0, 26, 24, .ro, .none, 0⟩
def Fld.CAN_STAT.CASC_UP : Fld := ⟨.CAN_STAT, 0, 23, 23, .ro, .none, 0⟩
def Fld.CAN_STAT.ETH_UP : Fld := ⟨.CAN_STAT, 0, 22, 22, .ro, .none, 0⟩
def Fld.CAN_STAT.PTP_LOCK : Fld := ⟨.CAN_STAT, 0, 21, 21, .ro, .none, 0⟩
def Fld.CAN_STAT.HOST : Fld := ⟨.CAN_STAT, 0, 20, 20, .ro, .none, 0⟩
def Fld.CAN_STAT.MASTER_SLOT : Fld := ⟨.CAN_STAT, 0, 19, 16, .ro, .none, 15⟩
/-! CAN_CTL: 10_management.md R301 -/
def Fld.CAN_CTL.HANDOVER : Fld := ⟨.CAN_CTL, 0, 0, 0, .w1s, .l, 0⟩
/-! CAN_HB_CFG: 10_management.md R298 -/
def Fld.CAN_HB_CFG.HB_MISS : Fld := ⟨.CAN_HB_CFG, 0, 31, 24, .rw, .g, 40⟩
def Fld.CAN_HB_CFG.WDT_MS : Fld := ⟨.CAN_HB_CFG, 0, 23, 16, .rw, .g, 2⟩
/-! CAN_BOOT_STAT: 10_management.md R304 -/
def Fld.CAN_BOOT_STAT.OK : Fld := ⟨.CAN_BOOT_STAT, 0, 31, 31, .ro, .none, 0⟩
def Fld.CAN_BOOT_STAT.FALLBACK : Fld := ⟨.CAN_BOOT_STAT, 0, 30, 30, .ro, .none, 0⟩
def Fld.CAN_BOOT_STAT.SLOT : Fld := ⟨.CAN_BOOT_STAT, 0, 29, 29, .ro, .none, 0⟩
def Fld.CAN_BOOT_STAT.FAIL : Fld := ⟨.CAN_BOOT_STAT, 0, 28, 24, .ro, .none, 0⟩
def Fld.CAN_BOOT_STAT.FW_SVN : Fld := ⟨.CAN_BOOT_STAT, 0, 23, 16, .ro, .none, 0⟩
/-! CAN_CAP_HOST: 10_management.md R326 -/
def Fld.CAN_CAP_HOST.CAP : Fld := ⟨.CAN_CAP_HOST, 0, 15, 0, .rw, .l, 0⟩
/-! CAN_CAP_RM: 10_management.md R326 -/
def Fld.CAN_CAP_RM.CAP : Fld := ⟨.CAN_CAP_RM, 0, 15, 0, .ro, .none, 0⟩
/-! CAN_CAP_TRAY: 10_management.md R328 -/
def Fld.CAN_CAP_TRAY.CAP : Fld := ⟨.CAN_CAP_TRAY, 0, 15, 0, .ro, .none, 0⟩
/-! CAN_CAP_THERM: 10_management.md R324 -/
def Fld.CAN_CAP_THERM.CAP : Fld := ⟨.CAN_CAP_THERM, 0, 15, 0, .ro, .none, 0⟩
/-! CAN_PWR_STAT: 10_management.md R330 -/
def Fld.CAN_PWR_STAT.POWER : Fld := ⟨.CAN_PWR_STAT, 0, 31, 16, .ro, .none, 0⟩
def Fld.CAN_PWR_STAT.LEVEL : Fld := ⟨.CAN_PWR_STAT, 0, 15, 12, .ro, .none, 0⟩
def Fld.CAN_PWR_STAT.UNMEET : Fld := ⟨.CAN_PWR_STAT, 0, 11, 11, .ro, .none, 0⟩
def Fld.CAN_PWR_STAT.FLOOR : Fld := ⟨.CAN_PWR_STAT, 0, 10, 0, .ro, .none, 0⟩
/-! CAN_PWR_STATE: 10_management.md R327 -/
def Fld.CAN_PWR_STATE.STATE : Fld := ⟨.CAN_PWR_STATE, 0, 31, 30, .ro, .none, 0⟩
def Fld.CAN_PWR_STATE.RM_LIMIT : Fld := ⟨.CAN_PWR_STATE, 0, 29, 28, .ro, .none, 3⟩
def Fld.CAN_PWR_STATE.HOST_REQ : Fld := ⟨.CAN_PWR_STATE, 0, 27, 26, .rw, .l, 3⟩
def Fld.CAN_PWR_STATE.REJ : Fld := ⟨.CAN_PWR_STATE, 0, 25, 25, .w1c, .none, 0⟩
def Fld.CAN_PWR_STATE.EPO : Fld := ⟨.CAN_PWR_STATE, 0, 24, 24, .ro, .none, 0⟩
def Fld.CAN_PWR_STATE.TRIP : Fld := ⟨.CAN_PWR_STATE, 0, 23, 23, .ro, .none, 0⟩
/-! CAN_THR_CFG: 10_management.md R329 -/
def Fld.CAN_THR_CFG.SHARE : Fld := ⟨.CAN_THR_CFG, 0, 31, 24, .ro, .none, 128⟩
def Fld.CAN_THR_CFG.HYST : Fld := ⟨.CAN_THR_CFG, 0, 23, 16, .rw, .g, 5⟩
/-! CAN_LEAK: 10_management.md R322 -/
def Fld.CAN_LEAK.LEAK_OFF_S : Fld := ⟨.CAN_LEAK, 0, 31, 24, .rw, .g, 5⟩
def Fld.CAN_LEAK.FAULT_AS_WET : Fld := ⟨.CAN_LEAK, 0, 23, 23, .rw, .g, 0⟩
def Fld.CAN_LEAK.STATE : Fld := ⟨.CAN_LEAK, 0, 7, 0, .ro, .none, 255⟩
/-! CAN_FLOW_CFG: 10_management.md R323 -/
def Fld.CAN_FLOW_CFG.COOL_K : Fld := ⟨.CAN_FLOW_CFG, 0, 31, 24, .rw, .g, 66⟩
def Fld.CAN_FLOW_CFG.FLOW_MIN : Fld := ⟨.CAN_FLOW_CFG, 0, 23, 16, .rw, .g, 15⟩
/-! CAN_HEALTH: 10_management.md R297 -/
def Fld.CAN_HEALTH.W : Fld := ⟨.CAN_HEALTH, 0, 31, 0, .ro, .none, 0⟩
/-! CAN_MBOX_CTL: 10_management.md R313 -/
def Fld.CAN_MBOX_CTL.SEND : Fld := ⟨.CAN_MBOX_CTL, 0, 31, 31, .w1s, .l, 0⟩
def Fld.CAN_MBOX_CTL.DONE : Fld := ⟨.CAN_MBOX_CTL, 0, 30, 30, .ro, .none, 0⟩
def Fld.CAN_MBOX_CTL.BUSY : Fld := ⟨.CAN_MBOX_CTL, 0, 29, 29, .ro, .none, 0⟩
def Fld.CAN_MBOX_CTL.LEN : Fld := ⟨.CAN_MBOX_CTL, 0, 10, 0, .rw, .l, 0⟩
/-! CAN_TAKEOVER_CNT: 10_management.md R336 -/
def Fld.CAN_TAKEOVER_CNT.N : Fld := ⟨.CAN_TAKEOVER_CNT, 0, 31, 0, .rc, .none, 0⟩
/-! CAN_SIG_FAIL: 10_management.md R309 -/
def Fld.CAN_SIG_FAIL.N : Fld := ⟨.CAN_SIG_FAIL, 0, 31, 0, .rc, .none, 0⟩
/-! CAN_SENSOR: 10_management.md R320 -/
def Fld.CAN_SENSOR.FITTED : Fld := ⟨.CAN_SENSOR, 0, 31, 31, .ro, .none, 0⟩
def Fld.CAN_SENSOR.FAULT : Fld := ⟨.CAN_SENSOR, 0, 30, 30, .ro, .none, 0⟩
def Fld.CAN_SENSOR.WARN : Fld := ⟨.CAN_SENSOR, 0, 29, 29, .ro, .none, 0⟩
def Fld.CAN_SENSOR.CRIT : Fld := ⟨.CAN_SENSOR, 0, 28, 28, .ro, .none, 0⟩
def Fld.CAN_SENSOR.VALUE : Fld := ⟨.CAN_SENSOR, 0, 23, 0, .ro, .none, 0⟩
/-! CAN_MBOX_TX: 10_management.md R313 -/
def Fld.CAN_MBOX_TX.W : Fld := ⟨.CAN_MBOX_TX, 0, 31, 0, .rw, .l, 0⟩
/-! CAN_MBOX_RX: 10_management.md R313 -/
def Fld.CAN_MBOX_RX.W : Fld := ⟨.CAN_MBOX_RX, 0, 31, 0, .ro, .none, 0⟩
/-! EPC_COMMIT_CTL: 11_state_and_change.md R344 -/
def Fld.EPC_COMMIT_CTL.DISCARD : Fld := ⟨.EPC_COMMIT_CTL, 0, 1, 1, .w1s, .l, 0⟩
def Fld.EPC_COMMIT_CTL.COMMIT : Fld := ⟨.EPC_COMMIT_CTL, 0, 0, 0, .w1s, .l, 0⟩
/-! EPC_COMMIT_STAT: 11_state_and_change.md R344 -/
def Fld.EPC_COMMIT_STAT.BUSY : Fld := ⟨.EPC_COMMIT_STAT, 0, 31, 31, .ro, .none, 0⟩
def Fld.EPC_COMMIT_STAT.DONE : Fld := ⟨.EPC_COMMIT_STAT, 0, 30, 30, .ro, .none, 0⟩
def Fld.EPC_COMMIT_STAT.FAIL : Fld := ⟨.EPC_COMMIT_STAT, 0, 29, 29, .ro, .none, 0⟩
def Fld.EPC_COMMIT_STAT.REJ : Fld := ⟨.EPC_COMMIT_STAT, 0, 28, 28, .w1c, .none, 0⟩
def Fld.EPC_COMMIT_STAT.SPLIT_ONLY : Fld := ⟨.EPC_COMMIT_STAT, 0, 27, 27, .ro, .none, 0⟩
def Fld.EPC_COMMIT_STAT.FAIL_BLOCK : Fld := ⟨.EPC_COMMIT_STAT, 0, 23, 20, .ro, .none, 0⟩
/-! EPC_COMMIT_SEQ: 11_state_and_change.md R372 -/
def Fld.EPC_COMMIT_SEQ.N : Fld := ⟨.EPC_COMMIT_SEQ, 0, 31, 0, .ro, .none, 0⟩
/-! EPC_FAIL_ADDR: 11_state_and_change.md R345 -/
def Fld.EPC_FAIL_ADDR.ADDR : Fld := ⟨.EPC_FAIL_ADDR, 0, 26, 0, .ro, .none, 0⟩
/-! EPC_DIRTY: 11_state_and_change.md R341 -/
def Fld.EPC_DIRTY.N : Fld := ⟨.EPC_DIRTY, 0, 23, 0, .ro, .none, 0⟩
/-! EPC_S_IGN_ADDR: 11_state_and_change.md R340 -/
def Fld.EPC_S_IGN_ADDR.VALID : Fld := ⟨.EPC_S_IGN_ADDR, 0, 31, 31, .w1c, .none, 0⟩
def Fld.EPC_S_IGN_ADDR.ADDR : Fld := ⟨.EPC_S_IGN_ADDR, 0, 26, 0, .ro, .none, 0⟩
/-! EPC_UNIT_CTL: 11_state_and_change.md R359 -/
def Fld.EPC_UNIT_CTL.TEST : Fld := ⟨.EPC_UNIT_CTL, 0, 31, 31, .w1s, .l, 0⟩
def Fld.EPC_UNIT_CTL.RETIRE : Fld := ⟨.EPC_UNIT_CTL, 0, 30, 30, .w1s, .l, 0⟩
def Fld.EPC_UNIT_CTL.TYPE : Fld := ⟨.EPC_UNIT_CTL, 0, 27, 24, .rw, .l, 0⟩
def Fld.EPC_UNIT_CTL.INDEX : Fld := ⟨.EPC_UNIT_CTL, 0, 4, 0, .rw, .l, 0⟩
/-! EPC_UNIT_STAT: 11_state_and_change.md R359 -/
def Fld.EPC_UNIT_STAT.BUSY : Fld := ⟨.EPC_UNIT_STAT, 0, 31, 31, .ro, .none, 0⟩
def Fld.EPC_UNIT_STAT.PASS : Fld := ⟨.EPC_UNIT_STAT, 0, 30, 30, .ro, .none, 0⟩
def Fld.EPC_UNIT_STAT.REJ : Fld := ⟨.EPC_UNIT_STAT, 0, 29, 29, .w1c, .none, 0⟩
/-! EPC_GATE_STAT: 11_state_and_change.md R357 -/
def Fld.EPC_GATE_STAT.COL_PWR : Fld := ⟨.EPC_GATE_STAT, 0, 31, 31, .ro, .none, 0⟩
def Fld.EPC_GATE_STAT.DSP_PWR : Fld := ⟨.EPC_GATE_STAT, 0, 30, 30, .ro, .none, 0⟩
def Fld.EPC_GATE_STAT.MEM_PWR : Fld := ⟨.EPC_GATE_STAT, 0, 29, 29, .ro, .none, 0⟩
def Fld.EPC_GATE_STAT.PG_PWR : Fld := ⟨.EPC_GATE_STAT, 0, 17, 0, .ro, .none, 0⟩
/-! EPC_FREEZE_CTL: 11_state_and_change.md R361 -/
def Fld.EPC_FREEZE_CTL.FREEZE : Fld := ⟨.EPC_FREEZE_CTL, 0, 31, 31, .w1s, .l, 0⟩
def Fld.EPC_FREEZE_CTL.CANTON_RUN : Fld := ⟨.EPC_FREEZE_CTL, 0, 30, 30, .rw, .l, 1⟩
def Fld.EPC_FREEZE_CTL.FWD_CASC : Fld := ⟨.EPC_FREEZE_CTL, 0, 29, 29, .rw, .l, 0⟩
def Fld.EPC_FREEZE_CTL.ON_FATAL : Fld := ⟨.EPC_FREEZE_CTL, 0, 28, 28, .rw, .l, 0⟩
/-! EPC_FREEZE_STAT: 11_state_and_change.md R361 -/
def Fld.EPC_FREEZE_STAT.FROZEN : Fld := ⟨.EPC_FREEZE_STAT, 0, 31, 31, .ro, .none, 0⟩
def Fld.EPC_FREEZE_STAT.CANTON_RAN : Fld := ⟨.EPC_FREEZE_STAT, 0, 30, 30, .ro, .none, 0⟩
def Fld.EPC_FREEZE_STAT.SOURCE : Fld := ⟨.EPC_FREEZE_STAT, 0, 2, 0, .ro, .none, 0⟩
/-! EPC_FREEZE_TIME: 11_state_and_change.md R362 -/
def Fld.EPC_FREEZE_TIME.LO : Fld := ⟨.EPC_FREEZE_TIME, 0, 31, 0, .ro, .none, 0⟩
def Fld.EPC_FREEZE_TIME.HI : Fld := ⟨.EPC_FREEZE_TIME, 1, 31, 0, .ro, .none, 0⟩
/-! EPC_ERR_CFG: 11_state_and_change.md R371 -/
def Fld.EPC_ERR_CFG.ESC_U : Fld := ⟨.EPC_ERR_CFG, 0, 31, 24, .rw, .g, 16⟩
def Fld.EPC_ERR_CFG.LOG_HOLD : Fld := ⟨.EPC_ERR_CFG, 0, 23, 16, .rw, .g, 100⟩
/-! EPC_LOG_WP: 11_state_and_change.md R368 -/
def Fld.EPC_LOG_WP.N : Fld := ⟨.EPC_LOG_WP, 0, 31, 0, .ro, .none, 0⟩
/-! EPC_LOG_RP: 11_state_and_change.md R368 -/
def Fld.EPC_LOG_RP.N : Fld := ⟨.EPC_LOG_RP, 0, 31, 0, .rw, .l, 0⟩
/-! EPC_S_IGN_CNT: 11_state_and_change.md R340 -/
def Fld.EPC_S_IGN_CNT.N : Fld := ⟨.EPC_S_IGN_CNT, 0, 31, 0, .rc, .none, 0⟩
/-! EPC_LOG_OVF: 11_state_and_change.md R368 -/
def Fld.EPC_LOG_OVF.N : Fld := ⟨.EPC_LOG_OVF, 0, 31, 0, .rc, .none, 0⟩
/-! EPC_SUPPR_CNT: 11_state_and_change.md R367 -/
def Fld.EPC_SUPPR_CNT.N : Fld := ⟨.EPC_SUPPR_CNT, 0, 31, 0, .rc, .none, 0⟩
/-! EPC_FIRST: 11_state_and_change.md R369 -/
def Fld.EPC_FIRST.VALID : Fld := ⟨.EPC_FIRST, 1, 7, 7, .w1c, .none, 0⟩
def Fld.EPC_FIRST.REST_HI : Fld := ⟨.EPC_FIRST, 1, 31, 8, .ro, .none, 0⟩
def Fld.EPC_FIRST.REST_LO : Fld := ⟨.EPC_FIRST, 1, 6, 0, .ro, .none, 0⟩
/-! EPC_LOG: 11_state_and_change.md R368 -/
/-! TST_FT_CFG: 12_test_instrument.md R375 -/
def Fld.TST_FT_CFG.SRC : Fld := ⟨.TST_FT_CFG, 0, 31, 30, .rw, .l, 0⟩
def Fld.TST_FT_CFG.TIME_PORT : Fld := ⟨.TST_FT_CFG, 0, 29, 20, .rw, .l, 0x3ff⟩
def Fld.TST_FT_CFG.TIME_PORT2 : Fld := ⟨.TST_FT_CFG, 0, 19, 10, .rw, .l, 0x3ff⟩
def Fld.TST_FT_CFG.PPS_OUT_EN : Fld := ⟨.TST_FT_CFG, 0, 9, 9, .rw, .l, 0⟩
def Fld.TST_FT_CFG.STEP_THR : Fld := ⟨.TST_FT_CFG, 0, 8, 4, .rw, .l, 10⟩
def Fld.TST_FT_CFG.SYNC_INT : Fld := ⟨.TST_FT_CFG, 0, 3, 0, .rw, .l, 4⟩
/-! TST_FT_STAT: 12_test_instrument.md R379 -/
def Fld.TST_FT_STAT.STATE : Fld := ⟨.TST_FT_STAT, 0, 31, 30, .ro, .none, 0⟩
def Fld.TST_FT_STAT.STRATUM : Fld := ⟨.TST_FT_STAT, 0, 29, 26, .ro, .none, 15⟩
def Fld.TST_FT_STAT.USING : Fld := ⟨.TST_FT_STAT, 0, 25, 24, .ro, .none, 0⟩
def Fld.TST_FT_STAT.PPS_SEEN : Fld := ⟨.TST_FT_STAT, 0, 23, 23, .ro, .none, 0⟩
/-! TST_FT: 12_test_instrument.md R374 -/
def Fld.TST_FT.LO : Fld := ⟨.TST_FT, 0, 31, 0, .ro, .none, 0⟩
def Fld.TST_FT.HI : Fld := ⟨.TST_FT, 1, 31, 0, .ro, .none, 0⟩
/-! TST_FT_SET: 12_test_instrument.md R375 -/
def Fld.TST_FT_SET.LO : Fld := ⟨.TST_FT_SET, 0, 31, 0, .rw, .l, 0⟩
def Fld.TST_FT_SET.HI : Fld := ⟨.TST_FT_SET, 1, 31, 0, .rw, .l, 0⟩
/-! TST_FT_OFFSET: 12_test_instrument.md R379 -/
def Fld.TST_FT_OFFSET.N : Fld := ⟨.TST_FT_OFFSET, 0, 31, 0, .ro, .none, 0⟩
/-! TST_FT_DELAY: 12_test_instrument.md R379 -/
def Fld.TST_FT_DELAY.N : Fld := ⟨.TST_FT_DELAY, 0, 31, 0, .ro, .none, 0⟩
/-! TST_FT_FREQ: 12_test_instrument.md R374 -/
def Fld.TST_FT_FREQ.N : Fld := ⟨.TST_FT_FREQ, 0, 31, 0, .ro, .none, 0⟩
/-! TST_PCHK_EN: 12_test_instrument.md R390 -/
def Fld.TST_PCHK_EN.EN : Fld := ⟨.TST_PCHK_EN, 0, 12, 1, .rw, .l, 0xfff⟩
/-! TST_CHK_NOFLOW: 12_test_instrument.md R389 -/
def Fld.TST_CHK_NOFLOW.N : Fld := ⟨.TST_CHK_NOFLOW, 0, 31, 0, .rc, .none, 0⟩
/-! TST_GEP_DISC: 12_test_instrument.md R385 -/
def Fld.TST_GEP_DISC.N : Fld := ⟨.TST_GEP_DISC, 0, 31, 0, .rc, .none, 0⟩
/-! TST_PCHK_CNT: 12_test_instrument.md R390 -/
def Fld.TST_PCHK_CNT.N : Fld := ⟨.TST_PCHK_CNT, 0, 31, 0, .rc, .none, 0⟩
/-! TST_PORT_TIME: 12_test_instrument.md R378 -/
def Fld.TST_PORT_TIME.ROLE : Fld := ⟨.TST_PORT_TIME, 0, 31, 30, .rw, .l, 0⟩
def Fld.TST_PORT_TIME.ASYM : Fld := ⟨.TST_PORT_TIME, 0, 15, 0, .rw, .l, 0⟩
/-! TST_PORT_TSTAT: 12_test_instrument.md R379 -/
def Fld.TST_PORT_TSTAT.FAR_STRATUM : Fld := ⟨.TST_PORT_TSTAT, 0, 31, 28, .ro, .none, 15⟩
def Fld.TST_PORT_TSTAT.FAR_STATE : Fld := ⟨.TST_PORT_TSTAT, 0, 27, 26, .ro, .none, 0⟩
def Fld.TST_PORT_TSTAT.SYNC_OK : Fld := ⟨.TST_PORT_TSTAT, 0, 25, 25, .ro, .none, 0⟩
/-! TST_PORT_DELAY: 12_test_instrument.md R379 -/
def Fld.TST_PORT_DELAY.N : Fld := ⟨.TST_PORT_DELAY, 0, 31, 0, .ro, .none, 0⟩
/-! TST_MATCH: 12_test_instrument.md R391 -/
def Fld.TST_MATCH.VALID : Fld := ⟨.TST_MATCH, 0, 31, 31, .rw, .l, 0⟩
def Fld.TST_MATCH.TAP : Fld := ⟨.TST_MATCH, 0, 30, 29, .rw, .l, 0⟩
def Fld.TST_MATCH.CAP : Fld := ⟨.TST_MATCH, 0, 28, 28, .rw, .l, 0⟩
def Fld.TST_MATCH.INJ_EN : Fld := ⟨.TST_MATCH, 0, 27, 27, .rw, .l, 0⟩
def Fld.TST_MATCH.INJ : Fld := ⟨.TST_MATCH, 0, 26, 23, .rw, .l, 0⟩
def Fld.TST_MATCH.SAMPLE : Fld := ⟨.TST_MATCH, 0, 22, 19, .rw, .l, 0⟩
def Fld.TST_MATCH.PORT : Fld := ⟨.TST_MATCH, 0, 10, 0, .rw, .l, 0x7ff⟩
/-! TST_MATCH_CNT: 12_test_instrument.md R391 -/
def Fld.TST_MATCH_CNT.N : Fld := ⟨.TST_MATCH_CNT, 0, 31, 0, .rc, .none, 0⟩
/-! TST_INJ: 12_test_instrument.md R393 -/
def Fld.TST_INJ.KIND : Fld := ⟨.TST_INJ, 0, 31, 29, .rw, .l, 0⟩
def Fld.TST_INJ.LIMIT : Fld := ⟨.TST_INJ, 0, 28, 28, .rw, .l, 0⟩
def Fld.TST_INJ.EVERY : Fld := ⟨.TST_INJ, 0, 15, 0, .rw, .l, 1⟩
def Fld.TST_INJ.DELAY : Fld := ⟨.TST_INJ, 1, 19, 0, .rw, .l, 0⟩
def Fld.TST_INJ.LEFT : Fld := ⟨.TST_INJ, 2, 15, 0, .rw, .l, 0⟩
/-! TST_INJ_CNT: 12_test_instrument.md R393 -/
def Fld.TST_INJ_CNT.N : Fld := ⟨.TST_INJ_CNT, 0, 31, 0, .rc, .none, 0⟩
/-! TST_PG_CFG: 12_test_instrument.md R384 -/
def Fld.TST_PG_CFG.GOLDEN : Fld := ⟨.TST_PG_CFG, 0, 31, 31, .rw, .s, 0⟩
/-! TST_GEN_CTL: 12_test_instrument.md R386 -/
def Fld.TST_GEN_CTL.STOP : Fld := ⟨.TST_GEN_CTL, 0, 31, 16, .w1s, .l, 0⟩
def Fld.TST_GEN_CTL.START : Fld := ⟨.TST_GEN_CTL, 0, 15, 0, .w1s, .l, 0⟩
/-! TST_GEN_STAT: 12_test_instrument.md R386 -/
def Fld.TST_GEN_STAT.REJ : Fld := ⟨.TST_GEN_STAT, 0, 31, 16, .w1c, .none, 0⟩
def Fld.TST_GEN_STAT.RUN : Fld := ⟨.TST_GEN_STAT, 0, 15, 0, .ro, .none, 0⟩
/-! TST_CHK_CLR: 12_test_instrument.md R389 -/
def Fld.TST_CHK_CLR.CLR : Fld := ⟨.TST_CHK_CLR, 0, 0, 0, .w1s, .l, 0⟩
/-! TST_GEN_SENT: 12_test_instrument.md R386 -/
def Fld.TST_GEN_SENT.N : Fld := ⟨.TST_GEN_SENT, 0, 31, 0, .ro, .none, 0⟩
/-! TST_FEC_INJ: 12_test_instrument.md R395 -/
def Fld.TST_FEC_INJ.EN : Fld := ⟨.TST_FEC_INJ, 0, 31, 31, .rw, .l, 0⟩
def Fld.TST_FEC_INJ.SYMS : Fld := ⟨.TST_FEC_INJ, 0, 30, 21, .rw, .l, 16⟩
def Fld.TST_FEC_INJ.OFF : Fld := ⟨.TST_FEC_INJ, 0, 20, 11, .rw, .l, 0⟩
def Fld.TST_FEC_INJ.EVERY : Fld := ⟨.TST_FEC_INJ, 1, 31, 16, .rw, .l, 1⟩
def Fld.TST_FEC_INJ.LEFT : Fld := ⟨.TST_FEC_INJ, 1, 15, 0, .rw, .l, 1⟩
/-! TST_FEC_INJ_CNT: 12_test_instrument.md R395 -/
def Fld.TST_FEC_INJ_CNT.N : Fld := ⟨.TST_FEC_INJ_CNT, 0, 31, 0, .rc, .none, 0⟩
/-! TST_GEN_STR: 12_test_instrument.md R386 -/
def Fld.TST_GEN_STR.PORT : Fld := ⟨.TST_GEN_STR, 0, 31, 27, .rw, .s, 0⟩
def Fld.TST_GEN_STR.MODE : Fld := ⟨.TST_GEN_STR, 0, 26, 25, .rw, .s, 0⟩
def Fld.TST_GEN_STR.LEN_MODE : Fld := ⟨.TST_GEN_STR, 0, 24, 23, .rw, .s, 0⟩
def Fld.TST_GEN_STR.PATTERN : Fld := ⟨.TST_GEN_STR, 0, 22, 21, .rw, .s, 0⟩
def Fld.TST_GEN_STR.CONST : Fld := ⟨.TST_GEN_STR, 0, 20, 13, .rw, .s, 0⟩
def Fld.TST_GEN_STR.LEN_MAX : Fld := ⟨.TST_GEN_STR, 1, 29, 16, .rw, .s, 64⟩
def Fld.TST_GEN_STR.LEN_MIN : Fld := ⟨.TST_GEN_STR, 1, 13, 0, .rw, .s, 64⟩
def Fld.TST_GEN_STR.RATE : Fld := ⟨.TST_GEN_STR, 2, 31, 16, .rw, .s, 0xffff⟩
def Fld.TST_GEN_STR.PEN_EVERY : Fld := ⟨.TST_GEN_STR, 2, 15, 0, .rw, .s, 0⟩
def Fld.TST_GEN_STR.COUNT : Fld := ⟨.TST_GEN_STR, 3, 31, 0, .rw, .s, 0⟩
def Fld.TST_GEN_STR.HDR0 : Fld := ⟨.TST_GEN_STR, 4, 31, 0, .rw, .s, 0⟩
def Fld.TST_GEN_STR.HDR1 : Fld := ⟨.TST_GEN_STR, 5, 31, 0, .rw, .s, 0⟩
def Fld.TST_GEN_STR.HDR2 : Fld := ⟨.TST_GEN_STR, 6, 31, 0, .rw, .s, 0⟩
def Fld.TST_GEN_STR.HDR3 : Fld := ⟨.TST_GEN_STR, 7, 31, 0, .rw, .s, 0⟩
def Fld.TST_GEN_STR.PATHX0 : Fld := ⟨.TST_GEN_STR, 8, 31, 0, .rw, .s, 0⟩
def Fld.TST_GEN_STR.PATHX1 : Fld := ⟨.TST_GEN_STR, 9, 31, 0, .rw, .s, 0⟩
def Fld.TST_GEN_STR.PATHX2 : Fld := ⟨.TST_GEN_STR, 10, 31, 0, .rw, .s, 0⟩
/-! TST_GEP_ID: 12_test_instrument.md R384 -/
def Fld.TST_GEP_ID.VALID : Fld := ⟨.TST_GEP_ID, 0, 31, 31, .rw, .s, 0⟩
def Fld.TST_GEP_ID.ID : Fld := ⟨.TST_GEP_ID, 0, 15, 0, .rw, .s, 0⟩
/-! TST_PCHK_FIRST: 12_test_instrument.md R390 -/
def Fld.TST_PCHK_FIRST.VALID : Fld := ⟨.TST_PCHK_FIRST, 0, 31, 31, .w1c, .none, 0⟩
def Fld.TST_PCHK_FIRST.RULE : Fld := ⟨.TST_PCHK_FIRST, 0, 3, 0, .ro, .none, 0⟩
/-! TST_CHK_FLOW: 12_test_instrument.md R389 -/
def Fld.TST_CHK_FLOW.VALID : Fld := ⟨.TST_CHK_FLOW, 0, 31, 31, .ro, .none, 0⟩
def Fld.TST_CHK_FLOW.SRC : Fld := ⟨.TST_CHK_FLOW, 0, 15, 0, .ro, .none, 0⟩
def Fld.TST_CHK_FLOW.STREAM_ID : Fld := ⟨.TST_CHK_FLOW, 1, 15, 0, .ro, .none, 0⟩
def Fld.TST_CHK_FLOW.RX : Fld := ⟨.TST_CHK_FLOW, 2, 31, 0, .ro, .none, 0⟩
def Fld.TST_CHK_FLOW.LOST : Fld := ⟨.TST_CHK_FLOW, 3, 31, 0, .ro, .none, 0⟩
def Fld.TST_CHK_FLOW.LATE : Fld := ⟨.TST_CHK_FLOW, 4, 31, 0, .ro, .none, 0⟩
def Fld.TST_CHK_FLOW.PAT_ERR : Fld := ⟨.TST_CHK_FLOW, 5, 31, 0, .ro, .none, 0⟩
def Fld.TST_CHK_FLOW.BIT_ERR : Fld := ⟨.TST_CHK_FLOW, 6, 31, 0, .ro, .none, 0⟩
def Fld.TST_CHK_FLOW.LAT_MIN : Fld := ⟨.TST_CHK_FLOW, 7, 31, 0, .ro, .none, 0xffffffff⟩
def Fld.TST_CHK_FLOW.LAT_MAX : Fld := ⟨.TST_CHK_FLOW, 8, 31, 0, .ro, .none, 0⟩
def Fld.TST_CHK_FLOW.LAT_SUM_LO : Fld := ⟨.TST_CHK_FLOW, 9, 31, 0, .ro, .none, 0⟩
def Fld.TST_CHK_FLOW.LAT_SUM_HI : Fld := ⟨.TST_CHK_FLOW, 10, 31, 0, .ro, .none, 0⟩
def Fld.TST_CHK_FLOW.EXP : Fld := ⟨.TST_CHK_FLOW, 11, 31, 0, .ro, .none, 0⟩

/-- The named fields of each register. -/
def Reg.fields : Reg → List Fld
  | .TOP_CHIP_ID => [Fld.TOP_CHIP_ID.PART, Fld.TOP_CHIP_ID.VARIANT, Fld.TOP_CHIP_ID.STEP_MAJOR,
      Fld.TOP_CHIP_ID.STEP_MINOR, Fld.TOP_CHIP_ID.PLANE]
  | .TOP_STRAP => [Fld.TOP_STRAP.SPI_WIDTH, Fld.TOP_STRAP.CASC_EN, Fld.TOP_STRAP.CASC_PRIO, Fld.TOP_STRAP.CANTON_SEL]
  | .TOP_CLK_STAT => [Fld.TOP_CLK_STAT.CORE_MHZ, Fld.TOP_CLK_STAT.HALYARD_LOCK, Fld.TOP_CLK_STAT.CORE_LOCK,
      Fld.TOP_CLK_STAT.AON_OK, Fld.TOP_CLK_STAT.REFCLK_OK]
  | .TOP_RST_CTL => [Fld.TOP_RST_CTL.TST_RST, Fld.TOP_RST_CTL.MEM_RST, Fld.TOP_RST_CTL.DSP_RST,
      Fld.TOP_RST_CTL.COL_RST, Fld.TOP_RST_CTL.SWC_RST]
  | .TOP_UNIT_STAT => [Fld.TOP_UNIT_STAT.TILE_OK, Fld.TOP_UNIT_STAT.CHIPLET_OK]
  | .TOP_PG_STAT => [Fld.TOP_PG_STAT.PLANE_OK, Fld.TOP_PG_STAT.CANTON_ACTIVE, Fld.TOP_PG_STAT.MEM_OK,
      Fld.TOP_PG_STAT.DSP_OK, Fld.TOP_PG_STAT.COL_OK, Fld.TOP_PG_STAT.HALYARD_OK, Fld.TOP_PG_STAT.PG_OK]
  | .LNE_GLB_CFG => [Fld.LNE_GLB_CFG.TRAIN_MAX, Fld.LNE_GLB_CFG.LPI_IDLE, Fld.LNE_GLB_CFG.RETRY_MAX,
      Fld.LNE_GLB_CFG.UNCORR_FAIL, Fld.LNE_GLB_CFG.PLAN_WAIT]
  | .LNE_FABRIC_ID => [Fld.LNE_FABRIC_ID.ID]
  | .LNE_QDISC_CNT => [Fld.LNE_QDISC_CNT.N]
  | .LNE_BADBLK => [Fld.LNE_BADBLK.N]
  | .LNE_LANE_CFG => [Fld.LNE_LANE_CFG.LOOPBACK, Fld.LNE_LANE_CFG.PRBS_GEN, Fld.LNE_LANE_CFG.PRBS_CHK,
      Fld.LNE_LANE_CFG.PRBS_CLR, Fld.LNE_LANE_CFG.TX_INV, Fld.LNE_LANE_CFG.RX_INV, Fld.LNE_LANE_CFG.TX_SQUELCH]
  | .LNE_LANE_STAT => [Fld.LNE_LANE_STAT.SIG_DET, Fld.LNE_LANE_STAT.BIT_LOCK, Fld.LNE_LANE_STAT.CW_LOCK,
      Fld.LNE_LANE_STAT.AM_LOCK, Fld.LNE_LANE_STAT.PRBS_LOCK, Fld.LNE_LANE_STAT.LANE_FAIL, Fld.LNE_LANE_STAT.LPI,
      Fld.LNE_LANE_STAT.SNR, Fld.LNE_LANE_STAT.DESKEW]
  | .LNE_FEC_CORR => [Fld.LNE_FEC_CORR.N]
  | .LNE_FEC_UNCORR => [Fld.LNE_FEC_UNCORR.N]
  | .LNE_FEC_SYMERR => [Fld.LNE_FEC_SYMERR.N]
  | .LNE_PRBS_ERR => [Fld.LNE_PRBS_ERR.LO, Fld.LNE_PRBS_ERR.HI]
  | .LNE_TX_COEF => [Fld.LNE_TX_COEF.CM3, Fld.LNE_TX_COEF.CM2, Fld.LNE_TX_COEF.CM1, Fld.LNE_TX_COEF.C0,
      Fld.LNE_TX_COEF.CP1]
  | .LNE_EYE_CTL => [Fld.LNE_EYE_CTL.START, Fld.LNE_EYE_CTL.EYE]
  | .LNE_EYE_STAT => [Fld.LNE_EYE_STAT.DONE, Fld.LNE_EYE_STAT.HEIGHT, Fld.LNE_EYE_STAT.WIDTH]
  | .LNE_PORT_CFG => [Fld.LNE_PORT_CFG.PORT_EN, Fld.LNE_PORT_CFG.AUTO_ADMIT, Fld.LNE_PORT_CFG.QMGMT,
      Fld.LNE_PORT_CFG.LPI_EN, Fld.LNE_PORT_CFG.RESTORE_AUTO, Fld.LNE_PORT_CFG.MIN_WIDTH, Fld.LNE_PORT_CFG.WIDTH]
  | .LNE_PORT_CTL => [Fld.LNE_PORT_CTL.RESTORE, Fld.LNE_PORT_CTL.ADMIT, Fld.LNE_PORT_CTL.RETRAIN]
  | .LNE_PORT_STAT => [Fld.LNE_PORT_STAT.STAGE, Fld.LNE_PORT_STAT.ACT_WIDTH, Fld.LNE_PORT_STAT.HALF_MAST,
      Fld.LNE_PORT_STAT.CFG_REJ, Fld.LNE_PORT_STAT.REASON, Fld.LNE_PORT_STAT.RETRIES, Fld.LNE_PORT_STAT.ACT_MASK]
  | .LNE_WIRE_CTL => [Fld.LNE_WIRE_CTL.VALID, Fld.LNE_WIRE_CTL.CHECK, Fld.LNE_WIRE_CTL.EXP_ROLE]
  | .LNE_WIRE_ID => [Fld.LNE_WIRE_ID.EXP_EP_ID, Fld.LNE_WIRE_ID.EXP_PORT_ID]
  | .LNE_WIRE_SER => [Fld.LNE_WIRE_SER.LO, Fld.LNE_WIRE_SER.HI]
  | .LNE_WIRE_FAB => [Fld.LNE_WIRE_FAB.ID]
  | .LNE_FAR_ENSIGN => []
  | .LFP_GLB_CFG => [Fld.LFP_GLB_CFG.MAX_RES, Fld.LFP_GLB_CFG.HOP_LIMIT]
  | .LFP_CE_CFG => [Fld.LFP_CE_CFG.CE_MAX, Fld.LFP_CE_CFG.CE_MIN]
  | .LFP_WIN_CFG => [Fld.LFP_WIN_CFG.W_SRC, Fld.LFP_WIN_CFG.ACK_STRIDE, Fld.LFP_WIN_CFG.ACK_DELAY,
      Fld.LFP_WIN_CFG.ECE_INT]
  | .LFP_TMO_CFG => [Fld.LFP_TMO_CFG.OP_TIMEOUT, Fld.LFP_TMO_CFG.HOLE_T]
  | .LFP_CC_CFG => [Fld.LFP_CC_CFG.INC_INT, Fld.LFP_CC_CFG.DEC_INT, Fld.LFP_CC_CFG.DEC_SHIFT, Fld.LFP_CC_CFG.INC]
  | .LFP_CRED_ESC => [Fld.LFP_CRED_ESC.ADV]
  | .LFP_CRED_ADV0 => [Fld.LFP_CRED_ADV0.ADV]
  | .LFP_CRED_ADV1 => [Fld.LFP_CRED_ADV1.ADV]
  | .LFP_CRED_ADV2 => [Fld.LFP_CRED_ADV2.ADV]
  | .LFP_CRED_ADV3 => [Fld.LFP_CRED_ADV3.ADV]
  | .LFP_CRED_ADV4 => [Fld.LFP_CRED_ADV4.ADV]
  | .LFP_HCRC_DISC => [Fld.LFP_HCRC_DISC.N]
  | .LFP_HDR_DISC => [Fld.LFP_HDR_DISC.N]
  | .LFP_CRC_DISC => [Fld.LFP_CRC_DISC.N]
  | .LFP_STOMP_TX => [Fld.LFP_STOMP_TX.N]
  | .LFP_STOMP_RX => [Fld.LFP_STOMP_RX.N]
  | .LFP_OVERSIZE_DISC => [Fld.LFP_OVERSIZE_DISC.N]
  | .LFP_WH_TRUNC => [Fld.LFP_WH_TRUNC.N]
  | .LFP_AGE_DISC => [Fld.LFP_AGE_DISC.N]
  | .LFP_OOW_DISC => [Fld.LFP_OOW_DISC.N]
  | .LFP_LATE_DISC => [Fld.LFP_LATE_DISC.N]
  | .LFP_HOLE_CNT => [Fld.LFP_HOLE_CNT.N]
  | .LFP_PEN_FAIL => [Fld.LFP_PEN_FAIL.N]
  | .LFP_OP_TMO => [Fld.LFP_OP_TMO.N]
  | .LFP_STALE_CPL => [Fld.LFP_STALE_CPL.N]
  | .LFP_CRED_RECON => [Fld.LFP_CRED_RECON.N]
  | .LFP_HOP_DISC => [Fld.LFP_HOP_DISC.N]
  | .LFP_CRED_VIOL => [Fld.LFP_CRED_VIOL.N]
  | .LFP_PORT_CFG => [Fld.LFP_PORT_CFG.FLOW_MODE, Fld.LFP_PORT_CFG.PATH_EN, Fld.LFP_PORT_CFG.WH_WAIT,
      Fld.LFP_PORT_CFG.WH_MAX]
  | .LFP_PORT_STAT => [Fld.LFP_PORT_STAT.WH_TX, Fld.LFP_PORT_STAT.FAR_WH, Fld.LFP_PORT_STAT.CRED_UP]
  | .LFP_PORT_CREDIT => [Fld.LFP_PORT_CREDIT.FAR_ADV, Fld.LFP_PORT_CREDIT.AVAIL]
  | .RTE_GLB_CFG => [Fld.RTE_GLB_CFG.ESC_EN, Fld.RTE_GLB_CFG.ESC_WAIT, Fld.RTE_GLB_CFG.ADAPT_BIAS]
  | .RTE_HASH_SEED => [Fld.RTE_HASH_SEED.SEED]
  | .RTE_DRAIN_CTL => [Fld.RTE_DRAIN_CTL.START, Fld.RTE_DRAIN_CTL.ABORT, Fld.RTE_DRAIN_CTL.DRAIN_ID]
  | .RTE_DRAIN_STAT => [Fld.RTE_DRAIN_STAT.BUSY, Fld.RTE_DRAIN_STAT.DONE, Fld.RTE_DRAIN_STAT.REJ,
      Fld.RTE_DRAIN_STAT.ABT, Fld.RTE_DRAIN_STAT.ID]
  | .RTE_DRAIN_OLD => [Fld.RTE_DRAIN_OLD.N]
  | .RTE_CMAP_CFG => [Fld.RTE_CMAP_CFG.PUSH_EN, Fld.RTE_CMAP_CFG.MAP_INT]
  | .RTE_CMAP_SEQ => [Fld.RTE_CMAP_SEQ.N]
  | .RTE_ALIAS => [Fld.RTE_ALIAS.VALID, Fld.RTE_ALIAS.ID]
  | .RTE_MISS_DISC => [Fld.RTE_MISS_DISC.N]
  | .RTE_PATH_DISC => [Fld.RTE_PATH_DISC.N]
  | .RTE_ESC_DISC => [Fld.RTE_ESC_DISC.N]
  | .RTE_INT_DISC => [Fld.RTE_INT_DISC.N]
  | .RTE_MC_DISC => [Fld.RTE_MC_DISC.N]
  | .RTE_ESC_MOVE => [Fld.RTE_ESC_MOVE.N]
  | .RTE_NOPORT_DISC => [Fld.RTE_NOPORT_DISC.N]
  | .RTE_CMAP_LOST => [Fld.RTE_CMAP_LOST.N]
  | .RTE_PORT_CFG => [Fld.RTE_PORT_CFG.DIR, Fld.RTE_PORT_CFG.MARK_TX, Fld.RTE_PORT_CFG.AWAIT]
  | .RTE_MARK_RX => [Fld.RTE_MARK_RX.VALID, Fld.RTE_MARK_RX.PEND, Fld.RTE_MARK_RX.ID]
  | .RTE_ENTRY => [Fld.RTE_ENTRY.VALID, Fld.RTE_ENTRY.POLICY, Fld.RTE_ENTRY.MC, Fld.RTE_ENTRY.INDEX,
      Fld.RTE_ENTRY.TAGH, Fld.RTE_ENTRY.ESC_EN, Fld.RTE_ENTRY.ESC_CODE]
  | .RTE_SET => [Fld.RTE_SET.W0, Fld.RTE_SET.W1, Fld.RTE_SET.W2, Fld.RTE_SET.W3, Fld.RTE_SET.W4, Fld.RTE_SET.COUNT,
      Fld.RTE_SET.W5]
  | .RTE_MCG => [Fld.RTE_MCG.UP_VALID, Fld.RTE_MCG.UP_SET, Fld.RTE_MCG.INTERNAL]
  | .RTE_CMAP => []
  | .SWC_BUF_CFG => [Fld.SWC_BUF_CFG.GUAR, Fld.SWC_BUF_CFG.SHARED_MIN]
  | .SWC_ALPHA => [Fld.SWC_ALPHA.ALPHA_MC, Fld.SWC_ALPHA.ALPHA8, Fld.SWC_ALPHA.ALPHAS]
  | .SWC_EGR_CFG => [Fld.SWC_EGR_CFG.HOLD_DOWN, Fld.SWC_EGR_CFG.STAGE_HI]
  | .SWC_SCHED_LO => [Fld.SWC_SCHED_LO.W]
  | .SWC_SCHED_HI => [Fld.SWC_SCHED_HI.W]
  | .SWC_HAL_CFG => [Fld.SWC_HAL_CFG.HAL_ADV, Fld.SWC_HAL_CFG.RETRY_MAX]
  | .SWC_MIR_CFG => [Fld.SWC_MIR_CFG.ING_EN, Fld.SWC_MIR_CFG.EGR_EN, Fld.SWC_MIR_CFG.RATE]
  | .SWC_BUF_STAT => [Fld.SWC_BUF_STAT.STALE, Fld.SWC_BUF_STAT.GUAR_EFF]
  | .SWC_POOL_SIZE => [Fld.SWC_POOL_SIZE.SIZE]
  | .SWC_POOL_USED => [Fld.SWC_POOL_USED.USED]
  | .SWC_HELD => [Fld.SWC_HELD.HELD]
  | .SWC_SPINE_STAT => [Fld.SWC_SPINE_STAT.N, Fld.SWC_SPINE_STAT.ELEM_OK]
  | .SWC_HAL_STAT => [Fld.SWC_HAL_STAT.UP, Fld.SWC_HAL_STAT.RTT]
  | .SWC_FLUSH_DISC => [Fld.SWC_FLUSH_DISC.N]
  | .SWC_OVF_DISC => [Fld.SWC_OVF_DISC.N]
  | .SWC_RESEQ_LOSS => [Fld.SWC_RESEQ_LOSS.N]
  | .SWC_SPINE_ERR => [Fld.SWC_SPINE_ERR.N]
  | .SWC_HAL_REPLAY => [Fld.SWC_HAL_REPLAY.N]
  | .SWC_HAL_CRC => [Fld.SWC_HAL_CRC.N]
  | .SWC_MIR_DROP => [Fld.SWC_MIR_DROP.N]
  | .SWC_PORT_CTL => [Fld.SWC_PORT_CTL.HD_CLR]
  | .SWC_PORT_STAT => [Fld.SWC_PORT_STAT.HOLD, Fld.SWC_PORT_STAT.HD_LEFT]
  | .SWC_PORT_FLUSH => [Fld.SWC_PORT_FLUSH.N]
  | .SWC_QDEPTH => [Fld.SWC_QDEPTH.DEPTH]
  | .COL_GLB_CFG => [Fld.COL_GLB_CFG.GRP_TMO, Fld.COL_GLB_CFG.CRED_STRIDE, Fld.COL_GLB_CFG.CRED_REFRESH]
  | .COL_SLOT_FREE => [Fld.COL_SLOT_FREE.N]
  | .COL_REC_FREE => [Fld.COL_REC_FREE.N]
  | .COL_SPILL_FREE => [Fld.COL_SPILL_FREE.N]
  | .COL_ACT_CNT => [Fld.COL_ACT_CNT.N]
  | .COL_DIAG_CTL => [Fld.COL_DIAG_CTL.GROUP]
  | .COL_CRED_DISC => [Fld.COL_CRED_DISC.N]
  | .COL_STALE_DISC => [Fld.COL_STALE_DISC.N]
  | .COL_ABORT_DISC => [Fld.COL_ABORT_DISC.N]
  | .COL_GRP_DISC => [Fld.COL_GRP_DISC.N]
  | .COL_SAT_CNT => [Fld.COL_SAT_CNT.N]
  | .COL_CACHE_HIT => [Fld.COL_CACHE_HIT.N]
  | .COL_CACHE_MISS => [Fld.COL_CACHE_MISS.N]
  | .COL_FWD_CNT => [Fld.COL_FWD_CNT.N]
  | .COL_DIAG_MAP => [Fld.COL_DIAG_MAP.W]
  | .COL_GRP => [Fld.COL_GRP.VALID, Fld.COL_GRP.KIND, Fld.COL_GRP.FMT, Fld.COL_GRP.OUT_FMT, Fld.COL_GRP.OP,
      Fld.COL_GRP.COMP, Fld.COL_GRP.RND, Fld.COL_GRP.OVF, Fld.COL_GRP.PART_FMT, Fld.COL_GRP.ROOT,
      Fld.COL_GRP.EXHAUST, Fld.COL_GRP.DOWN_FORM, Fld.COL_GRP.XPLANE, Fld.COL_GRP.TC, Fld.COL_GRP.CHUNK_SLOTS,
      Fld.COL_GRP.CHILD_BASE, Fld.COL_GRP.CHILD_COUNT, Fld.COL_GRP.PARENT_ID, Fld.COL_GRP.DOWN_ID,
      Fld.COL_GRP.ALLOC_CHUNKS, Fld.COL_GRP.SPILL_CHUNKS, Fld.COL_GRP.FWD_EP, Fld.COL_GRP.FWD_CHUNKS,
      Fld.COL_GRP.SEED, Fld.COL_GRP.MEAN_N, Fld.COL_GRP.SEG_CHUNKS, Fld.COL_GRP.MEMBER_BASE,
      Fld.COL_GRP.MEMBER_COUNT, Fld.COL_GRP.ROOT_EP]
  | .COL_GRP_CTL => [Fld.COL_GRP_CTL.REFORM, Fld.COL_GRP_CTL.ABORT, Fld.COL_GRP_CTL.DEACTIVATE,
      Fld.COL_GRP_CTL.ACTIVATE]
  | .COL_GRP_STAT => [Fld.COL_GRP_STAT.STATE, Fld.COL_GRP_STAT.REJ, Fld.COL_GRP_STAT.ORIGIN,
      Fld.COL_GRP_STAT.ABORT_CODE, Fld.COL_GRP_STAT.EPOCH, Fld.COL_GRP_STAT.REJ_CODE]
  | .COL_GRP_BASE => [Fld.COL_GRP_BASE.N]
  | .COL_GRP_LIMIT => [Fld.COL_GRP_LIMIT.N]
  | .COL_ID => [Fld.COL_ID.VALID, Fld.COL_ID.ENGINE, Fld.COL_ID.ID]
  | .DSP_GLB_CFG => [Fld.DSP_GLB_CFG.LYR_TMO, Fld.DSP_GLB_CFG.STORE_HI]
  | .DSP_REC_FREE => [Fld.DSP_REC_FREE.N]
  | .DSP_OVF_FREE => [Fld.DSP_OVF_FREE.N]
  | .DSP_ACT_CNT => [Fld.DSP_ACT_CNT.N]
  | .DSP_STORE_USED => [Fld.DSP_STORE_USED.N]
  | .DSP_LYR_DISC => [Fld.DSP_LYR_DISC.N]
  | .DSP_REFUSE_CNT => [Fld.DSP_REFUSE_CNT.N]
  | .DSP_STALE_DISC => [Fld.DSP_STALE_DISC.N]
  | .DSP_DROP_CNT => [Fld.DSP_DROP_CNT.N]
  | .DSP_QUEUE_CNT => [Fld.DSP_QUEUE_CNT.N]
  | .DSP_OVF_FULL => [Fld.DSP_OVF_FULL.N]
  | .DSP_HOST_CNT => [Fld.DSP_HOST_CNT.N]
  | .DSP_OUT_DISC => [Fld.DSP_OUT_DISC.N]
  | .DSP_ABORT_DISC => [Fld.DSP_ABORT_DISC.N]
  | .DSP_SAT_CNT => [Fld.DSP_SAT_CNT.N]
  | .DSP_LYR => [Fld.DSP_LYR.VALID, Fld.DSP_LYR.Y_FMT, Fld.DSP_LYR.R_FMT, Fld.DSP_LYR.RND, Fld.DSP_LYR.OVF,
      Fld.DSP_LYR.RENORM, Fld.DSP_LYR.RET_DATA, Fld.DSP_LYR.POLICY, Fld.DSP_LYR.TC, Fld.DSP_LYR.FRAGS,
      Fld.DSP_LYR.ROUNDS_MAX, Fld.DSP_LYR.KMAX, Fld.DSP_LYR.EXP_BASE, Fld.DSP_LYR.EXP_COUNT, Fld.DSP_LYR.ORIG_BASE,
      Fld.DSP_LYR.ORIG_COUNT, Fld.DSP_LYR.TOK_MAX, Fld.DSP_LYR.OVF_TOKENS, Fld.DSP_LYR.TOK_BYTES,
      Fld.DSP_LYR.OUT_ELEMS, Fld.DSP_LYR.OVF_EP, Fld.DSP_LYR.SEED]
  | .DSP_LYR_CTL => [Fld.DSP_LYR_CTL.REFORM, Fld.DSP_LYR_CTL.ABORT, Fld.DSP_LYR_CTL.DEACTIVATE,
      Fld.DSP_LYR_CTL.ACTIVATE]
  | .DSP_LYR_STAT => [Fld.DSP_LYR_STAT.STATE, Fld.DSP_LYR_STAT.REJ, Fld.DSP_LYR_STAT.ABORT_CODE,
      Fld.DSP_LYR_STAT.EPOCH, Fld.DSP_LYR_STAT.REJ_CODE]
  | .DSP_LYR_TOK => [Fld.DSP_LYR_TOK.N]
  | .DSP_LYR_OPEN => [Fld.DSP_LYR_OPEN.N]
  | .DSP_EMAP => [Fld.DSP_EMAP.VALID, Fld.DSP_EMAP.LSLOT, Fld.DSP_EMAP.EP_ID, Fld.DSP_EMAP.CAP]
  | .DSP_ECNT => [Fld.DSP_ECNT.SENT, Fld.DSP_ECNT.QUEUED, Fld.DSP_ECNT.ROUND]
  | .DSP_ORIG => [Fld.DSP_ORIG.VALID, Fld.DSP_ORIG.ID]
  | .MEM_PART_CFG => [Fld.MEM_PART_CFG.SPILL_BLK, Fld.MEM_PART_CFG.LP_SPILL]
  | .MEM_LP_CFG => [Fld.MEM_LP_CFG.CFG_REJ, Fld.MEM_LP_CFG.LINK_ECC, Fld.MEM_LP_CFG.SPEED, Fld.MEM_LP_CFG.PRESENT]
  | .MEM_ECC_CFG => [Fld.MEM_ECC_CFG.REPAIR_CE, Fld.MEM_ECC_CFG.TILE_UE_MAX, Fld.MEM_ECC_CFG.LP_UE_MAX]
  | .MEM_SCRUB_CFG => [Fld.MEM_SCRUB_CFG.SRAM_SCRUB, Fld.MEM_SCRUB_CFG.LP_SCRUB]
  | .MEM_STAT => [Fld.MEM_STAT.SRAM_ZERO, Fld.MEM_STAT.LP_OK, Fld.MEM_STAT.LP_ZERO]
  | .MEM_SRAM_POOL => [Fld.MEM_SRAM_POOL.MIB]
  | .MEM_LP_POOL => [Fld.MEM_LP_POOL.MIB]
  | .MEM_DEEP_FREE => [Fld.MEM_DEEP_FREE.KIB]
  | .MEM_PPR_CTL => [Fld.MEM_PPR_CTL.START, Fld.MEM_PPR_CTL.REJ, Fld.MEM_PPR_CTL.DEV]
  | .MEM_ERR_ADDR => [Fld.MEM_ERR_ADDR.LO, Fld.MEM_ERR_ADDR.HI]
  | .MEM_ERR_INFO => [Fld.MEM_ERR_INFO.ERR_VALID, Fld.MEM_ERR_INFO.REGION, Fld.MEM_ERR_INFO.UNIT,
      Fld.MEM_ERR_INFO.SCRUB]
  | .MEM_SRAM_CE => [Fld.MEM_SRAM_CE.N]
  | .MEM_SRAM_UE => [Fld.MEM_SRAM_UE.N]
  | .MEM_LP_CE => [Fld.MEM_LP_CE.N]
  | .MEM_LP_UE => [Fld.MEM_LP_UE.N]
  | .MEM_LINK_CE => [Fld.MEM_LINK_CE.N]
  | .MEM_LINK_UE => [Fld.MEM_LINK_UE.N]
  | .MEM_REPAIR_CNT => [Fld.MEM_REPAIR_CNT.N]
  | .MEM_TILE_STAT => [Fld.MEM_TILE_STAT.FAIL, Fld.MEM_TILE_STAT.SPARES]
  | .MEM_TILE_CE => [Fld.MEM_TILE_CE.N]
  | .MEM_LP_DEV => [Fld.MEM_LP_DEV.INIT_OK, Fld.MEM_LP_DEV.FAIL, Fld.MEM_LP_DEV.DENSITY, Fld.MEM_LP_DEV.PPR_DONE,
      Fld.MEM_LP_DEV.PPR_FAIL]
  | .MEM_LP_DEV_ROW => [Fld.MEM_LP_DEV_ROW.CH, Fld.MEM_LP_DEV_ROW.BANK, Fld.MEM_LP_DEV_ROW.ROW]
  | .MEM_PPR_LIST => [Fld.MEM_PPR_LIST.VALID, Fld.MEM_PPR_LIST.DENSITY, Fld.MEM_PPR_LIST.CH, Fld.MEM_PPR_LIST.RANK,
      Fld.MEM_PPR_LIST.BANK, Fld.MEM_PPR_LIST.ROW]
  | .GWM_CFG => [Fld.GWM_CFG.COPY_MAX, Fld.GWM_CFG.COPY_PIECES]
  | .GWM_FWD_USED => [Fld.GWM_FWD_USED.N]
  | .GWM_COPY_ACT => [Fld.GWM_COPY_ACT.N]
  | .GWM_UNSUP_CNT => [Fld.GWM_UNSUP_CNT.N]
  | .GWM_UNMAP_CNT => [Fld.GWM_UNMAP_CNT.N]
  | .GWM_DENY_CNT => [Fld.GWM_DENY_CNT.N]
  | .GWM_MEMERR_CNT => [Fld.GWM_MEMERR_CNT.N]
  | .GWM_FWD_CNT => [Fld.GWM_FWD_CNT.N]
  | .GWM_FWD_TMO => [Fld.GWM_FWD_TMO.N]
  | .GWM_OPS_CNT => [Fld.GWM_OPS_CNT.N]
  | .GWM_SAT_CNT => [Fld.GWM_SAT_CNT.N]
  | .GWM_WIN => [Fld.GWM_WIN.BASE_LO, Fld.GWM_WIN.BASE_HI, Fld.GWM_WIN.LIMIT_LO, Fld.GWM_WIN.LIMIT_HI,
      Fld.GWM_WIN.OFFSET_LO, Fld.GWM_WIN.OFFSET_HI, Fld.GWM_WIN.VALID, Fld.GWM_WIN.KIND, Fld.GWM_WIN.PR,
      Fld.GWM_WIN.PW, Fld.GWM_WIN.PA, Fld.GWM_WIN.PX, Fld.GWM_WIN.TGT_ID]
  | .HIF_LINK_CFG => [Fld.HIF_LINK_CFG.EN, Fld.HIF_LINK_CFG.RETRAIN, Fld.HIF_LINK_CFG.RETRY_MAX]
  | .HIF_LINK_STAT => [Fld.HIF_LINK_STAT.STAGE, Fld.HIF_LINK_STAT.WIDTH, Fld.HIF_LINK_STAT.OTHER_UP,
      Fld.HIF_LINK_STAT.VIA_HAL, Fld.HIF_LINK_STAT.RTT]
  | .HIF_CTL => [Fld.HIF_CTL.EN]
  | .HIF_FUNC_MODE => [Fld.HIF_FUNC_MODE.MODE]
  | .HIF_EVT_CFG => [Fld.HIF_EVT_CFG.MASK, Fld.HIF_EVT_CFG.EVT_HOLD]
  | .HIF_WDT_CFG => [Fld.HIF_WDT_CFG.HOST_WDT, Fld.HIF_WDT_CFG.STAT_INT]
  | .HIF_DB_ADDR => [Fld.HIF_DB_ADDR.LO, Fld.HIF_DB_ADDR.HI]
  | .HIF_CI_ADDR => [Fld.HIF_CI_ADDR.LO, Fld.HIF_CI_ADDR.HI]
  | .HIF_STAT_ADDR => [Fld.HIF_STAT_ADDR.LO, Fld.HIF_STAT_ADDR.HI]
  | .HIF_RING_BASE => [Fld.HIF_RING_BASE.LO, Fld.HIF_RING_BASE.HI]
  | .HIF_RING_CFG => [Fld.HIF_RING_CFG.SIZE, Fld.HIF_RING_CFG.COAL_CNT, Fld.HIF_RING_CFG.COAL_TIME]
  | .HIF_RING_VEC => [Fld.HIF_RING_VEC.VEC]
  | .HIF_EVT_LOST => [Fld.HIF_EVT_LOST.N]
  | .HIF_HOST_FAULT => [Fld.HIF_HOST_FAULT.N]
  | .HIF_GL_REPLAY => [Fld.HIF_GL_REPLAY.N]
  | .HIF_GL_CRC => [Fld.HIF_GL_CRC.N]
  | .HIF_CMD_CNT => [Fld.HIF_CMD_CNT.N]
  | .HIF_INTR_CNT => [Fld.HIF_INTR_CNT.N]
  | .HIF_RING_IDX => [Fld.HIF_RING_IDX.N]
  | .CAN_STAT => [Fld.CAN_STAT.ROLE, Fld.CAN_STAT.SPLIT, Fld.CAN_STAT.OTHER_OK, Fld.CAN_STAT.MASTER,
      Fld.CAN_STAT.SLOT, Fld.CAN_STAT.CASC_UP, Fld.CAN_STAT.ETH_UP, Fld.CAN_STAT.PTP_LOCK, Fld.CAN_STAT.HOST,
      Fld.CAN_STAT.MASTER_SLOT]
  | .CAN_CTL => [Fld.CAN_CTL.HANDOVER]
  | .CAN_HB_CFG => [Fld.CAN_HB_CFG.HB_MISS, Fld.CAN_HB_CFG.WDT_MS]
  | .CAN_BOOT_STAT => [Fld.CAN_BOOT_STAT.OK, Fld.CAN_BOOT_STAT.FALLBACK, Fld.CAN_BOOT_STAT.SLOT,
      Fld.CAN_BOOT_STAT.FAIL, Fld.CAN_BOOT_STAT.FW_SVN]
  | .CAN_CAP_HOST => [Fld.CAN_CAP_HOST.CAP]
  | .CAN_CAP_RM => [Fld.CAN_CAP_RM.CAP]
  | .CAN_CAP_TRAY => [Fld.CAN_CAP_TRAY.CAP]
  | .CAN_CAP_THERM => [Fld.CAN_CAP_THERM.CAP]
  | .CAN_PWR_STAT => [Fld.CAN_PWR_STAT.POWER, Fld.CAN_PWR_STAT.LEVEL, Fld.CAN_PWR_STAT.UNMEET,
      Fld.CAN_PWR_STAT.FLOOR]
  | .CAN_PWR_STATE => [Fld.CAN_PWR_STATE.STATE, Fld.CAN_PWR_STATE.RM_LIMIT, Fld.CAN_PWR_STATE.HOST_REQ,
      Fld.CAN_PWR_STATE.REJ, Fld.CAN_PWR_STATE.EPO, Fld.CAN_PWR_STATE.TRIP]
  | .CAN_THR_CFG => [Fld.CAN_THR_CFG.SHARE, Fld.CAN_THR_CFG.HYST]
  | .CAN_LEAK => [Fld.CAN_LEAK.LEAK_OFF_S, Fld.CAN_LEAK.FAULT_AS_WET, Fld.CAN_LEAK.STATE]
  | .CAN_FLOW_CFG => [Fld.CAN_FLOW_CFG.COOL_K, Fld.CAN_FLOW_CFG.FLOW_MIN]
  | .CAN_HEALTH => [Fld.CAN_HEALTH.W]
  | .CAN_MBOX_CTL => [Fld.CAN_MBOX_CTL.SEND, Fld.CAN_MBOX_CTL.DONE, Fld.CAN_MBOX_CTL.BUSY, Fld.CAN_MBOX_CTL.LEN]
  | .CAN_TAKEOVER_CNT => [Fld.CAN_TAKEOVER_CNT.N]
  | .CAN_SIG_FAIL => [Fld.CAN_SIG_FAIL.N]
  | .CAN_SENSOR => [Fld.CAN_SENSOR.FITTED, Fld.CAN_SENSOR.FAULT, Fld.CAN_SENSOR.WARN, Fld.CAN_SENSOR.CRIT,
      Fld.CAN_SENSOR.VALUE]
  | .CAN_MBOX_TX => [Fld.CAN_MBOX_TX.W]
  | .CAN_MBOX_RX => [Fld.CAN_MBOX_RX.W]
  | .EPC_COMMIT_CTL => [Fld.EPC_COMMIT_CTL.DISCARD, Fld.EPC_COMMIT_CTL.COMMIT]
  | .EPC_COMMIT_STAT => [Fld.EPC_COMMIT_STAT.BUSY, Fld.EPC_COMMIT_STAT.DONE, Fld.EPC_COMMIT_STAT.FAIL,
      Fld.EPC_COMMIT_STAT.REJ, Fld.EPC_COMMIT_STAT.SPLIT_ONLY, Fld.EPC_COMMIT_STAT.FAIL_BLOCK]
  | .EPC_COMMIT_SEQ => [Fld.EPC_COMMIT_SEQ.N]
  | .EPC_FAIL_ADDR => [Fld.EPC_FAIL_ADDR.ADDR]
  | .EPC_DIRTY => [Fld.EPC_DIRTY.N]
  | .EPC_S_IGN_ADDR => [Fld.EPC_S_IGN_ADDR.VALID, Fld.EPC_S_IGN_ADDR.ADDR]
  | .EPC_UNIT_CTL => [Fld.EPC_UNIT_CTL.TEST, Fld.EPC_UNIT_CTL.RETIRE, Fld.EPC_UNIT_CTL.TYPE, Fld.EPC_UNIT_CTL.INDEX]
  | .EPC_UNIT_STAT => [Fld.EPC_UNIT_STAT.BUSY, Fld.EPC_UNIT_STAT.PASS, Fld.EPC_UNIT_STAT.REJ]
  | .EPC_GATE_STAT => [Fld.EPC_GATE_STAT.COL_PWR, Fld.EPC_GATE_STAT.DSP_PWR, Fld.EPC_GATE_STAT.MEM_PWR,
      Fld.EPC_GATE_STAT.PG_PWR]
  | .EPC_FREEZE_CTL => [Fld.EPC_FREEZE_CTL.FREEZE, Fld.EPC_FREEZE_CTL.CANTON_RUN, Fld.EPC_FREEZE_CTL.FWD_CASC,
      Fld.EPC_FREEZE_CTL.ON_FATAL]
  | .EPC_FREEZE_STAT => [Fld.EPC_FREEZE_STAT.FROZEN, Fld.EPC_FREEZE_STAT.CANTON_RAN, Fld.EPC_FREEZE_STAT.SOURCE]
  | .EPC_FREEZE_TIME => [Fld.EPC_FREEZE_TIME.LO, Fld.EPC_FREEZE_TIME.HI]
  | .EPC_ERR_CFG => [Fld.EPC_ERR_CFG.ESC_U, Fld.EPC_ERR_CFG.LOG_HOLD]
  | .EPC_LOG_WP => [Fld.EPC_LOG_WP.N]
  | .EPC_LOG_RP => [Fld.EPC_LOG_RP.N]
  | .EPC_S_IGN_CNT => [Fld.EPC_S_IGN_CNT.N]
  | .EPC_LOG_OVF => [Fld.EPC_LOG_OVF.N]
  | .EPC_SUPPR_CNT => [Fld.EPC_SUPPR_CNT.N]
  | .EPC_FIRST => [Fld.EPC_FIRST.VALID, Fld.EPC_FIRST.REST_HI, Fld.EPC_FIRST.REST_LO]
  | .EPC_LOG => []
  | .TST_FT_CFG => [Fld.TST_FT_CFG.SRC, Fld.TST_FT_CFG.TIME_PORT, Fld.TST_FT_CFG.TIME_PORT2,
      Fld.TST_FT_CFG.PPS_OUT_EN, Fld.TST_FT_CFG.STEP_THR, Fld.TST_FT_CFG.SYNC_INT]
  | .TST_FT_STAT => [Fld.TST_FT_STAT.STATE, Fld.TST_FT_STAT.STRATUM, Fld.TST_FT_STAT.USING, Fld.TST_FT_STAT.PPS_SEEN]
  | .TST_FT => [Fld.TST_FT.LO, Fld.TST_FT.HI]
  | .TST_FT_SET => [Fld.TST_FT_SET.LO, Fld.TST_FT_SET.HI]
  | .TST_FT_OFFSET => [Fld.TST_FT_OFFSET.N]
  | .TST_FT_DELAY => [Fld.TST_FT_DELAY.N]
  | .TST_FT_FREQ => [Fld.TST_FT_FREQ.N]
  | .TST_PCHK_EN => [Fld.TST_PCHK_EN.EN]
  | .TST_CHK_NOFLOW => [Fld.TST_CHK_NOFLOW.N]
  | .TST_GEP_DISC => [Fld.TST_GEP_DISC.N]
  | .TST_PCHK_CNT => [Fld.TST_PCHK_CNT.N]
  | .TST_PORT_TIME => [Fld.TST_PORT_TIME.ROLE, Fld.TST_PORT_TIME.ASYM]
  | .TST_PORT_TSTAT => [Fld.TST_PORT_TSTAT.FAR_STRATUM, Fld.TST_PORT_TSTAT.FAR_STATE, Fld.TST_PORT_TSTAT.SYNC_OK]
  | .TST_PORT_DELAY => [Fld.TST_PORT_DELAY.N]
  | .TST_MATCH => [Fld.TST_MATCH.VALID, Fld.TST_MATCH.TAP, Fld.TST_MATCH.CAP, Fld.TST_MATCH.INJ_EN,
      Fld.TST_MATCH.INJ, Fld.TST_MATCH.SAMPLE, Fld.TST_MATCH.PORT]
  | .TST_MATCH_CNT => [Fld.TST_MATCH_CNT.N]
  | .TST_INJ => [Fld.TST_INJ.KIND, Fld.TST_INJ.LIMIT, Fld.TST_INJ.EVERY, Fld.TST_INJ.DELAY, Fld.TST_INJ.LEFT]
  | .TST_INJ_CNT => [Fld.TST_INJ_CNT.N]
  | .TST_PG_CFG => [Fld.TST_PG_CFG.GOLDEN]
  | .TST_GEN_CTL => [Fld.TST_GEN_CTL.STOP, Fld.TST_GEN_CTL.START]
  | .TST_GEN_STAT => [Fld.TST_GEN_STAT.REJ, Fld.TST_GEN_STAT.RUN]
  | .TST_CHK_CLR => [Fld.TST_CHK_CLR.CLR]
  | .TST_GEN_SENT => [Fld.TST_GEN_SENT.N]
  | .TST_FEC_INJ => [Fld.TST_FEC_INJ.EN, Fld.TST_FEC_INJ.SYMS, Fld.TST_FEC_INJ.OFF, Fld.TST_FEC_INJ.EVERY,
      Fld.TST_FEC_INJ.LEFT]
  | .TST_FEC_INJ_CNT => [Fld.TST_FEC_INJ_CNT.N]
  | .TST_GEN_STR => [Fld.TST_GEN_STR.PORT, Fld.TST_GEN_STR.MODE, Fld.TST_GEN_STR.LEN_MODE, Fld.TST_GEN_STR.PATTERN,
      Fld.TST_GEN_STR.CONST, Fld.TST_GEN_STR.LEN_MAX, Fld.TST_GEN_STR.LEN_MIN, Fld.TST_GEN_STR.RATE,
      Fld.TST_GEN_STR.PEN_EVERY, Fld.TST_GEN_STR.COUNT, Fld.TST_GEN_STR.HDR0, Fld.TST_GEN_STR.HDR1,
      Fld.TST_GEN_STR.HDR2, Fld.TST_GEN_STR.HDR3, Fld.TST_GEN_STR.PATHX0, Fld.TST_GEN_STR.PATHX1,
      Fld.TST_GEN_STR.PATHX2]
  | .TST_GEP_ID => [Fld.TST_GEP_ID.VALID, Fld.TST_GEP_ID.ID]
  | .TST_PCHK_FIRST => [Fld.TST_PCHK_FIRST.VALID, Fld.TST_PCHK_FIRST.RULE]
  | .TST_CHK_FLOW => [Fld.TST_CHK_FLOW.VALID, Fld.TST_CHK_FLOW.SRC, Fld.TST_CHK_FLOW.STREAM_ID,
      Fld.TST_CHK_FLOW.RX, Fld.TST_CHK_FLOW.LOST, Fld.TST_CHK_FLOW.LATE, Fld.TST_CHK_FLOW.PAT_ERR,
      Fld.TST_CHK_FLOW.BIT_ERR, Fld.TST_CHK_FLOW.LAT_MIN, Fld.TST_CHK_FLOW.LAT_MAX, Fld.TST_CHK_FLOW.LAT_SUM_LO,
      Fld.TST_CHK_FLOW.LAT_SUM_HI, Fld.TST_CHK_FLOW.EXP]

/-- Access and class of the words of a register that no named field covers, where its table gives the whole word one
meaning (an Ensign record, a log entry, the port bits of a multicast group). -/
def Reg.fill : Reg → Option (Acc × Cls)
  | .LNE_FAR_ENSIGN => some (.ro, .none)
  | .RTE_MCG => some (.rw, .l)
  | .RTE_CMAP => some (.ro, .none)
  | .EPC_FIRST => some (.ro, .none)
  | .EPC_LOG => some (.ro, .none)
  | .TST_MATCH => some (.rw, .l)
  | .TST_PCHK_FIRST => some (.ro, .none)
  | _ => none

/-- Every register, in the order of the blocks of Table 0.6, block by block. -/
def regsOfBlock0 : List Reg :=
  [.TOP_CHIP_ID, .TOP_STRAP, .TOP_CLK_STAT, .TOP_RST_CTL, .TOP_UNIT_STAT, .TOP_PG_STAT]

def regsOfBlock1 : List Reg :=
  [.LNE_GLB_CFG, .LNE_FABRIC_ID, .LNE_QDISC_CNT, .LNE_BADBLK, .LNE_LANE_CFG, .LNE_LANE_STAT, .LNE_FEC_CORR,
   .LNE_FEC_UNCORR, .LNE_FEC_SYMERR, .LNE_PRBS_ERR, .LNE_TX_COEF, .LNE_EYE_CTL, .LNE_EYE_STAT, .LNE_PORT_CFG,
   .LNE_PORT_CTL, .LNE_PORT_STAT, .LNE_WIRE_CTL, .LNE_WIRE_ID, .LNE_WIRE_SER, .LNE_WIRE_FAB, .LNE_FAR_ENSIGN]

def regsOfBlock2 : List Reg :=
  [.LFP_GLB_CFG, .LFP_CE_CFG, .LFP_WIN_CFG, .LFP_TMO_CFG, .LFP_CC_CFG, .LFP_CRED_ESC, .LFP_CRED_ADV0,
   .LFP_CRED_ADV1, .LFP_CRED_ADV2, .LFP_CRED_ADV3, .LFP_CRED_ADV4, .LFP_HCRC_DISC, .LFP_HDR_DISC, .LFP_CRC_DISC,
   .LFP_STOMP_TX, .LFP_STOMP_RX, .LFP_OVERSIZE_DISC, .LFP_WH_TRUNC, .LFP_AGE_DISC, .LFP_OOW_DISC, .LFP_LATE_DISC,
   .LFP_HOLE_CNT, .LFP_PEN_FAIL, .LFP_OP_TMO, .LFP_STALE_CPL, .LFP_CRED_RECON, .LFP_HOP_DISC, .LFP_CRED_VIOL,
   .LFP_PORT_CFG, .LFP_PORT_STAT, .LFP_PORT_CREDIT]

def regsOfBlock3 : List Reg :=
  [.RTE_GLB_CFG, .RTE_HASH_SEED, .RTE_DRAIN_CTL, .RTE_DRAIN_STAT, .RTE_DRAIN_OLD, .RTE_CMAP_CFG, .RTE_CMAP_SEQ,
   .RTE_ALIAS, .RTE_MISS_DISC, .RTE_PATH_DISC, .RTE_ESC_DISC, .RTE_INT_DISC, .RTE_MC_DISC, .RTE_ESC_MOVE,
   .RTE_NOPORT_DISC, .RTE_CMAP_LOST, .RTE_PORT_CFG, .RTE_MARK_RX, .RTE_ENTRY, .RTE_SET, .RTE_MCG, .RTE_CMAP]

def regsOfBlock4 : List Reg :=
  [.SWC_BUF_CFG, .SWC_ALPHA, .SWC_EGR_CFG, .SWC_SCHED_LO, .SWC_SCHED_HI, .SWC_HAL_CFG, .SWC_MIR_CFG, .SWC_BUF_STAT,
   .SWC_POOL_SIZE, .SWC_POOL_USED, .SWC_HELD, .SWC_SPINE_STAT, .SWC_HAL_STAT, .SWC_FLUSH_DISC, .SWC_OVF_DISC,
   .SWC_RESEQ_LOSS, .SWC_SPINE_ERR, .SWC_HAL_REPLAY, .SWC_HAL_CRC, .SWC_MIR_DROP, .SWC_PORT_CTL, .SWC_PORT_STAT,
   .SWC_PORT_FLUSH, .SWC_QDEPTH]

def regsOfBlock5 : List Reg :=
  [.COL_GLB_CFG, .COL_SLOT_FREE, .COL_REC_FREE, .COL_SPILL_FREE, .COL_ACT_CNT, .COL_DIAG_CTL, .COL_CRED_DISC,
   .COL_STALE_DISC, .COL_ABORT_DISC, .COL_GRP_DISC, .COL_SAT_CNT, .COL_CACHE_HIT, .COL_CACHE_MISS, .COL_FWD_CNT,
   .COL_DIAG_MAP, .COL_GRP, .COL_GRP_CTL, .COL_GRP_STAT, .COL_GRP_BASE, .COL_GRP_LIMIT, .COL_ID]

def regsOfBlock6 : List Reg :=
  [.DSP_GLB_CFG, .DSP_REC_FREE, .DSP_OVF_FREE, .DSP_ACT_CNT, .DSP_STORE_USED, .DSP_LYR_DISC, .DSP_REFUSE_CNT,
   .DSP_STALE_DISC, .DSP_DROP_CNT, .DSP_QUEUE_CNT, .DSP_OVF_FULL, .DSP_HOST_CNT, .DSP_OUT_DISC, .DSP_ABORT_DISC,
   .DSP_SAT_CNT, .DSP_LYR, .DSP_LYR_CTL, .DSP_LYR_STAT, .DSP_LYR_TOK, .DSP_LYR_OPEN, .DSP_EMAP, .DSP_ECNT, .DSP_ORIG]

def regsOfBlock7 : List Reg :=
  [.MEM_PART_CFG, .MEM_LP_CFG, .MEM_ECC_CFG, .MEM_SCRUB_CFG, .MEM_STAT, .MEM_SRAM_POOL, .MEM_LP_POOL,
   .MEM_DEEP_FREE, .MEM_PPR_CTL, .MEM_ERR_ADDR, .MEM_ERR_INFO, .MEM_SRAM_CE, .MEM_SRAM_UE, .MEM_LP_CE, .MEM_LP_UE,
   .MEM_LINK_CE, .MEM_LINK_UE, .MEM_REPAIR_CNT, .MEM_TILE_STAT, .MEM_TILE_CE, .MEM_LP_DEV, .MEM_LP_DEV_ROW,
   .MEM_PPR_LIST]

def regsOfBlock8 : List Reg :=
  [.GWM_CFG, .GWM_FWD_USED, .GWM_COPY_ACT, .GWM_UNSUP_CNT, .GWM_UNMAP_CNT, .GWM_DENY_CNT, .GWM_MEMERR_CNT,
   .GWM_FWD_CNT, .GWM_FWD_TMO, .GWM_OPS_CNT, .GWM_SAT_CNT, .GWM_WIN]

def regsOfBlock9 : List Reg :=
  [.HIF_LINK_CFG, .HIF_LINK_STAT, .HIF_CTL, .HIF_FUNC_MODE, .HIF_EVT_CFG, .HIF_WDT_CFG, .HIF_DB_ADDR, .HIF_CI_ADDR,
   .HIF_STAT_ADDR, .HIF_RING_BASE, .HIF_RING_CFG, .HIF_RING_VEC, .HIF_EVT_LOST, .HIF_HOST_FAULT, .HIF_GL_REPLAY,
   .HIF_GL_CRC, .HIF_CMD_CNT, .HIF_INTR_CNT, .HIF_RING_IDX]

def regsOfBlock10 : List Reg :=
  [.CAN_STAT, .CAN_CTL, .CAN_HB_CFG, .CAN_BOOT_STAT, .CAN_CAP_HOST, .CAN_CAP_RM, .CAN_CAP_TRAY, .CAN_CAP_THERM,
   .CAN_PWR_STAT, .CAN_PWR_STATE, .CAN_THR_CFG, .CAN_LEAK, .CAN_FLOW_CFG, .CAN_HEALTH, .CAN_MBOX_CTL,
   .CAN_TAKEOVER_CNT, .CAN_SIG_FAIL, .CAN_SENSOR, .CAN_MBOX_TX, .CAN_MBOX_RX]

def regsOfBlock11 : List Reg :=
  [.EPC_COMMIT_CTL, .EPC_COMMIT_STAT, .EPC_COMMIT_SEQ, .EPC_FAIL_ADDR, .EPC_DIRTY, .EPC_S_IGN_ADDR, .EPC_UNIT_CTL,
   .EPC_UNIT_STAT, .EPC_GATE_STAT, .EPC_FREEZE_CTL, .EPC_FREEZE_STAT, .EPC_FREEZE_TIME, .EPC_ERR_CFG, .EPC_LOG_WP,
   .EPC_LOG_RP, .EPC_S_IGN_CNT, .EPC_LOG_OVF, .EPC_SUPPR_CNT, .EPC_FIRST, .EPC_LOG]

def regsOfBlock12 : List Reg :=
  [.TST_FT_CFG, .TST_FT_STAT, .TST_FT, .TST_FT_SET, .TST_FT_OFFSET, .TST_FT_DELAY, .TST_FT_FREQ, .TST_PCHK_EN,
   .TST_CHK_NOFLOW, .TST_GEP_DISC, .TST_PCHK_CNT, .TST_PORT_TIME, .TST_PORT_TSTAT, .TST_PORT_DELAY, .TST_MATCH,
   .TST_MATCH_CNT, .TST_INJ, .TST_INJ_CNT, .TST_PG_CFG, .TST_GEN_CTL, .TST_GEN_STAT, .TST_CHK_CLR, .TST_GEN_SENT,
   .TST_FEC_INJ, .TST_FEC_INJ_CNT, .TST_GEN_STR, .TST_GEP_ID, .TST_PCHK_FIRST, .TST_CHK_FLOW]

/-- The registers of the block at position `b` of Table 0.6 (4 MiB each). -/
def regsOfBlock : Nat → List Reg
  | 0 => regsOfBlock0
  | 1 => regsOfBlock1
  | 2 => regsOfBlock2
  | 3 => regsOfBlock3
  | 4 => regsOfBlock4
  | 5 => regsOfBlock5
  | 6 => regsOfBlock6
  | 7 => regsOfBlock7
  | 8 => regsOfBlock8
  | 9 => regsOfBlock9
  | 10 => regsOfBlock10
  | 11 => regsOfBlock11
  | 12 => regsOfBlock12
  | _ => []

end Sys2Proof.Machine
end

