-- ==== Sys2Proof/Machine/Regs.lean ====
section
/-! DEFINITION. A plane's registers as a sparse file of words keyed by their offset in the plane's window, read and
written field by field (R6 to R11, R341). -/

namespace Sys2Proof.Machine

/-- The words of a plane's window that do not hold their reset value. -/
abbrev RegFile := SMap Word

/-- The offset of word `w` of register `r` at index `i`. -/
def Reg.off (r : Reg) (i w : Nat) : Nat := r.info.base + r.info.stride * i + 4 * w

/-- Field `f` of a word. -/
def Fld.of (f : Fld) (w : Word) : Nat := bits f.hi f.lo w.toNat

/-- A word with field `f` replaced. -/
def Fld.put (f : Fld) (v : Nat) (w : Word) : Word := BitVec.ofNat 32 (setBits f.hi f.lo w.toNat v)

/-- The width of a field. -/
def Fld.width (f : Fld) : Nat := f.hi + 1 - f.lo

/-- Does a field lie in word `w` of its register. A register of one word repeated (words of one meaning) has fields of
word 0 only. -/
def Fld.inWord (f : Fld) (w : Nat) : Bool := f.word == w

/-- The reset value of word `w` of a register: its fields' reset values together (R10). -/
def Reg.resetWord (r : Reg) (w : Nat) : Word :=
  (r.fields.filter (Fld.inWord · w)).foldl (fun a f => f.put f.reset a) 0

/-- Word `w` of register `r` at index `i`. -/
def wordAt (r : Reg) (i w : Nat) (m : RegFile) : Word := mget (r.resetWord w) (r.off i w) m

/-- A register file after a word is replaced; an index or a word that the register does not have is not there. -/
def putWord (r : Reg) (i w : Nat) (v : Word) (m : RegFile) : RegFile :=
  let n := r.info
  if Nat.blt i n.count && Nat.blt (i % n.period) n.valid && Nat.blt w n.words then mset (r.resetWord w) (r.off i w) v m else m

/-- The indices, rising, at which a register file lists word `w` of register `r`: at any other that word is at reset. -/
def listedAt (r : Reg) (w : Nat) (m : RegFile) : List Nat :=
  let n := r.info
  m.filterMap (fun e =>
    if n.base ≤ e.1 ∧ e.1 < n.base + n.stride * n.count ∧ (e.1 - n.base) % n.stride = 4 * w then
      some ((e.1 - n.base) / n.stride)
    else none)

/-- A field of a register file. -/
def Fld.get (f : Fld) (i : Nat) (m : RegFile) : Nat := f.of (wordAt f.reg i f.word m)

/-- A register file after a field is replaced. -/
def Fld.set (f : Fld) (i v : Nat) (m : RegFile) : RegFile :=
  putWord f.reg i f.word (f.put v (wordAt f.reg i f.word m)) m

/-- Where an offset of a plane's window lands: a register, an index and a word (R8: an offset that no register
occupies lands nowhere). -/
def Reg.at? (r : Reg) (off : Nat) : Option (Reg × Nat × Nat) :=
  let n := r.info
  if off < n.base then none else
    let d := off - n.base
    let i := d / n.stride
    let e := d % n.stride
    if i < n.count ∧ i % n.period < n.valid ∧ e < 4 * n.words ∧ e % 4 = 0 then some (r, i, e / 4) else none

/-- The register at an offset of a plane's window. -/
def regAt (off : Nat) : Option (Reg × Nat × Nat) := (regsOfBlock (off / 0x400000)).findSome? (·.at? off)

/-- The fields of word `w`. -/
def Reg.fieldsOf (r : Reg) (w : Nat) : List Fld := r.fields.filter (Fld.inWord · w)

/-- The bits of word `w` of register `r` that are of class G (R341): the fields' bits, or the whole word where the
register's words have one meaning. -/
def Reg.gMask (r : Reg) (w : Nat) : Nat :=
  match r.fieldsOf w, r.fill with
  | [], some (_, .g) => 2 ^ 32 - 1
  | fs, _ => (fs.filter (fun f => f.cls == .g)).foldl (fun a f => setBits f.hi f.lo a (2 ^ f.width - 1)) 0

end Sys2Proof.Machine
end

