-- ==== Sys2Proof/Machine/StCan.lean ====
section
/-! DEFINITION. What each die's Canton holds, and what the package holds for management: OTP, boot flashes, the tray,
the inventory, power and protection (R292 to R335, R401 to R411). -/

namespace Sys2Proof.Machine

/-- Roles of a Canton (Table 10.1), numbered as CAN_STAT.ROLE is. -/
inductive Role where
  | booting | standby | active | handing
  deriving DecidableEq, Repr

/-- One die's Canton (R294 to R304). Its ROLE is also in CAN_STAT. -/
structure CanSt where
  role      : Role := .booting
  /-- held in reset by the other Canton's fence (R294, R298) -/
  fenced    : Bool := false
  /-- in the boot ROM after both slots failed (R304) -/
  inRom     : Bool := false
  /-- boots that failed in a row (R298) -/
  bootFails : Nat := 0
  hbSeq     : BitVec 16 := 0
  /-- last journal record sent or applied, and the other end's JRN_SEQ as last heard (R296) -/
  jrn       : BitVec 32 := 0
  jrnHeard  : BitVec 32 := 0
  /-- the other Canton's ROLE as last heard; booting where it has not been heard -/
  peerRole  : Role := .booting
  /-- the latest health report, and the other Canton's (Table 10.2) -/
  health    : Bytes := []
  peerRep   : Bytes := []
  healthSeq : BitVec 16 := 0
  bootTick  : Nat := 0
  /-- march test: segment reached (256 of 4 KiB), whether this pass is clean so far, passes done (R297) -/
  marchSeg  : Nat := 0
  marchGood : Bool := true
  marches   : Nat := 0
  sramOk    : Bool := false
  katOk     : Bool := false
  /-- outcome of the last three shadow runs, newest first, and shadow disagreements since boot -/
  shadows   : List Bool := []
  shadowAll : Nat := 0
  suspect   : Bool := false
  /-- an image has passed and its body runs; FW_MEAS, KEY_SLOT and TYPE 0x02 microcode loaded (R304, R360) -/
  imgRuns   : Bool := false
  fwMeas    : Bytes := []
  keySlot   : Nat := 0
  bootSlot  : Nat := 0
  microcode : BitVec 32 := 0
  /-- SVN of that microcode -/
  mcSvn     : Nat := 0
  /-- image bytes accepted through the mailbox while in the ROM (R313) -/
  romImage  : SMap Byte := []
  /-- BOOT_FALLBACK is to be raised once a Canton is active (R304) -/
  fallbackDue : Option Nat := none
  /-- the journal's copy of the active Canton's state: item and key to bytes (R296) -/
  journal   : SMap Bytes := []
  /-- the plane's throttle level of its own, and since when its average has lain below the hysteresis (R329) -/
  level     : Nat := 0
  belowAt   : Option Nat := none
  /-- a junction, chiplet or tile reading holds level 7 (R324); level 7 is held because a cap is not met (R330) -/
  hot       : Bool := false
  held7     : Bool := false
  /-- the die's power samples of the last 100 ms, newest first: tick and W -/
  pw        : List (Nat × Nat) := []
  deriving DecidableEq, Repr

/-- What waits to be sent: an event or a notification alone (`evt`: it is raised in the rings too), or something else that
goes to the rack manager or the cascade port. -/
inductive HeldWhat where
  | msg (evt : Bool) (code : BitVec 16) (plane : Nat) (unit : Word) (args : List Word)
  | out (o : Out)
  deriving DecidableEq, Repr

/-- Something not yet sent because the standby has not reported the journal record that holds it (R296). -/
structure HeldMsg where
  jrn  : BitVec 32
  what : HeldWhat
  deriving DecidableEq, Repr

/-- FW_ACTIVATE under way (R311): its request, the slots preferred before it in Hoist's and Fly's directory, and the
standby's boot failures when it began. -/
structure Activation where
  req   : MgmtReq
  prefH : Nat
  prefF : Nat
  fails : Nat
  deriving DecidableEq, Repr

/-- A tray slot as heard in ANNOUNCE frames (R315). -/
structure SlotHeard where
  serial   : BitVec 64
  eligible : Bool
  master   : Bool
  at_      : Nat
  deriving DecidableEq, Repr

/-- A leak loop (R322). -/
structure Loop where
  /-- measurements agreeing on `cand`, and how many -/
  cand   : Nat := 3
  agree  : Nat := 0
  wetAt  : Option Nat := none
  deriving DecidableEq, Repr

/-- Inventory kept by the active Canton (Table 10.9). -/
structure Inventory where
  hours    : Nat := 0
  minutes  : Nat := 0
  laneMin  : SMap Nat := []
  cycles   : Nat := 0
  /-- the hottest junction has been below 45 °C since the last cycle -/
  cool     : Bool := false
  epos     : Nat := 0
  trips    : Nat := 0
  takeovers : Nat := 0
  /-- tile, sub-array, column, spare of each column repair -/
  repairs  : List (Nat × Nat × Nat × Nat) := []
  /-- device and row with uncorrectable errors -/
  lpRows   : List (Nat × Nat) := []
  /-- image header VERSION and SVN per slot -/
  slots    : SMap (Nat × Nat) := []
  /-- manufacturer, revision and density of LPDDR5X devices, serial and part of laser modules, as their registers gave
  them -/
  lpInfo   : SMap Nat := []
  lasers   : SMap Nat := []
  deriving DecidableEq, Repr

/-- A row of the neighbour report (R333): state class, REASON, far serial, port ID, endpoint ID. -/
structure Neigh where
  cls    : Nat
  reason : Nat
  serial : BitVec 64
  port   : BitVec 16
  ep     : BitVec 16
  deriving DecidableEq, Repr

/-- A sensor, or a pair of them (R320, R321): polls missed in a row and the last reading of each. -/
structure SensSt where
  missA : Nat := 0
  missB : Nat := 0
  /-- the last reading of each lay outside its physical range -/
  outA  : Bool := false
  outB  : Bool := false
  a     : Option (BitVec 24) := none
  b     : Option (BitVec 24) := none
  deriving DecidableEq, Repr

/-- A commit that runs: the plane that decides it, whether it takes both planes, its instant once that is named, and the
core clock in which it was started. -/
structure Commit where
  plane : Plane
  both  : Bool
  at_   : Option Nat
  tick  : Nat
  deriving DecidableEq, Repr

/-- The package: management, power and protection. -/
structure Pkg where
  -- OTP (R305, R309)
  svnFw      : Nat := 0
  svnMc      : Nat := 0
  revoked    : BitVec 4 := 0
  ownerFp    : Option Bytes := none
  -- boot flashes of Hoist and Fly (Table 10.4): bytes the device has written, and what a ROM last read
  flash0     : SMap (Option Byte) := []
  flash1     : SMap (Option Byte) := []
  view0      : Option FlashView := none
  view1      : Option FlashView := none
  /-- the device is a PT1152-O (Table 0.2) -/
  optical    : Bool := false
  -- the active Canton (R294)
  active     : Option Plane := some .hoist
  split      : Bool := false
  /-- a handover is under way, and its cause (R301, R311) -/
  handing    : Bool := false
  activating : Option Activation := none
  /-- addresses of the management Ethernet port (R312) -/
  ip6        : Option (BitVec 128) := none
  ip4        : Option (BitVec 32) := none
  signedSeq  : BitVec 32 := 0
  notifySeq  : BitVec 32 := 0
  unacked    : List (BitVec 32 × BitVec 16 × Nat × Word × List Word) := []
  held       : List HeldMsg := []
  cfgMeas    : Bytes := []
  cfgMeasSeq : BitVec 32 := 0
  cfgStale   : Bool := true
  /-- a commit acted on one plane only, and none has been made since the split ended (R347) -/
  splitCommit : Bool := false
  /-- the active Canton's firmware has run since RESET_N (R352) -/
  fwRan      : Bool := false
  peerMeas   : Bytes := []
  /-- requests relayed into the tray: SEQ, member, and where the answer goes (R310) -/
  relays     : List (BitVec 32 × Nat × Transport × Plane) := []
  -- tray (R314 to R316, R328)
  heard      : SMap (Option SlotHeard) := []
  master     : Option (BitVec 3) := none
  conflict   : Bool := false
  /-- when each side last received a frame (R314) -/
  nextAt     : Option Nat := none
  prevAt     : Option Nat := none
  trayTime   : BitVec 64 := 0
  trayAt     : Nat := 0
  delayNext  : Nat := 0
  delayPrev  : Nat := 0
  ptpTwo     : Option (BitVec 64) := none
  ptpT1      : Option (BitVec 64) := none
  ptpMs      : Int := 0
  ptpDelay   : Int := 0
  trayCap    : Nat := 0
  -- inventory
  inv        : Inventory := {}
  saved      : Inventory := {}
  -- sensors and leak loops (R320 to R324), by 128 × plane + k below 70, else by k
  sens       : SMap SensSt := []
  loops      : SMap Loop := []
  /-- sensor policy is host-assisted, as of the last sensor poll (Table 9.13) -/
  sensHost   : Bool := false
  -- power (R325 to R332, R353 to R356, R404 to R410)
  pwrOffReq  : Bool := false
  pwrgd      : Bool := true
  /-- the device is in Off: the logic of both dies is held in reset (R406) -/
  off        : Bool := false
  /-- transition in progress, and the state it goes to -/
  moving     : Option Nat := none
  epoPin     : Bool := false
  epoPrev    : Bool := false
  epoNext    : Bool := false
  /-- the power hold of EPO or trip is in force (R331, R410) -/
  epoHold    : Bool := false
  resetN     : Bool := true
  aonOsc     : Bool := false
  freezeN    : Bool := false
  /-- regulator target of each die in mV, 750 until it is set; the 10 mV are added (R404) -/
  avs        : SMap Nat := []
  avsCold    : SMap Bool := []
  lastDown   : List (Nat × BitVec 64) := []
  view       : SMap Nat := []
  neigh      : SMap (Option Neigh) := []
  /-- commits that run, oldest first (R344 to R348): one, or while the package is split one of each plane -/
  commits    : List Commit := []
  -- boundary scan (R364, R396, R397)
  /-- instruction register, update latches of the boundary register, bits of the last data scan, first shifted first -/
  ir         : Byte := 0x02
  boundary   : List Bool := []
  tdo        : List Bool := []
  deriving DecidableEq, Repr

end Sys2Proof.Machine
end

