-- ==== Sys2Proof/Machine/StCol.lean ====
section
/-! DEFINITION. What a collective engine holds for its groups (R185, R187, R188, R193): chunk records with their slots,
the credit held and given. STATE, REJ, ORIGIN, ABORT_CODE, EPOCH, BASE, LIMIT and the free counts live in their
registers. -/

namespace Sys2Proof.Machine

/-- Where a chunk's position lies (R192, R193). -/
inductive ChunkPos where
  | sram | spill | fwd
  deriving DecidableEq, Repr

/-- A child of a node: its index in the range, its ID, and whether it is a lower engine (R172). -/
structure Child where
  idx : Nat
  id  : EpId
  eng : Bool
  deriving DecidableEq, Repr

/-- A chunk record and its slots (R185): the children that have contributed, FMT and ELEMS of its contributions, whether
it is marked LAST, the accumulator words, and, for kinds 3 and 4, the data as received. `sent`: its partial or result
has been sent; for a forward chunk, its return has been relayed. `crc` is the
CRC-32 over the lines of a spilled chunk (R237). -/
structure Chunk where
  seen  : List Nat
  fmt   : Nat
  elems : Nat
  last  : Bool
  acc   : List Nat
  raw   : Bytes
  pos   : ChunkPos
  done  : Bool
  sent  : Bool
  crc   : Word
  deriving DecidableEq, Repr

/-- A group at its node. -/
structure GrpSt where
  /-- the children and the member list, latched at activation (R343) -/
  kids    : List Child := []
  mems    : List EpId := []
  chunks  : SMap (Option Chunk) := []
  /-- chunks at or above BASE that have been freed -/
  freed   : List Nat := []
  /-- the chunk marked LAST in the epoch -/
  lastIdx : Option Nat := none
  /-- the parent's LIMIT for the epoch -/
  parent  : Nat := 0
  /-- LIMIT in the last SLOT_CRED to the children -/
  told    : Nat := 0
  /-- the forward path applies in this epoch; the credit given to FWD_EP -/
  fwdOn   : Bool := false
  fwdCred : Nat := 0
  /-- what the group's activation allocated: slots, records, spill slots, bytes of forward store -/
  slots   : Nat := 0
  recs    : Nat := 0
  spills  : Nat := 0
  store   : Nat := 0
  deriving DecidableEq, Repr

/-- The collective engine: its groups by number; `told` is ENG_UP as last sent (R201). -/
structure ColSt where
  grps    : SMap GrpSt := []
  told    : Bool := false
  deriving DecidableEq, Repr

end Sys2Proof.Machine
end

