-- ==== Sys2Proof/Machine/StDsp.lean ====
section
/-! DEFINITION. What a dispatch engine holds (R206, R207, R210, R213, R214, R218 to R220): token records with their
combine slots, overflow queues, the latched expert map and the counts of each layer's open epoch. STATE, REJ, ABORT_CODE
and EPOCH live in their registers. -/

namespace Sys2Proof.Machine

/-- The fate of a choice (R210): dropped at the decision, sent to an endpoint in a round, queued, sent to OVF_EP. -/
inductive Fate where
  | dropped
  | sent (round : Nat)
  | queued
  | host
  deriving DecidableEq, Repr

/-- A token's record. `route` holds the K route words, `drop` the choices dropped so far, `arrived` the fragments that
have come, `outs` the outputs accepted by choice and fragment, `acc` the accumulators by fragment, `answered` the
fragments sent as COMBINED or TOKEN_RET, `data` the token data held in the overflow queue by fragment. -/
structure TokRec where
  layer    : Nat
  origin   : EpId
  token    : Nat
  route    : List Nat
  fate     : List Fate
  drop     : List Nat
  arrived  : List Nat
  outs     : List (Nat × Nat)
  acc      : SMap (List Nat)
  answered : List Nat
  data     : SMap Bytes
  deriving DecidableEq, Repr

/-- What an expert has in its current round of the epoch: tokens sent (cnt), EXPERT_IN packets sent, the round, the
queued choices oldest first. -/
structure ExpSt where
  cnt   : Nat := 0
  pkts  : Nat := 0
  round : Nat := 0
  queue : List (Nat × Nat) := []
  deriving DecidableEq, Repr

/-- A layer's open epoch. `emap` holds the words of the expert map as latched, by offset in the plane's window (R207). -/
structure LyrSt where
  /-- the valid origins, latched at activation (R343) -/
  orig    : List EpId := []
  emap    : SMap Word := []
  /-- the overflow function was host-assisted when the epoch opened (Table 9.13) -/
  host    : Bool := false
  exps    : SMap ExpSt := []
  /-- origins whose LAST fragment has been performed; round 0 has closed -/
  lastBy  : List EpId := []
  closed  : Bool := false
  /-- EXPERT_IN packets sent to OVF_EP, and every endpoint that received an EXPERT_IN of the epoch,
a CLOSE among them -/
  hostN   : Nat := 0
  touched : List EpId := []
  /-- a packet of the layer has been accepted in the epoch; DSP_ALLOW, DSP_OVF_FULL raised in it -/
  used    : Bool := false
  allowed : Bool := false
  full    : Bool := false
  /-- what the activation reserved: records, slots, bytes of overflow queue -/
  recs    : Nat := 0
  slots   : Nat := 0
  bytes   : Nat := 0
  deriving DecidableEq, Repr

/-- The dispatch engine: layers by number, token records by TREF. -/
structure DspSt where
  lyrs    : SMap LyrSt := []
  recs    : SMap (Option TokRec) := []
  deriving DecidableEq, Repr

end Sys2Proof.Machine
end

