-- ==== Sys2Proof/Machine/StEpc.lean ====
section
/-! DEFINITION. What a plane holds for errors, unit service and gating beside the EPC_ registers (R351 to R371). -/

namespace Sys2Proof.Machine

/-- A log entry's key and time for folding (R367): CODE, UNIT, when it was made, its ring slot and SEQ. -/
structure LogKey where
  code : Byte
  unit : Word
  at_  : Nat
  slot : Nat
  seq  : BitVec 32
  deriving DecidableEq, Repr

structure EpcSt where
  seq      : BitVec 32 := 0
  recent   : List LogKey := []
  /-- LOG_OVERFLOW has been raised since the log last had room -/
  ovfTold  : Bool := false
  /-- U errors of the last second by PG: their ticks (ESC_U, R371) -/
  uCount   : SMap (List Nat) := []
  /-- those of cells that crossed a spine element, by element -/
  eCount   : SMap (List Nat) := []
  /-- unit whose self-test runs: type and index (R359) -/
  testing  : Option (Nat × Nat) := none
  /-- engines that have failed: 0 collective, 1 dispatch, 2 memory (R24); the plane has failed (R371) -/
  engFailed : List Nat := []
  planeFailed : Bool := false
  /-- the start-up self-tests are done (R352, step 4) -/
  tested   : Bool := false
  /-- the engines have entered service (R352, step 7) -/
  inService : Bool := false
  /-- lane and engine microcode that quads and engines run (R360): unit to version -/
  ucode    : SMap (BitVec 32) := []
  /-- the quads that are powered (R357) -/
  quads    : List Nat := []
  frozen   : Bool := false
  /-- the committed copies before the last commit, and the tick of its instant (R346) -/
  prior    : RegFile := []
  priorAt  : Option Nat := none
  deriving DecidableEq, Repr

end Sys2Proof.Machine
end

