-- ==== Sys2Proof/Machine/StLne.lean ====
section
/-! DEFINITION. What a plane holds for its lanes and ports beside the LNE_ registers (R29 to R69). -/

namespace Sys2Proof.Machine

/-- A lane. Requests and reports are those of Table 2.6. -/
structure LaneSt where
  -- training (R43, R44)
  frames    : Nat := 0
  ready     : Bool := false
  readySent : Nat := 0
  readyGot  : Nat := 0
  /-- the request this end holds; the first is preset 1 -/
  reqPre    : Nat := 0
  reqA      : Byte := 0
  reqB      : Byte := 0
  /-- the report this end holds -/
  statA     : Byte := 0
  statB     : Byte := 0
  statPre   : Nat := 0
  trained   : Bool := false
  /-- this training is host-assisted: bit 0 of HIF_FUNC_MODE at its start (Table 9.13) -/
  host      : Bool := false
  -- alignment markers (R38, R39)
  amRun     : Nat := 0
  amNext    : BitVec 32 := 0
  amMiss    : Nat := 0
  farIdx    : Nat := 0
  farWidth  : Nat := 0
  skew      : Nat := 0
  -- Ensign records (R47)
  frags     : List Bytes := []
  last      : Option Bytes := none
  rec_      : Option Bytes := none
  fragTx    : Nat := 0
  /-- codeword pairs in a row that hold an uncorrectable codeword (R37) -/
  uncorr    : Nat := 0
  deriving DecidableEq, Repr

/-- Low-power idle of a port (R61 to R63). -/
inductive Lpi where
  | awake | asked | asleep | waking
  deriving DecidableEq, Repr

/-- A port. -/
structure PortSt where
  /-- lanes on which the last sense found a receiver; lanes detected (R42) -/
  sensed   : Nat := 0
  det      : Nat := 0
  told     : Bool := false
  /-- lanes that count: the set the port locked with, then the set its receiver uses (R58) -/
  set      : Nat := 0
  /-- the set its transmitter deals port blocks to (R58) -/
  txSet    : Nat := 0
  /-- the wiring plan entry that the present Exchange uses: LNE_WIRE_CTL, _ID, _SER low and high, _FAB (R52) -/
  plan     : List (BitVec 32) := []
  /-- own FLAG: the far end is admitted; the FLAG last received (R47, R49) -/
  flag     : Bool := false
  farFlag  : Bool := false
  /-- admitted identity: ID_FP and PORT_ID (R51) -/
  ident    : Option (Bytes × Nat) := none
  /-- ENSIGN blocks are still sent in Active (R49) -/
  tail     : Bool := false
  amTx     : BitVec 32 := 0
  -- the width exchange (R58): merged mask of failed lanes, sequence, and the two SWITCH blocks
  fail     : Nat := 0
  changing : Bool := false
  wseq     : Byte := 0
  agreed   : Bool := false
  swTx     : Bool := false
  swRx     : Bool := false
  /-- a restore of inactive lanes is running (R59) -/
  restoring : Bool := false
  /-- inactive lanes that have locked again in it -/
  restored : Nat := 0
  /-- answers of the Canton that wait for credit in the management exchange (R50) -/
  mgmtTx   : List Packet := []
  lpi      : Lpi := .awake
  /-- the end may enter low-power idle again (R63) -/
  lpiReady : Bool := true
  loop     : Bool := false
  deriving DecidableEq, Repr

/-- Laser sources of a plane's engines: module enabled by the Canton, module reported ready, and inputs failed (R68, R69,
R325). -/
structure LneSt where
  lanes   : SMap LaneSt := []
  ports   : SMap PortSt := []
  enabled : SMap Bool := []
  lasers  : SMap Bool := []
  inputs  : SMap Bool := []
  deriving DecidableEq, Repr

/-! ## The line -/

/-- One received block position of a lane: a port block, a slot block, the marker that opens a pair with its AM_COUNT, or
a position of an uncorrectable pair. -/
inductive RxItem where
  | block (b : Block)
  | slot (b : Block)
  | mark (count : Nat)
  | bad
  deriving DecidableEq, Repr

/-- One lane's line code: as transmitter the scrambler, the last level sent, the blocks that wait for their codeword pair
and the levels driven, newest first; as receiver the descrambler, the last level, the block positions not yet
re-assembled, codeword pairs since the last marker, and pairs looped back. -/
structure LaneLine where
  scr    : Nat := 0
  pre    : Nat := 0
  fill   : List Block := []
  sent   : List (List Nat) := []
  /-- codeword A of the next pair is corrupted: SYMS symbols from OFF (R395) -/
  inj    : Option (Nat × Nat) := none
  rscr   : Nat := 0
  rpre   : Nat := 0
  items  : List RxItem := []
  loopq  : List (List Nat) := []
  since  : Nat := 0
  /-- the PRBS generator (R66): the pattern chosen (0 off), symbols sent of it, its register -/
  genOn  : Nat := 0
  gen    : Nat := 0
  genReg : Nat := 0
  /-- the PRBS checker: its register, right and wrong symbols in a row, its place in SSPRQ -/
  chk    : Nat := 0
  right  : Nat := 0
  wrong  : Nat := 0
  place  : Nat := 0
  deriving DecidableEq, Repr

/-- A packet being put together from DATA blocks (R34). -/
structure Asm where
  bytes : Bytes := []
  deriving DecidableEq, Repr

/-- One port's line code: the lane of its set that takes the next port block, as transmitter and as receiver, the packet
being put together, and whether transmit and receive side have carried no packet for LPI_IDLE (R61). -/
structure PortLine where
  turn  : Nat := 0
  rturn : Nat := 0
  asm   : Option Asm := none
  quiet : Bool := false
  deriving DecidableEq, Repr

structure LineSt where
  lanes : SMap LaneLine := []
  ports : SMap PortLine := []
  deriving DecidableEq, Repr

end Sys2Proof.Machine
end

