-- ==== Sys2Proof/Machine/StHif.lean ====
section
/-! DEFINITION. What a plane holds for its host interface beside the registers: its Gnotric Link half, the lines and
requests it holds, the rings' indices and the event store (R261 to R290). -/

namespace Sys2Proof.Machine

/-- Why a request to the host was sent, so that its answer can be used (R267, R276, R279). -/
inductive GlWhat where
  /-- RD_S of the command doorbell line -/
  | cmdBell
  /-- RD_S of the consumer doorbell line -/
  | ciBell
  /-- RD_NC of the command descriptor with this CMDQ index -/
  | descr (idx : BitVec 32)
  /-- a data line read or written by a command -/
  | dataLine
  /-- WR_PUSH of the line `line` of entry `idx` of ring `r` -/
  | entry (r : Nat) (idx : BitVec 32) (line : Nat)
  /-- WR_PUSH of the status line -/
  | status
  /-- EVICT of a doorbell line -/
  | evict
  /-- INTR, which has no answer -/
  | intr
  deriving DecidableEq, Repr

/-- A request to the host: outstanding, or waiting for REQ credit (R266). `half` is the half it was sent on. -/
structure GlReq where
  msg  : GlMsg
  what : GlWhat
  half : Plane
  deriving DecidableEq, Repr

/-- One half of the Gnotric Link (R261 to R266). Its STAGE and WIDTH are in HIF_LINK_STAT. -/
structure GlHalf where
  /-- lanes on which the last sense found a receiver; lanes on which two in a row did (R42, R262) -/
  sensed  : Nat := 0
  det     : Nat := 0
  /-- training of the lanes (R43, R44, R262) -/
  lanes   : SMap LaneSt := []
  /-- lanes failed since Detect -/
  failed  : Nat := 0
  /-- lanes in use -/
  act     : Nat := 0
  /-- stage failures in a row (R263) -/
  retries : Nat := 0
  /-- flits in a row with good CRC in Lock (Table 9.1) -/
  good    : Nat := 0
  /-- INIT flits received in a row, and sent (R264) -/
  initRx  : Nat := 0
  initTx  : Nat := 0
  /-- next TX_SEQ, last TX_SEQ received in order (R163, R265) -/
  txSeq   : BitVec 12 := 0
  rxSeq   : BitVec 12 := 0xfff
  /-- flits sent and not acknowledged, oldest first (at most 256) -/
  store   : List GlFlit := []
  /-- responses that wait for room among them -/
  txq     : List GlMsg := []
  /-- resends in a row without progress -/
  resends : Nat := 0
  /-- REQ credit in slots (R266) -/
  credReq : Nat := 0
  /-- SNP and MMIO slots freed and not yet returned -/
  frSnp   : Nat := 0
  frMmio  : Nat := 0
  /-- reason code (Table 2.8) of the last failure -/
  reason  : Nat := 0
  deriving DecidableEq, Repr

/-- A doorbell line (R268, R269): held in S or not, its copy, and whether a fresh read is out. -/
structure Bell where
  shared : Bool := false
  copy   : Bytes := []
  reads  : Nat := 0
  /-- the half its copy was read on (R271) -/
  half   : Plane := .hoist
  /-- the last CMDQ_PI was out of range; re-read only after the next SNP_INV (R276) -/
  stuck  : Bool := false
  deriving DecidableEq, Repr

/-- An event waiting for EVTQ (Table 9.10). -/
structure Evt where
  code   : BitVec 16
  rep    : BitVec 32
  time   : BitVec 64
  unit   : Word
  args   : List Word
  deriving DecidableEq, Repr

/-- A tracker of one (CODE, UNIT) pair under EVT_HOLD (R282). -/
structure Tracker where
  code  : BitVec 16
  unit  : Word
  until_ : Nat
  held  : Nat
  last  : Evt
  deriving DecidableEq, Repr

/-- An entry for CAPQ (Table 9.12). -/
structure CapRec where
  type : Byte
  time : BitVec 64
  body : Bytes
  deriving DecidableEq, Repr

/-- The device's indices of one ring (R273) and its interrupt state (R287). -/
structure RingSt where
  pi      : BitVec 32 := 0
  ci      : BitVec 32 := 0
  /-- entries whose every line has had its CMP (R274, R278) -/
  valid   : BitVec 32 := 0
  /-- the latched arming value, and ARMr as last read -/
  latched : Byte := 0
  arm     : Byte := 0
  /-- entries not yet signalled, and whether an interrupt is due at once -/
  unsig   : Nat := 0
  force   : Bool := false
  /-- entries that wait for the one before them: index, address, bytes (R286) -/
  held    : List (BitVec 32 × Nat × Bytes) := []
  deriving DecidableEq, Repr

/-- An ADAPT command waiting for the far end's report (R279). -/
structure AdaptWait where
  lane  : Nat
  head  : CmdHead
  since : Nat
  deriving DecidableEq, Repr

/-- A command whose host reads or writes are not all answered (R279): its completion, and for BULK_WR the registers it
writes first. -/
structure CmdEnd where
  op     : Nat
  head   : CmdHead
  status : Nat
  done   : Nat
  off    : Nat
  data   : List Word
  deriving DecidableEq, Repr

/-- The host interface of a plane. -/
structure HifSt where
  half     : GlHalf := {}
  /-- requests without an answer, in their original order, and requests waiting for credit (R266, R271) -/
  outst    : List GlReq := []
  waiting  : List GlReq := []
  nextTag  : BitVec 10 := 0
  cmdBell  : Bell := {}
  ciBell   : Bell := {}
  rings    : SMap RingSt := []
  /-- descriptors fetched and not yet performed, oldest first (R276, R279) -/
  fetched  : List (BitVec 32 × Bytes) := []
  /-- index of the next command to complete -/
  done     : BitVec 32 := 0
  /-- the event store (R282): at most 256, oldest first -/
  events   : List Evt := []
  /-- events were lost since the last entry written; events lost since EVTQ was enabled -/
  lost     : Bool := false
  lostRing : BitVec 32 := 0
  trackers : List Tracker := []
  /-- a reported index has changed since the last status line write (R278) -/
  statDue  : Bool := false
  /-- KEEPALIVE as last read, and when host activity was last seen (R290) -/
  keep     : BitVec 32 := 0
  active   : Nat := 0
  /-- the plane holds HOST_LOST (R292) -/
  hostLost : Bool := false
  adapt    : Option AdaptWait := none
  /-- the command whose host accesses are out -/
  ending   : Option CmdEnd := none
  deriving DecidableEq, Repr

end Sys2Proof.Machine
end

