-- ==== Sys2Proof/Machine/StMem.lean ====
section
/-! DEFINITION. The memory complex of a plane (R231 to R257): the SRAM and LPDDR5X pools byte by byte, what is poisoned,
the proxies and COPYs of the memory engine. -/

namespace Sys2Proof.Machine

/-- A pool: bytes by offset, in canonical form. The device zeroes a pool before it can be reached (R234, R236): a byte
that nothing has written since reads 0. -/
abbrev Memory := List Host.Cell

/-- The canonical form: offsets strictly rising, no entry equal to what an unlisted offset reads as. -/
abbrev Memory.wf (m : Memory) : Bool := SMap.wf (0 : Byte) m

def Memory.byte (m : Memory) (a : Nat) : Byte := mget 0 a m
def Memory.put (m : Memory) (a : Nat) (b : Byte) : Memory := mset 0 a b m

/-- `n` bytes from an offset. -/
def Memory.read (m : Memory) (a n : Nat) : Bytes := (List.range n).map (fun i => m.byte (a + i))

/-- The memory after bytes are stored from an offset. -/
def Memory.write (m : Memory) (a : Nat) : Bytes → Memory
  | [] => m
  | b :: bs => Memory.write (m.put a b) (a + 1) bs

/-- What a forwarded operation serves. -/
inductive ProxyFor where
  | op
  | copyGet (id piece : Nat)
  | copyPut (id piece : Nat)
  deriving DecidableEq, Repr

/-- A proxy entry (R247): the origin's header, what it serves, and the operation as forwarded. -/
structure Proxy where
  hdr  : Header
  what : ProxyFor
  pkt  : Packet
  deriving DecidableEq, Repr

/-- Where a range of an operation lies after translation (R238): KIND, the translated address, TGT_ID. -/
structure Place where
  kind : Nat
  at_  : Nat
  tgt  : EpId
  deriving DecidableEq, Repr

/-- A COPY in progress (R246): pieces from `next` have not started; `prog` lists those in progress, `data` the source
bytes of those that have been read. `status` is that of the first piece that failed; `lost` where it timed out. -/
structure CopySt where
  hdr    : Header
  src    : Place
  dst    : Place
  daddr  : Nat
  size   : Nat
  next   : Nat
  prog   : List Nat
  data   : SMap Bytes
  status : Byte
  lost   : Bool
  deriving DecidableEq, Repr

structure MemSt where
  sram    : Memory := []
  lp      : Memory := []
  /-- poisoned 64-bit words of the SRAM pool and 64-byte lines of the LPDDR5X pool, by number -/
  poison  : List Nat := []
  lpPois  : List Nat := []
  proxies : SMap (Option Proxy) := []
  copies  : SMap (Option CopySt) := []
  nextId  : Nat := 0
  /-- operations held until a proxy entry or a COPY slot is free (R249) -/
  waits   : List Packet := []
  /-- poisoned words of reserved regions that no owner holds, by region and address in it (R254) -/
  resPois : List (Nat × Nat) := []
  /-- LPDDR5X devices that the pool's address map uses, in ascending order; devices being initialised -/
  lpDevs  : List Nat := []
  lpBusy  : List Nat := []
  /-- correctable errors by column (65,536 × tile + 256 × sub-array + column); columns repaired -/
  colCe   : SMap Nat := []
  fixed   : List Nat := []
  /-- spare columns used, by 256 × tile + sub-array -/
  spares  : SMap Nat := []
  /-- ticks of the uncorrectable errors of the last second, by tile, or 16 + device -/
  ueAt    : SMap (List Nat) := []
  /-- allocated space on failed units that does not return when it is given back -/
  owe     : SMap Nat := []
  deriving DecidableEq, Repr

end Sys2Proof.Machine
end

