-- ==== Sys2Proof/Machine/StNet.lean ====
section
/-! DEFINITION. What a plane holds for credits and packets in progress at its ports (R73, R92), for windows as source and
destination (R99 to R111), for drains and congestion maps (R131, R136), and in its switch core: buffered packets, VOQs,
cells, resequencers, egress stages, the matcher and Halyard (R139 to R168). Tables by port use the code of Table 4.3:
0 to 575 a port's first lane, 576 Halyard (0x240), 577 to 580 the engines and the Canton. -/

namespace Sys2Proof.Machine

/-! ## Ports and credits -/

/-- Credit counters of one VC of a port or of Halyard, modulo 65,536 (R92). `owe` is the part of a decrease of ADV not
yet absorbed (R95); `far` is the first LIMIT received since Active (R97). -/
structure Credit where
  sent  : BitVec 16 := 0
  limRx : BitVec 16 := 0
  recv  : BitVec 16 := 0
  freed : BitVec 16 := 0
  adv   : BitVec 16 := 0
  owe   : Nat := 0
  far   : Option (BitVec 16) := none
  /-- the LIMIT last sent in a CREDIT block -/
  told  : BitVec 16 := 0
  deriving DecidableEq, Repr

/-- A packet being received: its SOP block, whether its UNITS exceeded the credit available, and when the SOP came; the
units received so far; its number in the buffer once its head has gone on; a block of it was bad (R37). -/
structure RxProg where
  vc    : BitVec 4
  units : Nat
  wh    : Bool
  viol  : Bool
  at_   : Nat
  time  : BitVec 64
  got   : Nat := 0
  pid   : Option Nat := none
  bad   : Bool := false
  deriving DecidableEq, Repr

/-- A packet being sent on a code: all of its units have not yet reached the stage, or it is in wormhole mode. -/
structure TxProg where
  pid  : Nat
  vc   : Nat
  wh   : Bool
  sent : Nat
  pkt  : Packet
  deriving DecidableEq, Repr

/-- A port's protocol state. `sess` counts the times its counters restarted (R92, R146). -/
structure LinkSt where
  rx      : Option RxProg := none
  sess    : Nat := 0
  /-- the counters run: Active, or the management exchange of R50 -/
  counting : Bool := false
  deriving DecidableEq, Repr

/-! ## Windows -/

/-- A packet held as a Pennant at a destination (R103). -/
structure Pennant where
  pkt : Packet
  deriving DecidableEq, Repr

/-- A destination's window for one source (R103, R105, R101, R108). `seen` lists the offsets above the base that have
arrived. -/
structure DstWin where
  base     : BitVec 16 := 0
  seen     : List Nat := []
  lostLast : BitVec 16 := 0
  lostOk   : Bool := false
  held     : List Pennant := []
  /-- the stall timer's start -/
  stall    : Option Nat := none
  /-- TC and VC of the packets that have arrived above the base, by WSEQ -/
  how      : SMap (BitVec 3 × BitVec 4) := []
  /-- base at the last ACK; HOLE due; TC and VC of the last packet that the base has passed (R90) -/
  acked    : BitVec 16 := 0
  hole     : Bool := false
  tc       : BitVec 3 := 0
  vc       : BitVec 4 := 0
  /-- CE is to be echoed, and when ECE was last sent -/
  echo     : Bool := false
  eceAt    : Option Nat := none
  /-- WSEQs accepted and not yet performed: forwarded operations and COPYs (R104, R250) -/
  busy     : List (BitVec 16) := []
  /-- the engine reset it was last synchronised after: an older one is unsynchronised (R251) -/
  gen      : Nat := 0
  deriving DecidableEq, Repr

/-- Synchronisation of a source's window to one destination (R99). -/
inductive SyncSt where
  | none | waiting | done
  deriving DecidableEq, Repr

/-- A windowed packet that waits for the window or its WIN_SYNC: `fwd` names the proxy entry of a forwarded operation. -/
structure WaitPkt where
  pkt : Packet
  fwd : Option Nat
  deriving DecidableEq, Repr

/-- A source's window to one destination (R99, R100, R109). `cwnd` 0 stands for W_SRC, where it starts. -/
structure SrcWin where
  sync    : SyncSt := .none
  next    : BitVec 16 := 0
  base    : BitVec 16 := 0
  cwnd    : Nat := 0
  decAt   : Option Nat := none
  lastAt  : Option Nat := none
  waiting : List WaitPkt := []
  deriving DecidableEq, Repr

/-- What an outstanding request of the device was (R111). -/
inductive ReqWhat where
  | winSync (dst : EpId)
  | forward (id : Nat)
  | copyGet (id piece : Nat)
  | copyPut (id piece : Nat)
  | gen (stream : Nat)
  deriving DecidableEq, Repr

/-- An outstanding request: its TAG's use and destination. -/
structure OutReq where
  what : ReqWhat
  dst  : EpId
  deriving DecidableEq, Repr

/-- An endpoint of the device: one of the plane's engines, or the endpoint logic of a golden port. -/
structure EpSt where
  dst     : SMap DstWin := []
  src     : SMap SrcWin := []
  reqs    : SMap (Option OutReq) := []
  /-- TAGs that timed out and may not be reused yet (R111) -/
  quar    : List Nat := []
  nextTag : BitVec 16 := 0
  /-- engine resets so far (R251) -/
  gen     : Nat := 0
  deriving DecidableEq, Repr

/-! ## Routing -/

/-- Samples of one port in the current congestion map interval (R136). -/
structure CmapBin where
  peak  : Nat := 0
  hist  : List Nat := [0, 0, 0, 0, 0, 0, 0, 0]
  tx    : Nat := 0
  ce    : Nat := 0
  /-- the port has been out of Active during the interval -/
  gap   : Bool := false
  deriving DecidableEq, Repr

/-- Drains and congestion maps of a plane. `waiting` lists the ports that have not flipped, `markTx` the ports latched
for markers (R131). -/
structure RteSt where
  waiting : List Nat := []
  markTx  : List Nat := []
  /-- drain markers that wait for a credit unit on VC 8: port and DRAIN_ID -/
  markDue : List (Nat × BitVec 16) := []
  bins    : SMap CmapBin := []
  /-- entries that act as invalid after an uncorrectable error (R366), by offset in the window -/
  bad     : List Nat := []
  deriving DecidableEq, Repr

/-! ## Switch core -/

/-- The account a packet is charged to (R145, R150). -/
inductive Acct where
  | guar | shared | held
  deriving DecidableEq, Repr

/-- A packet in the shared buffer. `src` is the code it came from, `slice` its ingress slice. `codes` are the codes whose
copies have not left; `qcode`, `qvc` name the queue a unicast packet is charged to. `esc` is the escape code that its
lookup read where it may move (R125). `sess` is the ingress port's session (R146), `vcIn` the VC it came on. -/
structure BufPkt where
  pkt   : Packet
  units : Nat
  src   : Nat
  slice : Nat
  sess  : Nat
  vcIn  : Nat
  arr   : Nat
  old   : Bool
  mc    : Bool
  codes : List Nat
  acct  : Acct
  qcode : Nat
  qvc   : Nat
  esc   : Option Nat
  /-- its last unit has left the shared buffer (R146) -/
  left  : Bool
  /-- it ended as bad upstream after its head had gone on (R87); the units that had come by then -/
  bad   : Bool := false
  real  : Nat := 0
  /-- units still to come of a packet whose head has gone on, and units not yet counted in RECV (R92) -/
  todo  : Nat := 0
  owed  : Nat := 0
  deriving DecidableEq, Repr

/-- A packet's place in a VOQ: how many of its units have gone into cells, and since when it is the head. -/
structure VoqEnt where
  pid  : Nat
  gone : Nat
  head : Option Nat
  deriving DecidableEq, Repr

/-- A run of units of one packet in a cell. -/
structure CellPart where
  pid   : Nat
  count : Nat
  /-- the place of its first unit in the packet -/
  off   : Nat := 0
  deriving DecidableEq, Repr

/-- A cell (Table 5.4) and the spine element it crosses (R154). -/
structure Cell where
  src   : Nat
  dst   : Nat
  pseq  : BitVec 12
  vc    : Nat
  mc    : Bool
  codes : List Nat
  parts : List CellPart
  arr   : Nat
  elem  : Nat := 0
  gen   : Bool := false
  bad   : Bool := false
  deriving DecidableEq, Repr

/-- A cell in a resequencer, or the mark of a lost one. -/
structure ReseqEnt where
  pseq : BitVec 12
  cell : Option Cell
  deriving DecidableEq, Repr

/-- A packet copy in an egress stage: units present, its first unit among them, whether the checks of its head have been
made, and the injection that applies. -/
structure StageEnt where
  pid   : Nat
  have_ : Nat
  sop   : Bool
  arr   : Nat
  head  : Bool
  /-- the injection kind that applies (R393), its end for a delay, the capture rule plus 1 (R391) -/
  inj   : Nat
  until_ : Option Nat
  cap   : Nat
  /-- the packet as it leaves, formed at the head -/
  pkt   : Packet
  deriving DecidableEq, Repr

/-- What leaves a port beside the switch core: a packet as it stands, one of the generator, which carries the time of its
departure (Table 12.5), or a drain marker, which counts as transmitted (Table 4.9). -/
inductive SideWhat where
  | plain | gen | mark
  deriving DecidableEq, Repr

/-- Such a packet at the head of its VC while a delay injection holds it: until when, the injection kind that applies, and
the capture rule plus 1 (R391, R393). -/
structure SideEnt where
  what   : SideWhat
  pkt    : Packet
  inj    : Nat
  cap    : Nat
  until_ : Option Nat
  deriving DecidableEq, Repr

/-- A packet that an engine or the Canton keeps because its queue is full (R145 step 3). -/
structure Kept where
  pkt   : BufPkt
  deriving DecidableEq, Repr

/-- Halyard as one plane's end (R163). -/
structure HalSt where
  txSeq   : BitVec 12 := 0
  rxSeq   : BitVec 12 := 0xfff
  store   : List HalFlit := []
  resends : Nat := 0
  /-- flits accepted since one last left, and a NAK that waits for room in the store -/
  heard   : Nat := 0
  nakDue  : Bool := false
  /-- control flits that wait for room in the store: CLASS and data -/
  ctl     : List (Byte × Bytes) := []
  /-- bytes of the packet being received, by VC, and whether it ended as bad -/
  rx      : SMap Bytes := []
  deriving DecidableEq, Repr

structure SwcSt where
  /-- next packet number; packets in the buffer -/
  nextPid : Nat := 0
  pkts    : SMap (Option BufPkt) := []
  /-- VOQs by 16,384 × slice + 16 × target + VC, target a code or 1,000 + a slice group for multicast (R141) -/
  voqs    : SMap (List VoqEnt) := []
  /-- matcher pointers (R151) -/
  gptr    : SMap Nat := []
  aptr    : SMap Nat := []
  /-- PSEQ of the next cell sent and the next cell released, by 64 × ingress slice + egress slice -/
  pseqTx  : SMap (BitVec 12) := []
  pseqRx  : SMap (BitVec 12) := []
  flight  : List Cell := []
  reseq   : SMap (List ReseqEnt) := []
  /-- egress stages by 16 × code + VC -/
  stages  : SMap (List StageEnt) := []
  txing   : SMap (Option TxProg) := []
  /-- packets beside the switch core that a delay injection holds, by 16 × code + VC (R393) -/
  side    : SMap (Option SideEnt) := []
  /-- deficits by 16 × code + VC and the VC a round stands at (R158) -/
  deficit : SMap Nat := []
  turn    : SMap Nat := []
  kept    : List Kept := []
  /-- codes in hold-down and when it ends (R161) -/
  hold    : SMap (Option Nat) := []
  /-- codes whose next entry to Active has hold-down: LINK_DOWN seen under this enable (R161) -/
  holdDue : List Nat := []
  /-- the ports counted at the last commit (R143) -/
  counted : List Nat := []
  hal     : HalSt := {}
  /-- mirror staging store (R168) and the capture sequence (Table 12.8) -/
  mirror  : List (Nat × BitVec 64 × Bytes) := []
  cseq    : BitVec 32 := 0
  /-- matches seen and injections selected, by rule and by descriptor (R391, R393) -/
  matchN  : SMap Nat := []
  injN    : SMap Nat := []
  deriving DecidableEq, Repr

structure LfpSt where
  links   : SMap LinkSt := []
  credits : SMap Credit := []
  /-- endpoints: 0 collective, 1 dispatch, 2 memory engine, 16 + i the golden port at lane i -/
  eps     : SMap EpSt := []
  deriving DecidableEq, Repr

end Sys2Proof.Machine
end

