-- ==== Sys2Proof/Machine/StTst.lean ====
section
/-! DEFINITION. What a plane holds for fabric time and for the golden end point beside the TST_ registers (R374 to R390).
Times of fabric time are in 1/65,536 ns. -/

namespace Sys2Proof.Machine

/-- Fabric time on one port (R379). -/
structure TimePort where
  /-- the last 8 path delay exchanges, newest first, doubled -/
  delays : List Int := []
  syncSeq : Byte := 0
  dreqSeq : Byte := 0
  /-- the open DREQ's departure time t1 -/
  t1     : Option Nat := none
  /-- when the last accepted SYNC came, and since when they have come without a break -/
  okAt   : Option Nat := none
  since  : Nat := 0
  deriving DecidableEq, Repr

/-- The servo of a plane (R375, R379 to R382). -/
structure TimeSt where
  /-- the source taken; none while free-running after RESET_N -/
  taken  : Option Nat := none
  root   : BitVec 64 := 0
  /-- successive offsets within 2 ns -/
  good   : Nat := 0
  /-- the first PPS_IN edge since SRC was written has come -/
  edge   : Bool := false
  ports  : SMap TimePort := []
  deriving DecidableEq, Repr

/-- The test part of a plane. -/
structure TstSt where
  time   : TimeSt := {}
  /-- windowed packets a golden port took from a source, newest first, for rule 12: port and source to ticks -/
  seen   : SMap (List Nat) := []
  /-- ECEs sent to a source by a golden port, newest first -/
  eces   : SMap (List Nat) := []
  /-- CPLs and ACKs of golden ports that wait for credit, by port -/
  resp   : SMap (List Packet) := []
  /-- arrival stamps of Pennants that golden ports hold, by port, source and WSEQ (R389) -/
  stamps : SMap (Option (BitVec 64)) := []
  inReset : Bool := false
  deriving DecidableEq, Repr

end Sys2Proof.Machine
end

