-- ==== Sys2Proof/Machine/State.lean ====
section
/-! DEFINITION. The state of the device: both planes, the package, the queue of waiting commands, and the record of what
left the device. Plain data throughout. -/

namespace Sys2Proof.Machine

/-- One plane. `regs` is what software reads: for a G field its staged copy (R341); `committed` holds the committed
copies, read only at G fields. `partW` holds the lower words of multi-word writes not yet complete and `latch` the upper
words a read of a lowest word has latched (R13). `loose` holds fields whose value is a free value, by 32 times the
offset of their word plus their lowest bit: apart from `regs`, so that a free value never decides whether a word is listed.
`ft` is fabric time in 1/65,536 ns (R374),
`ftRem` its part below that unit in 10^-10 of it. -/
structure PlaneSt where
  regs      : RegFile := []
  committed : RegFile := []
  partW     : SMap (Option Word) := []
  latch     : SMap (Option Word) := []
  loose     : SMap (Option Nat) := []
  ft        : Nat := 0
  ftRem     : Nat := 0
  lne       : LneSt := {}
  line      : LineSt := {}
  lfp       : LfpSt := {}
  rte       : RteSt := {}
  swc       : SwcSt := {}
  hif       : HifSt := {}
  can       : CanSt := {}
  epc       : EpcSt := {}
  tst       : TstSt := {}
  col       : ColSt := {}
  dsp       : DspSt := {}
  mem       : MemSt := {}
  deriving DecidableEq, Repr

/-- The whole machine. `ticks` counts core clocks (0.625 ns) since power-up; `free` counts the free values taken; `out`
is what left the device, newest first. -/
structure State where
  pending : List Instr
  hoist   : PlaneSt
  fly     : PlaneSt
  pkg     : Pkg
  ticks   : Nat
  free    : Nat
  out     : List Out
  deriving DecidableEq, Repr

/-- Faults: none. No rule of the spec stops the block: each error it describes is counted, logged or answered, and the
block goes on. -/
inductive Fault where
  /-- raised by nobody; safe -/
  | none
  deriving DecidableEq, Repr

/-- Refusals: a command not modelled. -/
inductive Refusal where
  /-- an arm of the dispatch that has no meaning yet; safe, the run stops -/
  | notModelled (mnemonic : String)
  deriving DecidableEq, Repr

/-- The machine right after RESET_N deasserts (R10): every register at its reset value, every strap 0, the package's
always-on part powered. -/
def State.reset : State :=
  { pending := [], hoist := {}, fly := {}, pkg := {}, ticks := 0, free := 0, out := [] }

end Sys2Proof.Machine
end

