-- ==== Sys2Proof/Machine/Ops.lean ====
section
/-! DEFINITION. The named operations every family shares: planes and fields, what leaves the device, fabric time,
events (R281, R282), the error log (R365 to R369) and requests to the host (R266, R274). -/

namespace Sys2Proof.Machine

/-- A step that goes on. -/
abbrev Res := Host.Outcome State Fault Refusal

/-- The answer of every meaning: the next state. -/
def goOn (s : State) : Res := .next s

/-- A plane of the state. -/
def State.pl (s : State) : Plane → PlaneSt
  | .hoist => s.hoist
  | .fly => s.fly

/-- The state with a plane replaced. -/
def State.setPl (s : State) (p : Plane) (x : PlaneSt) : State :=
  match p with
  | .hoist => { s with hoist := x }
  | .fly => { s with fly := x }

/-- The state with a plane changed. -/
def State.modPl (s : State) (p : Plane) (f : PlaneSt → PlaneSt) : State := s.setPl p (f (s.pl p))

/-- The state with the package changed. -/
def State.modPkg (s : State) (f : Pkg → Pkg) : State := { s with pkg := f s.pkg }

/-- The state with the host interface, a Canton or the error part of a plane changed. -/
def State.modHif (s : State) (p : Plane) (f : HifSt → HifSt) : State := s.modPl p (fun x => { x with hif := f x.hif })
def State.modSwc (s : State) (p : Plane) (f : SwcSt → SwcSt) : State := s.modPl p (fun x => { x with swc := f x.swc })
def State.modLfp (s : State) (p : Plane) (f : LfpSt → LfpSt) : State := s.modPl p (fun x => { x with lfp := f x.lfp })
def State.modRte (s : State) (p : Plane) (f : RteSt → RteSt) : State := s.modPl p (fun x => { x with rte := f x.rte })
def State.modCan (s : State) (p : Plane) (f : CanSt → CanSt) : State := s.modPl p (fun x => { x with can := f x.can })
def State.modCol (s : State) (p : Plane) (f : ColSt → ColSt) : State := s.modPl p (fun x => { x with col := f x.col })
def State.modDsp (s : State) (p : Plane) (f : DspSt → DspSt) : State := s.modPl p (fun x => { x with dsp := f x.dsp })
def State.modMem (s : State) (p : Plane) (f : MemSt → MemSt) : State := s.modPl p (fun x => { x with mem := f x.mem })
def State.modEpc (s : State) (p : Plane) (f : EpcSt → EpcSt) : State := s.modPl p (fun x => { x with epc := f x.epc })

/-- The state as a lookup or an operation accepted in the clock of a commit sees it: with the copies committed before
(R130, R239, R346). -/
def State.before (s : State) (p : Plane) : State :=
  if (s.pl p).epc.priorAt = some s.ticks then s.modPl p (fun x => { x with committed := x.epc.prior }) else s

/-- What the hardware acts on at a field: the committed copy of a class G field, else the field (R341). -/
def State.fld (s : State) (p : Plane) (f : Fld) (i : Nat) : Nat :=
  match f.cls with
  | .g => f.get i (s.pl p).committed
  | _ => f.get i (s.pl p).regs

/-- What software reads at a field: the staged copy of a class G field. -/
def State.staged (s : State) (p : Plane) (f : Fld) (i : Nat) : Nat := f.get i (s.pl p).regs

/-- The indices at which word `w` of a register is listed, that is, not at reset. -/
def State.rows (s : State) (p : Plane) (r : Reg) (w : Nat) : List Nat := listedAt r w (s.pl p).regs

/-- The key of a field in the table of fields that hold a free value. -/
def Fld.key (f : Fld) (i : Nat) : Nat := 32 * f.reg.off i f.word + f.lo

/-- The free value a field holds, if it holds one. -/
def State.loose? (s : State) (p : Plane) (f : Fld) (i : Nat) : Option Nat := mget none (f.key i) (s.pl p).loose

/-- A field that may hold a free value. -/
def State.fldL (s : State) (p : Plane) (f : Fld) (i : Nat) : Nat := (s.loose? p f i).getD (s.fld p f i)

/-- A one-bit field as a truth value. -/
def State.flag (s : State) (p : Plane) (f : Fld) (i : Nat) : Bool := s.fld p f i == 1

/-- The state after the hardware or a write replaces a field. -/
def State.setF (s : State) (p : Plane) (f : Fld) (i v : Nat) : State :=
  s.modPl p (fun x => { x with regs := f.set i v x.regs })

/-- The state after a field is given a free value, and after it holds one no more. -/
def State.setFree (s : State) (p : Plane) (f : Fld) (i v : Nat) : State :=
  s.modPl p (fun x => { x with loose := mset none (f.key i) (some v) x.loose })
def State.endFree (s : State) (p : Plane) (f : Fld) (i : Nat) : State :=
  s.modPl p (fun x => { x with loose := mset none (f.key i) none x.loose })

/-- The same for a one-bit field. -/
def State.setFlag (s : State) (p : Plane) (f : Fld) (i : Nat) (b : Bool) : State := s.setF p f i (b2n b)

/-- A counter field counts one and saturates (R12). -/
def State.count (s : State) (p : Plane) (f : Fld) (i : Nat) : State :=
  s.setF p f i (satInc f.width (s.staged p f i))

/-- A counter field counts `n` and saturates (R12). -/
def State.countN (s : State) (p : Plane) (f : Fld) (i n : Nat) : State :=
  s.setF p f i (satAdd f.width (s.staged p f i) n)

/-- Why a packet or an operation is discarded or refused: the counter that shows it (R76 to R83, R113 to R130, R243). -/
inductive Disc where
  | hcrc | hdr | hop | noport | int | miss | mc | esc | path | unsup | unmap | deny | memerr
  deriving DecidableEq, Repr

/-- The counter of a reason. -/
def Disc.fld : Disc → Fld
  | .hcrc => Fld.LFP_HCRC_DISC.N
  | .hdr => Fld.LFP_HDR_DISC.N
  | .hop => Fld.LFP_HOP_DISC.N
  | .noport => Fld.RTE_NOPORT_DISC.N
  | .int => Fld.RTE_INT_DISC.N
  | .miss => Fld.RTE_MISS_DISC.N
  | .mc => Fld.RTE_MC_DISC.N
  | .esc => Fld.RTE_ESC_DISC.N
  | .path => Fld.RTE_PATH_DISC.N
  | .unsup => Fld.GWM_UNSUP_CNT.N
  | .unmap => Fld.GWM_UNMAP_CNT.N
  | .deny => Fld.GWM_DENY_CNT.N
  | .memerr => Fld.GWM_MEMERR_CNT.N

/-- The counter of a reason counts one. -/
def State.discard1 (s : State) (p : Plane) (d : Disc) : State := s.count p d.fld 0

/-- A whole word of a register. -/
def State.word (s : State) (p : Plane) (r : Reg) (i w : Nat) : Word := wordAt r i w (s.pl p).regs

/-- The state after a whole word is replaced. -/
def State.setWord (s : State) (p : Plane) (r : Reg) (i w : Nat) (v : Word) : State :=
  s.modPl p (fun x => { x with regs := putWord r i w v x.regs })

/-- Record that something left the device. -/
def State.emit (s : State) (o : Out) : State := { s with out := o :: s.out }

/-- A free value's number: each use takes the next. -/
def State.takeFree (s : State) : Nat × State := (s.free, { s with free := s.free + 1 })

/-- Both planes, Hoist first. -/
def planes : List Plane := [.hoist, .fly]

/-- Do the same in both planes. -/
def State.both (s : State) (f : Plane → State → State) : State := f .fly (f .hoist s)

/-- Fold a change over a list. -/
def State.each {α : Type} (s : State) (l : List α) (f : α → State → State) : State := l.foldl (fun s a => f a s) s

/-- A change made only where `b` holds. -/
def State.when (s : State) (b : Bool) (f : State → State) : State := if b then f s else s

/-- Core clocks in a time given in nanoseconds, and in 10 µs (1.6 GHz). -/
def ticksOfNs (ns : Nat) : Nat := ns * 8 / 5
def tenUs : Nat := 16000

/-- Fabric time of a plane in whole nanoseconds (R374). -/
def State.now (s : State) (p : Plane) : BitVec 64 := BitVec.ofNat 64 ((s.pl p).ft / 65536)

/-! ## Which parts run -/

/-- The power state shown in CAN_PWR_STATE (Table 11.7): 0 Off, 1 Standby, 2 Ready, 3 Active. -/
def State.power (s : State) : Nat := s.fld .hoist Fld.CAN_PWR_STATE.STATE 0

/-- The logic of a plane runs: RESET_N released, main rails good, not in Off, not frozen (R350, R361, R406). -/
def State.live (s : State) (p : Plane) : Bool :=
  s.pkg.resetN && s.pkg.pwrgd && !s.pkg.off && !(s.pl p).epc.frozen

/-- The switch core and the engines of a plane run: live, and no EPO hold (R331, R350). -/
def State.runs (s : State) (p : Plane) : Bool := s.live p && !s.pkg.epoHold

/-- Halyard is up in both directions (Table 1.12). -/
def State.halUp (s : State) (p : Plane) : Bool := s.flag p Fld.TOP_PG_STAT.HALYARD_OK 0

/-- The whole device is in state Active (Table 11.7) and not leaving it. -/
def State.isActive (s : State) : Bool := s.power == 3 && s.pkg.moving.isNone

/-- The switch core forwards (Table 1.12). -/
def State.coreUp (s : State) (p : Plane) : Bool := s.flag p Fld.TOP_PG_STAT.PLANE_OK 0

/-- A port's PG, its edge chiplet and its plane are in service (R28). During a reset of the switch core the ports stay up
(Table 11.5), so that PLANE_OK is not asked. -/
def State.unitOk (s : State) (p : Plane) (i : Nat) : Bool :=
  !(s.pl p).epc.planeFailed && bit (i / 32) (s.fld p Fld.TOP_PG_STAT.PG_OK 0) && bit (i / 64) (s.fld p Fld.TOP_UNIT_STAT.CHIPLET_OK 0)

/-- This plane's Canton holds the package's active role (TOP_PG_STAT.CANTON_ACTIVE, R294). -/
def State.cantonHere (s : State) (p : Plane) : Bool := s.pkg.active == some p

/-- A plane's throttle is forced to level 7 (R322, R324, R330), and the level in force (R329). -/
def State.forced (s : State) (p : Plane) : Bool :=
  (s.pl p).can.hot || (s.pl p).can.held7 || s.pkg.loops.any (fun l => l.2.wetAt.isSome)
def State.thrLevel (s : State) (p : Plane) : Nat := if s.forced p then 7 else (s.pl p).can.level

/-! ## Requests to the host -/

/-- The stage of a Gnotric Link half (Table 9.17). -/
def State.glStage (s : State) (h : Plane) : Nat := s.fld h Fld.HIF_LINK_STAT.STAGE 0

/-- The half a plane's messages leave by: its own while Active, else the other across Halyard (R261, R271). -/
def State.glPath (s : State) (p : Plane) : Option Plane :=
  if s.glStage p = 5 ∧ ¬ s.flag p Fld.HIF_LINK_STAT.VIA_HAL 0 then some p
  else if s.glStage p.other = 5 ∧ s.halUp p then some p.other
  else if s.glStage p = 5 then some p else none

/-- A plane has a host (R271, R292): some path to it, and not lost. -/
def State.hasHost (s : State) (p : Plane) : Bool := !(s.pl p).hif.hostLost && (s.glPath p).isSome

/-- Slots a message takes (Table 9.3). -/
def glSlots (m : GlMsg) : Nat := if m.line.isEmpty then 1 else 5

/-- A flit leaves a half and is held for resend; it returns the slots freed (R265, R266). -/
def State.glFlitOut (s : State) (h : Plane) (kind : BitVec 2) (nak : Bool) (ms : List GlMsg) : State :=
  let x := (s.pl h).hif.half
  let a := min 255 x.frSnp
  let b := min 255 x.frMmio
  let f : GlFlit := ⟨ms, x.txSeq, kind, x.rxSeq, nak, 0, BitVec.ofNat 8 a, BitVec.ofNat 8 b, true⟩
  (s.modHif h (fun y => { y with half := { y.half with
      txSeq := x.txSeq + 1
      store := x.store ++ [f]
      frSnp := x.frSnp - a
      frMmio := x.frMmio - b } })).emit (.gl h f)

/-- The half can hold another flit for resend, and no response waits for that (R265). -/
def State.glRoom (s : State) (h : Plane) : Bool :=
  decide ((s.pl h).hif.half.store.length < 256) && (s.pl h).hif.half.txq.isEmpty

/-- A message leaves a half in the next flit, or waits until one of the 256 flits held is acknowledged. -/
def State.glOut (s : State) (h : Plane) (m : GlMsg) : State :=
  if s.glRoom h then s.glFlitOut h 0 false [m]
  else s.modHif h (fun y => { y with half := { y.half with txq := y.half.txq ++ [m] } })

/-- Responses leave as far as there is room. -/
def State.glDrain (s : State) (h : Plane) : State :=
  s.each (s.pl h).hif.half.txq (fun m s =>
    if (s.pl h).hif.half.store.length < 256 then
      (s.modHif h (fun y => { y with half := { y.half with txq := y.half.txq.drop 1 } })).glFlitOut h 0 false [m]
    else s)

/-- Is the answer of a request awaited: INTR has none (Table 9.3). -/
def GlWhat.answered : GlWhat → Bool
  | .intr => false
  | _ => true

/-- The requests of both planes that are outstanding on a half. -/
def State.halfOutst (s : State) (h : Plane) : List GlReq :=
  ((s.pl .hoist).hif.outst ++ (s.pl .fly).hif.outst).filter (fun r => r.half == h)

/-- An MTAG of a half that no outstanding request uses, of the 1,024 it allows the device (R267). -/
def State.freeMtag (s : State) (h : Plane) : Option Nat :=
  let used := (s.halfOutst h).map (fun r => r.msg.mtag.toNat)
  let n := (s.pl h).hif.nextTag.toNat
  ((List.range 1024).map (fun k => (n + k) % 1024)).find? (fun t => !used.contains t)

/-- One waiting request leaves, if the path has credit and an MTAG for it (R266, R267). -/
def State.glPump1 (s : State) (p : Plane) : State :=
  match s.glPath p, (s.pl p).hif.waiting with
  | some h, r :: rest =>
    match s.freeMtag h with
    | some t =>
      if glSlots r.msg ≤ (s.pl h).hif.half.credReq ∧ s.glRoom h then
        let m := { r.msg with mtag := if r.what.answered then BitVec.ofNat 16 t else 0 }
        let s := s.modHif h (fun x => { x with
          nextTag := BitVec.ofNat 10 (t + 1)
          half := { x.half with credReq := x.half.credReq - glSlots m } })
        let s := s.glOut h m
        s.modHif p (fun x => { x with
          waiting := rest
          outst := if r.what.answered then x.outst ++ [⟨m, r.what, h⟩] else x.outst })
      else s
    | none => s
  | _, _ => s

/-- The waiting requests that the path has credit for leave in order (R266). -/
def State.glPump (s : State) (p : Plane) : State :=
  s.each (s.pl p).hif.waiting (fun _ s => s.glPump1 p)

/-- A plane asks for a request to be sent: it leaves at once, or waits behind the older ones (R266). -/
def State.glRequest (s : State) (p : Plane) (m : GlMsg) (w : GlWhat) : State :=
  (s.modHif p (fun x => { x with waiting := x.waiting ++ [⟨m, w, p⟩] })).glPump p

/-- A message without operands. -/
def glMsg (code : Byte) (arg : BitVec 32) (addr : BitVec 64) (line : Bytes) : GlMsg := ⟨code, 0, 0, arg, addr, line⟩

/-- Push one whole line to host memory (WR_PUSH, Table 9.3). -/
def State.pushLine (s : State) (p : Plane) (addr : Nat) (line : Bytes) (w : GlWhat) : State :=
  s.glRequest p (glMsg 0x03 0 (BitVec.ofNat 64 addr) (slice 0 64 line)) w

/-! ## Rings -/

/-- The device's state of ring `r`. -/
def State.ring (s : State) (p : Plane) (r : Nat) : RingSt := mget {} r (s.pl p).hif.rings
def State.modRing (s : State) (p : Plane) (r : Nat) (f : RingSt → RingSt) : State :=
  s.modHif p (fun x => { x with rings := mmod {} r f x.rings })

/-- SIZE_r (R273): 2^(s + 6), codes above 10 act as 10. -/
def State.ringSize (s : State) (p : Plane) (r : Nat) : Nat :=
  2 ^ (min (s.fld p Fld.HIF_RING_CFG.SIZE r) 10 + 6)

/-- Ring r is enabled (HIF_CTL.EN). -/
def State.ringOn (s : State) (p : Plane) (r : Nat) : Bool := bit r (s.fld p Fld.HIF_CTL.EN 0)

/-- BASE_r, with its low 12 bits read as 0. -/
def State.ringBase (s : State) (p : Plane) (r : Nat) : Nat :=
  ((s.word p .HIF_RING_BASE r 0).toNat + 2 ^ 32 * (s.word p .HIF_RING_BASE r 1).toNat) / 4096 * 4096

/-- Entry size E_r of Table 9.5. -/
def entrySize (r : Nat) : Nat := if r = 3 then 128 else 64

/-- Entries a ring holds: PI − CI modulo 2^32. -/
def RingSt.fill (x : RingSt) : Nat := (x.pi - x.ci).toNat

/-- Can the device write an entry of ring r now. -/
def State.ringRoom (s : State) (p : Plane) (r : Nat) : Bool :=
  s.ringOn p r && decide ((s.ring p r).fill < s.ringSize p r)

/-- PHASE of index i (R274). -/
def State.phase (s : State) (p : Plane) (r : Nat) (i : BitVec 32) : Nat := 1 - i.toNat / s.ringSize p r % 2

/-- A line with PHASE put into bit 7 of its byte 0. -/
def withPhase (ph : Nat) : Bytes → Bytes
  | [] => []
  | b :: bs => BitVec.ofNat 8 (setBits 7 7 b.toNat ph) :: bs

/-- An entry write of ring r has no CMP yet. -/
def State.entryOut (s : State) (p : Plane) (r : Nat) : Bool :=
  ((s.pl p).hif.outst ++ (s.pl p).hif.waiting).any (fun q =>
    match q.what with
    | .entry r' _ _ => r' == r
    | _ => false)

/-- The next entry of ring r goes out once the one before it has its CMP: entries become valid in index order (R286). -/
def State.ringPump (s : State) (p : Plane) (r : Nat) : State :=
  match (s.ring p r).held with
  | [] => s
  | e :: rest =>
    if s.entryOut p r then s else
      let s := s.modRing p r (fun x => { x with held := rest })
      s.each (List.range (entrySize r / 64)) (fun k s =>
        s.pushLine p (e.2.1 + 64 * k) (slice (64 * k) 64 e.2.2) (.entry r e.1 k))

/-- Write one entry of ring r, each line with one WR_PUSH (R274), count it as unsignalled (R287) and show the index in
HIF_RING_IDX. -/
def State.ringWrite (s : State) (p : Plane) (r : Nat) (entry : Bytes) (force : Bool) : State :=
  let x := s.ring p r
  let ph := s.phase p r x.pi
  let addr := s.ringBase p r + entrySize r * (x.pi.toNat % s.ringSize p r)
  let b := (List.range (entrySize r / 64)).flatMap (fun k => withPhase ph (slice (64 * k) 64 entry))
  let s := s.modHif p (fun x => { x with statDue := true })
  let s := s.modRing p r (fun x => { x with
    pi := x.pi + 1
    unsig := x.unsig + 1
    force := x.force || force
    held := x.held ++ [(x.pi, addr, b)] })
  let s := s.ringPump p r
  s.setWord p .HIF_RING_IDX r 0 (x.pi + 1)

/-! ## Events -/

/-- Codes marked H in the event tables (Tables 9.11, 10.15, 11.20, 12.13). -/
def heldCodes : List (BitVec 16) :=
  [0x0201, 0x0402, 0x0502, 0x0701, 0x0801, 0x0804, 0x0903, 0x0905, 0x0908, 0x0909, 0x090A, 0x090D, 0x0A03, 0x0A05,
   0x0B05, 0x0B07]

/-- The 64 bytes of an EVTQ entry (Table 9.10), PHASE apart. -/
def Evt.bytes (e : Evt) (lost : Bool) : Bytes :=
  [if lost then 0x40 else 0, 0] ++ leBytes 2 e.code.toNat ++ leBytes 4 e.rep.toNat ++ leBytes 8 e.time.toNat ++
    leBytes 4 e.unit.toNat ++ slice 0 16 (e.args.flatMap (fun w => leBytes 4 w.toNat)) ++ List.replicate 28 0

/-- One event leaves the store for EVTQ while the ring has room (R281, R282). -/
def State.evtPump1 (s : State) (p : Plane) : State :=
  match (s.pl p).hif.events with
  | [] => s
  | e :: rest =>
    if s.ringRoom p 2 then
      let lost := (s.pl p).hif.lost
      (s.modHif p (fun x => { x with events := rest, lost := false })).ringWrite p 2 (e.bytes lost) false
    else s

/-- Every event that EVTQ has room for leaves the store in order. -/
def State.evtPump (s : State) (p : Plane) : State := s.each (s.pl p).hif.events (fun _ s => s.evtPump1 p)

/-- An event enters the store of 256, or is lost and counted (R282). -/
def State.evtStore (s : State) (p : Plane) (e : Evt) : State :=
  let s := s.evtPump p
  if (s.pl p).hif.events.length < 256 then
    (s.modHif p (fun x => { x with events := x.events ++ [e] })).evtPump p
  else
    (s.modHif p (fun x => { x with
      lost := true
      lostRing := BitVec.ofNat 32 (satInc 32 x.lostRing.toNat)
      statDue := true })).count p Fld.HIF_EVT_LOST.N 0

/-- Is a code masked in HIF_EVT_CFG.MASK: bit k for 0x0k00 to 0x0kFF, bit 0 ignored. -/
def State.evtMasked (s : State) (p : Plane) (code : BitVec 16) : Bool :=
  let k := code.toNat / 256
  decide (0 < k ∧ k < 12) && bit k (s.fld p Fld.HIF_EVT_CFG.MASK 0)

/-- A plane raises an event (R282): masked codes are dropped; a code marked H is written at its first occurrence and
held back while its tracker runs. -/
def State.raise (s : State) (p : Plane) (code : BitVec 16) (unit : Word) (args : List Word) : State :=
  if s.evtMasked p code then s else
    let e : Evt := ⟨code, 0, s.now p, unit, args⟩
    let hold := s.fld p Fld.HIF_EVT_CFG.EVT_HOLD 0
    if heldCodes.contains code ∧ hold ≠ 0 then
      let ts := (s.pl p).hif.trackers
      if ts.any (fun t => t.code == code && t.unit == unit) then
        s.modHif p (fun x => { x with trackers := x.trackers.map (fun t =>
          if t.code == code && t.unit == unit then { t with held := satInc 32 t.held, last := e } else t) })
      else if ts.length < 1024 then
        (s.modHif p (fun x => { x with trackers := x.trackers ++ [⟨code, unit, s.ticks + hold * tenUs, 0, e⟩] })).evtStore p e
      else s.evtStore p e
    else s.evtStore p e

/-- An event that concerns both planes is raised by each (R281). -/
def State.raiseBoth (s : State) (code : BitVec 16) (unit : Word) (args : List Word) : State :=
  s.both (fun p s => s.raise p code unit args)

/-- A word for a number. -/
def wn (n : Nat) : Word := BitVec.ofNat 32 n

/-! ## The error log -/

/-- Severity of an error code (Table 11.13): 1 U, 2 D, 3 F. -/
def sevOf (code : Nat) : Nat :=
  if code = 0x06 ∨ code = 0x0B ∨ code = 0x0C ∨ code = 0x0F ∨ code = 0x10 ∨ code = 0x11 then 1
  else if code = 0x13 ∨ code = 0x14 ∨ code = 0x15 then 3 else 2

/-- BLOCK of an error code (Table 11.13); codes 0x0F and 0x14 carry the block of their own INFO and UNIT. -/
def blockOf (code unit info0 : Nat) : Nat :=
  match code with
  | 0x01 | 0x02 | 0x05 => 1
  | 0x03 | 0x04 | 0x06 | 0x07 | 0x11 => 4
  | 0x08 => 5
  | 0x09 => 6
  | 0x0A => 8
  | 0x0B | 0x0C | 0x0D | 0x0E => 7
  | 0x0F => info0
  | 0x10 => 2
  | 0x12 => 9
  | 0x14 => unit
  | 0x15 | 0x16 => 10
  | _ => 0

/-- The eight words of a log entry (Table 11.14). -/
def logWords (seq : BitVec 32) (valid suppr folded : Bool) (code unit i0 i1 i2 : Nat) (time : BitVec 64) : List Word :=
  let b4 := 128 * b2n valid + 32 * sevOf code + 2 * b2n suppr + b2n folded
  [seq, wn (b4 + 256 * blockOf code unit i0 + 65536 * code), wn time.toNat, wn (time.toNat / 2 ^ 32), wn unit, wn i0,
   wn i1, wn i2]

/-- The words of a register, from word 0. -/
def State.setWords (s : State) (p : Plane) (r : Reg) (i : Nat) (ws : List Word) : State :=
  (ws.zipIdx).foldl (fun s e => s.setWord p r i e.2 e.1) s

/-- The first-error capture of the severity takes the error unless it holds one (R369). -/
def State.firstError (s : State) (p : Plane) (seq : BitVec 32) (suppr folded : Bool) (code unit i0 i1 i2 : Nat) :
    State :=
  let k := sevOf code - 1
  if s.flag p Fld.EPC_FIRST.VALID k then s
  else s.setWords p .EPC_FIRST k (logWords seq true suppr folded code unit i0 i1 i2 (s.now p))

/-- Entries the log holds: WP − RP modulo 2^32. -/
def State.logFill (s : State) (p : Plane) : Nat :=
  (s.word p .EPC_LOG_WP 0 0 - s.word p .EPC_LOG_RP 0 0).toNat

/-- The PG that a U error of the switch core or of a port's credits belongs to (R371): by egress slice, port code or port
ID. -/
def pgOf (code unit : Nat) : Option Nat :=
  if code = 0x06 then if unit < 18 then some unit else none
  else if code = 0x10 then some (unit % 576 / 32)
  else if code = 0x11 then if unit < 576 then some (unit / 32) else none
  else none

/-- A U error of a PG is remembered for one second (R371). -/
def State.noteU (s : State) (p : Plane) (code unit : Nat) : State :=
  match pgOf code unit with
  | some g =>
    let t := s.ticks
    s.modEpc p (fun x => { x with
      uCount := mmod [] g (fun l => t :: l.filter (fun u => decide (t < u + 1600000000))) x.uCount })
  | none => s

/-- A cell that crossed a spine element was lost in the last second (R371). -/
def State.noteElem (s : State) (p : Plane) (k : Nat) : State :=
  let t := s.ticks
  s.modEpc p (fun x => { x with eCount := mmod [] k (fun l => t :: l.filter (fun u => decide (t < u + 1600000000))) x.eCount })

/-- An error is logged, folded or lost to overflow (R367, R368, R369). -/
def State.logError (s : State) (p : Plane) (code unit i0 i1 i2 : Nat) : State :=
  let hold := s.fld p Fld.EPC_ERR_CFG.LOG_HOLD 0
  let t := s.ticks
  let found := (s.pl p).epc.recent.find? (fun k =>
    k.code.toNat == code && k.unit.toNat == unit % 2 ^ 32 && decide (t < k.at_ + hold * tenUs))
  match found with
  | some k =>
    let s := s.noteU p code unit
    let w := s.word p .EPC_LOG k.slot 1
    let s := s.setWord p .EPC_LOG k.slot 1 (wn (setBits 31 24 w.toNat (satInc 8 (bits 31 24 w.toNat))))
    s.firstError p k.seq false true code unit i0 i1 i2
  | none =>
    let seq := (s.pl p).epc.seq
    let s := s.noteU p code unit
    let s := s.modEpc p (fun x => { x with seq := x.seq + 1 })
    let s := s.firstError p seq false false code unit i0 i1 i2
    if s.logFill p < 256 then
      let wp := s.word p .EPC_LOG_WP 0 0
      let slot := wp.toNat % 256
      let s := s.setWords p .EPC_LOG slot (logWords seq true false false code unit i0 i1 i2 (s.now p))
      let s := s.setWord p .EPC_LOG_WP 0 0 (wp + 1)
      let s := s.modEpc p (fun x => { x with
        ovfTold := false
        recent := ⟨BitVec.ofNat 8 code, wn unit, t, slot, seq⟩ ::
          x.recent.filter (fun k => decide (t < k.at_ + hold * tenUs ∧ k.slot ≠ slot)) })
      s.raise p 0x0A05 (wn code) [seq, wn (sevOf code)]
    else
      let s := s.count p Fld.EPC_LOG_OVF.N 0
      if (s.pl p).epc.ovfTold then s
      else
        (s.modEpc p (fun x => { x with ovfTold := true })).raise p 0x0A06 (wn p.num) [s.word p .EPC_LOG_OVF 0 0]

/-- EPC_LOG_RP is written (R368): a value below WP − 256 or beyond WP is ignored. -/
def State.logRp (s : State) (p : Plane) (v : Word) : State :=
  if 256 < (s.word p .EPC_LOG_WP 0 0 - v).toNat then s else
    let s := s.setWord p .EPC_LOG_RP 0 0 v
    s.modEpc p (fun x => { x with ovfTold := x.ovfTold && decide (256 ≤ s.logFill p) })

/-- An error from a unit that is already out of service: counted, not logged, still captured (R367, R369). -/
def State.suppressError (s : State) (p : Plane) (code unit i0 i1 i2 : Nat) : State :=
  (s.count p Fld.EPC_SUPPR_CNT.N 0).firstError p (s.pl p).epc.seq true false code unit i0 i1 i2

end Sys2Proof.Machine
end

