-- ==== Sys2Proof/Machine/Line.lean ====
section
/-! DEFINITION. The transmitters of a plane's lanes (R29 to R36, R64, R66): port blocks are dealt to the lanes of a port's
set in turn, slot blocks take one position on all of them, and 40 blocks of a lane leave as a codeword pair. Time between
the blocks that commands send is not modelled: IDLE blocks fill it where a rule fixes a position (log entry 115). -/

namespace Sys2Proof.Machine

/-- The state with the line code of a plane changed; of a lane, of a port. -/
def State.modLine (s : State) (p : Plane) (f : LineSt → LineSt) : State := s.modPl p (fun x => { x with line := f x.line })
def State.wire (s : State) (p : Plane) (l : Nat) : LaneLine := mget {} l (s.pl p).line.lanes
def State.modWire (s : State) (p : Plane) (l : Nat) (f : LaneLine → LaneLine) : State :=
  s.modLine p (fun x => { x with lanes := mmod {} l f x.lanes })
def State.stream (s : State) (p : Plane) (i : Nat) : PortLine := mget {} i (s.pl p).line.ports
def State.modStream (s : State) (p : Plane) (i : Nat) (f : PortLine → PortLine) : State :=
  s.modLine p (fun x => { x with ports := mmod {} i f x.ports })

/-- Lane numbers (mod 576) of a mask of a port. -/
def lanesIn (i mask : Nat) : List Nat := (onesOf 16 mask).map (· + i)

/-- The lanes a port's transmitter deals to. -/
def State.txLanes (s : State) (p : Plane) (i : Nat) : List Nat := lanesIn i (mget {} i (s.pl p).lne.ports).txSet

/-- LOOPBACK of a lane; codes 4 to 7 act as 0 (Table 2.15). -/
def State.loopMode (s : State) (p : Plane) (l : Nat) : Nat :=
  let m := s.fld p Fld.LNE_LANE_CFG.LOOPBACK l
  if m < 4 then m else 0

/-- A lane's driver is silent: squelched by software, by EPO, by its unit out of service (R28, R331), by near-end
parallel loopback (Table 2.10), or without light (R69). -/
def State.silent (s : State) (p : Plane) (l : Nat) : Bool :=
  s.flag p Fld.LNE_LANE_CFG.TX_SQUELCH l || s.pkg.epoHold || !s.unitOk p l || s.loopMode p l == 1 ||
    (s.pkg.optical && (mget false (l / 8) (s.pl p).lne.inputs || !mget false (l / 64) (s.pl p).lne.lasers))

/-- Levels leave on a lane's line. -/
def State.drive (s : State) (p : Plane) (l : Nat) (levels : List Nat) : State :=
  if s.silent p l then s else s.modWire p l (fun x => { x with sent := levels :: x.sent })

/-- Forty blocks of a lane leave as a codeword pair (R36). Under loopback the pair comes back; in far-end loopback the
lane's own data is ignored (Table 2.10). -/
def State.pairSend (s : State) (p : Plane) (l : Nat) : State :=
  let x := s.wire p l
  if x.fill.length < 40 then s else
    let r := pairOut x.scr x.pre x.inj (x.fill.take 40)
    let m := s.loopMode p l
    let levels := if m = 1 then r.1 else invert (s.flag p Fld.LNE_LANE_CFG.TX_INV l) r.1
    let s := s.modWire p l (fun x => { x with
      scr := r.2.1
      pre := r.2.2
      inj := none
      fill := x.fill.drop 40
      loopq := if m = 1 ∨ m = 2 then x.loopq ++ [levels] else x.loopq })
    if m = 3 then s else s.drive p l levels

/-- A block joins the stream of a lane. -/
def State.laneBlock (s : State) (p : Plane) (l : Nat) (b : Block) : State :=
  (s.modWire p l (fun x => { x with fill := x.fill ++ [b] })).pairSend p l

/-- A port block goes to the lane whose turn it is, in ascending order of lane index (R33). -/
def State.deal (s : State) (p : Plane) (i : Nat) (b : Block) : State :=
  let ls := s.txLanes p i
  let t := (s.stream p i).turn % max 1 ls.length
  match ls[t]? with
  | some l => (s.modStream p i (fun x => { x with turn := (t + 1) % max 1 ls.length })).laneBlock p l b
  | none => s

/-- Port blocks in order. -/
def State.dealAll (s : State) (p : Plane) (i : Nat) (bs : List Block) : State := s.each bs (fun b s => s.deal p i b)

/-- IDLE blocks until every lane of the set has had its turn, so that the next position is the same on all of them. -/
def State.roundUp (s : State) (p : Plane) (i : Nat) : State :=
  let n := (s.txLanes p i).length
  let t := (s.stream p i).turn
  if t = 0 then s else s.dealAll p i (List.replicate (n - t) idleBlock)

/-- A slot block at one position of the lanes of a list: each lane's own content, no turn taken (R33). -/
def State.slotAll (s : State) (p : Plane) (i : Nat) (ls : List Nat) (f : Nat → Block) : State :=
  (s.roundUp p i).each ls (fun l s => s.laneBlock p l (f l))

/-- IDLE blocks to the end of the present codeword pair of every lane: a marker opens a pair (R38). -/
def State.pairFill (s : State) (p : Plane) (i : Nat) (ls : List Nat) : State :=
  (s.roundUp p i).each ls (fun l s =>
    let n := (s.wire p l).fill.length
    if n = 0 then s else s.each (List.replicate (40 - n) idleBlock) (fun b s => s.laneBlock p l b))

/-- The port blocks of a packet leave (R34): the transmit side is no longer idle (R61). -/
def State.linePacket (s : State) (p : Plane) (i : Nat) (wh : Bool) (vc : Nat) (k : Packet) : State :=
  (s.modStream p i (fun x => { x with quiet := false })).dealAll p i (packetBlocks wh vc k)

/-- A packet cut short: its SOP, the blocks of the units sent, and an SOP with ABORT (R87, R98). -/
def State.lineAbort (s : State) (p : Plane) (i : Nat) (vc units : Nat) (k : Packet) : State :=
  let bs := (pktBytes k).take (64 * units)
  let b := [ctlBlock bSOP (sopBytes false true vc (unitsOf k))] ++ dataBlocks bs (bs.length / 32 + 1) ++
    [ctlBlock bSOP (sopBytes true false 0 0)]
  (s.modStream p i (fun x => { x with quiet := false })).dealAll p i b

/-- A lane's line code starts afresh: P = 0 before the first symbol, nothing waits (R30). -/
def State.resetWire (s : State) (p : Plane) (l : Nat) : State :=
  s.modWire p l (fun x => { x with
    scr := 0, pre := 0, fill := [], inj := none, rscr := 0, rpre := 0, items := [], loopq := [], since := 0 })

/-! ## PRBS generator (R66) -/

/-- The next `c` levels of the pattern that PRBS_GEN code k sends, from symbol n on, Gray-mapped without precoding, and
the register after them. SSPRQ is as IEEE 802.3 defines it; the two levels of the square wave are the outer ones. -/
def patternOut (k : Nat) : Nat → Nat → Nat → List Nat × Nat
  | 0, _, st => ([], st)
  | c + 1, n, st =>
    let b := prbsRun k 2 st
    let v := if k = 8 then (if n / 8 % 2 = 0 then 3 else 0) else if k = 7 then Config.ssprq n % 4 else (grayOf b.1).headD 0
    let r := patternOut k c (n + 1) b.2
    (v :: r.1, r.2)

/-- PRBS_GEN and PRBS_CHK of a lane (Table 2.15). -/
def State.prbsGen (s : State) (p : Plane) (l : Nat) : Nat :=
  let k := s.fld p Fld.LNE_LANE_CFG.PRBS_GEN l
  if k ≤ 8 then k else 0
def State.prbsChk (s : State) (p : Plane) (l : Nat) : Nat :=
  let k := s.fld p Fld.LNE_LANE_CFG.PRBS_CHK l
  if k ≤ 7 then k else 0

/-- LNE_LANE_CFG has been written: a pattern that changed starts from its beginning, a checker that changed starts without
lock. Where a PRBS starts is not stated: its register holds ones (log entry 116). -/
def State.prbsCfg (s : State) (p : Plane) (l : Nat) (old : Word) : State :=
  let k := s.prbsGen p l
  let s := if k = (s.wire p l).genOn then s
    else s.modWire p l (fun x => { x with genOn := k, gen := 0, genReg := 2 ^ prbsLen k - 1 })
  if s.fld p Fld.LNE_LANE_CFG.PRBS_CHK l = Fld.LNE_LANE_CFG.PRBS_CHK.of old then s
  else (s.modWire p l (fun x => { x with chk := 0, right := 0, wrong := 0, place := 0 })).setFlag p
    Fld.LNE_LANE_STAT.PRBS_LOCK l false

/-- The symbols of one core clock leave a generating lane: 70, at 112 Gbaud. -/
def State.genTick (s : State) (p : Plane) (l : Nat) : State :=
  let x := s.wire p l
  let r := patternOut x.genOn 70 x.gen x.genReg
  (s.modWire p l (fun x => { x with gen := x.gen + 70, genReg := r.2 })).drive p l
    (invert (s.flag p Fld.LNE_LANE_CFG.TX_INV l) r.1)

end Sys2Proof.Machine
end

