-- ==== Sys2Proof/Machine/Match.lean ====
section
/-! DEFINITION. Match rules, capture records and the choice of an injection (R167, R168, R391 to R393). -/

namespace Sys2Proof.Machine

/-- The 16 header bytes of a packet as a number, byte 0 least significant. -/
def hdrNat (k : Packet) : Nat := leNat (hdrBytes14 k.hdr ++ leBytes 2 k.hdr.hcrc.toNat)

/-- Words w to w + 3 of a register as one number. -/
def State.word4 (s : State) (p : Plane) (r : Reg) (i w : Nat) : Nat :=
  (List.range 4).foldr (fun k a => (s.word p r i (w + k)).toNat + 2 ^ 32 * a) 0

/-- Does a packet match rule r at a tap (bit 0 ingress, bit 1 egress) on a code (R391). -/
def State.matches (s : State) (p : Plane) (r tap code : Nat) (k : Packet) : Bool :=
  s.flag p Fld.TST_MATCH.VALID r && bit tap (s.fld p Fld.TST_MATCH.TAP r) &&
  (s.fld p Fld.TST_MATCH.PORT r == 0x7FF || s.fld p Fld.TST_MATCH.PORT r == code) &&
  Nat.land (hdrNat k) (s.word4 p .TST_MATCH r 5) == Nat.land (s.word4 p .TST_MATCH r 1) (s.word4 p .TST_MATCH r 5)

/-- Count a match of rule r; does it count for the rule's actions (every 2^SAMPLE-th, R391). -/
def State.countMatch (s : State) (p : Plane) (r : Nat) : Bool × State :=
  let n := mget 0 r (s.pl p).swc.matchN + 1
  let s := s.count p Fld.TST_MATCH_CNT.N r
  let hit := n % 2 ^ s.fld p Fld.TST_MATCH.SAMPLE r == 0
  (hit, s.modSwc p (fun x => { x with matchN := mset 0 r n x.matchN }))

/-- The rules in order on one packet at one tap: the lowest rule with CAP that counts (plus 1) and the lowest with
INJ_EN that counts (plus 1); 0 for none. -/
def State.tap (s : State) (p : Plane) (t code : Nat) (k : Packet) : Nat × Nat × State :=
  (List.range 32).foldl (fun (a : Nat × Nat × State) r =>
    let (c, i, s) := a
    if s.matches p r t code k then
      let (hit, s) := s.countMatch p r
      (if hit ∧ c = 0 ∧ s.flag p Fld.TST_MATCH.CAP r then r + 1 else c,
       if hit ∧ i = 0 ∧ s.flag p Fld.TST_MATCH.INJ_EN r then r + 1 else i, s)
    else a) (0, 0, s)

/-- The body of a capture record (Table 12.8). -/
def captureBody (k : Packet) (stamp : BitVec 64) (code vc rule : Nat) (disc bad inj : Bool) (cseq : BitVec 32) : Bytes :=
  slice 0 64 (pktBytes k) ++ leBytes 8 stamp.toNat ++ leBytes 2 code ++ leBytes 1 vc ++ leBytes 1 rule ++
    leBytes 4 (lenT k) ++
    leBytes 1 (b2n (decide (lenT k < 64)) + 2 * b2n disc + 4 * b2n bad + 8 * b2n inj) ++ [0, 0, 0] ++
    leBytes 4 cseq.toNat

/-- A capture record enters the staging store of 1,024 records, or is dropped and counted (R168). TYPE 2 ingress,
3 egress. -/
def State.capture (s : State) (p : Plane) (type : Nat) (k : Packet) (stamp : BitVec 64) (code vc rule : Nat)
    (disc bad inj : Bool) : State :=
  let body := captureBody k stamp code vc rule disc bad inj (s.pl p).swc.cseq
  let s := s.modSwc p (fun x => { x with cseq := x.cseq + 1 })
  if (s.pl p).swc.mirror.length < 1024 then
    s.modSwc p (fun x => { x with mirror := x.mirror ++ [(type, s.now p, body)] })
  else s.count p Fld.SWC_MIR_DROP.N 0

/-- The ingress tap, after the routing decision (R167). -/
def State.ingressTap (s : State) (p : Plane) (k : Packet) (stamp : BitVec 64) (code vc : Nat) (disc bad : Bool) :
    State :=
  let (c, _, s) := s.tap p 0 code k
  if c ≠ 0 ∧ s.flag p Fld.SWC_MIR_CFG.ING_EN 0 then s.capture p 2 k stamp code vc (c - 1) disc bad false else s

/-- The injection that applies to a packet copy that selected rule `r` (R393): its KIND, 0 for none. -/
def State.inject (s : State) (p : Plane) (r code : Nat) : Nat × State :=
  if 576 ≤ code then (0, s) else
    let d := s.fld p Fld.TST_MATCH.INJ r
    let n := mget 0 d (s.pl p).swc.injN + 1
    let s := s.modSwc p (fun x => { x with injN := mset 0 d n x.injN })
    let every := max 1 (s.fld p Fld.TST_INJ.EVERY d)
    let left := s.fld p Fld.TST_INJ.LEFT d
    if n % every ≠ 0 ∨ (s.flag p Fld.TST_INJ.LIMIT d ∧ left = 0) then (0, s) else
      let s := s.count p Fld.TST_INJ_CNT.N d
      let s := if s.flag p Fld.TST_INJ.LIMIT d then s.setF p Fld.TST_INJ.LEFT d (left - 1) else s
      (s.fld p Fld.TST_INJ.KIND d, s)

/-- A packet as an injection of a kind changes it (Table 12.9). -/
def injected (kind : Nat) (k : Packet) : Packet :=
  match kind with
  | 3 => { k with hdr := { k.hdr with hcrc := k.hdr.hcrc ^^^ 1 } }
  | 4 => { k with trailer := k.trailer ^^^ 1 }
  | 5 => stomp k
  | _ => k

/-- The 128 bytes of a CAPQ entry (Table 9.12), PHASE apart. -/
def capEntry (type : Nat) (time : BitVec 64) (body : Bytes) : Bytes :=
  [0, BitVec.ofNat 8 type] ++ leBytes 2 body.length ++ [0, 0, 0, 0] ++ leBytes 8 time.toNat ++ slice 0 48 body ++
    [0] ++ slice 48 63 body

/-- Put a record into CAPQ; the caller has seen that there is room. -/
def State.capPush (s : State) (p : Plane) (type : Nat) (time : BitVec 64) (body : Bytes) : State :=
  s.ringWrite p 3 (capEntry type time body) false

/-- MIRROR_RECORD (R168, R285): the oldest record leaves the staging store for CAPQ, if the ring has room. -/
def execMirrorRecord (p : Plane) (s : State) : Res :=
  goOn (s.when (s.live p) (fun s =>
    match (s.pl p).swc.mirror with
    | [] => s
    | (t, tm, body) :: rest =>
      if s.ringRoom p 3 then (s.modSwc p (fun x => { x with mirror := rest })).capPush p t tm body else s))

end Sys2Proof.Machine
end

