-- ==== Sys2Proof/Machine/Switch.lean ====
section
/-! DEFINITION. The switch core (R139 to R161): slices, the shared buffer's accounts, VOQs, cells, resequencers, egress
stages, and the flush of a code. -/

namespace Sys2Proof.Machine

/-! ## Codes and slices -/

/-- A port is enabled; its stage (Table 2.5: 5 Active); its PG is golden (R384). -/
def State.portEn (s : State) (p : Plane) (i : Nat) : Bool := s.flag p Fld.LNE_PORT_CFG.PORT_EN i
def State.stage (s : State) (p : Plane) (i : Nat) : Nat := s.fld p Fld.LNE_PORT_STAT.STAGE i
def State.golden (s : State) (p : Plane) (i : Nat) : Bool := s.flag p Fld.TST_PG_CFG.GOLDEN (i / 32)
def State.portActive (s : State) (p : Plane) (i : Nat) : Bool := s.portEn p i && s.stage p i == 5

/-- A code is in hold-down (R161). -/
def State.inHold (s : State) (p : Plane) (code : Nat) : Bool := (mget none code (s.pl p).swc.hold).isSome

/-- A port code of Table 4.3 is available (R117, R161, R384). -/
def State.codeUp (s : State) (p : Plane) (code : Nat) : Bool :=
  if code < 576 then s.portActive p code && !s.golden p code && !s.inHold p code
  else if code = 576 then s.halUp p && !s.inHold p 576
  else if code = 577 then s.flag p Fld.TOP_PG_STAT.COL_OK 0
  else if code = 578 then s.flag p Fld.TOP_PG_STAT.DSP_OK 0
  else if code = 579 then s.flag p Fld.TOP_PG_STAT.MEM_OK 0
  else code == 580

/-- First slice and number of slices of a code's attachment (Table 5.1). -/
def slicesOf (code : Nat) : Nat × Nat :=
  if code < 576 then (code / 32, 1) else if code = 576 then (18, 4) else if code = 577 then (22, 11)
  else if code = 578 then (33, 8) else if code = 579 then (41, 4) else (45, 1)

/-- The egress slice group of a code: 18 PGs, Halyard, four internal attachments (R141). -/
def groupOf (code : Nat) : Nat := if code < 576 then code / 32 else code - 576 + 18

/-- A code of a slice group, to find its slices. -/
def groupCode (g : Nat) : Nat := if g < 18 then 32 * g else g - 18 + 576

/-- The slice an attachment uses: R139 allows any of its slices; this model takes them in turn by number `n`. -/
def pickSlice (code n : Nat) : Nat := (slicesOf code).1 + n % (slicesOf code).2

/-! ## Accounts -/

/-- The packets in the buffer. -/
def State.bufPkts (s : State) (p : Plane) : List BufPkt := (s.pl p).swc.pkts.filterMap (·.2)

/-- A packet of the buffer by number. -/
def State.pkt? (s : State) (p : Plane) (pid : Nat) : Option BufPkt := mget none pid (s.pl p).swc.pkts

def sumUnits (l : List BufPkt) : Nat := l.foldl (fun a b => a + b.units) 0

/-- Units charged to the guarantee and to the shared pool by one egress queue, and to the multicast account of a VC. -/
def State.guarUsed (s : State) (p : Plane) (code vc : Nat) : Nat :=
  sumUnits ((s.bufPkts p).filter (fun b => !b.mc && b.acct == .guar && b.qcode == code && b.qvc == vc))
def State.sharedUsed (s : State) (p : Plane) (code vc : Nat) : Nat :=
  sumUnits ((s.bufPkts p).filter (fun b => !b.mc && b.acct == .shared && b.qcode == code && b.qvc == vc))
def State.mcUsed (s : State) (p : Plane) (vc : Nat) : Nat :=
  sumUnits ((s.bufPkts p).filter (fun b => b.mc && b.acct == .shared && b.qvc == vc && !b.left))

/-- POOL_USED: units charged to the shared pool and the multicast account (R144); a multicast packet's units are freed when
its last copy has left the buffer (R150). -/
def State.poolUsed (s : State) (p : Plane) : Nat :=
  sumUnits ((s.bufPkts p).filter (fun b => b.acct == .shared && !(b.mc && b.left)))

/-- Units of packets held against a credit reserve or the Halyard reserve (Table 5.12). -/
def State.heldUnits (s : State) (p : Plane) : Nat :=
  sumUnits ((s.bufPkts p).filter (fun b => b.acct == .held && !b.left))

/-- Key of the egress stage of a code and VC. -/
def stageKey (code vc : Nat) : Nat := 16 * code + vc

/-- The packet beside the switch core that a delay injection holds at the head of a VC of a port, and its units. -/
def State.side (s : State) (p : Plane) (code vc : Nat) : Option SideEnt := mget none (stageKey code vc) (s.pl p).swc.side
def State.setSide (s : State) (p : Plane) (code vc : Nat) (e : Option SideEnt) : State :=
  s.modSwc p (fun x => { x with side := mset none (stageKey code vc) e x.side })
def State.sideUnits (s : State) (p : Plane) (code vc : Nat) : Nat :=
  ((s.side p code vc).map (fun e => unitsOf e.pkt)).getD 0

/-- Q of an egress queue in units (R147). -/
def State.qdepth (s : State) (p : Plane) (code vc : Nat) : Nat :=
  sumUnits ((s.bufPkts p).filter (fun b => b.codes.contains code && b.qvc == vc)) + s.sideUnits p code vc

/-- Width code of a port (Table 2.14): 0 to 4 for 1 to 16 lanes; above 4 acts as 4. -/
def State.widthCode (s : State) (p : Plane) (i : Nat) : Nat := min 4 (s.fld p Fld.LNE_PORT_CFG.WIDTH i)

/-- ADV of a width code, and of the escape VC; values below 129 act as 129 (Table 3.14). -/
def advFld : Nat → Fld
  | 0 => Fld.LFP_CRED_ADV0.ADV
  | 1 => Fld.LFP_CRED_ADV1.ADV
  | 2 => Fld.LFP_CRED_ADV2.ADV
  | 3 => Fld.LFP_CRED_ADV3.ADV
  | _ => Fld.LFP_CRED_ADV4.ADV
def State.advOf (s : State) (p : Plane) (w : Nat) : Nat := max 129 (s.fld p (advFld w) 0)
def State.advEsc (s : State) (p : Plane) : Nat := max 129 (s.fld p Fld.LFP_CRED_ESC.ADV 0)
def State.halAdv (s : State) (p : Plane) : Nat := max 129 (s.fld p Fld.SWC_HAL_CFG.HAL_ADV 0)

/-- The credit reserve of one port: 8 × ADVw + ESC. -/
def State.portReserve (s : State) (p : Plane) (i : Nat) : Nat := 8 * s.advOf p (s.widthCode p i) + s.advEsc p

/-- The enabled ports of a plane, and the Active ones. A port whose LNE_PORT_CFG is at reset is disabled. -/
def State.enabledPorts (s : State) (p : Plane) : List Nat := (s.rows p .LNE_PORT_CFG 0).filter (s.portEn p)
def State.activePorts (s : State) (p : Plane) : List Nat := (s.rows p .LNE_PORT_CFG 0).filter (s.portActive p)

/-- GUAR_EFF as the last commit set it (R143). -/
def State.guarEff (s : State) (p : Plane) : Nat := s.fld p Fld.SWC_BUF_STAT.GUAR_EFF 0

/-- POOL_SIZE (R144): what remains of the buffer; 0 where negative. -/
def State.poolSize (s : State) (p : Plane) : Nat :=
  4194304 - (32768 + 9 * s.halAdv p + ((s.activePorts p).map (s.portReserve p)).sum +
    s.guarEff p * 9 * ((s.enabledPorts p).length + 5))

/-- Free pool space F (R144). -/
def State.poolFree (s : State) (p : Plane) : Nat := s.poolSize p - s.poolUsed p

/-- ALPHA code of a VC, and of multicast (Table 5.11). -/
def State.alphaOf (s : State) (p : Plane) (vc : Nat) : Nat :=
  if 8 ≤ vc then s.fld p Fld.SWC_ALPHA.ALPHA8 0 else bits (3 * vc + 2) (3 * vc) (s.fld p Fld.SWC_ALPHA.ALPHAS 0)
def State.alphaMc (s : State) (p : Plane) : Nat := s.fld p Fld.SWC_ALPHA.ALPHA_MC 0

/-- The shared test: held + u ≤ α × F with α = 2^code / 16 (Table 5.2). -/
def sharedFits (alpha held u free : Nat) : Bool := decide (16 * (held + u) ≤ 2 ^ alpha * free)

/-- The account a packet of `u` units is charged to (R145, R150); `none` where neither the guarantee nor the pool takes
it. -/
def State.account (s : State) (p : Plane) (mc : Bool) (code vc u : Nat) : Option Acct :=
  if mc then
    if sharedFits (s.alphaMc p) (s.mcUsed p vc) u (s.poolFree p) then some .shared else none
  else if s.guarUsed p code vc + u ≤ s.guarEff p then some .guar
  else if sharedFits (s.alphaOf p vc) (s.sharedUsed p code vc) u (s.poolFree p) then some .shared
  else none

/-! ## Credits of the ingress side -/

/-- Key of a credit counter set: a port's first lane, or 576 for Halyard, and the VC. -/
def credKey (i vc : Nat) : Nat := 16 * i + vc
def State.cred (s : State) (p : Plane) (i vc : Nat) : Credit := mget {} (credKey i vc) (s.pl p).lfp.credits
def State.modCred (s : State) (p : Plane) (i vc : Nat) (f : Credit → Credit) : State :=
  s.modLfp p (fun x => { x with credits := mmod {} (credKey i vc) f x.credits })
def State.link (s : State) (p : Plane) (i : Nat) : LinkSt := mget {} i (s.pl p).lfp.links
def State.modLink (s : State) (p : Plane) (i : Nat) (f : LinkSt → LinkSt) : State :=
  s.modLfp p (fun x => { x with links := mmod {} i f x.links })

/-- FREED advances by u; a decrease of ADV not yet absorbed is taken off ADV first (R92, R95). -/
def Credit.free (u : Nat) (c : Credit) : Credit :=
  let k := min c.owe u
  { c with freed := c.freed + BitVec.ofNat 16 u, adv := c.adv - BitVec.ofNat 16 k, owe := c.owe - k }

/-- LIMIT = ADV + FREED, and the credit available to the sender (R92). -/
def Credit.limit (c : Credit) : BitVec 16 := c.adv + c.freed
def Credit.avail (c : Credit) : Nat := (c.limRx - c.sent).toNat
/-- The receiver's own view, LIMIT − RECV (R94). -/
def Credit.rxAvail (c : Credit) : Nat := (c.limit - c.recv).toNat

/-- The credit of a packet from a fabric port or Halyard is freed, unless the port's counters have restarted since
(R146). -/
def State.freeCredit (s : State) (p : Plane) (src vc u sess : Nat) : State :=
  if src ≤ 576 ∧ (s.link p src).sess = sess then s.modCred p src vc (Credit.free u) else s

/-! ## The buffer -/

def voqKey (slice t vc : Nat) : Nat := 16384 * slice + 16 * t + vc
def voqTarget (key : Nat) : Nat := key % 16384 / 16
def voqVc (key : Nat) : Nat := key % 16
def voqSlice (key : Nat) : Nat := key / 16384

def State.voq (s : State) (p : Plane) (key : Nat) : List VoqEnt := mget [] key (s.pl p).swc.voqs
def State.setVoq (s : State) (p : Plane) (key : Nat) (l : List VoqEnt) : State :=
  s.modSwc p (fun x => { x with voqs := mset [] key l x.voqs })
def State.stg (s : State) (p : Plane) (code vc : Nat) : List StageEnt := mget [] (stageKey code vc) (s.pl p).swc.stages
def State.setStg (s : State) (p : Plane) (code vc : Nat) (l : List StageEnt) : State :=
  s.modSwc p (fun x => { x with stages := mset [] (stageKey code vc) l x.stages
                                deficit := if l.isEmpty then mset 0 (stageKey code vc) 0 x.deficit else x.deficit })
def State.setPkt (s : State) (p : Plane) (pid : Nat) (b : Option BufPkt) : State :=
  s.modSwc p (fun x => { x with pkts := mset none pid b x.pkts })
def State.tx? (s : State) (p : Plane) (code : Nat) : Option TxProg := mget none code (s.pl p).swc.txing
def State.setTx (s : State) (p : Plane) (code : Nat) (t : Option TxProg) : State :=
  s.modSwc p (fun x => { x with txing := mset none code t x.txing })

/-- The packet's last unit has left the shared buffer: a held packet frees its credit now (R146). -/
def State.leaveBuffer (s : State) (p : Plane) (pid : Nat) : State :=
  match s.pkt? p pid with
  | some b =>
    if b.left then s else
      let s := s.setPkt p pid (some { b with left := true })
      if b.acct = .held then s.freeCredit p b.src b.vcIn (b.units - b.owed) b.sess else s
  | none => s

/-- A multicast packet that stands in no VOQ any more has left the buffer (R146, R150). -/
def State.leaveIfGone (s : State) (p : Plane) (pid : Nat) : State :=
  if (s.pl p).swc.voqs.any (fun v => v.2.any (fun x => x.pid == pid)) then s else s.leaveBuffer p pid

/-- One copy of a packet has left or is discarded; with the last copy the packet leaves the buffer and its charge ends
(R146, R147, R150). -/
def State.dropCopy (s : State) (p : Plane) (pid code : Nat) : State :=
  match s.pkt? p pid with
  | some b =>
    let codes := b.codes.filter (· ≠ code)
    if codes.isEmpty then (s.leaveBuffer p pid).setPkt p pid none
    else s.setPkt p pid (some { b with codes := codes })
  | none => s

/-- Put a packet into its VOQs: one for a unicast packet, one per slice group for a multicast packet (R141). -/
def State.enterVoqs (s : State) (p : Plane) (pid : Nat) (b : BufPkt) : State :=
  let s := s.setPkt p pid (some b)
  let targets := if b.mc then (dedup (b.codes.map groupOf)).map (· + 1000) else [b.qcode]
  s.each targets (fun t s =>
    let k := voqKey b.slice t b.qvc
    s.setVoq p k (s.voq p k ++ [⟨pid, 0, none⟩]))

/-- The buffer has no room for a packet (R148): its credit is freed at once, the discard counted and raised. -/
def State.overflow (s : State) (p : Plane) (b : BufPkt) : State :=
  let s := s.freeCredit p b.src b.vcIn (b.units - b.owed) b.sess
  let s := s.count p Fld.SWC_OVF_DISC.N 0
  let s := s.raise p 0x0402 (wn b.src) []
  s.logError p 0x11 b.src 0 0 0

/-- A packet enters its queue (R145, R146, R148, R150): charged to the guarantee or the pool, held, or, from an engine or
the Canton, kept for retry. Room is taken by the packets that have not left the buffer. -/
def State.enqueue (s : State) (p : Plane) (b : BufPkt) : State :=
  if 4194304 < sumUnits ((s.bufPkts p).filter (fun x => !x.left)) + b.units then s.overflow p b else
    let blocked := decide (576 < b.src) &&
      (s.pl p).swc.kept.any (fun k => k.pkt.src == b.src && k.pkt.qcode == b.qcode && k.pkt.qvc == b.qvc)
    let pid := (s.pl p).swc.nextPid
    match if blocked then none else s.account p b.mc b.qcode b.qvc b.units with
    | some a =>
      let s := s.modSwc p (fun x => { x with nextPid := pid + 1 })
      let s := s.enterVoqs p pid { b with acct := a, slice := pickSlice b.src pid }
      s.freeCredit p b.src b.vcIn (b.units - b.owed) b.sess
    | none =>
      if 576 < b.src then s.modSwc p (fun x => { x with kept := x.kept ++ [⟨b⟩] })
      else
        let s := s.modSwc p (fun x => { x with nextPid := pid + 1 })
        s.enterVoqs p pid { b with acct := .held, slice := pickSlice b.src pid }

/-- Each cell time an engine or the Canton retries the packets it keeps, oldest first (R145 step 3). -/
def State.retryKept (s : State) (p : Plane) : State :=
  let l := (s.pl p).swc.kept
  (s.modSwc p (fun x => { x with kept := [] })).each l (fun k s => s.enqueue p k.pkt)

/-! ## Discards inside the plane -/

/-- Take a packet copy out of every VOQ and stage where it stands: `t` is its VOQ target. -/
def State.purgeCopy (s : State) (p : Plane) (pid code : Nat) : State :=
  match s.pkt? p pid with
  | none => s
  | some b =>
    let rest := b.codes.filter (· ≠ code)
    let t := if b.mc then 1000 + groupOf code else b.qcode
    let gone := !b.mc || !(rest.any (fun c => groupOf c == groupOf code))
    let k := voqKey b.slice t b.qvc
    let s := if gone then (s.setVoq p k ((s.voq p k).filter (fun e => e.pid ≠ pid))).leaveIfGone p pid else s
    let s := if (s.stg p code b.qvc).any (fun e => e.pid == pid) then
      s.setStg p code b.qvc ((s.stg p code b.qvc).filter (fun e => e.pid ≠ pid)) else s
    s.dropCopy p pid code

/-- Packets beside the switch core that a code holds. -/
def State.sideCount (s : State) (p : Plane) (code : Nat) : Nat :=
  ((List.range 9).filter (fun v => (s.side p code v).isSome)).length

/-- No wormhole packet is in progress on a port any more (Table 3.16). -/
def State.endWh (s : State) (p : Plane) (code : Nat) : State :=
  if code < 576 then s.setFlag p Fld.LFP_PORT_STAT.WH_TX code false else s

/-- The flush of a code that has become unavailable (R160): every packet in its VOQs and egress stage is discarded and
counted once, one that a delay holds beside them too; kept packets for it as they arrive, a kept multicast packet losing its copy; a packet in transmission ends
where the link ends. -/
def State.flushCode (s : State) (p : Plane) (code : Nat) : State :=
  let busy := (s.tx? p code).map (·.pid)
  let s := match busy with
    | some pid => ((s.purgeCopy p pid code).setTx p code none).endWh p code
    | none => s
  let pids := ((s.pl p).swc.pkts.filter (fun e =>
    match e.2 with
    | some b => b.codes.contains code
    | none => false)).map (·.1)
  let s := s.each pids (fun pid s =>
    ((s.purgeCopy p pid code).count p Fld.SWC_FLUSH_DISC.N 0).count p Fld.SWC_PORT_FLUSH.N code)
  let n := ((s.pl p).swc.kept.filter (fun k => k.pkt.codes.contains code)).length + s.sideCount p code
  let s := s.modSwc p (fun x => { x with
    side := x.side.filter (fun e => e.1 / 16 != code)
    kept := (x.kept.map (fun k => ⟨{ k.pkt with codes := k.pkt.codes.filter (· ≠ code) }⟩)).filter
      (fun k => !k.pkt.codes.isEmpty)
    deficit := x.deficit.filter (fun e => e.1 / 16 != code)
    turn := mset 0 code 0 x.turn })
  (s.countN p Fld.SWC_FLUSH_DISC.N 0 n).countN p Fld.SWC_PORT_FLUSH.N code n

/-! ## Hold-down -/

/-- Hold-down of a code begins, unless HOLD_DOWN is 0 (R161). -/
def State.startHold (s : State) (p : Plane) (code : Nat) : State :=
  let h := s.fld p Fld.SWC_EGR_CFG.HOLD_DOWN 0
  if h = 0 then s else
    (s.modSwc p (fun x => { x with hold := mset none code (some (s.ticks + h * 160000)) x.hold })).setFlag p
      Fld.SWC_PORT_STAT.HOLD code true

/-- Hold-down ends without an event: the port left Active, or Halyard failed, during it. -/
def State.cancelHold (s : State) (p : Plane) (code : Nat) : State :=
  (s.modSwc p (fun x => { x with hold := mset none code none x.hold })).setFlag p Fld.SWC_PORT_STAT.HOLD code false

/-- Hold-down ends and the code becomes available: PORT_AVAILABLE (R161). -/
def State.endHold (s : State) (p : Plane) (code : Nat) : State :=
  if s.inHold p code then (s.cancelHold p code).raise p 0x0403 (wn code) [] else s

/-- MAX_RES in core clocks (R85); 0 acts as 1. -/
def State.maxRes (s : State) (p : Plane) : Nat := max 1 (s.fld p Fld.LFP_GLB_CFG.MAX_RES 0) * 1600

/-- Has a packet that arrived at tick `arr` waited longer than MAX_RES. -/
def State.aged (s : State) (p : Plane) (arr : Nat) : Bool := decide (arr + s.maxRes p < s.ticks)

/-- Discard a copy for its age (R85). -/
def State.ageDiscard (s : State) (p : Plane) (pid code : Nat) : State :=
  (s.purgeCopy p pid code).count p Fld.LFP_AGE_DISC.N 0

/-! ## Cell time -/

/-- The member codes of a multicast packet's copy in one slice group that have not left. -/
def groupCodes (b : BufPkt) (g : Nat) : List Nat := b.codes.filter (fun c => groupOf c == g)

/-- New heads of one VOQ: the residence check of R159, copy by copy; the head that stays is stamped. -/
def State.headCheck : Nat → State → Plane → Nat → State
  | 0, s, _, _ => s
  | n + 1, s, p, key =>
    match s.voq p key with
    | e :: rest =>
      if e.head.isSome then s else
        match s.pkt? p e.pid with
        | some b =>
          if s.aged p b.arr then
            let t := voqTarget key
            let codes := if t < 1000 then [t] else groupCodes b (t - 1000)
            let s := s.each codes (fun c s => s.purgeCopy p e.pid c)
            State.headCheck n ((s.count p Fld.LFP_AGE_DISC.N 0).setVoq p key rest) p key
          else s.setVoq p key ({ e with head := some s.ticks } :: rest)
        | none => State.headCheck n (s.setVoq p key rest) p key
    | [] => s

/-- STAGE_HI; values below 129 act as 129. Units in an egress stage. -/
def State.stageHi (s : State) (p : Plane) : Nat := max 129 (s.fld p Fld.SWC_EGR_CFG.STAGE_HI 0)
def State.stageUnits (s : State) (p : Plane) (code vc : Nat) : Nat :=
  (s.stg p code vc).foldl (fun a e => a + e.have_) 0

/-- An engine's code is awake: the engine is powered (R357). -/
def State.awake (s : State) (p : Plane) (code : Nat) : Bool :=
  if code = 577 then s.flag p Fld.EPC_GATE_STAT.COL_PWR 0
  else if code = 578 then s.flag p Fld.EPC_GATE_STAT.DSP_PWR 0
  else if code = 579 then s.flag p Fld.EPC_GATE_STAT.MEM_PWR 0
  else true

/-- Eligibility of a VOQ (R152); packets for a gated engine wait (R357). -/
def State.eligible (s : State) (p : Plane) (key : Nat) : Bool :=
  let t := voqTarget key
  let vc := voqVc key
  if t < 1000 then s.codeUp p t && s.awake p t && decide (s.stageUnits p t vc < s.stageHi p)
  else match s.voq p key with
    | e :: _ =>
      match s.pkt? p e.pid with
      | some b =>
        let up := (groupCodes b (t - 1000)).filter (fun c => s.codeUp p c)
        !up.isEmpty && up.all (fun c => decide (s.stageUnits p c vc < s.stageHi p))
      | none => false
    | [] => false

/-- The egress slice group that a VOQ's cells go to, and the group that a slice belongs to (Table 5.1). -/
def voqGroup (key : Nat) : Nat :=
  let t := voqTarget key
  if t < 1000 then groupOf t else t - 1000
def sliceGroup (e : Nat) : Nat :=
  if e < 18 then e else if e < 22 then 18 else if e < 33 then 19 else if e < 41 then 20 else if e < 45 then 21 else 22

/-- Units queued in a VOQ that have come (R87: the rest of a packet whose head has gone on is still on its way). -/
def State.voqUnits (s : State) (p : Plane) (key : Nat) : Nat :=
  (s.voq p key).foldl (fun a e => a + (match s.pkt? p e.pid with | some b => b.units - b.todo - e.gone | none => 0)) 0

/-- A demand of the matcher: ingress slice, egress slice, cells asked for. -/
structure Demand where
  src : Nat
  dst : Nat
  n   : Nat
  deriving DecidableEq, Repr

/-- cells_eligible of R151 by ingress slice and egress slice group, for the pairs that have any. -/
def State.groupDemands (s : State) (p : Plane) (keys : List Nat) : List Demand :=
  keys.foldl (fun l k =>
    let i := voqSlice k
    let g := voqGroup k
    let c := (s.voqUnits p k + 3) / 4
    if l.any (fun d => d.src == i && d.dst == g) then
      l.map (fun d => if d.src == i && d.dst == g then { d with n := d.n + c } else d)
    else l ++ [⟨i, g, c⟩]) []

/-- The requests of a pair dealt across the slices of its attachment in proportion, the first slices taking what is left
over. -/
def dealDemand (d : Demand) : List Demand :=
  let sl := slicesOf (groupCode d.dst)
  (List.range sl.2).filterMap (fun j =>
    let n := d.n / sl.2 + b2n (decide (j < d.n % sl.2))
    if n = 0 then none else some ⟨d.src, sl.1 + j, n⟩)

/-- What the matcher is asked for. -/
def State.demands (s : State) (p : Plane) (keys : List Nat) : List Demand := (s.groupDemands p keys).flatMap dealDemand

/-- The state of a match in one cell time: cells matched, room left per ingress and egress slice, pointers. -/
structure MatchSt where
  got  : List Demand
  inR  : SMap Nat
  outR : SMap Nat
  gptr : SMap Nat
  aptr : SMap Nat

def matchedOf (l : List Demand) (i e : Nat) : Nat :=
  l.foldl (fun a d => if d.src = i ∧ d.dst = e then a + d.n else a) 0

/-- The numbers 0 to 45 from `k`, round robin. -/
def ring46 (k : Nat) : List Nat := (List.range 46).map (fun j => (k + j) % 46)

/-- One round of request, grant and accept (R151). Room is kept as what is used of `n`. -/
def matchRound (n : Nat) (ds : List Demand) (first : Bool) (m : MatchSt) : MatchSt :=
  let req := fun i e => min (matchedOf ds i e - matchedOf m.got i e) (n - mget 0 i m.inR)
  let dsts := sortNat (dedup (ds.map (·.dst)))
  let srcs := sortNat (dedup (ds.map (·.src)))
  let grants : List Demand := dsts.flatMap (fun e =>
    ((ring46 (mget 0 e m.gptr)).foldl (fun (a : Nat × List Demand) i =>
      let g := min (req i e) a.1
      if g = 0 then a else (a.1 - g, a.2 ++ [⟨i, e, g⟩])) (n - mget 0 e m.outR, [])).2)
  srcs.foldl (fun m i =>
    ((ring46 (mget 0 i m.aptr)).foldl (fun (a : MatchSt × Bool) e =>
      let m := a.1
      let take := min (matchedOf grants i e) (n - mget 0 i m.inR)
      if take = 0 then a else
        let m := { m with
          got := m.got ++ [⟨i, e, take⟩]
          inR := mmod 0 i (· + take) m.inR
          outR := mmod 0 e (· + take) m.outR }
        if first ∧ a.2 = false then
          ({ m with aptr := mset 0 i ((e + 1) % 46) m.aptr, gptr := mset 0 e ((i + 1) % 46) m.gptr }, true)
        else (m, a.2)) (m, false)).1) m

/-- Working spine elements n (R140), and their numbers. -/
def State.spineN (s : State) (p : Plane) : Nat := s.fld p Fld.SWC_SPINE_STAT.N 0
def State.spineElems (s : State) (p : Plane) : List Nat := onesOf 24 (s.fld p Fld.SWC_SPINE_STAT.ELEM_OK 0)

/-- A cell of the match with its element: ingress slice, egress slice, element. -/
structure Placed where
  src  : Nat
  dst  : Nat
  elem : Nat
  deriving DecidableEq, Repr

/-- The cell that uses element `a` at a slice: an ingress slice where `side` holds, else an egress slice. -/
def placedAt (l : List Placed) (side : Bool) (v a : Nat) : Option Placed :=
  l.find? (fun x => (if side then x.src else x.dst) == v && x.elem == a)

/-- Elements a and b change places along the chain of cells that starts at a slice with element a. -/
def swapChain : Nat → List Placed → Bool → Nat → Nat → Nat → List Placed
  | 0, l, _, _, _, _ => l
  | f + 1, l, side, v, a, b =>
    match placedAt l side v a with
    | none => l
    | some x =>
      let l := swapChain f l (!side) (if side then x.dst else x.src) b a
      l.map (fun y => if y = x then { y with elem := b } else y)

/-- One more cell gets an element that neither of its slices uses; where no element is free at both, a chain is changed
to free one (R154: an assignment always exists). -/
def placeCell (elems : List Nat) (l : List Placed) (i e : Nat) : List Placed :=
  let a := (elems.find? (fun c => (placedAt l true i c).isNone)).getD 0
  let b := (elems.find? (fun c => (placedAt l false e c).isNone)).getD 0
  let l := if (placedAt l false e a).isSome then swapChain (l.length + 1) l false e a b else l
  l ++ [⟨i, e, a⟩]

/-- The element assignment of a cell time: no element serves two cells of one ingress slice or of one egress slice. -/
def assignElements (elems : List Nat) (cells : List (Nat × Nat)) : List Placed :=
  cells.foldl (fun l c => placeCell elems l c.1 c.2) []

/-- Take up to `room` units from the front of a VOQ into one cell (R153): consecutive units, of one packet only for a
multicast packet. -/
def State.cellFill : Nat → State → Plane → Nat → Nat → List CellPart → List CellPart × State
  | 0, s, _, _, _, acc => (acc, s)
  | f + 1, s, p, key, room, acc =>
    match s.voq p key with
    | e :: rest =>
      match s.pkt? p e.pid with
      | some b =>
        let k := min room (b.units - b.todo - e.gone)
        if k = 0 then (acc, s) else
          let acc := acc ++ [⟨e.pid, k, e.gone⟩]
          if e.gone + k < b.units then (acc, s.setVoq p key ({ e with gone := e.gone + k } :: rest))
          else
            let s := (s.setVoq p key rest).leaveIfGone p e.pid
            if b.mc then (acc, s)
            else State.cellFill f (s.headCheck (rest.length + 1) p key) p key (room - k) acc
      | none => State.cellFill f (s.setVoq p key rest) p key room acc
    | [] => (acc, s)

/-- The VOQ that fills the next cell of a pair (R153): VC 8 first, then the head with the earliest arrival. -/
def State.voqChoice (s : State) (p : Plane) (keys : List Nat) : Option Nat :=
  let arr := fun (k : Nat) => match s.voq p k with
    | e :: _ => (s.pkt? p e.pid).map BufPkt.arr
    | [] => none
  let live := keys.filter (fun k => (arr k).isSome)
  match live.find? (fun k => voqVc k == 8) with
  | some k => some k
  | none => live.foldl (fun a k =>
      match a with
      | none => some k
      | some j => if (arr k).getD 0 < (arr j).getD 0 then some k else some j) none

/-- The earliest arrival among the packets that start in a cell; that of the VOQ's head where none does. -/
def State.cellArr (s : State) (p : Plane) (head : Nat) (parts : List CellPart) : Nat :=
  match (parts.filter (fun q => q.off == 0)).filterMap (fun q => (s.pkt? p q.pid).map BufPkt.arr) with
  | [] => head
  | a :: l => l.foldl min a

/-- One accepted cell of a pair is filled and sent across the spine by element `el`. -/
def State.sendCell (s : State) (p : Plane) (keys : List Nat) (i e el : Nat) : State :=
  match s.voqChoice p (keys.filter (fun k => voqSlice k == i && voqGroup k == sliceGroup e)) with
  | none => s
  | some key =>
    let t := voqTarget key
    let head := (s.voq p key).head?.bind (fun x => s.pkt? p x.pid)
    let codes := if t < 1000 then [t] else match head with
      | some b => groupCodes b (t - 1000)
      | none => []
    let arr := (head.map BufPkt.arr).getD s.ticks
    let s0 := s
    let (parts, s) := s.cellFill 5 p key 4 []
    let pair := 64 * i + e
    let seq := mget 0 pair (s.pl p).swc.pseqTx
    let inCell := parts.filterMap (fun q => s0.pkt? p q.pid)
    let c : Cell := ⟨i, e, seq, voqVc key, decide (1000 ≤ t), codes, parts, s0.cellArr p arr parts, el,
      inCell.any (·.old), inCell.any (·.bad)⟩
    if parts.isEmpty then s else s.modSwc p (fun x => { x with flight := x.flight ++ [c], pseqTx := mset 0 pair (seq + 1) x.pseqTx })

/-- A cell time (R151 to R155): kept packets are retried, new heads checked, three rounds matched and the cells sent. -/
def State.cellStep (s : State) (p : Plane) : State :=
  let s := s.retryKept p
  let s := s.each ((s.pl p).swc.voqs.map (·.1)) (fun k s => s.headCheck ((s.voq p k).length + 1) p k)
  let keys := ((s.pl p).swc.voqs.map (·.1)).filter (s.eligible p)
  let ds := s.demands p keys
  let n := s.spineN p
  let m0 : MatchSt := ⟨[], [], [], (s.pl p).swc.gptr, (s.pl p).swc.aptr⟩
  let m := matchRound n ds false (matchRound n ds false (matchRound n ds true m0))
  let s := s.modSwc p (fun x => { x with gptr := m.gptr, aptr := m.aptr })
  let cells := m.got.flatMap (fun d => List.replicate d.n (d.src, d.dst))
  s.each (assignElements (s.spineElems p) cells) (fun c s => s.sendCell p keys c.src c.dst c.elem)

/-- Start of packet bits and unit count of a cell. -/
def Cell.sopm (c : Cell) : Nat :=
  (c.parts.foldl (fun a q => (a.1 + q.count, if q.off = 0 then a.2 + 2 ^ a.1 else a.2)) (0, 0)).2
def Cell.units (c : Cell) : Nat := c.parts.foldl (fun a q => a + q.count) 0

/-- Member mask of a cell: by first lane within the egress PG, bit 0 of another attachment; 0 for unicast. -/
def Cell.mask (c : Cell) : Nat :=
  if c.mc then maskOf 32 (fun k => c.codes.any (fun d => (if d < 576 then d % 32 else 0) == k)) else 0

/-- The 16-byte header of a cell (Table 5.4, R155). The arrival is in core clocks of 0.625 ns; ARR_TS counts 16 ns. -/
def Cell.header (c : Cell) : Bytes :=
  let b := [BitVec.ofNat 8 (4 * c.src), BitVec.ofNat 8 (4 * c.dst + 2 * b2n c.mc + b2n c.gen)] ++
    leBytes 2 (16 * c.pseq.toNat + c.vc) ++ leBytes 2 (if c.mc then 0x7FF else c.codes.headD 0x7FF) ++
    [BitVec.ofNat 8 (16 * c.sopm + (c.units - 1)), BitVec.ofNat 8 (128 * b2n c.bad)] ++ leBytes 4 c.mask ++
    leBytes 2 (c.arr * 5 / 128)
  b ++ leBytes 2 (crcMsb 16 0x1021 0xFFFF b)

/-! ## Leaving the plane -/

/-- The header as it leaves (Table 3.3): HOPS, VC 8 after a move, CE, PTR, HCRC. -/
def departing (k : Packet) (vc : Nat) (ce : Bool) : Packet :=
  withHcrc { k with
    hdr := { k.hdr with hops := k.hdr.hops + 1, vc := if vc = 8 then 8 else k.hdr.vc, ce := k.hdr.ce || ce }
    ext := if k.hdr.path then { k.ext with ptr := k.ext.ptr + 1 } else k.ext }

/-- Does the marking rule of R107 set CE at depth q (units); between the limits a free value decides. -/
def State.ceMark (s : State) (p : Plane) (q : Nat) : Bool × State :=
  let lo := 16 * s.fld p Fld.LFP_CE_CFG.CE_MIN 0
  let hi := 16 * s.fld p Fld.LFP_CE_CFG.CE_MAX 0
  if lo = 0 then (false, s)
  else if hi ≤ lo then (decide (lo ≤ q), s)
  else if q < lo then (false, s)
  else if hi ≤ q then (true, s)
  else
    let (f, s) := s.takeFree
    (decide (Config.freeNat f % (hi - lo) < q - lo), s)

/-- Congestion map counts of a departing packet (Table 4.9). -/
def State.countTx (s : State) (p : Plane) (code : Nat) (ceSet : Bool) : State :=
  if 576 < code then s else
    s.modRte p (fun x => { x with bins := mmod {} code (fun b => { b with tx := b.tx + 1, ce := b.ce + b2n ceSet }) x.bins })

/-- The four-unit pieces of a packet as Halyard flits carry them (Table 5.6). -/
def halPieces (bs : Bytes) : Nat → List (Bytes × Nat)
  | 0 => []
  | f + 1 => if bs.isEmpty then [] else (slice 0 256 bs, min 4 ((bs.length + 63) / 64)) :: halPieces (bs.drop 256) f

/-- LIMIT per VC that a plane grants over Halyard (R164). -/
def State.halCounts (s : State) (p : Plane) : List (BitVec 16) := (List.range 9).map (fun v => (s.cred p 576 v).limit)

/-- The LIMITs that a flit carries have been told. -/
def State.halTold (s : State) (p : Plane) : State :=
  s.each (List.range 9) (fun v s => s.modCred p 576 v (fun c => { c with told := c.limit }))

/-- A flit joins the store with the next TX_SEQ: every flit carries one and is kept until it is acknowledged (R163). -/
def State.halKeep (s : State) (p : Plane) (f : HalFlit) : State :=
  (s.modSwc p (fun x => { x with hal := { x.hal with
    txSeq := x.hal.txSeq + 1, store := x.hal.store ++ [f], heard := 0 } })).halTold p

/-- A flit as it would leave now. -/
def State.halForm (s : State) (p : Plane) (data : Bytes) (vc sopm nu kind : Nat) (nak : Bool) : HalFlit :=
  let h := (s.pl p).swc.hal
  ⟨data, h.txSeq, BitVec.ofNat 4 vc, h.rxSeq, nak, BitVec.ofNat 3 kind, BitVec.ofNat 4 sopm, BitVec.ofNat 2 nu, false,
    s.halCounts p, true⟩

/-- A Halyard flit leaves with the next TX_SEQ and is kept for resend (R163). -/
def State.halSend (s : State) (p : Plane) (data : Bytes) (vc : Nat) (sopm nu : Nat) (kind : Nat) (nak : Bool) : State :=
  let f := s.halForm p data vc sopm nu kind nak
  (s.halKeep p f).emit (.halFlit p f)

/-- A flit may leave: fewer than 2,048 wait for their acknowledgment (R163). -/
def State.halRoom (s : State) (p : Plane) : Bool := decide ((s.pl p).swc.hal.store.length < 2048)

/-- A control flit leaves: CLASS and data, in a flit of KIND 1 that is numbered and kept as any other. -/
def State.halCtlOut (s : State) (p : Plane) (cls : Byte) (data : Bytes) : State :=
  (s.halKeep p (s.halForm p (slice 0 256 (cls :: data)) 0 0 0 1 false)).emit (.halCtl p cls data)

/-- A control flit (R165), while Halyard is up and the plane's logic runs; it waits while the store is full, and is never
discarded. -/
def State.halControl (s : State) (p : Plane) (cls : Byte) (data : Bytes) : State :=
  if s.halUp p ∧ s.live p then
    if s.halRoom p then s.halCtlOut p cls data
    else s.modSwc p (fun x => { x with hal := { x.hal with ctl := x.hal.ctl ++ [(cls, data)] } })
  else s

/-- A packet crosses Halyard in flits of up to 4 units; the first unit starts it. -/
def State.halPacket (s : State) (p : Plane) (vc : Nat) (k : Packet) : State :=
  let bs := pktBytes k
  let ps := halPieces bs (bs.length / 256 + 1)
  (ps.zipIdx).foldl (fun s e => s.halSend p e.1.1 vc (if e.2 = 0 then 1 else 0) (e.1.2 - 1) 0 false) s

/-- The whole packet has left on a fabric port or Halyard: it is recorded, counted and its copy ends. -/
def State.finishTx (s : State) (p : Plane) (code : Nat) (t : TxProg) : State :=
  let s := if code = 576 then s.halPacket p t.vc t.pkt
    else (s.linePacket p code t.wh t.vc t.pkt).emit (.packet p code t.wh t.pkt)
  (s.dropCopy p t.pid code).setTx p code none

/-- A LINK block leaves a port. -/
def State.linkBlock (s : State) (p : Plane) (i : Nat) (bytes : Bytes) : State :=
  (s.deal p i (ctlBlock bLINK bytes)).emit (.block p i 0x78 (slice 0 31 bytes))

/-- A SENT block leaves with the units sent on each VC (R93). -/
def State.sentSend (s : State) (p : Plane) (i : Nat) : State :=
  s.linkBlock p i ([2] ++ (List.range 9).flatMap (fun v => leBytes 2 (s.cred p i v).sent.toNat))

/-- A packet of which only the first `have_` units came: zeros for the rest, and the trailer stomped (R87). -/
def cutShort (have_ : Nat) (k : Packet) : Packet :=
  let keep := 64 * have_ - (20 + if k.hdr.path then 12 else 0)
  stomp { k with payload := slice 0 (min keep k.payload.length) k.payload ++
    List.replicate (k.payload.length - keep) 0 }

/-- A packet in transmission ends as bad (R87): an ABORT in wormhole mode and a SENT block after it (R93), else zeros and a stomped trailer. -/
def State.endBadTx (s : State) (p : Plane) (code : Nat) (t : TxProg) (have_ : Nat) : State :=
  let s := if t.wh then
      ((((s.lineAbort p code t.vc have_ t.pkt).emit (.abort p code))).sentSend p code).setFlag p
        Fld.LFP_PORT_STAT.WH_TX code false
    else
      let k := cutShort have_ t.pkt
      (s.linePacket p code false t.vc k).emit (.packet p code false k)
  let s := s.setStg p code t.vc ((s.stg p code t.vc).filter (fun e => e.pid ≠ t.pid))
  (s.purgeCopy p t.pid code).setTx p code none

/-- Credit reserved on a VC of a port: that of the packet at the head of the VC in the stage (R157), and of one that a delay
holds beside it. -/
def State.reserved (s : State) (p : Plane) (code vc : Nat) : Nat :=
  match s.stg p code vc with
  | e :: _ => ((s.pkt? p e.pid).map BufPkt.units).getD 0 + s.sideUnits p code vc
  | [] => s.sideUnits p code vc

/-- A port may start a packet of VC 8 that does not come from the switch core: none is in progress, no delay holds the head
of the VC (R393), and its units are covered beside what the stage has reserved (R97, R157). -/
def State.sideRoom (s : State) (p : Plane) (i units : Nat) : Bool :=
  (s.tx? p i).isNone && (s.side p i 8).isNone && !(s.stg p i 8).head?.any (fun e => e.until_.isSome) &&
    decide (units + s.reserved p i 8 ≤ (s.cred p i 8).avail)

/-- Credit that packets beside the switch core may use on a VC of a golden port: none while a delay holds its head. -/
def State.sideAvail (s : State) (p : Plane) (i vc : Nat) : Nat :=
  if (s.side p i vc).isSome then 0 else (s.cred p i vc).avail

/-- The device discards a packet that carries 0xFFFF as source or destination (R5). -/
def noId (h : Header) : Bool := h.src == 0xFFFF || h.dst == 0xFFFF

/-- A packet leaves on a port outside the switch core: its units are sent, and it may be recorded (R92, R167). -/
def State.sideOut (s : State) (p : Plane) (i vc : Nat) (e : SideEnt) : State :=
  let k := injected e.inj e.pkt
  let s := if e.what = .mark then s.countTx p i false else s
  let s := s.modCred p i vc (fun c => { c with sent := c.sent + BitVec.ofNat 16 (unitsOf k) })
  let s := if e.cap ≠ 0 ∧ s.flag p Fld.SWC_MIR_CFG.EGR_EN 0 then
      s.capture p 3 k (s.now p) i vc (e.cap - 1) false false (decide (1 ≤ e.inj ∧ e.inj ≤ 5)) else s
  (s.linePacket p i false vc k).emit (.packet p i false k)

/-- A packet beside the switch core is at the head of its VC: the egress tap and the injections see it as any other (R167,
R391, R393, R394). Of kind 1 it is dropped, of kind 2 held. -/
def State.sideSend (s : State) (p : Plane) (i : Nat) (what : SideWhat) (k : Packet) : State :=
  let vc := k.hdr.vc.toNat
  let (c, r, s) := s.tap p 1 i k
  let (kind, s) := if r = 0 then (0, s) else s.inject p (r - 1) i
  let d := if r = 0 then 0 else s.fld p Fld.TST_INJ.DELAY (s.fld p Fld.TST_MATCH.INJ (r - 1))
  let e : SideEnt := ⟨what, k, kind, c, none⟩
  if kind = 1 then s
  else if kind = 2 then
    let t := s.ticks
    s.setSide p i vc (some { e with until_ := some (t + ticksOfNs d) })
  else s.sideOut p i vc e
def State.portSend (s : State) (p : Plane) (i : Nat) (k : Packet) : State := s.sideSend p i .plain k

/-- A generated packet that has been held carries the time of its departure (Table 12.5). -/
def SideEnt.stamped (e : SideEnt) (now : BitVec 64) : SideEnt :=
  if e.what = .gen then
    let b := slice 0 8 e.pkt.payload ++ leBytes 8 now.toNat ++ e.pkt.payload.drop 16
    { e with pkt := { e.pkt with payload := b, trailer := crc32 b } }
  else e

/-- A packet whose delay has ended leaves, once no packet is in progress on its port. -/
def State.sidePump (s : State) (p : Plane) (i : Nat) : State :=
  s.each (List.range 9) (fun vc s =>
    match s.side p i vc with
    | some e => if e.until_.isNone ∧ (s.tx? p i).isNone then (s.setSide p i vc none).sideOut p i vc (e.stamped (s.now p)) else s
    | none => s)

/-- The delay of a packet that a port holds ends. -/
def State.sideFree (s : State) (p : Plane) (i vc : Nat) : State :=
  match s.side p i vc with
  | some e => (s.setSide p i vc (some { e with until_ := none })).sidePump p i
  | none => s

/-- Units of a released cell enter the egress stage of one code (R157); a packet in transmission whose last unit has come
ends. -/
def State.enterStage (s : State) (p : Plane) (code vc : Nat) (c : Cell) (q : CellPart) : State :=
  match s.pkt? p q.pid with
  | none => s
  | some b =>
    if !b.codes.contains code then s else
      let l := s.stg p code vc
      if l.any (fun e => e.pid == q.pid) then
        s.setStg p code vc (l.map (fun e => if e.pid = q.pid then
          { e with have_ := e.have_ + q.count, sop := e.sop || q.off == 0 } else e))
      else match s.tx? p code with
        | some t =>
          if t.pid = q.pid then
            if t.wh then s else
              let n := t.sent + q.count
              if b.units ≤ n then s.finishTx p code t else s.setTx p code (some { t with sent := n })
          else s.setStg p code vc (l ++ [⟨q.pid, q.count, q.off == 0, c.arr, false, 0, none, 0, b.pkt⟩])
        | none => s.setStg p code vc (l ++ [⟨q.pid, q.count, q.off == 0, c.arr, false, 0, none, 0, b.pkt⟩])

/-- A cell leaves the resequencer. -/
def State.release (s : State) (p : Plane) (c : Cell) : State :=
  s.each c.codes (fun code s => s.each c.parts (fun q s => s.enterStage p code c.vc c q))

/-- Cells are released in PSEQ order; the marks of lost cells are passed over (R156). -/
def State.reseqRun : Nat → State → Plane → Nat → State
  | 0, s, _, _ => s
  | f + 1, s, p, pair =>
    let seq := mget 0 pair (s.pl p).swc.pseqRx
    let l := mget [] pair (s.pl p).swc.reseq
    match l.find? (fun e => e.pseq == seq) with
    | none => s
    | some e =>
      let s := s.modSwc p (fun x => { x with
        pseqRx := mset 0 pair (seq + 1) x.pseqRx
        reseq := mset [] pair (l.filter (fun y => y.pseq ≠ seq)) x.reseq })
      let s := match e.cell with
        | some c => s.release p c
        | none => s
      State.reseqRun f s p pair

/-- A cell or its loss mark enters the resequencer of its pair, and what is in order leaves. -/
def State.reseqPut (s : State) (p : Plane) (src dst : Nat) (pseq : BitVec 12) (c : Option Cell) : State :=
  let pair := 64 * src + dst
  let s := s.modSwc p (fun x => { x with reseq := mmod [] pair (· ++ [⟨pseq, c⟩]) x.reseq })
  s.reseqRun ((mget [] pair (s.pl p).swc.reseq).length + 1) p pair

/-- A cell is lost (R156): counted, logged with its cause (1 timeout, 2 HEC, 3 element); every packet copy with a unit in
it whose transmission has not begun is discarded, one in transmission ends as bad. -/
def State.loseCell (s : State) (p : Plane) (c : Cell) (cause : Nat) : State :=
  let s := s.count p Fld.SWC_RESEQ_LOSS.N 0
  let s := if cause = 2 then s.count p Fld.SWC_SPINE_ERR.N 0 else s
  let s := s.logError p 0x06 c.dst 1 cause 0
  let s := if cause = 3 then s else s.noteElem p c.elem
  let s := s.each c.codes (fun code s => s.each c.parts (fun q s =>
    match s.tx? p code with
    | some t => if t.pid = q.pid then s.endBadTx p code t t.sent else s.purgeCopy p q.pid code
    | none => s.purgeCopy p q.pid code))
  s.reseqPut p c.src c.dst c.pseq none

/-- A cell in flight by its place. -/
def State.flying (s : State) (p : Plane) (src dst : Nat) (pseq : BitVec 12) : Option Cell :=
  (s.pl p).swc.flight.find? (fun c => c.src == src && c.dst == dst && c.pseq == pseq)

def State.landed (s : State) (p : Plane) (c : Cell) : State :=
  s.modSwc p (fun x => { x with flight := x.flight.filter (fun y =>
    !(y.src == c.src && y.dst == c.dst && y.pseq == c.pseq)) })

/-! ## Meanings of the switch core's own commands -/

/-- CELL_TIME (R151 to R155). -/
def execCellTime (p : Plane) (s : State) : Res := goOn (s.when (s.runs p) (·.cellStep p))

/-- A cell arrives (R156): in order, or lost through a HEC error. -/
def State.cellIn (s : State) (p : Plane) (src dst : Fin 46) (pseq : BitVec 12) (hec : Bool) : State :=
  match s.flying p src.val dst.val pseq with
  | none => s
  | some c =>
    let s := s.landed p c
    if hec then s.loseCell p c 2 else s.reseqPut p c.src c.dst c.pseq (some c)

/-- A later cell of the pair has waited 4 cell times; the missing one is declared lost (R156). -/
def State.reseqLoss (s : State) (p : Plane) (src dst : Fin 46) : State :=
  let pair := 64 * src.val + dst.val
  if (mget [] pair (s.pl p).swc.reseq).isEmpty then s else
    match s.flying p src.val dst.val (mget 0 pair (s.pl p).swc.pseqRx) with
    | none => s
    | some c => (s.landed p c).loseCell p c 1

/-- HOLD_DOWN_END (R161). -/
def execHoldDownEnd (p : Plane) (code : Code) (s : State) : Res := goOn (s.when (s.live p) (·.endHold p code.toNat))

/-- HD_CLR (R161): a write of 1 to SWC_PORT_CTL.HD_CLR. -/
def execHdClr (p : Plane) (code : Code) (s : State) : Res :=
  goOn (s.when (s.live p && decide (code.toNat ≤ 576)) (·.endHold p code.toNat))

end Sys2Proof.Machine
end

