-- ==== Sys2Proof/Machine/Routing.lean ====
section
/-! DEFINITION. Endpoint addressing and routing (R113 to R137): the decision of Table 4.2, selection, escape, multicast,
entry into the switch core, drains and congestion maps. -/

namespace Sys2Proof.Machine

/-- What the routing decision gives. -/
inductive Route where
  /-- discarded, with the counter -/
  | drop (d : Disc)
  /-- one egress code and VC, the escape code where the packet may move later (R125), and whether it moved now (R123) -/
  | one (code vc : Nat) (esc : Option Nat) (moved : Bool)
  /-- copies (R128, R129) -/
  | many (codes : List Nat)
  /-- a drain marker (R134) -/
  | marker (id : BitVec 16)
  deriving DecidableEq, Repr

/-- An alias in use (R115): n = 0 collective, 1 dispatch, 2 memory, 3 Canton. -/
def State.alias? (s : State) (p : Plane) (n : Nat) : Option EpId :=
  if s.flag p Fld.RTE_ALIAS.VALID n then some (BitVec.ofNat 16 (s.fld p Fld.RTE_ALIAS.ID n)) else none

/-- The SRC an engine or the Canton uses: its alias when valid, else its internal ID (R115). -/
def State.srcId (s : State) (p : Plane) (n : Nat) : EpId := (s.alias? p n).getD (BitVec.ofNat 16 (0xFF00 + n))

/-- The engine whose alias a DST is. -/
def State.aliasOf (s : State) (p : Plane) (dst : EpId) : Option Nat :=
  (List.range 4).find? (fun n => s.alias? p n == some dst)

/-- Is a code usable by a packet that came from `src` as a unicast egress: available and not its own ingress port or
Halyard (R117). -/
def State.usable (s : State) (p : Plane) (src code : Nat) : Bool :=
  s.codeUp p code && !(decide (src ≤ 576) && src == code)

/-- Direction of a code: UP where RTE_PORT_CFG.DIR is 1; engines and the Canton are DOWN (R126). -/
def State.dirUp (s : State) (p : Plane) (code : Nat) : Bool :=
  decide (code ≤ 576) && s.flag p Fld.RTE_PORT_CFG.DIR code

/-- The check of R126 for a packet on VC 8. -/
def State.escOk (s : State) (p : Plane) (src code : Nat) : Bool := !(s.dirUp p src && s.dirUp p code)

/-- Candidates CODE0 to CODE(COUNT − 1) of a port set; COUNT above 16 acts as 16; a set marked bad has none (R119,
R366). -/
def State.setCodes (s : State) (p : Plane) (n : Nat) : List Nat :=
  if (s.pl p).rte.bad.contains (Reg.off .RTE_SET n 0) then [] else
    let v := (List.range 6).foldr (fun k a => (s.word p .RTE_SET n k).toNat + 2 ^ 32 * a) 0
    (List.range (min 16 (s.fld p Fld.RTE_SET.COUNT n))).map (fun k => bits (11 * k + 10) (11 * k) v)

/-- The flow hash (R120). -/
def State.flowHash (s : State) (p : Plane) (h : Header) (tagh : Bool) : Nat :=
  crcMsb 16 0x1021 (s.fld p Fld.RTE_HASH_SEED.SEED 0)
    (leBytes 2 h.src.toNat ++ leBytes 2 h.dst.toNat ++ [BitVec.ofNat 8 h.tc.toNat] ++
      if tagh then leBytes 2 h.tag.toNat else [])

/-- Cost of a candidate in units of 64 bytes, a sixteenth of a KiB (R121). -/
def State.pathCost (s : State) (p : Plane) (vc code : Nat) : Nat :=
  if code ≤ 576 ∧ (s.cred p code vc).avail = 0 then 65535 * 16 else s.qdepth p code vc

/-- The adaptive choice of R121 among candidates from position j. -/
def adaptivePick (cost : Nat → Nat) (bias j : Nat) (l : List Nat) : Option Nat :=
  match l[j]? with
  | none => none
  | some a =>
    let m := l.foldl (fun x c => min x (cost c)) (cost a)
    if 16 * bias < cost a - m then ((l.drop j) ++ (l.take j)).find? (fun c => cost c == m) else some a

/-- Selection among the usable codes of a set (R120 to R122, and the host-assisted mode of Table 9.13). -/
def State.select (s : State) (p : Plane) (src vc : Nat) (h : Header) (policy : Nat) (tagh : Bool) (set : Nat) :
    Option Nat :=
  let l := (s.setCodes p set).filter (s.usable p src)
  if l.isEmpty then none else
    let j := s.flowHash p h tagh % l.length
    match policy with
    | 2 => l[0]?
    | 1 =>
      if bit 1 (s.fld p Fld.HIF_FUNC_MODE.MODE 0) then l[j]?
      else adaptivePick (s.pathCost p vc) (s.fld p Fld.RTE_GLB_CFG.ADAPT_BIAS 0) j l
    | _ => l[j]?

/-- Member codes of a multicast group (Table 4.6). -/
def State.members (s : State) (p : Plane) (g : Nat) : List Nat :=
  let ports := (List.range 18).flatMap (fun w =>
    (onesOf 32 (s.word p .RTE_MCG g w).toNat).map (fun b => 32 * w + b))
  ports ++ (onesOf 5 (s.fld p Fld.RTE_MCG.INTERNAL g)).map (· + 576)

/-- Copies of a multicast packet (R128, R129); on VC 8 none leaves upward that came from above (R126). -/
def State.copies (s : State) (p : Plane) (src vc : Nat) (h : Header) (g policy : Nat) (tagh : Bool) : List Nat :=
  let l := (s.members p g).filter (fun c => s.usable p src c && (vc != 8 || s.escOk p src c))
  if s.flag p Fld.RTE_MCG.UP_VALID g ∧ ¬ s.dirUp p src then
    match s.select p src vc h policy tagh (s.fld p Fld.RTE_MCG.UP_SET g) with
    | some c => if l.contains c then l else l ++ [c]
    | none => l
  else l

/-- A code where it is available, else the discard of R123. For an internal DST that Halyard would carry while it is
unavailable the spec names no counter; this model uses RTE_NOPORT_DISC (log entry 118). -/
def State.toCode (s : State) (p : Plane) (src code vc : Nat) : Route :=
  if s.usable p src code then .one code vc none false else .drop .noport

/-- Is a packet with DST 0xFFFE laid out as Table 4.8 states; the sender's port ID may be any. -/
def isMarker (vc : Nat) (k : Packet) : Bool :=
  let h := k.hdr
  h.type == tMARK && !h.path && !h.pen && vc == 8 && h.vc == 8 && h.tc == 0 && h.src == 0xFFFE && h.len.toNat == 8 &&
    h.op == 0 && h.tag == 0 && h.wseq == 0 && h.hops == 1 && slice 4 4 k.payload == [0, 0, 0, 0]

/-- Halyard as egress of an internal destination; R126 binds it on VC 8 as it does a port. -/
def State.toHalyard (s : State) (p : Plane) (src vc : Nat) : Route :=
  if vc = 8 ∧ s.usable p src 576 ∧ ¬ s.escOk p src 576 then .drop .esc else s.toCode p src 576 vc

/-- Table 4.1: internal destinations, by where the packet came from. -/
def State.internalRoute (s : State) (p : Plane) (src vc : Nat) (k : Packet) : Route :=
  let d := k.hdr.dst.toNat
  let act := s.cantonHere p
  if src = 576 then
    if 0xFF08 ≤ d ∧ d ≤ 0xFF0B then s.toCode p src (577 + (d - 0xFF08)) vc
    else if d = 0xFF0F ∧ act then s.toCode p src 580 vc
    else .drop .int
  else if d ≤ 0xFF03 then s.toCode p src (577 + (d - 0xFF00)) vc
  else if 0xFF08 ≤ d ∧ d ≤ 0xFF0B then s.toHalyard p src vc
  else if d = 0xFF0F then if act then s.toCode p src 580 vc else s.toHalyard p src vc
  else if d = 0xFFFE ∧ src < 576 ∧ isMarker vc k then .marker (BitVec.ofNat 16 (leNat (slice 0 2 k.payload)))
  else .drop .int

/-- Rows 4 to 8 of Table 4.2. -/
def State.tableRoute (s : State) (p : Plane) (src vc : Nat) (k : Packet) : Route :=
  match s.aliasOf p k.hdr.dst with
  | some n => s.toCode p src (577 + n) vc
  | none =>
    let d := k.hdr.dst.toNat
    let index := s.fld p Fld.RTE_ENTRY.INDEX d
    let policy := s.fld p Fld.RTE_ENTRY.POLICY d
    let tagh := s.flag p Fld.RTE_ENTRY.TAGH d
    let escEn := s.flag p Fld.RTE_ENTRY.ESC_EN d
    let esc := s.fld p Fld.RTE_ENTRY.ESC_CODE d
    if ¬ s.flag p Fld.RTE_ENTRY.VALID d ∨ (s.pl p).rte.bad.contains (Reg.off .RTE_ENTRY d 0) then
      .drop .miss
    else if s.flag p Fld.RTE_ENTRY.MC d then
      if windowed k.hdr then .drop .mc else
        match s.copies p src vc k.hdr index policy tagh with
        | [] => .drop .noport
        | l => .many l
    else if vc = 8 then
      if escEn ∧ s.usable p src esc ∧ s.escOk p src esc then .one esc 8 none false
      else .drop .esc
    else
      match s.select p src vc k.hdr policy tagh index with
      | some c => .one c vc (if escEn then some esc else none) false
      | none =>
        if escEn ∧ s.flag p Fld.RTE_GLB_CFG.ESC_EN 0 ∧ s.usable p src esc ∧ s.escOk p src esc then
          .one esc 8 none true
        else .drop .noport

/-- The routing decision (R116, Table 4.2) for a packet on VC `vc` that came from code `src`. A packet that an engine or
the Canton forms with 0xFFFF as SRC or DST is discarded as one that arrives (R5, R118); the spec names no counter for it,
and this model uses that of check 3 of Table 3.8 (log entry 117). -/
def State.routeOf (s : State) (p : Plane) (src vc : Nat) (k : Packet) : Route :=
  let s := s.before p
  let h := k.hdr
  let d := h.dst.toNat
  let exempt := src == 576 && h.hops.toNat == 2 && (decide (0xFF08 ≤ d ∧ d ≤ 0xFF0B) || d == 0xFF0F)
  if h.src = 0xFFFF ∨ h.dst = 0xFFFF then .drop .hdr
  else if internalId h.src ∧ 1 < h.hops.toNat ∧ ¬ exempt then .drop .int
  else if internalId h.dst then s.internalRoute p src vc k
  else if h.path ∧ k.ext.ptr.toNat ≤ k.ext.last.toNat ∧ h.hops.toNat < 8 then
    let c := selector k.ext k.ext.ptr.toNat
    if c = 0x7FF then s.tableRoute p src vc k
    else if ¬ s.usable p src c then .drop .path
    else if vc = 8 ∧ ¬ s.escOk p src c then .drop .esc
    else .one c vc none false
  else s.tableRoute p src vc k

/-! ## Drains -/

/-- Packets stamped old in the plane: RTE_DRAIN_OLD (R131). -/
def State.oldCount (s : State) (p : Plane) : Nat :=
  ((s.bufPkts p).filter (·.old)).length + ((s.pl p).swc.kept.filter (·.pkt.old)).length

/-- A port flips to new: it no longer awaits a marker (R131). -/
def State.flip (s : State) (p : Plane) (i : Nat) : State :=
  if (s.pl p).rte.waiting.contains i then
    (s.modRte p (fun x => { x with waiting := x.waiting.filter (· ≠ i) })).setFlag p Fld.RTE_MARK_RX.PEND i false
  else s

/-- A drain marker on a port: recorded, and an awaiting port flips if it carries the running drain's ID (R131, R134). -/
def State.markRx (s : State) (p : Plane) (i : Nat) (id : BitVec 16) : State :=
  let s := (s.setF p Fld.RTE_MARK_RX.ID i id.toNat).setFlag p Fld.RTE_MARK_RX.VALID i true
  if s.flag p Fld.RTE_DRAIN_STAT.BUSY 0 ∧ s.fld p Fld.RTE_DRAIN_STAT.ID 0 = id.toNat then s.flip p i else s

/-- The drain marker of Table 4.8 as sent. -/
def markerPkt (p : Plane) (i : Nat) (id : BitVec 16) : Packet :=
  let k := mkPkt tMARK 0 0xFFFE 0xFFFE 8 0 0 0 false false
    (leBytes 2 id.toNat ++ leBytes 2 (576 * p.num + i) ++ [0, 0, 0, 0])
  withHcrc { k with hdr := { k.hdr with hops := 1 } }

/-- A drain marker leaves on a port for one credit unit of VC 8, or waits until it may start (R131, R134); it counts as
a packet transmitted (Table 4.9). -/
def State.sendMarker (s : State) (p : Plane) (i : Nat) (id : BitVec 16) : State :=
  if s.sideRoom p i 1 then s.sideSend p i .mark (markerPkt p i id)
  else s.modRte p (fun x => { x with markDue := x.markDue ++ [(i, id)] })

/-- START of a drain (R131, R132). -/
def State.drainStart (s : State) (p : Plane) (id : BitVec 16) : State :=
  if s.flag p Fld.RTE_DRAIN_STAT.BUSY 0 then s.setFlag p Fld.RTE_DRAIN_STAT.REJ 0 true else
    let s := s.setF p Fld.RTE_DRAIN_CTL.DRAIN_ID 0 id.toNat
    let s := s.setF p Fld.RTE_DRAIN_STAT.ID 0 id.toNat
    let s := ((s.setFlag p Fld.RTE_DRAIN_STAT.BUSY 0 true).setFlag p Fld.RTE_DRAIN_STAT.DONE 0 false).setFlag p
      Fld.RTE_DRAIN_STAT.ABT 0 false
    let wait := (s.rows p .RTE_PORT_CFG 0).filter (fun i => s.flag p Fld.RTE_PORT_CFG.AWAIT i &&
      !(s.flag p Fld.RTE_MARK_RX.VALID i && s.fld p Fld.RTE_MARK_RX.ID i == id.toNat))
    let tx := (s.rows p .RTE_PORT_CFG 0).filter (fun i => i != 576 && s.flag p Fld.RTE_PORT_CFG.MARK_TX i)
    let s := s.modRte p (fun x => { x with waiting := wait, markTx := tx })
    let s := s.modSwc p (fun x => { x with
      pkts := x.pkts.map (fun e => (e.1, e.2.map (fun b => { b with old := true })))
      kept := x.kept.map (fun k => { k with pkt := { k.pkt with old := true } }) })
    s.each wait (fun i s => s.setFlag p Fld.RTE_MARK_RX.PEND i true)

/-- ABORT of a running drain (R133). -/
def State.drainAbort (s : State) (p : Plane) : State :=
  if s.flag p Fld.RTE_DRAIN_STAT.BUSY 0 then
    let s := s.each (s.pl p).rte.waiting (fun i s => s.flip p i)
    let s := (s.setFlag p Fld.RTE_DRAIN_STAT.BUSY 0 false).setFlag p Fld.RTE_DRAIN_STAT.ABT 0 true
    s.raise p 0x0302 (wn (s.fld p Fld.RTE_DRAIN_STAT.ID 0)) [wn (s.oldCount p)]
  else s

/-- The end of a drain (R131): every port has flipped and no old packet is left. -/
def State.drainDone (s : State) (p : Plane) : State :=
  if s.flag p Fld.RTE_DRAIN_STAT.BUSY 0 ∧ (s.pl p).rte.waiting = [] ∧ s.oldCount p = 0 then
    let id := BitVec.ofNat 16 (s.fld p Fld.RTE_DRAIN_STAT.ID 0)
    let s := (s.setFlag p Fld.RTE_DRAIN_STAT.BUSY 0 false).setFlag p Fld.RTE_DRAIN_STAT.DONE 0 true
    let s := s.raise p 0x0301 (wn id.toNat) []
    s.each ((s.pl p).rte.markTx.filter (s.portActive p)) (fun i s => s.sendMarker p i id)
  else s

/-! ## Entry into the switch core -/

/-- How far a packet has come when it enters: it ended as bad; its units that came; units still to come, and units not
yet counted in RECV (R87, R92). -/
structure Come where
  bad  : Bool := false
  real : Nat := 0
  todo : Nat := 0
  owed : Nat := 0

/-- A packet that passed its checks is decided once (R116), seen by the ingress tap (R167), and enters its queue or is
discarded; while the switch core does not forward, it is discarded (R351). `arr` is the tick and `stamp` the fabric time of
its SOP. -/
def State.routeIn (s : State) (p : Plane) (src vc units : Nat) (k : Packet) (arr : Nat) (stamp : BitVec 64)
    (sess : Nat) (come : Come) : State :=
  let u := units - come.owed
  if s.coreUp p = false then (s.freeCredit p src vc u sess).count p Fld.SWC_FLUSH_DISC.N 0 else
  let r := s.routeOf p src vc k
  let disc := match r with
    | .drop _ => true
    | _ => false
  let s := s.ingressTap p k stamp src vc disc come.bad
  let b : BufPkt := ⟨k, units, src, 0, sess, vc, arr, (s.pl p).rte.waiting.contains src, false, [], .held, 0,
    vc, none, false, come.bad, come.real, come.todo, come.owed⟩
  match r with
  | .drop d => (s.freeCredit p src vc u sess).discard1 p d
  | .marker id => (s.freeCredit p src vc u sess).markRx p src id
  | .one code q esc moved =>
    let s := if moved then s.count p Fld.RTE_ESC_MOVE.N 0 else s
    s.enqueue p { b with codes := [code], qcode := code, qvc := q, esc := esc }
  | .many codes => s.enqueue p { b with codes := codes, mc := true, qcode := 0x7FF }

/-- A packet that an engine (577 to 579) or the Canton (580) of a plane originates enters the switch core there (R90,
R142): VC as its header says. -/
def State.originate (s : State) (p : Plane) (eng : Nat) (k : Packet) : State :=
  s.routeIn p eng k.hdr.vc.toNat (unitsOf k) k s.ticks (s.now p) 0 {}

/-- A response to a packet with an internal SRC leaves on the code the request came from, without a lookup (R113). Where
that code is no longer available the spec names no counter; this model discards and counts RTE_NOPORT_DISC (log entry
118). -/
def State.respondOn (s : State) (p : Plane) (eng code : Nat) (k : Packet) : State :=
  let vc := k.hdr.vc.toNat
  if s.coreUp p = false then s.count p Fld.SWC_FLUSH_DISC.N 0
  else if s.codeUp p code then
    s.enqueue p ⟨k, unitsOf k, eng, 0, 0, vc, s.ticks, false, false, [code], .held, code, vc, none, false, false, 0, 0, 0⟩
  else s.count p Fld.RTE_NOPORT_DISC.N 0

/-! ## Escape after a wait -/

/-- A packet at the head of its VOQ moves to the escape VC (R125, R149): its units and its account stay. -/
def State.escapeMove (s : State) (p : Plane) (slice code vc : Nat) : State :=
  let key := voqKey slice code vc
  match s.voq p key with
  | e :: rest =>
    match s.pkt? p e.pid with
    | some b =>
      match b.esc with
      | some c =>
        if vc < 8 ∧ e.gone = 0 ∧ s.flag p Fld.RTE_GLB_CFG.ESC_EN 0 ∧ s.usable p b.src c ∧ s.escOk p b.src c then
          let s := s.setVoq p key rest
          let s := s.setPkt p e.pid (some { b with codes := [c], qcode := c, qvc := 8, esc := none })
          let k := voqKey slice c 8
          let s := s.setVoq p k (s.voq p k ++ [⟨e.pid, 0, none⟩])
          s.count p Fld.RTE_ESC_MOVE.N 0
        else s
      | none => s
    | none => s
  | [] => s

/-! ## Congestion maps -/

/-- The bin of a sample in units: lower edges 0, 8, 32, 128, 256, 512, 1,024 and 2,048 KiB (R136). -/
def cmapBin (u : Nat) : Nat :=
  ([8, 32, 128, 256, 512, 1024, 2048].filter (fun e => decide (16 * e ≤ u))).length

/-- A port is Active, Halyard is up. -/
def State.mapActive (s : State) (p : Plane) (i : Nat) : Bool := if i = 576 then s.halUp p else s.portActive p i

/-- A port enters or leaves Active, or Halyard comes up or fails: the interval shows FULL = 0. -/
def State.cmapGap (s : State) (p : Plane) (i : Nat) : State :=
  s.modRte p (fun x => { x with bins := mmod {} i (fun b => { b with gap := true }) x.bins })

/-- One sample of a port or Halyard. -/
def State.cmapSample1 (s : State) (p : Plane) (i : Nat) : State :=
  let u := ((List.range 9).map (s.qdepth p i)).sum
  s.modRte p (fun x => { x with bins := mmod {} i (fun b =>
    { b with
      peak := max b.peak u
      hist := listSet (cmapBin u) (b.hist.getD (cmapBin u) 0 + 1) b.hist }) x.bins })

/-- The 32 bytes of a congestion map entry (Table 4.9). -/
def cmapBytes (i : Nat) (b : CmapBin) (up : Bool) (width seq : Nat) : Bytes :=
  leBytes 2 i ++ leBytes 1 (128 * b2n (!b.gap) + 64 * b2n up + width) ++ leBytes 1 (min 255 (b.peak / 1024)) ++
    leBytes 4 seq ++ leBytes 4 b.tx ++ leBytes 4 b.ce ++ b.hist.flatMap (leBytes 2)

/-- Ports that have an entry: the enabled ones and Halyard. Table 4.9 gives Halyard no width code: ACT_WIDTH is 0 there
(log entry 119). -/
def State.cmapPorts (s : State) (p : Plane) : List Nat := s.enabledPorts p ++ [576]

/-- The end of an interval (R136, R137): entries written, RTE_CMAP_SEQ incremented, entries pushed with PUSH_EN. -/
def State.cmapEnd (s : State) (p : Plane) : State :=
  let seq := (s.word p .RTE_CMAP_SEQ 0 0 + 1)
  let s := s.setWord p .RTE_CMAP_SEQ 0 0 seq
  let s := s.each (s.cmapPorts p) (fun i s =>
    let b := mget {} i (s.pl p).rte.bins
    let e := cmapBytes i { b with gap := b.gap || !s.mapActive p i } (s.dirUp p i)
      (if i < 576 then s.fld p Fld.LNE_PORT_STAT.ACT_WIDTH i else 0) seq.toNat
    let s := (List.range 8).foldl (fun s w => s.setWord p .RTE_CMAP i w (wn (leNat (slice (4 * w) 4 e)))) s
    if s.flag p Fld.RTE_CMAP_CFG.PUSH_EN 0 then
      if s.ringRoom p 3 then s.capPush p 1 (s.now p) e else s.count p Fld.RTE_CMAP_LOST.N 0
    else s)
  s.modRte p (fun x => { x with bins := [] })

/-! ## Meanings -/

/-- DRAIN_START (R131, R132). -/
def execDrainStart (p : Plane) (id : BitVec 16) (s : State) : Res := goOn (s.when (s.live p) (·.drainStart p id))

/-- DRAIN_ABORT (R133). -/
def execDrainAbort (p : Plane) (s : State) : Res := goOn (s.when (s.live p) (·.drainAbort p))

/-- DRAIN_MARKER (R134): on a port of the plane. -/
def execDrainMarker (p : Plane) (i : Fin 576) (id : BitVec 16) (s : State) : Res :=
  goOn (s.when (s.live p) (·.markRx p i.val id))

/-- ROUTE_DRAINED (R131). -/
def execRouteDrained (p : Plane) (s : State) : Res := goOn (s.when (s.live p) (·.drainDone p))

/-- ESCAPE_MOVE (R125). -/
def execEscapeMove (p : Plane) (slice : Fin 46) (code : Code) (vc : Fin 9) (s : State) : Res :=
  goOn (s.when (s.runs p) (·.escapeMove p slice.val code.toNat vc.val))

/-- CMAP_SAMPLE (R136). -/
def execCmapSample (p : Plane) (s : State) : Res :=
  goOn (s.when (s.live p) (fun s => s.each (s.cmapPorts p) (fun i s => s.cmapSample1 p i)))

/-- CMAP_INTERVAL (R136, R137). -/
def execCmapInterval (p : Plane) (s : State) : Res := goOn (s.when (s.live p) (·.cmapEnd p))

end Sys2Proof.Machine
end

