-- ==== Sys2Proof/Machine/Time.lean ====
section
/-! DEFINITION. Fabric time (R374 to R382): the servo, sources, TIME blocks and flits, PPS. -/

namespace Sys2Proof.Machine

def State.modTst (s : State) (p : Plane) (f : TstSt → TstSt) : State := s.modPl p (fun x => { x with tst := f x.tst })
def State.time (s : State) (p : Plane) : TimeSt := (s.pl p).tst.time
def State.modTime (s : State) (p : Plane) (f : TimeSt → TimeSt) : State :=
  s.modTst p (fun x => { x with time := f x.time })
def State.timePort (s : State) (p : Plane) (i : Nat) : TimePort := mget {} i (s.time p).ports
def State.modTimePort (s : State) (p : Plane) (i : Nat) (f : TimePort → TimePort) : State :=
  s.modTime p (fun x => { x with ports := mmod {} i f x.ports })

/-- STATE and STRATUM of TST_FT_STAT (Table 12.13); a plane in STATE 0 or 1 gives STRATUM 15 (R378). -/
def State.timeState (s : State) (p : Plane) : Nat := s.fld p Fld.TST_FT_STAT.STATE 0
def State.timeStratum (s : State) (p : Plane) : Nat :=
  if s.timeState p < 2 then 15 else s.fld p Fld.TST_FT_STAT.STRATUM 0

/-- SYNC_INT in ns: 2^SYNC_INT µs, above 10 acts as 10. -/
def State.syncIntNs (s : State) (p : Plane) : Nat := 1000 * 2 ^ min 10 (s.fld p Fld.TST_FT_CFG.SYNC_INT 0)

/-- The ROLE of a port: 0 OFF, 1 DOWN, 2 UP; 3 acts as 0. -/
def State.timeRole (s : State) (p : Plane) (i : Nat) : Nat := s.fld p Fld.TST_PORT_TIME.ROLE i % 3

/-- The port that USING names, if it is one. -/
def State.timeSel (s : State) (p : Plane) : Option Nat :=
  match s.fld p Fld.TST_FT_STAT.USING 0 with
  | 1 => some (s.fld p Fld.TST_FT_CFG.TIME_PORT 0)
  | 2 => some (s.fld p Fld.TST_FT_CFG.TIME_PORT2 0)
  | _ => none

/-- Mean path delay d of a port in 1/65,536 ns (R379). -/
def TimePort.delay (t : TimePort) : Int := t.delays.foldl (· + ·) 0 / (2 * (max 1 t.delays.length : Nat))

/-- USING changes: TIME_SOURCE, and TST_FT_DELAY follows the selected port (R380). -/
def State.timeUse (s : State) (p : Plane) (u : Nat) : State :=
  if s.fld p Fld.TST_FT_STAT.USING 0 = u then s else
    let s := s.setF p Fld.TST_FT_STAT.USING 0 u
    let d := match s.timeSel p with
      | some i => ofInt 32 ((s.timePort p i).delay / 256)
      | none => 0
    let s := s.setWord p .TST_FT_DELAY 0 0 (wn d)
    s.raise p 0x0B02 (wn p.num) [wn u, wn (s.timeState p)]

/-- Holdover: FREQ is kept, STATE is 3 and the plane goes on serving SYNC (R380). -/
def State.timeHold (s : State) (p : Plane) : State :=
  (s.setF p Fld.TST_FT_STAT.STATE 0 3).timeUse p 0

/-- The counter is set back by an offset and TIME_STEP raised (R379). -/
def State.timeStep (s : State) (p : Plane) (off : Int) : State :=
  let s := s.modPl p (fun x => { x with ft := ofInt 80 ((x.ft : Int) - off) })
  let ns := ofInt 64 (-off / 65536)
  s.raise p 0x0B03 (wn p.num) [wn ns, wn (ns / 2 ^ 32)]

/-- FREQ that removes an offset within `ns`, limited to ±200 ppm, in 0.1 ppb (R374, R379). -/
def servoFreq (off : Int) (ns : Nat) : Int :=
  max (-2000000) (min 2000000 (-off * 10000000000 / ((65536 * ns : Nat) : Int)))

/-- One offset of the selected source (R379). `ns` is the time to the next one. -/
def State.timeOffset (s : State) (p : Plane) (off : Int) (ns : Nat) (far : Nat) : State :=
  let s := s.setWord p .TST_FT_OFFSET 0 0 (wn (ofInt 32 (off / 256)))
  let s := if ((65536 * 2 ^ s.fld p Fld.TST_FT_CFG.STEP_THR 0 : Nat) : Int) < off.natAbs then s.timeStep p off
    else s.setWord p .TST_FT_FREQ 0 0 (wn (ofInt 32 (servoFreq off ns)))
  let good := if off.natAbs ≤ 2 * 65536 then (s.time p).good + 1 else 0
  let s := s.modTime p (fun x => { x with good := good })
  if far = 3 then s.setF p Fld.TST_FT_STAT.STATE 0 3
  else if 16 ≤ good ∧ s.timeState p ≠ 2 then
    (s.setF p Fld.TST_FT_STAT.STATE 0 2).raise p 0x0B01 (wn p.num) [wn (s.fld p Fld.TST_FT_STAT.STRATUM 0)]
  else s

/-- An accepted SYNC or time flit of the selected source sets STRATUM and ROOT. -/
def State.timeTree (s : State) (p : Plane) (stratum : Nat) (root : BitVec 64) : State :=
  (s.setF p Fld.TST_FT_STAT.STRATUM 0 (min 15 (stratum + 1))).modTime p (fun x => { x with root := root })

/-- The source that SRC names is taken (R375): STATE restarts at 1, or at 2 as a root with SRC 0. -/
def State.timeTake (s : State) (p : Plane) : State :=
  let src := s.fld p Fld.TST_FT_CFG.SRC 0
  let s := s.modTime p (fun x => { x with
    taken := some src
    good := 0
    edge := false
    root := if src = 0 ∨ src = 3 then Config.serial else 0 })
  let s := s.setF p Fld.TST_FT_STAT.STATE 0 (if src = 0 then 2 else 1)
  let s := s.setF p Fld.TST_FT_STAT.STRATUM 0 (if src = 0 ∨ src = 3 then 0 else 15)
  s.timeUse p (match src with
    | 0 => 0
    | 1 => 1
    | _ => 3)

/-- A write of TST_FT_CFG (R375): the first after RESET_N and each that changes SRC takes the source. -/
def State.ftCfgWrite (s : State) (p : Plane) (v : Word) : State :=
  let old := s.fld p Fld.TST_FT_CFG.SRC 0
  let s := s.setWord p .TST_FT_CFG 0 0 v
  if (s.time p).taken.isNone ∨ s.fld p Fld.TST_FT_CFG.SRC 0 ≠ old then s.timeTake p else s

/-- A completed write of TST_FT_SET (R375). -/
def State.ftSet (s : State) (p : Plane) (v : BitVec 64) : State :=
  let s := (s.setWord p .TST_FT_SET 0 0 (wn v.toNat)).setWord p .TST_FT_SET 0 1 (wn (v.toNat / 2 ^ 32))
  if (s.time p).taken = some 0 then s.modPl p (fun x => { x with ft := 65536 * v.toNat, ftRem := 0 }) else s

/-- Bytes 1 to 31 of a TIME block (Table 12.2). -/
def timeBytes (kind state stratum : Nat) (seq : Byte) (t t3 : Nat) (root : BitVec 64) : Bytes :=
  [3, BitVec.ofNat 8 (64 * kind + 16 * state + stratum), seq] ++ leBytes 8 (t / 65536) ++ leBytes 2 t ++
    leBytes 8 (t3 / 65536) ++ leBytes 2 t3 ++ leBytes 8 root.toNat

/-- A SYNC leaves (R378). -/
def State.syncSend (s : State) (p : Plane) (i : Nat) : State :=
  let t := s.timePort p i
  let s := s.modTimePort p i (fun x => { x with syncSeq := x.syncSeq + 1 })
  s.linkBlock p i (timeBytes 0 (s.timeState p) (s.timeStratum p) t.syncSeq (s.pl p).ft 0 (s.time p).root)

/-- A DREQ leaves (R378). -/
def State.dreqSend (s : State) (p : Plane) (i : Nat) : State :=
  let t := s.timePort p i
  let s := s.modTimePort p i (fun x => { x with dreqSeq := x.dreqSeq + 1, t1 := some (s.pl p).ft })
  s.linkBlock p i (timeBytes 1 (s.timeState p) (s.timeStratum p) t.dreqSeq 0 0 0)

/-- A DREQ is answered with a DRESP (R378). -/
def State.dreqIn (s : State) (p : Plane) (i : Nat) (b : TimeBlock) : State :=
  s.linkBlock p i (timeBytes 2 (s.timeState p) (s.timeStratum p) b.seq (s.pl p).ft (s.pl p).ft 0)

/-- A DRESP completes a path delay exchange (R379). -/
def State.drespIn (s : State) (p : Plane) (i : Nat) (b : TimeBlock) : State :=
  let t := s.timePort p i
  match t.t1 with
  | none => s
  | some t1 =>
    if b.seq + 1 ≠ t.dreqSeq then s else
      let x : Int := ((s.pl p).ft : Int) - t1 - ((b.t3 : Int) - b.t)
      let s := s.modTimePort p i (fun y => { y with t1 := none, delays := (x :: y.delays).take 8 })
      let d := ofInt 32 ((s.timePort p i).delay / 256)
      let s := s.setWord p .TST_PORT_DELAY i 0 (wn d)
      if s.timeSel p = some i then s.setWord p .TST_FT_DELAY 0 0 (wn d) else s

/-- An accepted SYNC has come on a port within 4 × SYNC_INT (Table 12.13). -/
def State.syncFresh (s : State) (p : Plane) (i : Nat) : Bool :=
  (s.timePort p i).okAt.any (fun a => decide (s.ticks ≤ a + ticksOfNs (4 * s.syncIntNs p)))

/-- A SYNC arrives on an UP port (R379). -/
def State.syncIn (s : State) (p : Plane) (i : Nat) (b : TimeBlock) : State :=
  let s := s.setF p Fld.TST_PORT_TSTAT.FAR_STRATUM i b.stratum.toNat
  let s := s.setF p Fld.TST_PORT_TSTAT.FAR_STATE i b.state.toNat
  let t := s.timePort p i
  if 2 ≤ b.state.toNat ∧ b.stratum.toNat ≤ 14 ∧ t.delays ≠ [] then
    let fresh := s.syncFresh p i
    let now := s.ticks
    let s := s.modTimePort p i (fun x => { x with okAt := some now, since := if fresh then x.since else now })
    if (s.time p).taken = some 1 ∧ s.timeSel p = some i then
      let asym := toInt 16 (s.fld p Fld.TST_PORT_TIME.ASYM i) * 256
      let off := ((s.pl p).ft : Int) - ((b.t : Int) + t.delay + asym)
      (s.timeTree p b.stratum.toNat b.root).timeOffset p off (s.syncIntNs p) b.state.toNat
    else s
  else s

/-- The selected source is lost (R380). -/
def State.timeLost (s : State) (p : Plane) : State :=
  if (s.time p).taken ≠ some 1 then s else
    let j := s.fld p Fld.TST_FT_CFG.TIME_PORT2 0
    let ok := s.syncFresh p j && s.portActive p j
    if s.fld p Fld.TST_FT_STAT.USING 0 = 1 ∧ ok then s.timeUse p 2
    else if s.fld p Fld.TST_FT_STAT.USING 0 = 0 then s else s.timeHold p

/-- A port leaves Active: its SYNCs stop, and it is lost if it is the selected source (R380). -/
def State.timePortDown (s : State) (p : Plane) (i : Nat) : State :=
  let lost := decide ((s.time p).taken = some 1 ∧ s.timeSel p = some i)
  let s := s.modTimePort p i (fun x => { x with okAt := none, t1 := none })
  if lost then s.timeLost p else s

/-- Tray time in ns: what the tray's time frames set, run on with the core clock (R316). -/
def State.trayNow (s : State) : Int := (s.pkg.trayTime.toNat + (s.ticks - s.pkg.trayAt) * 5 / 8 : Nat)

/-- A rising edge of PPS_IN (R382). -/
def State.ppsEdge (s : State) (p : Plane) : State :=
  let s := s.setFlag p Fld.TST_FT_STAT.PPS_SEEN 0 true
  if (s.time p).taken ≠ some 3 then s else
    let s := s.timeUse p 3
    let ns := if s.flag p Fld.CAN_STAT.PTP_LOCK 0 then s.trayNow else ((s.pl p).ft / 65536 : Nat)
    let target : Int := (ns + 500000000) / 1000000000 * 1000000000 * 65536
    let off := ((s.pl p).ft : Int) - target
    if (s.time p).edge then s.timeOffset p off 1000000000 2
    else
      ((s.modTime p (fun x => { x with edge := true })).setWord p .TST_FT_OFFSET 0 0 (wn (ofInt 32 (off / 256)))).timeStep p off

/-! ## Meanings -/

/-- FT_CFG_WRITE (R375). -/
def execFtCfgWrite (p : Plane) (v : Word) (s : State) : Res := goOn (s.when (s.live p) (·.ftCfgWrite p v))

/-- FT_SET (R375). -/
def execFtSet (p : Plane) (v : BitVec 64) (s : State) : Res := goOn (s.when (s.live p) (·.ftSet p v))

/-- SYNC_SEND (R378): an Active DOWN port. -/
def execSyncSend (p : Plane) (i : Fin 576) (s : State) : Res :=
  goOn (s.when (s.live p && s.portActive p i && s.timeRole p i == 1) (·.syncSend p i))

/-- DREQ_SEND (R378): an Active UP port. -/
def execDreqSend (p : Plane) (i : Fin 576) (s : State) : Res :=
  goOn (s.when (s.live p && s.portActive p i && s.timeRole p i == 2) (·.dreqSend p i))

/-- SYNC (R379). -/
def execSync (p : Plane) (i : Fin 576) (b : TimeBlock) (s : State) : Res :=
  goOn (s.when (s.live p && s.portActive p i && s.timeRole p i == 2) (·.syncIn p i b))

/-- DREQ (R378). -/
def execDreq (p : Plane) (i : Fin 576) (b : TimeBlock) (s : State) : Res :=
  goOn (s.when (s.live p && s.portActive p i && s.timeRole p i == 1) (·.dreqIn p i b))

/-- DRESP (R379). -/
def execDresp (p : Plane) (i : Fin 576) (b : TimeBlock) (s : State) : Res :=
  goOn (s.when (s.live p && s.portActive p i && s.timeRole p i == 2) (·.drespIn p i b))

/-- TIME_SOURCE_LOST (R380). -/
def execTimeSourceLost (p : Plane) (s : State) : Res := goOn (s.when (s.live p) (·.timeLost p))

/-- TIME_SOURCE_RETURN (R380): the primary port has delivered accepted SYNCs for 1 ms. -/
def execTimeSourceReturn (p : Plane) (s : State) : Res :=
  goOn (s.when (s.live p && decide ((s.time p).taken = some 1)) (fun s =>
    let i := s.fld p Fld.TST_FT_CFG.TIME_PORT 0
    if (s.timePort p i).okAt.isSome ∧ s.portActive p i then s.timeUse p 1 else s))

/-- TIME_FLIT_SEND (R381). -/
def execTimeFlitSend (p : Plane) (s : State) : Res :=
  goOn (s.when (s.live p) (fun s =>
    s.halControl p 6 ([BitVec.ofNat 8 (16 * s.timeState p + s.timeStratum p)] ++ leBytes 8 ((s.pl p).ft / 65536) ++
      leBytes 2 (s.pl p).ft)))

/-- TIME_FLIT (R381). -/
def execTimeFlit (p : Plane) (b : TimeBlock) (s : State) : Res :=
  goOn (s.when (s.live p && s.halUp p && decide ((s.time p).taken = some 2)) (fun s =>
    if 2 ≤ b.state.toNat ∧ b.stratum.toNat ≤ 14 then
      let s := s.timeUse p 3
      (s.timeTree p b.stratum.toNat (s.time p.other).root).timeOffset p (((s.pl p).ft : Int) - b.t) 1000 b.state.toNat
    else s))

/-- PPS_IN_EDGE (R382). -/
def execPpsInEdge (p : Plane) (s : State) : Res := goOn (s.when (s.live p) (·.ppsEdge p))

/-- PPS_MISSING (R382): no edge for 1.1 s. -/
def execPpsMissing (p : Plane) (s : State) : Res :=
  goOn (s.when (s.live p) (fun s =>
    let s := s.setFlag p Fld.TST_FT_STAT.PPS_SEEN 0 false
    if (s.time p).taken = some 3 then (s.timeHold p).raise p 0x0B04 (wn p.num) [] else s))

/-- PPS_OUT (R382): Hoist drives the pin if both planes would. -/
def execPpsOut (p : Plane) (s : State) : Res :=
  goOn (s.when (s.live p && s.flag p Fld.TST_FT_CFG.PPS_OUT_EN 0 &&
    !(p == .fly && s.flag .hoist Fld.TST_FT_CFG.PPS_OUT_EN 0)) (·.emit (.pps p true)))

end Sys2Proof.Machine
end

