-- ==== Sys2Proof/Machine/Fabric.lean ====
section
/-! DEFINITION. A port's protocol (R73, R74, R84, R91 to R95) and the protocol checker (R390). -/

namespace Sys2Proof.Machine

/-- The port ID of the port with first lane i of a plane (R4). -/
def portId (p : Plane) (i : Nat) : Nat := 576 * p.num + i

/-- A violation the protocol checker finds (R390): header `h` as a number, 0 for a rule that concerns no packet. -/
def State.pchk (s : State) (p : Plane) (rule i vc h : Nat) : State :=
  if bit (rule - 1) (s.fld p Fld.TST_PCHK_EN.EN 0) then
    let s := s.count p Fld.TST_PCHK_CNT.N (rule - 1)
    let t := (s.now p).toNat
    let s := if s.flag p Fld.TST_PCHK_FIRST.VALID i then s else
      s.setWords p .TST_PCHK_FIRST i ([2 ^ 31 + rule, t, t / 2 ^ 32, vc, h, h / 2 ^ 32, h / 2 ^ 64, h / 2 ^ 96].map wn)
    s.raise p 0x0B05 (wn (portId p i)) [wn rule, wn vc, wn h, wn (h / 2 ^ 32)]
  else s

/-- The same where a condition holds. -/
def State.pchkIf (s : State) (c : Bool) (p : Plane) (rule i vc h : Nat) : State :=
  if c then s.pchk p rule i vc h else s

/-- ADV of a VC of a port (R95). -/
def State.advVc (s : State) (p : Plane) (i vc : Nat) : Nat :=
  if vc = 8 then s.advEsc p else s.advOf p (s.widthCode p i)

/-- The port's credit counters run (R92): Active, or the management exchange. -/
def State.counting (s : State) (p : Plane) (i : Nat) : Bool := (s.link p i).counting

/-- A CREDIT block leaves with the LIMIT of each VC (R93). -/
def State.creditSend (s : State) (p : Plane) (i : Nat) : State :=
  let l := (List.range 9).map (fun v => (s.cred p i v).limit)
  let s := s.linkBlock p i ([1] ++ l.flatMap (fun c => leBytes 2 c.toNat))
  s.each (List.range 9) (fun v s => s.modCred p i v (fun c => { c with told := c.limit }))

/-- The counters start at 0, with the advertised units of each VC, and the first CREDIT block goes out (R92, R93). -/
def State.startCounters (s : State) (p : Plane) (i : Nat) : State :=
  let s := s.each (List.range 9) (fun v s =>
    let a := BitVec.ofNat 16 (s.advVc p i v)
    s.modCred p i v (fun _ => { adv := a }))
  let s := s.modLink p i (fun x => { x with counting := true, sess := x.sess + 1, rx := none })
  let s := s.modSwc p (fun x => { x with side := x.side.filter (fun e => e.1 / 16 != i) })
  s.creditSend p i

/-- Units received on a VC are counted, and freed at once where the packet is not kept (R94). -/
def State.recvUnits (s : State) (p : Plane) (i vc u : Nat) : State :=
  if vc ≤ 8 then s.modCred p i vc (fun c => { c with recv := c.recv + BitVec.ofNat 16 u }) else s

def State.freeUnits (s : State) (p : Plane) (i vc u : Nat) : State :=
  if vc ≤ 8 then s.modCred p i vc (Credit.free u) else s

/-- By now `got` units of the packet in progress have come. A wormhole packet's are counted in RECV one by one (R92) and
freed unless the buffer keeps the packet; of a packet whose head has gone on, cells may take them. -/
def State.rxProgress (s : State) (p : Plane) (i got : Nat) : State :=
  match (s.link p i).rx with
  | none => s
  | some r =>
    let n := got - r.got
    let vc := r.vc.toNat
    let s := s.modLink p i (fun x => { x with rx := some { r with got := r.got + n } })
    let s := s.when r.wh (·.recvUnits p i vc n)
    match r.pid with
    | none => s
    | some pid =>
      match s.pkt? p pid with
      | none => s.when r.wh (·.freeUnits p i vc n)
      | some b =>
        let s := s.setPkt p pid (some { b with todo := b.todo - n, owed := b.owed - n })
        if b.acct = .held then s else s.when r.wh (·.freeUnits p i vc n)

/-- The copies of a buffered packet whose head has not been sent on (R86). -/
def State.unsent (s : State) (p : Plane) (pid : Nat) : List Nat :=
  match s.pkt? p pid with
  | none => []
  | some b => b.codes.filter (fun c => !((s.tx? p c).any (fun t => t.pid == pid)))

/-- Those copies are discarded. -/
def State.dropUnsent (s : State) (p : Plane) (pid : Nat) : State :=
  s.each (s.unsent p pid) (fun c s => s.purgeCopy p pid c)

/-- The rest of a packet turns out as `f` says: in the buffer, in the stages, and in transmission. -/
def State.mapPkt (s : State) (p : Plane) (pid : Nat) (f : Packet → Packet) : State :=
  match s.pkt? p pid with
  | none => s
  | some b =>
    (s.setPkt p pid (some { b with pkt := f b.pkt })).modSwc p (fun x => { x with
      stages := x.stages.map (fun q => (q.1, q.2.map (fun e => if e.pid = pid then { e with pkt := f e.pkt } else e)))
      txing := x.txing.map (fun q => (q.1, q.2.map (fun t => if t.pid = pid then { t with pkt := f t.pkt } else t))) })

/-- A packet whose head has gone on ends as bad (R87). Copies not yet sent on are discarded (R34). Beyond the units that
came the others hold zeros, their trailer is stomped, and they wait for nothing more; a wormhole transmission ends with
ABORT instead. -/
def State.endUpstream (s : State) (p : Plane) (r : RxProg) : State :=
  match r.pid with
  | none => s
  | some pid =>
    let s := (s.dropUnsent p pid).mapPkt p pid (cutShort r.got)
    match s.pkt? p pid with
    | none => s
    | some b => s.setPkt p pid (some { b with bad := true, real := r.got, todo := 0 })

/-- The counters stop; a packet whose last block has not arrived ends as bad and is counted (R49, R87). R92 zeroes the
counters at the next start; that they and the flags of LFP_PORT_STAT read 0 in between is this model's choice (log entry
120). -/
def State.stopCounters (s : State) (p : Plane) (i : Nat) : State :=
  let s := match (s.link p i).rx with
    | some r => (s.endUpstream p r).count p Fld.LNE_QDISC_CNT.N 0
    | none => s
  let s := s.modLink p i (fun x => { x with counting := false, rx := none, sess := x.sess + 1 })
  let s := s.each (List.range 9) (fun v s => s.modCred p i v (fun _ => {}))
  ((s.setFlag p Fld.LFP_PORT_STAT.CRED_UP i false).setFlag p Fld.LFP_PORT_STAT.FAR_WH i false).setFlag p
    Fld.LFP_PORT_STAT.WH_TX i false

/-- CREDIT_VIOLATION (R84, R94). -/
def State.creditViolation (s : State) (p : Plane) (i vc : Nat) : State :=
  ((s.count p Fld.LFP_CRED_VIOL.N 0).raise p 0x0201 (wn (portId p i)) [wn vc]).logError p 0x10 (portId p i) vc 0 0

/-- The packet in progress on a port ends as bad after `got` units (R74, R49, R98): one whose head has gone on ends
onward (R87); the units of another are freed, a wormhole packet's as far as they have come. -/
def State.endRx (s : State) (p : Plane) (i got : Nat) : State :=
  let s := s.rxProgress p i got
  match (s.link p i).rx with
  | none => s
  | some r =>
    let s := s.modLink p i (fun x => { x with rx := none })
    let s := if r.pid.isSome then s.endUpstream p r
      else if r.wh then s.freeUnits p i r.vc.toNat r.got
      else if r.viol then s else s.freeUnits p i r.vc.toNat r.units
    if s.stage p i = 5 then s else s.count p Fld.LNE_QDISC_CNT.N 0

/-- An SOP block (R73, R74). -/
def State.sopIn (s : State) (p : Plane) (i : Nat) (b : SopBlock) (got : Nat) : State :=
  let vc := b.vc.toNat
  let u := b.units.toNat
  let s := s.pchkIf b.rsv p 3 i vc 0
  let s := s.pchkIf ((s.link p i).rx.isSome && !b.abort) p 2 i vc 0
  let s := s.endRx p i got
  if b.abort then s else
    let viol := !b.wh && (decide (8 < vc) || decide ((s.cred p i vc).rxAvail < u))
    let s := if b.wh then s else s.recvUnits p i vc u
    let s := if viol then s.freeUnits p i vc u else s
    let r : RxProg := { vc := b.vc, units := u, wh := b.wh, viol := viol, at_ := s.ticks, time := s.now p }
    (s.modLink p i (fun x => { x with rx := some r })).modStream p i (fun x => { x with quiet := false })

/-- A CREDIT block (R92): LIMIT_RX per VC, the first of them since Active kept (R97). One that comes in the management
exchange of R50 already sets the first LIMIT, and FAR_ADV with it (log entry 120). -/
def State.creditIn (s : State) (p : Plane) (i : Nat) (counts : List (BitVec 16)) (rsv : Bool) : State :=
  let s := s.pchkIf rsv p 3 i 0 0
  let s := s.each (List.range 9) (fun v s =>
    let n := counts.getD v 0
    let s := s.pchkIf (decide (32768 ≤ (n - (s.cred p i v).limRx).toNat)) p 10 i v 0
    s.modCred p i v (fun c => { c with limRx := n, far := some (c.far.getD n) }))
  if s.stage p i = 5 then s.setFlag p Fld.LFP_PORT_STAT.CRED_UP i true else s

/-- A SENT block (R94): missing units are reclaimed, excess units flagged. -/
def State.sentIn (s : State) (p : Plane) (i : Nat) (counts : List (BitVec 16)) (rsv : Bool) : State :=
  let s := s.pchkIf rsv p 3 i 0 0
  s.each (List.range 9) (fun v s =>
    let n := counts.getD v 0
    let d := (n - (s.cred p i v).recv).toNat
    if d = 0 then s
    else if d < 32768 then
      ((s.recvUnits p i v d).freeUnits p i v d).countN p Fld.LFP_CRED_RECON.N 0 d
    else
      let s := s.pchk p 10 i v 0
      (s.modCred p i v (fun c => { c with recv := n })).creditViolation p i v)

/-! ## Ingress checks -/

/-- Checks 1 to 5 of Table 3.8: the counter of the first that fails. `fabric` says that check 4 applies. -/
def State.headerCheck (s : State) (p : Plane) (fabric : Option Nat) (k : Packet) : Option Disc :=
  let h := k.hdr
  let lim := s.fld p Fld.LFP_GLB_CFG.HOP_LIMIT 0
  if h.hcrc ≠ hcrcOf k then some .hcrc
  else if h.ver ≠ 1 ∨ ¬ typeKnown h.type ∨ 8 < h.vc.toNat ∨ 8192 < h.len.toNat ∨ (h.type = tACK ∧ h.len ≠ 0) ∨
      (h.pen ∧ ¬ windowed h) then some .hdr
  else if h.src = 0xFFFF ∨ h.dst = 0xFFFF then some .hdr
  else if h.path && (match fabric with
      | some i => !s.flag p Fld.LFP_PORT_CFG.PATH_EN i
      | none => false) then some .hdr
  else if (if lim = 0 then 16 else lim) ≤ h.hops.toNat then some .hop
  else none

/-- The protocol checker on a packet whose HCRC is good (rules 1 and 3 to 7 of Table 12.6). -/
def State.pchkPacket (s : State) (p : Plane) (i : Nat) (r : RxProg) (k : Packet) : State :=
  let h := k.hdr
  let vc := r.vc.toNat
  let n := hdrNat k
  if h.hcrc ≠ hcrcOf k then s else
    let s := s.pchkIf (decide (r.units ≠ unitsOf k)) p 1 i vc n
    let s := s.pchkIf (h.rsv6 || decide (h.rsv9 ≠ 0) || (h.path && decide (k.ext.rsv ≠ 0))) p 3 i vc n
    let s := s.pchkIf (decide (h.ver ≠ 1) || !typeKnown h.type || decide (8 < h.vc.toNat) ||
      decide (8192 < h.len.toNat) || (decide (h.type = tACK) && decide (h.len ≠ 0)) || (h.pen && !windowed h)) p 4 i vc n
    let s := s.pchkIf (decide (h.src = 0xFFFF) || decide (h.dst = 0xFFFF)) p 5 i vc n
    let s := s.pchkIf (decide (h.wseq ≠ 0) && !windowed h && !(decide (h.type = tACK)) &&
      !(decide (h.type = tREQ) && decide (h.op = 0x03))) p 6 i vc n
    s.pchkIf r.viol p 7 i vc n

/-! ## Meanings -/

/-- SOP_BLOCK (R73): while the counters run. -/
def execSopBlock (p : Plane) (i : Fin 576) (b : SopBlock) (got : BitVec 16) (s : State) : Res :=
  goOn (s.when (s.live p && s.counting p i) (·.sopIn p i b got.toNat))

/-- CREDIT_BLOCK (R92). -/
def execCreditBlock (p : Plane) (i : Fin 576) (counts : List (BitVec 16)) (rsv : Bool) (s : State) : Res :=
  goOn (s.when (s.live p && s.counting p i) (·.creditIn p i counts rsv))

/-- A port's transmitter runs: its counters run and it is not in low-power idle (R61, R93). -/
def State.canSend (s : State) (p : Plane) (i : Nat) : Bool :=
  s.counting p i && (mget {} i (s.pl p).lne.ports).lpi != .asleep && (mget {} i (s.pl p).lne.ports).lpi != .waking

/-- SENT_SEND (R93). -/
def execSentSend (p : Plane) (i : Fin 576) (s : State) : Res :=
  goOn (s.when (s.live p && s.canSend p i) (·.sentSend p i))

/-- PCHK_LINK_SILENCE (R390, rules 8 and 9): no CREDIT, or no SENT, for more than 1 µs in Active. -/
def execPchkLinkSilence (p : Plane) (i : Fin 576) (sent : Bool) (s : State) : Res :=
  goOn (s.when (s.live p && s.portActive p i) (·.pchk p (if sent then 9 else 8) i 0 0))

end Sys2Proof.Machine
end

