-- ==== Sys2Proof/Machine/Lanes.lean ====
section
/-! DEFINITION. Lanes, bring-up, Half-mast, low-power idle and the lane test functions (R35 to R70). -/

namespace Sys2Proof.Machine

/-! ## Lanes and ports -/

def State.modLne (s : State) (p : Plane) (f : LneSt → LneSt) : State := s.modPl p (fun x => { x with lne := f x.lne })
def State.lane (s : State) (p : Plane) (l : Nat) : LaneSt := mget {} l (s.pl p).lne.lanes
def State.modLane (s : State) (p : Plane) (l : Nat) (f : LaneSt → LaneSt) : State :=
  s.modLne p (fun x => { x with lanes := mmod {} l f x.lanes })
def State.port (s : State) (p : Plane) (i : Nat) : PortSt := mget {} i (s.pl p).lne.ports
def State.modPort (s : State) (p : Plane) (i : Nat) (f : PortSt → PortSt) : State :=
  s.modLne p (fun x => { x with ports := mmod {} i f x.ports })

/-- Lanes of a port as configured. -/
def State.portWidth (s : State) (p : Plane) (i : Nat) : Nat := 2 ^ s.widthCode p i

/-- The enabled port that a lane belongs to. -/
def State.portOf (s : State) (p : Plane) (l : Nat) : Option Nat :=
  ((List.range 5).map (fun c => l / 2 ^ c * 2 ^ c)).find? (fun i => s.portEn p i && decide (l < i + s.portWidth p i))

/-- A stage is stored; a bit of a lane's index within its port. -/
def State.setStage (s : State) (p : Plane) (i st : Nat) : State := s.setF p Fld.LNE_PORT_STAT.STAGE i st
def laneBit (i l : Nat) : Nat := 2 ^ (l - i)

/-- All lanes of a port as a mask. -/
def State.fullMask (s : State) (p : Plane) (i : Nat) : Nat := 2 ^ s.portWidth p i - 1

/-- The widest aligned set (R54) among the lanes of a port of width code `w` that `ok` holds: its width code and mask. -/
def widestSet (w ok : Nat) : Option (Nat × Nat) :=
  (List.range (w + 1)).findSome? (fun d =>
    let c := w - d
    ((List.range (2 ^ d)).map (fun g => (2 ^ 2 ^ c - 1) * 2 ^ (g * 2 ^ c))).findSome? (fun m =>
      if Nat.land m ok = m then some (c, m) else none))

/-- The widest aligned set of a port if it is not below MIN_WIDTH. -/
def State.usableSet (s : State) (p : Plane) (i ok : Nat) : Option (Nat × Nat) :=
  match widestSet (s.widthCode p i) ok with
  | some (c, m) => if s.fld p Fld.LNE_PORT_CFG.MIN_WIDTH i ≤ c then some (c, m) else none
  | none => none

/-- Error recovery is host-assisted (Table 9.13, bit 5). -/
def State.hostRecovery (s : State) (p : Plane) : Bool := bit 5 (s.fld p Fld.HIF_FUNC_MODE.MODE 0)

/-- Loopback code 1 or 2 on all lanes of a port (R65). -/
def State.looped (s : State) (p : Plane) (i : Nat) : Bool :=
  (lanesIn i (s.fullMask p i)).all (fun l =>
    s.fld p Fld.LNE_LANE_CFG.LOOPBACK l == 1 || s.fld p Fld.LNE_LANE_CFG.LOOPBACK l == 2)

/-- The inactive lanes of a port: those outside its set. -/
def State.idleMask (s : State) (p : Plane) (i : Nat) : Nat :=
  s.fullMask p i - Nat.land (s.fullMask p i) (s.port p i).set

/-- Lanes start afresh: their bring-up state, their line code and lock bits clear. -/
def State.resetLanes (s : State) (p : Plane) (i mask : Nat) : State :=
  s.each (lanesIn i mask) (fun l s =>
    let s := (s.modLane p l (fun _ => {})).resetWire p l
    let s := s.setFlag p Fld.LNE_LANE_STAT.BIT_LOCK l false
    let s := s.setFlag p Fld.LNE_LANE_STAT.CW_LOCK l false
    let s := s.setFlag p Fld.LNE_LANE_STAT.AM_LOCK l false
    let s := s.setFlag p Fld.LNE_LANE_STAT.LPI l false
    s.setF p Fld.LNE_LANE_STAT.DESKEW l 0)

/-- The active set of a port as LNE_PORT_STAT shows it (Table 2.19). -/
def State.showSet (s : State) (p : Plane) (i c m : Nat) (half : Bool) : State :=
  let s := s.setF p Fld.LNE_PORT_STAT.ACT_WIDTH i c
  let s := s.setF p Fld.LNE_PORT_STAT.ACT_MASK i m
  s.setFlag p Fld.LNE_PORT_STAT.HALF_MAST i half

/-! ## Stages -/

/-- The management exchange of a port ends other than into Active: what it holds is counted (R50). -/
def State.endExchange (s : State) (p : Plane) (i : Nat) : State :=
  let n := (s.port p i).mgmtTx.length
  let s := s.countN p Fld.LNE_QDISC_CNT.N 0 n
  let s := s.modPort p i (fun x => { x with mgmtTx := [] })
  if s.counting p i then s.stopCounters p i else s

/-- A port enters Lock with a set of lanes (R46). -/
def State.enterLock (s : State) (p : Plane) (i m : Nat) : State :=
  ((s.modPort p i (fun x => { x with set := m, txSet := m })).modStream p i (fun _ => {})).setStage p i 3

/-- The laser source of a port's engine is enabled and ready, on the optical variant (R69). -/
def State.laserOk (s : State) (p : Plane) (i : Nat) : Bool :=
  !s.pkg.optical || (mget false (i / 64) (s.pl p).lne.enabled && mget false (i / 64) (s.pl p).lne.lasers)

/-- A port starts at Detect (R41, R42); a looped port skips Detect and Train (R65). -/
def State.enterDetect (s : State) (p : Plane) (i reason : Nat) : State :=
  let s := s.resetLanes p i (s.fullMask p i)
  let loop := s.looped p i
  let s := s.modPort p i (fun x => { ident := x.ident, loop := loop })
  let s := s.showSet p i 0 0 false
  let s := s.setF p Fld.LNE_PORT_STAT.REASON i (if loop || s.laserOk p i then reason else 0xE)
  if loop then s.enterLock p i (s.fullMask p i) else s.setStage p i 1

/-- A port enters Failed (R41): TRAIN_FAIL. -/
def State.enterFailed (s : State) (p : Plane) (i reason : Nat) : State :=
  let s := ((s.enterDetect p i reason).setStage p i 7).setF p Fld.LNE_PORT_STAT.REASON i reason
  s.raise p 0x0105 (wn (portId p i)) [wn reason]

/-- A stage fails (R41). -/
def State.stageFail (s : State) (p : Plane) (i reason : Nat) : State :=
  let s := s.endExchange p i
  let n := min 15 (s.fld p Fld.LNE_PORT_STAT.RETRIES i + 1)
  let s := s.setF p Fld.LNE_PORT_STAT.RETRIES i n
  if s.hostRecovery p ∨ max 1 (s.fld p Fld.LNE_GLB_CFG.RETRY_MAX 0) ≤ n then s.enterFailed p i reason
  else s.enterDetect p i reason

/-- A port leaves Active (R49, R70, R132, R160, R161, R380): LINK_DOWN, flush, log. `held` says that its next entry to
Active has hold-down. -/
def State.leaveActive (s : State) (p : Plane) (i reason : Nat) (held : Bool) : State :=
  let s := s.setF p Fld.LNE_PORT_STAT.REASON i reason
  let s := s.setStage p i 0
  let s := (s.stopCounters p i).setFlag p Fld.LNE_PORT_CTL.RESTORE i false
  let s := s.flushCode p i
  let s := s.cancelHold p i
  let s := s.modSwc p (fun x => { x with
    holdDue := if held then i :: x.holdDue.filter (· ≠ i) else x.holdDue.filter (· ≠ i) })
  let s := s.flip p i
  let s := s.timePortDown p i
  let s := s.cmapGap p i
  let far := BitVec.ofNat 64 ((s.word p .LNE_FAR_ENSIGN i 2).toNat + 2 ^ 32 * (s.word p .LNE_FAR_ENSIGN i 3).toNat)
  let s := s.modPkg (fun x => { x with lastDown := x.lastDown ++ [(portId p i, far)] })
  let s := s.raise p 0x0102 (wn (portId p i)) [wn reason]
  s.logError p 0x02 (portId p i) reason 0 0

/-- An Active port goes down and restarts at Detect, or enters Failed under host-assisted recovery (R57, R288). -/
def State.linkDown (s : State) (p : Plane) (i reason : Nat) : State :=
  let s := s.leaveActive p i reason true
  if s.hostRecovery p then s.enterFailed p i reason else s.enterDetect p i reason

/-- A record field, little-endian. -/
def recField (r : Bytes) (o n : Nat) : Nat := leNat (slice o n r)

/-- The far record of a port: that of the lowest lane of its set. -/
def State.farRec (s : State) (p : Plane) (i : Nat) : Option Bytes :=
  ((lanesIn i (s.port p i).set).head?).bind (fun l => (s.lane p l).rec_)

/-- A port enters Active (R49): counters, set, hold-down, LINK_UP; the marker record starts afresh (Table 4.14). -/
def State.enterActive (s : State) (p : Plane) (i : Nat) : State :=
  let s := if s.counting p i then
      s.each (List.range 9) (fun v s => s.modCred p i v (fun c => { c with far := none }))
    else s.startCounters p i
  let m := (s.port p i).set
  let w := s.widthCode p i
  let c := ((widestSet w m).map (·.1)).getD 0
  let s := s.setStage p i 5
  let s := s.setF p Fld.LNE_PORT_STAT.REASON i 0
  let s := s.setF p Fld.LNE_PORT_STAT.RETRIES i 0
  let s := s.showSet p i c m (decide (c < w))
  let wh := ((s.farRec p i).map (fun r => bit 2 (recField r 44 4))).getD false
  let s := s.setFlag p Fld.LFP_PORT_STAT.FAR_WH i wh
  let s := (s.setFlag p Fld.RTE_MARK_RX.VALID i false).cmapGap p i
  let full := s.fullMask p i
  let s := s.modPort p i (fun x => { x with tail := true, fail := full - m, lpi := .awake, lpiReady := true })
  let s := if (s.pl p).swc.holdDue.contains i then
      (s.modSwc p (fun x => { x with holdDue := x.holdDue.filter (· ≠ i) })).startHold p i
    else s
  s.raise p 0x0101 (wn (portId p i)) [wn c]

/-- The port holds, or stops holding, the management exchange (R50). -/
def State.updateExchange (s : State) (p : Plane) (i : Nat) : State :=
  let cap := ((s.farRec p i).map (fun r => bit 8 (recField r 44 4))).getD false
  let st := s.stage p i
  if (st = 4 ∨ st = 6) ∧ cap ∧ s.flag p Fld.LNE_PORT_CFG.QMGMT i then
    if s.counting p i then s else s.startCounters p i
  else s

/-- The far end is admitted: FLAG is sent, and the port enters Active once it has the far FLAG (R49). -/
def State.admitFar (s : State) (p : Plane) (i : Nat) : State :=
  let s := s.modPort p i (fun x => { x with flag := true })
  let s := (s.setStage p i 4).setF p Fld.LNE_PORT_STAT.REASON i 0
  if (s.port p i).farFlag then s.enterActive p i else s.updateExchange p i

/-- A port enters, or stays in, Quarantine with a reason (R48, R70). -/
def State.quarantine (s : State) (p : Plane) (i reason : Nat) : State :=
  let new := decide (s.stage p i ≠ 6)
  let s := (s.setStage p i 6).setF p Fld.LNE_PORT_STAT.REASON i reason
  let s := s.modPort p i (fun x => { x with flag := false })
  let s := s.updateExchange p i
  if new then s.raise p 0x0103 (wn (portId p i)) [wn reason] else s

/-- Lane checks of R48: the reason of the first that fails, 0 where all pass. -/
def State.laneChecks (s : State) (p : Plane) (i : Nat) : Nat :=
  let ls := lanesIn i (s.port p i).set
  let recs := ls.map (fun l => ((s.lane p l).rec_).getD [])
  let same := fun o n => recs.all (fun r => recField r o n == recField (recs.headD []) o n)
  let idx := recs.map (fun r => recField r 39 1)
  if ¬ (same 8 8 && same 16 16 && same 36 2 && decide ((dedup idx).length = idx.length)) then 7
  else if ¬ ls.all (fun l => (s.lane p l).farWidth == s.widthCode p i) then 8
  else 0

/-- A port takes its wiring plan entry as it stands: at its entry to Exchange, and on a write in Quarantine (R52). -/
def State.takePlan (s : State) (p : Plane) (i : Nat) : State :=
  s.modPort p i (fun x => { x with plan := [s.word p .LNE_WIRE_CTL i 0, s.word p .LNE_WIRE_ID i 0,
    s.word p .LNE_WIRE_SER i 0, s.word p .LNE_WIRE_SER i 1, s.word p .LNE_WIRE_FAB i 0] })

/-- Plan checks of R48 against the entry taken: the reason of the first that fails, 0 where all pass. -/
def State.planChecks (s : State) (p : Plane) (i : Nat) (r : Bytes) : Nat :=
  let w := fun k => (s.port p i).plan.getD k 0
  let chk := Fld.LNE_WIRE_CTL.CHECK.of (w 0)
  if Fld.LNE_WIRE_CTL.VALID.of (w 0) ≠ 1 then 1
  else if bit 4 chk ∧ recField r 1 1 ≠ Fld.LNE_WIRE_CTL.EXP_ROLE.of (w 0) then 2
  else if bit 3 chk ∧ recField r 8 8 ≠ (w 2).toNat + 2 ^ 32 * (w 3).toNat then 3
  else if bit 2 chk ∧ recField r 32 2 ≠ Fld.LNE_WIRE_ID.EXP_EP_ID.of (w 1) then 4
  else if bit 1 chk ∧ recField r 36 2 ≠ Fld.LNE_WIRE_ID.EXP_PORT_ID.of (w 1) then 5
  else if bit 0 chk ∧ recField r 40 4 ≠ (w 4).toNat then 6
  else 0

/-- Every record carries the admitted identity (R51). -/
def State.identOk (s : State) (p : Plane) (i : Nat) : Bool :=
  match (s.port p i).ident with
  | none => false
  | some (fp, port) => (lanesIn i (s.port p i).set).all (fun l =>
      match (s.lane p l).rec_ with
      | some r => slice 16 16 r == fp && recField r 36 2 == port
      | none => false)

/-- The checks of R48 on the records received. -/
def State.ensignCheck (s : State) (p : Plane) (i : Nat) : State :=
  match s.farRec p i with
  | none => s
  | some r =>
    let lc := s.laneChecks p i
    if lc ≠ 0 then s.quarantine p i lc
    else if (s.port p i).loop ∨ s.identOk p i then s.admitFar p i
    else
      let pc := s.planChecks p i r
      if pc ≠ 0 then s.quarantine p i pc
      else if s.flag p Fld.LNE_PORT_CFG.AUTO_ADMIT i then s.admitFar p i
      else s.quarantine p i 9

/-! ## Training -/

/-- A lane starts to train: its first frame requests preset 1 (R44), and the mode of link adaptation is taken for this
training (Table 9.13, bit 0). -/
def State.startTrain (s : State) (p : Plane) (i mask : Nat) : State :=
  let host := bit 0 (s.fld p Fld.HIF_FUNC_MODE.MODE 0)
  s.each (lanesIn i mask) (fun l s => s.modLane p l (fun _ => { reqPre := 1, host := host }))

/-- Lanes that train: those of a port in Train, or the inactive lanes of a port that restores (R59). -/
def State.trains (s : State) (p : Plane) (i l : Nat) : Bool :=
  let x := s.port p i
  bit (l - i) x.det && (s.stage p i == 2 || (s.stage p i == 5 && x.restoring && bit (l - i) (s.idleMask p i)))

/-- The 16 bytes of the training control field (Table 2.6). The table gives SEED and CRC16 no byte order; this model takes
the low byte first, as of TX_LANE (log entry 121). -/
def trainBytes (lane seq : Nat) (x : LaneSt) : Bytes :=
  let b := [0xA5, BitVec.ofNat 8 (128 * b2n x.ready + 16 * x.reqPre + seq % 16), x.reqA, x.reqB, x.statA,
    BitVec.ofNat 8 (x.statB.toNat / 64 * 64 + 16 * x.statPre)] ++ leBytes 2 lane ++ leBytes 2 (0x1000 + lane % 576) ++
    [0, 0, 0, 0]
  b ++ leBytes 2 (crcMsb 16 0x1021 0xFFFF b)

/-- Set of detected lanes trained: the port locks once every lane of its training set has trained (R44). -/
def State.trainDone (s : State) (p : Plane) (i : Nat) : State :=
  let x := s.port p i
  if s.stage p i = 2 ∧ (lanesIn i x.det).all (fun l => (s.lane p l).trained) then
    match s.usableSet p i x.det with
    | some (_, m) => s.enterLock p i m
    | none => s
  else s

/-- A lane has sent and received RX_READY in 16 consecutive frames (R44). -/
def State.laneTrained (s : State) (p : Plane) (i l : Nat) : State :=
  let x := s.lane p l
  if 16 ≤ x.readySent ∧ 16 ≤ x.readyGot ∧ x.trained = false then
    ((s.modLane p l (fun x => { x with trained := true })).setFlag p Fld.LNE_LANE_STAT.LANE_FAIL l false).trainDone p i
  else s

/-- Two bits of a byte: tap t, from bits [7:6] down. -/
def tap2 (b : Byte) (t : Nat) : Nat := bits (7 - 2 * t) (6 - 2 * t) b.toNat

/-- The FFE tap fields of LNE_TX_COEF in the order of REQ_A and REQ_B. -/
def coefFld : Nat → Fld
  | 0 => Fld.LNE_TX_COEF.CM3
  | 1 => Fld.LNE_TX_COEF.CM2
  | 2 => Fld.LNE_TX_COEF.CM1
  | 3 => Fld.LNE_TX_COEF.C0
  | _ => Fld.LNE_TX_COEF.CP1

/-- One tap request is carried out (R44): the new report of the tap. A tap whose report is held changes no more. -/
def State.moveTap (s : State) (p : Plane) (l t req rep : Nat) : Nat × State :=
  if req = 0 then (0, s)
  else if rep ≠ 0 ∨ req = 3 then (rep, s)
  else
    let c := toInt 6 (s.fldL p (coefFld t) l)
    let c' := if req = 1 then c + 1 else c - 1
    if c' < -32 ∨ 31 < c' then (2, s) else (1, match s.loose? p (coefFld t) l with
      | some _ => s.setFree p (coefFld t) l (ofInt 6 c')
      | none => s.setF p (coefFld t) l (ofInt 6 c'))

/-- A preset is applied (Table 2.6): preset 1 sets c(0) to its maximum and the other taps to 0; of the others the spec
gives the ratios and not the taps, which are free values. Codes 4 to 7 have no meaning in the table; this model takes them
as presets whose taps are free and reports them applied (log entry 123). -/
def State.applyPreset (s : State) (p : Plane) (l pre : Nat) : State :=
  if pre = 1 then
    s.each [0, 1, 2, 3, 4] (fun t s =>
      (s.setF p (coefFld t) l (if t = 3 then 31 else 0)).endFree p (coefFld t) l)
  else
    s.each [0, 1, 2, 3, 4] (fun t s =>
      let (f, s) := s.takeFree
      s.setFree p (coefFld t) l (Config.freeNat f % 64))

/-- Request bits returned to hold where a report has come (R44 step 3). -/
def holdTaps (req stat : Byte) : Byte :=
  BitVec.ofNat 8 (((List.range 4).map (fun t => if tap2 stat t = 0 then tap2 req t * 4 ^ (3 - t) else 0)).sum)

/-- A tap request byte without the reserved code 11. -/
def cleanReq (n : Nat) : Byte :=
  BitVec.ofNat 8 (((List.range 4).map (fun t => n / 4 ^ (3 - t) % 3 * 4 ^ (3 - t))).sum)

/-- The responder's part of a training frame (R44): the presets or the tap requests of the partner are taken, and the
status to return is kept. -/
def State.trainAnswer (s : State) (p : Plane) (l pre : Nat) (ra rb : Byte) : State :=
  let x := s.lane p l
  if pre ≠ 0 then
    let s := if x.statPre = 0 then s.applyPreset p l pre else s
    s.modLane p l (fun y => { y with statPre := 1 })
  else
    let r0 := s.moveTap p l 0 (tap2 ra 0) (tap2 x.statA 0)
    let r1 := r0.2.moveTap p l 1 (tap2 ra 1) (tap2 x.statA 1)
    let r2 := r1.2.moveTap p l 2 (tap2 ra 2) (tap2 x.statA 2)
    let r3 := r2.2.moveTap p l 3 (tap2 ra 3) (tap2 x.statA 3)
    let r4 := r3.2.moveTap p l 4 (tap2 rb 0) (tap2 x.statB 0)
    r4.2.modLane p l (fun y => { y with
      statA := BitVec.ofNat 8 (64 * r0.1 + 16 * r1.1 + 4 * r2.1 + r3.1)
      statB := BitVec.ofNat 8 (64 * r4.1)
      statPre := 0 })

/-- The requester's part (R44 step 3): requests go back to hold as their reports come; a lane with none pending that has
not converged makes new ones on the taps of `taps`, which the spec leaves to it (free). A host-assisted training makes
none. -/
def LaneSt.ask (x : LaneSt) (free taps fp : Nat) (fa fb : Byte) (converged : Bool) : LaneSt :=
  let qp := if fp = 1 then 0 else x.reqPre
  let qa := holdTaps x.reqA fa
  let qb := holdTaps x.reqB fb
  let idle := decide (qp = 0 ∧ qa = 0 ∧ qb = 0 ∧ fp = 0 ∧ fa = 0 ∧ fb = 0)
  let new := idle && !converged && !x.host
  { x with
    reqPre := qp
    reqA := if new then cleanReq (Nat.land free taps) else qa
    reqB := if new then cleanReq (free / 256 % 4 * 64) else qb
    ready := if x.host then x.ready else converged && idle }
def State.trainAsk (s : State) (p : Plane) (l fp : Nat) (fa fb : Byte) (converged : Bool) : State :=
  s.takeFree.2.modLane p l (fun x => x.ask (Config.freeNat s.free) 0xFF fp fa fb converged)

/-- A training frame on a lane (R43, R44). One with a good CRC whose TYPE is not 0xA5 is ignored, of which the spec does
not speak (log entry 122). -/
def State.trainFrame (s : State) (p : Plane) (i l : Nat) (b : Bytes) (converged : Bool) : State :=
  let n := leNat (slice 0 16 b)
  if bits 7 0 n ≠ 0xA5 ∨ bits 127 112 n ≠ crcMsb 16 0x1021 0xFFFF (slice 0 14 b) then s else
    let s := s.setFlag p Fld.LNE_LANE_STAT.SIG_DET l true
    let s := s.trainAnswer p l (bits 14 12 n) (BitVec.ofNat 8 (bits 23 16 n)) (BitVec.ofNat 8 (bits 31 24 n))
    let s := s.trainAsk p l (bits 45 44 n) (BitVec.ofNat 8 (bits 39 32 n)) (BitVec.ofNat 8 (bits 47 46 n * 64)) converged
    let s := s.modLane p l (fun y => { y with readyGot := if bit 15 n then y.readyGot + 1 else 0 })
    s.laneTrained p i l

/-- A training frame leaves on a lane; the precoder goes on from its last symbol. -/
def State.sendTrain (s : State) (p : Plane) (i l : Nat) : State :=
  let x := s.lane p l
  let b := trainBytes (576 * p.num + l) x.frames x
  let levels := trainLevels b (0x1000 + l)
  let s := (s.drive p l levels).modWire p l (fun y => { y with pre := levels.getLastD 0 })
  let s := s.emit (.trainFrame p l b)
  let s := s.modLane p l (fun y => { y with
    frames := y.frames + 1
    readySent := if y.ready then y.readySent + 1 else 0 })
  s.laneTrained p i l

/-! ## Half-mast -/

/-- The mask of failed lanes that a port announces (R58, R59). -/
def PortSt.mask (x : PortSt) : Nat := x.fail - Nat.land x.fail x.restored

/-- A width exchange starts, or starts again (R58). -/
def State.startChange (s : State) (p : Plane) (i : Nat) : State :=
  s.modPort p i (fun x => { x with changing := true, agreed := false, swTx := false, swRx := false })

/-- The new set of a width exchange: the widest aligned set outside the merged mask. -/
def State.newSet (s : State) (p : Plane) (i : Nat) : Option (Nat × Nat) :=
  widestSet (s.widthCode p i) (s.fullMask p i - Nat.land (s.fullMask p i) (s.port p i).mask)

/-- After its own SWITCH block the transmitter deals to the new set only; after the far end's the receiver uses it. -/
def State.moveTx (s : State) (p : Plane) (i : Nat) : State :=
  match s.newSet p i with
  | some (_, m) => (s.modPort p i (fun x => { x with txSet := m })).modStream p i (fun x => { x with turn := 0 })
  | none => s
def State.moveRx (s : State) (p : Plane) (i : Nat) : State :=
  match s.newSet p i with
  | some (_, m) => (s.modPort p i (fun x => { x with set := m })).modStream p i (fun x => { x with rturn := 0 })
  | none => s

/-- The words of the far record are shown in LNE_FAR_ENSIGN: those of the lowest active lane (Table 2.13). -/
def State.showFar (s : State) (p : Plane) (i : Nat) : State :=
  match s.farRec p i with
  | some r => s.setWords p .LNE_FAR_ENSIGN i ((List.range 16).map (fun k => wn (recField r (4 * k) 4)))
  | none => s

/-- Both SWITCH blocks are exchanged: the port runs on its new set; HALF_MAST where it differs from the one before (R58,
R70). -/
def State.endChange (s : State) (p : Plane) (i : Nat) : State :=
  let x := s.port p i
  if x.changing ∧ x.swTx ∧ x.swRx then
    let f := x.mask
    let w := s.widthCode p i
    match s.newSet p i with
    | some (c, m) =>
      let s := s.modPort p i (fun x => { x with
        changing := false
        fail := f
        restoring := false
        restored := 0 })
      let s := s.setFlag p Fld.LNE_PORT_CTL.RESTORE i false
      let old := s.fld p Fld.LNE_PORT_STAT.ACT_MASK i
      let s := (s.showSet p i c m (decide (c < w))).showFar p i
      if old = m then s else s.raise p 0x0104 (wn (portId p i)) [wn m, wn c]
    | none => s
  else s

/-- Failed lanes are merged into the port's mask: a new width exchange, or the port goes down with reason 0xD (R57). -/
def State.mergeFail (s : State) (p : Plane) (i mask : Nat) : State :=
  let s := s.modPort p i (fun x => { x with fail := Nat.lor x.fail mask, restored := x.restored - Nat.land x.restored mask })
  match s.usableSet p i (s.fullMask p i - (s.port p i).mask) with
  | some _ => s.startChange p i
  | none => s.linkDown p i 0xD

/-- A lane is declared failed (R37, R39, R57). Cause as in Table 11.13. -/
def State.laneFail (s : State) (p : Plane) (i l cause : Nat) : State :=
  if s.flag p Fld.LNE_LANE_STAT.LANE_FAIL l then s else
    let s := s.setFlag p Fld.LNE_LANE_STAT.LANE_FAIL l true
    let s := s.setFlag p Fld.LNE_LANE_STAT.AM_LOCK l false
    let s := s.logError p 0x01 (576 * p.num + l) (portId p i) cause 0
    let x := s.port p i
    let st := s.stage p i
    if st = 5 then
      if bit (l - i) (s.idleMask p i) then
        s.modPort p i (fun x => { x with
          fail := Nat.lor x.fail (laneBit i l)
          restored := x.restored - Nat.land x.restored (laneBit i l) })
      else s.mergeFail p i (laneBit i l)
    else if st = 6 then
      match s.usableSet p i (x.set - Nat.land x.set (maskOf 16 (fun k =>
          s.flag p Fld.LNE_LANE_STAT.LANE_FAIL (i + k)))) with
      | some _ => s
      | none => (s.endExchange p i).enterDetect p i 0xD
    else s

/-- Does a lane's receiver take markers: one of its port's set from Lock on, or an inactive one under restore (R59). -/
def State.takesMarkers (s : State) (p : Plane) (i l : Nat) : Bool :=
  let st := s.stage p i
  let x := s.port p i
  (decide (3 ≤ st ∧ st ≤ 6) && bit (l - i) x.set) || (st == 5 && x.restoring && bit (l - i) (s.idleMask p i))

/-- A restore of the inactive lanes starts (R59). -/
def State.startRestore (s : State) (p : Plane) (i : Nat) : State :=
  let x := s.port p i
  let m := s.idleMask p i
  if s.stage p i = 5 ∧ m ≠ 0 ∧ x.restoring = false then
    let s := s.resetLanes p i m
    let s := s.startTrain p i m
    let s := s.modPort p i (fun x => { x with restoring := true, restored := 0, sensed := 0, det := 0 })
    s.setFlag p Fld.LNE_PORT_CTL.RESTORE i true
  else s

/-- TRAIN_MAX has passed in a restore: inactive lanes that have not locked stay failed, or fail now (log entry 125), and a
width exchange follows where the mask has changed (R59). -/
def State.restoreEnd (s : State) (p : Plane) (i : Nat) : State :=
  let x := s.port p i
  let rest := s.idleMask p i - Nat.land (s.idleMask p i) x.restored
  let s := s.modPort p i (fun x => { x with fail := Nat.lor x.fail rest })
  if (s.port p i).mask = x.fail then
    (s.modPort p i (fun x => { x with restoring := false, restored := 0 })).setFlag p Fld.LNE_PORT_CTL.RESTORE i false
  else s.startChange p i

/-! ## Markers -/

/-- The record and marker fields of a lane's AM block (Table 2.4), bytes 1 to 31. -/
def amBytes (lane idx w : Nat) (count : BitVec 32) : Bytes :=
  [0] ++ leBytes 2 lane ++ [BitVec.ofNat 8 (16 * idx + w)] ++ leBytes 4 count.toNat ++
    (List.range 23).map (fun k => if k % 2 = 0 then 0xC6 else 0x39)

/-- Every lane of the set has marker lock: the port deskews and enters Exchange, or fails Lock (R39, R46). -/
def State.lockDone (s : State) (p : Plane) (i : Nat) : State :=
  let ls := lanesIn i (s.port p i).set
  if s.stage p i = 3 ∧ ls.all (fun l => s.flag p Fld.LNE_LANE_STAT.AM_LOCK l) then
    if ls.any (fun l => decide (7168 < (s.lane p l).skew)) then s.stageFail p i 0xB
    else (s.takePlan p i).setStage p i 4
  else s

/-- A lane of a restore has locked within the skew that the receiver absorbs (R39): once all inactive lanes have, the
width exchange with the reduced mask begins (R59). -/
def State.restoreLock (s : State) (p : Plane) (i l : Nat) : State :=
  if 7168 < (s.lane p l).skew then s.setFlag p Fld.LNE_LANE_STAT.AM_LOCK l false else
    let s := s.modPort p i (fun x => { x with restored := Nat.lor x.restored (laneBit i l) })
    if Nat.land (s.port p i).restored (s.idleMask p i) = s.idleMask p i then s.startChange p i else s

/-- A wake ends once every lane has marker lock again (R62). -/
def State.wakeDone (s : State) (p : Plane) (i : Nat) : State :=
  let x := s.port p i
  if x.lpi = .waking ∧ (lanesIn i x.set).all (fun l => s.flag p Fld.LNE_LANE_STAT.AM_LOCK l) then
    s.modPort p i (fun x => { x with lpi := .awake })
  else s

/-- An AM block on a lane (R39). The first gives codeword lock, the second at its place marker lock; later, two missing or
misplaced in a row lose it. The lane's SNR estimate is a measured value, free from marker lock on (log entry 127). -/
def State.markerIn (s : State) (p : Plane) (i l : Nat) (b : Bytes) (atSpacing : Bool) (skew : Nat) : State :=
  let x := s.lane p l
  let count := BitVec.ofNat 32 (leNat (slice 4 4 b))
  let good := atSpacing && decide (count = x.amNext)
  let s := s.modLane p l (fun y => { y with
    farIdx := leNat (slice 3 1 b) / 16
    farWidth := leNat (slice 3 1 b) % 16
    amNext := count + 1
    skew := skew })
  let s := s.setFlag p Fld.LNE_LANE_STAT.SIG_DET l true
  if s.flag p Fld.LNE_LANE_STAT.AM_LOCK l then
    if good then s.modLane p l (fun y => { y with amMiss := 0 })
    else if 1 ≤ x.amMiss then s.laneFail p i l 3
    else s.modLane p l (fun y => { y with amMiss := 1 })
  else
    let s := s.setFlag p Fld.LNE_LANE_STAT.BIT_LOCK l true
    let s := s.setFlag p Fld.LNE_LANE_STAT.CW_LOCK l true
    if 1 ≤ x.amRun ∧ good then
      let s := s.modLane p l (fun y => { y with amRun := 2, amMiss := 0 })
      let s := s.setFlag p Fld.LNE_LANE_STAT.AM_LOCK l true
      let s := s.setF p Fld.LNE_LANE_STAT.DESKEW l (min 8191 skew)
      let (f, s) := s.takeFree
      let s := s.setFree p Fld.LNE_LANE_STAT.SNR l (Config.freeNat f % 512)
      if (s.port p i).restoring ∧ bit (l - i) (s.idleMask p i) then
        if (s.lane p l).trained then s.restoreLock p i l else s
      else (s.lockDone p i).wakeDone p i
    else s.modLane p l (fun y => { y with amRun := 1 })

/-! ## Ensign -/

/-- The record that a plane sends on a lane of a port (Table 2.7). -/
def State.ownRecord (s : State) (p : Plane) (i l : Nat) : Bytes :=
  let gold := s.golden p i
  let ep := if gold ∧ s.flag p Fld.TST_GEP_ID.VALID i then s.fld p Fld.TST_GEP_ID.ID i else 0xFFFF
  let slot := if s.flag p Fld.TOP_STRAP.CASC_EN 0 then s.fld p Fld.TOP_STRAP.CASC_PRIO 0 else 0xFF
  let cap := 0x8F + 256 * s.fld p Fld.LNE_PORT_CFG.QMGMT i
  let b := [0x01, if gold then 0x03 else 0x01] ++ leBytes 2 1 ++ leBytes 2 0x1152 ++
    [BitVec.ofNat 8 (16 * b2n s.pkg.optical + 1), if gold then 0xFF else BitVec.ofNat 8 p.num] ++
    leBytes 8 Config.serial.toNat ++ slice 0 16 Config.idFp ++ leBytes 2 ep ++ leBytes 2 (576 * p.num + l) ++
    leBytes 2 (portId p i) ++ [0x1F] ++ leBytes 1 (l - i) ++ leBytes 4 (s.fld p Fld.LNE_FABRIC_ID.ID 0) ++
    leBytes 4 cap ++ leBytes 2 8192 ++ leBytes 1 slot ++ List.replicate 9 0
  b ++ leBytes 4 (crc32 b).toNat

/-- A complete record on a lane: received once two in a row are identical with a good CRC (R47). -/
def recordIn (x : LaneSt) (r : Bytes) : LaneSt :=
  if leNat (slice 60 4 r) ≠ (crc32 (slice 0 60 r)).toNat then { x with last := none, frags := [] }
  else { x with
    frags := []
    last := some r
    rec_ := if x.last = some r then some r else x.rec_ }

/-- A fragment on a lane. -/
def fragIn (x : LaneSt) (idx : Nat) (f : Bytes) : LaneSt :=
  if idx = x.frags.length then
    if idx = 3 then recordIn x (x.frags.flatten ++ f) else { x with frags := x.frags ++ [f] }
  else if idx = 0 then { x with frags := [f] }
  else { x with frags := [] }

/-- Every lane of the set has its record. -/
def State.recsIn (s : State) (p : Plane) (i : Nat) : Bool :=
  (lanesIn i (s.port p i).set).all (fun l => (s.lane p l).rec_.isSome)

/-- An ENSIGN block on a lane (R47 to R49). -/
def State.ensignIn (s : State) (p : Plane) (i l : Nat) (b : Bytes) : State :=
  let b0 := leNat (slice 0 1 b)
  let st := s.stage p i
  if st = 5 then
    let s := s.modLane p l (fun x => fragIn x (b0 % 4) (slice 1 16 b))
    (s.modPort p i (fun x => { x with tail := true })).showFar p i
  else if st = 4 ∨ st = 6 then
    let had := s.recsIn p i
    let s := s.modLane p l (fun x => fragIn x (b0 % 4) (slice 1 16 b))
    let s := s.modPort p i (fun x => { x with farFlag := bit 7 b0 })
    let s := s.showFar p i
    if s.recsIn p i ∧ ¬ had then s.ensignCheck p i
    else if st = 4 ∧ (s.port p i).flag ∧ (s.port p i).farFlag then s.enterActive p i
    else s
  else s

/-! ## Low-power idle -/

/-- Low-power idle is permitted on a port: LPI_EN, or throttle level 7 (R61, Table 10.11). -/
def State.lpiOn (s : State) (p : Plane) (i : Nat) : Bool := s.flag p Fld.LNE_PORT_CFG.LPI_EN i || s.thrLevel p == 7

/-- Both ends stop their transmitters (R61). -/
def State.lpiEnter (s : State) (p : Plane) (i : Nat) : State :=
  let s := s.modPort p i (fun x => { x with lpi := .asleep })
  s.each (lanesIn i (s.port p i).set) (fun l s => s.setFlag p Fld.LNE_LANE_STAT.LPI l true)

/-- A wake starts (R62), by the port itself or on the far end's pattern: the wake pattern leaves on every lane. -/
def State.lpiWake (s : State) (p : Plane) (i : Nat) : State :=
  if (s.port p i).lpi = .asleep then
    let s := s.modPort p i (fun x => { x with lpi := .waking })
    let s := s.each (s.txLanes p i) (fun l s => if s.silent p l then s else s.emit (.wake p l))
    s.each (lanesIn i (s.port p i).set) (fun l s =>
      let s := s.modLane p l (fun x => { x with amRun := 0, amMiss := 0 })
      (s.setFlag p Fld.LNE_LANE_STAT.LPI l false).setFlag p Fld.LNE_LANE_STAT.AM_LOCK l false)
  else s

/-- Nothing waits to be sent on a port. -/
def State.txQuiet (s : State) (p : Plane) (i : Nat) : Bool :=
  (s.tx? p i).isNone && (List.range 9).all (fun v => (s.stg p i v).isEmpty)

/-- The receive side is idle too: no packet is being received (R61). -/
def State.rxQuiet (s : State) (p : Plane) (i : Nat) : Bool := (s.link p i).rx.isNone

/-- A slot block leaves in one position on every active lane of a port that has not failed (R33, R58). -/
def State.slotBlock (s : State) (p : Plane) (i : Nat) (kind : Byte) (b : Bytes) : State :=
  let x := s.port p i
  (s.slotAll p i (lanesIn i (x.txSet - Nat.land x.txSet x.fail)) (fun _ => ctlBlock kind.toNat b)).emit (.block p i kind (slice 0 31 b))

/-! ## Port configuration -/

/-- Does a write that sets PORT_EN break R55. -/
def State.cfgBad (s : State) (p : Plane) (i : Nat) (v : Word) : Bool :=
  let w := Fld.LNE_PORT_CFG.WIDTH.of v
  let m := Fld.LNE_PORT_CFG.MIN_WIDTH.of v
  decide (4 < w) || decide (4 < m) || decide (w < m) || decide (i % 2 ^ w ≠ 0) ||
  (List.range (2 ^ w)).any (fun k => (s.portOf p (i + k)).isSome) ||
  !s.unitOk p i

/-- The writable bits of a register word: its RW fields. -/
def Reg.rwPut (r : Reg) (w : Nat) (old v : Word) : Word :=
  ((r.fieldsOf w).filter (fun f => f.acc == .rw)).foldl (fun a f => f.put (f.of v) a) old

/-- The RW fields of a port's configuration take a written value. -/
def State.storeCfg (s : State) (p : Plane) (i : Nat) (v : Word) : State :=
  s.setWord p .LNE_PORT_CFG i 0 (Reg.rwPut .LNE_PORT_CFG 0 (s.word p .LNE_PORT_CFG i 0) v)

/-- PORT_EN is set from 0 to 1 (R55, R56, R161). -/
def State.portOn (s : State) (p : Plane) (i : Nat) (v : Word) : State :=
  if s.cfgBad p i v then s.setFlag p Fld.LNE_PORT_STAT.CFG_REJ i true else
    let s := s.storeCfg p i v
    let s := s.modSwc p (fun x => { x with holdDue := x.holdDue.filter (· ≠ i) })
    let s := s.setF p Fld.LNE_PORT_STAT.RETRIES i 0
    let s := s.modPort p i (fun _ => {})
    if s.isActive then s.enterDetect p i 0 else s

/-- A port is taken out of whatever stage it is in. -/
def State.portDown (s : State) (p : Plane) (i reason : Nat) (held : Bool) : State :=
  if s.stage p i = 5 then s.leaveActive p i reason held else (s.endExchange p i).flip p i

/-- PORT_EN is cleared (R56): the port goes down in the cycle written. -/
def State.portOff (s : State) (p : Plane) (i : Nat) (v : Word) : State :=
  let s := s.portDown p i 0 false
  let s := s.resetLanes p i (s.fullMask p i)
  let s := s.modPort p i (fun _ => {})
  let s := (s.setStage p i 0).showSet p i 0 0 false
  let s := (s.setF p Fld.LNE_PORT_STAT.REASON i 0).setF p Fld.LNE_PORT_STAT.RETRIES i 0
  let s := s.modSwc p (fun x => { x with holdDue := x.holdDue.filter (· ≠ i) })
  s.storeCfg p i v

/-! ## Meanings: bring-up -/

/-- Do something for the enabled port that a lane belongs to. -/
def State.onLane (s : State) (p : Plane) (l : Nat) (f : Nat → State → State) : State :=
  if s.live p then
    match s.portOf p l with
    | some i => f i s
    | none => s
  else s

/-- PORT_ENABLE (R55). -/
def execPortEnable (p : Plane) (i : Fin 576) (v : Word) (s : State) : Res :=
  goOn (s.when (s.live p && !s.portEn p i && bit 31 v.toNat) (·.portOn p i v))

/-- PORT_DISABLE (R56). -/
def execPortDisable (p : Plane) (i : Fin 576) (v : Word) (s : State) : Res :=
  goOn (s.when (s.live p && s.portEn p i && !bit 31 v.toNat) (·.portOff p i v))

/-- One sense of Detect (R42): a lane is detected after two successive senses agree. -/
def State.senseIn (s : State) (p : Plane) (i mask : Nat) : State :=
  let full := s.fullMask p i
  let s := s.modPort p i (fun x => { x with det := Nat.land (Nat.land x.sensed mask) full, sensed := mask })
  if s.stage p i = 1 then
    let s := if s.fld p Fld.LNE_PORT_STAT.REASON i = 0xE then s.setF p Fld.LNE_PORT_STAT.REASON i 0 else s
    match s.usableSet p i (s.port p i).det with
    | some _ => (s.startTrain p i (s.port p i).det).setStage p i 2
    | none => s
  else s

/-- DETECT_SENSE (R42, R69): a port in Detect, or the inactive lanes of one that restores. -/
def execDetectSense (p : Plane) (i : Fin 576) (mask : BitVec 16) (s : State) : Res :=
  goOn (s.when (s.live p && s.portEn p i && bit (i.val / 32) (s.fld p Fld.EPC_GATE_STAT.PG_PWR 0) &&
      (s.stage p i == 1 || (s.stage p i == 5 && (s.port p i).restoring))) (fun s =>
    if s.laserOk p i then s.senseIn p i mask.toNat
    else if s.stage p i = 1 then s.setF p Fld.LNE_PORT_STAT.REASON i 0xE else s))

/-- TRAIN_TIMEOUT (R45): in Train, or of a restore (R59). -/
def execTrainTimeout (p : Plane) (i : Fin 576) (s : State) : Res :=
  goOn (s.when (s.live p && s.portEn p i) (fun s =>
    let x := s.port p i
    let done := maskOf 16 (fun k => bit k x.det && (s.lane p (i + k)).trained)
    if s.stage p i = 2 then
      match s.usableSet p i done with
      | some (_, m) => s.enterLock p i m
      | none => s.stageFail p i 0xA
    else if s.stage p i = 5 ∧ x.restoring then
      s.restoreEnd p i
    else s))

/-- ALIGNMENT_MARKER (R39). -/
def execAlignmentMarker (p : Plane) (lane : Fin 576) (bytes : Bytes) (atSpacing : Bool) (skew : BitVec 16) (s : State) :
    Res :=
  goOn (s.onLane p lane (fun i s =>
    if s.takesMarkers p i lane then s.markerIn p i lane bytes atSpacing skew.toNat else s))

/-- MARKER_LOSS (R39): two markers in a row missing or misplaced. -/
def execMarkerLoss (p : Plane) (lane : Fin 576) (s : State) : Res :=
  goOn (s.onLane p lane (fun i s =>
    if s.flag p Fld.LNE_LANE_STAT.AM_LOCK lane then
      (s.modLane p lane (fun x => { x with amRun := 0, amMiss := 0 })).laneFail p i lane 3
    else s))

/-- LOCK_TIMEOUT (R41). -/
def execLockTimeout (p : Plane) (i : Fin 576) (s : State) : Res :=
  goOn (s.when (s.live p && s.portEn p i && s.stage p i == 3) (·.stageFail p i 0xB))

/-- Loss of signal detect for 100 ns, by stage (R37, R41). -/
def State.signalLost (s : State) (p : Plane) (i l : Nat) : State :=
  let x := s.port p i
  let st := s.stage p i
  if st = 5 ∧ x.lpi = .asleep then s else
    let s := s.setFlag p Fld.LNE_LANE_STAT.SIG_DET l false
    if st = 2 then s.modLane p l (fun y => { y with trained := false, readySent := 0, readyGot := 0 })
    else if st = 3 ∧ bit (l - i) x.set then s.stageFail p i 0xB
    else if st = 4 ∧ bit (l - i) x.set then s.stageFail p i 0xC
    else if st = 5 ∨ st = 6 then s.laneFail p i l 2
    else s

/-- SIGNAL_DETECT_LOSS (R37, R41). -/
def execSignalDetectLoss (p : Plane) (lane : Fin 576) (s : State) : Res :=
  goOn (s.onLane p lane (fun i s => s.signalLost p i lane))

/-- ENSIGN_BLOCK (R47, R48, R49). -/
def execEnsignBlock (p : Plane) (lane : Fin 576) (bytes : Bytes) (s : State) : Res :=
  goOn (s.onLane p lane (fun i s => if bit (lane - i) (s.port p i).set then s.ensignIn p i lane bytes else s))

/-- EXCHANGE_TIMEOUT (R41): the records have not been received within 10 ms. -/
def execExchangeTimeout (p : Plane) (i : Fin 576) (s : State) : Res :=
  goOn (s.when (s.live p && s.portEn p i && s.stage p i == 4 && !s.recsIn p i) (·.stageFail p i 0xC))

/-- ENSIGN_TAIL_END (R49). -/
def execEnsignTailEnd (p : Plane) (i : Fin 576) (s : State) : Res :=
  goOn (s.when (s.live p && s.portActive p i) (·.modPort p i (fun x => { x with tail := false })))

/-- ADMIT (R51). -/
def State.admitWrite (s : State) (p : Plane) (i : Nat) : State :=
  let r := s.fld p Fld.LNE_PORT_STAT.REASON i
  if s.stage p i = 6 ∧ r ≠ 7 ∧ r ≠ 8 then
    match s.farRec p i with
    | some rec_ =>
      (s.modPort p i (fun x => { x with ident := some (slice 16 16 rec_, recField rec_ 36 2) })).admitFar p i
    | none => s
  else s
def execPortAdmit (p : Plane) (i : Fin 576) (s : State) : Res :=
  goOn (s.when (s.live p && s.portEn p i) (·.admitWrite p i))

/-- RETRAIN (Table 2.18): the port goes down, restarts at Detect, and its retry count clears. -/
def State.retrainPort (s : State) (p : Plane) (i : Nat) : State :=
  let s := s.portDown p i 0 true
  (s.setF p Fld.LNE_PORT_STAT.RETRIES i 0).enterDetect p i 0
def execRetrain (p : Plane) (i : Fin 576) (s : State) : Res :=
  goOn (s.when (s.live p && s.portEn p i && s.isActive && s.unitOk p i) (·.retrainPort p i))

/-- RESTORE (R59). -/
def execRestore (p : Plane) (i : Fin 576) (s : State) : Res :=
  goOn (s.when (s.live p && s.portEn p i) (·.startRestore p i))

/-- RESTORE_AUTO_TICK (R59, Table 9.13): once per second; host-assisted recovery acts as RESTORE_AUTO 0. -/
def execRestoreAutoTick (p : Plane) (s : State) : Res :=
  goOn (s.when (s.live p && !s.hostRecovery p) (fun s =>
    s.each (s.activePorts p) (fun i s =>
      if s.flag p Fld.LNE_PORT_CFG.RESTORE_AUTO i then s.startRestore p i else s)))

/-- A write of LNE_WIRE_CTL (R51, R52). -/
def State.wireCtl (s : State) (p : Plane) (i : Nat) (v : Word) : State :=
  let s := s.setWord p .LNE_WIRE_CTL i 0 (Reg.rwPut .LNE_WIRE_CTL 0 (s.word p .LNE_WIRE_CTL i 0) v)
  let s := s.modPort p i (fun x => { x with ident := none })
  if s.stage p i = 6 then (s.takePlan p i).ensignCheck p i else s
def execWireCtlWrite (p : Plane) (i : Fin 576) (v : Word) (s : State) : Res :=
  goOn (s.when (s.live p) (·.wireCtl p i v))

/-- NEIGHBOUR_MISSING (R53): raised once until the port has left Detect and returned. -/
def execNeighbourMissing (p : Plane) (i : Fin 576) (s : State) : Res :=
  goOn (s.when (s.live p && s.portEn p i && s.stage p i == 1 && s.flag p Fld.LNE_WIRE_CTL.VALID i &&
      !(s.port p i).told) (fun s =>
    (s.modPort p i (fun x => { x with told := true })).raise p 0x0106 (wn (portId p i)) []))

/-- ALIGNMENT_MARKER_SEND (R38): the block opens a codeword pair of every active lane, and of the lanes that a restore has
trained. -/
def execAlignmentMarkerSend (p : Plane) (i : Fin 576) (s : State) : Res :=
  goOn (s.when (s.live p && s.portEn p i && decide (3 ≤ s.stage p i) && decide (s.stage p i ≤ 6) &&
      (s.port p i).lpi != .asleep) (fun s =>
    let x := s.port p i
    let more := if x.restoring then (lanesIn i (s.idleMask p i)).filter (fun l => (s.lane p l).trained) else []
    let ls := lanesIn i x.txSet ++ more
    let am := fun (l : Nat) => amBytes (576 * p.num + l) (l - i) (s.widthCode p i) x.amTx
    let s := (s.pairFill p i ls).slotAll p i ls (fun l => ctlBlock bAM (am l))
    let s := s.each ls (fun l s => s.emit (.marker p l (am l)))
    s.modPort p i (fun x => { x with amTx := x.amTx + 1 })))

/-- ENSIGN_SEND (R47, R49). -/
def execEnsignSend (p : Plane) (lane : Fin 576) (s : State) : Res :=
  goOn (s.onLane p lane (fun i s =>
    let x := s.port p i
    let st := s.stage p i
    if bit (lane - i) x.set ∧ (st = 4 ∨ st = 6 ∨ (st = 5 ∧ x.tail ∧ x.lpi ≠ .asleep)) then
      let k := (s.lane p lane).fragTx
      let f := slice (16 * k) 16 (s.ownRecord p i lane)
      let flag := decide (st = 5) || x.flag
      let b := [BitVec.ofNat 8 (128 * b2n flag + k)] ++ f ++ List.replicate 14 0
      let s := (s.roundUp p i).laneBlock p lane (ctlBlock bENSIGN b)
      (s.emit (.ensign p lane b)).modLane p lane
        (fun y => { y with fragTx := (k + 1) % 4 })
    else s))

/-! ## Meanings: Half-mast, run limit, low-power idle -/

/-- WIDTH_BLOCK (R58). -/
def State.widthIn (s : State) (p : Plane) (i mask : Nat) (sw : Bool) : State :=
  let x := s.port p i
  let new := mask - Nat.land mask x.fail
  if new ≠ 0 then
    let s := s.mergeFail p i mask
    if s.stage p i = 5 ∧ (s.port p i).mask = mask then s.modPort p i (fun x => { x with agreed := true }) else s
  else if mask = x.mask ∧ x.changing then
    let s := s.modPort p i (fun x => { x with agreed := true, swRx := x.swRx || sw })
    (if sw then s.moveRx p i else s).endChange p i
  else s
def execWidthBlock (p : Plane) (i : Fin 576) (mask : BitVec 16) (sw : Bool) (_seq : Byte) (s : State) : Res :=
  goOn (s.when (s.live p && s.portActive p i) (·.widthIn p i (Nat.land mask.toNat (s.fullMask p i)) sw))

/-- WIDTH_SEND (R58). The rule states neither the byte order of the mask nor what the sequence number counts: this model
sends the low byte first, counts the WIDTH blocks sent from 0, and ignores the number received (log entry 124). -/
def execWidthSend (p : Plane) (i : Fin 576) (s : State) : Res :=
  goOn (s.when (s.live p && s.portActive p i && (s.port p i).changing) (fun s =>
    let x := s.port p i
    let sw := x.agreed && !x.swTx
    let s := s.slotBlock p i 0xD2 (leBytes 2 x.mask ++ leBytes 1 (b2n sw) ++ [x.wseq])
    let s := s.modPort p i (fun x => { x with wseq := x.wseq + 1, swTx := x.swTx || sw })
    (if sw then s.moveTx p i else s).endChange p i))

/-- RUN_LIMIT (R35): a STUFF block in the next block position of every active lane. -/
def execRunLimit (p : Plane) (lane : Fin 576) (s : State) : Res :=
  goOn (s.onLane p lane (fun i s =>
    if 3 ≤ s.stage p i ∧ s.stage p i ≤ 6 then s.slotBlock p i 0x2D (List.replicate 31 0x33) else s))

/-- LPI_IDLE_EXPIRY (R61): both sides have carried no packet for LPI_IDLE. An end that asks again repeats its REQ. -/
def execLpiIdleExpiry (p : Plane) (i : Fin 576) (s : State) : Res :=
  goOn (s.when (s.live p && s.portActive p i && s.txQuiet p i && s.rxQuiet p i) (fun s =>
    let s := s.modStream p i (fun x => { x with quiet := true })
    let x := s.port p i
    if s.lpiOn p i ∧ (x.lpi = .awake ∨ x.lpi = .asked) ∧ x.lpiReady then
      (s.slotBlock p i 0x96 [1]).modPort p i (fun x => { x with lpi := .asked })
    else s))

/-- An LPI block (R61): code 0x01 REQ, 0x02 ACK. A REQ is answered where this end too has been idle for LPI_IDLE. -/
def State.lpiIn (s : State) (p : Plane) (i : Nat) (code : Byte) : State :=
  let x := s.port p i
  if code = 1 ∧ s.lpiOn p i ∧ (s.stream p i).quiet ∧ s.txQuiet p i ∧ s.rxQuiet p i ∧ x.lpiReady ∧
      (x.lpi = .awake ∨ x.lpi = .asked) then
    (s.slotBlock p i 0x96 [2]).lpiEnter p i
  else if code = 2 ∧ x.lpi = .asked then s.lpiEnter p i
  else s

/-- LPI_BLOCK. -/
def execLpiBlock (p : Plane) (i : Fin 576) (code : Byte) (s : State) : Res :=
  goOn (s.when (s.live p && s.portActive p i) (·.lpiIn p i code))

/-- LPI_WAKE (R62): own wake, or the far end's pattern. -/
def execLpiWake (p : Plane) (i : Fin 576) (_far : Bool) (s : State) : Res :=
  goOn (s.when (s.live p && s.portActive p i) (·.lpiWake p i))

/-- WAKE_TIMEOUT (R62): the port restarts at Train with its trained set; in host-assisted recovery it enters Failed, as a
port that leaves Active (Table 9.13, bit 5). -/
def execWakeTimeout (p : Plane) (i : Fin 576) (s : State) : Res :=
  goOn (s.when (s.live p && s.portActive p i && (s.port p i).lpi == .waking) (fun s =>
    let m := (s.port p i).set
    if s.hostRecovery p then (s.leaveActive p i 0 true).enterFailed p i 0 else
    let s := (s.leaveActive p i 0 true).enterDetect p i 0
    let s := s.modPort p i (fun x => { x with det := m })
    (s.startTrain p i m).setStage p i 2))

/-- LPI_MAX_WAKE (R63). -/
def execLpiMaxWake (p : Plane) (i : Fin 576) (s : State) : Res :=
  goOn (s.when (s.live p && s.portActive p i && (s.port p i).lpi == .asleep) (fun s =>
    (s.modPort p i (fun x => { x with lpiReady := false })).lpiWake p i))

/-- LPI_REENTRY_ALLOWED (R63): IDLE has been carried for 50 µs. -/
def execLpiReentryAllowed (p : Plane) (i : Fin 576) (s : State) : Res :=
  goOn (s.when (s.live p && s.portActive p i) (·.modPort p i (fun x => { x with lpiReady := true })))

/-! ## Meanings: lane controls -/

/-- On the optical variant a squelched lane disables its module's laser enable (R69). The rule's words are taken as they
stand: one lane is enough (log entry 126). -/
def State.laserCut (s : State) (p : Plane) (c : Nat) : State :=
  if s.pkg.optical then
    (s.emit (.laser p c false)).modLne p (fun x => { x with
      enabled := mset false c false x.enabled, lasers := mset false c false x.lasers })
  else s

/-- Every laser module of a plane is disabled: its lanes are squelched (R69, R325). -/
def State.lasersOff (s : State) (p : Plane) : State :=
  if s.pkg.optical then
    (s.each (List.range 9) (fun c s => s.emit (.laser p c false))).modLne p (fun x => { x with enabled := [], lasers := [] })
  else s

/-- TX_SQUELCH (Table 2.15): silent from the cycle written; a lane of an Active port is then failed with cause 4. -/
def State.squelchOn (s : State) (p : Plane) (l : Nat) : State :=
  let s := (s.setFlag p Fld.LNE_LANE_CFG.TX_SQUELCH l true).laserCut p (l / 64)
  match s.portOf p l with
  | some i => if s.stage p i = 5 then s.laneFail p i l 4 else s
  | none => s
def execTxSquelch (p : Plane) (lane : Fin 576) (s : State) : Res := goOn (s.when (s.live p) (·.squelchOn p lane))

/-- PRBS_CLR (R66). -/
def State.prbsClear (s : State) (p : Plane) (l : Nat) : State := s.setWords p .LNE_PRBS_ERR l [0, 0]
def execPrbsClr (p : Plane) (lane : Fin 576) (s : State) : Res := goOn (s.when (s.live p) (·.prbsClear p lane))

/-- PRBS_LOCK_LOSS (R66): the counter stops, and the checker seeks its pattern again. -/
def State.prbsLost (s : State) (p : Plane) (l : Nat) : State :=
  (s.modWire p l (fun x => { x with chk := 0, right := 0, wrong := 0, place := 0 })).setFlag p
    Fld.LNE_LANE_STAT.PRBS_LOCK l false
def execPrbsLockLoss (p : Plane) (lane : Fin 576) (s : State) : Res := goOn (s.when (s.live p) (·.prbsLost p lane))

/-- EYE_SCAN_START (R67). -/
def State.eyeStart (s : State) (p : Plane) (l eye : Nat) : State :=
  let s := (s.setF p Fld.LNE_EYE_CTL.EYE l eye).setFlag p Fld.LNE_EYE_CTL.START l true
  s.setFlag p Fld.LNE_EYE_STAT.DONE l false
def execEyeScanStart (p : Plane) (lane : Fin 576) (eye : BitVec 2) (s : State) : Res :=
  goOn (s.when (s.live p) (·.eyeStart p lane eye.toNat))

/-- EYE_SCAN_DONE (R67). -/
def execEyeScanDone (p : Plane) (lane : Fin 576) (h w : Byte) (s : State) : Res :=
  goOn (s.when (s.live p && s.flag p Fld.LNE_EYE_CTL.START lane) (fun s =>
    let s := s.setFlag p Fld.LNE_EYE_CTL.START lane false
    let s := s.setFlag p Fld.LNE_EYE_STAT.DONE lane true
    (s.setF p Fld.LNE_EYE_STAT.HEIGHT lane h.toNat).setF p Fld.LNE_EYE_STAT.WIDTH lane w.toNat))

/-- LASER_READY (R69): a module that the Canton has enabled reports ready; its inputs carry light again. -/
def execLaserReady (p : Plane) (c : Fin 9) (s : State) : Res :=
  goOn (s.when (s.live p && s.pkg.optical && mget false c (s.pl p).lne.enabled) (·.modLne p (fun x => { x with
    lasers := mset false c true x.lasers
    inputs := x.inputs.filter (fun e => e.1 / 8 != c.val) })))

/-- Lanes lose their light: they are declared failed (R69), those of no enabled port too. The log's cause for it is not
stated and is a free value. -/
def State.darken (s : State) (p : Plane) (ls : List Nat) : State :=
  let (f, s) := s.takeFree
  s.each ls (fun l s =>
    match s.portOf p l with
    | some i => s.laneFail p i l (Config.freeNat f)
    | none => s.setFlag p Fld.LNE_LANE_STAT.LANE_FAIL l true)

/-- LASER_INPUT_FAIL (R69): the input's 8 transmitters stop and their lanes are declared failed. -/
def execLaserInputFail (p : Plane) (c : Fin 9) (k : Fin 8) (s : State) : Res :=
  goOn (s.when (s.live p && s.pkg.optical) (fun s =>
    let s := s.modLne p (fun x => { x with inputs := mset false (8 * c.val + k.val) true x.inputs })
    s.darken p ((List.range 8).map (fun j => 64 * c.val + 8 * k.val + j))))

end Sys2Proof.Machine
end

