-- ==== Sys2Proof/Machine/Windows.lean ====
section
/-! DEFINITION. End-to-end windows of the device's endpoints, as source and as destination (R81 to R83, R90, R99 to
R111). An endpoint has a key: 0 collective, 1 dispatch, 2 memory engine, 16 + i the golden port with first lane i. What
an engine does with a packet it performs is a parameter (`perf`), as is what follows a Pennant's failure (`lost`). -/

namespace Sys2Proof.Machine

/-- The key of an endpoint. -/
def epKey : Endpt → Nat
  | .eng .col => 0
  | .eng .dsp => 1
  | .eng .mem => 2
  | .gold i => 16 + i.val

def State.ep (s : State) (p : Plane) (key : Nat) : EpSt := mget {} key (s.pl p).lfp.eps
def State.modEp (s : State) (p : Plane) (key : Nat) (f : EpSt → EpSt) : State :=
  s.modLfp p (fun x => { x with eps := mmod {} key f x.eps })
def State.dstWin (s : State) (p : Plane) (key : Nat) (src : EpId) : DstWin := mget {} src.toNat (s.ep p key).dst
def State.modDst (s : State) (p : Plane) (key : Nat) (src : EpId) (f : DstWin → DstWin) : State :=
  s.modEp p key (fun x => { x with dst := mmod {} src.toNat f x.dst })
def State.srcWin (s : State) (p : Plane) (key : Nat) (dst : EpId) : SrcWin := mget {} dst.toNat (s.ep p key).src
def State.modSrc (s : State) (p : Plane) (key : Nat) (dst : EpId) (f : SrcWin → SrcWin) : State :=
  s.modEp p key (fun x => { x with src := mmod {} dst.toNat f x.src })

/-- The endpoint's ID: an engine's alias or internal ID (R115), a golden port's TST_GEP_ID (R385). -/
def State.epId (s : State) (p : Plane) (key : Nat) : EpId :=
  if key < 16 then s.srcId p key else BitVec.ofNat 16 (s.fld p Fld.TST_GEP_ID.ID (key - 16))

/-- May the endpoint send windowed packets: an engine needs a valid alias (R115). -/
def State.epWindowed (s : State) (p : Plane) (key : Nat) : Bool :=
  if key < 16 then (s.alias? p key).isSome else s.flag p Fld.TST_GEP_ID.VALID (key - 16)

/-! ## Sending -/

/-- The first packet of a list whose VC has credit for it, packets of one VC in order. -/
def firstReady (avail : Nat → Nat) : List Nat → List Packet → Option Packet
  | _, [] => none
  | blocked, k :: ks =>
    let vc := k.hdr.vc.toNat
    if blocked.contains vc then firstReady avail blocked ks
    else if unitsOf k ≤ avail vc then some k
    else firstReady avail (vc :: blocked) ks

/-- The responses of a golden port that have credit leave, ahead of generated packets (R385). -/
def State.goldPump1 (s : State) (p : Plane) (i : Nat) : State :=
  let l := mget [] i (s.pl p).tst.resp
  if s.portActive p i then
    match firstReady (s.sideAvail p i) [] l with
    | some k =>
      let s := s.modTst p (fun x => { x with resp := mset [] i (l.erase k) x.resp })
      if noId k.hdr then s.discard1 p .hdr else s.portSend p i k
    | none => s
  else s
def State.goldPump (s : State) (p : Plane) (i : Nat) : State :=
  s.each (mget [] i (s.pl p).tst.resp) (fun _ s => s.goldPump1 p i)

/-- An endpoint sends a packet; `via` is the code the request it answers came from, for a response to an internal SRC
(R113). -/
def State.epSend (s : State) (p : Plane) (key : Nat) (via : Option Nat) (k : Packet) : State :=
  if 16 ≤ key then
    (s.modTst p (fun x => { x with resp := mmod [] (key - 16) (· ++ [k]) x.resp })).goldPump p (key - 16)
  else match via with
    | some code => if internalId k.hdr.dst then s.respondOn p (577 + key) code k else s.originate p (577 + key) k
    | none => s.originate p (577 + key) k

/-- VC of a CPL or ACK for a packet that arrived on a VC (R90). -/
def respVc (vc : BitVec 4) : BitVec 4 := if vc = 8 then 0 else vc

/-- ECE_INT in core clocks. -/
def State.eceInt (s : State) (p : Plane) : Nat := 160 * max 1 (s.fld p Fld.LFP_WIN_CFG.ECE_INT 0)

/-- The echo owed to a source is taken by a CPL or ACK (R108): whether ECE is set. -/
def State.takeEcho (s : State) (p : Plane) (key : Nat) (src : EpId) : Bool × State :=
  if (s.dstWin p key src).echo then
    let t := s.ticks
    let s := s.modDst p key src (fun w => { w with echo := false, eceAt := some t })
    let s := if 16 ≤ key then s.modTst p (fun x => { x with
        eces := mmod [] (65536 * (key - 16) + src.toNat) (fun l => (t :: l).take 8) x.eces }) else s
    (true, s)
  else (false, s)

/-- A CPL for a request (R82, R90, R108). -/
def State.cpl (s : State) (p : Plane) (key : Nat) (via : Option Nat) (req : Header) (status : Byte) (payload : Bytes) :
    State :=
  let (ece, s) := if internalId req.src then (false, s) else s.takeEcho p key req.src
  s.epSend p key via
    (mkPkt tCPL status req.src (s.epId p key) (respVc req.vc) req.tc req.tag 0 false ece payload)

/-- An ACK to a source (R101). -/
def State.sendAck (s : State) (p : Plane) (key : Nat) (src : EpId) (vc : BitVec 4) (tc : BitVec 3) : State :=
  let w := s.dstWin p key src
  let (ece, s) := s.takeEcho p key src
  let s := s.modDst p key src (fun w => { w with acked := w.base, hole := false })
  s.epSend p key none
    (mkPkt tACK (if w.hole then 1 else 0) src (s.epId p key) (respVc vc) tc 0 w.base false ece [])

/-- The base has advanced by ACK_STRIDE since the last ACK (R101). -/
def State.ackStride (s : State) (p : Plane) (key : Nat) (src : EpId) : State :=
  let w := s.dstWin p key src
  if max 1 (s.fld p Fld.LFP_WIN_CFG.ACK_STRIDE 0) ≤ (w.base - w.acked).toNat then s.sendAck p key src w.vc w.tc else s

/-! ## Destination -/

/-- What an endpoint does with a packet it performs. -/
abbrev Perf := Packet → State → State

/-- The bitmap shifts down while its first bit is set (advance of R103). -/
def shiftSeen : Nat → BitVec 16 × List Nat → BitVec 16 × List Nat
  | 0, x => x
  | f + 1, (base, seen) =>
    if seen.contains 0 then shiftSeen f (base + 1, (seen.filter (· ≠ 0)).map (· - 1)) else (base, seen)

/-- A Pennant may be performed: the base is past it, and every earlier packet of the window has been performed (R104). -/
def pennantReady (w : DstWin) (h : Pennant) : Bool :=
  decide (32768 ≤ (h.pkt.hdr.wseq - w.base).toNat) &&
  !(w.busy.any (fun b => decide (1 ≤ (h.pkt.hdr.wseq - b).toNat ∧ (h.pkt.hdr.wseq - b).toNat ≤ 511)))

/-- The first held Pennant in WSEQ order that may be performed. -/
def nextPennant (w : DstWin) : Option Pennant :=
  (w.held.filter (pennantReady w)).foldl (fun a h =>
    match a with
    | none => some h
    | some g => if (h.pkt.hdr.wseq - w.base + 32768).toNat < (g.pkt.hdr.wseq - w.base + 32768).toNat then some h
      else some g) none

/-- Held Pennants whose predecessors have been performed are performed in WSEQ order (R103, R104). -/
def State.pumpHeld (perf : Perf) : Nat → State → Plane → Nat → EpId → State
  | 0, s, _, _, _ => s
  | f + 1, s, p, key, src =>
    let w := s.dstWin p key src
    match nextPennant w with
    | none => s
    | some h =>
      let s := s.modDst p key src (fun w => { w with held := w.held.filter (· ≠ h) })
      State.pumpHeld perf f (perf h.pkt s) p key src

/-- The base moves past what has arrived (R103), with the stall timer of R105. An ACK will carry the TC and VC of the last
packet below the base (R90). -/
def State.moveBase (s : State) (p : Plane) (key : Nat) (src : EpId) : State :=
  let w := s.dstWin p key src
  let (base, seen) := shiftSeen (w.seen.length + 1) (w.base, w.seen)
  let (tc, vc) := mget (w.tc, w.vc) (base - 1).toNat w.how
  let how := w.how.filter (fun e => decide ((BitVec.ofNat 16 e.1 - base).toNat < 512))
  let t := s.ticks
  let stall := if seen.isEmpty then none
    else if base ≠ w.base ∨ w.stall.isNone then some t else w.stall
  s.modDst p key src (fun w => { w with
    base := base
    seen := seen
    stall := stall
    how := how
    tc := tc
    vc := vc })

/-- advance() of R103. -/
def State.advance (perf : Perf) (s : State) (p : Plane) (key : Nat) (src : EpId) : State :=
  let s := s.moveBase p key src
  let s := s.pumpHeld perf ((s.dstWin p key src).held.length + 1) p key src
  s.ackStride p key src

/-- Is an opcode windowed and performed by an endpoint: those of the engine, and SEND and SEND_ACK at a golden port
(R83, R385). -/
def opDone (key : Nat) (op : Byte) : Bool :=
  match key with
  | 0 => [0x20, 0x21].contains op.toNat
  | 1 => [0x30, 0x32].contains op.toNat
  | 2 => [0x10, 0x11, 0x12, 0x13, 0x18, 0x19, 0x1A, 0x1B, 0x1C, 0x1D].contains op.toNat
  | _ => [0x01, 0x02].contains op.toNat

/-- A Pennant fails (R105): not performed; ORDER_LOST where its opcode returns a CPL. -/
def State.failPennant (lost : Perf) (s : State) (p : Plane) (key : Nat) (k : Packet) : State :=
  let s := s.count p Fld.LFP_PEN_FAIL.N 0
  let s := if opReturns k.hdr.op then s.cpl p key none k.hdr stORDER_LOST [] else s
  lost k s

/-- CE on a windowed packet is echoed (R108): at once where no ECE has been sent within ECE_INT, with the base that the
packet's arrival has moved (R101), before a CPL of the packet (DEDUCED: log entry 21). -/
def State.echoIn (s : State) (p : Plane) (key : Nat) (k : Packet) : State :=
  let src := k.hdr.src
  if k.hdr.ce then
    let s := s.modDst p key src (fun w => { w with echo := true })
    let w := s.dstWin p key src
    let due : Bool := match w.eceAt with
      | none => true
      | some t => decide (t + s.eceInt p < s.ticks)
    if due then s.sendAck p key src k.hdr.vc k.hdr.tc else s
  else s

/-- A packet whose CRC fails or is stomped is discarded by its destination (R86). -/
def State.dstCrc (s : State) (p : Plane) (k : Packet) (f : State → State) : State :=
  if crcOk k then f s
  else if stomped k then s.count p Fld.LFP_STOMP_RX.N 0
  else s.count p Fld.LFP_CRC_DISC.N 0

/-- A windowed packet at an endpoint (R83, R103, R251): `perf` performs one, `lost` follows a failed Pennant. -/
def State.windowedIn (perf lost : Perf) (s : State) (p : Plane) (key : Nat) (k : Packet) : State :=
  let h := k.hdr
  let src := h.src
  if 0xFF00 ≤ src.toNat then s.count p Fld.LFP_HDR_DISC.N 0
  else if (s.dstWin p key src).gen < (s.ep p key).gen then (s.echoIn p key k).cpl p key none h stRESYNC []
  else
    let w := s.dstWin p key src
    let d := (h.wseq - w.base).toNat
    if 65536 - 512 ≤ d then (s.count p Fld.LFP_LATE_DISC.N 0).echoIn p key k
    else if 512 ≤ d ∨ w.seen.contains d then
      (s.count p Fld.LFP_OOW_DISC.N 0).echoIn p key k
    else
      let s := s.modDst p key src (fun w => { w with
        seen := d :: w.seen
        how := mset (0, 0) h.wseq.toNat (h.tc, h.vc) w.how })
      let s := (s.moveBase p key src).echoIn p key k
      let s :=
        if opDone key h.op = false then
          (s.count p Fld.LFP_HDR_DISC.N 0).cpl p key none h stUNSUPPORTED []
        else if h.pen then
          let n := (h.wseq - w.lostLast).toNat
          if w.lostOk ∧ 1 ≤ n ∧ n ≤ 511 then s.failPennant lost p key k
          else s.modDst p key src (fun w => { w with held := w.held ++ [⟨k⟩] })
        else perf k s
      s.advance perf p key src

/-- A WIN_SYNC (R102, R103). -/
def State.winSyncIn (s : State) (p : Plane) (key : Nat) (k : Packet) : State :=
  let h := k.hdr
  let src := h.src
  if 0xFF00 ≤ src.toNat then s.count p Fld.LFP_HDR_DISC.N 0
  else
    let s := s.each (s.dstWin p key src).held (fun g s =>
      if opReturns g.pkt.hdr.op then s.cpl p key none g.pkt.hdr stSYNCED [] else s)
    let s := s.modDst p key src (fun w => {
      base := h.wseq
      acked := h.wseq
      echo := w.echo
      eceAt := w.eceAt
      busy := w.busy
      gen := (s.ep p key).gen })
    s.cpl p key none h stOK []

/-- A hole skip (R105). -/
def State.holeSkip (perf lost : Perf) (s : State) (p : Plane) (key : Nat) (src : EpId) : State :=
  let w := s.dstWin p key src
  match w.stall, w.seen.min? with
  | some _, some m =>
    if m = 0 then s else
      let last := w.base + BitVec.ofNat 16 (m - 1)
      let t := s.ticks
      let dead := w.held.filter (fun g =>
        decide (1 ≤ (g.pkt.hdr.wseq - last).toNat ∧ (g.pkt.hdr.wseq - last).toNat ≤ 511))
      let s := s.modDst p key src (fun w => { w with
        base := w.base + BitVec.ofNat 16 m
        seen := w.seen.map (· - m)
        lostLast := last
        lostOk := true
        hole := true
        stall := some t
        held := w.held.filter (fun g => !dead.contains g) })
      let s := s.countN p Fld.LFP_HOLE_CNT.N 0 m
      let s := s.each dead (fun g s => s.failPennant lost p key g.pkt)
      s.advance perf p key src
  | _, _ => s

/-- A held Pennant's deadline passes (R105). -/
def State.pennantDeadline (perf lost : Perf) (s : State) (p : Plane) (key : Nat) (src : EpId) (wseq : BitVec 16) : State :=
  match (s.dstWin p key src).held.find? (fun g => g.pkt.hdr.wseq == wseq) with
  | none => s
  | some g =>
    let s := s.modDst p key src (fun w => { w with held := w.held.filter (· ≠ g) })
    (s.failPennant lost p key g.pkt).advance perf p key src

/-- A packet that was accepted has been performed after a wait (R250): Pennants behind it may follow. -/
def State.performed (perf : Perf) (s : State) (p : Plane) (key : Nat) (src : EpId) (wseq : BitVec 16) : State :=
  let s := s.modDst p key src (fun w => { w with busy := w.busy.filter (· ≠ wseq) })
  s.pumpHeld perf ((s.dstWin p key src).held.length + 1) p key src

/-! ## Source -/

/-- W_SRC: 0 acts as 1, above 512 as 512. -/
def State.wSrc (s : State) (p : Plane) : Nat := max 1 (min 512 (s.fld p Fld.LFP_WIN_CFG.W_SRC 0))

/-- cwnd of a source window; it starts at W_SRC (R109). -/
def State.cwnd (s : State) (p : Plane) (w : SrcWin) : Nat := if w.cwnd = 0 then s.wSrc p else w.cwnd

/-- The next TAG that no outstanding request uses and that is not in quarantine (R111). -/
def freeTag (e : EpSt) : Nat → BitVec 16 → BitVec 16
  | 0, t => t
  | f + 1, t => if mhas t.toNat e.reqs || e.quar.contains t.toNat then freeTag e f (t + 1) else t

/-- A request takes a TAG. -/
def State.takeTag (s : State) (p : Plane) (key : Nat) (what : ReqWhat) (dst : EpId) : BitVec 16 × State :=
  let e := s.ep p key
  let t := freeTag e (e.reqs.length + e.quar.length + 1) e.nextTag
  (t, s.modEp p key (fun x => { x with nextTag := t + 1, reqs := mset none t.toNat (some ⟨what, dst⟩) x.reqs }))

/-- A WIN_SYNC leaves for a destination (R99, R102): the new base lies 1,024 beyond the last windowed packet's WSEQ, or
at 0 where none was sent. -/
def State.startSync (s : State) (p : Plane) (key : Nat) (dst : EpId) (tc : BitVec 3) : State :=
  let w := s.srcWin p key dst
  let base : BitVec 16 := if w.lastAt.isNone then 0 else w.next + 1023
  let (tag, s) := s.takeTag p key (.winSync dst) dst
  let s := s.modSrc p key dst (fun w => { w with sync := .waiting, next := base, base := base })
  s.epSend p key none
    (mkPkt tREQ 0x03 dst (s.epId p key) (BitVec.ofNat 4 tc.toNat) tc tag base false false [])

/-- One waiting windowed packet is numbered and sent, if the window has room (R99, R100). -/
def State.pumpSrc1 (s : State) (p : Plane) (key : Nat) (dst : EpId) : State :=
  let w := s.srcWin p key dst
  match w.waiting with
  | [] => s
  | x :: rest =>
    if w.sync = .done ∧ (w.next - w.base).toNat < min (s.wSrc p) (s.cwnd p w) then
      let t := s.ticks
      let s := s.modSrc p key dst (fun w => { w with waiting := rest, next := w.next + 1, lastAt := some t })
      s.epSend p key none (withHcrc { x.pkt with hdr := { x.pkt.hdr with wseq := w.next } })
    else s
def State.pumpSrc (s : State) (p : Plane) (key : Nat) (dst : EpId) : State :=
  s.each (s.srcWin p key dst).waiting (fun _ s => s.pumpSrc1 p key dst)

/-- An endpoint sends a windowed packet: it waits for the window, which a WIN_SYNC opens first (R99). Without a valid ID
it is not sent (R115). -/
def State.sendWindowed (s : State) (p : Plane) (key : Nat) (k : Packet) (fwd : Option Nat) : State :=
  if s.epWindowed p key = false then s else
  let dst := k.hdr.dst
  let s := s.modSrc p key dst (fun w => { w with waiting := w.waiting ++ [⟨k, fwd⟩] })
  match (s.srcWin p key dst).sync with
  | .none => s.startSync p key dst k.hdr.tc
  | .waiting => s
  | .done => s.pumpSrc p key dst

/-- Congestion response is host-assisted (Table 9.13, bit 2). -/
def State.hostCc (s : State) (p : Plane) : Bool := bit 2 (s.fld p Fld.HIF_FUNC_MODE.MODE 0)

/-- ECE from a destination (R109, Table 9.13). -/
def State.eceIn (s : State) (p : Plane) (key : Nat) (dst : EpId) : State :=
  let w := s.srcWin p key dst
  let gap := 160 * max 1 (s.fld p Fld.LFP_CC_CFG.DEC_INT 0)
  let ok : Bool := match w.decAt with
    | none => true
    | some t => decide (t + gap ≤ s.ticks)
  let c := s.cwnd p w
  let t := s.ticks
  let c' := max 1 (c - c / 2 ^ max 1 (s.fld p Fld.LFP_CC_CFG.DEC_SHIFT 0))
  let s := if ok then s.modSrc p key dst (fun w => { w with cwnd := c', decAt := some t }) else s
  if s.hostCc p then
    s.raise p 0x0804 (wn dst.toNat) [wn (s.cwnd p (s.srcWin p key dst))]
  else s

/-- An ACK at a source (R100, R109). -/
def State.ackIn (s : State) (p : Plane) (key : Nat) (k : Packet) : State :=
  let dst := k.hdr.src
  let w := s.srcWin p key dst
  let d := (k.hdr.wseq - w.base).toNat
  let s := if w.sync = .done ∧ d ≤ (w.next - w.base).toNat then
      s.modSrc p key dst (fun w => { w with base := k.hdr.wseq })
    else s
  let s := if k.hdr.ece then s.eceIn p key dst else s
  s.pumpSrc p key dst

/-- Windowed packets that wait on a WIN_SYNC that failed are not sent (R99): each meets `drop`. -/
def State.syncFail (drop : WaitPkt → State → State) (s : State) (p : Plane) (key : Nat) (dst : EpId) : State :=
  let l := (s.srcWin p key dst).waiting
  let s := s.modSrc p key dst (fun w => { w with sync := .none, waiting := [] })
  s.each l drop

/-- A status as a source takes it: TIMEOUT never travels, and a reserved code acts as MEM_ERROR (R82). -/
def cplStatus (op : Byte) : Byte := if op.toNat ≤ 8 ∨ op = stRESYNC then op else stMEM_ERROR

/-- The window to a destination is lost (R99): a new WIN_SYNC comes before any further windowed packet. -/
def State.loseWindow (s : State) (p : Plane) (key : Nat) (dst : EpId) : State :=
  s.modSrc p key dst (fun x => { x with sync := if x.sync = .waiting then .waiting else .none })
def State.resync (s : State) (p : Plane) (key : Nat) (dst : EpId) (tc : BitVec 3) : State :=
  if (s.srcWin p key dst).sync = .none ∧ (s.srcWin p key dst).waiting ≠ [] then s.startSync p key dst tc else s

/-- A CPL at a source (R99, R111): `drop` meets the packets that waited on a failed WIN_SYNC with its status, `done`
what another request was. A RESYNC whose TAG matches no request answers a windowed packet that carries none: it is counted
as R111 says, and the window is lost (log entry 128). -/
def State.cplIn (drop : Byte → WaitPkt → State → State) (done : ReqWhat → Packet → State → State) (s : State) (p : Plane)
    (key : Nat) (k : Packet) : State :=
  let dst := k.hdr.src
  let k := { k with hdr := { k.hdr with op := cplStatus k.hdr.op } }
  match mget none k.hdr.tag.toNat (s.ep p key).reqs with
  | none =>
    let s := s.count p Fld.LFP_STALE_CPL.N 0
    if k.hdr.op = stRESYNC then (s.loseWindow p key dst).resync p key dst k.hdr.tc else s
  | some r =>
    let s := s.modEp p key (fun x => { x with reqs := mset none k.hdr.tag.toNat none x.reqs })
    let s := if k.hdr.ece then s.eceIn p key dst else s
    match r.what with
    | .winSync d =>
      if k.hdr.op = stOK then (s.modSrc p key d (fun w => { w with sync := .done })).pumpSrc p key d
      else s.syncFail (drop k.hdr.op) p key d
    | w =>
      let s := if k.hdr.op = stRESYNC then s.loseWindow p key r.dst else s
      (done w k s).resync p key r.dst k.hdr.tc

/-- No CPL within OP_TIMEOUT (R111): the TAG rests for a further OP_TIMEOUT. -/
def State.opTimeout (drop : WaitPkt → State → State) (done : ReqWhat → State → State) (s : State) (p : Plane) (key : Nat)
    (tag : BitVec 16) : State :=
  match mget none tag.toNat (s.ep p key).reqs with
  | none => s
  | some r =>
    let s := s.modEp p key (fun x => { x with
      reqs := mset none tag.toNat none x.reqs
      quar := tag.toNat :: x.quar.filter (· ≠ tag.toNat) })
    match r.what with
    | .winSync d => (s.count p Fld.LFP_OP_TMO.N 0).syncFail drop p key d
    | w => done w s

/-! ## Meanings that concern no engine -/

/-- ACK_DELAY (R101): the base has advanced since the last ACK. -/
def execAckDelay (p : Plane) (e : Endpt) (src : EpId) (s : State) : Res :=
  goOn (s.when (s.runs p) (fun s =>
    let w := s.dstWin p (epKey e) src
    if w.base ≠ w.acked then s.sendAck p (epKey e) src w.vc w.tc else s))

/-- TAG_RELEASE (R111). -/
def execTagRelease (p : Plane) (e : Endpt) (tag : BitVec 16) (s : State) : Res :=
  goOn (s.when (s.live p) (·.modEp p (epKey e) (fun x => { x with quar := x.quar.filter (· ≠ tag.toNat) })))

/-- cwnd rises by INC, up to W_SRC (R109). -/
def State.cwndUp (s : State) (p : Plane) (key : Nat) (dst : EpId) : State :=
  let inc := s.fld p Fld.LFP_CC_CFG.INC 0
  let max_ := s.wSrc p
  let c := s.cwnd p (s.srcWin p key dst)
  let s := if c < max_ then s.modSrc p key dst (fun w => { w with cwnd := min max_ (c + inc) }) else s
  s.pumpSrc p key dst

/-- WIN_SYNC (R102). -/
def execWinSync (p : Plane) (e : Endpt) (pkt : Packet) (s : State) : Res :=
  goOn (s.when (s.runs p) (fun s => s.dstCrc p pkt (·.winSyncIn p (epKey e) pkt)))

end Sys2Proof.Machine
end

