-- ==== Sys2Proof/Machine/Collectives.lean ====
section
/-! DEFINITION. The collective engine (R171 to R203): groups, chunks, slot credit, epochs, the forward path, aborts. -/

namespace Sys2Proof.Machine

/-! ## Descriptors -/

def State.grp (s : State) (p : Plane) (g : Nat) : GrpSt := mget {} g (s.pl p).col.grps
def State.modGrp (s : State) (p : Plane) (g : Nat) (f : GrpSt → GrpSt) : State :=
  s.modCol p (fun x => { x with grps := mmod {} g f x.grps })

/-- The engine is in service: its plane runs and COL_OK is 1. -/
def State.colOn (s : State) (p : Plane) : Bool := s.runs p && s.flag p Fld.TOP_PG_STAT.COL_OK 0

/-- STATE, EPOCH, BASE and LIMIT of a group (Tables 6.11, 6.14). -/
def State.gState (s : State) (p : Plane) (g : Nat) : Nat := s.fld p Fld.COL_GRP_STAT.STATE g
def State.gEpoch (s : State) (p : Plane) (g : Nat) : Nat := s.fld p Fld.COL_GRP_STAT.EPOCH g
def State.gBase (s : State) (p : Plane) (g : Nat) : Nat := s.fld p Fld.COL_GRP_BASE.N g
def State.gLimit (s : State) (p : Plane) (g : Nat) : Nat := s.fld p Fld.COL_GRP_LIMIT.N g

def State.gKind (s : State) (p : Plane) (g : Nat) : Nat := s.fld p Fld.COL_GRP.KIND g
def State.gFmt (s : State) (p : Plane) (g : Nat) : Nat := s.fld p Fld.COL_GRP.FMT g
def State.gOut (s : State) (p : Plane) (g : Nat) : Nat := s.fld p Fld.COL_GRP.OUT_FMT g
def State.gOp (s : State) (p : Plane) (g : Nat) : Nat := s.fld p Fld.COL_GRP.OP g
def State.gComp (s : State) (p : Plane) (g : Nat) : Bool := s.flag p Fld.COL_GRP.COMP g
def State.gRoot (s : State) (p : Plane) (g : Nat) : Bool := s.flag p Fld.COL_GRP.ROOT g
def State.gTc (s : State) (p : Plane) (g : Nat) : BitVec 3 := BitVec.ofNat 3 (s.fld p Fld.COL_GRP.TC g)
def State.gParent (s : State) (p : Plane) (g : Nat) : EpId := BitVec.ofNat 16 (s.fld p Fld.COL_GRP.PARENT_ID g)
def State.gFwdEp (s : State) (p : Plane) (g : Nat) : EpId := BitVec.ofNat 16 (s.fld p Fld.COL_GRP.FWD_EP g)

/-- CHUNK_SLOTS, slots per chunk (the field holds one less); EPS (Table 6.4); elements of a full chunk (R176). -/
def State.gSlots (s : State) (p : Plane) (g : Nat) : Nat := s.fld p Fld.COL_GRP.CHUNK_SLOTS g + 1
def State.gEps (s : State) (p : Plane) (g : Nat) : Nat := epsOf (s.gFmt p g) (s.gOp p g) (s.gComp p g)
def State.gFull (s : State) (p : Plane) (g : Nat) : Nat := s.gEps p g * s.gSlots p g

/-- The children of a node as the committed file names them: index, ID and ENGINE of the VALID entries of its range
(R172). -/
def State.childrenNow (s : State) (p : Plane) (g : Nat) : List Child :=
  let b := s.fld p Fld.COL_GRP.CHILD_BASE g
  ((List.range (s.fld p Fld.COL_GRP.CHILD_COUNT g)).filter (fun i => s.flag p Fld.COL_ID.VALID (b + i))).map (fun i =>
    ⟨i, BitVec.ofNat 16 (s.fld p Fld.COL_ID.ID (b + i)), s.flag p Fld.COL_ID.ENGINE (b + i)⟩)

/-- The IDs of the member list as the committed file names them (R174). -/
def State.memberIdsNow (s : State) (p : Plane) (g : Nat) : List EpId :=
  (List.range (s.fld p Fld.COL_GRP.MEMBER_COUNT g)).map (fun m =>
    BitVec.ofNat 16 (s.fld p Fld.COL_ID.ID (s.fld p Fld.COL_GRP.MEMBER_BASE g + m)))

/-- The children and the members of a group that is not IDLE, as latched at its activation (R343). -/
def State.children (s : State) (p : Plane) (g : Nat) : List Child := (s.grp p g).kids
def State.memberIds (s : State) (p : Plane) (g : Nat) : List EpId := (s.grp p g).mems
def State.memberId (s : State) (p : Plane) (g m : Nat) : EpId := (s.memberIds p g).getD m 0

/-- EXHAUST, with the reserved code 3 as 0 (Table 6.5). -/
def State.gExhaust (s : State) (p : Plane) (g : Nat) : Nat :=
  let e := s.fld p Fld.COL_GRP.EXHAUST g
  if e = 3 then 0 else e

/-- LIMIT − BASE (R187): positions of the ring, the spill and the forward path. -/
def State.gRing (s : State) (p : Plane) (g : Nat) : Nat :=
  s.fld p Fld.COL_GRP.ALLOC_CHUNKS g +
    (if s.gExhaust p g = 1 then s.fld p Fld.COL_GRP.SPILL_CHUNKS g else 0) +
    (if (s.grp p g).fwdOn then s.fld p Fld.COL_GRP.FWD_CHUNKS g else 0)

/-! ## The collective header (Table 6.2) -/

structure ColHdr where
  group : Nat
  epoch : Nat
  last  : Bool
  fwd   : Bool
  fmt   : Nat
  chunk : Nat
  elems : Nat
  child : Nat
  deriving DecidableEq, Repr

def colHdrBytes (h : ColHdr) : Bytes :=
  leBytes 2 h.group ++ leBytes 1 h.epoch ++ leBytes 1 (128 * b2n h.last + 64 * b2n h.fwd + h.fmt) ++
    leBytes 4 h.chunk ++ leBytes 2 h.elems ++ leBytes 2 h.child ++ leBytes 4 0

/-- The header of a payload; `none` where it is shorter than 16 bytes (R172). -/
def colHdr? (b : Bytes) : Option ColHdr :=
  if b.length < 16 then none else
    let f := leNat (slice 3 1 b)
    some ⟨leNat (slice 0 2 b) % 1024, leNat (slice 2 1 b), bit 7 f, bit 6 f, f % 16, leNat (slice 4 4 b),
      leNat (slice 8 2 b), leNat (slice 10 2 b)⟩

/-- A packet that the engine sends for a group: TC and VC of the group. -/
def State.colPkt (s : State) (p : Plane) (g : Nat) (op : Byte) (dst : EpId) (payload : Bytes) : Packet :=
  let tc := s.gTc p g
  mkPkt tREQ op dst (s.epId p 0) (BitVec.ofNat 4 tc.toNat) tc 0 0 false false payload

def opCONTRIB : Byte := 0x20
def opPARTIAL : Byte := 0x21
def opRESULT : Byte := 0x22
def opSLOT_CRED : Byte := 0x23
def opCOL_CTL : Byte := 0x24

/-! ## Slot credit -/

/-- SLOT_CRED with LIMIT to every child (R188). -/
def State.sendCred (s : State) (p : Plane) (g : Nat) : State :=
  let l := s.gLimit p g
  let b := colHdrBytes ⟨g, s.gEpoch p g, false, false, 0, l, 0, 0⟩
  let s := s.modGrp p g (fun x => { x with told := l })
  s.each (s.children p g) (fun c s => s.epSend p 0 none (s.colPkt p g opSLOT_CRED c.id b))

/-- CRED_STRIDE; 0 acts as 1. -/
def State.credStride (s : State) (p : Plane) : Nat := max 1 (s.fld p Fld.COL_GLB_CFG.CRED_STRIDE 0)

/-- An epoch opens (R187, R191, R195): BASE 0, an empty ring, the forward path as the mode says now, SLOT_CRED. -/
def State.openEpoch (s : State) (p : Plane) (g e : Nat) : State :=
  let fwd := decide (s.gExhaust p g = 2) && bit 3 (s.fld p Fld.HIF_FUNC_MODE.MODE 0)
  let s := s.modGrp p g (fun x => { x with
    chunks := []
    freed := []
    lastIdx := none
    parent := 0
    fwdOn := fwd
    fwdCred := 0 })
  let s := s.setF p Fld.COL_GRP_STAT.EPOCH g (e % 256)
  let s := s.setF p Fld.COL_GRP_BASE.N g 0
  let s := s.setF p Fld.COL_GRP_LIMIT.N g (s.gRing p g)
  s.sendCred p g

/-! ## Aborts -/

/-- Does a packet carry a partial, a result or a forwarded contribution of a group. -/
def colWork (g : Nat) (k : Packet) : Bool :=
  (k.hdr.op == opCONTRIB || k.hdr.op == opPARTIAL || k.hdr.op == opRESULT) && k.hdr.type == tREQ &&
    ((colHdr? k.payload).map (fun h => h.group == g)).getD false

/-- The engine's packets for a group that the switch core holds, with the codes they have not started on. -/
def State.groupCopies (s : State) (p : Plane) (g : Nat) : List (Nat × List Nat) :=
  (s.pl p).swc.pkts.filterMap (fun e =>
    match e.2 with
    | some b =>
      let cs := b.codes.filter (fun c => (s.tx? p c).map (·.pid) ≠ some e.1)
      if b.src = 577 ∧ colWork g b.pkt ∧ cs ≠ [] then some (e.1, cs) else none
    | none => none)

/-- How many packets of a group the engine would take back. -/
def State.groupPackets (s : State) (p : Plane) (g : Nat) : Nat :=
  ((s.ep p 0).src.map (fun e => (e.2.waiting.filter (fun k => colWork g k.pkt)).length)).sum +
    ((s.pl p).swc.kept.filter (fun k => k.pkt.src == 577 && colWork g k.pkt.pkt)).length + (s.groupCopies p g).length

/-- The engine's packets for a group that have not started transmission are taken back (R199). -/
def State.purgeGroup (s : State) (p : Plane) (g : Nat) : State :=
  let mine := s.groupCopies p g
  let s := s.modEp p 0 (fun x => { x with
    src := x.src.foldl (fun m e => mmod {} e.1 (fun w => { w with
      waiting := w.waiting.filter (fun k => !colWork g k.pkt) }) m) x.src })
  let s := s.modSwc p (fun x => { x with
    kept := x.kept.filter (fun k => !(k.pkt.src == 577 && colWork g k.pkt.pkt)) })
  s.each mine (fun e s => s.each e.2 (fun c s => s.purgeCopy p e.1 c))

/-- A group aborts (R198, R199): `peer` is the sender of an ABORT, which gets none back. -/
def State.colAbort (s : State) (p : Plane) (g code : Nat) (origin : Bool) (peer : Option EpId) : State :=
  if s.gState p g ≠ 1 then s else
    let s := s.setF p Fld.COL_GRP_STAT.STATE g 2
    let s := s.setF p Fld.COL_GRP_STAT.ABORT_CODE g code
    let s := s.setFlag p Fld.COL_GRP_STAT.ORIGIN g origin
    let s := s.purgeGroup p g
    let s := s.modGrp p g (fun x => { x with chunks := [], freed := [] })
    let s := s.raise p 0x0501 (wn g) [wn code, wn (b2n origin), wn (s.gEpoch p g)]
    let b := colHdrBytes ⟨g, s.gEpoch p g, false, false, 0, 0, 1, code⟩
    let dsts := (if s.gRoot p g then [] else [s.gParent p g]) ++ (s.children p g).map Child.id
    s.each (dsts.filter (fun d => some d ≠ peer)) (fun d s => s.epSend p 0 none (s.colPkt p g opCOL_CTL d b))

/-- Every ACTIVE group of a plane, and those with XPLANE = 1, abort (R201). -/
def State.colAbortAll (s : State) (p : Plane) (code : Nat) (xonly : Bool) : State :=
  s.each (s.rows p .COL_GRP_STAT 0) (fun g s =>
    if s.gState p g = 1 ∧ (xonly = false ∨ s.flag p Fld.COL_GRP.XPLANE g = true) then s.colAbort p g code true none
    else s)

/-! ## Results and partials -/

/-- Values of a chunk as they leave: the two-word sums rounded (R180), and the mean applied at the root (R181). -/
def State.outVals (s : State) (p : Plane) (g : Nat) (mean : Bool) (acc : List Nat) : List Nat :=
  let vs := outValues (s.gComp p g) acc
  if mean ∧ s.gOp p g = 3 then
    let r := recip (s.fld p Fld.COL_GRP.MEAN_N g)
    vs.map (fun v => mulBits fp32 v r)
  else vs

/-- A chunk converted to a format (R182 to R184): the data, and COL_SAT_CNT counted. -/
def State.colConvert (s : State) (p : Plane) (g chunk fmt : Nat) (vs : List Nat) : Bytes × State :=
  let rnds := roundings (s.flag p Fld.COL_GRP.RND g) (s.fld p Fld.COL_GRP.SEED g) (s.gEpoch p g)
    (chunk * s.gFull p g) vs.length
  let o := chunkOut fmt (s.gEps p g) (s.flag p Fld.COL_GRP.OVF g) (s.gSlots p g) rnds vs
  (o.1, s.countN p Fld.COL_SAT_CNT.N 0 o.2)

/-- The destinations of a RESULT (R174, Table 6.1). -/
def State.resultTo (s : State) (p : Plane) (g chunk : Nat) : List EpId :=
  if s.gKind p g = 1 then [s.memberId p g (chunk / s.fld p Fld.COL_GRP.SEG_CHUNKS g)]
  else if s.gKind p g = 2 then [BitVec.ofNat 16 (s.fld p Fld.COL_GRP.ROOT_EP g)]
  else if s.flag p Fld.COL_GRP.DOWN_FORM g then s.memberIds p g
  else [BitVec.ofNat 16 (s.fld p Fld.COL_GRP.DOWN_ID g)]

/-- Kinds 3 and 4 relay what arrived. -/
def State.gRelay (s : State) (p : Plane) (g : Nat) : Bool := decide (s.gKind p g = 3 ∨ s.gKind p g = 4)

/-- The root sends the RESULT of a complete chunk (Table 6.1). -/
def State.sendResult (s : State) (p : Plane) (g chunk : Nat) (c : Chunk) : State :=
  let out := s.gOut p g
  let (data, s) := if s.gRelay p g && c.fmt == out then (c.raw, s)
    else s.colConvert p g chunk out (s.outVals p g (!s.gRelay p g) c.acc)
  let b := colHdrBytes ⟨g, s.gEpoch p g, false, false, out, chunk, c.elems, 0⟩ ++ data
  s.each (s.resultTo p g chunk) (fun d s => s.epSend p 0 none (s.colPkt p g opRESULT d b))

/-- Bytes of an accumulator image: each slot's line, and in the final slot only the elements present (R176). -/
def State.imageLen (s : State) (p : Plane) (g elems : Nat) : Nat := elems * (256 / s.gEps p g)

/-- The lines of a chunk as its slots hold them, and its image as a packet carries it. -/
def State.chunkLines (s : State) (p : Plane) (g : Nat) (c : Chunk) : Bytes :=
  if s.gRelay p g then c.raw
  else imageOf (s.gFmt p g) (s.gOp p g) (s.gEps p g) (s.gComp p g) (s.gSlots p g) c.acc
def State.colImage (s : State) (p : Plane) (g : Nat) (c : Chunk) : Bytes :=
  (s.chunkLines p g c).take (s.imageLen p g c.elems)

/-- A spilled chunk whose lines do not match the CRC-32 in its record (R237). -/
def State.spillBad (s : State) (p : Plane) (g : Nat) (c : Chunk) : Bool :=
  c.pos == .spill && c.crc != crc32 (s.chunkLines p g c)

/-- An inner node sends its PARTIAL of a complete chunk (R182, R190). -/
def State.sendPartial (s : State) (p : Plane) (g chunk : Nat) (c : Chunk) : State :=
  let (fmt, data, s) :=
    if s.gRelay p g then (c.fmt, c.raw, s)
    else if s.flag p Fld.COL_GRP.PART_FMT g then
      let (d, s) := s.colConvert p g chunk (s.gFmt p g) (s.outVals p g false c.acc)
      (s.gFmt p g, d, s)
    else (0xF, s.colImage p g c, s)
  let b := colHdrBytes ⟨g, s.gEpoch p g, c.last, false, fmt, chunk, c.elems, 0⟩ ++ data
  s.sendWindowed p 0 (s.colPkt p g opPARTIAL (s.gParent p g) b) none

def State.setChunk (s : State) (p : Plane) (g chunk : Nat) (c : Option Chunk) : State :=
  s.modGrp p g (fun x => { x with chunks := mset none chunk c x.chunks })

/-- A complete chunk leaves: at the root at once, at an inner node once the parent's LIMIT exceeds it (R190). A spilled
chunk is read, and its CRC checked (R237, R253). -/
def State.chunkOutNow (s : State) (p : Plane) (g chunk : Nat) : State :=
  match mget none chunk (s.grp p g).chunks with
  | some c =>
    if c.done = false ∨ c.sent = true ∨ c.pos = .fwd then s
    else if s.spillBad p g c then s.colAbort p g 7 true none
    else if s.gRoot p g then (s.setChunk p g chunk (some { c with sent := true })).sendResult p g chunk c
    else if chunk < (s.grp p g).parent then
      (s.setChunk p g chunk (some { c with sent := true })).sendPartial p g chunk c
    else s
  | none => s

/-! ## The forward path (R193) -/

/-- A forwarded contribution of a chunk has not yet left the window. -/
def State.fwdWaiting (s : State) (p : Plane) (g chunk : Nat) : Bool :=
  (s.srcWin p 0 (s.gFwdEp p g)).waiting.any (fun k => k.pkt.hdr.op == opCONTRIB &&
    ((colHdr? k.pkt.payload).map (fun h => h.group == g && h.chunk == chunk)).getD false)

/-- The credit that FWD_EP may hold now: one above the highest complete forward chunk whose contributions have gone and
that lies below the parent's LIMIT. -/
def State.fwdCredit (s : State) (p : Plane) (g : Nat) : Nat :=
  (s.grp p g).chunks.foldl (fun a e =>
    match e.2 with
    | some c =>
      if c.pos = .fwd ∧ c.done = true ∧ (s.gRoot p g = true ∨ e.1 < (s.grp p g).parent) ∧
          s.fwdWaiting p g e.1 = false then max a (e.1 + 1) else a
    | none => a) (s.grp p g).fwdCred

/-- A SLOT_CRED with FWD = 1 leaves for FWD_EP when the credit has risen. -/
def State.fwdTell (s : State) (p : Plane) (g : Nat) : State :=
  let c := s.fwdCredit p g
  if (s.grp p g).fwdOn = true ∧ s.gState p g = 1 ∧ (s.grp p g).fwdCred < c then
    let s := s.modGrp p g (fun x => { x with fwdCred := c })
    s.epSend p 0 none (s.colPkt p g opSLOT_CRED (s.gFwdEp p g)
      (colHdrBytes ⟨g, s.gEpoch p g, false, true, 0, c, 0, 0⟩))
  else s

/-- The same for every group: the engine's window to FWD_EP has moved. -/
def State.fwdTellAll (s : State) (p : Plane) : State :=
  s.each ((s.pl p).col.grps.map (·.1)) (fun g s => s.fwdTell p g)

/-! ## Contributions -/

/-- The slot cache counts a hit or a miss (R186); which is a free value. -/
def State.cacheCount (s : State) (p : Plane) : State :=
  let (n, s) := s.takeFree
  let hit := Config.freeNat n % 2
  let s := s.setFree p Fld.COL_CACHE_HIT.N 0 (satAdd 32 (s.fldL p Fld.COL_CACHE_HIT.N 0) hit)
  s.setFree p Fld.COL_CACHE_MISS.N 0 (satAdd 32 (s.fldL p Fld.COL_CACHE_MISS.N 0) (1 - hit))

/-- The last chunk of an epoch of kind 3 plus one (R194). -/
def State.k3Chunks (s : State) (p : Plane) (g : Nat) : Nat :=
  s.fld p Fld.COL_GRP.SEG_CHUNKS g * s.fld p Fld.COL_GRP.MEMBER_COUNT g

/-- Chunks above `c` that the epoch has held. -/
def GrpSt.above (x : GrpSt) (base c : Nat) : Bool :=
  x.chunks.any (fun e => decide (c < e.1)) || x.freed.any (fun k => decide (c < k)) || decide (c + 1 < base)

/-- FMT, ELEMS, LAST and the data length of a contribution agree with the group, its chunk and its epoch (R176, R194,
Table 6.6 FORMAT). -/
def State.colFormatOk (s : State) (p : Plane) (g : Nat) (img : Bool) (h : ColHdr) (n : Nat) : Bool :=
  let x := s.grp p g
  let k := s.gKind p g
  let full := s.gFull p g
  let c := mget none h.chunk x.chunks
  let fmtOk := h.fmt == s.gFmt p g || (img && h.fmt == 0xF)
  let same := match c with
    | some c => c.fmt == h.fmt && c.elems == h.elems && (k == 3 || c.last == h.last)
    | none => true
  let size :=
    if k = 5 then decide (h.elems = 0 ∧ h.chunk = 0) && h.last
    else if h.last then decide (1 ≤ h.elems ∧ h.elems ≤ full) else h.elems == full
  let mx := !fmtMx (s.gFmt p g) || h.elems % 32 == 0
  let place :=
    if k = 3 then decide (h.chunk < s.k3Chunks p g)
    else match x.lastIdx with
      | some l => decide (h.chunk ≤ l) && (h.last == (h.chunk == l))
      | none => !(h.last && x.above (s.gBase p g) h.chunk)
  let owner := !(s.gRoot p g && k == 1) ||
    decide (h.chunk / s.fld p Fld.COL_GRP.SEG_CHUNKS g < s.fld p Fld.COL_GRP.MEMBER_COUNT g)
  let data := if h.fmt = 0xF then s.imageLen p g h.elems else
    wireBytes (s.gFmt p g) (s.gEps p g) h.elems
  fmtOk && same && size && mx && place && owner && n == 16 + data

/-- The accumulator words of a contribution's data (R178, R179). -/
def State.colValues (s : State) (p : Plane) (g : Nat) (h : ColHdr) (data : Bytes) : List Nat :=
  if h.fmt = 0xF then imageElems (s.gFmt p g) (s.gOp p g) (s.gEps p g) (s.gComp p g) (s.gSlots p g) h.elems data
  else chunkElems (s.gFmt p g) (s.gEps p g) (s.gSlots p g) h.elems data

/-- The position a chunk takes at its first contribution (R192, R193). -/
def State.newPos (s : State) (p : Plane) (g : Nat) : ChunkPos :=
  let n := ((s.grp p g).chunks.filter (fun e => (e.2.map Chunk.pos) == some ChunkPos.sram)).length
  if n < s.fld p Fld.COL_GRP.ALLOC_CHUNKS g then .sram
  else if s.gExhaust p g = 1 then .spill else .fwd

/-- A contribution goes to FWD_EP unreduced (R193 step 1). -/
def State.forwardContrib (s : State) (p : Plane) (g idx : Nat) (h : ColHdr) (payload : Bytes) : State :=
  let b := colHdrBytes { h with fwd := true, child := idx } ++ payload.drop 16
  s.sendWindowed p 0 (s.colPkt p g opCONTRIB (s.gFwdEp p g) b) none

/-- A contribution is folded into its chunk, which may complete it (R172, R179, R185, R190). -/
def State.accept (s : State) (p : Plane) (g idx : Nat) (h : ColHdr) (payload : Bytes) : State :=
  let data := payload.drop 16
  let comp := s.gComp p g
  let old := mget none h.chunk (s.grp p g).chunks
  let pos := match old with
    | some c => c.pos
    | none => s.newPos p g
  let vals := s.colValues p g h data
  let img := comp && h.fmt == 0xF
  let acc : List Nat :=
    if s.gKind p g = 5 ∨ pos = .fwd then [] else
      match old with
      | none => if img then vals else firstAcc comp vals
      | some c => if img then combineImg c.acc vals else combine (s.gFmt p g) (s.gOp p g) comp c.acc vals
  let seen := idx :: (match old with | some c => c.seen | none => [])
  let done := s.gRelay p g || (s.children p g).all (fun c => seen.contains c.idx)
  let c : Chunk := ⟨seen, h.fmt, h.elems, h.last, acc, if s.gRelay p g then data else [], pos, done, false, 0⟩
  let c := if pos = .spill then { c with crc := crc32 (s.chunkLines p g c) } else c
  let s := s.modGrp p g (fun x => { x with
    lastIdx := if h.last ∧ s.gKind p g ≠ 3 then some h.chunk else x.lastIdx })
  let s := s.setChunk p g h.chunk (some c)
  let s := s.cacheCount p
  let s := if pos = .fwd ∧ old = none then s.count p Fld.COL_FWD_CNT.N 0 else s
  if pos = .fwd then (s.forwardContrib p g idx h payload).fwdTell p g
  else s.chunkOutNow p g h.chunk

/-- A CONTRIB or PARTIAL of a child (R172, R189, R194, R199). -/
def State.contribIn (s : State) (p : Plane) (k : Packet) : State :=
  match colHdr? k.payload with
  | none => s.count p Fld.COL_GRP_DISC.N 0
  | some h =>
    let g := h.group
    if s.gState p g = 2 then s.count p Fld.COL_ABORT_DISC.N 0
    else if s.gState p g ≠ 1 then s.count p Fld.COL_GRP_DISC.N 0
    else match (s.children p g).find? (fun c => c.id == k.hdr.src && c.eng == (k.hdr.op == opPARTIAL)) with
      | none => s.count p Fld.COL_GRP_DISC.N 0
      | some ch =>
        let x := s.grp p g
        let old := mget none h.chunk x.chunks
        let dup := match old with
          | some c => c.seen.contains ch.idx || c.sent || (s.gRelay p g && c.done)
          | none => false
        if h.epoch ≠ s.gEpoch p g ∨ h.chunk < s.gBase p g ∨ x.freed.contains h.chunk = true ∨ dup = true then
          s.count p Fld.COL_STALE_DISC.N 0
        else if s.gLimit p g ≤ h.chunk then
          (s.count p Fld.COL_CRED_DISC.N 0).raise p 0x0502 (wn g) [wn k.hdr.src.toNat]
        else if s.colFormatOk p g ch.eng h k.payload.length = false then s.colAbort p g 3 true none
        else if (old.map (s.spillBad p g)).getD false then s.colAbort p g 7 true none
        else s.accept p g ch.idx h k.payload

/-- A returned forward chunk (R193 steps 4 to 6): relayed at once. -/
def State.fwdReturn (s : State) (p : Plane) (k : Packet) (h : ColHdr) : State :=
  let g := h.group
  if s.gState p g = 2 then s.count p Fld.COL_ABORT_DISC.N 0
  else if s.gState p g ≠ 1 ∨ k.hdr.src ≠ s.gFwdEp p g ∨ s.gExhaust p g ≠ 2 then s.count p Fld.COL_GRP_DISC.N 0
  else if h.epoch ≠ s.gEpoch p g then s.count p Fld.COL_STALE_DISC.N 0
  else if (s.grp p g).fwdCred ≤ h.chunk then
    (s.count p Fld.COL_CRED_DISC.N 0).raise p 0x0502 (wn g) [wn k.hdr.src.toNat]
  else match mget none h.chunk (s.grp p g).chunks with
    | some c =>
      if c.pos ≠ .fwd ∨ c.sent = true ∨ c.done = false then s.count p Fld.COL_STALE_DISC.N 0
      else
        let data := k.payload.drop 16
        let n := s.imageLen p g h.elems
        if h.fmt ≠ 0xF ∨ h.elems ≠ c.elems ∨ data.length ≠ n then s.colAbort p g 3 true none
        else
          let acc := s.colValues p g h data
          let c := { c with acc := acc, sent := true }
          let s := s.setChunk p g h.chunk (some c)
          if s.gRoot p g then s.sendResult p g h.chunk { c with fmt := 0xF }
          else
            let b := colHdrBytes ⟨g, s.gEpoch p g, c.last, false, 0xF, h.chunk, c.elems, 0⟩ ++ data
            s.sendWindowed p 0 (s.colPkt p g opPARTIAL (s.gParent p g) b) none
    | none => s.count p Fld.COL_STALE_DISC.N 0

/-- What the engine does with a CONTRIB or PARTIAL it performs. -/
def State.colPerform (s : State) (p : Plane) (k : Packet) : State :=
  match colHdr? k.payload with
  | some h => if h.fwd ∧ k.hdr.op = opPARTIAL then s.fwdReturn p k h else s.contribIn p k
  | none => s.contribIn p k

/-! ## Freeing -/

/-- BASE advances past every freed chunk. -/
def advanceBase : Nat → Nat → List Nat → Nat × List Nat
  | 0, b, l => (b, l)
  | f + 1, b, l => if l.contains b then advanceBase f (b + 1) (l.filter (· ≠ b)) else (b, l)

/-- The engine still holds packets of a chunk: its partial or result has not all been handed to the switch core. -/
def State.chunkPending (s : State) (p : Plane) (g chunk : Nat) : Bool :=
  let mine := fun (k : Packet) => colWork g k && ((colHdr? k.payload).map (fun h => h.chunk == chunk)).getD false
  (s.ep p 0).src.any (fun e => e.2.waiting.any (fun w => mine w.pkt)) ||
    (s.pl p).swc.kept.any (fun k => k.pkt.src == 577 && mine k.pkt.pkt)

/-- The epoch's chunks have all been freed (R194, R195). -/
def State.epochDone (s : State) (p : Plane) (g : Nat) : Bool :=
  let b := s.gBase p g
  if s.gKind p g = 3 then decide (s.k3Chunks p g ≤ b)
  else match (s.grp p g).lastIdx with
    | some l => decide (l < b)
    | none => false

/-- A sent chunk is freed (R187, R188, R195). -/
def State.freeChunk (s : State) (p : Plane) (g chunk : Nat) : State :=
  match mget none chunk (s.grp p g).chunks with
  | some c =>
    if c.sent = false ∨ s.chunkPending p g chunk = true then s else
      let s := s.setChunk p g chunk none
      let x := s.grp p g
      let (b, l) := advanceBase (x.freed.length + 2) (s.gBase p g) (chunk :: x.freed)
      let s := s.modGrp p g (fun x => { x with freed := l })
      let s := s.setF p Fld.COL_GRP_BASE.N g b
      let s := s.setF p Fld.COL_GRP_LIMIT.N g (b + s.gRing p g)
      if s.epochDone p g then s.openEpoch p g (s.gEpoch p g + 1)
      else if (s.grp p g).told + s.credStride p ≤ s.gLimit p g then s.sendCred p g
      else s
  | none => s

/-! ## Activation (R196, R200) -/

/-- Bytes of a group's forward store (R193 step 2): FWD_CHUNKS × CHILD_COUNT × its largest contribution. -/
def State.fwdStore (s : State) (p : Plane) (g : Nat) : Nat :=
  let wire := 16 + wireBytes (s.gFmt p g) (s.gEps p g) (s.gFull p g)
  let img := if (s.childrenNow p g).any Child.eng then 16 + 256 * s.gSlots p g else 0
  s.fld p Fld.COL_GRP.FWD_CHUNKS g * s.fld p Fld.COL_GRP.CHILD_COUNT g * max wire img

def State.setRej (s : State) (p : Plane) (g code : Nat) : State :=
  (s.setFlag p Fld.COL_GRP_STAT.REJ g true).setF p Fld.COL_GRP_STAT.REJ_CODE g code

/-- Groups that hold an allocation; the free counts of Table 6.11. -/
def State.subF (s : State) (p : Plane) (f : Fld) (n : Nat) : State := s.setF p f 0 (s.fld p f 0 - n)
def State.addF (s : State) (p : Plane) (f : Fld) (n : Nat) : State := s.setF p f 0 (s.fld p f 0 + n)

/-- Bytes of the deep-buffer spill region not reserved: DSP_OVF_FREE, which MEM_DEEP_FREE reports in KiB (R232). -/
def State.deepFree (s : State) (p : Plane) : Nat := s.fld p Fld.DSP_OVF_FREE.N 0
def State.setDeepFree (s : State) (p : Plane) (n : Nat) : State :=
  (s.setF p Fld.DSP_OVF_FREE.N 0 n).setF p Fld.MEM_DEEP_FREE.KIB 0 (n / 1024)

/-- What the allocators of the slot store and the spill regions count (R196, R257): 0 slots, 1 records, 2 spill slots,
3 deep-buffer bytes. -/
def State.resvFree (s : State) (p : Plane) : Nat → Nat
  | 0 => s.fld p Fld.COL_SLOT_FREE.N 0
  | 1 => s.fld p Fld.COL_REC_FREE.N 0
  | 2 => s.fld p Fld.COL_SPILL_FREE.N 0
  | _ => s.deepFree p
def State.setResv (s : State) (p : Plane) (r n : Nat) : State :=
  match r with
  | 0 => s.setF p Fld.COL_SLOT_FREE.N 0 n
  | 1 => s.setF p Fld.COL_REC_FREE.N 0 n
  | 2 => s.setF p Fld.COL_SPILL_FREE.N 0 n
  | _ => s.setDeepFree p n

/-- An allocation is given back; what a failed unit took away while it was allocated does not return (R257). -/
def State.give (s : State) (p : Plane) (r n : Nat) : State :=
  let owe := mget 0 r (s.pl p).mem.owe
  let k := min owe n
  let s := s.modMem p (fun x => { x with owe := mset 0 r (owe - k) x.owe })
  s.setResv p r (s.resvFree p r + (n - k))

/-- A failed unit's space is withdrawn: from what is free, and the rest as it is given back. -/
def State.withdraw (s : State) (p : Plane) (r n : Nat) : State :=
  let k := min n (s.resvFree p r)
  let s := s.modMem p (fun x => { x with owe := mmod 0 r (· + (n - k)) x.owe })
  s.setResv p r (s.resvFree p r - k)

/-- ACTIVATE (R196). -/
def State.colActivate (s : State) (p : Plane) (g : Nat) : State :=
  let alloc := s.fld p Fld.COL_GRP.ALLOC_CHUNKS g
  let slots := alloc * s.gSlots p g
  let spills := if s.gExhaust p g = 1 then s.fld p Fld.COL_GRP.SPILL_CHUNKS g * s.gSlots p g else 0
  let store := if s.gExhaust p g = 2 then s.fwdStore p g else 0
  if s.flag p Fld.COL_GRP.VALID g = false ∨ s.gState p g ≠ 0 then s.setRej p g 1
  else if 64 ≤ s.fld p Fld.COL_ACT_CNT.N 0 then s.setRej p g 2
  else if s.fld p Fld.COL_SLOT_FREE.N 0 < slots then s.setRej p g 3
  else if s.fld p Fld.COL_REC_FREE.N 0 < alloc then s.setRej p g 4
  else if s.fld p Fld.COL_SPILL_FREE.N 0 < spills then s.setRej p g 5
  else if s.deepFree p < store then s.setRej p g 6
  else
    let s := s.subF p Fld.COL_SLOT_FREE.N slots
    let s := s.subF p Fld.COL_REC_FREE.N alloc
    let s := s.subF p Fld.COL_SPILL_FREE.N spills
    let s := s.setDeepFree p (s.deepFree p - store)
    let s := s.addF p Fld.COL_ACT_CNT.N 1
    let kids := s.childrenNow p g
    let mems := s.memberIdsNow p g
    let s := s.modGrp p g (fun _ =>
      { kids := kids, mems := mems, slots := slots, recs := alloc, spills := spills, store := store })
    let s := s.setF p Fld.COL_GRP_STAT.STATE g 1
    let s := s.setF p Fld.COL_GRP_STAT.ABORT_CODE g 0
    let s := s.setFlag p Fld.COL_GRP_STAT.ORIGIN g false
    s.openEpoch p g 0

/-- DEACTIVATE (R196): what the group holds is discarded, its packets counted, the allocation freed. -/
def State.colDeactivate (s : State) (p : Plane) (g : Nat) : State :=
  if s.gState p g = 1 ∨ s.gState p g = 2 then
    let x := s.grp p g
    let n := x.chunks.foldl (fun a e => a + ((e.2.map (fun c => if c.sent then 0 else c.seen.length)).getD 0)) 0
    let n := n + s.groupPackets p g
    let s := s.purgeGroup p g
    let s := s.countN p Fld.COL_ABORT_DISC.N 0 n
    let s := (((s.give p 0 x.slots).give p 1 x.recs).give p 2 x.spills).give p 3 x.store
    let s := s.subF p Fld.COL_ACT_CNT.N 1
    (s.modGrp p g (fun _ => {})).setF p Fld.COL_GRP_STAT.STATE g 0
  else s

/-- ABORT written to COL_GRP_CTL: code SOFTWARE (Table 6.14). -/
def State.colSoftAbort (s : State) (p : Plane) (g : Nat) : State := s.colAbort p g 6 true none

/-- REFORM (R200). -/
def State.colReform (s : State) (p : Plane) (g : Nat) : State :=
  if s.gState p g = 2 then (s.setF p Fld.COL_GRP_STAT.STATE g 1).openEpoch p g (s.gEpoch p g + 1) else s

/-- A write of COL_GRP_CTL: bits 0 ACTIVATE, 1 DEACTIVATE, 2 ABORT, 3 REFORM; more than one is refused (R196). -/
def State.colCtlWrite (s : State) (p : Plane) (g v : Nat) : State :=
  match v % 16 with
  | 0 => s
  | 1 => s.colActivate p g
  | 2 => s.colDeactivate p g
  | 4 => s.colSoftAbort p g
  | 8 => s.colReform p g
  | _ => s.setRej p g 7

/-- Open work of R197. -/
def State.openWork (s : State) (p : Plane) (g : Nat) : Bool :=
  (s.grp p g).chunks.any (fun e => (e.2.map (fun c => !c.sent)).getD false)

/-! ## Control packets -/

/-- A SLOT_CRED at an engine (R188). -/
def State.slotCredIn (s : State) (p : Plane) (k : Packet) : State :=
  match colHdr? k.payload with
  | none => s.count p Fld.COL_GRP_DISC.N 0
  | some h =>
    let g := h.group
    if s.gState p g = 2 then s.count p Fld.COL_ABORT_DISC.N 0
    else if s.gState p g ≠ 1 ∨ s.gRoot p g = true ∨ k.hdr.src ≠ s.gParent p g then s.count p Fld.COL_GRP_DISC.N 0
    else if h.epoch ≠ s.gEpoch p g ∨ h.chunk ≤ (s.grp p g).parent then s
    else
      let s := s.modGrp p g (fun x => { x with parent := h.chunk })
      let s := s.each ((s.grp p g).chunks.map (·.1)) (fun c s => s.chunkOutNow p g c)
      s.fwdTell p g

/-- A COL_CTL at an engine (Table 6.7, R198). -/
def State.colCtlIn (s : State) (p : Plane) (k : Packet) : State :=
  match colHdr? k.payload with
  | none => s.count p Fld.COL_GRP_DISC.N 0
  | some h =>
    let g := h.group
    let parent := !s.gRoot p g && k.hdr.src == s.gParent p g
    if s.gState p g = 2 then s.count p Fld.COL_ABORT_DISC.N 0
    else if s.gState p g ≠ 1 ∨ h.elems ≠ 1 ∨
        (parent || (s.children p g).any (fun c => c.id == k.hdr.src)) = false then s.count p Fld.COL_GRP_DISC.N 0
    else s.colAbort p g (h.child % 16) false (some k.hdr.src)

/-! ## Meanings -/

/-- CHUNK_FREED (R187). -/
def execChunkFreed (p : Plane) (g : Fin 1024) (chunk : BitVec 32) (s : State) : Res :=
  goOn (s.when (s.colOn p && decide (s.gState p g = 1)) (·.freeChunk p g chunk.toNat))

/-- SLOT_CRED received (R188, R190). -/
def execSlotCred (p : Plane) (pkt : Packet) (s : State) : Res :=
  goOn (s.when (s.colOn p) (fun s => s.dstCrc p pkt (·.slotCredIn p pkt)))

/-- SLOT_CRED_DELAY: an advance has been unsent for 1 µs (R188). -/
def execSlotCredDelay (p : Plane) (g : Fin 1024) (s : State) : Res :=
  goOn (s.when (s.colOn p && decide (s.gState p g = 1 ∧ (s.grp p g).told < s.gLimit p g)) (·.sendCred p g))

/-- SLOT_CRED_REFRESH: every CRED_REFRESH while the epoch is open (R188). -/
def execSlotCredRefresh (p : Plane) (g : Fin 1024) (s : State) : Res :=
  goOn (s.when (s.colOn p && decide (s.gState p g = 1)) (·.sendCred p g))

/-- COL_CTL received (R198, R199). -/
def execColCtl (p : Plane) (pkt : Packet) (s : State) : Res :=
  goOn (s.when (s.colOn p) (fun s => s.dstCrc p pkt (·.colCtlIn p pkt)))

/-- COLLECTIVE_TIMEOUT: GRP_TMO has passed with open work (R197). -/
def execCollectiveTimeout (p : Plane) (g : Fin 1024) (s : State) : Res :=
  goOn (s.when (s.colOn p && s.openWork p g) (·.colAbort p g 1 true none))

/-- GROUP_ACTIVATE, GROUP_DEACTIVATE, GROUP_ABORT, REFORM: writes of COL_GRP_CTL (R196, R198, R200). -/
def execGroupActivate (p : Plane) (g : Fin 1024) (s : State) : Res := goOn (s.when (s.colOn p) (·.colCtlWrite p g 1))
def execGroupDeactivate (p : Plane) (g : Fin 1024) (s : State) : Res := goOn (s.when (s.colOn p) (·.colCtlWrite p g 2))
def execGroupAbort (p : Plane) (g : Fin 1024) (s : State) : Res := goOn (s.when (s.colOn p) (·.colCtlWrite p g 4))
def execReform (p : Plane) (g : Fin 1024) (s : State) : Res := goOn (s.when (s.colOn p) (·.colCtlWrite p g 8))

/-- The engine state of a plane leaves on Halyard (R201, Table 6.8). -/
def State.engineSend (s : State) (p : Plane) : State :=
  let up := s.colOn p
  let n := ((s.rows p .COL_GRP_STAT 0).filter (fun g => s.gState p g == 1)).length
  let s := s.modCol p (fun x => { x with told := up })
  s.emit (.halCtl p 0x03 ([BitVec.ofNat 8 (b2n up)] ++ leBytes 2 n ++ List.replicate 252 0))

/-- ENGINE_STATE_FLIT (R201): the other plane's engine has left service. -/
def execEngineStateFlit (p : Plane) (up : Bool) (s : State) : Res :=
  goOn (s.when (s.live p && s.halUp p && !up) (·.colAbortAll p 5 true))

/-- ENGINE_STATE_SEND (R201): on a change, and every 10 µs. -/
def execEngineStateSend (p : Plane) (s : State) : Res :=
  goOn (s.when (s.live p && s.halUp p) (·.engineSend p))

end Sys2Proof.Machine
end

