-- ==== Sys2Proof/Machine/Expert.lean ====
section
/-! DEFINITION. The dispatch engine (R204 to R230): layers, token decisions, rounds, combine, epochs, aborts. -/

namespace Sys2Proof.Machine

/-! ## Layers -/

def State.lyr (s : State) (p : Plane) (l : Nat) : LyrSt := mget {} l (s.pl p).dsp.lyrs
def State.modLyr (s : State) (p : Plane) (l : Nat) (f : LyrSt → LyrSt) : State :=
  s.modDsp p (fun x => { x with lyrs := mmod {} l f x.lyrs })

/-- The engine is in service: its plane runs and DSP_OK is 1. -/
def State.dspOn (s : State) (p : Plane) : Bool := s.runs p && s.flag p Fld.TOP_PG_STAT.DSP_OK 0

def State.lState (s : State) (p : Plane) (l : Nat) : Nat := s.fld p Fld.DSP_LYR_STAT.STATE l
def State.lEpoch (s : State) (p : Plane) (l : Nat) : Nat := s.fld p Fld.DSP_LYR_STAT.EPOCH l
def State.lFrags (s : State) (p : Plane) (l : Nat) : Nat := s.fld p Fld.DSP_LYR.FRAGS l + 1
def State.lTc (s : State) (p : Plane) (l : Nat) : BitVec 3 := BitVec.ofNat 3 (s.fld p Fld.DSP_LYR.TC l)
def State.lOvfEp (s : State) (p : Plane) (l : Nat) : EpId := BitVec.ofNat 16 (s.fld p Fld.DSP_LYR.OVF_EP l)
def State.lRounds (s : State) (p : Plane) (l : Nat) : Nat := s.fld p Fld.DSP_LYR.ROUNDS_MAX l

/-- D, the token data bytes, and E, the output elements, of a fragment (R209). -/
def State.lD (s : State) (p : Plane) (l : Nat) : Nat := s.fld p Fld.DSP_LYR.TOK_BYTES l / s.lFrags p l
def State.lE (s : State) (p : Plane) (l : Nat) : Nat := s.fld p Fld.DSP_LYR.OUT_ELEMS l / s.lFrags p l

/-- POLICY (Table 7.5); 2 acts as 0 where the epoch opened in hardware mode, and the reserved 3 acts as 0. -/
def State.lPolicy (s : State) (p : Plane) (l : Nat) : Nat := s.fld p Fld.DSP_LYR.POLICY l

/-- The valid origins of a layer as the committed file names them (R204). -/
def State.originsNow (s : State) (p : Plane) (l : Nat) : List EpId :=
  let b := s.fld p Fld.DSP_LYR.ORIG_BASE l
  ((List.range (s.fld p Fld.DSP_LYR.ORIG_COUNT l)).filter (fun i => s.flag p Fld.DSP_ORIG.VALID (b + i))).map (fun i =>
    BitVec.ofNat 16 (s.fld p Fld.DSP_ORIG.ID (b + i)))

/-- The origins of a layer: latched at its activation while it is not IDLE (R343). -/
def State.origins (s : State) (p : Plane) (l : Nat) : List EpId :=
  if s.lState p l = 0 then s.originsNow p l else (s.lyr p l).orig

/-- A field of the latched map (R207). -/
def LyrSt.map (x : LyrSt) (f : Fld) (e : Nat) : Nat := f.get e x.emap
def LyrSt.mapOk (x : LyrSt) (e : Nat) : Bool := x.map Fld.DSP_EMAP.VALID e == 1
def LyrSt.mapEp (x : LyrSt) (e : Nat) : EpId := BitVec.ofNat 16 (x.map Fld.DSP_EMAP.EP_ID e)
def LyrSt.exp (x : LyrSt) (e : Nat) : ExpSt := mget {} e x.exps
def State.modExp (s : State) (p : Plane) (l e : Nat) (f : ExpSt → ExpSt) : State :=
  s.modLyr p l (fun x => { x with exps := mmod {} e f x.exps })

def State.rec? (s : State) (p : Plane) (t : Nat) : Option TokRec := mget none t (s.pl p).dsp.recs
def State.setRec (s : State) (p : Plane) (t : Nat) (r : Option TokRec) : State :=
  s.modDsp p (fun x => { x with recs := mset none t r x.recs })

/-- The records of a layer. -/
def State.layerRecs (s : State) (p : Plane) (l : Nat) : List (Nat × TokRec) :=
  (s.pl p).dsp.recs.filterMap (fun e =>
    match e.2 with
    | some r => if r.layer = l then some (e.1, r) else none
    | none => none)

/-- A record is done: every fragment has been answered (R219). -/
def State.recDone (s : State) (p : Plane) (r : TokRec) : Bool := decide (s.lFrags p r.layer ≤ r.answered.length)

/-! ## Packets (Tables 7.2, 7.3) -/

structure DspHdr where
  layer  : Nat := 0
  epoch  : Nat := 0
  /-- byte 2: LAST 7, CLOSE 6, ABORT 5, DROP 4, OVF 3, FRAG -/
  flags  : Nat := 0
  frag   : Nat := 0
  j      : Nat := 0
  round  : Nat := 0
  token  : Nat := 0
  origin : Nat := 0
  /-- TREF, or COUNT of a CLOSE -/
  tref   : Nat := 0
  lslot  : Nat := 0
  rstat  : Nat := 0
  mask   : Nat := 0
  acode  : Nat := 0
  deriving DecidableEq, Repr

def dspBytes (h : DspHdr) : Bytes :=
  leBytes 1 h.layer ++ leBytes 1 h.epoch ++ leBytes 1 (h.flags + h.frag) ++ leBytes 1 (32 * h.j + h.round) ++
    leBytes 2 h.token ++ leBytes 2 h.origin ++ leBytes 4 h.tref ++ leBytes 1 h.lslot ++ leBytes 1 h.rstat ++
    leBytes 1 h.mask ++ leBytes 1 h.acode

def dspHdr? (b : Bytes) : Option DspHdr :=
  if b.length < 16 then none else
    let n := leNat (slice 0 16 b)
    some { layer := bits 5 0 n, epoch := bits 15 8 n, flags := 8 * bits 23 19 n, frag := bits 18 16 n,
           j := bits 31 29 n, round := bits 27 24 n, token := bits 47 32 n, origin := bits 63 48 n,
           tref := bits 95 64 n, lslot := bits 103 96 n, rstat := bits 111 104 n, mask := bits 119 112 n,
           acode := bits 123 120 n }

def opEXPERT_IN : Byte := 0x31
def opCOMBINED : Byte := 0x33
def opTOKEN_RET : Byte := 0x34

/-- RSTAT codes (Table 7.4). -/
def rsOK : Nat := 0
def rsDROPPED : Nat := 1
def rsREFUSED : Nat := 2
def rsFORMAT : Nat := 3
def rsSTALE : Nat := 4
def rsABORTED : Nat := 5
def rsEPOCH_OPEN : Nat := 6

/-- The engine sends a windowed packet for a layer. -/
def State.dspSend (s : State) (p : Plane) (l : Nat) (op : Byte) (dst : EpId) (pen : Bool) (h : DspHdr) (data : Bytes) :
    State :=
  let tc := s.lTc p l
  s.sendWindowed p 1 (mkPkt tREQ op dst (s.epId p 1) (BitVec.ofNat 4 tc.toNat) tc 0 0 pen false
    (dspBytes { h with layer := l } ++ data)) none

/-- A TOKEN_RET without data. -/
def State.tokenRet (s : State) (p : Plane) (l : Nat) (dst : EpId) (epoch frag token rstat acode : Nat) : State :=
  s.dspSend p l opTOKEN_RET dst false { epoch := epoch, frag := frag, token := token, rstat := rstat, acode := acode } []

/-- The layer of a packet that the engine sent. -/
def dspPktOf (l : Nat) (k : Packet) : Bool :=
  k.hdr.type == tREQ && decide (0x30 ≤ k.hdr.op.toNat ∧ k.hdr.op.toNat ≤ 0x34) &&
    ((dspHdr? k.payload).map (fun h => h.layer == l)).getD false

/-- The packets in the output store: those that wait for the window, and those the switch core has not taken (R221). -/
def State.storePkts (s : State) (p : Plane) : List Packet :=
  (s.ep p 1).src.flatMap (fun e => e.2.waiting.map (·.pkt)) ++
    ((s.pl p).swc.kept.filter (fun k => k.pkt.src == 578)).map (·.pkt.pkt)

/-- DSP_STORE_USED in bytes. -/
def State.storeUsed (s : State) (p : Plane) : Nat := ((s.storePkts p).map lenT).sum

/-- May the engine take a packet from its attachment now (R221): room for all that it can produce, and no TOKEN while the
store holds more than STORE_HI. -/
def State.dspRoom (s : State) (p : Plane) (k : Packet) : Bool :=
  match dspHdr? k.payload with
  | none => true
  | some h =>
    let used := s.storeUsed p
    let l := h.layer
    let hi := 1048576 * max 1 (min 16 (s.fld p Fld.DSP_GLB_CFG.STORE_HI 0))
    if k.hdr.op = 0x30 then decide (used ≤ hi ∧ used + (h.j + 1) * (36 + s.lD p l) ≤ 16777216)
    else if k.hdr.op = 0x32 then
      let out := 36 + wireBytes (s.fld p Fld.DSP_LYR.R_FMT l) 64 (s.lE p l)
      let ret := s.lFrags p l * (36 + if s.flag p Fld.DSP_LYR.RET_DATA l then s.lD p l else 0)
      decide (used + max out ret ≤ 16777216)
    else true

/-! ## Epochs -/

/-- The words of the expert map in a register file. -/
def emapOf (m : RegFile) : RegFile := m.filter (fun e => decide (0x1840000 ≤ e.1 ∧ e.1 < 0x1860000))

/-- An epoch opens (R207, R223): every entry empty, the map latched, EPOCH_OPEN to every origin. -/
def State.openLayer (s : State) (p : Plane) (l e : Nat) : State :=
  let m := emapOf (s.pl p).committed
  let host := bit 4 (s.fld p Fld.HIF_FUNC_MODE.MODE 0)
  let s := s.modDsp p (fun x => { x with recs := x.recs.filter (fun r => (r.2.map TokRec.layer) != some l) })
  let s := s.modLyr p l (fun x =>
    { orig := x.orig, recs := x.recs, slots := x.slots, bytes := x.bytes, emap := m, host := host })
  let s := s.setF p Fld.DSP_LYR_STAT.EPOCH l (e % 256)
  s.each (s.origins p l) (fun o s => s.tokenRet p l o (s.lEpoch p l) 0 0 rsEPOCH_OPEN 0)

/-- An endpoint receives an EXPERT_IN of the epoch (R227). -/
def State.touch (s : State) (p : Plane) (l : Nat) (dst : EpId) : State :=
  s.modLyr p l (fun x => { x with touched := if x.touched.contains dst then x.touched else dst :: x.touched })

/-- CLOSE of a round to an expert (R213, R214). -/
def State.sendClose (s : State) (p : Plane) (l e : Nat) : State :=
  let x := s.lyr p l
  let c := x.exp e
  let s := s.touch p l (x.mapEp e)
  s.dspSend p l opEXPERT_IN (x.mapEp e) true
    { epoch := s.lEpoch p l, flags := 64, round := c.round, tref := c.pkts, lslot := x.map Fld.DSP_EMAP.LSLOT e } []

/-- The experts of a layer. -/
def State.experts (s : State) (p : Plane) (l : Nat) : List Nat :=
  (List.range (s.fld p Fld.DSP_LYR.EXP_COUNT l)).map (· + s.fld p Fld.DSP_LYR.EXP_BASE l)

/-- Packets whose hand-off the end of the epoch waits for: CLOSE, COMBINED and TOKEN_RET DROPPED (R223). -/
def dspHolds (l : Nat) (k : Packet) : Bool :=
  dspPktOf l k && ((dspHdr? k.payload).map (fun h =>
    k.hdr.op == opCOMBINED || (k.hdr.op == opTOKEN_RET && h.rstat == rsDROPPED) ||
      (k.hdr.op == opEXPERT_IN && bit 6 h.flags))).getD false

/-- The epoch closes and the next opens (R223). -/
def State.closeEpoch (s : State) (p : Plane) (l : Nat) : State :=
  let x := s.lyr p l
  if s.lState p l = 1 ∧ x.closed = true ∧ (s.layerRecs p l).all (fun e => s.recDone p e.2) = true ∧
      x.exps.all (fun e => e.2.queue.isEmpty) = true ∧ (s.storePkts p).any (dspHolds l) = false then
    s.openLayer p l (s.lEpoch p l + 1)
  else s

/-- The same for every layer: the output store has moved. -/
def State.closeEpochs (s : State) (p : Plane) : State :=
  s.each ((s.pl p).dsp.lyrs.map (·.1)) (fun l s => s.closeEpoch p l)

/-! ## Combine -/

/-- BF16 weight of a route word as FP32. -/
def weightOf (r : Nat) : Nat := bits 31 16 r * 65536
def expertOf (r : Nat) : Nat := bits 13 0 r

/-- The FP32 value nearest 1 / s (R219); for s = 0 the spec states none: a free value. -/
def recipBits (free s : Nat) : Nat :=
  match decodeF fp32 s with
  | .nan => nanBits fp32
  | .inf neg => signBit fp32 neg
  | .num neg m e =>
    if m = 0 then free % 2 ^ 32 else
      let q := 2 ^ 64 / m
      encodeF fp32 (.num neg (2 * q + (if 2 ^ 64 % m = 0 then 0 else 1)) (-65 - e))

/-- The choices of a record, and DROP_MASK. -/
def TokRec.k (r : TokRec) : Nat := r.route.length
def TokRec.mask (r : TokRec) : Nat := ((dedup r.drop).map (2 ^ ·)).sum
def TokRec.allDropped (r : TokRec) : Bool := (List.range r.k).all (fun j => r.drop.contains j)

/-- The values of a finished fragment: renormalised (R219 step 1). -/
def renorm (free : Nat) (on : Bool) (r : TokRec) (acc : List Nat) : List Nat :=
  if on = true ∧ r.drop ≠ [] then
    let ws := ((List.range r.k).filter (fun j => !r.drop.contains j)).map (fun j => weightOf (r.route.getD j 0))
    let s := match ws with
      | [] => 0
      | w :: ws => ws.foldl (addBits fp32) w
    acc.map (fun a => mulBits fp32 a (recipBits free s))
  else acc

/-- COMBINED of a fragment (R219). -/
def State.sendCombined (s : State) (p : Plane) (t f : Nat) (r : TokRec) : State :=
  let l := r.layer
  let (n, s) := s.takeFree
  let vs := renorm (Config.freeNat n) (s.flag p Fld.DSP_LYR.RENORM l) r (mget [] f r.acc)
  let idx := (r.origin.toNat * 65536 + r.token) * 65536 + f * s.lE p l
  let rnds := roundings (s.flag p Fld.DSP_LYR.RND l) (s.fld p Fld.DSP_LYR.SEED l) (s.lEpoch p l) idx vs.length
  let o := chunkOut (s.fld p Fld.DSP_LYR.R_FMT l) 64 (s.flag p Fld.DSP_LYR.OVF l) (vs.length + 1) rnds vs
  let s := s.countN p Fld.DSP_SAT_CNT.N 0 o.2
  let s := s.setRec p t (some { r with answered := f :: r.answered, acc := r.acc.filter (fun e => e.1 ≠ f) })
  s.dspSend p l opCOMBINED r.origin false
    { epoch := s.lEpoch p l, frag := f, token := r.token, rstat := rsOK, mask := r.mask } o.1

/-- Bytes whose values the spec does not state. -/
def State.freeBytes (s : State) (n : Nat) : Bytes × State :=
  let (k, s) := s.takeFree
  (leBytes n (Config.freeNat k), s)

/-- TOKEN_RET DROPPED of a fragment (R210, R215): with RET_DATA its data, from the packet or the overflow queue; where
the queue no longer holds it the spec does not say what the packet carries, a free value. -/
def State.sendDropped (s : State) (p : Plane) (t f : Nat) (r : TokRec) (data : Option Bytes) : State :=
  let l := r.layer
  let (b, s) := if s.flag p Fld.DSP_LYR.RET_DATA l then
      match data, mget none f (r.data.map (fun e => (e.1, some e.2))) with
      | some d, _ => (d, s)
      | none, some d => (d, s)
      | none, none => s.freeBytes (s.lD p l)
    else ([], s)
  let s := s.setRec p t (some { r with answered := f :: r.answered })
  s.dspSend p l opTOKEN_RET r.origin false
    { epoch := s.lEpoch p l, frag := f, token := r.token, rstat := rsDROPPED, mask := r.mask } b

/-- Every fragment of a record that has become complete is answered (R215, R219). -/
def State.finishRec (s : State) (p : Plane) (t : Nat) (data : Option Bytes) : State :=
  s.each (List.range 8) (fun f s =>
    match s.rec? p t with
    | some r =>
      if r.arrived.contains f = false ∨ r.answered.contains f = true then s
      else if r.allDropped then s.sendDropped p t f r data
      else if (List.range r.k).all (fun j => r.drop.contains j || r.outs.contains (j, f)) then s.sendCombined p t f r
      else s
    | none => s)

/-! ## Dispatch -/

/-- EXPERT_IN of a fragment for a choice (R210). -/
def State.sendExpert (s : State) (p : Plane) (t j f : Nat) (r : TokRec) (round : Nat) (host : Bool) (data : Bytes) :
    State :=
  let l := r.layer
  let x := s.lyr p l
  let e := expertOf (r.route.getD j 0)
  let dst := if host then s.lOvfEp p l else x.mapEp e
  let s := (s.touch p l dst).modLyr p l (fun x => { x with hostN := if host then x.hostN + 1 else x.hostN })
  let s := if host then s else s.modExp p l e (fun c => { c with pkts := c.pkts + 1 })
  s.dspSend p l opEXPERT_IN dst false
    { epoch := s.lEpoch p l, flags := if host then 8 else 0, frag := f, j := j, round := round, token := r.token,
      origin := r.origin.toNat, tref := t, lslot := x.map Fld.DSP_EMAP.LSLOT e } data

/-- Free entries of a layer's overflow queue, in tokens: ovf_free() of R210. -/
def State.ovfFree (s : State) (p : Plane) (l : Nat) : Nat :=
  s.fld p Fld.DSP_LYR.OVF_TOKENS l - ((s.layerRecs p l).filter (fun e => e.2.fate.contains Fate.queued)).length

/-- The fate of choice j of a new token (R210), with its counts. The record is in place; its fate list grows by one. -/
def State.decide1 (s : State) (p : Plane) (t j : Nat) : State :=
  match s.rec? p t with
  | none => s
  | some r =>
    let l := r.layer
    let x := s.lyr p l
    let e := expertOf (r.route.getD j 0)
    let cap := x.map Fld.DSP_EMAP.CAP e
    let pol := s.lPolicy p l
    let put := fun (s : State) (fate : Fate) =>
      s.setRec p t (some { r with
        fate := r.fate ++ [fate]
        drop := if fate = .dropped then r.drop ++ [j] else r.drop })
    let dropIt := fun (s : State) => (put s .dropped).count p Fld.DSP_DROP_CNT.N 0
    if x.mapOk e = false ∨ cap = 0 then dropIt s
    else if (x.exp e).cnt < cap then
      put (s.modExp p l e (fun c => { c with cnt := c.cnt + 1 })) (.sent 0)
    else if pol = 1 ∧ 1 < s.lRounds p l ∧ 0 < s.ovfFree p l then
      ((put s .queued).modExp p l e (fun c => { c with queue := c.queue ++ [(t, j)] })).count p Fld.DSP_QUEUE_CNT.N 0
    else if pol = 1 then
      let s := if 1 < s.lRounds p l then
          let s := s.count p Fld.DSP_OVF_FULL.N 0
          if x.full then s
          else (s.modLyr p l (fun x => { x with full := true })).raise p 0x0603 (wn l) [wn (s.lEpoch p l)]
        else s
      dropIt s
    else if pol = 2 ∧ x.host = true then (put s .host).count p Fld.DSP_HOST_CNT.N 0
    else dropIt s

/-- The lowest TREF no record uses. -/
def freeRec (m : SMap (Option TokRec)) : Nat → Nat → Nat
  | 0, n => n
  | f + 1, n => if mhas n m then freeRec m f (n + 1) else n

/-- A fragment is accepted into its record: EXPERT_IN for each choice sent or given to OVF_EP, its data kept while a
choice is queued, and its answer where it is complete (R210). -/
def State.acceptFrag (s : State) (p : Plane) (t f : Nat) (data : Bytes) : State :=
  match s.rec? p t with
  | none => s
  | some r =>
    let keep := r.fate.contains Fate.queued
    let r := { r with
      arrived := f :: r.arrived
      data := if keep then mset [] f data r.data else r.data }
    let s := s.setRec p t (some r)
    let s := s.each (List.range r.k) (fun j s =>
      match r.fate.getD j .dropped with
      | .sent round => if round = 0 ∧ r.drop.contains j = false then s.sendExpert p t j f r 0 false data else s
      | .host => if r.drop.contains j then s else s.sendExpert p t j f r 0 true data
      | _ => s)
    s.finishRec p t (some data)

/-! ## Rounds -/

/-- Round of expert x is complete (R214): round 0 has closed, and every EXPERT_IN sent in the round has its output or its
choice has been dropped. -/
def State.roundDone (s : State) (p : Plane) (l e : Nat) : Bool :=
  let x := s.lyr p l
  let rd := (x.exp e).round
  x.closed && (s.layerRecs p l).all (fun t =>
    (List.range t.2.k).all (fun j =>
      !(expertOf (t.2.route.getD j 0) == e && t.2.fate.getD j .dropped == .sent rd) || t.2.drop.contains j ||
        t.2.arrived.all (fun f => t.2.outs.contains (j, f))))

/-- A queued choice leaves the overflow queue; the token's data leaves with its last queued choice. -/
def TokRec.leave (r : TokRec) (j : Nat) (fate : Fate) : TokRec :=
  let fs := listSet j fate r.fate
  { r with
    fate := fs
    drop := if fate = .dropped then r.drop ++ [j] else r.drop
    data := if fs.contains Fate.queued then r.data else [] }

/-- One queued choice is sent in a round. -/
def State.sendQueued (s : State) (p : Plane) (round t j : Nat) : State :=
  match s.rec? p t with
  | none => s
  | some r =>
    let s := s.each (sortNat r.arrived) (fun f s => s.sendExpert p t j f r round false (mget [] f r.data))
    s.setRec p t (some (r.leave j (.sent round)))

/-- One queued choice is dropped (R214, R215). -/
def State.dropQueued (s : State) (p : Plane) (t j : Nat) : State :=
  match s.rec? p t with
  | none => s
  | some r =>
    let s := (s.setRec p t (some { r.leave j .dropped with data := r.data })).count p Fld.DSP_DROP_CNT.N 0
    let s := s.finishRec p t none
    match s.rec? p t with
    | some r => s.setRec p t (some { r with data := if r.fate.contains Fate.queued then r.data else [] })
    | none => s

/-- The next round of an expert starts (R214). -/
def State.nextRound (s : State) (p : Plane) (l e : Nat) : State :=
  let x := s.lyr p l
  let c := x.exp e
  if s.roundDone p l e = false ∨ c.queue = [] ∨ s.lRounds p l ≤ c.round + 1 then s else
    let n := min (x.map Fld.DSP_EMAP.CAP e) c.queue.length
    let rd := c.round + 1
    let now := c.queue.take n
    let rest := c.queue.drop n
    let final := decide (rd = s.lRounds p l - 1)
    let s := s.modExp p l e (fun _ => { cnt := n, pkts := 0, round := rd, queue := if final then [] else rest })
    let s := s.each now (fun q s => s.sendQueued p rd q.1 q.2)
    let s := s.sendClose p l e
    if final then s.each rest (fun q s => s.dropQueued p q.1 q.2) else s

/-- Round 0 closes once every origin's LAST has been performed (R213). -/
def State.closeRound0 (s : State) (p : Plane) (l : Nat) : State :=
  let x := s.lyr p l
  if x.closed = true ∨ (s.origins p l).all (fun o => x.lastBy.contains o) = false then s else
    let s := s.modLyr p l (fun x => { x with closed := true })
    let s := s.each ((s.experts p l).filter (fun e => x.mapOk e)) (fun e s => s.sendClose p l e)
    if x.hostN = 0 then s else
      s.dspSend p l opEXPERT_IN (s.lOvfEp p l) true { epoch := s.lEpoch p l, flags := 72, tref := x.hostN } []

/-- What follows every accepted packet: round 0 may close, rounds may start, the epoch may end. -/
def State.progress (s : State) (p : Plane) (l : Nat) : State :=
  let s := s.closeRound0 p l
  let s := s.each ((s.lyr p l).exps.map (·.1)) (fun e s => s.nextRound p l e)
  s.closeEpoch p l

/-! ## Aborts -/

/-- The layer's packets in the output store are taken back (R227). -/
def State.purgeLayer (s : State) (p : Plane) (l : Nat) : State :=
  let s := s.modEp p 1 (fun x => { x with
    src := x.src.foldl (fun m e => mmod {} e.1 (fun w => { w with
      waiting := w.waiting.filter (fun k => !dspPktOf l k.pkt) }) m) x.src })
  s.modSwc p (fun x => { x with kept := x.kept.filter (fun k => !(k.pkt.src == 578 && dspPktOf l k.pkt.pkt)) })

/-- Records, slots and overflow queue of a layer become empty; its reservation stays. -/
def State.emptyLayer (s : State) (p : Plane) (l : Nat) : State :=
  let s := s.modDsp p (fun x => { x with recs := x.recs.filter (fun r => (r.2.map TokRec.layer) != some l) })
  s.modLyr p l (fun x => { orig := x.orig, recs := x.recs, slots := x.slots, bytes := x.bytes })

/-- An epoch aborts (R226, R227). -/
def State.dspAbort (s : State) (p : Plane) (l code : Nat) : State :=
  if s.lState p l ≠ 1 then s else
    let s := s.setF p Fld.DSP_LYR_STAT.STATE l 2
    let s := s.setF p Fld.DSP_LYR_STAT.ABORT_CODE l code
    let touched := (s.lyr p l).touched
    let s := (s.purgeLayer p l).emptyLayer p l
    let s := s.raise p 0x0601 (wn l) [wn code, wn (s.lEpoch p l)]
    let s := s.each (s.origins p l) (fun o s => s.tokenRet p l o (s.lEpoch p l) 0 0 rsABORTED code)
    s.each touched (fun d s => s.dspSend p l opEXPERT_IN d true
      { epoch := s.lEpoch p l, flags := 64 + 32, acode := code } [])

def State.dspAbortAll (s : State) (p : Plane) (code : Nat) : State :=
  s.each (s.rows p .DSP_LYR_STAT 0) (fun l s => if s.lState p l = 1 then s.dspAbort p l code else s)

/-! ## Packets in -/

/-- The route list of a TOKEN: its K words. -/
def routeOfTok (k : Nat) (b : Bytes) : List Nat := (List.range k).map (fun j => leNat (slice (16 + 4 * j) 4 b))

/-- The checks of R212, with the token's record where it exists. -/
def State.tokenOk (s : State) (p : Plane) (h : DspHdr) (src : EpId) (b : Bytes) (old : Option TokRec) : Bool :=
  let l := h.layer
  let k := h.j + 1
  let route := routeOfTok k b
  let es := route.map expertOf
  let lo := s.fld p Fld.DSP_LYR.EXP_BASE l
  decide (b.length = 48 + s.lD p l ∧ h.frag < s.lFrags p l ∧ k ≤ s.fld p Fld.DSP_LYR.KMAX l) &&
  es.all (fun e => decide (lo ≤ e ∧ e < lo + s.fld p Fld.DSP_LYR.EXP_COUNT l)) &&
  decide ((dedup es).length = es.length) &&
  (match old with
    | some r => r.route == route && !r.arrived.contains h.frag
    | none => true) &&
  !(s.lyr p l).lastBy.contains src

/-- A TOKEN fragment of the current epoch (R210, R212, R220). -/
def State.tokenNow (s : State) (p : Plane) (src : EpId) (h : DspHdr) (b : Bytes) : State :=
  let l := h.layer
  let found := (s.layerRecs p l).find? (fun e => e.2.origin == src && e.2.token == h.token)
  if s.tokenOk p h src b (found.map (·.2)) = false then
    (s.count p Fld.DSP_REFUSE_CNT.N 0).tokenRet p l src h.epoch h.frag h.token rsFORMAT 0
  else match found with
    | some (t, _) =>
      (s.modLyr p l (fun x => { x with used := true })).acceptFrag p t h.frag (b.drop 48)
    | none =>
      let n := ((s.layerRecs p l).filter (fun e => e.2.origin == src)).length
      if s.fld p Fld.DSP_LYR.TOK_MAX l ≤ n then
        let s := (s.count p Fld.DSP_REFUSE_CNT.N 0).tokenRet p l src h.epoch h.frag h.token rsREFUSED 0
        if (s.lyr p l).allowed then s
        else (s.modLyr p l (fun x => { x with allowed := true })).raise p 0x0602 (wn l) [wn src.toNat, wn h.epoch]
      else
        let m := (s.pl p).dsp.recs
        let t := freeRec m (m.length + 1) 0
        let route := routeOfTok (h.j + 1) b
        let s := s.setRec p t (some ⟨l, src, h.token, route, [], [], [], [], [], [], []⟩)
        let s := s.modLyr p l (fun x => { x with used := true })
        let s := s.each (List.range route.length) (fun j s => s.decide1 p t j)
        s.acceptFrag p t h.frag (b.drop 48)

/-- A TOKEN that the engine performs (R204, R213, R222, R227). -/
def State.tokenIn (s : State) (p : Plane) (k : Packet) : State :=
  match dspHdr? k.payload with
  | none => s.count p Fld.DSP_LYR_DISC.N 0
  | some h =>
    let l := h.layer
    let src := k.hdr.src
    if s.flag p Fld.DSP_LYR.VALID l = false ∨ (s.origins p l).contains src = false then
      s.count p Fld.DSP_LYR_DISC.N 0
    else if s.lState p l = 2 then s.count p Fld.DSP_ABORT_DISC.N 0
    else if s.lState p l ≠ 1 ∨ h.epoch ≠ s.lEpoch p l then
      (s.count p Fld.DSP_STALE_DISC.N 0).tokenRet p l src h.epoch h.frag h.token rsSTALE 0
    else
      let s := s.tokenNow p src h k.payload
      let s := if bit 7 h.flags ∧ (s.lyr p l).lastBy.contains src = false then
          s.modLyr p l (fun x => { x with lastBy := src :: x.lastBy })
        else s
      s.progress p l

/-- A TOKEN Pennant fails with ORDER_LOST (R226): a LAST fragment of an origin aborts the epoch with code ORDER. -/
def State.tokenLost (s : State) (p : Plane) (k : Packet) : State :=
  match dspHdr? k.payload with
  | some h =>
    if k.hdr.op = 0x30 ∧ bit 7 h.flags = true ∧ (s.origins p h.layer).contains k.hdr.src = true ∧
        h.epoch = s.lEpoch p h.layer then s.dspAbort p h.layer 2 else s
  | none => s

/-- Products folded into an accumulator (R218). -/
def foldOut (w : Nat) (acc ys : List Nat) : List Nat :=
  let ps := ys.map (fun y => mulBits fp32 w y)
  if acc.isEmpty then ps else List.zipWith (addBits fp32) acc ps

/-- An accepted output (R215, R218). -/
def State.outAccepted (s : State) (p : Plane) (t : Nat) (r : TokRec) (h : DspHdr) (data : Bytes) : State :=
  let l := r.layer
  let j := h.j
  let f := h.frag
  let s := s.modLyr p l (fun x => { x with used := true })
  let r := { r with outs := (j, f) :: r.outs }
  let r :=
    if bit 4 h.flags then { r with drop := if r.drop.contains j then r.drop else r.drop ++ [j] }
    else if r.drop.contains j then r
    else
      let ys := chunkElems (s.fld p Fld.DSP_LYR.Y_FMT l) 64 (s.lE p l) (s.lE p l) data
      { r with acc := mset [] f (foldOut (weightOf (r.route.getD j 0)) (mget [] f r.acc) ys) r.acc }
  let s := s.setRec p t (some r)
  let s := s.finishRec p t none
  s.progress p l

/-- An EXPERT_OUT that the engine performs (R217). -/
def State.expertOutIn (s : State) (p : Plane) (k : Packet) : State :=
  match dspHdr? k.payload with
  | none => s.count p Fld.DSP_OUT_DISC.N 0
  | some h =>
    let l := h.layer
    if s.lState p l = 2 then s.count p Fld.DSP_ABORT_DISC.N 0
    else
      let len := if bit 4 h.flags then 16 else 16 + wireBytes (s.fld p Fld.DSP_LYR.Y_FMT l) 64 (s.lE p l)
      match s.rec? p h.tref with
      | none => s.count p Fld.DSP_OUT_DISC.N 0
      | some r =>
        let ep := match r.fate.getD h.j .dropped with
          | .sent rd => if rd = h.round then some ((s.lyr p l).mapEp (expertOf (r.route.getD h.j 0))) else none
          | .host => if h.round = 0 then some (s.lOvfEp p l) else none
          | _ => none
        if s.lState p l = 1 ∧ h.epoch = s.lEpoch p l ∧ r.layer = l ∧ s.recDone p r = false ∧ ep = some k.hdr.src ∧
            r.arrived.contains h.frag = true ∧ r.outs.contains (h.j, h.frag) = false ∧ k.payload.length = len then
          s.outAccepted p h.tref r h (k.payload.drop 16)
        else s.count p Fld.DSP_OUT_DISC.N 0

/-! ## Control -/

def State.dspRej (s : State) (p : Plane) (l code : Nat) : State :=
  (s.setFlag p Fld.DSP_LYR_STAT.REJ l true).setF p Fld.DSP_LYR_STAT.REJ_CODE l code

/-- ACTIVATE (R220, R224). -/
def State.dspActivate (s : State) (p : Plane) (l : Nat) : State :=
  let recs := s.fld p Fld.DSP_LYR.ORIG_COUNT l * s.fld p Fld.DSP_LYR.TOK_MAX l
  let slots := recs * (s.lFrags p l * ((s.lE p l + 63) / 64))
  let bytes := if s.lPolicy p l = 1 then s.fld p Fld.DSP_LYR.OVF_TOKENS l * s.fld p Fld.DSP_LYR.TOK_BYTES l else 0
  if s.flag p Fld.DSP_LYR.VALID l = false ∨ s.lState p l ≠ 0 then s.dspRej p l 1
  else if 16 ≤ s.fld p Fld.DSP_ACT_CNT.N 0 then s.dspRej p l 2
  else if s.fld p Fld.DSP_REC_FREE.N 0 < recs then s.dspRej p l 3
  else if s.fld p Fld.COL_SLOT_FREE.N 0 < slots then s.dspRej p l 4
  else if s.deepFree p < bytes then s.dspRej p l 5
  else
    let s := s.subF p Fld.DSP_REC_FREE.N recs
    let s := s.subF p Fld.COL_SLOT_FREE.N slots
    let s := s.setDeepFree p (s.deepFree p - bytes)
    let s := s.addF p Fld.DSP_ACT_CNT.N 1
    let orig := s.originsNow p l
    let s := s.modLyr p l (fun _ => { orig := orig, recs := recs, slots := slots, bytes := bytes })
    let s := s.setF p Fld.DSP_LYR_STAT.STATE l 1
    let s := s.setF p Fld.DSP_LYR_STAT.ABORT_CODE l 0
    s.openLayer p l 0

/-- DEACTIVATE (R224): nothing is sent. -/
def State.dspDeactivate (s : State) (p : Plane) (l : Nat) : State :=
  if s.lState p l = 1 ∨ s.lState p l = 2 then
    let x := s.lyr p l
    let n := ((s.storePkts p).filter (dspPktOf l)).length + ((s.layerRecs p l).map (fun e => e.2.data.length)).sum
    let s := (s.purgeLayer p l).emptyLayer p l
    let s := s.countN p Fld.DSP_ABORT_DISC.N 0 n
    let s := s.addF p Fld.DSP_REC_FREE.N x.recs
    let s := (s.give p 0 x.slots).give p 3 x.bytes
    let s := s.subF p Fld.DSP_ACT_CNT.N 1
    (s.modLyr p l (fun _ => {})).setF p Fld.DSP_LYR_STAT.STATE l 0
  else s

/-- REFORM (R228). -/
def State.dspReform (s : State) (p : Plane) (l : Nat) : State :=
  if s.lState p l = 2 then (s.setF p Fld.DSP_LYR_STAT.STATE l 1).openLayer p l (s.lEpoch p l + 1) else s

/-- A write of DSP_LYR_CTL (R224): bits 0 ACTIVATE, 1 DEACTIVATE, 2 ABORT, 3 REFORM. -/
def State.dspCtlWrite (s : State) (p : Plane) (l v : Nat) : State :=
  match v % 16 with
  | 0 => s
  | 1 => s.dspActivate p l
  | 2 => s.dspDeactivate p l
  | 4 => s.dspAbort p l 3
  | 8 => s.dspReform p l
  | _ => s.dspRej p l 6

/-- What the engine does with a TOKEN or EXPERT_OUT it performs. -/
def State.dspPerform (s : State) (p : Plane) (k : Packet) : State :=
  if k.hdr.op = 0x30 then s.tokenIn p k else s.expertOutIn p k

/-! ## Meanings -/

/-- LAYER_TIMEOUT: LYR_TMO has passed in an epoch in which a packet was accepted (R225). -/
def execLayerTimeout (p : Plane) (l : Fin 64) (s : State) : Res :=
  goOn (s.when (s.dspOn p && (s.lyr p l).used) (·.dspAbort p l 1))

/-- LAYER_ACTIVATE, LAYER_DEACTIVATE, LAYER_ABORT, LAYER_REFORM: writes of DSP_LYR_CTL (R224, R226, R228). -/
def execLayerActivate (p : Plane) (l : Fin 64) (s : State) : Res := goOn (s.when (s.dspOn p) (·.dspCtlWrite p l 1))
def execLayerDeactivate (p : Plane) (l : Fin 64) (s : State) : Res := goOn (s.when (s.dspOn p) (·.dspCtlWrite p l 2))
def execLayerAbort (p : Plane) (l : Fin 64) (s : State) : Res := goOn (s.when (s.dspOn p) (·.dspCtlWrite p l 4))
def execLayerReform (p : Plane) (l : Fin 64) (s : State) : Res := goOn (s.when (s.dspOn p) (·.dspCtlWrite p l 8))

end Sys2Proof.Machine
end

