-- ==== Sys2Proof/Machine/Journal.lean ====
section
/-! DEFINITION. Which Canton manages the package, its journal, and the notifications and events it sends (R294 to R296,
R337). -/

namespace Sys2Proof.Machine

/-! ## The manager -/

/-- A plane's Canton runs: not in reset, not fenced, not frozen with its die (R294, R350, R362). -/
def State.canUp (s : State) (p : Plane) : Bool :=
  s.pkg.resetN && !(s.pl p).can.fenced && (!(s.pl p).epc.frozen || s.flag p Fld.EPC_FREEZE_STAT.CANTON_RAN 0)

/-- ROLE numbers of Table 10.1. -/
def Role.num : Role → Nat
  | .booting => 0
  | .standby => 1
  | .active => 2
  | .handing => 3
def roleOf (n : Nat) : Role := if n = 1 then .standby else if n = 2 then .active else if n = 3 then .handing else .booting

/-- A Canton takes a role, shown in CAN_STAT. -/
def State.setRole (s : State) (p : Plane) (r : Role) : State :=
  (s.modCan p (fun x => { x with role := r })).setF p Fld.CAN_STAT.ROLE 0 r.num

/-- The plane whose Canton serves as the package's manager: it holds the role and its firmware runs (R294). -/
def State.mgr (s : State) : Option Plane :=
  match s.pkg.active with
  | some p => if s.canUp p && ((s.pl p).can.role == .active || (s.pl p).can.role == .handing) then some p else none
  | none => none
def State.managed (s : State) : Bool := s.mgr.isSome

/-- Sensor policy is in hardware mode (Table 9.13, bit 6): the bit of the manager's plane applies. -/
def State.sensorHw (s : State) (p : Plane) : Bool := !bit 6 (s.fld p Fld.HIF_FUNC_MODE.MODE 0)

/-- A package register or flag is stored in both planes' windows (R326); while the package is split, in plane `p`'s. -/
def State.pkgF (s : State) (p : Plane) (f : Fld) (i v : Nat) : State :=
  if s.pkg.split then s.setF p f i v else s.both (fun q s => s.setF q f i v)

/-- A fact about the package is shown in both windows. -/
def State.bothF (s : State) (f : Fld) (v : Nat) : State := s.both (fun q s => s.setF q f 0 v)

/-! ## The journal and notifications (R296) -/

/-- A journal record of the manager: an item, its key and its data. Its layout is not stated. -/
def State.journalAdd (s : State) (item key : Nat) (data : Bytes) : State :=
  match s.mgr with
  | none => s
  | some p =>
    let n := (s.pl p).can.jrn + 1
    let s := s.modCan p (fun x => { x with jrn := n, journal := mset [] (item * 2 ^ 32 + key) data x.journal })
    let b := Config.recordBytes 1 ([item, key] ++ data.map BitVec.toNat)
    s.halControl p 2 ([0, 0, 0] ++ leBytes 4 n.toNat ++ leBytes 2 b.length ++ slice 0 246 b)

/-- An item of the inventory changes: the manager journals it (R317). Keys: 0 hours, 1 cycles, 2 EPO and trips, 3 takeovers,
0x1000 lanes, 0x2000 slots, 0x3000 column repairs, 0x4000 LPDDR5X rows, 0x5000 devices, 0x6000 laser modules. -/
def State.invSet (s : State) (key : Nat) (data : Bytes) (f : Inventory → Inventory) : State :=
  (s.modPkg (fun x => { x with inv := f x.inv })).journalAdd 2 key data

/-- While a plane has no host, the active Canton reads each entry of its error log into its journal and advances RP (R368).
Item 9, keyed by the plane and the entry's count. -/
def State.logRead1 (s : State) (p : Plane) : State :=
  let rp := s.word p .EPC_LOG_RP 0 0
  let e := (List.range 8).flatMap (fun w => leBytes 4 (s.word p .EPC_LOG (rp.toNat % 256) w).toNat)
  (s.journalAdd 9 (p.num * 2 ^ 31 + rp.toNat % 2 ^ 31) e).logRp p (rp + 1)
def State.logRead (s : State) (p : Plane) : State :=
  if s.live p ∧ ¬ s.hasHost p ∧ (s.mgr = some p ∨ (s.managed ∧ ¬ s.pkg.split)) then s.each (List.range (s.logFill p)) (fun _ s => s.logRead1 p) else s

/-- A side of the cascade port has received a frame; a side is up that has received one within 50 ms (R314). -/
def State.sideHeard (s : State) (side : Sys2Proof.Side) : State :=
  let t := s.ticks
  s.modPkg (fun x => match side with
    | .next => { x with nextAt := some t }
    | .prev => { x with prevAt := some t })
def State.sideUp (s : State) (side : Sys2Proof.Side) : Bool :=
  (match side with
    | .next => s.pkg.nextAt
    | .prev => s.pkg.prevAt).any (fun t => decide (s.ticks < t + 80000000))

/-- Do messages wait for the standby (R296): it is there and can be heard, and the package is not split. -/
def State.waits (s : State) (p : Plane) : Bool := !s.pkg.split && !(s.pl p).epc.frozen && (s.pl p).can.peerRole == .standby && s.halUp p

/-- A NOTIFY goes to the rack manager and stays unacknowledged until it answers (R296, R337). -/
def State.notifyNow (s : State) (code : BitVec 16) (plane : Nat) (unit : Word) (args : List Word) : State :=
  let n := s.pkg.notifySeq
  (s.modPkg (fun x => { x with
    notifySeq := n + 1
    unacked := x.unacked ++ [(n, code, plane, unit, args)] })).emit (.notify n code plane unit args)

/-- A message of the manager is sent: raised in the rings of the planes that run, where it is an event, and notified. -/
def State.sayNow (s : State) (evt : Bool) (code : BitVec 16) (plane : Nat) (unit : Word) (args : List Word) : State :=
  let s := if evt then s.both (fun q s => if s.live q then s.raise q code unit args else s) else s
  s.notifyNow code plane unit args

/-- What waits is kept with the number of the last record made. -/
def State.hold (s : State) (p : Plane) (w : HeldWhat) : State :=
  s.modPkg (fun x => { x with held := x.held ++ [⟨(s.pl p).can.jrn, w⟩] })

/-- What waited leaves. -/
def State.sendHeld (s : State) (w : HeldWhat) : State :=
  match w with
  | .msg evt code plane unit args => s.sayNow evt code plane unit args
  | .out o => s.emit o

/-- What goes to the rack manager or the cascade port leaves once the standby has every record made so far (R296). -/
def State.sendOut (s : State) (o : Out) : State :=
  match s.mgr with
  | none => s.emit o
  | some p => if s.waits p ∧ (s.pl p).can.jrnHeard ≠ (s.pl p).can.jrn then s.hold p (.out o) else s.emit o

/-- The manager sends a message once the standby has the journal record that holds it (R296). -/
def State.say (s : State) (evt : Bool) (code : BitVec 16) (unit : Word) (args : List Word) : State :=
  match s.mgr with
  | none => s
  | some p =>
    let s := s.journalAdd 6 s.pkg.notifySeq.toNat
      (leBytes 2 code.toNat ++ leBytes 4 unit.toNat ++ args.flatMap (fun w => leBytes 4 w.toNat))
    if s.waits p then
      s.hold p (.msg evt code p.num unit args)
    else s.sayNow evt code p.num unit args

/-- An event that the active Canton raises: in the EVTQ of each plane, and as a NOTIFY (R337). -/
def State.cantonEvent (s : State) (code : BitVec 16) (unit : Nat) (args : List Nat) : State :=
  s.say true code (wn unit) (args.map wn)

/-- A NOTIFY alone. -/
def State.notify (s : State) (code : BitVec 16) (unit : Nat) (args : List Nat) : State :=
  s.say false code (wn unit) (args.map wn)

/-- An event that hardware raises in the EVTQ of each plane and that the manager, if there is one, also notifies. -/
def State.hwEvent (s : State) (code : BitVec 16) (unit : Nat) (args : List Nat) : State :=
  if s.managed then s.cantonEvent code unit args
  else s.both (fun q s => if s.live q then s.raise q code (wn unit) (args.map wn) else s)

/-- Held messages whose record the standby has reported leave in their order (R296). -/
def State.releaseHeld (s : State) (p : Plane) : State :=
  let heard := (s.pl p).can.jrnHeard
  let due := if s.waits p then s.pkg.held.filter (fun h => decide ((heard - h.jrn).toNat < 2 ^ 31)) else s.pkg.held
  let s := s.modPkg (fun x => { x with held := x.held.filter (fun h => !due.contains h) })
  s.each due (fun h s => s.sendHeld h.what)

end Sys2Proof.Machine
end

