-- ==== Sys2Proof/Machine/MemUnits.lean ====
section
/-! DEFINITION. The units of the memory complex (R231 to R237, R252 to R257): regions, errors, scrubbing, column repair,
failures, initialisation of LPDDR5X devices, zeroing. -/

namespace Sys2Proof.Machine

/-! ## Layout -/

/-- 4 MiB. -/
def blk : Nat := 4194304

def State.spillBlk (s : State) (p : Plane) : Nat := s.fld p Fld.MEM_PART_CFG.SPILL_BLK 0
def State.lpSpill (s : State) (p : Plane) : Nat := s.fld p Fld.MEM_PART_CFG.LP_SPILL 0

/-- Size of the SRAM pool in bytes (R233). -/
def State.sramPool (s : State) (p : Plane) : Nat := (47 - s.spillBlk p) * 67108864

/-- Size of the LPDDR5X pool in bytes, as MEM_LP_POOL shows it (R237). -/
def State.lpPool (s : State) (p : Plane) : Nat := s.fld p Fld.MEM_LP_POOL.MIB 0 * 1048576

/-- Tile of an SRAM pool offset; device of an LPDDR5X pool offset (R233, R237). -/
def sramTile (o : Nat) : Nat := o / blk % 16
def State.lpDev (s : State) (p : Plane) (o : Nat) : Nat :=
  let l := (s.pl p).mem.lpDevs
  l.getD (o / blk % l.length) 0

/-- Blocks of each device that form the collective spill region, and the block, the byte in it and the channel at which an
LPDDR5X pool offset lies (R237). -/
def State.lpFirst (s : State) (p : Plane) : Nat := s.lpSpill p * 256 / (s.pl p).mem.lpDevs.length
def State.lpBlock (s : State) (p : Plane) (o : Nat) : Nat := s.lpFirst p + o / blk / (s.pl p).mem.lpDevs.length
def lpByte (o : Nat) : Nat := o % blk
def lpChannel (o : Nat) : Nat := lpByte o / 256 % 4

/-- The SRAM region of an address in a tile (Table 8.2), and its offset in the pool or the region. -/
def State.tileRegion (s : State) (p : Plane) (t a : Nat) : Nat × Nat :=
  let b := a / blk
  let o := fun (first : Nat) => ((b - first) * 16 + t) * blk + a % blk
  if b ≤ 15 then (0, o 0) else if b = 16 then (1, o 16)
  else if b ≤ 16 + s.spillBlk p then (2, o 17) else (3, o (17 + s.spillBlk p))

/-- Density in GiB by code (Table 8.16). -/
def densityOf : Nat → Nat
  | 0 => 8
  | 1 => 12
  | 2 => 16
  | 3 => 24
  | _ => 32

/-- Numbers of devices that may serve together (R236). -/
def lpCountOk (n : Nat) : Bool := [1, 2, 4, 8, 16].contains n

def State.tileFailed (s : State) (p : Plane) (t : Nat) : Bool := s.flag p Fld.MEM_TILE_STAT.FAIL t
def State.lpFailed (s : State) (p : Plane) (m : Nat) : Bool := !s.flag p Fld.MEM_LP_DEV.INIT_OK m

/-! ## Owners of reserved space -/

/-- A choice the spec leaves open. -/
def State.coin (s : State) : Bool × State :=
  let (n, s) := s.takeFree
  (Config.freeNat n % 2 == 0, s)

/-- Abort with MEM_ERROR every group and layer that `has` surely, or `may`, hold space on a unit; where the allocator's
placement is not stated, whether it does is a free value. -/
def State.abortOwners (s : State) (p : Plane) (grpSure grpMay : GrpSt → Bool) (lyrSure lyrMay : LyrSt → Bool) : State :=
  let s := s.each ((s.pl p).col.grps) (fun e s =>
    if grpSure e.2 then s.colAbort p e.1 7 true none
    else if grpMay e.2 then
      let (b, s) := s.coin
      if b then s.colAbort p e.1 7 true none else s
    else s)
  s.each ((s.pl p).dsp.lyrs) (fun e s =>
    if lyrSure e.2 then s.dspAbort p e.1 5
    else if lyrMay e.2 then
      let (b, s) := s.coin
      if b then s.dspAbort p e.1 5 else s
    else s)

/-- A layer aborts with MEM_ERROR for an error in its overflow queue: the fragment whose data is lost is answered
TOKEN_RET MEM_ERROR (Table 7.4). -/
def State.queueError (s : State) (p : Plane) (l : Nat) : State :=
  let frs := (s.layerRecs p l).flatMap (fun e => e.2.data.map (fun d => (e.2.origin, e.2.token, d.1)))
  let (n, s) := s.takeFree
  let ep := s.lEpoch p l
  let act := s.lState p l
  let s := s.dspAbort p l 5
  match frs[Config.freeNat n % (frs.length + 1)]? with
  | some (o, t, f) => if act = 1 then s.tokenRet p l o ep f t 7 0 else s
  | none => s

/-- The owner of a word in reserved space aborts with MEM_ERROR (R254); which group or layer the word belongs to, or
none, is not stated: a free value. A word that nobody holds is poisoned. Regions: 0 slot lines, 1 records, 2 deep buffer, 4 collective spill. -/
def State.abortOwner (s : State) (p : Plane) (region addr : Nat) : State :=
  let gs := ((s.pl p).col.grps.filter (fun e =>
    match region with
    | 2 => decide (0 < e.2.store)
    | 4 => decide (0 < e.2.spills)
    | _ => decide (0 < e.2.slots))).map (·.1)
  let ls := ((s.pl p).dsp.lyrs.filter (fun e =>
    match region with
    | 2 => decide (0 < e.2.bytes)
    | 0 => decide (0 < e.2.slots)
    | 1 => decide (0 < e.2.recs)
    | _ => false)).map (·.1)
  let (n, s) := s.takeFree
  let k := Config.freeNat n % (gs.length + ls.length + 1)
  if k < gs.length then s.colAbort p (gs.getD k 0) 7 true none
  else match ls[k - gs.length]? with
    | some l => if region = 2 then s.queueError p l else s.dspAbort p l 5
    | none => s.modMem p (fun x => { x with resPois := dedup ((region, addr / 8) :: x.resPois) })

/-! ## Failures (R257) -/

/-- An SRAM tile fails. -/
def State.tileFail (s : State) (p : Plane) (t : Nat) : State :=
  if s.tileFailed p t then s else
    let s := s.setFlag p Fld.MEM_TILE_STAT.FAIL t true
    let ok := s.fld p Fld.TOP_UNIT_STAT.TILE_OK 0
    let s := s.setF p Fld.TOP_UNIT_STAT.TILE_OK 0 (setBits t t ok 0)
    let s := s.abortOwners p (fun g => decide (16 ≤ g.recs ∨ 1048576 ≤ g.store))
      (fun g => decide (0 < g.recs ∨ 0 < g.store)) (fun l => decide (16 ≤ l.recs ∨ 1048576 ≤ l.bytes))
      (fun l => decide (0 < l.recs ∨ 0 < l.bytes))
    let s := ((s.withdraw p 0 262144).withdraw p 1 16384).withdraw p 3 (s.spillBlk p * blk)
    let s := s.raise p 0x0703 (wn t) []
    s.logError p 0x0D t 0 0 0

/-- An LPDDR5X device fails. -/
def State.lpFail (s : State) (p : Plane) (m : Nat) : State :=
  if s.flag p Fld.MEM_LP_DEV.FAIL m then s else
    let inUse := s.flag p Fld.MEM_LP_DEV.INIT_OK m
    let n := (s.pl p).mem.lpDevs.length
    let s := s.setFlag p Fld.MEM_LP_DEV.INIT_OK m false
    let s := s.setFlag p Fld.MEM_LP_DEV.FAIL m true
    let s := if inUse ∧ 0 < n then
        let s := s.abortOwners p (fun _ => false) (fun g => decide (0 < g.spills)) (fun _ => false) (fun _ => false)
        s.withdraw p 2 (s.lpSpill p * 4194304 / n)
      else s
    let s := s.raise p 0x0704 (wn m) []
    s.logError p 0x0E m 0 0 0

/-! ## Errors -/

/-- The row of an uncorrectable line error is reported (R256) and enters the inventory with its channel and bank, as
MEM_LP_DEV_ROW shows them (Table 10.9, R319). How an offset maps to bank and row is not stated: free values. -/
def State.lpRow (s : State) (p : Plane) (m o : Nat) : State :=
  let (f, s) := s.takeFree
  let w := Config.freeNat f
  let s := s.setF p Fld.MEM_LP_DEV_ROW.CH m (lpChannel o)
  let s := s.setFree p Fld.MEM_LP_DEV_ROW.BANK m (bits 27 24 w)
  let s := s.setFree p Fld.MEM_LP_DEV_ROW.ROW m (bits 17 0 w)
  if s.pkg.active.isSome then
    let row := 2 ^ 28 * lpChannel o + 2 ^ 24 * bits 27 24 w + bits 17 0 w
    s.invSet (0x4000 + s.pkg.inv.lpRows.length) (leBytes 1 (16 * p.num + m) ++ leBytes 4 row)
      (fun x => { x with lpRows := x.lpRows ++ [(16 * p.num + m, row)] })
  else s

/-- An uncorrectable error (R252, R253, R257, R369): counted, captured, raised, logged; too many within 1 s fail the
unit. `region` as Table 8.15, `unit` the tile or device. -/
def State.memUe (s : State) (p : Plane) (region unit addr : Nat) (scrub : Bool) : State :=
  let lp := decide (region = 4 ∨ region = 5)
  let s := if lp then (s.count p Fld.MEM_LP_UE.N 0).lpRow p unit addr else s.count p Fld.MEM_SRAM_UE.N 0
  let s := if s.flag p Fld.MEM_ERR_INFO.ERR_VALID 0 then s else
    let s := s.setF p Fld.MEM_ERR_ADDR.LO 0 (addr % 2 ^ 32)
    let s := s.setF p Fld.MEM_ERR_ADDR.HI 0 (addr / 2 ^ 32)
    let s := s.setFlag p Fld.MEM_ERR_INFO.ERR_VALID 0 true
    let s := s.setF p Fld.MEM_ERR_INFO.REGION 0 region
    let s := s.setF p Fld.MEM_ERR_INFO.UNIT 0 unit
    s.setFlag p Fld.MEM_ERR_INFO.SCRUB 0 scrub
  let lo := s.word p .MEM_ERR_ADDR 0 0
  let hi := s.word p .MEM_ERR_ADDR 0 1
  let s := s.raise p 0x0701 (wn (region * 16 + unit)) [lo, hi]
  let code := if lp then 0x0C else 0x0B
  let out := if lp then s.lpFailed p unit else decide (region ≠ 6) && s.tileFailed p unit
  if out then s.suppressError p code (region * 16 + unit) lo.toNat hi.toNat 0
  else
    let s := s.logError p code (region * 16 + unit) lo.toNat hi.toNat 0
    if region = 6 then s else
    let key := if lp then 16 + unit else unit
    let t := s.ticks
    let ts := t :: ((mget [] key (s.pl p).mem.ueAt).filter (fun x => decide (t < x + 1600000000)))
    let s := s.modMem p (fun x => { x with ueAt := mset [] key ts x.ueAt })
    let max_ := max 1 (if lp then s.fld p Fld.MEM_ECC_CFG.LP_UE_MAX 0 else s.fld p Fld.MEM_ECC_CFG.TILE_UE_MAX 0)
    if max_ < ts.length then (if lp then s.lpFail p unit else s.tileFail p unit) else s

def colKey (t sub col : Nat) : Nat := 65536 * t + 256 * sub + col

/-- A correctable error (R252, R253, R255). -/
def State.memCe (s : State) (p : Plane) (lp : Bool) (unit : Nat) (col : Option Nat) : State :=
  if lp then s.count p Fld.MEM_LP_CE.N 0
  else
    let s := (s.count p Fld.MEM_SRAM_CE.N 0).count p Fld.MEM_TILE_CE.N unit
    match col with
    | some k => s.modMem p (fun x => { x with colCe := mmod 0 k (· + 1) x.colCe })
    | none => s

/-- Poison of the pools: a word of 8 bytes in SRAM, a line of 64 in LPDDR5X. -/
def gran (lp : Bool) : Nat := if lp then 64 else 8
def State.poisoned (s : State) (p : Plane) (lp : Bool) (k : Nat) : Bool :=
  if lp then (s.pl p).mem.lpPois.contains k else (s.pl p).mem.poison.contains k
def State.setPoison (s : State) (p : Plane) (lp : Bool) (k : Nat) : State :=
  if s.poisoned p lp k then s
  else s.modMem p (fun x => if lp then { x with lpPois := k :: x.lpPois } else { x with poison := k :: x.poison })

/-- A poolword's uncorrectable error: poisoned in place (R252, R253). -/
def State.poolUe (s : State) (p : Plane) (lp : Bool) (o : Nat) (scrub : Bool) : State :=
  let o := o / gran lp * gran lp
  let s := s.setPoison p lp (o / gran lp)
  if lp then s.memUe p 5 (s.lpDev p o) o scrub else s.memUe p 3 (sramTile o) o scrub

/-! ## LPDDR5X service -/

/-- The devices in service, in ascending order. -/
def State.lpReady (s : State) (p : Plane) : List Nat :=
  (List.range 16).filter (fun m => bit m (s.fld p Fld.MEM_LP_CFG.PRESENT 0) && s.flag p Fld.MEM_LP_DEV.INIT_OK m)

/-- Once no device is being initialised, the regions are computed anew (R236, R237). -/
def State.lpSettle (s : State) (p : Plane) : State :=
  if (s.pl p).mem.lpBusy ≠ [] then s else
    let l := s.lpReady p
    let n := l.length
    let ok := lpCountOk n
    let dens := densityOf (s.fld p Fld.MEM_LP_DEV.DENSITY (l.headD 0))
    let mib := if ok then n * dens * 992 - s.lpSpill p * 1024 else 0
    let s := s.setFlag p Fld.MEM_STAT.LP_OK 0 ok
    let s := s.setFlag p Fld.MEM_STAT.LP_ZERO 0 false
    let s := s.setF p Fld.MEM_LP_POOL.MIB 0 mib
    let s := s.setF p Fld.COL_SPILL_FREE.N 0 (if ok then s.lpSpill p * 4194304 else 0)
    s.modMem p (fun x => { x with lpDevs := if ok then l else [], lp := [], lpPois := [], owe := mset 0 2 0 x.owe })

/-- What a commit does to the memory complex (R234, R236, R237): `old` is the committed file before it. -/
def State.memCommitted (s : State) (p : Plane) (old : RegFile) : State :=
  let was := fun (f : Fld) => f.get 0 old
  let s := if was Fld.MEM_PART_CFG.SPILL_BLK = s.spillBlk p then s else
    let dead := ((List.range 16).filter (fun t => s.tileFailed p t)).length
    let s := s.setFlag p Fld.MEM_STAT.SRAM_ZERO 0 false
    let s := s.setF p Fld.MEM_SRAM_POOL.MIB 0 ((47 - s.spillBlk p) * 64)
    let s := s.setDeepFree p (s.spillBlk p * blk * (16 - dead))
    s.modMem p (fun x => { x with owe := mset 0 3 0 x.owe })
  let now := s.fld p Fld.MEM_LP_CFG.PRESENT 0
  let was0 := was Fld.MEM_LP_CFG.PRESENT
  if was0 ≠ now then
    let s := s.each ((List.range 16).filter (fun m => bit m was0 && !bit m now)) (fun m s =>
      s.setFlag p Fld.MEM_LP_DEV.INIT_OK m false)
    let new := (List.range 16).filter (fun m => bit m now && !s.flag p Fld.MEM_LP_DEV.INIT_OK m)
    let s := s.modMem p (fun x => { x with lpBusy := dedup (x.lpBusy ++ new) })
    let s := s.setFlag p Fld.MEM_STAT.LP_ZERO 0 false
    s.lpSettle p
  else if was Fld.MEM_PART_CFG.LP_SPILL ≠ s.lpSpill p ∧ (s.pl p).mem.lpDevs ≠ [] then s.lpSettle p
  else s

/-! ## Meanings -/

/-- SCRUB_TICK (R254): the next word of a tile, at an address in it, or the next line of the LPDDR5X pool, at its offset.
`err` is what the check bits show: 1 a correctable error, in the column given; 2 an uncorrectable one. -/
def execScrubTick (p : Plane) (lp : Bool) (unit : Fin 16) (addr : BitVec 40) (sub col : Byte) (err : BitVec 2) (s : State) :
    Res :=
  let period := if lp then s.fld p Fld.MEM_SCRUB_CFG.LP_SCRUB 0 else s.fld p Fld.MEM_SCRUB_CFG.SRAM_SCRUB 0
  let a := addr.toNat
  let there := if lp then decide (a < s.lpPool p) else decide (a < 64 * blk) && !s.tileFailed p unit
  goOn (s.when (s.live p && s.flag p Fld.TOP_PG_STAT.MEM_OK 0 && period != 0 && there) (fun s =>
    if err = 1 then s.memCe p lp unit (some (colKey unit sub.toNat col.toNat))
    else if err = 2 then
      if lp then s.poolUe p true a true
      else
        let (region, o) := s.tileRegion p unit a
        if region = 3 then s.poolUe p false o true
        else (s.memUe p region unit o true).abortOwner p region o
    else s))

/-- COLUMN_REPAIR_DONE (R255): the copy of a column whose correctable errors reached REPAIR_CE is complete. -/
def execColumnRepairDone (p : Plane) (t : Fin 16) (sub col : Byte) (s : State) : Res :=
  let k := colKey t sub.toNat col.toNat
  let lim := s.fld p Fld.MEM_ECC_CFG.REPAIR_CE 0
  let used := mget 0 (256 * t.val + sub.toNat) (s.pl p).mem.spares
  goOn (s.when (s.live p && !s.tileFailed p t && decide (lim ≠ 0 ∧ lim ≤ mget 0 k (s.pl p).mem.colCe ∧ used < 2))
    (fun s =>
      let s := s.modMem p (fun x => { x with
        colCe := mset 0 k 0 x.colCe
        fixed := x.fixed ++ [k]
        spares := mset 0 (256 * t.val + sub.toNat) (used + 1) x.spares })
      let s := s.count p Fld.MEM_REPAIR_CNT.N 0
      let s := if s.pkg.active.isSome then
          s.invSet (0x3000 + s.pkg.inv.repairs.length)
            (leBytes 1 (16 * p.num + t.val) ++ [sub, col] ++ leBytes 1 used)
            (fun x => { x with repairs := x.repairs ++ [(16 * p.num + t.val, sub.toNat, col.toNat, used)] })
        else s
      let n := s.fld p Fld.MEM_TILE_STAT.SPARES t - 1
      let s := s.setF p Fld.MEM_TILE_STAT.SPARES t n
      s.raise p 0x0702 (wn t) [wn sub.toNat, wn n]))

/-- TILE_FAIL (R257). -/
def execTileFail (p : Plane) (t : Fin 16) (s : State) : Res := goOn (s.when (s.live p) (·.tileFail p t))

/-- LP_DEVICE_FAIL (R257): a device in service fails. -/
def execLpDeviceFail (p : Plane) (m : Fin 16) (s : State) : Res :=
  goOn (s.when (s.live p && s.flag p Fld.MEM_LP_DEV.INIT_OK m) (·.lpFail p m))

/-- SRAM_ZERO_DONE (R234). -/
def execSramZeroDone (p : Plane) (s : State) : Res :=
  goOn (s.when (s.live p && !s.flag p Fld.MEM_STAT.SRAM_ZERO 0) (fun s =>
    (s.setFlag p Fld.MEM_STAT.SRAM_ZERO 0 true).modMem p (fun x => { x with
      sram := []
      poison := []
      resPois := x.resPois.filter (fun e => e.1 ≠ 2) })))

/-- The manager reads a device's manufacturer, revision and density (Table 10.9): the mode registers are the device's own,
so what they give is a free value. -/
def State.lpIdentify (s : State) (p : Plane) (m : Nat) : State :=
  if s.managed then
    let (f, s) := s.takeFree
    let v := Config.freeNat f
    s.invSet (0x5000 + 16 * p.num + m) (leBytes 4 v) (fun x => { x with lpInfo := mset 0 (16 * p.num + m) v x.lpInfo })
  else s

/-- LP_INIT_DONE (R236, R256): training and PPR of a device have ended. `bad` marks the list entries whose row PPR could
not repair. -/
def execLpInitDone (p : Plane) (m : Fin 16) (ok : Bool) (bad : BitVec 8) (s : State) : Res :=
  goOn (s.when (s.live p && (s.pl p).mem.lpBusy.contains m.val) (fun s =>
    let s := s.modMem p (fun x => { x with lpBusy := x.lpBusy.filter (· ≠ m.val) })
    let s := if s.fld p Fld.MEM_PPR_CTL.DEV 0 = m.val then s.setFlag p Fld.MEM_PPR_CTL.START 0 false else s
    let rows := (List.range 8).filter (fun e => s.flag p Fld.MEM_PPR_LIST.VALID (8 * m.val + e))
    let s := s.setF p Fld.MEM_LP_DEV.PPR_DONE m (rows.filter (fun e => !bit e bad.toNat)).length
    let s := s.setF p Fld.MEM_LP_DEV.PPR_FAIL m (rows.filter (fun e => bit e bad.toNat)).length
    let s := s.setF p Fld.MEM_LP_DEV.DENSITY m (s.fld p Fld.MEM_PPR_LIST.DENSITY (8 * m.val))
    let s := if ok then ((s.setFlag p Fld.MEM_LP_DEV.FAIL m false).setFlag p Fld.MEM_LP_DEV.INIT_OK m true).lpIdentify p m
      else (s.setFlag p Fld.MEM_LP_DEV.FAIL m false).lpFail p m
    s.lpSettle p))

/-- LP_ZERO_DONE (R236): every device in service is zeroed. -/
def execLpZeroDone (p : Plane) (s : State) : Res :=
  goOn (s.when (s.live p && s.flag p Fld.MEM_STAT.LP_OK 0 && !s.flag p Fld.MEM_STAT.LP_ZERO 0) (fun s =>
    (s.setFlag p Fld.MEM_STAT.LP_ZERO 0 true).modMem p (fun x => { x with lp := [], lpPois := [] })))

/-- A write of START to MEM_PPR_CTL for device m (R256). -/
def State.pprStart (s : State) (p : Plane) (m : Nat) : State :=
  let s := s.setF p Fld.MEM_PPR_CTL.DEV 0 m
  if s.flag p Fld.MEM_LP_DEV.INIT_OK m then s.setFlag p Fld.MEM_PPR_CTL.REJ 0 true
  else
    let s := s.setFlag p Fld.MEM_PPR_CTL.START 0 true
    s.modMem p (fun x => { x with lpBusy := if x.lpBusy.contains m then x.lpBusy else x.lpBusy ++ [m] })

/-- PPR_START (R256). -/
def execPprStart (p : Plane) (m : Fin 16) (s : State) : Res := goOn (s.when (s.live p) (·.pprStart p m))

end Sys2Proof.Machine
end

