-- ==== Sys2Proof/Machine/Engines.lean ====
section
/-! DEFINITION. What the collective and dispatch engines read for a packet they perform, with the errors that the check
bits show (R198, R226, R252, R253), and the commands that name those packets. -/

namespace Sys2Proof.Machine

/-- An engine's read meets an error: in the hit, `word` is the region of Table 8.15. The tile and the address are not
stated (free values; log entry 129). An uncorrectable error aborts the group or the layer with MEM_ERROR; in a spilled
chunk it is the CRC that fails (R237). -/
def State.engineHit (s : State) (p : Plane) (abort : State → State) (e : EccHit) : State :=
  let region := e.word % 8
  let lp := decide (region = 4)
  let (n, s) := s.takeFree
  let unit := if region = 6 then 0 else Config.freeNat n % 16
  let bad := fun (s : State) => abort (s.memUe p region unit (Config.freeNat n / 16 % 2 ^ 32) false)
  if region = 3 ∨ region = 5 ∨ region = 7 then s
  else match e.kind.toNat with
  | 1 => if lp then s else s.memCe p false unit (e.col.map (fun c => colKey unit c.1.toNat c.2.toNat))
  | 2 => bad s
  | 3 => if lp && s.flag p Fld.MEM_LP_CFG.LINK_ECC 0 then s.count p Fld.MEM_LINK_CE.N 0 else s
  | 4 => if lp && s.flag p Fld.MEM_LP_CFG.LINK_ECC 0 then bad (s.count p Fld.MEM_LINK_UE.N 0) else s
  | _ => s

/-- The errors of the reads of one packet, met only while the group or layer it names is ACTIVE. -/
def State.groupHits (s : State) (p : Plane) (k : Packet) (ecc : List EccHit) : State :=
  match colHdr? k.payload with
  | some h =>
    if s.gState p h.group = 1 then s.each ecc (fun e s => s.engineHit p (·.colAbort p h.group 7 true none) e) else s
  | none => s
def State.layerHits (s : State) (p : Plane) (k : Packet) (ecc : List EccHit) : State :=
  match dspHdr? k.payload with
  | some h =>
    if s.lState p h.layer = 1 then
      s.each ecc (fun e s =>
        s.engineHit p (fun s => if e.word % 8 = 2 then s.queueError p h.layer else s.dspAbort p h.layer 5) e)
    else s
  | none => s

/-- What the engines do with a packet they perform. A packet whose group or layer has just aborted meets it ABORTED. -/
def State.colServe (s : State) (p : Plane) (k : Packet) (ecc : List EccHit) : State :=
  (s.groupHits p k ecc).colPerform p k
def State.dspServe (s : State) (p : Plane) (k : Packet) (ecc : List EccHit) : State :=
  (s.layerHits p k ecc).dspPerform p k

/-! ## Meanings -/

/-- CONTRIB performed by the engine (R172, R179, R189, R193, R194). -/
def execContrib (p : Plane) (pkt : Packet) (ecc : List EccHit) (s : State) : Res :=
  goOn (s.when (s.colOn p) (fun s => s.dstCrc p pkt (·.colServe p pkt ecc)))

/-- PARTIAL performed by the engine (R180, R189, R193). -/
def execPartialIn (p : Plane) (pkt : Packet) (ecc : List EccHit) (s : State) : Res :=
  goOn (s.when (s.colOn p) (fun s => s.dstCrc p pkt (·.colServe p pkt ecc)))

/-- TOKEN performed by the engine (R210, R212, R213). -/
def execToken (p : Plane) (pkt : Packet) (ecc : List EccHit) (s : State) : Res :=
  goOn (s.when (s.dspOn p) (fun s => s.dstCrc p pkt (fun s => (s.layerHits p pkt ecc).tokenIn p pkt)))

/-- EXPERT_OUT performed by the engine (R217 to R219). -/
def execExpertOut (p : Plane) (pkt : Packet) (ecc : List EccHit) (s : State) : Res :=
  goOn (s.when (s.dspOn p) (fun s => s.dstCrc p pkt (fun s => (s.layerHits p pkt ecc).expertOutIn p pkt)))

end Sys2Proof.Machine
end

