-- ==== Sys2Proof/Machine/Gwm.lean ====
section
/-! DEFINITION. The memory engine and the global windows (R238 to R251): lookup, checks, local operations, forwarding,
COPY, reset. -/

namespace Sys2Proof.Machine

/-- The engine is in service: its plane runs and MEM_OK is 1. -/
def State.memOn (s : State) (p : Plane) : Bool := s.runs p && s.flag p Fld.TOP_PG_STAT.MEM_OK 0

/-! ## The memory header (Table 8.6) -/

structure MemHdr where
  addr : Nat
  size : Nat
  b12  : Nat
  fwd  : Bool
  /-- the zero fields of bytes 13 to 15 are zero -/
  zero : Bool
  deriving DecidableEq, Repr

def memHdr (b : Bytes) : MemHdr :=
  let c := leNat (slice 13 1 b)
  ⟨leNat (slice 0 8 b), leNat (slice 8 4 b), leNat (slice 12 1 b), bit 0 c,
    decide (c / 2 = 0) && decide (leNat (slice 14 2 b) = 0)⟩

def MemHdr.rop (h : MemHdr) : Nat := h.b12 / 16
def MemHdr.rfmt (h : MemHdr) : Nat := h.b12 % 16
def MemHdr.atype (h : MemHdr) : Nat := h.b12 / 4 % 4
def MemHdr.wide (h : MemHdr) : Bool := bit 0 h.b12
/-- Bytes of an atomic's word. -/
def MemHdr.w (h : MemHdr) : Nat := if h.wide then 8 else 4
/-- DADDR of a COPY; operand and compare word of an atomic. -/
def wordOf (k w : Nat) (b : Bytes) : Nat := leNat (slice k w b)

def isAtomic (op : Byte) : Bool := decide (0x18 ≤ op.toNat ∧ op.toNat ≤ 0x1D)

/-- Bytes of the range at ADDR. -/
def rangeLen (op : Byte) (h : MemHdr) : Nat := if isAtomic op then h.w else h.size

/-- Element size of a RFMT that PUT_RED allows (check 1). -/
def redSize (c : Nat) : Nat := elemBits c / 8
def redOk (c op : Nat) : Bool :=
  [0, 1, 2, 3, 4, 0xA, 0xB].contains c && [0, 1, 2, 4, 5, 6].contains op && (decide (op ≤ 2) || fmtInt c)

/-- Check 1 of Table 8.8. -/
def memForm (op : Byte) (b : Bytes) : Bool :=
  let h := memHdr b
  let n := b.length
  decide (16 ≤ n) && h.zero &&
  match op.toNat with
  | 0x10 => decide (n = 16 + h.size ∧ 1 ≤ h.size ∧ h.size ≤ 8176 ∧ h.b12 = 0)
  | 0x11 => decide (n = 16 ∧ 1 ≤ h.size ∧ h.size ≤ 8192 ∧ h.b12 = 0)
  | 0x12 =>
    decide (n = 16 + h.size ∧ 1 ≤ h.size ∧ h.size ≤ 8176) && redOk h.rfmt h.rop &&
      decide (h.size % redSize h.rfmt = 0 ∧ h.addr % redSize h.rfmt = 0)
  | 0x13 =>
    let d := wordOf 16 8 b
    decide (n = 32 ∧ 1 ≤ h.size ∧ h.size ≤ 67108864 ∧ h.b12 = 0 ∧ wordOf 24 8 b = 0 ∧
      (d + h.size ≤ h.addr ∨ h.addr + h.size ≤ d))
  | o =>
    let type := if o = 0x1C ∨ o = 0x1D then decide (h.b12 / 16 = 0 ∧ h.b12 / 2 % 2 = 0 ∧ h.atype ≠ 3)
      else decide (h.b12 / 2 = 0)
    decide (n = (if o = 0x1A then 32 else 24) ∧ h.size = 0 ∧ h.addr % h.w = 0) && type &&
      (h.wide || (decide (wordOf 20 4 b = 0) && (o != 0x1A || decide (wordOf 28 4 b = 0))))

/-! ## Window lookup (R238) -/

/-- Windows whose words are not all at reset, in ascending order: a window at reset is not VALID. -/
def State.winCands (s : State) (p : Plane) : List Nat :=
  dedup (((s.pl p).committed.filter (fun e => decide (0x2010000 ≤ e.1 ∧ e.1 < 0x2030000))).map
    (fun e => (e.1 - 0x2010000) / 32))

def State.win64 (s : State) (p : Plane) (lo hi : Fld) (n : Nat) : Nat :=
  s.fld p lo n * 4096 + s.fld p hi n * 2 ^ 32
def State.winBase (s : State) (p : Plane) (n : Nat) : Nat := s.win64 p Fld.GWM_WIN.BASE_LO Fld.GWM_WIN.BASE_HI n
def State.winLimit (s : State) (p : Plane) (n : Nat) : Nat :=
  s.win64 p Fld.GWM_WIN.LIMIT_LO Fld.GWM_WIN.LIMIT_HI n + 4095
def State.winOffset (s : State) (p : Plane) (n : Nat) : Nat := s.win64 p Fld.GWM_WIN.OFFSET_LO Fld.GWM_WIN.OFFSET_HI n

/-- A window matches an address; an entry with an uncorrectable error acts as VALID = 0 (R366). -/
def State.winMatch (s : State) (p : Plane) (a n : Nat) : Bool :=
  s.flag p Fld.GWM_WIN.VALID n && !(s.pl p).rte.bad.contains (0x2010000 + 32 * n) &&
    decide (s.winBase p n ≤ a ∧ a ≤ s.winLimit p n)

/-- The lowest window that matches. -/
def State.window (s : State) (p : Plane) (a : Nat) : Option Nat := (s.winCands p).find? (s.winMatch p a)

/-- Where an address lies through window n. -/
def State.place (s : State) (p : Plane) (n a : Nat) : Place :=
  ⟨s.fld p Fld.GWM_WIN.KIND n, (a - s.winBase p n + s.winOffset p n) % 2 ^ 64,
    BitVec.ofNat 16 (s.fld p Fld.GWM_WIN.TGT_ID n)⟩

/-! ## Units, poison and bytes of a range -/

def Place.lp (x : Place) : Bool := x.kind == 2
def Place.local (x : Place) : Bool := x.kind == 1 || x.kind == 2

/-- Some 4 MiB block of a local range lies on a failed unit. -/
def State.rangeFailed (s : State) (p : Plane) (x : Place) (n : Nat) : Bool :=
  let b0 := x.at_ / blk
  (List.range ((x.at_ + n - 1) / blk - b0 + 1)).any (fun i =>
    let o := (b0 + i) * blk
    if x.lp then s.lpFailed p (s.lpDev p o) else s.tileFailed p (sramTile o))

/-- Some word or line of a local range is poisoned; a store covers whole words without reading them (check 6). -/
def State.rangePoison (s : State) (p : Plane) (x : Place) (n : Nat) (store : Bool) : Bool :=
  let g := gran x.lp
  let l := if x.lp then (s.pl p).mem.lpPois else (s.pl p).mem.poison
  l.any (fun k => decide (k * g < x.at_ + n ∧ x.at_ < (k + 1) * g) &&
    !(store && decide (x.at_ ≤ k * g ∧ (k + 1) * g ≤ x.at_ + n)))

/-- Check 6. -/
def State.rangeBad (s : State) (p : Plane) (x : Place) (n : Nat) (store : Bool) : Bool :=
  x.local && (s.rangeFailed p x n || s.rangePoison p x n store)

def State.poolRead (s : State) (p : Plane) (x : Place) (n : Nat) : Bytes :=
  if x.lp then (s.pl p).mem.lp.read x.at_ n else (s.pl p).mem.sram.read x.at_ n

/-- A store, which clears the poison of the words and lines it covers whole (R252, R253). -/
def State.poolWrite (s : State) (p : Plane) (x : Place) (b : Bytes) : State :=
  let g := gran x.lp
  let keep := fun (k : Nat) => !decide (x.at_ ≤ k * g ∧ (k + 1) * g ≤ x.at_ + b.length)
  s.modMem p (fun m =>
    if x.lp then { m with lp := m.lp.write x.at_ b, lpPois := m.lpPois.filter keep }
    else { m with sram := m.sram.write x.at_ b, poison := m.poison.filter keep })

/-- Does an operation read the word or line at offset o of its range: a store only one that it covers in part (R252). -/
def readsWord (x : Place) (n : Nat) (store : Bool) (o : Nat) : Bool :=
  decide (x.at_ < o + gran x.lp ∧ o < x.at_ + n) && !(store && decide (x.at_ ≤ o ∧ o + gran x.lp ≤ x.at_ + n))

/-- One error met (R252, R253): whether the operation may go on. A line that a failed link retry loses is an error of the
line, of a whole-line write too. -/
def State.eccHit (s : State) (p : Plane) (x : Place) (n : Nat) (store : Bool) (e : EccHit) : Bool × State :=
  let link := x.lp && s.flag p Fld.MEM_LP_CFG.LINK_ECC 0
  let o := (x.at_ / gran x.lp + e.word) * gran x.lp
  if x.at_ + n ≤ o then (true, s)
  else match e.kind.toNat with
  | 1 =>
    if readsWord x n store o then
      let unit := if x.lp then s.lpDev p o else sramTile o
      (true, s.memCe p x.lp unit (e.col.map (fun c => colKey unit c.1.toNat c.2.toNat)))
    else (true, s)
  | 2 => if readsWord x n store o then (false, s.poolUe p x.lp o false) else (true, s)
  | 3 => (true, if link then s.count p Fld.MEM_LINK_CE.N 0 else s)
  | 4 => if link then (false, (s.count p Fld.MEM_LINK_UE.N 0).poolUe p x.lp o false) else (true, s)
  | _ => (true, s)

/-- The check bits of what a local operation touches: whether it may go on. -/
def State.eccRead (s : State) (p : Plane) (x : Place) (n : Nat) (store : Bool) (ecc : List EccHit) : Bool × State :=
  ecc.foldl (fun a e => let r := a.2.eccHit p x n store e; (a.1 && r.1, r.2)) (true, s)

/-! ## Local operations (R243 to R245) -/

/-- The new value of an atomic's word (R244); `m` the word, `b` the payload. -/
def atomicNew (op : Byte) (h : MemHdr) (m : Nat) (b : Bytes) : Nat :=
  let w := h.w
  let v := wordOf 16 w b
  let f := if h.wide then fp64 else fp32
  let bits_ := 8 * w
  match op.toNat with
  | 0x18 => (m + v) % 2 ^ bits_
  | 0x19 => addBits f m v
  | 0x1A => if m = wordOf 24 w b then v else m
  | 0x1B => v
  | 0x1C =>
    match h.atype with
    | 0 => if toInt bits_ m < toInt bits_ v then v else m
    | 1 => if m < v then v else m
    | _ => maxF f m v
  | _ =>
    match h.atype with
    | 0 => if toInt bits_ v < toInt bits_ m then v else m
    | 1 => if v < m then v else m
    | _ => minF f m v

/-- PUT_RED over a range (R245): the new bytes and how many elements saturate. -/
def reduceBytes (c op : Nat) (old new : Bytes) : Bytes × Nat :=
  let k := new.length / redSize c
  let ms := chunkElems c 64 (k + 1) k old
  let vs := chunkElems c 64 (k + 1) k new
  -- an INT32 sum is taken in 64 bits and saturates at the conversion
  let r := List.zipWith (combine1 c op) ms vs
  chunkOut c 64 false (k + 1) (r.map (fun _ => rne)) r

/-- One operation on local memory that passed its checks: its status, CPL payload, and the state after it. -/
def State.memLocal (s : State) (p : Plane) (op : Byte) (b : Bytes) (x : Place) (ecc : List EccHit) : Byte × Bytes × State :=
  let h := memHdr b
  let n := rangeLen op h
  let store := op == 0x10
  let (ok, s) := s.eccRead p x n store ecc
  if ok = false then (stMEM_ERROR, [], s.count p Fld.GWM_MEMERR_CNT.N 0)
  else
    let s := s.count p Fld.GWM_OPS_CNT.N 0
    match op.toNat with
    | 0x10 => (stOK, [], s.poolWrite p x (b.drop 16))
    | 0x11 => (stOK, s.poolRead p x n, s)
    | 0x12 =>
      let (nb, sat) := reduceBytes h.rfmt h.rop (s.poolRead p x n) (b.drop 16)
      (stOK, [], (s.poolWrite p x nb).countN p Fld.GWM_SAT_CNT.N 0 sat)
    | _ =>
      let old := s.poolRead p x n
      (stOK, old, s.poolWrite p x (leBytes n (atomicNew op h (leNat old) b)))

/-! ## Checks (Table 8.8) -/

/-- The permission bit an operation needs. -/
def permFld (op : Byte) : Fld :=
  match op.toNat with
  | 0x10 => Fld.GWM_WIN.PW
  | 0x11 => Fld.GWM_WIN.PR
  | 0x12 => Fld.GWM_WIN.PX
  | 0x13 => Fld.GWM_WIN.PR
  | _ => Fld.GWM_WIN.PA

/-- The outcome of the checks: the place of ADDR and, for a COPY, of DADDR; or the status and its counter. -/
inductive Checked where
  | ok (x y : Place)
  | fail (status : Byte) (d : Disc)
  deriving DecidableEq, Repr

/-- The checks in order. An operation accepted in the clock of a commit uses the map from before it (R239). -/
def State.memCheck (s : State) (p : Plane) (op : Byte) (b : Bytes) : Checked :=
  let s := s.before p
  let h := memHdr b
  let copy := op == 0x13
  if memForm op b = false then .fail stUNSUPPORTED .unsup
  else
    let n := rangeLen op h
    let d := wordOf 16 8 b
    match s.window p h.addr, (if copy then s.window p d else s.window p h.addr) with
    | some w, some v =>
      let x := s.place p w h.addr
      let y := if copy then s.place p v d else x
      if s.winLimit p w < h.addr + n - 1 ∨ (copy = true ∧ s.winLimit p v < d + n - 1) then
        .fail stUNMAPPED .unmap
      else if s.flag p (permFld op) w = false ∨ (copy = true ∧ s.flag p Fld.GWM_WIN.PW v = false) then
        .fail stDENIED .deny
      else if h.fwd = true ∧ (x.local && y.local) = false then .fail stUNMAPPED .unmap
      else if s.rangeBad p x n (op == 0x10) || (copy && s.rangeBad p y n true) then
        .fail stMEM_ERROR .memerr
      else .ok x y
    | _, _ => .fail stUNMAPPED .unmap

/-! ## Proxies -/

def State.proxyUsed (s : State) (p : Plane) : Nat := (s.pl p).mem.proxies.length
def State.copyUsed (s : State) (p : Plane) : Nat := (s.pl p).mem.copies.length
def State.copyMax (s : State) (p : Plane) : Nat := max 1 (min 64 (s.fld p Fld.GWM_CFG.COPY_MAX 0))
def State.copyPieces (s : State) (p : Plane) : Nat := max 1 (min 16 (s.fld p Fld.GWM_CFG.COPY_PIECES 0))

/-- Must an operation wait at the attachment for a proxy entry or a COPY slot (R249). -/
def State.memWaits (s : State) (p : Plane) (k : Packet) : Bool :=
  match s.memCheck p k.hdr.op k.payload with
  | .ok x _ =>
    if k.hdr.op = 0x13 then decide (s.copyMax p ≤ s.copyUsed p)
    else !x.local && decide (16384 ≤ s.proxyUsed p)
  | .fail _ _ => false

def State.setProxy (s : State) (p : Plane) (id : Nat) (x : Option Proxy) : State :=
  let s := s.modMem p (fun m => { m with proxies := mset none id x m.proxies })
  s.setF p Fld.GWM_FWD_USED.N 0 (s.proxyUsed p)
def State.setCopy (s : State) (p : Plane) (id : Nat) (x : Option CopySt) : State :=
  let s := s.modMem p (fun m => { m with copies := mset none id x m.copies })
  s.setF p Fld.GWM_COPY_ACT.N 0 (s.copyUsed p)

/-- An operation is forwarded to its target as a new REQ (R247): `b` is its payload with ADDR and FWD replaced. The engine
has a valid alias (R115). -/
def State.forward (s : State) (p : Plane) (hdr : Header) (what : ProxyFor) (op : Byte) (x : Place) (b : Bytes) : State :=
  let id := (s.pl p).mem.nextId
  let s := s.modMem p (fun m => { m with nextId := id + 1 })
  let (tag, s) := s.takeTag p 2 (.forward id) x.tgt
  let b := leBytes 8 x.at_ ++ slice 8 5 b ++ [1] ++ b.drop 14
  let k := mkPkt tREQ op x.tgt (s.epId p 2) (BitVec.ofNat 4 hdr.tc.toNat) hdr.tc tag 0 false false b
  let s := s.setProxy p id (some ⟨hdr, what, k⟩)
  let s := s.count p Fld.GWM_FWD_CNT.N 0
  s.sendWindowed p 2 k (some id)

/-- The operation has been performed at its origin's window (R250): Pennants behind it are performed by `perf`. -/
def State.opEnd (perf : Perf) (s : State) (p : Plane) (h : Header) : State := s.performed perf p 2 h.src h.wseq

/-- The operation is accepted and waits: its WSEQ stays open for Pennants (R104, R250). -/
def State.opHold (s : State) (p : Plane) (h : Header) : State :=
  s.modDst p 2 h.src (fun w => { w with busy := h.wseq :: w.busy })

/-! ## COPY (R246) -/

/-- Pieces of a COPY: each ends on a 4,096-byte boundary of the destination address. Offset and length of piece i. -/
def pieceOff (d i : Nat) : Nat := if i = 0 then 0 else i * 4096 - d % 4096
def pieceLen (d size i : Nat) : Nat := min size (pieceOff d (i + 1)) - pieceOff d i

/-- The payload of a piece's GET or PUT. -/
def pieceHdr (n : Nat) : Bytes := leBytes 8 0 ++ leBytes 4 n ++ leBytes 4 0
def Place.plus (x : Place) (o : Nat) : Place := { x with at_ := x.at_ + o }

def State.copy? (s : State) (p : Plane) (id : Nat) : Option CopySt := mget none id (s.pl p).mem.copies

/-- A piece ends with a status: the first failure is the COPY's. -/
def State.pieceEnd (s : State) (p : Plane) (id i : Nat) (status : Byte) (lost : Bool) : State :=
  match s.copy? p id with
  | none => s
  | some c =>
    let first := decide (c.status = stOK) && !c.lost
    s.setCopy p id (some { c with
      prog := c.prog.filter (· ≠ i)
      data := c.data.filter (fun e => e.1 ≠ i)
      status := if first && !lost then status else c.status
      lost := c.lost || (first && lost) })

/-- A piece's source data is there: a remote destination is written by a forwarded PUT; a local one by
COPY_PIECE_DONE. -/
def State.pieceData (s : State) (p : Plane) (id i : Nat) (b : Bytes) : State :=
  match s.copy? p id with
  | none => s
  | some c =>
    if c.dst.local then s.setCopy p id (some { c with data := mset [] i b c.data })
    else if s.epWindowed p 2 = false then (s.count p Fld.GWM_FWD_TMO.N 0).pieceEnd p id i stOK true
    else s.forward p c.hdr (.copyPut id i) 0x10 (c.dst.plus (pieceOff c.daddr i)) (pieceHdr b.length ++ b)

/-- A piece starts: its source is read as a GET, on local memory or forwarded. -/
def State.pieceStart (s : State) (p : Plane) (id : Nat) (c : CopySt) : State :=
  let i := c.next
  let o := pieceOff c.daddr i
  let n := pieceLen c.daddr c.size i
  let x := c.src.plus o
  let s := s.setCopy p id (some { c with next := i + 1, prog := c.prog ++ [i] })
  if x.local then
    if s.rangeBad p x n false then (s.count p Fld.GWM_MEMERR_CNT.N 0).pieceEnd p id i stMEM_ERROR false
    else
      let (f, s) := s.takeFree
      let (ok, s) := s.eccRead p x n false (Config.readErrs f)
      if ok then (s.count p Fld.GWM_OPS_CNT.N 0).pieceData p id i (s.poolRead p x n)
      else (s.count p Fld.GWM_MEMERR_CNT.N 0).pieceEnd p id i stMEM_ERROR false
  else if s.epWindowed p 2 = false then (s.count p Fld.GWM_FWD_TMO.N 0).pieceEnd p id i stOK true
  else s.forward p c.hdr (.copyGet id i) 0x11 x (pieceHdr n)

/-- Does the next piece start: COPY_PIECES in progress, no failure, a proxy entry where it needs one. -/
def State.pieceMay (s : State) (p : Plane) (c : CopySt) : Bool :=
  decide (pieceOff c.daddr c.next < c.size ∧ c.prog.length < s.copyPieces p ∧ c.status = stOK) && !c.lost &&
    ((c.src.local && c.dst.local) || decide (s.proxyUsed p < 16384))

/-- Pieces start as far as they may; a COPY with none left completes (R246, R250). A COPY whose first failure is a
timeout sends nothing: status TIMEOUT never travels (R82). -/
def State.copyPump (perf : Perf) : Nat → State → Plane → Nat → State
  | 0, s, _, _ => s
  | f + 1, s, p, id =>
    match s.copy? p id with
    | none => s
    | some c =>
      if s.pieceMay p c then State.copyPump perf f (s.pieceStart p id c) p id
      else if c.prog.isEmpty ∧ (c.size ≤ pieceOff c.daddr c.next ∨ c.status ≠ stOK ∨ c.lost = true) then
        let s := s.setCopy p id none
        let s := if c.lost then s else s.cpl p 2 none c.hdr c.status []
        s.opEnd perf p c.hdr
      else s

/-- The most pieces a COPY has, for the fuel above. -/
def maxPieces : Nat := 16387

/-- Every COPY goes on, after a proxy entry has become free. -/
def State.copyPumpAll (perf : Perf) (s : State) (p : Plane) : State :=
  s.each ((s.pl p).mem.copies.map (·.1)) (fun id s => s.copyPump perf maxPieces p id)

/-! ## What the engine does with an operation it performs -/

/-- An operation starts (R239, R242): checked, performed on local memory, forwarded, or started as a COPY. Without a
valid alias a forward ends as one that timed out (R115). -/
def State.memStart (perf : Perf) (s : State) (p : Plane) (k : Packet) (ecc : List EccHit) : State :=
  let op := k.hdr.op
  match s.memCheck p op k.payload with
  | .fail st d => (s.discard1 p d).cpl p 2 none k.hdr st []
  | .ok x y =>
    if op = 0x13 then
      let h := memHdr k.payload
      let id := (s.pl p).mem.nextId
      let s := s.modMem p (fun m => { m with nextId := id + 1 })
      let s := (s.opHold p k.hdr).setCopy p id
        (some ⟨k.hdr, x, y, wordOf 16 8 k.payload, h.size, 0, [], [], stOK, false⟩)
      s.copyPump perf maxPieces p id
    else if x.local then
      let (st, b, s) := s.memLocal p op k.payload x ecc
      s.cpl p 2 none k.hdr st b
    else if s.epWindowed p 2 = false then s.count p Fld.GWM_FWD_TMO.N 0
    else (s.opHold p k.hdr).forward p k.hdr .op op x k.payload

/-- An operation is accepted, or held where it needs a proxy entry or a COPY slot and none is free (R249). -/
def State.memAccept (perf : Perf) (s : State) (p : Plane) (k : Packet) (ecc : List EccHit) : State :=
  if s.memWaits p k then (s.opHold p k.hdr).modMem p (fun m => { m with waits := m.waits ++ [k] })
  else s.memStart perf p k ecc

/-- The engine's `perf`, to a depth of Pennants that follow one another. What the check bits show is a free value. -/
def State.memPerfN : Nat → Plane → Perf
  | 0, _ => fun _ s => s
  | f + 1, p => fun k s => s.takeFree.2.memAccept (State.memPerfN f p) p k (Config.readErrs s.free)

/-- Windows hold at most 512 packets, so a chain of Pennants is at most that long (R103). -/
def State.memPerf (p : Plane) : Perf := State.memPerfN 513 p

/-- A held operation starts once it may: first in, first out among those that need no more than is free (R249). -/
def State.waitStart (s : State) (p : Plane) (k : Packet) : State :=
  if s.memWaits p k then s else
    let s := s.modMem p (fun m => { m with waits := m.waits.erase k })
    let s := s.modDst p 2 k.hdr.src (fun w => { w with busy := w.busy.filter (· ≠ k.hdr.wseq) })
    let s := s.takeFree.2.memStart (State.memPerf p) p k (Config.readErrs s.free)
    s.pumpHeld (State.memPerf p) ((s.dstWin p 2 k.hdr.src).held.length + 1) p 2 k.hdr.src
def State.waitPump (s : State) (p : Plane) : State := s.each (s.pl p).mem.waits (fun k s => s.waitStart p k)

/-- A CPL for a forwarded operation, or its timeout (`none`) (R247, R248). -/
def State.forwardEnd (s : State) (p : Plane) (id : Nat) (k : Option Packet) : State :=
  match mget none id (s.pl p).mem.proxies with
  | none => s
  | some x =>
    let s := s.setProxy p id none
    let s := match x.what, k with
      | .op, some k => (s.cpl p 2 none x.hdr k.hdr.op k.payload).opEnd (State.memPerf p) p x.hdr
      | .op, none => s.opEnd (State.memPerf p) p x.hdr
      | .copyGet id i, some k =>
        if k.hdr.op = stOK then s.pieceData p id i k.payload else s.pieceEnd p id i k.hdr.op false
      | .copyPut id i, some k => s.pieceEnd p id i k.hdr.op false
      | .copyGet id i, none => s.pieceEnd p id i stOK true
      | .copyPut id i, none => s.pieceEnd p id i stOK true
    (s.copyPumpAll (State.memPerf p) p).waitPump p

/-- A forwarded operation was refused with RESYNC: it is sent again once the window is synchronised (R99). -/
def State.forwardAgain (s : State) (p : Plane) (id : Nat) : State :=
  match mget none id (s.pl p).mem.proxies with
  | none => s
  | some x =>
    if s.epWindowed p 2 = false then (s.count p Fld.GWM_FWD_TMO.N 0).forwardEnd p id none else
    let (tag, s) := s.takeTag p 2 (.forward id) x.pkt.hdr.dst
    s.sendWindowed p 2 (withHcrc { x.pkt with hdr := { x.pkt.hdr with tag := tag } }) (some id)

/-- What the memory engine's CPLs and timeouts complete (R99, R247, R248). -/
def State.memDone (p : Plane) (w : ReqWhat) (k : Packet) (s : State) : State :=
  match w with
  | .forward id => if k.hdr.op = stRESYNC then s.forwardAgain p id else s.forwardEnd p id (some k)
  | _ => s
def State.memTimeout (p : Plane) (w : ReqWhat) (s : State) : State :=
  match w with
  | .forward id => (s.count p Fld.GWM_FWD_TMO.N 0).forwardEnd p id none
  | _ => s.count p Fld.LFP_OP_TMO.N 0

/-- A forwarded operation whose WIN_SYNC failed with a status, or timed out (R99): its TAG is released. -/
def State.memDrop (p : Plane) (status : Option Byte) (w : WaitPkt) (s : State) : State :=
  match w.fwd with
  | none => s
  | some id =>
    let s := s.modEp p 2 (fun e => { e with reqs := mset none w.pkt.hdr.tag.toNat none e.reqs })
    match status with
    | some st => s.forwardEnd p id (some { w.pkt with hdr := { w.pkt.hdr with op := st }, payload := [] })
    | none => s.forwardEnd p id none

/-! ## Reset (R251) -/

/-- The memory engine and the window translation are reset. -/
def State.memReset (s : State) (p : Plane) : State :=
  let s := s.modMem p (fun m => { m with proxies := [], copies := [], waits := [] })
  let s := (s.setF p Fld.GWM_FWD_USED.N 0 0).setF p Fld.GWM_COPY_ACT.N 0 0
  s.modEp p 2 (fun e => { e with
    dst := []
    src := e.src.map (fun w => (w.1, { w.2 with sync := .none, waiting := [] }))
    reqs := []
    gen := e.gen + 1 })

/-! ## Meanings -/

/-- A memory operation is performed by the engine: it waits where no proxy entry or COPY slot is free (R249). -/
def State.memRow (s : State) (p : Plane) (op : Byte) (k : Packet) (ecc : List EccHit) : State :=
  s.when (s.memOn p && k.hdr.op == op && !s.memWaits p k) (fun s =>
    s.dstCrc p k (fun s => s.memAccept (State.memPerf p) p k ecc))

/-- PUT, GET, PUT_RED and COPY (R241 to R246). -/
def execPut (p : Plane) (pkt : Packet) (ecc : List EccHit) (s : State) : Res := goOn (s.memRow p 0x10 pkt ecc)
def execGet (p : Plane) (pkt : Packet) (ecc : List EccHit) (s : State) : Res := goOn (s.memRow p 0x11 pkt ecc)
def execPutRed (p : Plane) (pkt : Packet) (ecc : List EccHit) (s : State) : Res := goOn (s.memRow p 0x12 pkt ecc)
def execCopy (p : Plane) (pkt : Packet) (s : State) : Res := goOn (s.memRow p 0x13 pkt [])

/-- Atomics (R244). -/
def execFaddI (p : Plane) (pkt : Packet) (ecc : List EccHit) (s : State) : Res := goOn (s.memRow p 0x18 pkt ecc)
def execFaddF (p : Plane) (pkt : Packet) (ecc : List EccHit) (s : State) : Res := goOn (s.memRow p 0x19 pkt ecc)
def execCas (p : Plane) (pkt : Packet) (ecc : List EccHit) (s : State) : Res := goOn (s.memRow p 0x1A pkt ecc)
def execSwap (p : Plane) (pkt : Packet) (ecc : List EccHit) (s : State) : Res := goOn (s.memRow p 0x1B pkt ecc)
def execAmax (p : Plane) (pkt : Packet) (ecc : List EccHit) (s : State) : Res := goOn (s.memRow p 0x1C pkt ecc)
def execAmin (p : Plane) (pkt : Packet) (ecc : List EccHit) (s : State) : Res := goOn (s.memRow p 0x1D pkt ecc)

/-- A piece with a local destination is written (R246). -/
def State.pieceWrite (s : State) (p : Plane) (id i : Nat) (ecc : List EccHit) : State :=
  match s.copy? p id with
  | none => s
  | some c =>
    let b := mget [] i c.data
    let x := c.dst.plus (pieceOff c.daddr i)
    if c.prog.contains i = false ∨ c.dst.local = false ∨ b = [] then s
    else
      let s := if s.rangeBad p x b.length true then
          (s.count p Fld.GWM_MEMERR_CNT.N 0).pieceEnd p id i stMEM_ERROR false
        else
          let (st, _, s) := s.memLocal p 0x10 (pieceHdr b.length ++ b) x ecc
          s.pieceEnd p id i st false
      (s.copyPump (State.memPerf p) maxPieces p id).waitPump p

/-- COPY_PIECE_DONE (R246). -/
def execCopyPieceDone (p : Plane) (id piece : Nat) (ecc : List EccHit) (s : State) : Res :=
  goOn (s.when (s.memOn p) (·.pieceWrite p id piece ecc))

/-- FWD_TIMEOUT (R248). -/
def execFwdTimeout (p : Plane) (tag : BitVec 16) (s : State) : Res :=
  let fwd : Bool := match mget none tag.toNat (s.ep p 2).reqs with
    | some ⟨.forward _, _⟩ => true
    | _ => false
  goOn (s.when (s.memOn p && fwd) (fun s => s.opTimeout (State.memDrop p none) (State.memTimeout p) p 2 tag))

end Sys2Proof.Machine
end

