-- ==== Sys2Proof/Machine/Golden.lean ====
section
/-! DEFINITION. Golden end points: their endpoint logic, the traffic generator and the traffic checker (R384 to R389,
rules 11 and 12 of Table 12.6), and the injectors (R393 to R395). -/

namespace Sys2Proof.Machine

/-! ## Test packets (R387, Table 12.5) -/

/-- PRBS31 of 1 + x^28 + x^31: the next bit and the state after it. -/
def prbsNext (st : Nat) : Nat × Nat :=
  let b := (st / 2 ^ 30 + st / 2 ^ 27) % 2
  (b, (2 * st + b) % 2 ^ 31)

/-- One byte, bit 7 first. -/
def prbsByte : Nat → Nat → Nat → Nat × Nat
  | 0, acc, st => (acc, st)
  | f + 1, acc, st =>
    let (b, st) := prbsNext st
    prbsByte f (2 * acc + b) st

def prbsBytes : Nat → Nat → Bytes
  | 0, _ => []
  | n + 1, st =>
    let (b, st) := prbsByte 8 0 st
    BitVec.ofNat 8 b :: prbsBytes n st

/-- The pattern bytes after the test header: 1 incrementing, 2 constant, else PRBS31. -/
def patternOf (kind const seq n : Nat) : Bytes :=
  match kind with
  | 1 => (List.range n).map (fun k => BitVec.ofNat 8 (seq + k))
  | 2 => List.replicate n (BitVec.ofNat 8 const)
  | _ => prbsBytes n (if seq % 2 ^ 31 = 0 then 2 ^ 31 - 1 else seq % 2 ^ 31)

/-- Bits in which two byte strings differ. -/
def ones : Nat → Nat → Nat
  | 0, _ => 0
  | f + 1, n => n % 2 + ones f (n / 2)
def bitDiff (a b : Bytes) : Nat := (List.zipWith (fun x y => ones 8 (x ^^^ y).toNat) a b).sum

def magic : Nat := 0x5447

/-- The test header. -/
def testHdr (p : Plane) (g st : Nat) (seq : Nat) (time : BitVec 64) : Bytes :=
  leBytes 2 magic ++ leBytes 2 (512 * p.num + 16 * g + st) ++ leBytes 4 seq ++ leBytes 8 time.toNat

/-! ## The checker (R389) -/

/-- The flow record of a key, or the lowest free one of the PG: its number and whether it is new. -/
def State.flowOf (s : State) (p : Plane) (g src id : Nat) : Option (Nat × Bool) :=
  let at_ := fun (f : Nat) => 256 * g + f
  match (s.rows p .TST_CHK_FLOW 0).find? (fun k => k / 256 == g && s.flag p Fld.TST_CHK_FLOW.VALID k &&
      s.fld p Fld.TST_CHK_FLOW.SRC k == src && s.fld p Fld.TST_CHK_FLOW.STREAM_ID k == id) with
  | some k => some (k % 256, false)
  | none => ((List.range 256).find? (fun f => !s.flag p Fld.TST_CHK_FLOW.VALID (at_ f))).map (fun f => (f, true))

/-- The pattern a packet of a stream should carry (R389) as its kind and constant: where the test header and SRC name a
stream of this device, that stream's PATTERN and CONST (DEDUCED); of a stream of another device the checker's source is
not stated. -/
def State.wantPattern (s : State) (src id : Nat) : Nat × Nat :=
  let q : Plane := if bit 9 id then .fly else .hoist
  let g := bits 8 4 id
  let st := bits 3 0 id
  let x := 16 * g + st
  let i := 32 * g + s.fld q Fld.TST_GEN_STR.PORT x
  if g < 18 ∧ s.flag q Fld.TST_GEP_ID.VALID i = true ∧ s.fld q Fld.TST_GEP_ID.ID i = src then
    (s.fld q Fld.TST_GEN_STR.PATTERN x, s.fld q Fld.TST_GEN_STR.CONST x)
  else
    let pat := Config.chkPattern src id
    (pat % 3, pat / 4)

/-- on_test of R389. -/
def State.onTest (s : State) (p : Plane) (g : Nat) (k : Packet) (rx : BitVec 64) : State :=
  let b := k.payload
  let id := leNat (slice 2 2 b)
  let seq := leNat (slice 4 4 b)
  match s.flowOf p g k.hdr.src.toNat id with
  | none => s.count p Fld.TST_CHK_NOFLOW.N 0
  | some (f, new) =>
    let i := 256 * g + f
    let s := if new then
        let s := s.setWords p .TST_CHK_FLOW i [wn (2 ^ 31 + k.hdr.src.toNat), wn id, 0, 0, 0, 0, 0, wn (2 ^ 32 - 1), 0, 0, 0, wn seq]
        s
      else s
    let s := s.count p Fld.TST_CHK_FLOW.RX i
    let exp := s.fld p Fld.TST_CHK_FLOW.EXP i
    let gap := (seq + 2 ^ 32 - exp) % 2 ^ 32
    let s :=
      if gap = 0 then s.setF p Fld.TST_CHK_FLOW.EXP i ((exp + 1) % 2 ^ 32)
      else if gap < 2 ^ 31 then
        (s.countN p Fld.TST_CHK_FLOW.LOST i gap).setF p Fld.TST_CHK_FLOW.EXP i ((seq + 1) % 2 ^ 32)
      else s.count p Fld.TST_CHK_FLOW.LATE i
    let pat := s.wantPattern k.hdr.src.toNat id
    let n := bitDiff (b.drop 16) (patternOf pat.1 pat.2 seq (b.length - 16))
    let s := if n = 0 then s else
      let first := decide (s.fld p Fld.TST_CHK_FLOW.PAT_ERR i = 0)
      let s := (s.count p Fld.TST_CHK_FLOW.PAT_ERR i).countN p Fld.TST_CHK_FLOW.BIT_ERR i n
      if first then s.raise p 0x0B07 (wn i) [wn k.hdr.src.toNat, wn id, wn seq] else s
    let lat := rx.toNat - leNat (slice 8 8 b)
    let s := s.setF p Fld.TST_CHK_FLOW.LAT_MIN i (min lat (s.fld p Fld.TST_CHK_FLOW.LAT_MIN i))
    let s := s.setF p Fld.TST_CHK_FLOW.LAT_MAX i (min (max lat (s.fld p Fld.TST_CHK_FLOW.LAT_MAX i)) (2 ^ 32 - 1))
    let sum := min (2 ^ 64 - 1) (s.fld p Fld.TST_CHK_FLOW.LAT_SUM_LO i + 2 ^ 32 * s.fld p Fld.TST_CHK_FLOW.LAT_SUM_HI i + lat)
    (s.setF p Fld.TST_CHK_FLOW.LAT_SUM_LO i (sum % 2 ^ 32)).setF p Fld.TST_CHK_FLOW.LAT_SUM_HI i (sum / 2 ^ 32)

/-- The flow records of a PG are freed. -/
def State.freeFlows (s : State) (p : Plane) (g : Nat) : State :=
  s.modPl p (fun x => { x with regs := x.regs.filter (fun e => match Reg.at? .TST_CHK_FLOW e.1 with
    | some (_, i, _) => i / 256 != g
    | none => true) })

/-! ## Endpoint logic (R385) -/

def stampKey (i : Nat) (src : EpId) (wseq : BitVec 16) : Nat := (65536 * i + src.toNat) * 65536 + wseq.toNat

/-- A golden port performs a SEND or SEND_ACK. -/
def State.goldPerf (p : Plane) (i : Nat) (now : BitVec 64) : Perf := fun k s =>
  let key := stampKey i k.hdr.src k.hdr.wseq
  let rx := (mget none key (s.pl p).tst.stamps).getD now
  let s := s.modTst p (fun x => { x with stamps := mset none key none x.stamps })
  let s := if leNat (slice 0 2 k.payload) = magic ∧ 16 ≤ k.payload.length then s.onTest p (i / 32) k rx else s
  if k.hdr.op = 0x02 then s.cpl p (16 + i) none k.hdr stOK [] else s

/-- A Pennant at a golden port fails. -/
def State.goldLost (p : Plane) (i : Nat) : Perf := fun k s =>
  s.modTst p (fun x => { x with stamps := mset none (stampKey i k.hdr.src k.hdr.wseq) none x.stamps })

/-- Rules 11 and 12 of Table 12.6 at a windowed packet. -/
def State.goldRules (s : State) (p : Plane) (i : Nat) (k : Packet) : State :=
  let h := k.hdr
  let d := (h.wseq - (s.dstWin p (16 + i) h.src).base).toNat
  let s := s.pchkIf (decide (512 ≤ d ∧ d < 65024)) p 11 i h.vc.toNat (hdrNat k)
  let key := 65536 * i + h.src.toNat
  let t := s.ticks
  let l := t :: ((mget [] key (s.pl p).tst.seen).filter (fun x => decide (t < x + 8000)))
  let s := s.modTst p (fun x => { x with seen := mset [] key l x.seen })
  let within := fun (a b : Nat) => (l.filter (fun x => decide (a ≤ x ∧ x < b))).length
  let bad := (mget [] key (s.pl p).tst.eces).any (fun e =>
    decide (e + 3200 ≤ t ∧ t < e + 4800 ∧ within (e + 3200) (t + 1) = within (e - 1600) e + 1))
  s.pchkIf bad p 12 i h.vc.toNat (hdrNat k)

/-- The generator as the source of a golden port's requests: nothing follows a CPL but the window. -/
def State.genDone (_p : Plane) (_w : ReqWhat) (_k : Packet) (s : State) : State := s
def State.genDrop (_p : Plane) (_w : WaitPkt) (s : State) : State := s
def State.genTimeout (p : Plane) (_w : ReqWhat) (s : State) : State := s.count p Fld.LFP_OP_TMO.N 0

/-- A packet that passed its checks at a golden port (R384, R385). -/
def State.gepIn (s : State) (p : Plane) (i : Nat) (k : Packet) (rx : BitVec 64) : State :=
  let h := k.hdr
  let key := 16 + i
  s.dstCrc p k (fun s =>
    if h.type = tREQ then
      if windowed h then
        let s := s.goldRules p i k
        let s := if h.pen then s.modTst p (fun x => { x with stamps := mset none (stampKey i h.src h.wseq) (some rx) x.stamps })
          else s
        let s := s.windowedIn (State.goldPerf p i rx) (State.goldLost p i) p key k
        if (s.dstWin p key h.src).held.any (fun g => g.pkt.hdr.wseq == h.wseq) then s
        else s.modTst p (fun x => { x with stamps := mset none (stampKey i h.src h.wseq) none x.stamps })
      else if h.op = 0x03 then s.winSyncIn p key k
      else (s.count p Fld.LFP_HDR_DISC.N 0).cpl p key none h stUNSUPPORTED []
    else if h.type = tCPL then s.cplIn (fun _ => State.genDrop p) (State.genDone p) p key k
    else if h.type = tACK then s.ackIn p key k
    else if h.type = tTEST then s.onTest p (i / 32) k rx
    else s.count p Fld.TST_GEP_DISC.N 0)

/-! ## The generator (R386, R387) -/

def strIdx (g st : Nat) : Nat := 16 * g + st
def sentIdx (g st : Nat) : Nat := 64 * g + st
def State.genRun (s : State) (p : Plane) (g st : Nat) : Bool := bit st (s.fld p Fld.TST_GEN_STAT.RUN g)
def State.genPort (s : State) (p : Plane) (g st : Nat) : Nat := 32 * g + s.fld p Fld.TST_GEN_STR.PORT (strIdx g st)
/-- MODE and LEN_MODE: 3 acts as 0. -/
def State.genMode (s : State) (p : Plane) (g st : Nat) : Nat := s.fld p Fld.TST_GEN_STR.MODE (strIdx g st) % 3
def State.genHdr (s : State) (p : Plane) (g st : Nat) : Nat := s.word4 p .TST_GEN_STR (strIdx g st) 4

def State.setRun (s : State) (p : Plane) (g st : Nat) (on : Bool) : State :=
  s.setF p Fld.TST_GEN_STAT.RUN g (setBits st st (s.fld p Fld.TST_GEN_STAT.RUN g) (b2n on))

/-- A START of a stream. -/
def State.genStart1 (s : State) (p : Plane) (g st : Nat) : State :=
  let i := s.genPort p g st
  let op := bits 71 64 (s.genHdr p g st)
  if s.genRun p g st then s
  else if s.flag p Fld.TST_PG_CFG.GOLDEN g = false ∨ s.portEn p i = false ∨ s.flag p Fld.TST_GEP_ID.VALID i = false ∨
      (s.genMode p g st = 1 ∧ op ≠ 1 ∧ op ≠ 2) then
    s.setF p Fld.TST_GEN_STAT.REJ g (setBits st st (s.fld p Fld.TST_GEN_STAT.REJ g) 1)
  else (s.setRun p g st true).setF p Fld.TST_GEN_SENT.N (sentIdx g st) 0

/-- A stream stops: GEN_DONE. -/
def State.genEnd (s : State) (p : Plane) (g st : Nat) : State :=
  if s.genRun p g st then
    (s.setRun p g st false).raise p 0x0B06 (wn (16 * g + st)) [wn (s.fld p Fld.TST_GEN_SENT.N (sentIdx g st))]
  else s

/-- START and STOP bits as written to TST_GEN_CTL. -/
def State.genStart (s : State) (p : Plane) (g v : Nat) : State :=
  s.each ((List.range 16).filter (fun st => bit st v)) (fun st s => s.genStart1 p g st)
def State.genStop (s : State) (p : Plane) (g v : Nat) : State :=
  s.each ((List.range 16).filter (fun st => bit st v)) (fun st s => s.genEnd p g st)

/-- The payload length of the n-th packet of a run. -/
def State.genLenOf (s : State) (p : Plane) (g st n : Nat) : Nat :=
  let x := strIdx g st
  let lo := min 8192 (max 16 (s.fld p Fld.TST_GEN_STR.LEN_MIN x))
  let hi := max lo (min 8192 (s.fld p Fld.TST_GEN_STR.LEN_MAX x))
  match s.fld p Fld.TST_GEN_STR.LEN_MODE x with
  | 1 => lo + Config.genLen n % (hi - lo + 1)
  | 2 => lo + n % (hi - lo + 1)
  | _ => lo

/-- The packet a stream forms now, number `n` of its run, with the WSEQ and TAG given for MODE 1. -/
def State.genForm (s : State) (p : Plane) (g st n : Nat) (wseq tag : BitVec 16) : Packet :=
  let x := strIdx g st
  let mode := s.genMode p g st
  let len := s.genLenOf p g st n
  let t := parseHdr (leBytes 16 (s.genHdr p g st))
  let every := s.fld p Fld.TST_GEN_STR.PEN_EVERY x
  let src := BitVec.ofNat 16 (s.fld p Fld.TST_GEP_ID.ID (s.genPort p g st))
  let kind := s.fld p Fld.TST_GEN_STR.PATTERN x
  let body := testHdr p g st n (s.now p) ++ patternOf kind (s.fld p Fld.TST_GEN_STR.CONST x) n (len - 16)
  let h := if mode = 2 then t else
    { t with
      type := if mode = 1 then tREQ else tTEST
      pen := mode == 1 && every != 0 && (n + 1) % every == 0
      wseq := if mode = 1 then wseq else 0
      tag := if mode = 1 ∧ opReturns t.op then tag else t.tag
      src := src
      ce := false
      ece := false
      hops := 0
      len := BitVec.ofNat 14 len }
  let ext := parseExt (leBytes 12 ((s.word p .TST_GEN_STR x 8).toNat + 2 ^ 32 * (s.word p .TST_GEN_STR x 9).toNat +
    2 ^ 64 * (s.word p .TST_GEN_STR x 10).toNat))
  withHcrc { hdr := h, ext := ext, payload := body, trailer := crc32 body }

/-- A stream's packet leaves, or is discarded where it names 0xFFFF and its header is not the template's own (R5, R387,
log entry 117), if its port is Active, no response waits, and its VC has credit; a windowed one needs room
in its window, which a WIN_SYNC opens first. -/
def State.genPacket (s : State) (p : Plane) (g st : Nat) : State :=
  let x := strIdx g st
  let i := s.genPort p g st
  let key := 16 + i
  let n := s.fld p Fld.TST_GEN_SENT.N (sentIdx g st)
  let probe := s.genForm p g st n 0 0
  let vc := probe.hdr.vc.toNat
  if s.genRun p g st = false ∨ s.portActive p i = false ∨ s.fld p Fld.TST_GEN_STR.RATE x = 0 ∨
      mget [] i (s.pl p).tst.resp ≠ [] ∨ s.sideAvail p i vc < unitsOf probe then s
  else
    let send := fun (s : State) (k : Packet) =>
      let s := if noId k.hdr ∧ s.genMode p g st ≠ 2 then s.discard1 p .hdr else s.sideSend p i .gen k
      let s := s.setF p Fld.TST_GEN_SENT.N (sentIdx g st) ((n + 1) % 2 ^ 32)
      let c := s.fld p Fld.TST_GEN_STR.COUNT x
      if c ≠ 0 ∧ c ≤ n + 1 then s.genEnd p g st else s
    if s.genMode p g st = 1 then
      let dst := probe.hdr.dst
      let w := s.srcWin p key dst
      match w.sync with
      | .none => s.startSync p key dst probe.hdr.tc
      | .waiting => s
      | .done =>
        if (w.next - w.base).toNat < min (s.wSrc p) (s.cwnd p w) then
          let t := s.ticks
          let s := s.modSrc p key dst (fun w => { w with next := w.next + 1, lastAt := some t })
          let (tag, s) := if opReturns probe.hdr.op then s.takeTag p key (.gen (strIdx g st)) dst else (0, s)
          send s (s.genForm p g st n w.next tag)
        else s
    else send s probe

/-! ## Meanings -/

/-- GEN_START, GEN_STOP: writes of TST_GEN_CTL (R386). -/
def execGenStart (p : Plane) (g : Fin 18) (streams : BitVec 16) (s : State) : Res :=
  goOn (s.when (s.live p) (·.genStart p g streams.toNat))
def execGenStop (p : Plane) (g : Fin 18) (streams : BitVec 16) (s : State) : Res :=
  goOn (s.when (s.live p) (·.genStop p g streams.toNat))

/-- GEN_PACKET (R387): the token bucket of a stream holds its next packet (R388). -/
def execGenPacket (p : Plane) (g : Fin 18) (st : Fin 16) (s : State) : Res :=
  goOn (s.when (s.runs p && !(s.pl p).tst.inReset) (·.genPacket p g st))

/-- GEP_RECEIVE (R385). -/
def execGepReceive (p : Plane) (i : Fin 576) (pkt : Packet) (s : State) : Res :=
  goOn (s.when (s.runs p && s.golden p i && s.portEn p i && !(s.pl p).tst.inReset) (fun s => s.gepIn p i pkt (s.now p)))

/-- CHK_CLR (Table 12.12). -/
def execChkClr (p : Plane) (g : Fin 18) (s : State) : Res := goOn (s.when (s.live p) (·.freeFlows p g))

/-- The delays of a code end, in its egress stage and beside it (R393 KIND 2). -/
def State.endDelay (s : State) (p : Plane) (code : Nat) : State :=
  s.each (List.range 9) (fun vc s =>
    let s := s.sideFree p code vc
    match s.stg p code vc with
    | e :: rest => if e.until_.isSome then s.setStg p code vc ({ e with until_ := none } :: rest) else s
    | [] => s)

/-- INJECT_DELAY_END (R393): of the delays of a code, the one that ends first has ended. -/
def execInjectDelayEnd (p : Plane) (code : Code) (s : State) : Res :=
  goOn (s.when (s.runs p) (fun s =>
    let due := fun (vc : Nat) => match s.side p code.toNat vc with
      | some e => e.until_
      | none => ((s.stg p code.toNat vc).head?).bind StageEnt.until_
    let first := (List.range 9).foldl (fun (a : Option (Nat × Nat)) vc =>
      match due vc, a with
      | some t, some (u, _) => if t < u then some (t, vc) else a
      | some t, none => some (t, vc)
      | none, _ => a) none
    match first with
    | some (_, vc) =>
      if (s.side p code.toNat vc).isSome then s.sideFree p code.toNat vc else
      match s.stg p code.toNat vc with
      | e :: rest => s.setStg p code.toNat vc ({ e with until_ := none } :: rest)
      | [] => s
    | none => s))

/-- FEC_INJECT (R395): codeword A of the next pair that a lane sends is corrupted. -/
def execFecInject (p : Plane) (lane : Fin 576) (s : State) : Res :=
  let left := s.fld p Fld.TST_FEC_INJ.LEFT lane
  let up : Bool := match s.portOf p lane with
    | some i => s.portActive p i
    | none => false
  let loop := s.fld p Fld.LNE_LANE_CFG.LOOPBACK lane != 0
  goOn (s.when (s.live p && s.flag p Fld.TST_FEC_INJ.EN lane && (up || loop)) (fun s =>
    if left = 0 then s.setFlag p Fld.TST_FEC_INJ.EN lane false
    else
      let off := s.fld p Fld.TST_FEC_INJ.OFF lane
      let hit := (if 543 < off then 0 else off, min 544 (max 1 (s.fld p Fld.TST_FEC_INJ.SYMS lane)))
      let s := (s.modWire p lane (fun x => { x with inj := some hit })).count p Fld.TST_FEC_INJ_CNT.N lane
      if left = 0xFFFF then s
      else
        let s := s.setF p Fld.TST_FEC_INJ.LEFT lane (left - 1)
        if left = 1 then s.setFlag p Fld.TST_FEC_INJ.EN lane false else s))

end Sys2Proof.Machine
end

