-- ==== Sys2Proof/Machine/Endpoints.lean ====
section
/-! DEFINITION. Delivery to the device's endpoints: the engines and the golden ports (R81 to R83, R99 to R111). -/

namespace Sys2Proof.Machine

/-- What an endpoint does with a windowed packet it performs; what the check bits show it then is a free value. -/
def epPerf (p : Plane) (key : Nat) : Perf :=
  match key with
  | 0 => fun k s => s.takeFree.2.colServe p k (Config.readErrs s.free)
  | 1 => fun k s => s.takeFree.2.dspServe p k (Config.readErrs s.free)
  | 2 => State.memPerf p
  | _ => fun k s => State.goldPerf p (key - 16) (s.now p) k s

/-- What follows a Pennant that fails. -/
def epLost (p : Plane) (key : Nat) : Perf :=
  match key with
  | 0 => fun _ s => s
  | 1 => fun k s => s.tokenLost p k
  | 2 => fun _ s => s
  | _ => State.goldLost p (key - 16)

/-- What meets a packet that waited on a WIN_SYNC that failed: with its status, or none for a timeout (R99). -/
def epDrop (p : Plane) (key : Nat) (status : Option Byte) (w : WaitPkt) (s : State) : State :=
  if key = 2 then State.memDrop p status w s else s

/-- What a CPL and a timeout complete. -/
def epDone (p : Plane) (key : Nat) (w : ReqWhat) (k : Packet) (s : State) : State :=
  if key = 2 then State.memDone p w k s else s
def epTimeout (p : Plane) (key : Nat) (w : ReqWhat) (s : State) : State :=
  if key = 2 then State.memTimeout p w s else s.count p Fld.LFP_OP_TMO.N 0

/-- An endpoint works: its engine is in service, or its port is enabled on a golden PG. -/
def State.epOn (s : State) (p : Plane) (key : Nat) : Bool :=
  match key with
  | 0 => s.colOn p
  | 1 => s.dspOn p
  | 2 => s.memOn p
  | _ => s.runs p && s.golden p (key - 16) && s.portEn p (key - 16) && !(s.pl p).tst.inReset

/-- The window of an engine has let packets go: forward credit may follow, or an epoch may close. -/
def State.epMoved (s : State) (p : Plane) (key : Nat) : State :=
  match key with
  | 0 => s.fwdTellAll p
  | 1 => s.closeEpochs p
  | _ => s

/-- An ACK and a CPL at an endpoint (R100, R111). -/
def State.epAck (s : State) (p : Plane) (key : Nat) (k : Packet) : State := (s.ackIn p key k).epMoved p key
def State.epCpl (s : State) (p : Plane) (key : Nat) (k : Packet) : State :=
  (s.cplIn (fun st => epDrop p key (some st)) (epDone p key) p key k).epMoved p key

/-- A packet delivered to an engine (R83): `via` is the code it came from. -/
def State.engineIn (s : State) (p : Plane) (key via : Nat) (k : Packet) : State :=
  let h := k.hdr
  s.dstCrc p k (fun s =>
    if h.type = tREQ then
      if windowed h then s.windowedIn (epPerf p key) (epLost p key) p key k
      else if h.op = 0x03 then s.winSyncIn p key k
      else if key = 0 ∧ h.op = opSLOT_CRED then s.slotCredIn p k
      else if key = 0 ∧ h.op = opCOL_CTL then s.colCtlIn p k
      else (s.count p Fld.LFP_HDR_DISC.N 0).cpl p key (some via) h stUNSUPPORTED []
    else if h.type = tCPL then s.epCpl p key k
    else if h.type = tACK then s.epAck p key k
    else s.count p Fld.LFP_HDR_DISC.N 0)

/-! ## Meanings -/

/-- WINDOWED_ARRIVAL (R103). -/
def execWindowedArrival (p : Plane) (e : Endpt) (pkt : Packet) (s : State) : Res :=
  let key := epKey e
  goOn (s.when (s.epOn p key && windowed pkt.hdr) (fun s =>
    s.dstCrc p pkt (fun s =>
      if 16 ≤ key then s.gepIn p (key - 16) pkt (s.now p)
      else s.windowedIn (epPerf p key) (epLost p key) p key pkt)))

/-- HOLE_SKIP (R105): HOLE_T has passed since the stall timer started. -/
def execHoleSkip (p : Plane) (e : Endpt) (src : EpId) (s : State) : Res :=
  let key := epKey e
  goOn (s.when (s.epOn p key) (fun s => s.holeSkip (epPerf p key) (epLost p key) p key src))

/-- PENNANT_DEADLINE (R105): a held Pennant's HOLE_T has passed. -/
def execPennantDeadline (p : Plane) (e : Endpt) (src : EpId) (wseq : BitVec 16) (s : State) : Res :=
  let key := epKey e
  goOn (s.when (s.epOn p key) (fun s => s.pennantDeadline (epPerf p key) (epLost p key) p key src wseq))

/-- ACK_RECEIVED (R100). -/
def execAckReceived (p : Plane) (e : Endpt) (pkt : Packet) (s : State) : Res :=
  let key := epKey e
  goOn (s.when (s.epOn p key) (fun s => s.dstCrc p pkt (·.epAck p key pkt)))

/-- CPL_RECEIVED (R99, R111, R247). -/
def execCplReceived (p : Plane) (e : Endpt) (pkt : Packet) (s : State) : Res :=
  let key := epKey e
  goOn (s.when (s.epOn p key) (fun s => s.dstCrc p pkt (·.epCpl p key pkt)))

/-- OP_TIMEOUT (R111, R248). -/
def execOpTimeout (p : Plane) (e : Endpt) (tag : BitVec 16) (s : State) : Res :=
  let key := epKey e
  goOn (s.when (s.epOn p key) (fun s => s.opTimeout (epDrop p key none) (epTimeout p key) p key tag))

/-- CWND_INCREASE (R109): in hardware mode, after INC_INT with no ECE. -/
def execCwndIncrease (p : Plane) (e : Endpt) (dst : EpId) (s : State) : Res :=
  let key := epKey e
  goOn (s.when (s.epOn p key && !s.hostCc p) (fun s => (s.cwndUp p key dst).epMoved p key))

end Sys2Proof.Machine
end

