-- ==== Sys2Proof/Machine/Transmit.lean ====
section
/-! DEFINITION. Egress: heads of the egress stage, the scheduler, cut-through and wormhole transmission (R85, R96 to R98,
R107, R157 to R159, R167, R393, R394). What the Canton does with a packet delivered to it is a parameter. -/

namespace Sys2Proof.Machine

/-- What happens with a packet delivered to the Canton: the code it came from and the packet. -/
abbrev Deliver := Nat → Packet → State → State

/-! ## Heads -/

/-- FLOW_MODE of a port, 0 where the far end has no wormhole fallback (R97); 3 acts as 0. -/
def State.flowMode (s : State) (p : Plane) (code : Nat) : Nat :=
  if code < 576 ∧ s.flag p Fld.LFP_PORT_STAT.FAR_WH code then s.fld p Fld.LFP_PORT_CFG.FLOW_MODE code % 3 else 0

/-- Does a packet exceed the far end's first LIMIT on its VC (R97). -/
def State.oversize (s : State) (p : Plane) (code vc units : Nat) : Bool :=
  decide (code < 576) && ((s.cred p code vc).far.map (fun f => decide (f.toNat < units))).getD false

/-- A copy leaves the head of its VC without being sent. -/
def State.dropHead (s : State) (p : Plane) (code vc pid : Nat) : State :=
  (s.setStg p code vc ((s.stg p code vc).filter (fun e => e.pid ≠ pid))).purgeCopy p pid code

/-- The departing packet of a new head is formed: CE, the changes of Table 3.3, the egress tap's rules and the injection
(R107, R391, R393, R394). -/
def State.formHead (s : State) (p : Plane) (code vc : Nat) (e : StageEnt) (b : BufPkt) (rest : List StageEnt) : State :=
  let (mark, s) := s.ceMark p (s.qdepth p code vc)
  let k := departing b.pkt vc mark
  let (c, i, s) := s.tap p 1 code k
  let (kind, s) := if i = 0 then (0, s) else s.inject p (i - 1) code
  let d := if i = 0 then 0 else s.fld p Fld.TST_INJ.DELAY (s.fld p Fld.TST_MATCH.INJ (i - 1))
  if kind = 1 then s.dropHead p code vc e.pid
  else
    let t := s.ticks
    let e := { e with
      head := true
      inj := kind
      until_ := if kind = 2 then some (t + ticksOfNs d) else none
      cap := c
      pkt := k }
    s.setStg p code vc (e :: rest)

/-- Heads of one VC of an egress stage until one stays (R159, R97, R394). The first LIMIT may come after a head was
formed, so that its size is checked at every decision while it waits. -/
def State.stageHead : Nat → State → Plane → Nat → Nat → State
  | 0, s, _, _, _ => s
  | n + 1, s, p, code, vc =>
    match s.stg p code vc with
    | e :: rest =>
      match s.pkt? p e.pid with
      | none => State.stageHead n (s.setStg p code vc rest) p code vc
      | some b =>
        if !e.head && s.aged p e.arr then State.stageHead n (s.ageDiscard p e.pid code) p code vc
        else if s.flowMode p code = 0 ∧ s.oversize p code vc b.units then
          State.stageHead n ((s.dropHead p code vc e.pid).count p Fld.LFP_OVERSIZE_DISC.N 0) p code vc
        else if e.head then s
        else State.stageHead n (s.formHead p code vc e b rest) p code vc
    | [] => s

/-- The new heads of every VC of a code. -/
def State.stageHeads (s : State) (p : Plane) (code : Nat) : State :=
  s.each (List.range 9) (fun vc s => s.stageHead (2 * (s.stg p code vc).length + 1) p code vc)

/-! ## The choice -/

/-- Is the ingress narrower than the egress, so that a packet is stored whole first (R157). Halyard and the internal
attachments are wider than every fabric port. -/
def State.narrower (s : State) (p : Plane) (src code : Nat) : Bool :=
  if 576 ≤ code then true
  else if 576 ≤ src then false
  else decide (s.fld p Fld.LNE_PORT_STAT.ACT_WIDTH src < s.fld p Fld.LNE_PORT_STAT.ACT_WIDTH code)

/-- Has the credit that a head needs come: on a fabric port and over Halyard R96; an engine's room (R221, R249). -/
def State.headCredit (s : State) (p : Plane) (code vc : Nat) (b : BufPkt) : Bool :=
  let k := b.pkt
  if code < 576 then decide (b.units + s.sideUnits p code vc ≤ (s.cred p code vc).avail)
  else if code = 576 then decide (b.units ≤ (s.cred p 576 vc).avail ∧
    (s.pl p).swc.hal.store.length + (b.units + 3) / 4 ≤ 2048)
  else if code = 578 ∧ k.hdr.type = tREQ then s.dspRoom p k
  else if code = 579 ∧ k.hdr.type = tREQ ∧ windowed k.hdr then !s.memWaits p k
  else true

/-- Is a head sent in wormhole mode for its size (R97 modes 1 and 2). -/
def State.headWh (s : State) (p : Plane) (code vc : Nat) (b : BufPkt) : Bool :=
  decide (s.flowMode p code ≠ 0) && s.oversize p code vc b.units

/-- The head of a VC that may start now (R157). -/
def State.mayStart (s : State) (p : Plane) (code vc : Nat) : Option (StageEnt × BufPkt) :=
  match s.stg p code vc with
  | e :: _ =>
    match s.pkt? p e.pid with
    | some b =>
      if e.head ∧ e.until_ = none ∧ (s.side p code vc).isNone ∧ e.sop ∧ 1 ≤ e.have_ ∧
          (s.narrower p b.src code → b.units ≤ e.have_) ∧ (s.headCredit p code vc b ∨ s.headWh p code vc b) then some (e, b) else none
    | none => none
  | [] => none

/-- The scheduling weight of a TC, as committed. -/
def State.weight (s : State) (p : Plane) (tc : Nat) : Nat :=
  (s.fld p Fld.SWC_SCHED_LO.W 0 + 2 ^ 32 * s.fld p Fld.SWC_SCHED_HI.W 0) / 256 ^ tc % 256

/-- Deficit round robin over VCs 0 to 7 (R158). `at_` is twice the VC the round stands at, plus 1 where it has had its
grant. A queue that may not start takes no part and keeps its deficit. -/
def State.drr : Nat → State → Plane → Nat → Nat → Option Nat × State
  | 0, s, _, _, _ => (none, s)
  | n + 1, s, p, code, at_ =>
    let vc := at_ / 2 % 8
    match s.mayStart p code vc with
    | none => State.drr n s p code (2 * ((vc + 1) % 8))
    | some (e, _) =>
      let key := stageKey code vc
      let have_ := mget 0 key (s.pl p).swc.deficit + if at_ % 2 = 0 then 256 * s.weight p e.pkt.hdr.tc.toNat else 0
      let size := lenT e.pkt
      let put := fun (d t : Nat) => s.modSwc p (fun x => { x with
        deficit := mset 0 key d x.deficit
        turn := mset 0 code t x.turn })
      if size ≤ have_ then (some vc, put (have_ - size) (2 * vc + 1))
      else State.drr n (put have_ (2 * ((vc + 1) % 8))) p code (2 * ((vc + 1) % 8))

/-- The scheduler's choice of a VC (R158). -/
def State.schedule (s : State) (p : Plane) (code : Nat) : Option Nat × State :=
  if (s.mayStart p code 8).isSome then (some 8, s) else
    let zero := (List.range 8).filterMap (fun vc =>
      match s.mayStart p code vc with
      | some (e, _) => if s.weight p e.pkt.hdr.tc.toNat = 0 then some (e.pkt.hdr.tc.toNat, vc) else none
      | none => none)
    match zero with
    | z :: zs => (some (zs.foldl (fun a x => if a.1 < x.1 then x else a) z).2, s)
    | [] =>
      if (List.range 8).any (fun vc => (s.mayStart p code vc).isSome) then
        s.drr 320 p code (mget 0 code (s.pl p).swc.turn)
      else (none, s)

/-! ## Sending -/

/-- Take a packet's entry out of the stage. -/
def State.unstage (s : State) (p : Plane) (code vc pid : Nat) : State :=
  s.setStg p code vc ((s.stg p code vc).filter (fun e => e.pid ≠ pid))

/-- A packet in wormhole mode sends the units that it has and that credit covers (R97); its last one ends it. Of a packet
that ended as bad upstream it sends no more than came, and an SOP with ABORT ends it (R87). -/
def State.whSend (s : State) (p : Plane) (i : Nat) (t : TxProg) : State :=
  let units := unitsOf t.pkt
  let have_ := ((s.stg p i t.vc).find? (fun e => e.pid == t.pid)).map StageEnt.have_ |>.getD 0
  let bad := ((s.pkt? p t.pid).map BufPkt.bad).getD false
  let top := if bad then min have_ (((s.pkt? p t.pid).map BufPkt.real).getD 0) else have_
  let n := min (top - t.sent) (s.cred p i t.vc).avail
  let s := s.modCred p i t.vc (fun c => { c with sent := c.sent + BitVec.ofNat 16 n })
  let t := { t with sent := t.sent + n }
  if bad then s.endBadTx p i t t.sent
  else if units ≤ t.sent then
    ((s.unstage p i t.vc t.pid).finishTx p i t).setFlag p Fld.LFP_PORT_STAT.WH_TX i false
  else s.setTx p i (some t)

/-- The SOP of a head (R92, R157, R167): the packet is recorded by the egress tap, its units are sent, and it is handed
over or begins its transmission. -/
def State.startTx (canton : Deliver) (s : State) (p : Plane) (code vc : Nat) (wh : Bool) (e : StageEnt) (b : BufPkt) :
    State :=
  let k := injected e.inj e.pkt
  let s := s.countTx p code (k.hdr.ce && !b.pkt.hdr.ce)
  let applies := decide (1 ≤ e.inj ∧ e.inj ≤ 5)
  let s := if e.cap ≠ 0 ∧ s.flag p Fld.SWC_MIR_CFG.EGR_EN 0 then
      s.capture p 3 k (s.now p) code vc (e.cap - 1) false b.bad applies else s
  if 577 ≤ code then
    let s := (s.unstage p code vc e.pid).dropCopy p e.pid code
    if code < 580 then s.engineIn p (code - 577) b.src k else canton b.src k s
  else if wh then
    let t : TxProg := ⟨e.pid, vc, true, 0, k⟩
    ((s.setTx p code (some t)).setFlag p Fld.LFP_PORT_STAT.WH_TX code true).whSend p code t
  else
    let s := s.modCred p code vc (fun c => { c with sent := c.sent + BitVec.ofNat 16 b.units })
    let s := s.unstage p code vc e.pid
    let t : TxProg := ⟨e.pid, vc, false, e.have_, k⟩
    if b.units ≤ e.have_ then s.finishTx p code t else s.setTx p code (some t)

/-- The packets of a port's management exchange, and the Canton's answers that were waiting in it, leave on credit of
VC 8 (R50). -/
def State.exchangeSend (s : State) (p : Plane) (i : Nat) : State :=
  match (s.port p i).mgmtTx with
  | k :: rest =>
    if s.sideRoom p i (unitsOf k) then (s.modPort p i (fun x => { x with mgmtTx := rest })).portSend p i k else s
  | [] => s

/-- Drain markers that wait for credit leave (R131). -/
def State.markPump (s : State) (p : Plane) (i : Nat) : State :=
  match (s.pl p).rte.markDue.find? (fun m => m.1 == i) with
  | some m =>
    if s.sideRoom p i 1 then
      (s.modRte p (fun x => { x with markDue := x.markDue.erase m })).sendMarker p i m.2
    else s
  | none => s

/-- Does a code transmit: a fabric port in Active that is awake and not golden, Halyard while up, an attachment in
service. -/
def State.codeSends (s : State) (p : Plane) (code : Nat) : Bool :=
  if code < 576 then s.portActive p code && s.canSend p code && !s.golden p code
  else if code = 576 then s.halUp p else decide (code ≤ 580) && s.codeUp p code

/-- One decision of the egress scheduler of a code. -/
def State.transmit (canton : Deliver) (s : State) (p : Plane) (code : Nat) : State :=
  if code < 576 ∧ s.canSend p code ∧ (s.port p code).mgmtTx ≠ [] ∧ (s.tx? p code).isNone then s.exchangeSend p code
  else if code < 576 ∧ s.golden p code then s.goldPump p code
  else if s.codeSends p code then
    match s.tx? p code with
    | some t => if t.wh then s.whSend p code t else s
    | none =>
      let s := s.stageHeads p code
      let s := if code < 576 then (s.sidePump p code).markPump p code else s
      let (c, s) := s.schedule p code
      match c with
      | some vc =>
        match s.mayStart p code vc with
        | some (e, b) => s.startTx canton p code vc (!s.headCredit p code vc b || s.headWh p code vc b) e b
        | none => s
      | none => s
  else s

/-- Fallback to wormhole mode (R97, mode 2): the head of a VC has waited WH_WAIT for credit. In mode 0 its head is
checked for its size as at every head. -/
def State.fallback (canton : Deliver) (s : State) (p : Plane) (i vc : Nat) : State :=
  if s.codeSends p i ∧ (s.tx? p i).isNone then
    let s := s.stageHeads p i
    match s.stg p i vc with
    | e :: _ =>
      match s.pkt? p e.pid with
      | some b =>
        if s.flowMode p i = 2 ∧ e.head ∧ e.until_ = none ∧ (s.side p i vc).isNone ∧ e.sop ∧ 1 ≤ e.have_ ∧ (s.narrower p b.src i → b.units ≤ e.have_) then
          s.startTx canton p i vc (!s.headCredit p i vc b) e b
        else s
      | none => s
    | [] => s
  else s

/-- A stalled wormhole packet is ended with ABORT (R98), and a SENT block follows (R93). -/
def State.whTruncate (s : State) (p : Plane) (i : Nat) : State :=
  match s.tx? p i with
  | some t =>
    if t.wh then
      (s.count p Fld.LFP_WH_TRUNC.N 0).endBadTx p i t t.sent
    else s
  | none => s

/-- WH_TRUNCATE (R98): the packet has stalled for WH_MAX without sending a unit. -/
def execWhTruncate (p : Plane) (i : Fin 576) (s : State) : Res :=
  goOn (s.when (s.runs p && s.portActive p i) (·.whTruncate p i))

end Sys2Proof.Machine
end

