-- ==== Sys2Proof/Machine/Ingress.lean ====
section
/-! DEFINITION. The ingress of a fabric port (R32, R34, R49, R50, R73, R84, R86, R87, R92, R94): a packet whose last block
has arrived. -/

namespace Sys2Proof.Machine

/-- The codes that a packet's head may go on to before its end (R86, R157): fabric ports no wider than the ingress. -/
def State.cutCodes (s : State) (p : Plane) (i vc : Nat) (k : Packet) : List Nat :=
  let l := match s.routeOf p i vc k with
    | .one code _ _ _ => [code]
    | .many codes => codes
    | _ => []
  l.filter (fun c => decide (c < 576) && !s.narrower p i c)

/-- May the plane have sent a packet's head on before its end: to some code of it. -/
def State.cutThrough (s : State) (p : Plane) (i vc : Nat) (k : Packet) : Bool := !(s.cutCodes p i vc k).isEmpty

/-- A MGMT packet that the management exchange of R50 delivers to the Canton. -/
def State.exchangeTakes (s : State) (p : Plane) (vc : Nat) (k : Packet) : Bool :=
  k.hdr.type == tMGMT && vc == 8 &&
    (k.hdr.dst == 0xFF03 || k.hdr.dst == 0xFF0F || s.alias? p 3 == some k.hdr.dst)

/-- What follows the header checks on a port in Active that is not golden, of a packet kept whole until its end: the
trailer (R86), and the routing decision. -/
def State.admitPkt (s : State) (p : Plane) (i vc units : Nat) (r : RxProg) (k : Packet) (bad : Bool) : State :=
  let drop := fun (s : State) => s.freeUnits p i vc units
  if bad then drop s
  else if crcOk k then s.routeIn p i vc units k r.at_ r.time (s.link p i).sess {}
  else if stomped k then drop (s.count p Fld.LFP_STOMP_RX.N 0)
  else drop (s.count p Fld.LFP_CRC_DISC.N 0)

/-- The head of a packet has come (R86, R157): where it may go on before the packet's end, it enters the switch core with
the rest still to come. The command's packet is the whole packet, of which the first `r.got` units are here. -/
def State.headIn (s : State) (p : Plane) (i : Nat) (k : Packet) (r : RxProg) (bad : Bool) : State :=
  let vc := r.vc.toNat
  if bad then s.modLink p i (fun x => { x with rx := some { r with bad := true } })
  else if r.pid.isSome || s.stage p i != 5 || s.golden p i || r.viol || (s.headerCheck p (some i) k).isSome ||
      !s.cutThrough p i vc k then s
  else
    let units := if r.wh then unitsOf k else r.units
    let pid := (s.pl p).swc.nextPid
    let s := s.routeIn p i vc units k r.at_ r.time (s.link p i).sess
      { todo := units - r.got, owed := if r.wh then units - r.got else 0 }
    let s := s.modSwc p (fun x => { x with nextPid := max x.nextPid (pid + 1) })
    s.modLink p i (fun x => { x with rx := some { r with pid := some pid } })

/-- The end of a packet whose head has gone on (R86, R87): copies already sent on go on, stomped where the trailer fails;
the others are discarded with it. -/
def State.tailIn (s : State) (p : Plane) (r : RxProg) (pid : Nat) (bad : Bool) : State :=
  match s.pkt? p pid with
  | none => s
  | some b =>
    if bad then s.endUpstream p r
    else if crcOk b.pkt then s
    else
      let some_ := !(s.unsent p pid).isEmpty
      let gone := (s.unsent p pid).length < b.codes.length
      let s := s.dropUnsent p pid
      if stomped b.pkt then if some_ then s.count p Fld.LFP_STOMP_RX.N 0 else s
      else
        let s := if some_ then s.count p Fld.LFP_CRC_DISC.N 0 else s
        if gone then (s.mapPkt p pid stomp).count p Fld.LFP_STOMP_TX.N 0 else s

/-- The end of a packet that the port keeps whole (R84): the checks of Table 3.8, the management exchange (R50), a golden
port's endpoint (R385), or the switch core. -/
def State.wholeIn (canton : Deliver) (s : State) (p : Plane) (i : Nat) (k : Packet) (r : RxProg) (bad : Bool) : State :=
  let vc := r.vc.toNat
  let units := if r.wh then r.got else r.units
  let free := fun (s : State) => if r.viol then s else s.freeUnits p i vc units
  if s.stage p i ≠ 5 then
    if bad = false ∧ (s.headerCheck p (some i) k).isNone ∧ r.viol = false ∧ s.exchangeTakes p vc k then
      canton i k (free s)
    else (free s).count p Fld.LNE_QDISC_CNT.N 0
  else match s.headerCheck p (some i) k with
    | some d => (free s).discard1 p d
    | none =>
      if r.viol then s.creditViolation p i vc
      else if s.golden p i then
        if bad then free s else (free s).gepIn p i k r.time
      else s.admitPkt p i vc units r k bad

/-- A packet has been received (R84), or with `more` its head and `got` units by now. `bad`: a block of it was bad
(R34, R37), with `got` units come; `unknown`: so many control blocks with an unknown code fell inside it (R32). -/
def State.ingress (canton : Deliver) (s : State) (p : Plane) (i : Nat) (k : Packet) (bad : Bool) (unknown got : Nat)
    (more : Bool) : State :=
  let s := s.when (unknown != 0) (·.countN p Fld.LNE_BADBLK.N 0 unknown)
  if s.counting p i = false then s.when (s.portEn p i && !more) (fun s => s.count p Fld.LNE_QDISC_CNT.N 0) else
    match (s.link p i).rx with
    | none => s
    | some r =>
      let bad := bad || decide (0 < unknown) || r.bad
      let s := s.rxProgress p i (if bad || more then got else if r.wh then unitsOf k else r.units)
      match (s.link p i).rx with
      | none => s
      | some r =>
        if more then s.headIn p i k r bad else
          let s := (s.modLink p i (fun x => { x with rx := none })).pchkPacket p i r k
          match r.pid with
          | some pid => s.tailIn p r pid bad
          | none => s.wholeIn canton p i k r bad

end Sys2Proof.Machine
end

