-- ==== Sys2Proof/Machine/GnoLink.lean ====
section
/-! DEFINITION. The Gnotric Link and the rings (R261 to R290): bring-up of a half, requests and their answers, doorbells,
the status line, interrupts, events, function modes and the loss of the host. -/

namespace Sys2Proof.Machine

/-! ## Halves -/

def State.half (s : State) (h : Plane) : GlHalf := (s.pl h).hif.half
def State.modHalf (s : State) (h : Plane) (f : GlHalf → GlHalf) : State := s.modHif h (fun x => { x with half := f x.half })

/-- A half runs: its plane's logic runs and HIF_LINK_CFG.EN is 1. -/
def State.glOn (s : State) (h : Plane) : Bool := s.live h && s.flag h Fld.HIF_LINK_CFG.EN 0

/-- A half's stage is stored. -/
def State.setGl (s : State) (h : Plane) (st : Nat) : State := s.setF h Fld.HIF_LINK_STAT.STAGE 0 st

/-- Aligned sets of 8 or 4 lanes (R263), the widest first. -/
def glSet (ok : Nat) : Nat := if Nat.land ok 0xFF = 0xFF then 0xFF else if Nat.land ok 0x0F = 0x0F then 0x0F
  else if Nat.land ok 0xF0 = 0xF0 then 0xF0 else 0

/-- WIDTH code of a set. -/
def glWidth (m : Nat) : Nat := if m = 0 then 0 else if m = 0xFF then 2 else 1

/-- A half starts at Detect. -/
def State.glDetect (s : State) (h : Plane) : State :=
  let s := s.modHalf h (fun x => { retries := x.retries, reason := x.reason })
  (s.setGl h 1).setFlag h Fld.HIF_LINK_CFG.RETRAIN 0 false

/-- A stage of a half fails (R263, R288). -/
def State.glFail (s : State) (h : Plane) (reason : Nat) : State :=
  let n := (s.half h).retries + 1
  let s := (s.glDetect h).modHalf h (fun x => { x with retries := n, reason := reason })
  if s.hostRecovery h ∨ max 1 (s.fld h Fld.HIF_LINK_CFG.RETRY_MAX 0) ≤ n then s.setGl h 6 else s

/-- A plane's messages move to the half that now carries them: requests without an answer on the lost half go out again in
their order before newer ones (R271). -/
def State.glMove (s : State) (q lost : Plane) : State :=
  let again := (s.pl q).hif.outst.filter (fun r => r.half == lost)
  s.modHif q (fun x => { x with
    outst := x.outst.filter (fun r => r.half != lost)
    waiting := again ++ x.waiting })

/-- The lines of a plane that were read on a half are I (R268, R271). -/
def State.bellsOff (s : State) (q lost : Plane) : State :=
  s.modHif q (fun x => { x with
    cmdBell := { x.cmdBell with shared := x.cmdBell.shared && x.cmdBell.half != lost }
    ciBell := { x.ciBell with shared := x.ciBell.shared && x.ciBell.half != lost } })

/-- Rings that use each doorbell line are enabled. -/
def State.cmdUsed (s : State) (p : Plane) : Bool := s.ringOn p 0
def State.ciUsed (s : State) (p : Plane) : Bool := s.ringOn p 1 || s.ringOn p 2 || s.ringOn p 3

/-- Line addresses of a plane: command doorbell, consumer doorbell, status. -/
def State.lineAddr (s : State) (p : Plane) (r : Reg) : Nat :=
  ((s.word p r 0 0).toNat + 2 ^ 32 * (s.word p r 0 1).toNat) / 64 * 64

/-- Read a doorbell line for S, unless a read is out. -/
def State.readCmdBell (s : State) (p : Plane) : State :=
  if s.cmdUsed p ∧ (s.pl p).hif.cmdBell.reads = 0 then
    (s.modHif p (fun x => { x with cmdBell := { x.cmdBell with reads := x.cmdBell.reads + 1 } })).glRequest p
      (glMsg 0x01 0 (BitVec.ofNat 64 (s.lineAddr p .HIF_DB_ADDR)) []) .cmdBell
  else s
def State.readCiBell (s : State) (p : Plane) : State :=
  if s.ciUsed p ∧ (s.pl p).hif.ciBell.reads = 0 then
    (s.modHif p (fun x => { x with ciBell := { x.ciBell with reads := x.ciBell.reads + 1 } })).glRequest p
      (glMsg 0x01 0 (BitVec.ofNat 64 (s.lineAddr p .HIF_CI_ADDR)) []) .ciBell
  else s

/-- A plane reads again the doorbell lines that it should hold and does not (R276). -/
def State.rereadBells (s : State) (p : Plane) : State :=
  let s := if (s.pl p).hif.cmdBell.shared ∨ (s.pl p).hif.cmdBell.stuck then s else s.readCmdBell p
  if (s.pl p).hif.ciBell.shared then s else s.readCiBell p

/-- A half leaves Active (R263, R271): GL_HALF_DOWN, the lines it carried are I, and its requests go to the other half. -/
def State.glDown (s : State) (h : Plane) (reason next : Nat) : State :=
  let s := (s.raise h 0x0802 (wn h.num) [wn reason]).logError h 0x12 h.num reason 0 0
  let n := (s.half h).retries
  let s := (s.glDetect h).modHalf h (fun x => { x with retries := n, reason := reason })
  let s := (s.setGl h next).setF h Fld.HIF_LINK_STAT.WIDTH 0 0
  let s := s.setFlag h.other Fld.HIF_LINK_STAT.OTHER_UP 0 false
  s.both (fun q s =>
    let s := (s.bellsOff q h).glMove q h
    let s := s.setFlag q Fld.HIF_LINK_STAT.VIA_HAL 0 (decide (s.glStage q ≠ 5 ∧ s.glStage q.other = 5) && s.halUp q)
    (s.glPump q).rereadBells q)

/-- Where a half goes from Active: Detect, or Failed under host-assisted recovery (R288). -/
def State.glNext (s : State) (h : Plane) : Nat := if s.hostRecovery h then 6 else 1

/-- Halyard fails: a plane whose messages crossed it has them on no half any more, or on its own (R271). -/
def State.glHalLost (s : State) (q : Plane) : State :=
  let s := ((s.bellsOff q q.other).glMove q q.other).setFlag q Fld.HIF_LINK_STAT.VIA_HAL 0 false
  (s.glPump q).rereadBells q

/-- Halyard returns: a plane whose own half is not Active reaches the other one (R271). -/
def State.glHalBack (s : State) (q : Plane) : State :=
  if s.glStage q ≠ 5 ∧ s.glStage q.other = 5 then
    ((s.setFlag q Fld.HIF_LINK_STAT.VIA_HAL 0 true).glPump q).rereadBells q
  else s

/-- The answers of a plane on the other half have all come: its requests move back to its own (R271). -/
def State.viaUpdate (s : State) (q : Plane) : State :=
  if s.glStage q = 5 ∧ s.flag q Fld.HIF_LINK_STAT.VIA_HAL 0 ∧ (s.pl q).hif.outst.all (fun r => r.half == q) then
    (s.setFlag q Fld.HIF_LINK_STAT.VIA_HAL 0 false).glPump q
  else s

/-- A half enters Active (R263): GL_HALF_UP. `req` is the companion processor's initial REQ credit. -/
def State.glUp (s : State) (h : Plane) (req : Nat) : State :=
  let m := (s.half h).act
  let (f, s) := s.takeFree
  let s := s.modHalf h (fun x => { x with
    retries := 0
    reason := 0
    txSeq := 0
    rxSeq := 0xfff
    store := []
    txq := []
    resends := 0
    credReq := req
    frSnp := 0
    frMmio := 0 })
  let s := (s.setGl h 5).setF h Fld.HIF_LINK_STAT.WIDTH 0 (glWidth m)
  let s := s.setFree h Fld.HIF_LINK_STAT.RTT 0 (Config.freeNat f % 65536)
  let s := s.setFlag h.other Fld.HIF_LINK_STAT.OTHER_UP 0 true
  let s := s.raise h 0x0803 (wn h.num) [wn (if m = 0xFF then 8 else 4)]
  s.both (fun q s =>
    let s := if q = h then s.viaUpdate q
      else s.setFlag q Fld.HIF_LINK_STAT.VIA_HAL 0 (decide (s.glStage q ≠ 5) && s.halUp q)
    (s.glPump q).rereadBells q)

/-- SLOT0 of the device's INIT flits, read as a message header (R264): 0x4C47, the plane, version 1, and its credit in
slots: no REQ, 64 SNP and 256 MMIO (R266). -/
def glInitMsg (h : Plane) : GlMsg := ⟨0x47, 0x4C, BitVec.ofNat 16 (256 + h.num), BitVec.ofNat 32 (65536 * 64), 256, []⟩

/-- A flit arrives while a half is being brought up (Table 9.1): flits with good CRC give lock, and 8 INIT flits received
and sent give Active. The device answers each INIT flit with one of its own (log entry 130). CRC errors are counted
(R265). -/
def State.glBringup (s : State) (h : Plane) (f : GlFlit) : State :=
  let st := s.glStage h
  let s := if (st = 3 ∨ st = 4) ∧ f.crcOk = false then s.count h Fld.HIF_GL_CRC.N 0 else s
  match st with
  | 3 =>
    let n := if f.crcOk then (s.half h).good + 1 else 0
    let s := s.modHalf h (fun x => { x with good := n })
    if 8 ≤ n then s.setGl h 4 else s
  | 4 =>
    match f.crcOk && f.kind == 1, f.msgs with
    | true, i :: _ =>
      if i.code = 0x47 ∧ i.status = 0x4C ∧ i.mtag.toNat / 256 = 1 then
        let s := (s.modHalf h (fun x => { x with initRx := x.initRx + 1, initTx := x.initTx + 1 })).emit
          (.gl h ⟨[glInitMsg h], 0, 1, 0, false, 0, 0, 0, true⟩)
        if 8 ≤ (s.half h).initRx ∧ 8 ≤ (s.half h).initTx then s.glUp h (i.arg.toNat % 65536) else s
      else s.modHalf h (fun x => { x with initRx := 0 })
    | _, _ => s.modHalf h (fun x => { x with initRx := 0 })
  | _ => s

/-! ## Training of a half (R43, R44, R262) -/

def State.glLane (s : State) (h : Plane) (k : Nat) : LaneSt := mget {} k (s.half h).lanes
def State.modGlLane (s : State) (h : Plane) (k : Nat) (f : LaneSt → LaneSt) : State :=
  s.modHalf h (fun x => { x with lanes := mmod {} k f x.lanes })

/-- A half trains: every detected lane starts afresh, and its first frame requests preset 1. -/
def State.glTrain (s : State) (h : Plane) : State :=
  (s.modHalf h (fun x => { x with lanes := (onesOf 8 x.det).map (fun k => (k, { reqPre := 1 })) })).setGl h 2

/-- Does a lane of a half train. -/
def State.glTrains (s : State) (h : Plane) (k : Nat) : Bool := s.glOn h && s.glStage h == 2 && bit k (s.half h).det

/-- The report of one tap of a half's three (R262): the limits of the taps are not stated, so whether a request is
carried out or meets one is a free value. -/
def glTap (free req rep : Nat) : Nat := if req = 0 then 0 else if rep ≠ 0 ∨ req = 3 then rep else 1 + free % 2

/-- The responder's part: c(−3) and c(−2) are not supported. -/
def LaneSt.glAnswer (x : LaneSt) (free pre : Nat) (ra rb : Byte) : LaneSt :=
  if pre ≠ 0 then { x with statPre := 1 }
  else
    let no := fun (t : Nat) => if tap2 ra t = 0 then 0 else 3
    { x with
      statA := BitVec.ofNat 8 (64 * no 0 + 16 * no 1 + 4 * glTap free (tap2 ra 2) (tap2 x.statA 2) +
        glTap (free / 2) (tap2 ra 3) (tap2 x.statA 3))
      statB := BitVec.ofNat 8 (64 * glTap (free / 4) (tap2 rb 0) (tap2 x.statB 0))
      statPre := 0 }

/-- Lane k of a half has sent and received RX_READY in 16 frames in a row; once every detected lane has, the half locks
(Table 9.1). -/
def State.glLaneTrained (s : State) (h : Plane) (k : Nat) : State :=
  let x := s.glLane h k
  let s := if 16 ≤ x.readySent ∧ 16 ≤ x.readyGot then s.modGlLane h k (fun x => { x with trained := true }) else s
  let m := glSet ((s.half h).det - Nat.land (s.half h).det (s.half h).failed)
  if m ≠ 0 ∧ (onesOf 8 (s.half h).det).all (fun k => (s.glLane h k).trained) = true then
    (s.modHalf h (fun x => { x with act := m, good := 0 })).setGl h 3
  else s

/-- A training frame on a lane of a half. -/
def State.glTrainFrame (s : State) (h : Plane) (k : Nat) (b : Bytes) (converged : Bool) : State :=
  let n := leNat (slice 0 16 b)
  if bits 7 0 n ≠ 0xA5 ∨ bits 127 112 n ≠ crcMsb 16 0x1021 0xFFFF (slice 0 14 b) then s else
    let f := Config.freeNat s.free
    let s := s.takeFree.2.modGlLane h k (fun x =>
      let x := x.glAnswer f (bits 14 12 n) (BitVec.ofNat 8 (bits 23 16 n)) (BitVec.ofNat 8 (bits 31 24 n))
      let x := x.ask (f / 8) 0x0F (bits 45 44 n) (BitVec.ofNat 8 (bits 39 32 n)) (BitVec.ofNat 8 (bits 47 46 n * 64))
        converged
      { x with readyGot := if bit 15 n then x.readyGot + 1 else 0 })
    s.glLaneTrained h k

/-- A training frame leaves on a lane of a half. Its lane number is that of GL0 to GL15 (log entry 130). -/
def State.glSendTrain (s : State) (h : Plane) (k : Nat) : State :=
  let x := s.glLane h k
  let s := s.emit (.trainFrame h (576 + k) (trainBytes (8 * h.num + k) x.frames x))
  (s.modGlLane h k (fun y => { y with
    frames := y.frames + 1
    readySent := if y.ready then y.readySent + 1 else 0 })).glLaneTrained h k

/-! ## Rings: interrupts and the status line -/

/-- Entries of a ring without their CMP. -/
def State.entriesOut (s : State) (p : Plane) (r : Nat) : Bool := s.entryOut p r || !(s.ring p r).held.isEmpty

/-- An entry that the status line reports has no CMP yet. -/
def State.reportOut (s : State) (p : Plane) : Bool := [1, 2, 3].any (s.entriesOut p)

/-- The 64 bytes of the status line (Table 9.6). -/
def State.statBytes (s : State) (p : Plane) : Bytes :=
  leBytes 4 (s.ring p 0).ci.toNat ++ leBytes 4 (s.ring p 1).pi.toNat ++ leBytes 4 (s.ring p 2).pi.toNat ++
    leBytes 4 (s.ring p 3).pi.toNat ++ leBytes 4 (s.pl p).hif.lostRing.toNat ++ [0, 0, 0, 0] ++
    leBytes 8 (s.now p).toNat ++ List.replicate 32 0

/-- The status line is written (R278). -/
def State.statWrite (s : State) (p : Plane) : State :=
  (s.modHif p (fun x => { x with statDue := false })).pushLine p (s.lineAddr p .HIF_STAT_ADDR)
    (s.statBytes p) .status

/-- Is ring r armed (R287). -/
def RingSt.armed (x : RingSt) : Bool := x.arm != x.latched

/-- INTR of ring r, after the status line, once every entry that the line reports has its CMP (R278, R286, R287). `now` says that
COAL_TIME has passed. -/
def State.intrCheck (s : State) (p : Plane) (r : Nat) (now : Bool) : State :=
  let x := s.ring p r
  if s.ringOn p r ∧ x.armed ∧ 0 < x.unsig then
    if now ∨ x.force ∨ max 1 (s.fld p Fld.HIF_RING_CFG.COAL_CNT r) ≤ x.unsig then
      if s.reportOut p then s.modRing p r (fun x => { x with force := true })
      else
        let s := s.statWrite p
        let s := s.modRing p r (fun x => { x with latched := x.arm, unsig := 0, force := false })
        (s.count p Fld.HIF_INTR_CNT.N 0).glRequest p
          (glMsg 0x05 (BitVec.ofNat 32 (s.fld p Fld.HIF_RING_VEC.VEC r)) 0 []) .intr
    else s
  else s
def State.intrAll (s : State) (p : Plane) : State := s.each [1, 2, 3] (fun r s => s.intrCheck p r false)

/-! ## Commands -/

/-- Host activity of a plane (R290), by which a plane regains its host (R292). -/
def State.hostActive (s : State) (p : Plane) : State :=
  let t := s.ticks
  s.modHif p (fun x => { x with active := t })

/-- The 64 bytes of a CPLQ entry (Table 9.9), PHASE apart. -/
def cplBytes (op : Nat) (tag : BitVec 16) (status : Nat) (sIgn : Bool) (idx done result : Nat) (time : BitVec 64) : Bytes :=
  [0] ++ leBytes 1 op ++ leBytes 2 tag.toNat ++ leBytes 1 status ++ leBytes 1 (b2n sIgn) ++ [0, 0] ++ leBytes 4 idx ++
    leBytes 4 done ++ leBytes 4 result ++ [0, 0, 0, 0] ++ leBytes 8 time.toNat ++ List.replicate 32 0

/-- A command completes: its CPLQ entry is written, it is counted, and the next index stands (R279, R280). -/
def State.cmdDone (s : State) (p : Plane) (op : Nat) (tag : BitVec 16) (intr : Bool) (status : Nat) (sIgn : Bool)
    (done result : Nat) : State :=
  let i := (s.pl p).hif.done
  let s := s.modHif p (fun x => { x with
    done := i + 1
    fetched := x.fetched.filter (fun f => f.1 ≠ i)
    statDue := true })
  let s := s.modRing p 0 (fun x => { x with ci := i + 1 })
  let s := s.setWord p .HIF_RING_IDX 0 0 (i + 1)
  let s := s.count p Fld.HIF_CMD_CNT.N 0
  (s.ringWrite p 1 (cplBytes op tag status sIgn i.toNat done result (s.now p)) intr).intrCheck p 1 false

/-- Commands that need no performing: those after a disabling of CMDQ (R280, FLUSHED), and one whose descriptor read was
answered FAULT, whose OP and TAG the spec does not state. -/
def State.cmdFlush1 (s : State) (p : Plane) : State :=
  if s.ringRoom p 1 ∧ (s.pl p).hif.adapt = none then
    match (s.pl p).hif.fetched.find? (fun f => f.1 == (s.pl p).hif.done) with
    | some (_, []) =>
      let (f, s) := s.takeFree
      s.cmdDone p (Config.freeNat f % 256) (BitVec.ofNat 16 (Config.freeNat f / 256)) false 3 false 0 0
    | some (_, b) =>
      if s.ringOn p 0 then s
      else s.cmdDone p (leNat (slice 0 1 b)) (BitVec.ofNat 16 (leNat (slice 2 2 b))) (bit 0 (leNat (slice 1 1 b))) 5
        false 0 0
    | none => s
  else s
def State.cmdFlush (s : State) (p : Plane) : State := s.each (s.pl p).hif.fetched (fun _ s => s.cmdFlush1 p)

/-- HOST_FAULT (Table 9.11). -/
def State.hostFault (s : State) (p : Plane) (r cause : Nat) (addr : Nat) : State :=
  s.raise p 0x0801 (wn r) [wn cause, wn addr, wn (addr / 2 ^ 32)]

/-- A fresh command doorbell copy (R276): new commands are fetched. -/
def State.cmdBellRead (s : State) (p : Plane) : State :=
  let x := s.ring p 0
  let pi := BitVec.ofNat 32 (leNat (slice 0 4 (s.pl p).hif.cmdBell.copy))
  let n := (pi - x.ci).toNat
  if s.ringSize p 0 < n then
    (s.modHif p (fun y => { y with cmdBell := { y.cmdBell with stuck := true } })).hostFault p 0 1
      (s.lineAddr p .HIF_DB_ADDR)
  else if n ≤ (x.pi - x.ci).toNat then s
  else
    let k := (pi - x.pi).toNat
    let s := s.modRing p 0 (fun y => { y with pi := pi })
    s.each (List.range k) (fun j s =>
      let i := x.pi + BitVec.ofNat 32 j
      s.glRequest p (glMsg 0x02 0 (BitVec.ofNat 64 (s.ringBase p 0 + 64 * (i.toNat % s.ringSize p 0))) []) (.descr i))

/-- A fresh consumer doorbell copy (R275, R276, R287): consumer indices, arming values and KEEPALIVE. -/
def State.ciBellRead (s : State) (p : Plane) : State :=
  let b := (s.pl p).hif.ciBell.copy
  let s := s.each [1, 2, 3] (fun r s =>
    if s.ringOn p r then
      let x := s.ring p r
      let ci := BitVec.ofNat 32 (leNat (slice (4 * (r - 1)) 4 b))
      let arm := BitVec.ofNat 8 (leNat (slice (11 + r) 1 b))
      s.modRing p r (fun y => { y with
        arm := arm
        ci := if (ci - x.ci).toNat ≤ x.fill then ci else x.ci
        unsig := if (ci - x.ci).toNat ≤ x.fill then min y.unsig (y.pi - ci).toNat else y.unsig })
    else s)
  let keep := BitVec.ofNat 32 (leNat (slice 16 4 b))
  let s := if keep = (s.pl p).hif.keep then s else s.hostActive p
  let s := s.modHif p (fun x => { x with keep := keep })
  ((s.evtPump p).cmdFlush p).intrAll p

/-! ## Enabling and disabling -/

/-- ARMr of a held consumer doorbell line; 0 where none is held. -/
def State.armHeld (s : State) (p : Plane) (r : Nat) : Byte :=
  if (s.pl p).hif.ciBell.shared then BitVec.ofNat 8 (leNat (slice (11 + r) 1 (s.pl p).hif.ciBell.copy)) else 0

/-- Ring r is enabled (R273, R276, R287): its indices and its arming value start at 0. -/
def State.ringEnable (s : State) (p : Plane) (r : Nat) : State :=
  if s.ringOn p r then s else
    let s := s.setF p Fld.HIF_CTL.EN 0 (setBits r r (s.fld p Fld.HIF_CTL.EN 0) 1)
    let x := s.ring p r
    let arm := if r = 0 then 0 else s.armHeld p r
    let s := s.modRing p r (fun _ => { arm := arm })
    let s := s.setWord p .HIF_RING_IDX r 0 0
    let s := if (r = 0 ∧ x.ci ≠ 0) ∨ (r ≠ 0 ∧ x.pi ≠ 0) then s.modHif p (fun x => { x with statDue := true }) else s
    let s := if r = 0 then s.modHif p (fun x => { x with
        done := 0
        fetched := []
        cmdBell := { x.cmdBell with stuck := false } }) else s
    let s := if r = 2 then s.modHif p (fun x => { x with lostRing := 0 }) else s
    (s.rereadBells p).evtPump p

/-- A doorbell line that no enabled ring uses is released with EVICT (Table 9.16). -/
def State.releaseBells (s : State) (p : Plane) : State :=
  let s := if (s.pl p).hif.cmdBell.shared ∧ ¬ s.cmdUsed p then
      (s.modHif p (fun x => { x with cmdBell := { x.cmdBell with shared := false } })).glRequest p
        (glMsg 0x04 0 (BitVec.ofNat 64 (s.lineAddr p .HIF_DB_ADDR)) []) .evict
    else s
  if (s.pl p).hif.ciBell.shared ∧ ¬ s.ciUsed p then
    (s.modHif p (fun x => { x with ciBell := { x.ciBell with shared := false } })).glRequest p
      (glMsg 0x04 0 (BitVec.ofNat 64 (s.lineAddr p .HIF_CI_ADDR)) []) .evict
  else s

/-- Ring r is disabled (R280): with CMDQ, the commands already taken are flushed. -/
def State.ringDisable (s : State) (p : Plane) (r : Nat) : State :=
  if s.ringOn p r then
    let s := s.setF p Fld.HIF_CTL.EN 0 (setBits r r (s.fld p Fld.HIF_CTL.EN 0) 0)
    (s.releaseBells p).cmdFlush p
  else s

/-- A write of HIF_CTL. -/
def State.hifCtl (s : State) (p : Plane) (en : Nat) : State :=
  s.each [0, 1, 2, 3] (fun r s => if bit r en then s.ringEnable p r else s.ringDisable p r)

/-! ## Function modes -/

/-- HIF_FUNC_MODE changes; each changed bit raises MODE_CHANGE with the cause (R289, R290). -/
def State.funcMode (s : State) (p : Plane) (v cause : Nat) : State :=
  let old := s.fld p Fld.HIF_FUNC_MODE.MODE 0
  let s := s.setF p Fld.HIF_FUNC_MODE.MODE 0 (v % 128)
  s.each ((List.range 7).filter (fun f => bit f old != bit f v)) (fun f s =>
    s.raise p 0x0805 (wn f) [wn (b2n (bit f v)), wn cause])

/-! ## Messages from the host -/

/-- The plane whose outstanding request on a half a response answers. -/
def State.answering (s : State) (h : Plane) (tag : BitVec 16) : Option (Plane × GlReq) :=
  planes.findSome? (fun q => ((s.pl q).hif.outst.find? (fun r => r.half == h && r.msg.mtag == tag)).map (fun r => (q, r)))

/-- An answered request is outstanding no more. -/
def State.answered (s : State) (q : Plane) (r : GlReq) : State :=
  (s.modHif q (fun x => { x with outst := x.outst.erase r })).viaUpdate q

/-- A read answered FAULT (R280, Table 9.11). -/
def State.readFault (s : State) (q : Plane) (r : GlReq) (ring : Nat) : State :=
  (s.count q Fld.HIF_HOST_FAULT.N 0).hostFault q ring 0 r.msg.addr.toNat

/-- DATA of the command doorbell's line (R268, R269). -/
def State.dataCmdBell (s : State) (q : Plane) (r : GlReq) (ok : Bool) (line : Bytes) : State :=
  let s := (s.answered q r).modHif q (fun x => { x with cmdBell := { x.cmdBell with
    reads := x.cmdBell.reads - 1
    shared := ok || x.cmdBell.shared
    copy := if ok then slice 0 64 line else x.cmdBell.copy
    half := if ok then r.half else x.cmdBell.half } })
  if ok then if s.ringOn q 0 then s.cmdBellRead q else s.releaseBells q else s.readFault q r 0

/-- DATA of the CI doorbell's line (R276). -/
def State.dataCiBell (s : State) (q : Plane) (r : GlReq) (ok : Bool) (line : Bytes) : State :=
  let s := (s.answered q r).modHif q (fun x => { x with ciBell := { x.ciBell with
    reads := x.ciBell.reads - 1
    shared := ok || x.ciBell.shared
    copy := if ok then slice 0 64 line else x.ciBell.copy
    half := if ok then r.half else x.ciBell.half } })
  if ok then if s.ciUsed q then s.ciBellRead q else s.releaseBells q else s.readFault q r 1

/-- DATA of a descriptor (R269). -/
def State.dataDescr (s : State) (q : Plane) (r : GlReq) (i : Word) (ok : Bool) (line : Bytes) : State :=
  let s := (s.answered q r).modHif q (fun x => { x with fetched := x.fetched ++ [(i, if ok then slice 0 64 line else [])] })
  (if ok then s else s.readFault q r 0).cmdFlush q

/-- A data line of the command in progress is answered (R279, R280): FAULT makes its status HOST_FAULT. -/
def State.lineAnswer (s : State) (q : Plane) (r : GlReq) (ok : Bool) : State :=
  let s := s.answered q r
  if ok then s
  else (s.readFault q r 0).modHif q (fun x => { x with ending := x.ending.map (fun e => { e with status := 3 }) })

/-- DATA (R268, R269, R276): a response to a request that is not outstanding is discarded. -/
def State.glData (s : State) (h : Plane) (m : GlMsg) : State :=
  match s.answering h m.mtag with
  | none => s
  | some (q, r) =>
    match r.what with
    | .cmdBell => s.dataCmdBell q r (decide (m.status = 0)) m.line
    | .ciBell => s.dataCiBell q r (decide (m.status = 0)) m.line
    | .descr i => s.dataDescr q r i (decide (m.status = 0)) m.line
    | .dataLine => s.lineAnswer q r (decide (m.status = 0))
    | _ => s

/-- CMP (R270, R274, R278, R286). -/
def State.glCmp (s : State) (h : Plane) (m : GlMsg) : State :=
  match s.answering h m.mtag with
  | none => s
  | some (q, r) =>
    let bad := fun (ring : Nat) (s : State) => if m.status = 0 then s else s.readFault q r ring
    match r.what with
    | .entry k i _ =>
      let s := bad k (s.answered q r)
      let s := if s.entryOut q k then s
        else (s.modRing q k (fun x => { x with valid := i + 1 })).ringPump q k
      s.intrAll q
    | .status | .evict => bad 1 (s.answered q r)
    | .dataLine => s.lineAnswer q r (decide (m.status = 0))
    | _ => s

/-- SNP_INV (R269): answered in any state; a doorbell line is invalid and read again. -/
def State.snpInv (s : State) (h : Plane) (m : GlMsg) : State :=
  let s := s.glOut h (glMsg 0x14 0 m.addr [] |> fun r => { r with mtag := m.mtag })
  let s := s.modHalf h (fun x => { x with frSnp := x.frSnp + 1 })
  let a := m.addr.toNat / 64 * 64
  s.both (fun q s =>
    let s := if s.cmdUsed q ∧ s.lineAddr q .HIF_DB_ADDR = a then
        let s := (s.hostActive q).modHif q (fun x => { x with
          cmdBell := { x.cmdBell with shared := false, stuck := false, reads := x.cmdBell.reads + 1 } })
        s.glRequest q (glMsg 0x01 0 (BitVec.ofNat 64 a) []) .cmdBell
      else s
    if s.ciUsed q ∧ s.lineAddr q .HIF_CI_ADDR = a then
      let s := (s.hostActive q).modHif q (fun x => { x with
        ciBell := { x.ciBell with shared := false, reads := x.ciBell.reads + 1 } })
      s.glRequest q (glMsg 0x01 0 (BitVec.ofNat 64 a) []) .ciBell
    else s)

/-! ## Replay -/

/-- The acknowledgment of a flit (R163, R265): flits up to ACK_SEQ are released; NAK resends the rest. -/
def State.glAck (s : State) (h : Plane) (ack : BitVec 12) (nak : Bool) : State :=
  let old := (s.half h).store
  let keep := old.filter (fun e => decide (0 < (e.txSeq - ack).toNat ∧ (e.txSeq - ack).toNat < 2048))
  let s := s.modHalf h (fun x => { x with
    store := keep
    resends := if keep.length < old.length then 0 else x.resends })
  let s := s.glDrain h
  if nak ∧ keep ≠ [] then
    let n := (s.half h).resends + 1
    let s := s.modHalf h (fun x => { x with resends := n })
    if max 1 (s.fld h Fld.HIF_LINK_CFG.RETRY_MAX 0) < n then s.glDown h 0 (s.glNext h)
    else
      let l := keep.map (fun e => { e with ackSeq := (s.half h).rxSeq, nak := false })
      let s := s.modHalf h (fun x => { x with store := l })
      (s.each l (fun e s => s.emit (.gl h e))).countN h Fld.HIF_GL_REPLAY.N 0 l.length
  else s

/-! ## Meanings -/

/-- GL_DETECT_SENSE (R42, R262): a lane is detected after two senses in a row that agree. -/
def execGlDetectSense (half : Plane) (mask : Byte) (s : State) : Res :=
  goOn (s.when (s.glOn half && s.glStage half == 1) (fun s =>
    let m := Nat.land (s.half half).sensed mask.toNat
    let s := s.modHalf half (fun x => { x with sensed := mask.toNat, det := m })
    if 4 ≤ (onesOf 8 m).length then s.glTrain half else s))

/-- GL_STAGE_TIMEOUT (R263): Train, Lock or Init has exceeded its limit. Codes of Table 2.8. -/
def execGlStageTimeout (half : Plane) (s : State) : Res :=
  let st := s.glStage half
  goOn (s.when (s.glOn half && decide (2 ≤ st ∧ st ≤ 4)) (fun s => s.glFail half (8 + st)))

/-- GL_INIT_FLIT (R264). -/
def execGlInitFlit (half : Plane) (f : GlFlit) (s : State) : Res :=
  goOn (s.when (s.glOn half) (·.glBringup half f))

/-- A lane of a half fails (R263). -/
def State.glLaneFail (s : State) (h : Plane) (lane : Nat) : State :=
  let s := s.modHalf h (fun x => { x with failed := Nat.lor x.failed (2 ^ lane) })
  if bit lane (s.half h).act then
    let m := glSet ((s.half h).det - Nat.land (s.half h).det (s.half h).failed)
    if m = 0 then s.glDown h 0xD (s.glNext h)
    else (s.modHalf h (fun x => { x with act := m })).setF h Fld.HIF_LINK_STAT.WIDTH 0 (glWidth m)
  else s
def execGlLaneFail (half : Plane) (lane : Fin 8) (s : State) : Res :=
  goOn (s.when (s.glOn half && s.glStage half == 5) (·.glLaneFail half lane))

/-- GL_HALF_DOWN (R271). -/
def execGlHalfDown (half : Plane) (s : State) : Res :=
  goOn (s.when (s.glOn half && s.glStage half == 5) (fun s => s.glDown half 0 (s.glNext half)))

/-- RETRAIN (R263). -/
def State.glRetrain (s : State) (h : Plane) : State :=
  if s.flag h Fld.HIF_LINK_CFG.EN 0 then
    let s := if s.glStage h = 5 then s.glDown h 0 1 else s
    (s.modHalf h (fun x => { x with retries := 0 })).glDetect h
  else s
def execGlRetrain (half : Plane) (s : State) : Res := goOn (s.when (s.live half) (·.glRetrain half))

/-- A write of HIF_LINK_CFG.EN (Table 9.16). -/
def State.glEn (s : State) (h : Plane) (en : Bool) : State :=
  let old := s.flag h Fld.HIF_LINK_CFG.EN 0
  let s := if old ∧ ¬ en ∧ s.glStage h = 5 then s.glDown h 0 0 else s
  let s := s.setFlag h Fld.HIF_LINK_CFG.EN 0 en
  if en = old then s else if en then s.glDetect h else s.setGl h 0

/-- TRAINING_FRAME, TRAINING_FRAME_SEND (R43, R44): lanes 576 to 583 are those of the plane's Gnotric Link half (R262).
In Half-mast the failed lanes listen for training frames (R59). -/
def execTrainingFrame (p : Plane) (lane : Fin 584) (bytes : Bytes) (converged : Bool) (s : State) : Res :=
  goOn (if lane.val < 576 then s.onLane p lane (fun i s =>
      let s := if s.stage p i = 5 ∧ bit (lane - i) (s.idleMask p i) then s.startRestore p i else s
      if s.trains p i lane then s.trainFrame p i lane bytes converged else s)
    else s.when (s.glTrains p (lane - 576)) (·.glTrainFrame p (lane - 576) bytes converged))
def execTrainingFrameSend (p : Plane) (lane : Fin 584) (s : State) : Res :=
  goOn (if lane.val < 576 then s.onLane p lane (fun i s => if s.trains p i lane then s.sendTrain p i lane else s)
    else s.when (s.glTrains p (lane - 576)) (·.glSendTrain p (lane - 576)))

/-- SNP_INV (R269). -/
def execSnpInv (half : Plane) (m : GlMsg) (s : State) : Res :=
  goOn (s.when (s.glOn half && s.glStage half == 5) (·.snpInv half m))

/-- RING_ENABLE, RING_DISABLE: writes of HIF_CTL (R273, R280). -/
def execRingEnable (p : Plane) (r : Ring) (s : State) : Res := goOn (s.when (s.live p) (·.ringEnable p r.num))
def execRingDisable (p : Plane) (r : Ring) (s : State) : Res := goOn (s.when (s.live p) (·.ringDisable p r.num))

/-- STATUS_LINE_WRITE (R278): STAT_INT has passed since the last write, and every entry reported has its CMP. -/
def execStatusLineWrite (p : Plane) (s : State) : Res :=
  goOn (s.when (s.live p && (s.pl p).hif.statDue && !s.reportOut p) (·.statWrite p))

/-- INTR_COALESCE (R287): COAL_TIME has passed since the first entry not signalled. -/
def execIntrCoalesce (p : Plane) (r : Ring) (s : State) : Res :=
  goOn (s.when (s.live p && decide (r ≠ .cmdq)) (fun s => s.intrCheck p r.num true))

/-- EVENT_RAISE (R282). -/
def execEventRaise (p : Plane) (code : BitVec 16) (unit : Word) (args : List Word) (s : State) : Res :=
  goOn (s.when (s.live p) (fun s => s.raise p code unit args))

/-- EVT_HOLD_END (R282): the pair's tracker is freed, and what it held back is written once, unless its code is masked
now. -/
def execEvtHoldEnd (p : Plane) (code : BitVec 16) (unit : Word) (s : State) : Res :=
  goOn (s.when (s.live p) (fun s =>
    match (s.pl p).hif.trackers.find? (fun t => t.code == code && t.unit == unit) with
    | none => s
    | some t =>
      let s := s.modHif p (fun x => { x with trackers := x.trackers.erase t })
      if t.held = 0 ∨ s.evtMasked p code = true then s else s.evtStore p { t.last with rep := BitVec.ofNat 32 t.held }))

/-- FUNC_MODE_WRITE (R289). -/
def execFuncModeWrite (p : Plane) (v : Word) (s : State) : Res := goOn (s.when (s.live p) (fun s => s.funcMode p v.toNat 0))

end Sys2Proof.Machine
end

