-- ==== Sys2Proof/Machine/CantonBase.lean ====
section
/-! DEFINITION. What every management command uses (R326, R327, R330): cap registers, the floor, PWR_OFF_REQ. -/

namespace Sys2Proof.Machine

/-! ## Caps and the floor (R326, R330) -/

/-- The variant's maximum power in W (R23). -/
def State.maxPower (s : State) : Nat := if s.pkg.optical then 2750 else 2200

/-- The effective cap at a plane: the lowest cap in force (R326). -/
def State.effCap (s : State) (p : Plane) : Nat :=
  let caps := [s.fld p Fld.CAN_CAP_RM.CAP 0, s.fld p Fld.CAN_CAP_TRAY.CAP 0, s.fld p Fld.CAN_CAP_HOST.CAP 0,
    s.fld p Fld.CAN_CAP_THERM.CAP 0]
  (caps.filter (· ≠ 0)).foldl min s.maxPower

def State.floor (s : State) (p : Plane) : Nat := s.fld p Fld.CAN_PWR_STAT.FLOOR 0

/-- The core clock of a throttle level in MHz (Table 10.11). -/
def levelMhz (n : Nat) : Nat :=
  if n ≤ 2 then 1600 else if n = 3 then 1400 else if n = 4 then 1200 else if n = 5 then 1000 else if n = 6 then 800 else 400

/-- The throttle's level as the registers show it (Table 1.9, Table 10.14). -/
def State.showLevel (s : State) : State :=
  let s := s.both (fun q s => if s.flag q Fld.TOP_CLK_STAT.CORE_LOCK 0 then
    s.setF q Fld.TOP_CLK_STAT.CORE_MHZ 0 (levelMhz (s.thrLevel q)) else s)
  s.bothF Fld.CAN_PWR_STAT.LEVEL (max (s.thrLevel .hoist) (s.thrLevel .fly))

/-- Level 7 is held in the planes named, and UNMEET with CAP_UNMEET unless it is set already (R330). -/
def State.unmeet (s : State) (p : Plane) (ps : List Plane) : State :=
  let was := s.flag p Fld.CAN_PWR_STAT.UNMEET 0
  let s := s.each ps (fun q s => s.modCan q (fun x => { x with held7 := true }))
  let s := (s.pkgF p Fld.CAN_PWR_STAT.UNMEET 0 1).showLevel
  if was then s else s.hwEvent 0x0906 p.num [s.effCap p, s.floor p]

/-- The journal's key of a cap register. -/
def capKey (f : Fld) : Nat :=
  if f = Fld.CAN_CAP_RM.CAP then 8 else if f = Fld.CAN_CAP_TRAY.CAP then 9 else if f = Fld.CAN_CAP_HOST.CAP then 10 else 11

/-- A cap register of plane `p` is written (R326), and the cap in force is compared with the floor at once (R330). -/
def State.setCap (s : State) (p : Plane) (f : Fld) (w : Nat) : State :=
  let s := (s.pkgF p f 0 w).journalAdd 0 (capKey f) (leBytes 2 w)
  if s.effCap p < s.floor p then s.unmeet p (if s.pkg.split then [p] else planes) else s

/-- Lanes in Active of a plane. -/
def State.activeLanes (s : State) (p : Plane) : Nat :=
  ((s.activePorts p).map (fun i => popcount 16 (s.fld p Fld.LNE_PORT_STAT.ACT_MASK i))).sum

/-- The floor at the present port count in W (R330). -/
def State.floorNow (s : State) : Nat :=
  let n := s.activeLanes .hoist + s.activeLanes .fly
  (465000 + (if s.pkg.optical then 1261 else 784) * n) / 1000

/-! ## PWR_OFF_REQ (R327, R331, R409) -/

/-- PWR_OFF_REQ is asserted, or deasserted. -/
def State.pwrOff (s : State) (on : Bool) : State :=
  if s.pkg.pwrOffReq = on then s else (s.modPkg (fun x => { x with pwrOffReq := on })).emit (.pwrOff on)

end Sys2Proof.Machine
end

