-- ==== Sys2Proof/Machine/Units.lean ====
section
/-! DEFINITION. Units that fail, are reset, gated, retired and tested (R24, R27, R140, R350, R351, R357 to R360, R371,
R408), and freeze (R361, R362), which a fatal error may cause. -/

namespace Sys2Proof.Machine

/-! ## Freeze -/

/-- A plane stops at its freeze edge (R362): its line drivers are squelched, its laser modules disabled with them (R69), and
nothing more is sent, as every meaning waits on `live`. -/
def State.freezePlane (s : State) (p : Plane) (source : Nat) : State :=
  if s.live p ∧ s.flag p Fld.TOP_CLK_STAT.CORE_LOCK 0 then
    let t := (s.now p).toNat
    let run := s.flag p Fld.EPC_FREEZE_CTL.CANTON_RUN 0
    let s := s.setFlag p Fld.EPC_FREEZE_STAT.FROZEN 0 true
    let s := (s.setFlag p Fld.EPC_FREEZE_STAT.CANTON_RAN 0 run).setF p Fld.EPC_FREEZE_STAT.SOURCE 0 source
    let s := s.setWords p .EPC_FREEZE_TIME 0 [wn t, wn (t / 2 ^ 32)]
    (s.modEpc p (fun x => { x with frozen := true })).lasersOff p
  else s

/-- Freeze codes leave on the cascade port where FWD_CASC of a plane that freezes is 1 (R361). -/
def State.freezeCodes (s : State) (l : List Plane) : State :=
  if l.any (fun q => s.flag q Fld.EPC_FREEZE_CTL.FWD_CASC 0) then (s.emit (.freezeCode .next)).emit (.freezeCode .prev) else s

/-- A freeze that starts in plane `p` and reaches the other plane over Halyard (R361). A Canton that still runs notifies
FREEZE (R362). -/
def State.freezeFrom (s : State) (p : Plane) (source : Nat) : State :=
  if s.live p ∧ s.flag p Fld.TOP_CLK_STAT.CORE_LOCK 0 then
    let up := s.halUp p
    let s := (s.freezeCodes (if up then planes else [p])).halControl p 4 []
    let s := s.freezePlane p source
    let s := if up then s.freezePlane p.other source else s
    s.notify 0x0A09 p.num [source]
  else s

/-- A freeze of the whole package: the pin, or codes on the cascade port. -/
def State.freezeAll (s : State) (source : Nat) : State :=
  if planes.any (fun q => s.live q && s.flag q Fld.TOP_CLK_STAT.CORE_LOCK 0) then
    let s := s.freezeCodes planes
    ((s.freezePlane .hoist source).freezePlane .fly source).notify 0x0A09 0 [source]
  else s

/-- An F error is logged; with ON_FATAL = 1 it freezes the package (R361, R371). -/
def State.logFatal (s : State) (p : Plane) (code unit i0 : Nat) : State :=
  let s := s.logError p code unit i0 0 0
  if s.flag p Fld.EPC_FREEZE_CTL.ON_FATAL 0 then s.freezeFrom p 4 else s

/-! ## Ports of a unit -/

/-- Ports go down because their unit, their plane or the device leaves service: they keep PORT_EN and stay in stage 0.
Their next entry to Active has no hold-down (R356). -/
def State.portsOut (s : State) (p : Plane) (l : List Nat) : State :=
  s.each l (fun i s =>
    let s := s.portDown p i 0 false
    let s := s.resetLanes p i (s.fullMask p i)
    let s := s.modPort p i (fun x => { ident := x.ident })
    ((s.setStage p i 0).showSet p i 0 0 false).setF p Fld.LNE_PORT_STAT.RETRIES i 0)

/-- Enabled ports in stage 0 whose unit is in service start at Detect, while the device is in Active (R352, R354). -/
def State.portsStart (s : State) (p : Plane) (l : List Nat) : State :=
  if s.isActive ∧ ¬ s.pkg.epoHold then
    s.each (l.filter (fun i => s.portEn p i && s.stage p i == 0 && s.unitOk p i)) (fun i s => s.enterDetect p i 0)
  else s

def pgPorts (g : Nat) : List Nat := (List.range 32).map (· + 32 * g)
def State.enabledIn (s : State) (p : Plane) (gs : List Nat) : List Nat := (gs.flatMap pgPorts).filter (s.portEn p)

/-- PG_OK bits. -/
def State.pgOk (s : State) (p : Plane) (g : Nat) : Bool := bit g (s.fld p Fld.TOP_PG_STAT.PG_OK 0)
def State.setBitF (s : State) (p : Plane) (f : Fld) (k : Nat) (b : Bool) : State :=
  s.setF p f 0 (setBit k (s.fld p f 0) b)

/-! ## Failures (R24, Table 1.7) -/

/-- A PG leaves service. -/
def State.pgFail (s : State) (p : Plane) (g : Nat) : State :=
  if s.pgOk p g then
    let s := s.setBitF p Fld.TOP_PG_STAT.PG_OK g false
    (s.portsOut p (s.enabledIn p [g])).logError p 0x04 g 0 0 0
  else s.suppressError p 0x04 g 0 0 0

/-- An edge chiplet leaves service, and both of its PGs with it. -/
def State.chipletFail (s : State) (p : Plane) (c : Nat) : State :=
  if bit c (s.fld p Fld.TOP_UNIT_STAT.CHIPLET_OK 0) then
    let s := s.setBitF p Fld.TOP_UNIT_STAT.CHIPLET_OK c false
    let s := (s.setBitF p Fld.TOP_PG_STAT.PG_OK (2 * c) false).setBitF p Fld.TOP_PG_STAT.PG_OK (2 * c + 1) false
    (s.portsOut p (s.enabledIn p [2 * c, 2 * c + 1])).logError p 0x05 c 0 0 0
  else s.suppressError p 0x05 c 0 0 0

/-- The OK bit and the abort of an engine that leaves service: 0 collective, 1 dispatch, 2 memory (R160, R198, R226,
R251). -/
def engOkFld : Nat → Fld
  | 0 => Fld.TOP_PG_STAT.COL_OK
  | 1 => Fld.TOP_PG_STAT.DSP_OK
  | _ => Fld.TOP_PG_STAT.MEM_OK
def engPwrFld : Eng → Fld
  | .col => Fld.EPC_GATE_STAT.COL_PWR
  | .dsp => Fld.EPC_GATE_STAT.DSP_PWR
  | .mem => Fld.EPC_GATE_STAT.MEM_PWR
def engNum : Eng → Nat
  | .col => 0
  | .dsp => 1
  | .mem => 2
def State.engAbort (s : State) (p : Plane) (e : Nat) : State :=
  match e with
  | 0 => s.colAbortAll p 5 false
  | 1 => s.dspAbortAll p 4
  | _ => s.memReset p
def State.engOut (s : State) (p : Plane) (e : Nat) : State :=
  let s := s.engAbort p e
  let s := (s.setFlag p (engOkFld e) 0 false).flushCode p (577 + e)
  if e = 0 ∧ s.halUp p then s.engineSend p else s

/-- An engine fails. -/
def State.engFail (s : State) (p : Plane) (e : Nat) : State :=
  if (s.pl p).epc.engFailed.contains e then s.suppressError p (8 + e) (577 + e) 0 0 0
  else
    let s := s.modEpc p (fun x => { x with engFailed := e :: x.engFailed })
    (s.engOut p e).logError p (8 + e) (577 + e) 0 0 0

/-- A plane fails (R371, Table 1.7): its ports go down, its engines and memory leave service. `cause` is the code of the
entry that triggered it. -/
def State.planeFail (s : State) (p : Plane) (cause : Nat) : State :=
  if (s.pl p).epc.planeFailed then s.suppressError p 0x13 p.num cause 0 0
  else
    let s := s.modEpc p (fun x => { x with planeFailed := true, engFailed := [0, 1, 2] })
    let s := s.portsOut p (s.enabledPorts p)
    let s := ((s.engOut p 0).engOut p 1).engOut p 2
    let s := s.setFlag p Fld.TOP_PG_STAT.PLANE_OK 0 false
    s.logFatal p 0x13 p.num cause

/-- The cells in flight through a spine element. -/
def State.cellsIn (s : State) (p : Plane) (k : Nat) : List Cell := (s.pl p).swc.flight.filter (fun c => c.elem == k)

/-- A spine element leaves service (R140): the cells inside it are lost with cause 3 (R156). -/
def State.spineFail (s : State) (p : Plane) (k : Nat) (lost : List Cell) : State :=
  if bit k (s.fld p Fld.SWC_SPINE_STAT.ELEM_OK 0) then
    let n := s.spineN p - 1
    let s := (s.setBitF p Fld.SWC_SPINE_STAT.ELEM_OK k false).setF p Fld.SWC_SPINE_STAT.N 0 n
    let s := s.raise p 0x0401 (wn k) [wn n]
    let s := s.logError p 0x03 k n 0 0
    let s := s.each lost (fun c s => (s.landed p c).loseCell p c 3)
    if n < 18 then s.planeFail p 0x03 else s
  else s.suppressError p 0x03 k (s.spineN p) 0 0

/-- Spine elements and PGs whose U errors of the last second exceed ESC_U fail (R371). -/
def State.escCheck (s : State) (p : Plane) : State :=
  let lim := s.fld p Fld.EPC_ERR_CFG.ESC_U 0
  if lim = 0 then s else
    let s := s.each (List.range 24) (fun k s =>
      let n := ((mget [] k (s.pl p).epc.eCount).filter (fun t => decide (s.ticks < t + 1600000000))).length
      if lim < n ∧ bit k (s.fld p Fld.SWC_SPINE_STAT.ELEM_OK 0) then s.spineFail p k (s.cellsIn p k) else s)
    s.each (List.range 18) (fun g s =>
      let n := ((mget [] g (s.pl p).epc.uCount).filter (fun t => decide (s.ticks < t + 1600000000))).length
      if lim < n ∧ s.pgOk p g then s.pgFail p g else s)

/-! ## Block resets (R27, R351) -/

/-- The switch core is reset: every code is flushed, and what is in the spine and the resequencers is discarded. -/
def State.swcReset (s : State) (p : Plane) : State :=
  let s := s.setFlag p Fld.TOP_PG_STAT.PLANE_OK 0 false
  let s := s.each ((List.range 581).filter (fun c => decide (0 < s.sideCount p c) || ((s.pl p).swc.pkts.any (fun e =>
      match e.2 with
      | some b => b.codes.contains c
      | none => false)) || (s.pl p).swc.kept.any (fun k => k.pkt.codes.contains c) || (s.tx? p c).isSome))
    (fun c s => s.flushCode p c)
  let n := (s.pl p).swc.kept.length
  let s := s.countN p Fld.SWC_FLUSH_DISC.N 0 n
  s.modSwc p (fun x => { x with
    kept := []
    voqs := []
    stages := []
    flight := []
    reseq := []
    pseqTx := []
    pseqRx := []
    gptr := []
    aptr := []
    deficit := []
    turn := [] })

/-- The test functions are reset (R398). -/
def State.tstReset (s : State) (p : Plane) : State :=
  let s := s.modTst p (fun x => { x with inReset := true })
  let s := s.each (List.range 18) (fun g s => (s.setF p Fld.TST_GEN_STAT.RUN g 0).freeFlows p g)
  let s := s.each (List.range 581) (fun c s => s.endDelay p c)
  s.each ((s.pl p).lfp.eps.filter (fun e => decide (16 ≤ e.1))) (fun e s => s.modEp p e.1 (fun _ => {}))

/-- A write of 1 to a bit of TOP_RST_CTL that is 0 (R27). A reset does not start under the EPO hold, which it could not
release (R331). -/
def rstFld : Blk → Fld
  | .swc => Fld.TOP_RST_CTL.SWC_RST
  | .col => Fld.TOP_RST_CTL.COL_RST
  | .dsp => Fld.TOP_RST_CTL.DSP_RST
  | .mem => Fld.TOP_RST_CTL.MEM_RST
  | .tst => Fld.TOP_RST_CTL.TST_RST
def State.blockReset (s : State) (p : Plane) (b : Blk) : State :=
  if s.runs p ∧ ¬ s.flag p (rstFld b) 0 then
    let s := s.setFlag p (rstFld b) 0 true
    match b with
    | .swc => s.swcReset p
    | .col => s.engOut p 0
    | .dsp => s.engOut p 1
    | .mem => s.engOut p 2
    | .tst => s.tstReset p
  else s

/-- A unit takes the microcode that the Canton has loaded (R360). Units: 0 to 143 the quads, 144 + e the engines. -/
def State.takeUcode (s : State) (p : Plane) (unit : Nat) : State :=
  let v := (s.pl p).can.microcode
  s.modEpc p (fun x => { x with ucode := mset 0 unit v x.ucode })

/-- An engine enters, or enters again, service unless it has failed. -/
def State.engIn (s : State) (p : Plane) (e : Nat) : State :=
  if (s.pl p).epc.inService ∧ ¬ (s.pl p).epc.engFailed.contains e then s.setFlag p (engOkFld e) 0 true else s

/-- A block reset completes. -/
def State.blockDone (s : State) (p : Plane) (b : Blk) : State :=
  if s.flag p (rstFld b) 0 then
    let s := s.setFlag p (rstFld b) 0 false
    match b with
    | .swc => s.setFlag p Fld.TOP_PG_STAT.PLANE_OK 0 (!(s.pl p).epc.planeFailed)
    | .col =>
      let s := (s.takeUcode p 144).engIn p 0
      if s.halUp p then s.engineSend p else s
    | .dsp => (s.takeUcode p 145).engIn p 1
    | .mem => (s.takeUcode p 146).engIn p 2
    | .tst => s.modTst p (fun x => { x with inReset := false })
  else s

/-- The engines of a plane enter service (R352, step 7): its self-tests are done and the active Canton's firmware has
run. Column repairs that the inventory stores are applied first (R318). -/
def State.enginesEnter (s : State) (p : Plane) : State :=
  if s.pkg.fwRan ∧ s.coreUp p ∧ ¬ (s.pl p).epc.inService then
    let reps := s.pkg.inv.repairs.filter (fun r => r.1 / 16 == p.num)
    let s := s.modMem p (fun x => { x with
      fixed := x.fixed ++ (reps.map (fun r => colKey (r.1 % 16) r.2.1 r.2.2.1)).filter (fun k => !x.fixed.contains k) })
    let s := s.each (List.range 16) (fun t s =>
      s.each (dedup ((reps.filter (fun r => r.1 % 16 == t)).map (·.2.1))) (fun sub s =>
        let n := (reps.filter (fun r => r.1 % 16 == t && r.2.1 == sub)).length
        s.modMem p (fun x => { x with spares := mmod 0 (256 * t + sub) (max n) x.spares })))
    let s := s.each (List.range 16) (fun t s =>
      let used := ((List.range 256).map (fun b => mget 0 (256 * t + b) (s.pl p).mem.spares)).sum
      s.setF p Fld.MEM_TILE_STAT.SPARES t (512 - used))
    let s := s.modEpc p (fun x => { x with inService := true })
    ((s.engIn p 0).engIn p 1).engIn p 2
  else s

/-! ## Gating (R357) -/

/-- What keeps a unit powered in Active: a quad an enabled port, or a field of R64 set on a lane; a PG its quads. -/
def State.laneSet (s : State) (p : Plane) (l : Nat) : Bool :=
  s.fld p Fld.LNE_LANE_CFG.LOOPBACK l != 0 || s.fld p Fld.LNE_LANE_CFG.PRBS_GEN l != 0 ||
    s.fld p Fld.LNE_LANE_CFG.PRBS_CHK l != 0 || s.flag p Fld.LNE_LANE_CFG.TX_INV l || s.flag p Fld.LNE_LANE_CFG.RX_INV l

/-- The quads that something keeps powered: those of the enabled ports' lanes, and those of a lane with such a field. -/
def State.quadsNeeded (s : State) (p : Plane) : List Nat :=
  dedup ((s.enabledPorts p).flatMap (fun i =>
      (List.range ((s.portWidth p i + 3) / 4)).map (fun k => i / 4 + k)) ++
    ((s.rows p .LNE_LANE_CFG 0).filter (s.laneSet p)).map (· / 4))
def State.needed (s : State) (p : Plane) : GateUnit → Bool
  | .quad q => (s.quadsNeeded p).contains q.val
  | .pg g => (s.quadsNeeded p).any (fun q => q / 8 == g.val)
  | .eng .col => (s.rows p .COL_GRP_STAT 0).any (fun g => s.gState p g != 0)
  | .eng .dsp => (s.rows p .DSP_LYR_STAT 0).any (fun l => s.lState p l != 0)
  | .eng .mem => (s.winCands p).any (fun w => s.flag p Fld.GWM_WIN.VALID w)

/-- A quad is powered, or gated: its PG is powered while any of its quads is. -/
def State.setQuad (s : State) (p : Plane) (q : Nat) (on : Bool) : State :=
  let s := s.modEpc p (fun x => { x with quads := if on then dedup (q :: x.quads) else x.quads.filter (· ≠ q) })
  s.setBitF p Fld.EPC_GATE_STAT.PG_PWR (q / 8) ((s.pl p).epc.quads.any (fun k => k / 8 == q / 8))

/-- The quads of a PG. -/
def pgQuads (g : Nat) : List Nat := (List.range 8).map (· + 8 * g)

/-- Is a unit powered. -/
def State.powered (s : State) (p : Plane) : GateUnit → Bool
  | .quad q => (s.pl p).epc.quads.contains q.val
  | .pg g => bit g (s.fld p Fld.EPC_GATE_STAT.PG_PWR 0)
  | .eng .col => s.awake p 577
  | .eng .dsp => s.awake p 578
  | .eng .mem => s.awake p 579

/-- A unit is gated. -/
def State.gate (s : State) (p : Plane) (u : GateUnit) : State :=
  match u with
  | .quad q => s.setQuad p q false
  | .pg g => s.each (pgQuads g) (fun q s => s.setQuad p q false)
  | .eng .col => s.setFlag p Fld.EPC_GATE_STAT.COL_PWR 0 false
  | .eng .dsp => s.setFlag p Fld.EPC_GATE_STAT.DSP_PWR 0 false
  | .eng .mem => s.setFlag p Fld.EPC_GATE_STAT.MEM_PWR 0 false

/-- A gated quad, or a gated engine, wakes and takes the microcode loaded (R360). -/
def State.wakeQuad (s : State) (p : Plane) (q : Nat) : State :=
  if (s.pl p).epc.quads.contains q then s else (s.setQuad p q true).takeUcode p q
def State.wakeEng (s : State) (p : Plane) (e : Eng) : State :=
  if s.powered p (.eng e) then s else (s.setFlag p (engPwrFld e) 0 true).takeUcode p (144 + engNum e)

/-- A unit wakes: of a PG the quads that are needed. -/
def State.wake (s : State) (p : Plane) (u : GateUnit) : State :=
  match u with
  | .quad q => s.wakeQuad p q
  | .pg g => s.each ((s.quadsNeeded p).filter (fun q => q / 8 == g.val)) (fun q s => s.wakeQuad p q)
  | .eng e => s.wakeEng p e

/-- On entry to Active the units that are needed are ungated; on leaving it all are gated (R354). -/
def State.ungate (s : State) (p : Plane) : State :=
  let s := s.each (s.quadsNeeded p) (fun q s => s.wakeQuad p q)
  s.each ([Eng.col, .dsp, .mem].filter (fun e => s.needed p (.eng e))) (fun e s => s.wakeEng p e)
def State.gateAll (s : State) (p : Plane) : State :=
  (s.modEpc p (fun x => { x with quads := [] })).setWord p .EPC_GATE_STAT 0 0 0

/-! ## Service actions (R359) -/

/-- A unit named by TYPE and INDEX exists; it is in service; a port of it is enabled. -/
def unitThere (ty ix : Nat) : Bool :=
  match ty with
  | 0 => decide (ix < 18)
  | 1 => decide (ix < 9)
  | 2 => decide (ix < 16)
  | 3 => decide (ix < 24)
  | _ => false
def State.unitIn (s : State) (p : Plane) (ty ix : Nat) : Bool :=
  match ty with
  | 0 => s.pgOk p ix
  | 1 => bit ix (s.fld p Fld.TOP_UNIT_STAT.CHIPLET_OK 0)
  | 2 => bit ix (s.fld p Fld.TOP_UNIT_STAT.TILE_OK 0)
  | _ => bit ix (s.fld p Fld.SWC_SPINE_STAT.ELEM_OK 0)
def State.unitPorts (s : State) (p : Plane) (ty ix : Nat) : List Nat :=
  match ty with
  | 0 => s.enabledIn p [ix]
  | 1 => s.enabledIn p [2 * ix, 2 * ix + 1]
  | _ => []

def State.unitNamed (s : State) (p : Plane) (v : Nat) : State :=
  (s.setF p Fld.EPC_UNIT_CTL.TYPE 0 (bits 27 24 v)).setF p Fld.EPC_UNIT_CTL.INDEX 0 (bits 4 0 v)

/-- RETIRE. -/
def State.retire (s : State) (p : Plane) (ty ix : Nat) : State :=
  if unitThere ty ix ∧ s.unitIn p ty ix ∧ s.unitPorts p ty ix = [] then
    match ty with
    | 0 => s.pgFail p ix
    | 1 => s.chipletFail p ix
    | 2 => s.tileFail p ix
    | _ => s.spineFail p ix (s.cellsIn p ix)
  else s.setFlag p Fld.EPC_UNIT_STAT.REJ 0 true

/-- TEST starts. -/
def State.unitTestStart (s : State) (p : Plane) (ty ix : Nat) : State :=
  if unitThere ty ix ∧ ¬ s.unitIn p ty ix ∧ ¬ s.flag p Fld.EPC_UNIT_STAT.BUSY 0 then
    let s := s.modEpc p (fun x => { x with testing := some (ty, ix) })
    (s.setFlag p Fld.EPC_UNIT_CTL.TEST 0 true).setFlag p Fld.EPC_UNIT_STAT.BUSY 0 true
  else s.setFlag p Fld.EPC_UNIT_STAT.REJ 0 true

/-- A tile returns zeroed: its space goes back to the allocators, first of all to what was still owed of it. -/
def State.tileReturn (s : State) (p : Plane) (t : Nat) : State :=
  let s := (s.setFlag p Fld.MEM_TILE_STAT.FAIL t false).setBitF p Fld.TOP_UNIT_STAT.TILE_OK t true
  let s := s.modMem p (fun x => { x with
    sram := x.sram.filter (fun c => sramTile c.1 != t)
    poison := x.poison.filter (fun w => sramTile (8 * w) != t) })
  ((s.give p 0 262144).give p 1 16384).give p 3 (s.spillBlk p * blk)

/-- TEST ends. -/
def State.unitTestEnd (s : State) (p : Plane) (pass : Bool) : State :=
  match (s.pl p).epc.testing with
  | none => s
  | some (ty, ix) =>
    let s := s.modEpc p (fun x => { x with testing := none })
    let s := (s.setFlag p Fld.EPC_UNIT_CTL.TEST 0 false).setFlag p Fld.EPC_UNIT_STAT.BUSY 0 false
    let s := s.setFlag p Fld.EPC_UNIT_STAT.PASS 0 pass
    if pass then
      let s := match ty with
        | 0 => s.setBitF p Fld.TOP_PG_STAT.PG_OK ix true
        | 1 => s.setBitF p Fld.TOP_UNIT_STAT.CHIPLET_OK ix true
        | 2 => s.tileReturn p ix
        | _ => (s.setBitF p Fld.SWC_SPINE_STAT.ELEM_OK ix true).setF p Fld.SWC_SPINE_STAT.N 0 (s.spineN p + 1)
      let s := s.raise p 0x0A07 (wn (256 * ty + ix)) []
      s.portsStart p (s.unitPorts p ty ix)
    else s.raise p 0x0A08 (wn (256 * ty + ix)) []

/-! ## Reference clocks (R408) -/

/-- Every lane of some chiplets is declared failed with the cause "signal lost". -/
def State.chipletLanes (s : State) (p : Plane) (cs : List Nat) : State :=
  s.each (cs.flatMap (fun c => (List.range 64).map (· + 64 * c))) (fun l s =>
    match s.portOf p l with
    | some i => s.laneFail p i l 2
    | none => s)
def State.refclkLost (s : State) (p : Plane) (k : Nat) : State :=
  let s := s.setBitF p Fld.TOP_CLK_STAT.REFCLK_OK k false
  match k with
  | 0 => s.chipletLanes p [0, 1, 2, 3, 4]
  | 1 => s.chipletLanes p [5, 6, 7, 8]
  | _ =>
    let ok := s.fld p Fld.TOP_CLK_STAT.REFCLK_OK 0
    if ¬ bit 2 ok ∧ ¬ bit 3 ok then s.planeFail p 0 else s

/-! ## Meanings -/

/-- PG_FAIL, CHIPLET_FAIL, SPINE_FAIL, ENGINE_FAIL (R24). -/
def execPgFail (p : Plane) (g : Fin 18) (s : State) : Res := goOn (s.when (s.live p) (·.pgFail p g))
def execChipletFail (p : Plane) (c : Fin 9) (s : State) : Res := goOn (s.when (s.live p) (·.chipletFail p c))
def execSpineFail (p : Plane) (elem : Fin 24) (lost : List CellId) (s : State) : Res :=
  goOn (s.when (s.live p) (fun s =>
    (s.spineFail p elem ((s.cellsIn p elem).filter (fun x =>
      lost.any (fun c => c.src.val == x.src && c.dst.val == x.dst && c.pseq == x.pseq)))).escCheck p))
def execEngineFail (p : Plane) (e : Eng) (s : State) : Res := goOn (s.when (s.live p) (·.engFail p (engNum e)))

/-- SWC_RST, COL_RST, DSP_RST, MEM_RST, TST_RST (R351, R201, R251, R398). -/
def execSwcRst (p : Plane) (s : State) : Res := goOn (s.blockReset p .swc)
def execColRst (p : Plane) (s : State) : Res := goOn (s.blockReset p .col)
def execDspRst (p : Plane) (s : State) : Res := goOn (s.blockReset p .dsp)
def execMemRst (p : Plane) (s : State) : Res := goOn (s.blockReset p .mem)
def execTstRst (p : Plane) (s : State) : Res := goOn (s.blockReset p .tst)

/-- BLOCK_RESET_DONE (R27). -/
def execBlockResetDone (p : Plane) (b : Blk) (s : State) : Res := goOn (s.when (s.runs p) (·.blockDone p b))

/-- ENGINE_GATE (R357): a unit that nothing keeps powered has been idle for 1 ms. -/
def execEngineGate (p : Plane) (u : GateUnit) (s : State) : Res :=
  goOn (s.when (s.live p && s.isActive && !s.needed p u) (·.gate p u))

/-- UNIT_WAKE (R357, R360). -/
def execUnitWake (p : Plane) (u : GateUnit) (s : State) : Res :=
  goOn (s.when (s.live p && s.isActive) (·.wake p u))

/-- UNIT_RETIRE, UNIT_TEST, UNIT_TEST_DONE (R359). -/
def execUnitRetire (p : Plane) (v : Word) (s : State) : Res :=
  goOn (s.when (s.live p) (fun s => (s.unitNamed p v.toNat).retire p (bits 27 24 v.toNat) (bits 4 0 v.toNat)))
def execUnitTest (p : Plane) (v : Word) (s : State) : Res :=
  goOn (s.when (s.live p) (fun s => (s.unitNamed p v.toNat).unitTestStart p (bits 27 24 v.toNat) (bits 4 0 v.toNat)))
def execUnitTestDone (p : Plane) (pass : Bool) (s : State) : Res := goOn (s.when (s.live p) (·.unitTestEnd p pass))

/-- REFCLK_LOSS, REFCLK_RETURN (R408). Ports that a lost clock took down restart as error recovery provides, by the
commands of bring-up. -/
def execRefclkLoss (p : Plane) (k : Fin 4) (s : State) : Res := goOn (s.when (s.live p) (·.refclkLost p k))
def execRefclkReturn (p : Plane) (k : Fin 4) (s : State) : Res :=
  goOn (s.when (s.live p && s.flag p Fld.TOP_CLK_STAT.CORE_LOCK 0) (·.setBitF p Fld.TOP_CLK_STAT.REFCLK_OK k true))

/-- FREEZE, FREEZE_PIN (R361). -/
def execFreeze (p : Plane) (s : State) : Res := goOn (s.freezeFrom p (1 + p.num))
def execFreezePin (casc : Option Side) (s : State) : Res :=
  goOn (match casc with
    | none => (s.modPkg (fun x => { x with freezeN := true })).freezeAll 0
    | some _ => s.freezeAll 3)

/-- The unit that an error names is already out of service (R367). -/
def State.unitOut (s : State) (p : Plane) (code unit : Nat) : Bool :=
  match code with
  | 0x03 => !bit unit (s.fld p Fld.SWC_SPINE_STAT.ELEM_OK 0)
  | 0x04 => !s.pgOk p unit
  | 0x05 => !bit unit (s.fld p Fld.TOP_UNIT_STAT.CHIPLET_OK 0)
  | 0x08 | 0x09 | 0x0A => (s.pl p).epc.engFailed.contains (code - 8)
  | 0x0B | 0x0D => s.tileFailed p (unit % 16)
  | 0x0C | 0x0E => s.flag p Fld.MEM_LP_DEV.FAIL (unit % 16)
  | 0x13 => (s.pl p).epc.planeFailed
  | _ => match pgOf code unit with
    | some g => !s.pgOk p g
    | none => false

/-- ERROR_LOGGED (R365 to R371): an internal accounting error fails the plane. -/
def State.errorIn (s : State) (p : Plane) (code unit i0 i1 i2 : Nat) : State :=
  if s.unitOut p code unit then s.suppressError p code unit i0 i1 i2 else
  let s := s.logError p code unit i0 i1 i2
  let s := if sevOf code = 3 ∧ s.flag p Fld.EPC_FREEZE_CTL.ON_FATAL 0 then s.freezeFrom p 4 else s
  let s := if code = 0x14 then s.planeFail p 0x14 else s
  s.escCheck p
def execErrorLogged (p : Plane) (code : Byte) (unit info0 info1 info2 : Word) (s : State) : Res :=
  goOn (s.when (s.live p && decide (1 ≤ code.toNat ∧ code.toNat ≤ 0x16)) (fun s =>
    s.errorIn p code.toNat unit.toNat info0.toNat info1.toNat info2.toNat))

end Sys2Proof.Machine
end

