-- ==== Sys2Proof/Machine/Halyard.lean ====
section
/-! DEFINITION. Halyard (R162 to R166, R300): flits received, loss and return, and the Canton's view of the units, which a
return compares (R335). -/

namespace Sys2Proof.Machine

/-! ## The Canton's view of units -/

/-- The units R335 names, of a plane: a key, the UNIT of Table 10.15 where it gives one, and the hardware status. -/
def State.unitStates (s : State) (p : Plane) : List (Nat × Option Nat × Nat) :=
  (List.range 576).map (fun i => (i, some i, s.stage p i)) ++
  (List.range 18).map (fun g => (1000 + g, none, b2n (s.pgOk p g))) ++
  (List.range 9).map (fun c => (1100 + c, none, b2n (bit c (s.fld p Fld.TOP_UNIT_STAT.CHIPLET_OK 0)))) ++
  (List.range 16).map (fun t => (1200 + t, some (0x1000 + t), b2n (bit t (s.fld p Fld.TOP_UNIT_STAT.TILE_OK 0)))) ++
  (List.range 16).map (fun m => (1300 + m, some (0x1100 + m), s.fld p Fld.MEM_LP_DEV.INIT_OK m)) ++
  (List.range 3).map (fun e => (1400 + e, some (577 + e), s.fld p (engOkFld e) 0)) ++
  [(1500, some 576, b2n (s.halUp p))]

/-- One unit is compared with the Canton's view (R335): a difference raises VIEW_DISAGREE, and the hardware value stands.
The view holds each value plus 1; of a unit that it does not hold yet it takes the value without an event (log entry 72).
The UNIT of a PG or a chiplet is not stated: a free value. -/
def State.viewOne (s : State) (p : Plane) (u : Nat × Option Nat × Nat) : State :=
  let key := 2000 * p.num + u.1
  let old := mget 0 key s.pkg.view
  if old = u.2.2 + 1 then s else
    let s := s.modPkg (fun x => { x with view := mset 0 key (u.2.2 + 1) x.view })
    if old = 0 then s else
      let (f, s) := s.takeFree
      s.cantonEvent 0x0905 (u.2.1.getD (Config.freeNat f)) [old - 1, u.2.2]

/-! ## Up and down -/

/-- The package is split, or whole again (R300). -/
def State.setSplit (s : State) (on : Bool) : State :=
  let sby := match s.mgr with
    | some p => (s.pl p.other).can.fwMeas
    | none => []
  (s.modPkg (fun x => { x with split := on, peerMeas := if on then sby else x.peerMeas })).bothF Fld.CAN_STAT.SPLIT (b2n on)

/-- A plane tells the other its limits and the flits received in a flit that carries no data (KIND 2; R163, R164), `nak`
asking for a resend; while the store has no room it is due. -/
def State.halTell (s : State) (p : Plane) (nak : Bool) : State :=
  if s.halUp p = false then s
  else if s.halRoom p then s.halSend p [] 0 0 0 2 nak
  else s.modSwc p (fun x => { x with hal := { x.hal with nakDue := x.hal.nakDue || nak } })

/-- Halyard's end in a plane starts: its counters restart with HAL_ADV units per VC (R92, R164), and the limits are told;
an end that is up already tells its own again. -/
def State.halStart (s : State) (p : Plane) : State :=
  let a := BitVec.ofNat 16 (s.halAdv p)
  let s := s.each (List.range 9) (fun v s => s.modCred p 576 v (fun _ => { adv := a }))
  let s := s.modLink p 576 (fun x => { x with sess := x.sess + 1 })
  let s := s.modSwc p (fun x => { x with hal := {} })
  let s := (s.setFlag p Fld.TOP_PG_STAT.HALYARD_OK 0 true).setFlag p Fld.SWC_HAL_STAT.UP 0 true
  let (f, s) := s.takeFree
  let s := s.setFree p Fld.SWC_HAL_STAT.RTT 0 (Config.freeNat f % 65536)
  ((s.cmapGap p 576).halTell p false).halTell p.other false

/-- Packets with units in the flits held for resend: one for each flit that starts one, and one that had started before
the oldest. -/
def heldPackets (l : List HalFlit) : Nat :=
  (l.map (fun f => popcount 4 f.sopm.toNat)).sum + (match l with
    | f :: _ => if f.sopm.toNat % 2 = 1 then 0 else 1
    | [] => 0)

/-- Halyard's end in a plane stops (R166): flush, and the resend store is discarded; time taken from the other plane is lost
(R381). -/
def State.halStop (s : State) (p : Plane) : State :=
  let n := heldPackets (s.pl p).swc.hal.store
  let s := (s.setFlag p Fld.TOP_PG_STAT.HALYARD_OK 0 false).setFlag p Fld.SWC_HAL_STAT.UP 0 false
  let s := (s.flushCode p 576).countN p Fld.SWC_FLUSH_DISC.N 0 n
  let s := s.modSwc p (fun x => { x with hal := {} })
  let s := ((s.cancelHold p 576).flip p 576).cmapGap p 576
  if (s.time p).taken = some 2 ∧ s.fld p Fld.TST_FT_STAT.USING 0 = 3 then s.timeHold p else s

/-- Halyard fails (R25, R166, R198, R300, R381). -/
def State.halFail (s : State) : State :=
  if s.halUp .hoist then
    let s := s.both (fun p s =>
      let s := s.halStop p
      let s := s.modSwc p (fun x => { x with holdDue := 576 :: x.holdDue.filter (· ≠ 576) })
      let s := (s.raise p 0x0404 (wn 576) []).logError p 0x07 576 0 0 0
      s.colAbortAll p 4 true)
    let s := (s.both (fun q s => s.glHalLost q)).setSplit true
    match s.mgr with
    | some p => s.releaseHeld p
    | none => s
  else s

/-- The lower of two caps, 0 being no cap. -/
def lowerCap (a b : Nat) : Nat := if a = 0 then b else if b = 0 then a else min a b

/-- The four power caps (R326). -/
def capFld : Nat → Fld
  | 0 => Fld.CAN_CAP_RM.CAP
  | 1 => Fld.CAN_CAP_TRAY.CAP
  | 2 => Fld.CAN_CAP_HOST.CAP
  | _ => Fld.CAN_CAP_THERM.CAP

/-- Each cap register takes the lower of the two planes' values. -/
def State.lowerCap1 (s : State) (k : Nat) : State :=
  let c := lowerCap (s.fld .hoist (capFld k) 0) (s.fld .fly (capFld k) 0)
  if s.fld .hoist (capFld k) 0 = c ∧ s.fld .fly (capFld k) 0 = c then s else s.setCap .hoist (capFld k) c

/-- The active Canton compares the standby's unit states with its own view, and ends the split. -/
def State.splitView (s : State) (p : Plane) : State :=
  let q := p.other
  let n := ((s.unitStates q).filter (fun u => let v := mget 0 (2000 * q.num + u.1) s.pkg.view
    v != 0 && v != u.2.2 + 1)).length
  (s.each (s.unitStates q) (fun u s => s.viewOne q u)).cantonEvent 0x0904 576 [n]

/-- The standby's journal record with its plane's unit states (R300): item 8 (log entry 66). -/
def State.unitRecord (s : State) (q : Plane) : State :=
  if s.canUp q ∧ (s.pl q).can.role = .standby then
    let b := Config.recordBytes 1 ([8, q.num] ++ (s.unitStates q).map (fun u => u.2.2))
    s.halControl q 2 ([0, 0, 0] ++ leBytes 4 (s.pl q).can.jrn.toNat ++ leBytes 2 b.length ++ slice 0 246 b)
  else s

/-- The split ends (R300): the planes' caps become the lower, the standby sends its plane's unit states, which the active
Canton compares with its view, and SPLIT clears. -/
def State.splitEnd (s : State) : State :=
  if s.pkg.split then
    let s := (s.setSplit false).each [0, 1, 2, 3] (fun k s => s.lowerCap1 k)
    match s.mgr with
    | none => s
    | some p => (s.unitRecord p.other).splitView p
  else s

/-- Halyard returns (R161, R166). -/
def State.halReturn (s : State) : State :=
  if ¬ s.halUp .hoist ∧ s.live .hoist ∧ s.live .fly ∧ 2 ≤ s.power then
    let s := s.both (fun p s =>
      let s := s.halStart p
      if (s.pl p).swc.holdDue.contains 576 then
        (s.modSwc p (fun x => { x with holdDue := x.holdDue.filter (· ≠ 576) })).startHold p 576
      else s)
    (s.both (fun q s => s.glHalBack q)).splitEnd
  else s

/-! ## Flits -/

/-- The units that the packet at the front of some bytes has. -/
def unitsWanted (b : Bytes) : Nat :=
  let h := parseHdr b
  (20 + (if h.path then 12 else 0) + h.len.toNat + 63) / 64

/-- A packet has come whole over Halyard (R162): checks 1 to 5 of Table 3.8, its trailer, and the decision. -/
def State.halPacketIn (s : State) (p : Plane) (vc : Nat) (b : Bytes) (bad : Bool) : State :=
  let k := parsePkt b
  let u := b.length / 64
  let s := s.recvUnits p 576 vc u
  match s.headerCheck p none k with
  | some d => (s.freeUnits p 576 vc u).discard1 p d
  | none => s.admitPkt p 576 vc u { vc := BitVec.ofNat 4 vc, units := u, wh := false, viol := false, at_ := s.ticks, time := s.now p } k bad

/-- The bytes of the packet being received on a VC. -/
def State.halRx (s : State) (p : Plane) (vc : Nat) : Bytes := mget [] vc (s.pl p).swc.hal.rx
def State.setHalRx (s : State) (p : Plane) (vc : Nat) (b : Bytes) : State :=
  s.modSwc p (fun x => { x with hal := { x.hal with rx := mset [] vc b x.hal.rx } })

/-- One unit of a data flit: one that starts a packet ends an unfinished one; the last unit completes its packet. -/
def State.halUnit (s : State) (p : Plane) (vc : Nat) (start bad : Bool) (u : Bytes) : State :=
  let old := s.halRx p vc
  let s := if start ∧ old ≠ [] then
      let n := old.length / 64
      (s.recvUnits p 576 vc n).freeUnits p 576 vc n
    else s
  let b := if start then u else old ++ u
  if b.length = 64 ∧ ¬ start then s
  else if unitsWanted b ≤ b.length / 64 ∨ bad then (s.setHalRx p vc []).halPacketIn p vc b bad
  else s.setHalRx p vc b

/-- Every flit of the store leaves again, in order, with the present acknowledgment and limits (R163). -/
def State.halResend (s : State) (p : Plane) : State :=
  let now := fun (e : HalFlit) => { e with ackSeq := (s.pl p).swc.hal.rxSeq, nak := false, counts := s.halCounts p }
  let l := (s.pl p).swc.hal.store.map now
  let s := s.modSwc p (fun x => { x with hal := { x.hal with store := l, heard := 0 } })
  ((s.each l (fun e s => s.emit (.halFlit p e))).halTold p).countN p Fld.SWC_HAL_REPLAY.N 0 l.length

/-- What waited for room in the store leaves: a NAK that is due, then control flits in their order, as far as room goes. -/
def State.halPump (s : State) (p : Plane) : State :=
  let h := (s.pl p).swc.hal
  let s := if h.nakDue ∧ s.halRoom p then
      (s.modSwc p (fun x => { x with hal := { x.hal with nakDue := false } })).halSend p [] 0 0 0 2 true
    else s
  let n := 2048 - (s.pl p).swc.hal.store.length
  let s := s.modSwc p (fun x => { x with hal := { x.hal with ctl := h.ctl.drop n } })
  s.each (h.ctl.take n) (fun e s => s.halCtlOut p e.1 e.2)

/-- The acknowledgment and the limits that a flit carries (R163, R164): NAK resends from the flit after ACK_SEQ, and
RETRY_MAX resends in a row without progress fail Halyard. -/
def State.halAck (s : State) (p : Plane) (f : HalFlit) : State :=
  let old := (s.pl p).swc.hal.store
  let keep := old.filter (fun e => decide (0 < (e.txSeq - f.ackSeq).toNat ∧ (e.txSeq - f.ackSeq).toNat < 2049))
  let s := s.modSwc p (fun x => { x with hal := { x.hal with
    store := keep
    resends := if keep.length < old.length then 0 else x.hal.resends } })
  let s := s.each (List.range 9) (fun v s => s.modCred p 576 v (fun c => { c with limRx := f.counts.getD v c.limRx }))
  if f.nak ∧ keep ≠ [] then
    let n := (s.pl p).swc.hal.resends + 1
    let s := s.modSwc p (fun x => { x with hal := { x.hal with resends := n } })
    if max 1 (s.fld p Fld.SWC_HAL_CFG.RETRY_MAX 0) < n then s.halFail else s.halResend p
  else s

/-- The units of a data flit, in order. -/
def State.halData (s : State) (p : Plane) (f : HalFlit) : State :=
  let n := f.nu.toNat + 1
  s.each (List.range n) (fun k s =>
    s.halUnit p f.vc.toNat (bit k f.sopm.toNat) (f.bad && k + 1 == n) (slice (64 * k) 64 f.data))

/-- Does a flit just accepted call for one that acknowledges it: one that carries data or control does, unless a flit has
left since; of flits that only acknowledge, every 1,024th (log entry 34). -/
def State.halAnswers (s : State) (p : Plane) (kind : Nat) : Bool :=
  let h := (s.pl p).swc.hal
  if kind = 2 then decide (1024 ≤ h.heard) else decide (h.heard ≠ 0)

/-- A flit is received (R163): flits are accepted only in TX_SEQ order; one with a CRC error is answered by a NAK. What a
control flit carries has rows of its own (log entry 34). -/
def State.halFlitIn (s : State) (p : Plane) (f : HalFlit) : State :=
  if f.crcOk then
    let s := s.halAck p f
    if s.halUp p = false then s
    else
      let s := if f.kind.toNat ≤ 2 ∧ f.txSeq = (s.pl p).swc.hal.rxSeq + 1 then
          let s := s.modSwc p (fun x => { x with hal := { x.hal with rxSeq := f.txSeq, heard := x.hal.heard + 1 } })
          let s := if f.kind = 0 then s.halData p f else s
          if s.halAnswers p f.kind.toNat then s.halTell p false else s
        else s
      s.halPump p
  else (s.count p Fld.SWC_HAL_CRC.N 0).halTell p true

/-! ## Meanings -/

/-- CREDIT_SEND (R93, R164): a CREDIT block on a fabric port, or the limits over Halyard (code 576). -/
def execCreditSend (p : Plane) (i : Fin 577) (s : State) : Res :=
  goOn (s.when (s.live p) (fun s =>
    if i.val = 576 then s.halTell p false else if s.canSend p i then s.creditSend p i else s))

/-- HALYARD_FLIT (R163). -/
def execHalyardFlit (p : Plane) (f : HalFlit) (s : State) : Res :=
  goOn (s.when (s.live p && s.halUp p && decide (f.vc.toNat ≤ 8)) (·.halFlitIn p f))

/-- HALYARD_FAIL (R166). -/
def execHalyardFail (s : State) : Res := goOn s.halFail

/-- HALYARD_RETURN (R166, R300). -/
def execHalyardReturn (s : State) : Res := goOn s.halReturn

/-- VIEW_CHECK (R335). -/
def execViewCheck (s : State) : Res :=
  goOn (match s.mgr with
    | none => s
    | some p =>
      let qs := if s.pkg.split then [p] else planes
      s.each qs (fun q s => s.each (s.unitStates q) (fun u s => s.viewOne q u)))

end Sys2Proof.Machine
end

