-- ==== Sys2Proof/Machine/Power.lean ====
section
/-! DEFINITION. Sensors, leak loops, caps, the throttle, emergency off, power states and resets (R320 to R332, R350 to
R356, R363, R402 to R411). -/

namespace Sys2Proof.Machine

/-! ## Emergency off, as orders see it -/

/-- EPO is asserted: the pin, or codes on a cascade pair (R331). -/
def State.epoOn (s : State) : Bool := s.pkg.epoPin || s.pkg.epoPrev || s.pkg.epoNext

/-- Power orders and cap writes are ignored: under EPO, and after a thermal trip until the device is in Off (R331, R332). -/
def State.noOrders (s : State) : Bool := s.epoOn || (s.pkg.epoHold && !s.pkg.off)

/-- The active Canton enables the laser modules of a plane that has left Standby whose map reports no alarm (R325). -/
def State.lasersOn (s : State) (p : Plane) : State :=
  if s.pkg.optical ∧ s.managed ∧ 2 ≤ s.power then
    s.each ((List.range 9).filter (fun c => !s.flag p Fld.CAN_SENSOR.CRIT (101 + 9 * p.num + c) &&
        !mget false c (s.pl p).lne.enabled)) (fun c s =>
      let s := (s.emit (.laser p c true)).modLne p (fun x => { x with enabled := mset false c true x.enabled })
      let (f, s) := s.takeFree
      let v := Config.freeNat f
      s.invSet (0x6000 + 9 * p.num + c) (leBytes 4 v) (fun x => { x with lasers := mset 0 (9 * p.num + c) v x.lasers }))
  else s

/-! ## Sensors (R320 to R324) -/

/-- Where the polls of a sensor are kept: the first 70 are each plane's own, the others the package's. -/
def sensKey (p : Plane) (k : Nat) : Nat := if k < 70 then 128 * p.num + k else k

/-- The maximum inlet in 0.01 °C (Table 13.8). -/
def State.maxInlet (s : State) : Int := if s.pkg.optical then 2500 else 4000

/-- Warning and critical limits of the temperatures of Table 10.10, in 0.01 °C. -/
def State.tempLimits (s : State) (k : Nat) : Option (Int × Int) :=
  if k ≤ 40 then some (9500, 10500)
  else if k ≤ 56 then some (8500, 9500)
  else if k = 70 then some (s.maxInlet, s.maxInlet + 500)
  else if k = 71 then some (s.maxInlet + 2500, s.maxInlet + 3000)
  else if 93 ≤ k ∧ k ≤ 100 then some (7000, 8500)
  else none

/-- The sensors that are pairs (R321). -/
def isPair (k : Nat) : Bool := decide (k ≤ 15 ∨ k = 70 ∨ k = 71)

/-- The regulator target of a die in mV (R404). -/
def State.avsOf (s : State) (p : Plane) : Nat := mget 750 p.num s.pkg.avs

/-- Nominal voltage in mV and maximum current in mA of rail r (Table 13.2). -/
def State.railNominal (s : State) (p : Plane) (r : Nat) : Nat :=
  [s.avsOf p, 800, 850, if s.pkg.optical then 1800 else 1200, 750, 500].getD r 0
def State.railMax (s : State) (r : Nat) : Nat :=
  [700000, 100000, if s.pkg.optical then 500000 else 400000, if s.pkg.optical then 200000 else 120000, 30000, 25000].getD r 0

/-- The reading of a sensor as an integer. -/
def reading (b : BitVec 24) : Int := b.toInt

/-- A poll is taken in: three polls missed in a row, or a last reading outside its range, is a fault. -/
def SensSt.poll (x : SensSt) (r : Sample) : SensSt :=
  { outA := if r.a.isSome then r.oorA else x.outA
    outB := if r.b.isSome then r.oorB else x.outB
    missA := if r.a.isSome then 0 else x.missA + 1
    missB := if r.b.isSome then 0 else x.missB + 1
    a := r.a.orElse (fun _ => x.a)
    b := r.b.orElse (fun _ => x.b) }

/-- The value of a pair, and whether it is in fault (R321): `crit` is its critical limit. -/
def pairValue (fa fb : Bool) (a b : Option Int) (crit : Int) : Option Int × Bool :=
  match fa, fb with
  | true, true => (some crit, true)
  | true, false => (b, true)
  | false, true => (a, true)
  | false, false =>
    match a, b with
    | some x, some y => (some (max x y), decide (800 < x - y) || decide (800 < y - x))
    | some x, none => (some x, false)
    | none, y => (y, false)

/-- A sensor's words of both windows, or of its own plane (R320). -/
def State.sensF (s : State) (p : Plane) (k : Nat) (f : Fld) (v : Nat) : State :=
  if k < 70 then s.setF p f k v
  else if s.pkg.split then
    match s.mgr with
    | some q => s.setF q f k v
    | none => s.both (fun q s => s.setF q f k v)
  else s.both (fun q s => s.setF q f k v)

/-- The plane in whose window the package's own sensors are read. -/
def State.sensWin (s : State) (p : Plane) (k : Nat) : Plane := if k < 70 then p else s.mgr.getD .hoist

/-- CAP_THERM is set to the floor (R324). -/
def State.capToFloor (s : State) (p : Plane) : State :=
  let n := s.floorNow
  let s := s.pkgF p Fld.CAN_PWR_STAT.FLOOR 0 n
  if s.fld p Fld.CAN_CAP_THERM.CAP 0 = n then s else s.setCap p Fld.CAN_CAP_THERM.CAP n

/-- A plane's level 7 by temperature (R324): from a critical junction, chiplet or tile until each is 5 K below. -/
def State.hotCheck (s : State) (p : Plane) : State :=
  let ks := (List.range 41).filter (fun k => s.flag p Fld.CAN_SENSOR.FITTED k)
  let s := if ks.any (fun k => s.flag p Fld.CAN_SENSOR.CRIT k) then s.modCan p (fun x => { x with hot := true })
    else if ks.all (fun k => decide (toInt 24 (s.fld p Fld.CAN_SENSOR.VALUE k) ≤ 10000)) then
      s.modCan p (fun x => { x with hot := false })
    else s
  s.showLevel

/-- A laser source module is disabled by its alarm, and its lanes lose their light (R69, R325). -/
def State.laserAlarm (s : State) (p : Plane) (c : Nat) : State :=
  let s := s.laserCut p c
  if s.live p then s.darken p ((List.range 64).map (· + 64 * c)) else s

/-- A sensor's state is shown, its crossings raised and acted on (R320, R324). -/
def State.sensShow (s : State) (p : Plane) (k : Nat) (v : Int) (fault warn crit : Bool) : State :=
  let w := s.sensWin p k
  let was := fun (f : Fld) => s.flag w f k
  let (f0, w0, c0) := (was Fld.CAN_SENSOR.FAULT, was Fld.CAN_SENSOR.WARN, was Fld.CAN_SENSOR.CRIT)
  let n := ofInt 24 v
  let s := s.sensF p k Fld.CAN_SENSOR.FITTED 1
  let s := (s.sensF p k Fld.CAN_SENSOR.FAULT (b2n fault)).sensF p k Fld.CAN_SENSOR.WARN (b2n warn)
  let s := (s.sensF p k Fld.CAN_SENSOR.CRIT (b2n crit)).sensF p k Fld.CAN_SENSOR.VALUE n
  let s := s.journalAdd 1 (sensKey p k) (leBytes 3 n ++ leBytes 1 (4 * b2n fault + 2 * b2n warn + b2n crit))
  let s := if fault ∧ ¬ f0 then s.hwEvent 0x090A k [n] else s
  let s := if warn ∧ ¬ w0 then s.hwEvent 0x0908 k [n] else s
  let s := if crit ∧ ¬ c0 then s.hwEvent 0x0909 k [n] else s
  if k ≤ 40 then s.hotCheck p
  else if crit then
    let s := if 101 ≤ k ∧ ¬ c0 then s.laserAlarm (if k < 110 then .hoist else .fly) ((k - 101) % 9) else s
    match s.mgr with
    | some q => s.capToFloor q
    | none => s
  else s

/-- Thermal cycles (Table 10.9): the hottest junction of the package rises above 85 °C after having been below 45 °C. -/
def State.hottest (s : State) (p : Plane) : Option Int :=
  ((List.range 16).filter (fun k => s.flag p Fld.CAN_SENSOR.FITTED k)).foldl (fun a k =>
    let v := toInt 24 (s.fld p Fld.CAN_SENSOR.VALUE k)
    some (match a with
      | some x => max x v
      | none => v)) none
def State.cycleCheck (s : State) : State :=
  if s.managed then
    match s.hottest .hoist, s.hottest .fly with
    | some a, some b =>
      let h := max a b
      if h < 4500 ∧ ¬ s.pkg.inv.cool then s.modPkg (fun x => { x with inv := { x.inv with cool := true } })
      else if 8500 < h ∧ s.pkg.inv.cool then
        (s.modPkg (fun x => { x with inv := { x.inv with cool := false, cycles := x.inv.cycles + 1 } })).journalAdd 2 1
          (leBytes 4 (s.pkg.inv.cycles + 1))
      else s
    | _, _ => s
  else s

/-- The package's power in W: the last sample of each die. -/
def State.pkgPower (s : State) : Nat :=
  (((s.pl .hoist).can.pw.head?.map (·.2)).getD 0) + (((s.pl .fly).can.pw.head?.map (·.2)).getD 0)

/-- The flow in mL/min that the heat implies (R323), where the check applies. -/
def State.impliedFlow (s : State) (q : Plane) : Option Nat :=
  let pw := s.pkgPower
  let out := toInt 24 (s.fld q Fld.CAN_SENSOR.VALUE 71)
  let inl := toInt 24 (s.fld q Fld.CAN_SENSOR.VALUE 70)
  let dt := (out - inl).toNat
  let ck := s.fld q Fld.CAN_FLOW_CFG.COOL_K 0
  if 500 ≤ pw ∧ 200 ≤ dt then some (pw * 100000 / ((if ck = 0 then 66 else ck) * dt)) else none

/-- The flow sensor (R320, R323). -/
def State.flowPoll (s : State) (p q : Plane) (v : Option Int) (fault : Bool) : State :=
  let lim : Int := s.fld q Fld.CAN_FLOW_CFG.FLOW_MIN 0 * 100
  let show_ := fun (s : State) (x : Int) (f : Bool) => s.sensShow p 72 x f (decide (x < lim)) (decide (2 * x < lim))
  match s.impliedFlow q, v with
  | some n, some x =>
    if decide ((3 * n + 400 : Int) < 2 * x) then
      let was := s.flag q Fld.CAN_SENSOR.FAULT 72
      let s := show_ s n true
      if was then s else s.hwEvent 0x090D 72 [x.toNat, n]
    else show_ s (if fault then (n : Int) else x) fault
  | some n, none => if fault then show_ s n true else s
  | none, some x => show_ s (if fault then lim else x) fault
  | none, none => if fault then show_ s lim true else s

/-- Sensor policy is host-assisted, by the bit of the manager's plane (Table 9.13, bit 6): a change takes effect at the next
sensor poll. -/
def State.policyHost (s : State) : Bool :=
  match s.mgr with
  | some q => !s.sensorHw q
  | none => s.pkg.sensHost

/-- A poll of a sensor is evaluated. -/
def State.sensorIn (s : State) (p : Plane) (k : Nat) (r : Sample) : State :=
  let key := sensKey p k
  let x := (mget {} key s.pkg.sens).poll r
  let s := s.modPkg (fun g => { g with sens := mset {} key x g.sens, sensHost := s.policyHost })
  let fa := decide (3 ≤ x.missA) || x.outA
  let fb := decide (3 ≤ x.missB) || x.outB
  let a := x.a.map reading
  let b := x.b.map reading
  if isPair k then
    let lim := (s.tempLimits k).getD (0, 0)
    match pairValue fa fb a b lim.2 with
    | (some v, fault) =>
      let s := s.sensShow p k v fault (decide (lim.1 ≤ v)) (decide (lim.2 ≤ v))
      if k ≤ 15 then s.cycleCheck else s
    | (none, _) => s
  else match s.tempLimits k with
    | some lim =>
      match (if fa then some lim.1 else a) with
      | some v => s.sensShow p k v fa (decide (lim.1 ≤ v)) (decide (lim.2 ≤ v))
      | none => s
    | none =>
      if k = 72 then s.flowPoll p (s.sensWin p k) a fa
      else
        let rail := decide (57 ≤ k ∧ k ≤ 68)
        let j := (k - 57) / 2
        let (f, s) := if fa then s.takeFree else (0, s)
        if fa then
          let v : Int := if rail ∧ k % 2 = 0 then (s.railMax j : Int) else (Config.freeNat f : Int)
          s.sensShow p k v true (decide (k ≠ 69)) false
        else match a with
          | none => s
          | some v =>
            if rail then
              if k % 2 = 1 then
                let nom : Int := s.railNominal p j
                let d := 100 * (v - nom)
                s.sensShow p k v false (decide (3 * nom < d) || decide (3 * nom < -d)) (decide (6 * nom < d) || decide (6 * nom < -d))
              else
                let m : Int := s.railMax j
                s.sensShow p k v false (decide (m < v)) (decide (110 * m < 100 * v))
            else if k = 69 then
              let t := s.ticks
              let s := s.modCan p (fun c => { c with
                pw := (t, v.toNat) :: c.pw.filter (fun e => decide (t < e.1 + 160000000)) })
              (s.sensShow p k v false false false).bothF Fld.CAN_PWR_STAT.POWER s.pkgPower
            else s.sensShow p k v false r.warn r.crit

/-- Does a sensor get read (Table 10.10): those of the die by its hardware, LPDDR5X by its controller, the others by the
manager; the rails only while they are to be up; laser modules on the optical variant; leak loops by LEAK_MEASURE. -/
def State.sensorRead (s : State) (p : Plane) (k : Nat) : Bool :=
  if k ≤ 40 then s.pkg.resetN
  else if k ≤ 56 then s.live p
  else if k ≤ 69 then s.pkg.resetN && s.pkg.pwrgd && !s.pkg.off
  else if 73 ≤ k ∧ k ≤ 76 then false
  else s.managed && (decide (k < 101) || s.pkg.optical)

/-- SENSOR_POLL. -/
def execSensorPoll (p : Plane) (k : Fin 119) (r : Sample) (s : State) : Res :=
  goOn (s.when (s.sensorRead p k) (·.sensorIn p k r))

/-! ## CAP_THERM steps (R324) -/

def State.anyWarn (s : State) : Bool :=
  planes.any (fun p => (List.range 119).any (fun k => s.flag p Fld.CAN_SENSOR.WARN k))

/-- The package's power averaged over the last 100 ms. -/
def dieAvg (l : List (Nat × Nat)) : Nat := (l.map (·.2)).sum / l.length
def State.avgPower (s : State) : Nat := dieAvg (s.pl .hoist).can.pw + dieAvg (s.pl .fly).can.pw

def State.thermStep (s : State) (p : Plane) : State :=
  let ten := s.maxPower / 10
  let cur := s.fld p Fld.CAN_CAP_THERM.CAP 0
  if s.anyWarn then
    let n := s.floorNow
    let s := s.pkgF p Fld.CAN_PWR_STAT.FLOOR 0 n
    s.setCap p Fld.CAN_CAP_THERM.CAP (max n ((if cur = 0 then s.avgPower else cur) - ten))
  else if cur = 0 then s
  else s.setCap p Fld.CAN_CAP_THERM.CAP (if s.maxPower ≤ cur + ten then 0 else cur + ten)

/-- THERM_CAP_STEP. -/
def execThermCapStep (s : State) : Res :=
  goOn (match s.mgr with
    | some p => if s.pkg.sensHost then s else s.thermStep p
    | none => s)

/-! ## Throttle, share and caps (R326, R329, R330) -/

/-- The last four power samples of a die. -/
def State.lastFour (s : State) (p : Plane) : List Nat := ((s.pl p).can.pw.take 4).map (·.2)

/-- The average of the last four samples against PLANE_CAP × `pct` / 100: both sides multiplied out. -/
def State.overCap (s : State) (p : Plane) : Bool :=
  let l := s.lastFour p
  decide (s.effCap p * s.fld p Fld.CAN_THR_CFG.SHARE 0 * l.length < l.sum * 256)
def State.hyst (s : State) (p : Plane) : Nat := min 50 (s.fld p Fld.CAN_THR_CFG.HYST 0)
def State.underCap (s : State) (p : Plane) : Bool :=
  let l := s.lastFour p
  decide (l.sum * 25600 < s.effCap p * s.fld p Fld.CAN_THR_CFG.SHARE 0 * l.length * (100 - s.hyst p))

/-- UNMEET clears when the cap exceeds the measured power by the hysteresis (R330). -/
def State.meetCheck (s : State) (p : Plane) : State :=
  if s.flag p Fld.CAN_PWR_STAT.UNMEET 0 ∧
      s.fld p Fld.CAN_PWR_STAT.POWER 0 * 100 < s.effCap p * (100 - s.hyst p) then
    let s := s.pkgF p Fld.CAN_PWR_STAT.UNMEET 0 0
    (if s.pkg.split then s.modCan p (fun x => { x with held7 := false })
      else s.both (fun q s => s.modCan q (fun x => { x with held7 := false }))).showLevel
  else s

def State.throttle (s : State) (p : Plane) : State :=
  if s.lastFour p = [] then s else
    let t := s.ticks
    let s := if s.overCap p then s.modCan p (fun x => { x with level := min 7 (x.level + 1), belowAt := none })
      else if s.underCap p then
        s.modCan p (fun x => match x.belowAt with
          | none => { x with belowAt := some t }
          | some t0 => if t0 + 1600000 ≤ t then { x with level := x.level - 1, belowAt := some t } else x)
      else s.modCan p (fun x => { x with belowAt := none })
    (s.showLevel).meetCheck p

/-- THROTTLE_STEP. -/
def execThrottleStep (p : Plane) (s : State) : Res := goOn (s.when (s.live p) (·.throttle p))

/-- SHARE_UPDATE: the planes' demands. -/
def execShareUpdate (hoist fly : BitVec 16) (s : State) : Res :=
  goOn (match s.mgr with
    | none => s
    | some p =>
      let s := s.pkgF p Fld.CAN_PWR_STAT.FLOOR 0 s.floorNow
      if s.pkg.split then s else
        let sum := hoist.toNat + fly.toNat
        let part := fun (d : Nat) => if sum = 0 then 128 else min 255 (256 * d / sum)
        (s.setF .hoist Fld.CAN_THR_CFG.SHARE 0 (part hoist.toNat)).setF .fly Fld.CAN_THR_CFG.SHARE 0 (part fly.toNat))

/-- CAP_UNMEET: the device has acted on a cap below the floor, or plane p has stayed above PLANE_CAP at level 7. -/
def execCapUnmeet (p : Plane) (s : State) : Res :=
  goOn (if s.live p then
      if s.effCap p < s.floor p then s.unmeet p (if s.pkg.split then [p] else planes)
      else if s.thrLevel p = 7 ∧ s.overCap p then s.unmeet p [p]
      else s
    else s)

/-- CAP_HOST_WRITE: ignored under EPO (R331). -/
def State.capHost (s : State) (p : Plane) (v : Nat) : State :=
  if s.noOrders then s else s.setCap p Fld.CAN_CAP_HOST.CAP (v % 65536)
def execCapHostWrite (p : Plane) (v : Word) (s : State) : Res := goOn (s.when (s.live p) (·.capHost p v.toNat))

/-! ## The logic of both dies is reset (R350) -/

/-- Words of the CAN_ block that the Canton or always-on hardware writes: they stay while the Canton runs. -/
def keptRegs : List Reg :=
  [.CAN_STAT, .CAN_BOOT_STAT, .CAN_CAP_RM, .CAN_CAP_TRAY, .CAN_CAP_THERM, .CAN_HEALTH, .CAN_SENSOR, .CAN_MBOX_RX,
    .CAN_TAKEOVER_CNT, .CAN_SIG_FAIL, .TOP_STRAP]
def keepWord (off : Nat) : Bool :=
  match regAt off with
  | some (r, _, _) => keptRegs.contains r
  | none => false

/-- Both planes' logic after its reset. The Cantons go on; what they wrote stays. The image's RM_LIMIT, the leak loops
and TRIP belong to the package. -/
def State.logicReset (s : State) : State :=
  let lim := s.fld .hoist Fld.CAN_PWR_STATE.RM_LIMIT 0
  let epo := s.fld .hoist Fld.CAN_PWR_STATE.EPO 0
  let trip := s.fld .hoist Fld.CAN_PWR_STATE.TRIP 0
  let leak := s.fld .hoist Fld.CAN_LEAK.STATE 0
  let floor := s.fld .hoist Fld.CAN_PWR_STAT.FLOOR 0
  let aon := s.fld .hoist Fld.TOP_CLK_STAT.AON_OK 0
  let s := s.both (fun p s => s.modPl p (fun x =>
    { regs := x.regs.filter (fun e => keepWord e.1)
      can := { x.can with
        level := 0
        belowAt := none
        held7 := false
        pw := [] } }))
  let s := (s.bothF Fld.CAN_PWR_STATE.RM_LIMIT lim).bothF Fld.CAN_PWR_STATE.EPO epo
  let s := (s.bothF Fld.CAN_PWR_STATE.TRIP trip).bothF Fld.CAN_LEAK.STATE leak
  (s.bothF Fld.CAN_PWR_STAT.FLOOR floor).bothF Fld.TOP_CLK_STAT.AON_OK aon

/-- POWER_STATE in both planes (R355). -/
def State.raisePower (s : State) (new old : Nat) : State :=
  s.both (fun q s => if s.live q then s.raise q 0x0A04 (wn q.num) [wn new, wn old] else s)

/-- The package is split while Halyard is down (R300). -/
def State.halDown (s : State) : State :=
  if s.pkg.split then s else
    let s := s.setSplit true
    match s.mgr with
    | some p => s.releaseHeld p
    | none => s

/-- The device goes to Off (R354, R406): configuration and memory contents are lost, a freeze ends, the regulators start
again at 0.750 V. -/
def State.enterOff (s : State) : State :=
  if s.pkg.off then s else
    let old := s.power
    let s := s.raisePower 0 old
    let s := s.both (fun p s => s.modLne p (fun x => { x with enabled := [], lasers := [] }))
    let s := s.logicReset
    (s.modPkg (fun x => { x with
      off := true
      moving := none
      avs := []
      avsCold := []
      commits := [] })).halDown

/-- The device leaves Off towards Standby (Table 11.8): the trip of the last power-up is over (R332). -/
def State.leaveOff (s : State) : State :=
  let s := s.logicReset
  let s := s.bothF Fld.CAN_PWR_STATE.TRIP 0
  s.modPkg (fun x => { x with
    off := false
    moving := some 1
    epoHold := false })

/-! ## Power transitions (R327, R353 to R356) -/

/-- The inventory is written to both flashes (R317). -/
def State.saveInventory (s : State) : State := s.modPkg (fun x => { x with saved := x.inv })

/-- The lower of RM_LIMIT and HOST_REQ (R327). -/
def State.rmLimit (s : State) (p : Plane) : Nat := s.fld p Fld.CAN_PWR_STATE.RM_LIMIT 0
def State.hostReq (s : State) (p : Plane) : Nat := max 1 (s.fld p Fld.CAN_PWR_STATE.HOST_REQ 0)
def State.target (s : State) (p : Plane) : Nat := min (s.rmLimit p) (s.hostReq p)

/-- Memory operations in progress are discarded without CPL. -/
def State.memDiscard (s : State) (p : Plane) : State :=
  let s := s.modMem p (fun m => { m with proxies := [], copies := [] })
  let s := (s.setF p Fld.GWM_FWD_USED.N 0 0).setF p Fld.GWM_COPY_ACT.N 0 0
  s.modEp p 2 (fun e => { e with
    src := e.src.map (fun w => (w.1, { w.2 with waiting := [] }))
    reqs := [] })

/-- Active to Ready. -/
def State.leaveActive3 (s : State) (p : Plane) : State :=
  let s := s.portsOut p (s.enabledPorts p)
  let s := (s.colAbortAll p 5 false).dspAbortAll p 4
  (s.memDiscard p).gateAll p

/-- The core PLL and Halyard's clock stop: CORE_MHZ reads 0 until CORE_LOCK is 1 again (Table 1.9). -/
def State.coreStop (s : State) (p : Plane) : State :=
  ((s.setFlag p Fld.TOP_CLK_STAT.CORE_LOCK 0 false).setFlag p Fld.TOP_CLK_STAT.HALYARD_LOCK 0 false).setF p
    Fld.TOP_CLK_STAT.CORE_MHZ 0 0

/-- Ready to Standby: the packet buffer, the SRAM tiles and the slot cache are lost, and Halyard goes with the logic. -/
def State.leaveReady (s : State) (p : Plane) : State :=
  let ok := s.fld p Fld.TOP_PG_STAT.PLANE_OK 0
  let s := (s.swcReset p).setF p Fld.TOP_PG_STAT.PLANE_OK 0 ok
  let s := s.setFlag p Fld.MEM_STAT.SRAM_ZERO 0 false
  let s := s.modMem p (fun x => { x with sram := [], poison := [] })
  let s := if s.halUp p then s.halStop p else s
  (s.coreStop p).lasersOff p

/-- A transition to the adjacent state toward the target starts. In Off it waits for PWRGD. A frozen device
cannot change state: an order to go to Off asserts PWR_OFF_REQ at once. -/
def State.startMove (s : State) : State :=
  match s.mgr with
  | none => s
  | some p =>
    let st := s.power
    let tg := s.target p
    if s.pkg.fwRan = false ∨ s.pkg.moving.isSome ∨ s.epoOn then s
    else if st = 0 ∧ s.pkg.off then
      if tg = 0 then s.pwrOff true
      else if s.pkg.pwrgd ∧ s.pkg.pwrOffReq = false then s.leaveOff else s
    else if s.pkg.epoHold ∨ st = 0 then s
    else if (s.pl .hoist).epc.frozen || (s.pl .fly).epc.frozen then if tg = 0 then s.pwrOff true else s
    else if st < tg then s.modPkg (fun x => { x with moving := some (st + 1) })
    else if tg < st then
      let s := s.modPkg (fun x => { x with moving := some (st - 1) })
      match st with
      | 3 => s.both (fun q s => s.leaveActive3 q)
      | 2 => ((s.saveInventory).both (fun q s => s.leaveReady q)).halDown
      | _ => (s.saveInventory).pwrOff true
    else s

/-- POWER_TRANSITION. -/
def execPowerTransition (s : State) : Res := goOn s.startMove

/-- A state is reached: STATE, POWER_STATE, what entering it starts, and the next transition (R355). -/
def State.arrive (s : State) : State :=
  match s.pkg.moving with
  | none => s
  | some 0 => s.enterOff
  | some n =>
    let old := s.power
    let s := s.modPkg (fun x => { x with moving := none })
    let s := s.bothF Fld.CAN_PWR_STATE.STATE n
    let s := s.raisePower n old
    let s := if n = 3 then s.both (fun p s => (s.ungate p).portsStart p (s.enabledPorts p))
      else if n = 2 ∧ old < 2 then
        let s := s.both (fun p s =>
          let s := (s.setFlag p Fld.TOP_CLK_STAT.CORE_LOCK 0 true).setFlag p Fld.TOP_CLK_STAT.HALYARD_LOCK 0 true
          let s := s.setFlag p Fld.MEM_STAT.SRAM_ZERO 0 true
          (if s.halUp p then s else s.halStart p).lasersOn p)
        (s.showLevel).splitEnd
      else if n = 1 ∧ old = 0 then (s.both (fun p s =>
        let s := s.setFlag p Fld.MEM_STAT.SRAM_ZERO 0 false
        let s := if s.halUp p then s.halStop p else s
        s.coreStop p)).halDown
      else s
    s.startMove

/-- POWER_STATE: the transition in progress has reached its state. -/
def execPowerState (s : State) : Res :=
  goOn (s.when (!s.pkg.epoHold && planes.all (fun p => s.live p)) (·.arrive))

/-- HOST_REQ_WRITE (R327): a write of CAN_PWR_STATE, its REJ bit included. -/
def State.hostReqWrite (s : State) (p : Plane) (v : Nat) : State :=
  let s := if bit 25 v then s.pkgF p Fld.CAN_PWR_STATE.REJ 0 0 else s
  if s.noOrders then s else
    let s := (s.pkgF p Fld.CAN_PWR_STATE.HOST_REQ 0 (bits 27 26 v)).journalAdd 0 2 (leBytes 1 (bits 27 26 v))
    let s := if s.rmLimit p < s.hostReq p then
        (s.pkgF p Fld.CAN_PWR_STATE.REJ 0 1).hwEvent 0x0907 p.num [bits 27 26 v, s.rmLimit p]
      else s
    s.startMove
def execHostReqWrite (p : Plane) (v : Word) (s : State) : Res := goOn (s.when (s.live p) (·.hostReqWrite p v.toNat))

/-! ## PWRGD (R406, R410) -/

/-- PWRGD_LOSS. -/
def State.pwrgdLoss (s : State) : State :=
  let asked := s.pkg.pwrOffReq
  let old := s.power
  let was := s.pkg.off
  let s := s.enterOff.modPkg (fun x => { x with pwrgd := false })
  if was ∨ asked then s
  else match s.mgr with
    | some p => s.notify 0x0A04 p.num [0, old]
    | none => s
def execPwrgdLoss (s : State) : Res := goOn (s.when s.pkg.pwrgd (·.pwrgdLoss))

/-- PWRGD_ASSERT: the device passes from Off to Standby unless the rack manager or EPO holds it off. -/
def execPwrgdAssert (s : State) : Res :=
  goOn (
    let s := s.modPkg (fun x => { x with pwrgd := true })
    if s.pkg.off ∧ s.pkg.resetN ∧ s.rmLimit .hoist ≠ 0 ∧ ¬ s.epoOn then s.leaveOff else s)

/-! ## EPO and thermal trip (R331, R332) -/

/-- The hold: lanes squelched, switch cores and engines in reset, PWR_OFF_REQ asserted. -/
def State.epoHold (s : State) : State :=
  let s := s.both (fun p s =>
    if s.live p then
      let s := s.portsOut p (s.enabledPorts p)
      ((((s.engOut p 0).engOut p 1).engOut p 2).swcReset p).lasersOff p
    else s.lasersOff p)
  (s.modPkg (fun x => { x with epoHold := true, moving := none })).pwrOff true

/-- An occurrence is counted in the inventory and journalled (Table 10.9). -/
def State.countEpo (s : State) (trip : Bool) : State :=
  let s := s.modPkg (fun x => { x with inv := if trip then { x.inv with trips := x.inv.trips + 1 }
    else { x.inv with epos := x.inv.epos + 1 } })
  s.journalAdd 2 2 (leBytes 4 s.pkg.inv.epos ++ leBytes 4 s.pkg.inv.trips)

def epoNum : EpoSource → Nat
  | .pin => 0
  | .prevRx => 1
  | .nextRx => 2
def State.epoStart (s : State) (src : EpoSource) : State :=
  let was := s.epoOn
  let s := s.modPkg (fun x => match src with
    | .pin => { x with epoPin := true }
    | .prevRx => { x with epoPrev := true }
    | .nextRx => { x with epoNext := true })
  if was then s else
    let s := s.epoHold
    let s := (s.emit (.epoCode .next)).emit (.epoCode .prev)
    let s := s.bothF Fld.CAN_PWR_STATE.EPO 1
    let s := s.both (fun p s => if s.live p then s.logError p 0x16 p.num (epoNum src) 0 0 else s)
    let s := s.countEpo false
    s.hwEvent 0x090E ((s.mgr.getD .hoist).num) [epoNum src]

/-- EPO_ASSERT: EPO acts also while RESET_N is asserted and during freeze (R363, R410). -/
def execEpoAssert (src : EpoSource) (s : State) : Res := goOn (s.epoStart src)

/-- EPO_RELEASE: RM_LIMIT is Off, and the device stays in Off. -/
def State.epoEnd (s : State) : State :=
  let s := s.modPkg (fun x => { x with
    epoPin := false
    epoPrev := false
    epoNext := false })
  let s := (s.bothF Fld.CAN_PWR_STATE.EPO 0).bothF Fld.CAN_PWR_STATE.RM_LIMIT 0
  let s := s.journalAdd 0 1 (leBytes 1 0)
  (s.enterOff).modPkg (fun x => { x with epoHold := false })
def execEpoRelease (s : State) : Res := goOn (s.when s.epoOn (·.epoEnd))

/-- THERMAL_TRIP: a junction, chiplet or tile has read 110 °C or more for 100 µs. -/
def State.thermalTrip (s : State) (p : Plane) (k : Nat) : State :=
  let v := s.fld p Fld.CAN_SENSOR.VALUE k
  let s := s.epoHold
  let s := (s.bothF Fld.CAN_PWR_STATE.TRIP 1).bothF Fld.CAN_PWR_STATE.RM_LIMIT 0
  let s := s.journalAdd 0 1 (leBytes 1 0)
  let s := s.countEpo true
  let s := s.hwEvent 0x090E p.num [3]
  if s.live p then s.logFatal p 0x15 k v else s
def execThermalTrip (p : Plane) (k : Fin 41) (s : State) : Res :=
  goOn (s.when (!s.flag p Fld.CAN_PWR_STATE.TRIP 0 &&
    decide (11000 ≤ toInt 24 (s.fld p Fld.CAN_SENSOR.VALUE k))) (·.thermalTrip p k))

/-! ## Leak loops (R322) -/

/-- State of a loop by its resistance in ohms: 0 DRY, 1 WET, 2 FAULT. -/
def loopState : Option Nat → Nat
  | none => 2
  | some r => if r < 8000 then 1 else if r ≤ 12500 then 0 else 2

/-- A loop is WET: LEAK, level 7, and PWR_OFF_REQ at once where LEAK_OFF_S is 0. -/
def State.leakWet (s : State) (n : Nat) : State :=
  let t := s.ticks
  let s := s.modPkg (fun x => { x with loops := mmod {} n (fun l => { l with wetAt := some t }) x.loops })
  let s := (s.showLevel).hwEvent 0x090B n []
  if s.fld .hoist Fld.CAN_LEAK.LEAK_OFF_S 0 = 0 then s.pwrOff true else s

/-- A loop changes state. -/
def State.leakState (s : State) (n st : Nat) : State :=
  let old := s.fld .hoist Fld.CAN_LEAK.STATE 0
  let s := s.bothF Fld.CAN_LEAK.STATE (setBits (2 * n + 1) (2 * n) old st)
  let s := s.sensShow .hoist (73 + n) st false false (decide (st = 1))
  let dry := fun (s : State) =>
    (s.modPkg (fun x => { x with loops := mmod {} n (fun l => { l with wetAt := none }) x.loops })).showLevel
  match st with
  | 0 => dry s
  | 1 => s.leakWet n
  | _ =>
    let s := s.hwEvent 0x090C n []
    if s.flag .hoist Fld.CAN_LEAK.FAULT_AS_WET 0 then s.leakWet n else dry s

/-- LEAK_MEASURE: three successive measurements that agree change a loop's state. -/
def State.leakMeasure (s : State) (n : Nat) (ohms : Option Nat) : State :=
  let st := loopState ohms
  let l := mget {} n s.pkg.loops
  let k := if l.cand = st then min 3 (l.agree + 1) else 1
  let s := s.modPkg (fun x => { x with loops := mset {} n { l with cand := st, agree := k } x.loops })
  if k = 3 ∧ bits (2 * n + 1) (2 * n) (s.fld .hoist Fld.CAN_LEAK.STATE 0) ≠ st then s.leakState n st else s
def execLeakMeasure (loop : Fin 4) (ohms : Option Nat) (s : State) : Res :=
  goOn (s.leakMeasure loop ohms)

/-- LEAK_POWER_OFF: LEAK_OFF_S seconds have passed with the loop WET; 255 means never. -/
def execLeakPowerOff (loop : Fin 4) (s : State) : Res :=
  goOn (s.when ((mget {} loop.val s.pkg.loops).wetAt.isSome && decide (s.fld .hoist Fld.CAN_LEAK.LEAK_OFF_S 0 ≠ 255))
    (·.pwrOff true))

/-! ## AVS (R404) -/

/-- The target of a die's VDD_CORE: its fused value, and 10 mV more while it is cold. -/
def State.avsDie (s : State) (p : Plane) : State :=
  let cold := match s.hottest p with
    | some h => if h < 3000 then true else if 3500 ≤ h then false else mget false p.num s.pkg.avsCold
    | none => mget false p.num s.pkg.avsCold
  let mv := Config.avsFuse p + (if cold then 10 else 0)
  let s := s.modPkg (fun x => { x with avsCold := mset false p.num cold x.avsCold })
  if s.avsOf p = mv then s
  else ((s.modPkg (fun x => { x with avs := mset 750 p.num mv x.avs })).emit (.avs p mv)).journalAdd 0 (4 + p.num) (leBytes 2 mv)

/-- AVS_SET. -/
def execAvsSet (s : State) : Res :=
  goOn (s.when (s.managed && s.pkg.pwrgd && !s.pkg.off) (fun s => s.both (fun p s => s.avsDie p)))

/-! ## Reset and start-up (R350, R352, R363, R405) -/

/-- Both dies, Cantons included, in reset; the always-on monitors, OTP, the flashes and column repairs stay. -/
def State.coldReset (s : State) : State :=
  let keep := fun (x : PlaneSt) => ({ mem := { fixed := x.mem.fixed, spares := x.mem.spares } } : PlaneSt)
  let g := s.pkg
  let leak := s.fld .hoist Fld.CAN_LEAK.STATE 0
  let epo := s.fld .hoist Fld.CAN_PWR_STATE.EPO 0
  let s := (s.setPl .hoist (keep s.hoist)).setPl .fly (keep s.fly)
  let s := s.modPkg (fun _ =>
    { svnFw := g.svnFw
      svnMc := g.svnMc
      revoked := g.revoked
      ownerFp := g.ownerFp
      flash0 := g.flash0
      flash1 := g.flash1
      view0 := g.view0
      view1 := g.view1
      optical := g.optical
      loops := g.loops
      inv := { g.saved with hours := g.inv.hours, minutes := g.inv.minutes }
      saved := g.saved
      pwrOffReq := g.pwrOffReq
      pwrgd := g.pwrgd
      epoPin := g.epoPin
      epoPrev := g.epoPrev
      epoNext := g.epoNext
      epoHold := g.epoHold
      aonOsc := g.aonOsc
      avs := g.avs
      ir := g.ir
      boundary := g.boundary
      tdo := g.tdo
      freezeN := g.freezeN
      resetN := g.resetN })
  (s.bothF Fld.CAN_LEAK.STATE leak).bothF Fld.CAN_PWR_STATE.EPO epo

/-- RESET_ASSERT: FREEZE_N is ignored while RESET_N is asserted. -/
def execResetAssert (s : State) : Res :=
  goOn (s.coldReset.modPkg (fun x => { x with resetN := false, freezeN := false }))

/-- RESET_DEASSERT: the straps are latched (R26), the Canton that CANTON_SEL names holds the role (R294). With the main
rails off the device is in Off (R405). -/
def State.resetOff (s : State) (straps : Nat) : State :=
  let s := s.coldReset
  let s := s.both (fun p s => s.setWord p .TOP_STRAP 0 0 (wn (straps % 128)))
  let s := s.bothF Fld.TOP_CLK_STAT.AON_OK (b2n (!s.pkg.aonOsc))
  s.modPkg (fun x => { x with
    resetN := true
    off := !x.pwrgd
    active := some (if bit 0 straps then .fly else .hoist) })
def execResetDeassert (straps : BitVec 7) (s : State) : Res := goOn (s.when (!s.pkg.resetN) (·.resetOff straps.toNat))

/-- CORE_PLL_LOCK (R352, step 3; R363). -/
def State.pllLock (s : State) : State :=
  let s := s.both (fun p s =>
    if s.live p then
      let s := (s.setFlag p Fld.TOP_CLK_STAT.CORE_LOCK 0 true).setFlag p Fld.TOP_CLK_STAT.HALYARD_LOCK 0 true
      let s := (s.setF p Fld.TOP_CLK_STAT.REFCLK_OK 0 15).setF p Fld.TOP_CLK_STAT.CORE_MHZ 0 0x640
      if s.glOn p ∧ s.glStage p = 0 then s.glDetect p else s
    else s)
  if s.pkg.freezeN then s.freezeAll 0 else s
def execCorePllLock (s : State) : Res := goOn s.pllLock

/-- A tile that fails its start-up test is out of service, and its space with it. -/
def State.tileAbsent (s : State) (p : Plane) (t : Nat) : State :=
  let s := s.setFlag p Fld.MEM_TILE_STAT.FAIL t true
  let s := ((s.withdraw p 0 262144).withdraw p 1 16384).withdraw p 3 (s.spillBlk p * blk)
  (s.raise p 0x0703 (wn t) []).logError p 0x0D t 0 0 0

/-- SELF_TEST_DONE (R352, step 4): the units that passed, and whether Halyard is up. -/
def State.selfTest (s : State) (p : Plane) (pg chip tile elem : Nat) (hal : Bool) : State :=
  let s := s.modEpc p (fun x => { x with tested := true })
  let s := (s.setF p Fld.TOP_PG_STAT.PG_OK 0 pg).setF p Fld.TOP_UNIT_STAT.CHIPLET_OK 0 chip
  let s := s.setF p Fld.TOP_UNIT_STAT.TILE_OK 0 tile
  let n := popcount 24 elem
  let s := (s.setF p Fld.SWC_SPINE_STAT.ELEM_OK 0 elem).setF p Fld.SWC_SPINE_STAT.N 0 n
  let s := s.each ((List.range 16).filter (fun t => !bit t tile)) (fun t s => s.tileAbsent p t)
  let s := s.setFlag p Fld.TOP_PG_STAT.PLANE_OK 0 true
  let s := if hal then s.halStart p else s
  let s := if n < 18 then s.planeFail p 0x03 else s
  let s := if s.power = 0 ∧ s.pkg.moving = none then
      (s.bothF Fld.CAN_PWR_STATE.STATE 2).raisePower 2 0
    else s
  let s := s.both (fun q s => s.lasersOn q)
  let s := if s.halUp .hoist ∧ s.halUp .fly then s.splitEnd else s
  (s.enginesEnter p).startMove
def execSelfTestDone (p : Plane) (pg : BitVec 18) (chip : BitVec 9) (tile : BitVec 16) (elem : BitVec 24) (hal : Bool)
    (s : State) : Res :=
  goOn (s.when (s.runs p && s.flag p Fld.TOP_CLK_STAT.CORE_LOCK 0 && !(s.pl p).epc.tested)
    (·.selfTest p pg.toNat chip.toNat tile.toNat elem.toNat hal))

/-- STANDBY_SUPPLY_LOSS: everything but OTP and flash is lost; pins of the unpowered domain read as Table 13.4 says. -/
def execStandbySupplyLoss (s : State) : Res :=
  let g := s.pkg
  goOn { s with
    hoist := {}
    fly := {}
    pkg :=
      { svnFw := g.svnFw
        svnMc := g.svnMc
        revoked := g.revoked
        ownerFp := g.ownerFp
        flash0 := g.flash0
        flash1 := g.flash1
        view0 := g.view0
        view1 := g.view1
        optical := g.optical
        inv := g.saved
        saved := g.saved
        pwrOffReq := true
        pwrgd := false
        off := true
        resetN := false } }

/-- AON_CLK_LOSS, AON_CLK_RETURN (R408): the islands run on the internal oscillator meanwhile. -/
def State.aonClk (s : State) (ok : Bool) : State :=
  (s.modPkg (fun x => { x with aonOsc := !ok })).bothF Fld.TOP_CLK_STAT.AON_OK (b2n ok)
def execAonClkLoss (s : State) : Res := goOn (s.aonClk false)
def execAonClkReturn (s : State) : Res := goOn (s.aonClk true)

end Sys2Proof.Machine
end

