-- ==== Sys2Proof/Machine/Canton.lean ====
section
/-! DEFINITION. The two Cantons (R294 to R306): heartbeats, journal records, takeover and handover, health reports,
self-tests, boot. -/

namespace Sys2Proof.Machine

/-! ## Boot flash (Tables 10.4, 10.5) -/

/-- The offset of a slot, as a directory names it. -/
def slotOff (d : FlashDir) (slot : Nat) : Nat := if slot = 0 then d.offA else d.offB

/-- The bytes of a die's flash that the device has written. -/
def State.flashOf (s : State) (p : Plane) : SMap (Option Byte) :=
  match p with
  | .hoist => s.pkg.flash0
  | .fly => s.pkg.flash1
def State.flashPut (s : State) (p : Plane) (i : Nat) (b : Byte) : State :=
  s.modPkg (fun x => match p with
    | .hoist => { x with flash0 := mset none i (some b) x.flash0 }
    | .fly => { x with flash1 := mset none i (some b) x.flash1 })
def State.flashWrite (s : State) (p : Plane) (o : Nat) (bs : Bytes) : State :=
  s.each bs.zipIdx (fun e s => s.flashPut p (o + e.2) e.1)

/-- What the ROM of a die read of its flash at its last boot. -/
def State.flashView (s : State) (p : Plane) : Option FlashView :=
  match p with
  | .hoist => s.pkg.view0
  | .fly => s.pkg.view1
def State.setView (s : State) (p : Plane) (v : Option FlashView) : State :=
  s.modPkg (fun x => match p with
    | .hoist => { x with view0 := v }
    | .fly => { x with view1 := v })

/-- A directory's bytes: each word little-endian, then the CRC-32 of R77. -/
def dirBytes (d : FlashDir) : Bytes :=
  let b := leBytes 4 d.seq ++ leBytes 4 d.pref ++ leBytes 4 d.offA ++ leBytes 4 d.offB
  b ++ leBytes 4 (crc32 b).toNat

/-- Directory copy c: the one the device has written, else the one the ROM read. -/
def State.dirAt (s : State) (p : Plane) (c : Nat) : Option FlashDir :=
  let m := s.flashOf p
  if (mget none (0x1000 * c) m).isSome then
    let b := (List.range 20).map (fun i => (mget none (0x1000 * c + i) m).getD 0)
    let w := fun (k : Nat) => leNat (slice (4 * k) 4 b)
    if w 4 = (crc32 (slice 0 16 b)).toNat ∧ w 1 ≤ 1 then some ⟨w 0, w 1, w 2, w 3⟩ else none
  else (s.flashView p).bind (fun v => if c = 0 then v.dir0 else v.dir1)

/-- The valid copy with the higher sequence. -/
def State.flashDir (s : State) (p : Plane) : Option (Nat × FlashDir) :=
  match s.dirAt p 0, s.dirAt p 1 with
  | some a, some b => if a.seq < b.seq then some (1, b) else some (0, a)
  | some a, none => some (0, a)
  | none, some b => some (1, b)
  | none, none => none

/-- The preferred slot changes in a die's directory: the other copy is written with the next sequence. -/
def State.setPref (s : State) (p : Plane) (slot : Nat) : State :=
  match s.flashDir p with
  | some (c, d) => s.flashWrite p (0x1000 * (1 - c)) (dirBytes { d with seq := (d.seq + 1) % 2 ^ 32, pref := slot })
  | none => s

/-! ## Images (R303, R304) -/

/-- The header of a slot: bytes the device has written, else those the ROM read. -/
def State.slotHdr (s : State) (p : Plane) (d : FlashDir) (slot : Nat) : Bytes :=
  let base := slice 0 512 (((s.flashView p).map (fun v => if slot = 0 then v.hdrA else v.hdrB)).getD [])
  (base.zipIdx).map (fun e => (mget none (slotOff d slot + e.2) (s.flashOf p)).getD e.1)
def imgWord (h : Bytes) (o n : Nat) : Nat := leNat (slice o n h)
def imgSvn (h : Bytes) : Nat := imgWord h 12 1
def imgKey (h : Bytes) : Nat := imgWord h 6 1

/-- What the cryptographic checks find of a header and a body. -/
def proofOf (h body : Bytes) : ImgProof :=
  let key := slice 88 57 h
  ⟨slice 0 32 (Config.shake256 key) == Config.keyFp (imgKey h),
    Config.ed448Verify key (Config.shake256 (slice 0 256 h)) (slice 256 114 h),
    Config.shake256 body == slice 24 64 h⟩

/-- The same of a slot: of the image that the device has written there, else as the ROM found it. -/
def State.slotProof (s : State) (p : Plane) (d : FlashDir) (slot : Nat) : ImgProof :=
  let m := s.flashOf p
  let h := s.slotHdr p d slot
  if (mget none (slotOff d slot) m).isSome then
    proofOf h ((List.range (min 917504 (imgWord h 16 4))).map (fun i => (mget none (slotOff d slot + 512 + i) m).getD 0xFF))
  else ((s.flashView p).map (fun v => if slot = 0 then v.proofA else v.proofB)).getD ⟨false, false, false⟩

/-- The checks of R304 on an image of a type, whose anti-rollback counter is `ctr`: the code of the first failure, 0 for
none. -/
def imageCode (ty ctr : Nat) (revoked : BitVec 4) (h : Bytes) (c : ImgProof) : Nat :=
  let len := imgWord h 16 4
  if imgWord h 0 4 ≠ 0xC4A50B01 ∨ imgWord h 4 1 ≠ 1 ∨ imgWord h 5 1 ≠ ty ∨ len < 1 ∨ 917504 < len then 1
  else if 3 < imgKey h ∨ revoked.getLsbD (imgKey h) ∨ c.key = false then 2
  else if c.sig = false then 3
  else if imgSvn h < ctr then 4
  else if c.body = false then 5
  else 0

/-! ## Reset and roles -/

/-- A Canton is reset: its processors, SRAM and peripheral state (Table 11.4). The throttle is not part of it. -/
def State.canReset (s : State) (p : Plane) : State :=
  let s := s.modCan p (fun x =>
    { bootFails := x.bootFails
      fenced := x.fenced
      level := x.level
      belowAt := x.belowAt
      hot := x.hot
      held7 := x.held7
      pw := x.pw })
  let s := (s.setRole p .booting).setFlag p Fld.CAN_BOOT_STAT.OK 0 false
  ((s.setFlag p Fld.CAN_MBOX_CTL.SEND 0 false).setFlag p Fld.CAN_MBOX_CTL.BUSY 0 false).setFlag p Fld.CAN_MBOX_CTL.DONE 0 false

/-- A standby Canton is eligible (R299): its last health report has SRAM_OK and KAT_OK. -/
def State.canEligible (s : State) (q : Plane) : Bool :=
  s.canUp q && (s.pl q).can.role == .standby && leNat (slice 16 1 (s.pl q).can.health) % 4 == 3

/-- BOOT_FALLBACK is raised once a Canton is active (R304). -/
def State.fallbacks (s : State) : State :=
  if s.managed then s.both (fun p s =>
    match (s.pl p).can.fallbackDue with
    | some c => (s.modCan p (fun x => { x with fallbackDue := none })).cantonEvent 0x0916 p.num [c]
    | none => s)
  else s

/-- The other Canton is released from the fence and boots, unless it has failed to boot 3 times in a row. -/
def State.unfence (s : State) (p : Plane) : State :=
  if 3 ≤ (s.pl p).can.bootFails then s.modCan p (fun x => { x with fenced := true })
  else s.emit (.fence p false)

/-- The active Canton's addresses (R312): those of its flash's boot configuration, or one that autoconfiguration gives, a
free value. -/
def State.takeAddrs (s : State) (p : Plane) : State :=
  match s.flashView p with
  | none => s
  | some v =>
    let (f, s) := s.takeFree
    let (g, s) := s.takeFree
    s.modPkg (fun x => { x with
      ip6 := some (v.conf.ip6.getD (BitVec.ofNat 128 (Config.freeNat f)))
      ip4 := some (v.conf.ip4.getD (BitVec.ofNat 32 (Config.freeNat g))) })

/-- A Canton takes the role over (R298): fence, role, CANTON_TAKEOVER, the notifications not yet acknowledged, and those
that waited and whose record it has. -/
def State.takeover (s : State) (q : Plane) (cause : Nat) : State :=
  let o := q.other
  let s := (s.emit (.fence o true)).canReset o
  let s := s.modPkg (fun x => { x with active := some q, handing := false, activating := none })
  let s := (s.setRole q .active).modCan q (fun x => { x with peerRole := .booting })
  let s := s.bothF Fld.CAN_CTL.HANDOVER 0
  let s := s.both (fun p s => s.count p Fld.CAN_TAKEOVER_CNT.N 0)
  let s := s.modPkg (fun x => { x with inv := { x.inv with takeovers := x.inv.takeovers + 1 } })
  let s := s.journalAdd 2 3 (leBytes 4 s.pkg.inv.takeovers)
  let s := s.each s.pkg.unacked (fun n s => s.emit (.notify n.1 n.2.1 n.2.2.1 n.2.2.2.1 n.2.2.2.2))
  let applied := (s.pl q).can.jrn
  let due := s.pkg.held.filter (fun h => decide ((applied - h.jrn).toNat < 2 ^ 31))
  let s := s.modPkg (fun x => { x with held := [] })
  let s := s.each due (fun h s => s.sendHeld h.what)
  let s := s.cantonEvent 0x0901 q.num [cause]
  (((s.takeAddrs q).unfence o).fallbacks).startMove

/-- The standby is not eligible when the active Canton is lost (R299): CANTON_LOST at once in both rings, and a pulse of
the fence. -/
def State.cantonLost (s : State) (q : Plane) : State :=
  let o := q.other
  let s := s.both (fun p s => if s.live p then s.raise p 0x0902 (wn o.num) [] else s)
  let s := ((s.emit (.fence o true)).emit (.fence o false)).canReset o
  (s.modPkg (fun x => { x with active := none, handing := false, activating := none })).modCan q (fun x => { x with peerRole := .booting })

/-- The condition of R298 has arisen at standby q. -/
def State.standbyActs (s : State) (q : Plane) (cause : Nat) : State :=
  if s.canUp q ∧ (s.pl q).can.role = .standby ∧ s.pkg.active = some q.other ∧ s.halUp q ∧ ¬ s.pkg.split then
    if s.canEligible q then s.takeover q cause else s.cantonLost q
  else s

/-! ## Heartbeats (R295, R296) -/

/-- A heartbeat leaves (Table 10.1). -/
def State.heartbeatOut (s : State) (p : Plane) : State :=
  let c := (s.pl p).can
  let b := leBytes 1 c.role.num ++ leBytes 2 c.hbSeq.toNat ++ leBytes 4 c.jrn.toNat ++ leBytes 8 (s.now p).toNat ++
    leBytes 2 c.healthSeq.toNat ++ List.replicate 238 0
  (s.modCan p (fun x => { x with hbSeq := x.hbSeq + 1 })).halControl p 1 b

/-- HEARTBEAT_SEND. -/
def execHeartbeatSend (p : Plane) (s : State) : Res :=
  goOn (s.when (s.canUp p) (fun s => (s.heartbeatOut p).when (s.mgr == some p) (·.both (fun q s => s.logRead q))))

/-- A heartbeat of the other Canton: what the standby has reported releases what waits for it; ROLE 0 from the active
Canton is the condition of R298. -/
def State.heartbeatIn (s : State) (p : Plane) (role : Nat) (jrn : BitVec 32) : State :=
  let s := s.modCan p (fun x => { x with peerRole := roleOf role, jrnHeard := jrn })
  if s.mgr = some p then s.releaseHeld p
  else if role = 0 then s.standbyActs p 0
  else s

/-- May a Canton take the role while none is active (R299); not while the package is split (R294). -/
def State.claims (s : State) (q : Plane) : Bool :=
  !s.pkg.split && s.canEligible q && (s.pl q).can.peerRole != .active && (s.pl q).can.peerRole != .handing

/-- CANTON_CLAIM: where both qualify, the Canton that CANTON_SEL names takes the role. -/
def State.claim (s : State) (p : Plane) : State :=
  let q := if s.claims p.other then (if s.flag p Fld.TOP_STRAP.CANTON_SEL 0 then .fly else .hoist) else p
  s.takeover q 2

/-! ## Journal and health (R296, R297) -/

/-- The other Canton's report is taken in. -/
def State.peerReport (s : State) (p : Plane) (b : Bytes) : State :=
  (s.modCan p (fun x => { x with peerRep := slice 0 64 b })).setF p Fld.CAN_STAT.OTHER_OK 0
    (b2n (leNat (slice 16 1 b) % 4 == 3))

/-- A record of the other Canton: the standby applies it, the active Canton takes a health report from it. -/
def State.journalIn (s : State) (p : Plane) (seq : BitVec 32) (r : JournalRec) : State :=
  let s := if r.item = 7 then s.peerReport p r.data else s
  if s.pkg.active = some p then s
  else s.modCan p (fun x => { x with
    jrn := seq
    journal := mset [] (r.item.toNat * 2 ^ 32 + r.key % 2 ^ 32) r.data x.journal })

/-- JOURNAL_RECORD. -/
def execJournalRecord (p : Plane) (seq : BitVec 32) (r : JournalRec) (s : State) : Res :=
  goOn (s.when (s.canUp p && s.halUp p && (s.pl p).can.role != .booting) (fun s => s.journalIn p seq r))

/-- The 64 bytes of a health report (Table 10.2). -/
def State.healthBytes (s : State) (p : Plane) (flashOk : Bool) : Bytes :=
  let c := (s.pl p).can
  let flags := b2n c.sramOk + 2 * b2n c.katOk + 4 * b2n (c.shadows.all id) + 8 * b2n flashOk + 16 * b2n c.suspect +
    32 * b2n s.pkg.split
  let faults := ((List.range 119).filter (fun k => s.flag p Fld.CAN_SENSOR.FAULT k)).length
  [1] ++ leBytes 1 (c.role.num + 4 * p.num) ++ leBytes 2 c.healthSeq.toNat ++
    leBytes 4 ((s.ticks - c.bootTick) / 1600000000) ++ leBytes 8 s.trayNow.toNat ++ leBytes 1 flags ++
    leBytes 1 (s.thrLevel p) ++ leBytes 2 ((c.pw.head?.map (·.2)).getD 0) ++
    leBytes 2 (ofInt 16 (((s.hottest p).getD 0) / 10)) ++ leBytes 2 faults ++ leBytes 4 c.shadowAll ++
    leBytes 4 c.marches ++ List.replicate 32 0

/-- A report is formed: the standby's shadow run, CAN_HEALTH, a journal record. Disagreement in 3 polls in a row sets
ACTIVE_SUSPECT, and the active Canton raises HEALTH_FAIL. -/
def State.healthReport (s : State) (p : Plane) (agree flashOk : Bool) : State :=
  let sby := (s.pl p).can.role == .standby
  let was := (s.pl p).can.suspect
  let s := if sby then s.modCan p (fun x =>
      let l := agree :: x.shadows.take 2
      { x with
        shadows := l
        shadowAll := x.shadowAll + b2n (!agree)
        suspect := decide (l.length = 3) && l.all (fun b => !b) })
    else s.modCan p (fun x => { x with shadows := [], suspect := false })
  let s := s.modCan p (fun x => { x with healthSeq := x.healthSeq + 1 })
  let b := s.healthBytes p flashOk
  let s := s.modCan p (fun x => { x with health := b })
  let s := s.each (List.range 16) (fun w s => s.setWord p .CAN_HEALTH w 0 (wn (leNat (slice (4 * w) 4 b))))
  let s := if s.mgr = some p then s.journalAdd 7 p.num b
    else s.halControl p 2 ([0, 0, 0] ++ leBytes 4 (s.pl p).can.jrn.toNat ++ leBytes 2 64 ++ b ++ List.replicate 182 0)
  if (s.pl p).can.suspect ∧ ¬ was ∧ s.halUp p then s.cantonEvent 0x0903 p.num [leNat (slice 16 1 b)] else s

/-- The next segment of the march test, or the known-answer test. -/
def State.selfTick (s : State) (p : Plane) (kat ok : Bool) : State :=
  s.modCan p (fun x =>
    if kat then { x with katOk := ok }
    else
      let good := x.marchGood && ok
      if x.marchSeg + 1 < 256 then { x with marchSeg := x.marchSeg + 1, marchGood := good }
      else { x with
        marchSeg := 0
        marchGood := true
        sramOk := good
        marches := x.marches + 1 })

/-- SELF_TEST_TICK. -/
def execSelfTestTick (p : Plane) (kat ok : Bool) (s : State) : Res :=
  goOn (s.when (s.canUp p && (s.pl p).can.role == .standby) (fun s => s.selfTick p kat ok))

/-! ## The tray master (R314, R315) -/

/-- The device's slot, and whether its cascade port is enabled. -/
def State.slot (s : State) : Nat := s.fld .hoist Fld.TOP_STRAP.CASC_PRIO 0
def State.cascEn (s : State) : Bool := s.flag .hoist Fld.TOP_STRAP.CASC_EN 0
def State.isMaster (s : State) : Bool := s.flag .hoist Fld.CAN_STAT.MASTER 0

/-- The tray master changes (R315). -/
def State.setMaster (s : State) (m : Option Nat) : State :=
  let old := (s.pkg.master.map (fun v => v.toNat)).getD 15
  let new := m.getD 15
  if old = new then s else
    let s := s.modPkg (fun x => { x with master := m.map (BitVec.ofNat 3) })
    let s := (s.bothF Fld.CAN_STAT.MASTER (b2n (decide (new = s.slot)))).bothF Fld.CAN_STAT.MASTER_SLOT new
    (s.journalAdd 4 0 (leBytes 1 new)).cantonEvent 0x0913 new [old]

/-! ## Watchdog and boot -/

/-- CANTON_WATCHDOG (R298): the Canton boots again and keeps the role it holds. -/
def execCantonWatchdog (p : Plane) (s : State) : Res :=
  goOn (s.when (s.canUp p && (s.pl p).can.role != .booting && s.fld p Fld.CAN_HB_CFG.WDT_MS 0 != 0) (·.canReset p))

/-- A boot has failed (R298): after 3 in a row the fence holds the Canton until the next RESET_N. -/
def State.bootFailed (s : State) (p : Plane) : State :=
  let n := (s.pl p).can.bootFails + 1
  let s := s.modCan p (fun x => { x with bootFails := n })
  if 3 ≤ n ∧ s.pkg.active = some p.other then
    (s.emit (.fence p true)).modCan p (fun x => { x with fenced := true })
  else s

/-- An image has passed: FW_MEAS is recorded and the body starts. -/
def State.imageStarts (s : State) (p : Plane) (h : Bytes) (slot : Nat) : State :=
  let s := s.modCan p (fun x => { x with
    inRom := false
    imgRuns := true
    fwMeas := slice 0 64 (Config.shake256 (slice 0 256 h))
    keySlot := imgKey h
    bootSlot := slot })
  (s.setF p Fld.CAN_BOOT_STAT.SLOT 0 slot).setF p Fld.CAN_BOOT_STAT.FW_SVN 0 (imgSvn h)

/-- The boot ROM (R304) reads the flash, `none` where it cannot be read (code 6): the preferred slot, then the other. -/
def State.bootRom (s : State) (p : Plane) (v : Option FlashView) : State :=
  let s := s.setView p v
  match (if v.isSome then s.flashDir p else none) with
  | none =>
    let s := s.setF p Fld.CAN_BOOT_STAT.FAIL 0 6
    (s.modCan p (fun x => { x with inRom := true })).bootFailed p
  | some (_, d) =>
    let code := fun (slot : Nat) => imageCode 1 s.pkg.svnFw s.pkg.revoked (s.slotHdr p d slot)
      (s.slotProof p d slot)
    let c := code d.pref
    if c = 0 then (s.setFlag p Fld.CAN_BOOT_STAT.FALLBACK 0 false).imageStarts p (s.slotHdr p d d.pref) d.pref
    else
      let e := code (1 - d.pref)
      let h := s.slotHdr p d (1 - d.pref)
      let s := s.setF p Fld.CAN_BOOT_STAT.FAIL 0 c
      if e = 0 then
        let s := (s.setFlag p Fld.CAN_BOOT_STAT.FALLBACK 0 true).imageStarts p h (1 - d.pref)
        s.modCan p (fun x => { x with fallbackDue := some c })
      else
        let s := s.setF p Fld.CAN_BOOT_STAT.FAIL 0 e
        (s.modCan p (fun x => { x with inRom := true })).bootFailed p

/-- The firmware loads a microcode image that passes the checks of R304 for TYPE 0x02; another leaves what was loaded. -/
def State.loadMicrocode (s : State) (p : Plane) (mc : Option Image) : State :=
  match mc with
  | none => s
  | some m =>
    if imageCode 2 s.pkg.svnMc s.pkg.revoked m.hdr m.proof = 0 then
      s.modCan p (fun x => { x with microcode := BitVec.ofNat 32 (imgWord m.hdr 8 4), mcSvn := imgSvn m.hdr })
    else s

/-- A Canton has booted and tested itself, and its firmware has loaded `mc`: it takes the role it holds, or stands by.
While Halyard is down the package is split (R300). -/
def State.bootEnd (s : State) (p : Plane) (mc : Option Image) : State :=
  let t := s.ticks
  let s := s.modCan p (fun x => { x with
    bootFails := 0
    bootTick := t
    sramOk := true
    katOk := true })
  let s := (s.loadMicrocode p mc).setFlag p Fld.CAN_BOOT_STAT.OK 0 true
  let s := if s.pkg.active = some p then
      let first := !s.pkg.fwRan
      let s := (s.setRole p .active).modPkg (fun x => { x with fwRan := true })
      let held := ((s.flashView p).map (fun v => v.conf.startHeld)).getD false
      let s := if first ∧ held then s.bothF Fld.CAN_PWR_STATE.RM_LIMIT 1 else s
      let s := (s.takeAddrs p).both (fun q s => s.lasersOn q)
      let s := s.both (fun q s => if s.live q then s.enginesEnter q else s)
      if s.cascEn then s else s.setMaster (some s.slot)
    else s.setRole p .standby
  let s := if s.halUp .hoist && s.halUp .fly then s else s.halDown
  (s.fallbacks).startMove

/-! ## Handover (R301) -/

/-- A handover may start: the standby is eligible, the package whole, no EPO. -/
def State.canHand (s : State) : Bool :=
  match s.mgr with
  | some p => !s.pkg.split && !s.noOrders && s.canEligible p.other
  | none => false

/-- The active Canton sets ROLE 3 and finishes its journal. -/
def State.handStart (s : State) : State :=
  match s.mgr with
  | some p => (s.setRole p .handing).modPkg (fun x => { x with handing := true })
  | none => s

/-- A write of CAN_CTL.HANDOVER in plane p's window: it starts R301 if this plane's Canton is active. -/
def State.handReg (s : State) (p : Plane) : State :=
  if s.mgr = some p ∧ s.canHand then (s.setFlag p Fld.CAN_CTL.HANDOVER 0 true).handStart else s

/-- NOTIFY_ACK (R296). -/
def State.notifyAck (s : State) (seq : BitVec 32) : State :=
  (s.modPkg (fun x => { x with unacked := x.unacked.filter (fun n => n.1 != seq) })).journalAdd 6 seq.toNat []
def execNotifyAck (seq : BitVec 32) (s : State) : Res := goOn (s.when s.managed (·.notifyAck seq))

end Sys2Proof.Machine
end

