-- ==== Sys2Proof/Machine/Mgmt.lean ====
section
/-! DEFINITION. Management messages and the tray (R307 to R319, R328, R333, R334): what requests do, how they are carried
and answered, tray master, tray time, tray cap, inventory and neighbour report. -/

namespace Sys2Proof.Machine

/-! ## Messages (R308, Table 10.7) -/

def msgHeader (code flags status : Nat) (seq : BitVec 32) (target : Byte) (part len : Nat) : Bytes :=
  [1] ++ leBytes 1 code ++ leBytes 1 flags ++ leBytes 1 status ++ leBytes 4 seq.toNat ++ [target] ++ leBytes 1 part ++
    leBytes 2 len ++ [0, 0, 0, 0]

/-- The header and body of a request, which its signature covers. -/
def reqBytes (code : Nat) (r : MgmtReq) : Bytes :=
  msgHeader code (2 * b2n r.signed) 0 r.seq r.target 0 r.body.length ++ r.body

/-- A whole request message. -/
def reqMsg (code : Nat) (r : MgmtReq) : Bytes := reqBytes code r ++ (if r.signed then slice 0 114 r.sig else [])

/-- A frame to a member leaves by NEXT, and by PREV where NEXT is down (R314), once the standby has the journal (R296). -/
def State.cascTo (s : State) (slot type : Nat) (payload : Bytes) : State :=
  let f : CascFrame := ⟨BitVec.ofNat 4 s.slot, BitVec.ofNat 4 slot, BitVec.ofNat 8 type, payload, true⟩
  s.sendOut (.casc (if s.sideUp .next then .next else .prev) f)

/-- A broadcast leaves on both sides; TIME frames (type 3), which carry no change of state, at once. -/
def State.cascAll (s : State) (type : Nat) (payload : Bytes) : State :=
  let f : CascFrame := ⟨BitVec.ofNat 4 s.slot, 0xF, BitVec.ofNat 8 type, payload, true⟩
  if type = 3 then (s.emit (.casc .next f)).emit (.casc .prev f)
  else (s.sendOut (.casc .next f)).sendOut (.casc .prev f)

/-- A message goes back over the transport its request arrived on (R308, R310). On a fabric port that is not Active it
waits for credit of the management exchange (R50). -/
def State.sendBack (s : State) (via : Plane) (t : Transport) (msg : Bytes) : State :=
  match t with
  | .ethernet => s.sendOut (.mgmt .ethernet msg)
  | .cascade slot => s.cascTo slot.toNat 2 msg
  | .mailbox =>
    let s := s.each (List.range ((msg.length + 3) / 4)) (fun w s =>
      s.setWord via .CAN_MBOX_RX w 0 (wn (leNat (slice (4 * w) 4 msg))))
    (s.setFlag via Fld.CAN_MBOX_CTL.DONE 0 true).setFlag via Fld.CAN_MBOX_CTL.BUSY 0 false
  | .fabric code ret =>
    let c := code.toNat
    let k := fun (vc : BitVec 4) => mkPkt 4 0 ret (s.epId via 3) vc 0 0 0 false false msg
    if c < 576 ∧ s.stage via c ≠ 5 then
      s.modPort via c (fun x => { x with mgmtTx := x.mgmtTx ++ [k 8] })
    else if 0xFF00 ≤ ret.toNat then s.respondOn via 580 c (k 0)
    else s.originate via 580 (k 0)

/-- The parts of a response body: 1,088 bytes each, one where it is short. -/
def partsOf (b : Bytes) : List Bytes :=
  (List.range (max 1 ((b.length + 1087) / 1088))).map (fun k => (b.drop (1088 * k)).take 1088)

/-- A request is answered. -/
def State.answer (s : State) (code : Nat) (r : MgmtReq) (status : Nat) (body : Bytes) : State :=
  let ps := partsOf body
  s.each ps.zipIdx (fun e s =>
    let more := decide (e.2 + 1 < ps.length)
    s.sendBack r.via r.transport (msgHeader code (1 + 8 * b2n more) status r.seq r.target e.2 e.1.length ++ e.1))

/-! ## Who may ask what (R309, Table 10.8) -/

/-- Codes of Table 10.8; those the host mailbox permits; those marked signed. -/
def mgmtCodes : List Nat :=
  [0x01, 0x02, 0x03, 0x04, 0x05, 0x10, 0x11, 0x20, 0x21, 0x22, 0x23, 0x24, 0x30, 0x31, 0x40]
def mailboxOk (code : Nat) : Bool := decide (code ≤ 5)
def signedCode (code : Nat) : Bool := mgmtCodes.contains code && decide (0x10 ≤ code ∧ code ≤ 0x31)

/-- The signing key: the final 57 bytes of the body; what stands before it. -/
def signKey (r : MgmtReq) : Bytes := r.body.drop (r.body.length - 57)
def mgmtArgs (r : MgmtReq) : Bytes := r.body.take (r.body.length - 57)

/-- The checks of R309: the STATUS of the first that fails, 0 where the request is accepted. -/
def State.sigStatus (s : State) (code : Nat) (r : MgmtReq) : Nat :=
  let good := r.signed && decide (57 ≤ r.body.length) && r.verifies &&
    (match s.pkg.ownerFp with
      | some fp => slice 0 32 r.fp == fp
      | none => code == 0x24)
  if ¬ good then 3 else if s.pkg.signedSeq < r.seq then 0 else 4

/-- An accepted signed request is remembered (R296). -/
def State.signedIn (s : State) (seq : BitVec 32) : State :=
  (s.modPkg (fun x => { x with signedSeq := seq })).journalAdd 5 0 (leBytes 4 seq.toNat)

/-- A request reaches the active Canton (R309, R310): one that cannot reach it is answered BUSY while the package is
split; the mailbox carries some codes only; one for another member is relayed by the tray master; the signature is
checked; `act` performs it. -/
def State.serve (s : State) (code : Nat) (r : MgmtReq) (act : Plane → State → State) : State :=
  match s.mgr with
  | none => s
  | some p =>
    if s.pkg.split ∧ r.via ≠ p then s.answer code r 6 []
    else if r.transport = .mailbox ∧ mgmtCodes.contains code ∧ ¬ mailboxOk code then s.answer code r 2 []
    else if r.target ≠ 0xFF ∧ r.target.toNat ≠ s.slot then
      if s.isMaster ∧ r.target.toNat < 8 then
        (s.modPkg (fun x => { x with relays := x.relays ++ [(r.seq, r.target.toNat, r.transport, r.via)] })).cascTo
          r.target.toNat 2 (reqMsg code r)
      else s.answer code r 5 []
    else if signedCode code then
      let st := s.sigStatus code r
      if st = 0 then act p (s.signedIn r.seq)
      else (s.count p Fld.CAN_SIG_FAIL.N 0).answer code r st []
    else act p s

/-- The request is performed and answered OK, or refused. -/
def State.okIf (s : State) (code : Nat) (r : MgmtReq) (b : Bool) (f : State → State) : State :=
  if b then (f s).answer code r 0 [] else s.answer code r 5 []

/-! ## Reports -/

/-- HEALTH_GET: both reports, Hoist's first. -/
def State.healthGet (s : State) (r : MgmtReq) : State :=
  s.serve 1 r (fun p s =>
    let own := slice 0 64 (s.pl p).can.health
    let oth := slice 0 64 (s.pl p).can.peerRep
    s.answer 1 r 0 (if p = .hoist then own ++ oth else oth ++ own))

/-- The numbers of the inventory (Table 10.9), stamped with tray time. -/
def Inventory.numbers (x : Inventory) : List Nat :=
  [x.hours, x.cycles, x.epos, x.trips, x.takeovers] ++ x.laneMin.flatMap (fun e => [e.1, e.2]) ++
    x.repairs.flatMap (fun e => [e.1, e.2.1, e.2.2.1, e.2.2.2]) ++ x.lpRows.flatMap (fun e => [e.1, e.2]) ++
    x.slots.flatMap (fun e => [e.1, e.2.1, e.2.2]) ++ x.lpInfo.flatMap (fun e => [e.1, e.2]) ++
    x.lasers.flatMap (fun e => [e.1, e.2])
def State.inventoryBytes (s : State) : Bytes :=
  Config.recordBytes 2 ([Config.serial.toNat, 0x1152, b2n s.pkg.optical, s.fld .hoist Fld.TOP_CHIP_ID.STEP_MAJOR 0,
    s.fld .hoist Fld.TOP_CHIP_ID.STEP_MINOR 0, Config.boardSerial, Config.boardRev, s.trayNow.toNat] ++ s.pkg.inv.numbers)

/-- INVENTORY_GET: the tray master adds the records gathered from the members. -/
def State.inventoryGet (s : State) (r : MgmtReq) (members : List (BitVec 4 × Bytes)) : State :=
  s.serve 2 r (fun _ s => s.answer 2 r 0 (s.inventoryBytes ++ if s.isMaster then members.flatMap (·.2) else []))

/-- SENSOR_GET: first index and count, a byte each; the readings as CAN_SENSOR shows them at the active Canton's plane. -/
def State.sensorGet (s : State) (r : MgmtReq) : State :=
  s.serve 3 r (fun p s =>
    let a := leNat (slice 0 1 r.body)
    let n := leNat (slice 1 1 r.body)
    let ks := ((List.range n).map (· + a)).filter (· < 119)
    s.answer 3 r 0 (ks.flatMap (fun k => leBytes 4 (s.word p .CAN_SENSOR k 0).toNat)))

/-- The attestation report (Table 10.6). -/
def State.attestBytes (s : State) (p : Plane) (nonce : Bytes) : Bytes :=
  let me := (s.pl p).can
  let oth := (s.pl p.other).can
  let sby := if s.pkg.split then s.pkg.peerMeas else if oth.role = .standby then oth.fwMeas else []
  let mixed := decide (sby ≠ [] ∧ sby ≠ me.fwMeas)
  let flags := b2n mixed + 2 * b2n (s.flag p Fld.CAN_BOOT_STAT.FALLBACK 0) + 4 * b2n s.pkg.split +
    8 * b2n (s.pkg.cfgStale || s.pkg.splitCommit)
  let b := [1] ++ leBytes 1 flags ++ leBytes 2 0x1152 ++ leBytes 1 (16 * b2n s.pkg.optical + 1) ++ leBytes 1 p.num ++
    [0, 0] ++ leBytes 8 Config.serial.toNat ++ slice 0 32 nonce ++ leBytes 8 s.trayNow.toNat ++
    leBytes 8 s.pkg.cfgMeasSeq.toNat ++ slice 0 16 Config.idFp ++ slice 0 64 me.fwMeas ++ slice 0 64 sby ++
    slice 0 64 s.pkg.cfgMeas ++ leBytes 1 (s.fld p Fld.CAN_BOOT_STAT.FW_SVN 0) ++ leBytes 1 s.pkg.svnFw ++
    leBytes 1 s.pkg.svnMc ++ leBytes 1 me.keySlot ++ leBytes 1 s.pkg.revoked.toNat ++ List.replicate 11 0
  b ++ slice 0 114 (Config.ed448Sign (Config.shake256 b)) ++ List.replicate 14 0

/-- ATTEST. -/
def State.attest (s : State) (r : MgmtReq) : State :=
  s.serve 4 r (fun p s => s.answer 4 r 0 (s.attestBytes p (slice 0 32 r.body)))

/-- A row of the neighbour report (R333), for a port with a wiring plan entry or a far end. Classes: 0 DOWN, 1 MISSING,
2 QUARANTINED, 3 ACTIVE. -/
def State.neighRow (s : State) (p : Plane) (i : Nat) : Option Neigh :=
  let w := fun (k : Nat) => (s.word p .LNE_FAR_ENSIGN i k).toNat
  let st := s.stage p i
  if s.flag p Fld.LNE_WIRE_CTL.VALID i ∨ w 0 ≠ 0 then
    some
      { cls := if st = 5 then 3 else if st = 6 then 2 else if (s.port p i).told ∧ st = 1 then 1 else 0
        reason := s.fld p Fld.LNE_PORT_STAT.REASON i
        serial := BitVec.ofNat 64 (w 2 + 2 ^ 32 * w 3)
        port := BitVec.ofNat 16 (w 9)
        ep := BitVec.ofNat 16 (w 8) }
  else none
def State.neighRows (s : State) : List (Nat × Option Neigh) :=
  planes.flatMap (fun p => (List.range 576).map (fun i => (576 * p.num + i, s.neighRow p i)))
def neighNumbers (e : Nat × Option Neigh) : List Nat :=
  match e.2 with
  | some n => [e.1, n.cls, n.reason, n.serial.toNat % 2 ^ 32, n.serial.toNat / 2 ^ 32, n.port.toNat, n.ep.toNat]
  | none => [e.1, 0xFF]

/-- NEIGHBOUR_GET. -/
def State.neighbourGet (s : State) (r : MgmtReq) : State :=
  s.serve 5 r (fun _ s =>
    s.answer 5 r 0 (Config.recordBytes 3 ((s.neighRows.filter (fun e => e.2.isSome)).flatMap neighNumbers)))

/-! ## Orders -/

/-- CAP_SET: SCOPE in byte 0, CAP in bytes 1 and 2. -/
def State.capSet (s : State) (r : MgmtReq) : State :=
  s.serve 0x10 r (fun p s =>
    let a := mgmtArgs r
    let scope := leNat (slice 0 1 a)
    let cap := leNat (slice 1 2 a)
    s.okIf 0x10 r (decide (a.length = 3) && !s.noOrders && (scope == 0 || (scope == 1 && s.isMaster))) (fun s =>
      if scope = 0 then s.setCap p Fld.CAN_CAP_RM.CAP cap else (s.modPkg (fun x => { x with trayCap := cap })).journalAdd 0 3 (leBytes 2 cap)))

/-- POWER_SET: LIMIT above Off raises the request to power off, unless a loop is WET (R322, R327). -/
def State.rmPower (s : State) (p : Plane) (limit : Nat) : State :=
  let s := (s.pkgF p Fld.CAN_PWR_STATE.RM_LIMIT 0 limit).journalAdd 0 1 (leBytes 1 limit)
  let wet := s.pkg.loops.any (fun l => l.2.wetAt.isSome)
  (if limit ≠ 0 ∧ ¬ wet then s.pwrOff false else s).startMove
def State.powerSet (s : State) (r : MgmtReq) : State :=
  s.serve 0x11 r (fun p s =>
    let a := mgmtArgs r
    let limit := leNat (slice 0 1 a)
    s.okIf 0x11 r (decide (a.length = 1 ∧ limit ≤ 3) && !s.noOrders) (fun s => s.rmPower p limit))

/-- FW_WRITE: an offset and up to 1,024 bytes, into the non-preferred slot of both flashes. -/
def State.fwPut (s : State) (q : Plane) (off : Nat) (b : Bytes) : State :=
  match s.flashDir q with
  | none => s
  | some (_, d) =>
    let slot := 1 - d.pref
    let o := slotOff d slot
    let s := s.flashWrite q (o + off) b
    let h := s.slotHdr q d slot
    let v := (leNat (slice 8 4 h), leNat (slice 12 1 h))
    s.invSet (0x2000 + 2 * q.num + slot) (leBytes 4 v.1 ++ leBytes 1 v.2)
      (fun x => { x with slots := mset (0, 0) (2 * q.num + slot) v x.slots })
def State.fwWrite (s : State) (r : MgmtReq) : State :=
  s.serve 0x20 r (fun _ s =>
    let a := mgmtArgs r
    let off := leNat (slice 0 4 a)
    let n := a.length - 4
    s.okIf 0x20 r (decide (4 ≤ a.length ∧ n ≤ 1024 ∧ off + n ≤ 1048576)) (fun s =>
      s.both (fun q s => s.fwPut q off (a.drop 4))))

/-- FW_ACTIVATE (R311): both directories prefer the written slot, and the standby restarts on it. The answer follows when
the standby has booted, or has failed to. -/
def State.fwActivate (s : State) (r : MgmtReq) : State :=
  s.serve 0x21 r (fun p s =>
    let q := p.other
    match s.flashDir p, s.flashDir q with
    | some (_, dp), some (_, dq) =>
      if s.pkg.split ∨ s.noOrders ∨ s.pkg.handing ∨ s.pkg.activating.isSome ∨ (s.pl q).can.fenced then s.answer 0x21 r 5 []
      else
        let a : Activation :=
          { req := r
            prefH := if p = .hoist then dp.pref else dq.pref
            prefF := if p = .hoist then dq.pref else dp.pref
            fails := (s.pl q).can.bootFails }
        let s := ((s.setPref p (1 - dp.pref)).setPref q (1 - dq.pref)).canReset q
        s.modPkg (fun x => { x with activating := some a })
    | _, _ => s.answer 0x21 r 5 [])

/-- Has the standby `q` failed to boot the new image: a failed boot, the ROM, or the other slot (R311). -/
def State.activateFailed (s : State) (q : Plane) (a : Activation) : Bool :=
  let c := (s.pl q).can
  decide (a.fails < c.bootFails) || c.inRom || c.imgRuns && decide (c.bootSlot = if q = .hoist then a.prefH else a.prefF)

/-- FW_ACTIVATE under way goes on (R311): where the standby failed, both directories return and the answer is REFUSED;
once it is eligible, the answer is OK and the handover starts. -/
def State.activateNext (s : State) : State :=
  match s.pkg.activating, s.mgr with
  | some a, some p =>
    if s.activateFailed p.other a then
      let s := (s.setPref .hoist a.prefH).setPref .fly a.prefF
      (s.modPkg (fun x => { x with activating := none })).answer 0x21 a.req 5 []
    else if s.canHand ∧ ¬ s.pkg.handing then
      ((s.modPkg (fun x => { x with activating := none })).answer 0x21 a.req 0 []).handStart
    else s
  | _, _ => s

/-- SVN_COMMIT (R305): a counter rises to the SVN of the image that runs. -/
def State.svnCommit (s : State) (r : MgmtReq) : State :=
  s.serve 0x22 r (fun p s =>
    let a := mgmtArgs r
    let ty := leNat (slice 0 1 a)
    s.okIf 0x22 r (decide (a.length = 1 ∧ 1 ≤ ty ∧ ty ≤ 2)) (fun s =>
      if ty = 1 then s.modPkg (fun x => { x with svnFw := max x.svnFw (s.fld p Fld.CAN_BOOT_STAT.FW_SVN 0) })
      else s.modPkg (fun x => { x with svnMc := max x.svnMc (s.pl p).can.mcSvn })))

/-- KEY_REVOKE (R305): the slot in byte 0, then the statement. -/
def State.keyRevoke (s : State) (r : MgmtReq) (by_ : Nat → Option Nat) : State :=
  s.serve 0x23 r (fun _ s =>
    let a := mgmtArgs r
    let k := leNat (slice 0 1 a)
    let ok := fun (x : Nat) => decide (x < 4) && !s.pkg.revoked.getLsbD x
    let signer : Bool := (by_ k).any (fun j => j != k && ok j)
    let last := decide (((List.range 4).filter ok) = [k])
    s.okIf 0x23 r (decide (1 ≤ a.length ∧ k < 4) && signer && !last) (fun s =>
      s.modPkg (fun x => { x with revoked := x.revoked ||| BitVec.ofNat 4 (2 ^ k) })))

/-- OWNER_SET (R309): OWNER_FP is written once, from the key that signed. -/
def State.ownerSet (s : State) (r : MgmtReq) : State :=
  s.serve 0x24 r (fun _ s =>
    s.okIf 0x24 r (s.pkg.ownerFp == none) (fun s =>
      s.modPkg (fun x => { x with ownerFp := some (slice 0 32 r.fp) })))

/-- HANDOVER (R301). -/
def State.handover (s : State) (r : MgmtReq) : State :=
  s.serve 0x30 r (fun _ s => s.okIf 0x30 r s.canHand (·.handStart))

/-- A slot that ANNOUNCE frames show eligible. -/
def State.heardAt (s : State) (k : Nat) : Option SlotHeard := mget none k s.pkg.heard
def State.heardOk (s : State) (k : Nat) : Bool := (s.heardAt k).any (·.eligible)

/-- MASTER_HANDOVER: the new master's slot in byte 0. -/
def State.masterHandover (s : State) (r : MgmtReq) : State :=
  s.serve 0x31 r (fun _ s =>
    let a := mgmtArgs r
    let k := leNat (slice 0 1 a)
    s.okIf 0x31 r (decide (a.length = 1 ∧ k < 8) && s.isMaster && s.heardOk k) (·.setMaster (some k)))

/-- A code that Table 10.8 does not hold is answered UNKNOWN; one that no request may carry, DENIED. -/
def State.mgmtUnknown (s : State) (code : Nat) (r : MgmtReq) : State :=
  s.serve code r (fun _ s => s.answer code r (if mgmtCodes.contains code then 2 else 1) [])

/-- A request by its code. -/
def State.mgmtDo (s : State) (code : Nat) (r : MgmtReq) : State :=
  match code with
  | 0x01 => s.healthGet r
  | 0x02 => s.inventoryGet r []
  | 0x03 => s.sensorGet r
  | 0x04 => s.attest r
  | 0x05 => s.neighbourGet r
  | 0x10 => s.capSet r
  | 0x11 => s.powerSet r
  | 0x20 => s.fwWrite r
  | 0x21 => s.fwActivate r
  | 0x22 => s.svnCommit r
  | 0x23 => s.keyRevoke r (fun k => Config.revokedBy k ((mgmtArgs r).drop 1))
  | 0x24 => s.ownerSet r
  | 0x30 => s.handover r
  | 0x31 => s.masterHandover r
  | c => s.mgmtUnknown c r

/-- A request with what the cryptographic checks find of it. -/
def checkedReq (code : Nat) (r : MgmtReq) : MgmtReq :=
  { r with
    fp := slice 0 32 (Config.shake256 (signKey r))
    verifies := Config.ed448Verify (signKey r) (Config.shake256 (reqBytes code r)) (slice 0 114 r.sig) }

/-- A message read as a request. -/
def parseReq (via : Plane) (t : Transport) (b : Bytes) : Nat × MgmtReq :=
  let len := leNat (slice 10 2 b)
  let flags := leNat (slice 2 1 b)
  let code := leNat (slice 1 1 b)
  let r : MgmtReq :=
    { via := via
      transport := t
      signed := bit 1 flags
      seq := BitVec.ofNat 32 (leNat (slice 4 4 b))
      target := BitVec.ofNat 8 (leNat (slice 8 1 b))
      body := slice 16 len b
      sig := slice (16 + len) 114 b
      fp := []
      verifies := false }
  (code, checkedReq code r)

/-- A MGMT packet is delivered to the Canton of plane p from code `src` (R310): a packet of another type is not acted on. -/
def State.cantonTakes (p : Plane) (src : Nat) (k : Packet) (s : State) : State :=
  if k.hdr.type = 4 ∧ crcOk k ∧ 16 ≤ k.payload.length ∧ bit 0 (leNat (slice 2 1 k.payload)) = false ∧
      bit 2 (leNat (slice 2 1 k.payload)) = false then
    let q := parseReq p (.fabric (BitVec.ofNat 11 src) k.hdr.src) k.payload
    s.mgmtDo q.1 q.2
  else s

/-! ## The host mailbox (R313) -/

/-- FW_WRITE through the mailbox of a Canton in its ROM, signed, into SRAM: once the image passes the checks, the ROM
boots it. -/
def State.romWrite (s : State) (p : Plane) (r : MgmtReq) : State :=
  let st := s.sigStatus 0x20 r
  if st ≠ 0 then (s.count p Fld.CAN_SIG_FAIL.N 0).answer 0x20 r st []
  else
    let s := s.modPkg (fun x => { x with signedSeq := r.seq })
    let a := mgmtArgs r
    let off := leNat (slice 0 4 a)
    s.okIf 0x20 r (decide (4 ≤ a.length ∧ a.length ≤ 1028 ∧ off + (a.length - 4) ≤ 1048576)) (fun s =>
      let s := s.modCan p (fun x => { x with
        romImage := ((a.drop 4).zipIdx).foldl (fun m e => mset 0 (off + e.2) e.1 m) x.romImage })
      let m := (s.pl p).can.romImage
      let rd := fun (o n : Nat) => (List.range n).map (fun i => mget 0 (o + i) m)
      let h := rd 0 512
      let body := rd 512 (min 917504 (imgWord h 16 4))
      let c := imageCode 1 s.pkg.svnFw s.pkg.revoked h (proofOf h body)
      if c = 0 then s.imageStarts p h 0 else s.setF p Fld.CAN_BOOT_STAT.FAIL 0 c)

/-- The request in CAN_MBOX_TX is taken: by the plane's Canton while it is in its ROM, for FW_WRITE; else by the active
Canton; where none is active, the ROM turns it away. -/
def State.mboxServe (s : State) (p : Plane) : State :=
  let s := ((s.setFlag p Fld.CAN_MBOX_CTL.SEND 0 false).setFlag p Fld.CAN_MBOX_CTL.BUSY 0 true).setFlag p
    Fld.CAN_MBOX_CTL.DONE 0 false
  let n := min 1280 (s.fld p Fld.CAN_MBOX_CTL.LEN 0)
  let b := slice 0 n ((List.range 320).flatMap (fun w => leBytes 4 (s.word p .CAN_MBOX_TX w 0).toNat))
  let q := parseReq p .mailbox b
  if (s.pl p).can.inRom ∧ s.canUp p ∧ q.1 = 0x20 then s.romWrite p q.2
  else if s.managed then s.mgmtDo q.1 q.2
  else s.answer q.1 q.2 (if mgmtCodes.contains q.1 then 2 else 1) []

/-- A request that waits in a mailbox is taken once a Canton serves it; SEND is 1 until then. -/
def State.mboxTake (s : State) : State :=
  s.both (fun p s =>
    if s.flag p Fld.CAN_MBOX_CTL.SEND 0 ∧ (s.managed ∨ (s.pl p).can.inRom ∧ s.canUp p) then s.mboxServe p else s)

/-- A write of SEND: ignored while BUSY. -/
def State.mboxSend (s : State) (p : Plane) : State :=
  if s.flag p Fld.CAN_MBOX_CTL.BUSY 0 then s else (s.setFlag p Fld.CAN_MBOX_CTL.SEND 0 true).mboxTake

/-! ## The cascade port (R314) -/

def Side.opposite : Sys2Proof.Side → Sys2Proof.Side
  | .next => .prev
  | .prev => .next

/-- A response that a member returns goes on to where the request came from. -/
def State.relayBack (s : State) (src : Nat) (b : Bytes) : State :=
  let seq := BitVec.ofNat 32 (leNat (slice 4 4 b))
  match s.pkg.relays.find? (fun e => e.1 == seq && e.2.1 == src) with
  | none => s
  | some e =>
    let more := bit 3 (leNat (slice 2 1 b))
    let s := if more then s else s.modPkg (fun x => { x with relays := x.relays.erase e })
    s.sendBack e.2.2.2 e.2.2.1 b

/-- A MSG frame is delivered: a response, a member's notification, or a request. -/
def State.cascDeliver (s : State) (p : Plane) (f : CascFrame) : State :=
  let flags := leNat (slice 2 1 f.payload)
  if f.type ≠ 2 ∨ f.payload.length < 16 then s
  else if bit 0 flags then s.relayBack f.src.toNat f.payload
  else if bit 2 flags then if s.isMaster then s.emit (.mgmt .ethernet f.payload) else s
  else
    let q := parseReq p (.cascade f.src) f.payload
    s.mgmtDo q.1 q.2

/-- A frame is received: delivered, forwarded, or stopped where it returns to its sender. ANNOUNCE, TIME and POWER frames
have rows of their own for what they carry. -/
def State.cascIn (s : State) (p : Plane) (side : Sys2Proof.Side) (f : CascFrame) : State :=
  let s := s.sideHeard side
  if f.crcOk = false ∨ f.src.toNat = s.slot then s else
    let mine := decide (f.dst.toNat = s.slot)
    let s := if mine then s else s.emit (.casc (Side.opposite side) f)
    if mine ∨ f.dst = 0xF then s.cascDeliver p f else s

/-! ## Tray master (R315, R334) -/

/-- This device may be master: its active Canton is in service and its management Ethernet link is up. -/
def State.ownOk (s : State) : Bool := s.managed && s.flag .hoist Fld.CAN_STAT.ETH_UP 0 && !s.pkg.conflict

/-- The lowest eligible slot heard, this device's own among them. -/
def State.lowestOk (s : State) : Option Nat :=
  (List.range 8).find? (fun k => if k = s.slot then s.ownOk else s.heardOk k)

/-- A ring cut in two places: each group's master reports the slots it hears. Whether that is why announcements went missing
is not visible at one device: a free value decides. -/
def State.splitReport (s : State) : State :=
  let (b, s) := s.coin
  if b then s.cantonEvent 0x0915 s.slot [maskOf 8 (fun k => decide (k = s.slot) || (s.heardAt k).isSome)] else s

/-- The master is another device whose announcements are missing, or it is not eligible any more: the lowest eligible slot
becomes master. -/
def State.elect (s : State) (missing : Bool) : State :=
  let s := match s.pkg.master with
    | some m => if missing ∧ m.toNat ≠ s.slot then s.modPkg (fun x => { x with heard := mset none m.toNat none x.heard })
      else s
    | none => s
  let m := s.lowestOk
  let s := s.setMaster m
  if missing ∧ m = some s.slot then s.splitReport else s

/-- MASTER_ELECTION: this device as an eligible master stays. -/
def State.election (s : State) : State :=
  match s.pkg.master with
  | some m => if m.toNat = s.slot ∧ s.ownOk then s else s.elect (decide (m.toNat ≠ s.slot))
  | none => s.elect false

/-- ANNOUNCE leaves on both sides. -/
def State.announceOut (s : State) : State :=
  s.cascAll 1 (Config.recordBytes 4 [s.slot, Config.serial.toNat, b2n s.ownOk, b2n s.isMaster])

/-- An ANNOUNCE frame: a device with this slot makes both ineligible; of two masters the higher slot resigns. -/
def State.announceIn (s : State) (slot : Nat) (serial : BitVec 64) (eligible master : Bool) : State :=
  if slot = s.slot then
    if serial = Config.serial ∨ s.pkg.conflict then s
    else
      let s := (s.modPkg (fun x => { x with conflict := true })).cantonEvent 0x0914 slot []
      if s.isMaster then s.elect false else s
  else
    let t := s.ticks
    let s := s.modPkg (fun x => { x with heard := mset none slot (some ⟨serial, eligible, master, t⟩) x.heard })
    if master then
      if s.isMaster ∧ s.slot < slot then s else s.setMaster (some slot)
    else s

/-- MEMBER_LOST, at the tray master, which keeps its role in its part of a ring that was cut (R315). -/
def State.memberLost (s : State) (slot : Nat) : State :=
  ((s.modPkg (fun x => { x with heard := mset none slot none x.heard })).cantonEvent 0x0912 slot []).splitReport

/-! ## Tray time (R316) -/

/-- Tray time is set. -/
def State.setTray (s : State) (t : Int) : State :=
  let now := s.ticks
  s.modPkg (fun x => { x with trayTime := BitVec.ofInt 64 t, trayAt := now })

/-- A TIME frame (kind 0), a delay request (1) or its echo (2). `t` is the time the frame carries, `rx` this device's tray
time at its arrival. A member follows its upstream neighbour, corrected by the delay of the side. -/
def State.trayFrame (s : State) (side : Sys2Proof.Side) (kind : Nat) (lock : Bool) (t rx : Nat) : State :=
  match kind with
  | 0 =>
    if s.isMaster then s else
      let d := match side with
        | .next => s.pkg.delayNext
        | .prev => s.pkg.delayPrev
      (s.setTray ((t : Int) + d + (s.trayNow - rx))).bothF Fld.CAN_STAT.PTP_LOCK (b2n lock)
  | 1 =>
    s.emit (.casc side ⟨BitVec.ofNat 4 s.slot, 0xF, 3, Config.recordBytes 5 [2, t], true⟩)
  | _ =>
    s.modPkg (fun x => match side with
      | .next => { x with delayNext := (rx - t) / 2 }
      | .prev => { x with delayPrev := (rx - t) / 2 })

/-- TIME frames by the master every 1 ms, or each hop's delay requests every 100 ms. -/
def State.traySend (s : State) (ask : Bool) : State :=
  if ask then s.cascAll 3 (Config.recordBytes 5 [1, s.trayNow.toNat])
  else if s.isMaster then
    s.cascAll 3 (Config.recordBytes 5 [0, s.trayNow.toNat, s.fld .hoist Fld.CAN_STAT.PTP_LOCK 0])
  else s

/-- Tray time is corrected by the offset from the grandmaster, once the path delay is known. -/
def State.ptpSync (s : State) (ms : Int) : State :=
  let s := s.modPkg (fun x => { x with ptpMs := ms })
  let s := if s.flag .hoist Fld.CAN_STAT.PTP_LOCK 0 then s.setTray (s.trayNow - (ms - s.pkg.ptpDelay)) else s
  let now := BitVec.ofInt 64 s.trayNow
  (s.modPkg (fun x => { x with ptpT1 := some now })).emit (.ptp 1)

/-- An IEEE 1588 message at the master: messageType in the low nibble of `kind`, bit 4 the two-step flag; `t` the
timestamp it carries, `rx` tray time at its arrival. -/
def State.ptpIn (s : State) (kind t rx : Nat) : State :=
  match kind % 16 with
  | 0 =>
    if bit 4 kind then s.modPkg (fun x => { x with ptpTwo := some (BitVec.ofNat 64 rx) })
    else s.ptpSync ((rx : Int) - t)
  | 8 =>
    match s.pkg.ptpTwo with
    | some r => (s.modPkg (fun x => { x with ptpTwo := none })).ptpSync ((r.toNat : Int) - t)
    | none => s
  | 9 =>
    match s.pkg.ptpT1 with
    | some t3 =>
      let d := (s.pkg.ptpMs + ((t : Int) - t3.toNat)) / 2
      let s := s.modPkg (fun x => { x with ptpT1 := none, ptpDelay := d })
      (s.setTray (s.trayNow - (s.pkg.ptpMs - d))).bothF Fld.CAN_STAT.PTP_LOCK 1
    | none => s
  | _ => s

/-! ## Tray cap (R328) -/

/-- Shares in proportion to power, none below its floor: members whose proportional share of what is left lies below their
floor get it, and the others share the rest; at most `n` rounds. Members: slot, power, floor. -/
def shareOut : Nat → Nat → List (Nat × Nat × Nat) → List (Nat × Nat)
  | 0, _, l => l.map (fun m => (m.1, m.2.2))
  | n + 1, cap, l =>
    let sum := (l.map (fun m => m.2.1)).sum
    let share := fun (m : Nat × Nat × Nat) => if sum = 0 then 0 else cap * m.2.1 / sum
    let low := l.filter (fun m => decide (share m < m.2.2))
    if low = [] then l.map (fun m => (m.1, share m))
    else low.map (fun m => (m.1, m.2.2)) ++
      shareOut n (cap - (low.map (fun m => m.2.2)).sum) (l.filter (fun m => decide (m.2.2 ≤ share m)))

/-- The shares of the tray cap. -/
def trayShares (cap : Nat) (l : List (Nat × Nat × Nat)) : List (Nat × Nat) :=
  let fl := (l.map (fun m => m.2.2)).sum
  if cap < fl then l.map (fun m => (m.1, cap * m.2.2 / fl)) else shareOut l.length cap l

/-- A share is written to CAP_TRAY. -/
def State.trayShare (s : State) (p : Plane) (w : Nat) : State :=
  s.setCap p Fld.CAN_CAP_TRAY.CAP w
def State.capSplit (s : State) (p : Plane) (l : List (Nat × Nat × Nat)) : State :=
  let cap := s.pkg.trayCap
  let shares := if cap = 0 then l.map (fun m => (m.1, 0)) else trayShares cap l
  s.each shares (fun e s =>
    if e.1 = s.slot then s.trayShare p e.2 else s.cascTo e.1 4 (Config.recordBytes 6 [e.2]))

/-! ## Inventory and neighbours (R317, R333, R334) -/

/-- The lanes in Active, numbered as the inventory counts them. -/
def State.lanesUp (s : State) : List Nat :=
  planes.flatMap (fun p => (s.activePorts p).flatMap (fun j =>
    (onesOf 16 (s.fld p Fld.LNE_PORT_STAT.ACT_MASK j)).map (fun b => 576 * p.num + j + b)))

/-- A minute has passed: the always-on counter, and the manager's counters of lanes in Active. -/
def State.minute (s : State) : State :=
  let i := s.pkg.inv
  let i := if i.minutes + 1 < 60 then { i with minutes := i.minutes + 1 } else { i with minutes := 0, hours := i.hours + 1 }
  let s := s.invSet 0 (leBytes 4 i.hours) (fun _ => i)
  s.each (if s.managed then s.lanesUp else []) (fun l s =>
    let n := mget 0 l s.pkg.inv.laneMin + 1
    s.invSet (0x1000 + l) (leBytes 4 n) (fun x => { x with laneMin := mset 0 l n x.laneMin }))

/-- LINK_DOWN events since the last grouping, by far serial: one NEIGHBOUR_LOST each (R334). -/
def State.neighbourLost (s : State) : State :=
  let l := s.pkg.lastDown
  let s := s.modPkg (fun x => { x with lastDown := [] })
  s.each (dedup (l.map (·.2))) (fun ser s =>
    let g := l.filter (fun e => e.2 == ser)
    s.cantonEvent 0x0911 ((g.head?.map (·.1)).getD 0) [ser.toNat % 2 ^ 32, ser.toNat / 2 ^ 32, (dedup (g.map (·.1))).length])

/-- The rows of the neighbour report that have changed since they were last sent are notified. The code of that NOTIFY is
not stated. -/
def State.neighbourNotify (s : State) : State :=
  let l := s.neighRows.filter (fun e => mget none e.1 s.pkg.neigh != e.2)
  if l = [] then s else
    let s := s.modPkg (fun x => { x with neigh := l.foldl (fun m e => mset none e.1 e.2 m) x.neigh })
    let a := l.flatMap neighNumbers
    (s.journalAdd 3 0 (Config.recordBytes 3 a)).notify 0 0 a

/-! ## Meanings -/

def State.reqIn (s : State) (f : State → State) : Res := goOn (s.when s.pkg.resetN f)

/-- HEALTH_GET, INVENTORY_GET, SENSOR_GET, ATTEST, NEIGHBOUR_GET. -/
def execHealthGet (req : MgmtReq) (s : State) : Res := s.reqIn (fun s => s.healthGet req)
def execInventoryGet (req : MgmtReq) (members : List (BitVec 4 × Bytes)) (s : State) : Res :=
  s.reqIn (fun s => s.inventoryGet req members)
def execSensorGet (req : MgmtReq) (s : State) : Res := s.reqIn (fun s => s.sensorGet req)
def execAttest (req : MgmtReq) (s : State) : Res := s.reqIn (fun s => s.attest req)
def execNeighbourGet (req : MgmtReq) (s : State) : Res := s.reqIn (fun s => s.neighbourGet req)

/-- CAP_SET, POWER_SET, FW_WRITE, FW_ACTIVATE, SVN_COMMIT, KEY_REVOKE, OWNER_SET, MASTER_HANDOVER. -/
def execCapSet (req : MgmtReq) (s : State) : Res := s.reqIn (fun s => s.capSet req)
def execPowerSet (req : MgmtReq) (s : State) : Res := s.reqIn (fun s => s.powerSet req)
def execFwWrite (req : MgmtReq) (s : State) : Res := s.reqIn (fun s => s.fwWrite req)
def execFwActivate (req : MgmtReq) (s : State) : Res := s.reqIn (fun s => s.fwActivate req)
def execSvnCommit (req : MgmtReq) (s : State) : Res := s.reqIn (fun s => s.svnCommit req)
def execKeyRevoke (req : MgmtReq) (signer : Option (Fin 4)) (s : State) : Res :=
  s.reqIn (fun s => s.keyRevoke req (fun _ => signer.map (·.val)))
def execOwnerSet (req : MgmtReq) (s : State) : Res := s.reqIn (fun s => s.ownerSet req)
def execMasterHandover (req : MgmtReq) (s : State) : Res := s.reqIn (fun s => s.masterHandover req)

/-- HANDOVER (R301): a message, or a write of CAN_CTL.HANDOVER. -/
def execHandover (p : Plane) (req : Option MgmtReq) (s : State) : Res :=
  s.reqIn (fun s => match req with
    | some r => s.handover r
    | none => if s.live p then s.handReg p else s)

/-- MGMT_UNKNOWN: a code with a row of its own is performed as that row says. -/
def execMgmtUnknown (req : MgmtReq) (code : Byte) (s : State) : Res := s.reqIn (fun s => s.mgmtDo code.toNat req)

/-- MBOX_SEND. -/
def execMboxSend (p : Plane) (s : State) : Res := goOn (s.when (s.live p) (·.mboxSend p))

/-- The tray's frames reach the active Canton while the cascade port is enabled. -/
def State.trayIn (s : State) (f : Plane → State → State) : Res :=
  goOn (if s.cascEn then
      match s.mgr with
      | some p => f p s
      | none => s
    else s)

/-- CASCADE_MSG, ANNOUNCE_SEND, ANNOUNCE. -/
def execCascadeMsg (side : Sys2Proof.Side) (f : CascFrame) (s : State) : Res := s.trayIn (fun p s => s.cascIn p side f)
def execAnnounceSend (s : State) : Res := s.trayIn (fun _ s => s.announceOut)
def execAnnounce (slot : BitVec 3) (serial : BitVec 64) (eligible master : Bool) (s : State) : Res :=
  s.trayIn (fun _ s => s.announceIn slot.toNat serial eligible master)

/-- MASTER_ELECTION: alone, the device is master at once. -/
def execMasterElection (s : State) : Res :=
  goOn (if s.managed then if s.cascEn then s.election else s.setMaster (some s.slot) else s)

/-- MEMBER_LOST. -/
def execMemberLost (slot : BitVec 3) (s : State) : Res :=
  s.trayIn (fun _ s => if s.isMaster ∧ slot.toNat ≠ s.slot ∧ (s.heardAt slot.toNat).isSome then s.memberLost slot.toNat else s)

/-- MGMT_ETH_LINK_CHANGE: a master whose link goes down stops being eligible. -/
def execMgmtEthLinkChange (up : Bool) (s : State) : Res :=
  s.reqIn (fun s =>
    let s := s.bothF Fld.CAN_STAT.ETH_UP (b2n up)
    if ¬ up ∧ s.isMaster ∧ s.cascEn ∧ s.managed then s.elect false else s)

/-- TRAY_TIME_FRAME, TRAY_TIME_SEND, PTP_MESSAGE. -/
def execTrayTimeFrame (side : Sys2Proof.Side) (kind : Fin 3) (lock : Bool) (t rx : BitVec 64) (s : State) : Res :=
  s.trayIn (fun _ s => (s.sideHeard side).trayFrame side kind lock t.toNat rx.toNat)
def execTrayTimeSend (ask : Bool) (s : State) : Res := s.trayIn (fun _ s => s.traySend ask)
def execPtpMessage (kind : Byte) (t rx : BitVec 64) (s : State) : Res :=
  goOn (s.when (s.managed && s.isMaster && s.flag .hoist Fld.CAN_STAT.ETH_UP 0) (fun s => s.ptpIn kind.toNat t.toNat rx.toNat))

/-- TRAY_CAP_SPLIT, POWER_FRAME: ignored under EPO (R331). -/
def execTrayCapSplit (members : List (BitVec 3 × BitVec 16 × BitVec 16)) (s : State) : Res :=
  goOn (match s.mgr with
    | some p => if s.isMaster ∧ ¬ s.noOrders then
        s.capSplit p (members.map (fun m => (m.1.toNat, m.2.1.toNat, m.2.2.toNat)))
      else s
    | none => s)
def execPowerFrame (share : BitVec 16) (s : State) : Res :=
  s.trayIn (fun p s => if s.noOrders then s else s.trayShare p share.toNat)

/-- INVENTORY_SAVE, INVENTORY_MINUTE_COUNT. -/
def execInventorySave (s : State) : Res := goOn (s.when s.managed (·.saveInventory))
def execInventoryMinuteCount (s : State) : Res := goOn s.minute

/-- NEIGHBOUR_LOST, NEIGHBOUR_NOTIFY. -/
def execNeighbourLost (s : State) : Res := goOn (s.when s.managed (·.neighbourLost))
def execNeighbourNotify (s : State) : Res := goOn (s.when s.managed (·.neighbourNotify))

/-! ## Roles (R295 to R304) -/

/-- What goes on when a Canton's role, boot or health has changed: FW_ACTIVATE under way, a SEND that waits. -/
def State.afterRole (s : State) : State := s.activateNext.mboxTake

/-- HEARTBEAT. -/
def execHeartbeat (p : Plane) (role : BitVec 2) (_seq : BitVec 16) (jrn : BitVec 32) (_time : BitVec 64)
    (_health : BitVec 16) (s : State) : Res :=
  goOn (s.when (s.canUp p && s.halUp p) (fun s => (s.heartbeatIn p role.toNat jrn).afterRole))

/-- HEARTBEAT_MISS: HB_MISS heartbeats of the active Canton are missing at plane p's Canton. -/
def execHeartbeatMiss (p : Plane) (s : State) : Res := goOn (s.standbyActs p 0).afterRole

/-- CANTON_CLAIM. -/
def execCantonClaim (p : Plane) (s : State) : Res :=
  goOn (s.when (s.pkg.active == none && s.claims p) (fun s => (s.claim p).afterRole))

/-- HEALTH_REPORT. -/
def execHealthReport (p : Plane) (agree flashOk : Bool) (s : State) : Res :=
  goOn (s.when (s.canUp p && (s.pl p).can.role != .booting) (fun s => (s.healthReport p agree flashOk).afterRole))

/-- CANTON_BOOT. -/
def execCantonBoot (p : Plane) (flash : Option FlashView) (s : State) : Res :=
  goOn (s.when (s.canUp p && (s.pl p).can.role == .booting && !(s.pl p).can.imgRuns) (fun s => (s.bootRom p flash).afterRole))

/-- CANTON_BOOT_DONE: `mc` is the microcode image that the firmware carries, if it carries one. -/
def execCantonBootDone (p : Plane) (ok : Bool) (mc : Option Image) (s : State) : Res :=
  goOn (s.when (s.canUp p && (s.pl p).can.role == .booting && (s.pl p).can.imgRuns) (fun s =>
    (if ok then s.bootEnd p mc
    else (s.modCan p (fun x => { x with imgRuns := false, fwMeas := [] })).bootFailed p).afterRole))

/-- HANDOVER_ACK: the standby has the last record, asserts the fence and takes the role with cause 1. -/
def execHandoverAck (p : Plane) (s : State) : Res :=
  goOn (s.when (s.pkg.handing && s.canHand && s.mgr == some p.other) (fun s => (s.takeover p 1).afterRole))

end Sys2Proof.Machine
end

