-- ==== Sys2Proof/Machine/Epoch.lean ====
section
/-! DEFINITION. Configuration epochs (R341 to R349): staged and committed copies, the commit with its checks and what it
recomputes, the measurement of the configuration (R307); the log's read pointer (R368) and errors in configuration words
(R366). -/

namespace Sys2Proof.Machine

/-! ## Staged and committed copies -/

/-- The committed copy of a word whose staged copy is `w`: its G bits; every other bit as at reset. -/
def Reg.gPart (r : Reg) (k : Nat) (w : Word) : Word :=
  let m := r.gMask k
  BitVec.ofNat 32 ((r.resetWord k).toNat - Nat.land (r.resetWord k).toNat m + Nat.land w.toNat m)

/-- The committed file that a register file's G fields make (R341). -/
def committedOf (m : RegFile) : RegFile :=
  m.filterMap (fun e => (regAt e.1).bind (fun a =>
    let v := a.1.gPart a.2.2 e.2
    if v = a.1.resetWord a.2.2 then none else some (e.1, v)))

/-- A word as committed: its G bits from the committed file, the others as they stand. -/
def State.asCommitted (s : State) (p : Plane) (r : Reg) (i w : Nat) : Word :=
  let m := r.gMask w
  let a := (wordAt r i w (s.pl p).regs).toNat
  BitVec.ofNat 32 (a - Nat.land a m + Nat.land (wordAt r i w (s.pl p).committed).toNat m)

/-- The words of a plane whose staged copy differs from the committed one, by offset. -/
def State.dirtyOf (s : State) (p : Plane) : List Nat :=
  let keys := dedup (((s.pl p).regs.map (·.1)) ++ ((s.pl p).committed.map (·.1)))
  keys.filter (fun k => (regAt k).any (fun a =>
    decide (a.1.gMask a.2.2 ≠ 0) && decide (s.asCommitted p a.1 a.2.1 a.2.2 ≠ wordAt a.1 a.2.1 a.2.2 (s.pl p).regs)))

/-- EPC_DIRTY: staged words that differ, of both planes (R341). -/
def State.dirty (s : State) : Nat := (planes.map (fun p => (s.dirtyOf p).length)).sum

/-- A plane with its staged values committed: the state the checks look at, "as they would stand after the commit". -/
def State.commitPlane (s : State) (p : Plane) : State := s.modPl p (fun x => { x with committed := committedOf x.regs })

/-- A plane whose staged copies take the committed values (DISCARD). -/
def State.discardPlane (s : State) (p : Plane) : State :=
  s.each (s.dirtyOf p) (fun k s => match regAt k with
    | some a => s.setWord p a.1 a.2.1 a.2.2 (s.asCommitted p a.1 a.2.1 a.2.2)
    | none => s)

/-! ## The consistency check (R345, Table 11.3) -/

/-- A failing check: the block's position in Table 0.6 and the absolute address of the word it names. -/
abbrev Fails := List (Nat × Nat)

/-- The failure of a check of a plane that names word 0 of a register. -/
def failAt (p : Plane) (block : Nat) (r : Reg) (i : Nat) (bad : Bool) : Fails :=
  if bad then [(block, 0x4000000 * p.num + r.off i 0)] else []

/-- The indices of a register that a plane's staged or committed file lists. -/
def State.listed (s : State) (p : Plane) (r : Reg) : List Nat :=
  let n := r.info
  dedup ((((s.pl p).regs ++ (s.pl p).committed).filter (fun e =>
    decide (n.base ≤ e.1 ∧ e.1 < n.base + n.stride * n.count))).map (fun e => (e.1 - n.base) / n.stride))

/-- Does a commit that turns `s` into `t` change a word of a register. -/
def changedRow (s t : State) (p : Plane) (r : Reg) (i : Nat) : Bool :=
  (List.range r.info.words).any (fun w =>
    decide (wordAt r i w (s.pl p).committed ≠ wordAt r i w (t.pl p).committed))

/-- Does it change a field. -/
def changedF (s t : State) (p : Plane) (f : Fld) (i : Nat) : Bool := decide (s.fld p f i ≠ t.fld p f i)

/-- LFP_ (R95 and the timeouts of Table 3.10). -/
def lfpFails (t : State) (p : Plane) : Fails :=
  let adv := ((t.enabledPorts p).map (t.portReserve p)).sum
  let h := max 1 (t.fld p Fld.LFP_TMO_CFG.HOLE_T 0)
  let o := max 1 (t.fld p Fld.LFP_TMO_CFG.OP_TIMEOUT 0)
  failAt p 2 .LFP_CRED_ESC 0 (decide (3145728 < adv)) ++ failAt p 2 .LFP_TMO_CFG 0 (decide (o ≤ h))

/-- RTE_ (R115): an alias outside the fabric range, or two valid ones equal. -/
def rteFails (t : State) (p : Plane) : Fails :=
  (List.range 4).flatMap (fun n =>
    failAt p 3 .RTE_ALIAS n ((t.alias? p n).any (fun a => decide (0xFF00 ≤ a.toNat) ||
      (List.range 4).any (fun m => m != n && t.alias? p m == some a))))

/-- avail of R143, with the ports enabled now, and 9 × (p + 5). -/
def State.swcAvail (t : State) (p : Plane) : Int :=
  4194304 - 32768 - 9 * (t.halAdv p : Int) - (((t.enabledPorts p).map (t.portReserve p)).sum : Nat) -
    (1024 * t.fld p Fld.SWC_BUF_CFG.SHARED_MIN 0 : Nat)
def State.swcQueues (t : State) (p : Plane) : Nat := 9 * ((t.enabledPorts p).length + 5)

/-- SWC_ (R143): the guarantee floor. -/
def swcFails (t : State) (p : Plane) : Fails :=
  failAt p 4 .SWC_BUF_CFG 0 (decide (t.swcAvail p < (64 * t.swcQueues p : Nat)))

/-- Are the IDs of a list distinct. -/
def distinct (l : List EpId) : Bool := (dedup l).length == l.length

/-- The largest CONTRIB, PARTIAL or RESULT payload of a group (R175 to R177). A PARTIAL is an accumulator image where the
node sends or receives one: kinds that combine, with PART_FMT = 0, at an inner node or below an engine; and a return of
the forward path (R193). -/
def State.colLargest (t : State) (p : Plane) (g : Nat) : Nat :=
  let wire := fun c => t.gSlots p g * slotBytes c (t.gEps p g) (t.gEps p g)
  let k := t.gKind p g
  let image := (decide (k < 3) && !t.flag p Fld.COL_GRP.PART_FMT g &&
      (!t.gRoot p g || (t.childrenNow p g).any Child.eng)) ||
    (decide (t.gExhaust p g = 2) && decide (k ≠ 5))
  let part := if image then 256 * t.gSlots p g else 0
  16 + max (wire (t.gFmt p g)) (max part (wire (t.gOut p g)))

/-- Does a group's descriptor break Table 6.4 or Table 6.12. -/
def State.colTableBad (t : State) (p : Plane) (g : Nat) : Bool :=
  let f := t.gFmt p g
  let o := t.gOut p g
  let op := t.gOp p g
  decide (5 < t.gKind p g) || !fmtKnown f || !fmtKnown o || !opAllowed f op || (fmtInt f != fmtInt o) ||
    (t.gComp p g && (fmtInt f || !decide (op = 0 ∨ op = 3))) || t.fld p Fld.COL_GRP.ALLOC_CHUNKS g == 0

/-- R173, R181, R203 for a valid group. -/
def State.colBad (t : State) (p : Plane) (g : Nat) : Bool :=
  let ch := t.childrenNow p g
  let root := t.gRoot p g
  let kind := t.gKind p g
  let n := t.fld p Fld.COL_GRP.CHILD_COUNT g
  let mem := t.fld p Fld.COL_GRP.MEMBER_COUNT g
  let seg := t.fld p Fld.COL_GRP.SEG_CHUNKS g
  t.colTableBad p g || !decide (1 ≤ n ∧ n ≤ 1024) ||
    decide (65536 < t.fld p Fld.COL_GRP.CHILD_BASE g + n) || decide (65536 < t.fld p Fld.COL_GRP.MEMBER_BASE g + mem) ||
    !distinct (ch.map (·.id)) || decide (8192 < t.colLargest p g) ||
    ((!root || ch.any (·.eng)) && (t.alias? p 0).isNone) ||
    (root && t.gOp p g == 3 && t.fld p Fld.COL_GRP.MEAN_N g == 0) ||
    (t.gExhaust p g == 2 && t.gFwdEp p g == 0xFFFF) ||
    (decide (kind = 1 ∨ kind = 3) && seg == 0) || (kind == 3 && mem == 0)

/-- COL_. -/
def colFails (s t : State) (p : Plane) : Fails :=
  (t.listed p .COL_GRP).flatMap (fun g => failAt p 5 .COL_GRP g
    ((t.flag p Fld.COL_GRP.VALID g && t.colBad p g) || (changedRow s t p .COL_GRP g && t.gState p g != 0)))

/-- Bytes of one output fragment in a format of Table 6.3. -/
def outBytes (fmt e : Nat) : Nat := if fmt = 0 then 4 * e else 2 * e

/-- R205, R230 for a valid layer. -/
def State.dspBad (t : State) (p : Plane) (l : Nat) : Bool :=
  let y := t.fld p Fld.DSP_LYR.Y_FMT l
  let r := t.fld p Fld.DSP_LYR.R_FMT l
  let k := t.fld p Fld.DSP_LYR.KMAX l
  let fr := t.lFrags p l
  let tb := t.fld p Fld.DSP_LYR.TOK_BYTES l
  let oe := t.fld p Fld.DSP_LYR.OUT_ELEMS l
  let ec := t.fld p Fld.DSP_LYR.EXP_COUNT l
  let oc := t.fld p Fld.DSP_LYR.ORIG_COUNT l
  let big := fun f => decide (f ≤ 2) && decide (8176 < outBytes f (t.lE p l))
  (t.alias? p 1).isNone || decide (2 < y) || decide (4 < r) || !decide (1 ≤ k ∧ k ≤ 8) || t.lRounds p l == 0 ||
    tb == 0 || tb % fr != 0 || decide (8144 < t.lD p l) || oe == 0 || oe % fr != 0 || big y || big r ||
    ec == 0 || decide (16384 < t.fld p Fld.DSP_LYR.EXP_BASE l + ec) ||
    !decide (1 ≤ oc ∧ oc ≤ 2048) || decide (8192 < t.fld p Fld.DSP_LYR.ORIG_BASE l + oc) ||
    !distinct (t.originsNow p l) || t.fld p Fld.DSP_LYR.TOK_MAX l == 0 ||
    (t.lPolicy p l == 1 && t.fld p Fld.DSP_LYR.OVF_TOKENS l == 0) || (t.lPolicy p l == 2 && t.lOvfEp p l == 0xFFFF)

/-- DSP_. -/
def dspFails (s t : State) (p : Plane) : Fails :=
  (t.listed p .DSP_LYR).flatMap (fun l => failAt p 6 .DSP_LYR l
    ((t.flag p Fld.DSP_LYR.VALID l && t.dspBad p l) || (changedRow s t p .DSP_LYR l && t.lState p l != 0)))

/-- The valid windows of a KIND. -/
def State.winsOf (t : State) (p : Plane) (kind : Nat) : List Nat :=
  (t.listed p .GWM_WIN).filter (fun n => t.flag p Fld.GWM_WIN.VALID n && t.fld p Fld.GWM_WIN.KIND n == kind)

/-- A group of a kind of overflow is not IDLE, or a layer with POLICY 1 is not IDLE. -/
def State.exhaustBusy (t : State) (p : Plane) (e : Nat) (spill : Bool) : Bool :=
  (t.listed p .COL_GRP).any (fun g => t.gState p g != 0 && t.gExhaust p g == e &&
    (!spill || t.fld p Fld.COL_GRP.SPILL_CHUNKS g != 0))
def State.queueBusy (t : State) (p : Plane) : Bool :=
  (t.listed p .DSP_LYR).any (fun l => t.lState p l != 0 && t.lPolicy p l == 1)

/-- LPDDR5X devices after the commit, and their density in GiB: that of a device in service. -/
def lpCountAfter (s t : State) (p : Plane) : Nat :=
  if changedF s t p Fld.MEM_LP_CFG.PRESENT 0 then popcount 16 (t.fld p Fld.MEM_LP_CFG.PRESENT 0)
  else (s.pl p).mem.lpDevs.length
def State.lpDensity (s : State) (p : Plane) : Option Nat :=
  (s.lpReady p).head?.map (fun m => densityOf (s.fld p Fld.MEM_LP_DEV.DENSITY m))

/-- MEM_ (R234, R236, R237). Where no device is in service, no density is known and the size check of LP_SPILL passes. -/
def memFails (s t : State) (p : Plane) : Fails :=
  let n := lpCountAfter s t p
  let lpUse := !(t.winsOf p 2).isEmpty || t.exhaustBusy p 1 true
  let spill := decide (47 < t.spillBlk p) || (changedF s t p Fld.MEM_PART_CFG.SPILL_BLK 0 &&
    (!(t.winsOf p 1).isEmpty || t.exhaustBusy p 2 false || t.queueBusy p))
  let lp := n != 0 && ((s.lpDensity p).any (fun c => decide (c * 248 * n < t.lpSpill p * 256)) ||
    (changedF s t p Fld.MEM_PART_CFG.LP_SPILL 0 && lpUse))
  failAt p 7 .MEM_PART_CFG 0 (spill || lp) ++
    failAt p 7 .MEM_LP_CFG 0 (changedF s t p Fld.MEM_LP_CFG.PRESENT 0 && lpUse)

/-- R234, R238 for a valid window. -/
def winBad (s t : State) (p : Plane) (n : Nat) : Bool :=
  let base := t.winBase p n
  let limit := t.winLimit p n
  let off := t.winOffset p n
  let kind := t.fld p Fld.GWM_WIN.KIND n
  let wasSram := s.flag p Fld.GWM_WIN.VALID n && s.fld p Fld.GWM_WIN.KIND n == 1
  decide (limit < base) || kind == 3 ||
    (kind == 1 && (decide (t.sramPool p ≤ off + (limit - base)) || (!t.flag p Fld.MEM_STAT.SRAM_ZERO 0 && !wasSram))) ||
    (kind == 2 && (decide (t.lpPool p ≤ off + (limit - base)) || !t.flag p Fld.MEM_STAT.LP_ZERO 0)) ||
    (kind == 0 && (decide (0xFF00 ≤ t.fld p Fld.GWM_WIN.TGT_ID n) || (t.alias? p 2).isNone))

/-- GWM_. -/
def gwmFails (s t : State) (p : Plane) : Fails :=
  (t.listed p .GWM_WIN).flatMap (fun n => failAt p 8 .GWM_WIN n (t.flag p Fld.GWM_WIN.VALID n && winBad s t p n))

/-- Every check of a plane. -/
def planeFails (s t : State) (p : Plane) : Fails :=
  lfpFails t p ++ rteFails t p ++ swcFails t p ++ colFails s t p ++ dspFails s t p ++ memFails s t p ++ gwmFails s t p

/-- The failure that is reported: the first block, and the lowest address of its failing words. -/
def firstFail (l : Fails) : Option (Nat × Nat) :=
  l.foldl (fun a e => match a with
    | none => some e
    | some b => if e.1 < b.1 ∨ (e.1 = b.1 ∧ e.2 < b.2) then some e else some b) none

/-! ## Commit -/

/-- The planes a commit or a DISCARD in a plane's window acts on (R347). -/
def State.involved (s : State) (p : Plane) : List Plane := if s.pkg.split then [p] else planes

/-- A commit runs in one of the planes. -/
def State.commitBusy (s : State) (l : List Plane) : Bool := l.any (fun q => s.flag q Fld.EPC_COMMIT_STAT.BUSY 0)

/-- COMMIT was written through the other plane's window in this same core clock, and that commit takes this plane with
it (R348). -/
def State.commitSame (s : State) (p : Plane) : Bool :=
  s.pkg.commits.any (fun c => decide (c.plane = p.other ∧ c.tick = s.ticks) && c.both)

/-- COMMIT written in a plane's window (R344, R348). -/
def State.commitStart (s : State) (p : Plane) : State :=
  let l := s.involved p
  if s.commitSame p then s
  else if s.commitBusy l then s.setFlag p Fld.EPC_COMMIT_STAT.REJ 0 true else
    let s := s.each l (fun q s =>
      let s := (s.setFlag q Fld.EPC_COMMIT_STAT.BUSY 0 true).setFlag q Fld.EPC_COMMIT_STAT.DONE 0 false
      let s := s.setFlag q Fld.EPC_COMMIT_STAT.FAIL 0 false
      s.setFlag q Fld.EPC_COMMIT_STAT.SPLIT_ONLY 0 (l.length == 1))
    let t := s.ticks
    s.modPkg (fun x => { x with commits := x.commits ++ [⟨p, decide (1 < l.length), none, t⟩] })

/-- The planes of a commit. -/
def Commit.planes (c : Commit) : List Plane := if c.both then Machine.planes else [c.plane]

/-- The oldest commit that waits for its decision, and the oldest that waits for its instant, in a plane that runs. -/
def State.undecided (s : State) : Option Commit := s.pkg.commits.find? (fun c => c.at_.isNone && s.live c.plane)
def State.decided (s : State) : Option Commit := s.pkg.commits.find? (fun c => c.at_.isSome && s.live c.plane)

/-- A commit has ended. -/
def State.endCommit (s : State) (c : Commit) : State := s.modPkg (fun x => { x with commits := x.commits.erase c })

/-- A commit fails (Table 11.2, step 3). -/
def State.commitFails (s : State) (c : Commit) (block addr : Nat) : State :=
  let s := s.each c.planes (fun q s =>
    let s := (s.setFlag q Fld.EPC_COMMIT_STAT.FAIL 0 true).setF q Fld.EPC_COMMIT_STAT.FAIL_BLOCK 0 block
    let s := s.setF q Fld.EPC_FAIL_ADDR.ADDR 0 addr
    (s.setFlag q Fld.EPC_COMMIT_STAT.BUSY 0 false).raise q 0x0A02 (wn q.num) [wn block, wn addr])
  s.endCommit c

/-- The consistency check completes (R345, R346): the commit instant is named 200 ns later, and told to the other plane. -/
def State.commitDecide (s : State) : State :=
  match s.undecided with
  | none => s
  | some c =>
    let l := c.planes
    let t := s.each l (fun q s => s.commitPlane q)
    match firstFail (l.flatMap (planeFails s t)) with
    | some e => s.commitFails c e.1 e.2
    | none =>
      let at_ := (s.now c.plane).toNat + 200
      let s := s.modPkg (fun x => { x with
        commits := x.commits.map (fun d => if d = c then { d with at_ := some at_ } else d) })
      if c.both then s.halControl c.plane 0x05 (leBytes 8 at_) else s

/-- The advertisement of a VC changes (R95): an increase raises LIMIT at once, a decrease is withheld from FREED. -/
def Credit.readv (new : Nat) (c : Credit) : Credit :=
  if c.adv.toNat ≤ new then { c with adv := BitVec.ofNat 16 new, owe := 0 } else { c with owe := c.adv.toNat - new }

/-- The credit advertisement after a commit: of each Active port (R95), and of Halyard (R164). -/
def State.readvertise (s : State) (p : Plane) : State :=
  let s := s.each (s.activePorts p) (fun i s =>
    s.each (List.range 9) (fun v s => s.modCred p i v (Credit.readv (s.advVc p i v))))
  if s.halUp p then s.each (List.range 9) (fun v s => s.modCred p 576 v (Credit.readv (s.halAdv p))) else s

/-- GUAR_EFF, and the ports counted (R143). -/
def State.reguar (s : State) (p : Plane) : State :=
  let g := min (s.fld p Fld.SWC_BUF_CFG.GUAR 0) ((s.swcAvail p).toNat / s.swcQueues p)
  let l := s.enabledPorts p
  (s.setF p Fld.SWC_BUF_STAT.GUAR_EFF 0 g).modSwc p (fun x => { x with counted := l })

/-- Windowed packets that still wait when a commit removes an engine's alias are not sent (R115). -/
def State.aliasGone (s : State) (p : Plane) (key : Nat) : State :=
  if s.epWindowed p key then s else
    s.each ((s.ep p key).src.map (·.1)) (fun d s =>
      let l := mget {} d (s.ep p key).src |>.waiting
      let s := s.modSrc p key (BitVec.ofNat 16 d) (fun w => { w with waiting := [] })
      if key = 2 then s.each l (fun w s => State.memDrop p none w (s.count p Fld.GWM_FWD_TMO.N 0)) else s)

/-- The commit acts in a plane (R346, R349). What this clock accepts still sees the copies from before. -/
def State.commitActs (s : State) (p : Plane) : State :=
  let old := (s.pl p).committed
  let t := s.ticks
  let s := s.modEpc p (fun x => { x with prior := old, priorAt := some t })
  let s := (((s.commitPlane p).readvertise p).reguar p).memCommitted p old
  ((s.aliasGone p 0).aliasGone p 1).aliasGone p 2

/-- The recomputation of a plane is done (Table 11.2, step 5). -/
def State.commitEnds (s : State) (p : Plane) : State :=
  let n := s.word p .EPC_COMMIT_SEQ 0 0 + 1
  let s := s.setWord p .EPC_COMMIT_SEQ 0 0 n
  let s := (s.setFlag p Fld.EPC_COMMIT_STAT.DONE 0 true).setFlag p Fld.EPC_COMMIT_STAT.BUSY 0 false
  s.raise p 0x0A01 (wn p.num) [n, wn (s.fld p Fld.EPC_COMMIT_STAT.SPLIT_ONLY 0)]

/-- The commit instant (R346, R347, R349). -/
def State.commitNow (s : State) : State :=
  match s.decided with
  | some c =>
    let s := s.each c.planes (fun q s => s.commitActs q)
    let s := s.each c.planes (fun q s => s.commitEnds q)
    (s.endCommit c).modPkg (fun x => { x with
      cfgStale := true
      splitCommit := !c.both })
  | none => s

/-- DISCARD written in a plane's window (R341, R347, R348). -/
def State.discard (s : State) (p : Plane) : State :=
  let l := s.involved p
  if s.commitBusy l then s.setFlag p Fld.EPC_COMMIT_STAT.REJ 0 true else s.each l (fun q s => s.discardPlane q)

/-- COMMIT, COMMIT_DECISION, COMMIT_INSTANT, DISCARD (R341, R344 to R349). -/
def execCommit (p : Plane) (s : State) : Res := goOn (s.when (s.live p) (·.commitStart p))
def execCommitDecision (s : State) : Res := goOn s.commitDecide
def execCommitInstant (s : State) : Res := goOn s.commitNow
def execDiscard (p : Plane) (s : State) : Res := goOn (s.when (s.live p) (·.discard p))

/-! ## The measured configuration (R307) -/

/-- The bits of a word that are measured: its S and G fields. -/
def Reg.measMask (r : Reg) (w : Nat) : Nat :=
  match r.fieldsOf w, r.fill with
  | [], some (_, .g) => 2 ^ 32 - 1
  | [], some (_, .s) => 2 ^ 32 - 1
  | fs, _ => (fs.filter (fun f => f.cls == .s || f.cls == .g)).foldl
      (fun a f => setBits f.hi f.lo a (2 ^ f.width - 1)) 0

/-- The offsets of the measured words of a register. -/
def Reg.measOffs (r : Reg) : List Nat :=
  let n := r.info
  match (List.range n.words).filter (fun w => r.measMask w != 0) with
  | [] => []
  | ws => (List.range n.count).flatMap (fun i => if i % n.period < n.valid then ws.map (fun w => r.off i w) else [])

/-- The word at an offset of a plane, as committed: its S and G fields. -/
def State.measWord (s : State) (p : Plane) (off : Nat) : Bytes :=
  match regAt off with
  | some a => leBytes 4 (Nat.land (s.asCommitted p a.1 a.2.1 a.2.2).toNat (a.1.measMask a.2.2))
  | none => []

/-- Every class S and class G word of both planes, in ascending absolute address. -/
def State.measBytes (s : State) : Bytes :=
  let offs := (List.range 16).flatMap (fun b => sortNat ((regsOfBlock b).flatMap Reg.measOffs))
  planes.flatMap (fun p => offs.flatMap (fun o => s.measWord p o))

/-- CFG_MEAS_DONE (R307): the digest of the configuration, with the commits counted when it was made. -/
def State.measure (s : State) (p : Plane) : State :=
  let n := s.word p .EPC_COMMIT_SEQ 0 0
  let d := Config.shake256 s.measBytes
  s.modPkg (fun x => { x with
    cfgMeas := d
    cfgMeasSeq := n
    cfgStale := false })
def execCfgMeasDone (s : State) : Res :=
  goOn (match s.mgr with
    | some p => s.measure p
    | none => s)

/-! ## The log's read pointer and errors of configuration words -/

/-- LOG_RP_WRITE (R368). -/
def execLogRpWrite (p : Plane) (v : Word) (s : State) : Res := goOn (s.when (s.live p) (·.logRp p v))

/-- Entries that act as invalid from now until they are written again, and owners that abort (R366). -/
def State.cfgInvalid (s : State) (p : Plane) (r : Reg) (i : Nat) : State :=
  match r with
  | .RTE_ENTRY | .RTE_SET | .GWM_WIN => s.modRte p (fun x => { x with bad := dedup (r.off i 0 :: x.bad) })
  | .COL_GRP => s.colAbort p i 7 true none
  | .DSP_LYR => s.dspAbort p i 5
  | _ => s

/-- CONFIG_ECC_ERROR (R365, R366): an uncorrectable error in a word that software configures. -/
def State.cfgEcc (s : State) (p : Plane) (off : Nat) : State :=
  match regAt off with
  | some a =>
    if (a.1.fieldsOf a.2.2).any (fun f => f.acc == .rw) then
      (s.errorIn p 0x0F (0x4000000 * p.num + off) (off / 0x400000) 0 0).cfgInvalid p a.1 a.2.1
    else s
  | none => s
def execConfigEccError (p : Plane) (off : BitVec 26) (s : State) : Res :=
  goOn (s.when (s.live p) (·.cfgEcc p off.toNat))

end Sys2Proof.Machine
end

