-- ==== Sys2Proof/Machine/RegWrite.lean ====
section
/-! DEFINITION. Register accesses (R6 to R13, R272, R338 to R342, R348): what a read of a plane's window returns and
clears, and what a write stores, flags and starts. -/

namespace Sys2Proof.Machine

/-! ## Reads -/

/-- The children that have contributed to chunk BASE of the group that COL_DIAG_CTL selects. -/
def State.diagMap (s : State) (p : Plane) (w : Nat) : Nat :=
  let g := s.fld p Fld.COL_DIAG_CTL.GROUP 0
  let seen := ((mget none (s.gBase p g) (s.grp p g).chunks).map (·.seen)).getD []
  maskOf 32 (fun k => seen.contains (32 * w + k))

/-- An expert's count in the open epoch of the layer that has it (DSP_ECNT). -/
def State.expertCount (s : State) (p : Plane) (x : Nat) : ExpSt :=
  ((s.pl p).dsp.lyrs.findSome? (fun l => mfind x l.2.exps)).getD {}

/-- Words that show what the device holds elsewhere: field and value. A field narrower than its value shows the low bits:
AVAIL and FAR_ADV of LFP_PORT_CREDIT have 15 of the counters' 16 (log entry 120). -/
def State.views (s : State) (p : Plane) (r : Reg) (i w : Nat) : List (Fld × Nat) :=
  match r with
  | .TOP_CHIP_ID => [(Fld.TOP_CHIP_ID.PLANE, p.num), (Fld.TOP_CHIP_ID.VARIANT, b2n s.pkg.optical)]
  | .TOP_PG_STAT => [(Fld.TOP_PG_STAT.CANTON_ACTIVE, b2n (s.cantonHere p))]
  | .LFP_PORT_CREDIT =>
    let c := mget {} i (s.pl p).lfp.credits
    [(Fld.LFP_PORT_CREDIT.FAR_ADV, (c.far.map (·.toNat)).getD 0), (Fld.LFP_PORT_CREDIT.AVAIL, c.avail)]
  | .RTE_DRAIN_OLD => [(Fld.RTE_DRAIN_OLD.N, s.oldCount p)]
  | .SWC_BUF_STAT => [(Fld.SWC_BUF_STAT.STALE, b2n (decide (s.enabledPorts p ≠ (s.pl p).swc.counted)))]
  | .SWC_POOL_SIZE => [(Fld.SWC_POOL_SIZE.SIZE, s.poolSize p)]
  | .SWC_POOL_USED => [(Fld.SWC_POOL_USED.USED, s.poolUsed p)]
  | .SWC_HELD => [(Fld.SWC_HELD.HELD, s.heldUnits p)]
  | .SWC_PORT_STAT =>
    [(Fld.SWC_PORT_STAT.HD_LEFT, ((mget none i (s.pl p).swc.hold).map (fun t => (t - s.ticks) / 160000)).getD 0)]
  | .SWC_QDEPTH => [(Fld.SWC_QDEPTH.DEPTH, s.qdepth p (i / 16) (i % 16))]
  | .COL_DIAG_MAP => [(Fld.COL_DIAG_MAP.W, s.diagMap p i)]
  | .DSP_STORE_USED => [(Fld.DSP_STORE_USED.N, s.storeUsed p)]
  | .DSP_LYR_TOK => [(Fld.DSP_LYR_TOK.N, (s.layerRecs p i).length)]
  | .DSP_LYR_OPEN => [(Fld.DSP_LYR_OPEN.N, ((s.layerRecs p i).filter (fun e => !s.recDone p e.2)).length)]
  | .DSP_ECNT =>
    let x := s.expertCount p i
    [(Fld.DSP_ECNT.SENT, x.cnt), (Fld.DSP_ECNT.QUEUED, min 4095 x.queue.length), (Fld.DSP_ECNT.ROUND, x.round)]
  | .CAN_STAT => [(Fld.CAN_STAT.SLOT, s.fld p Fld.TOP_STRAP.CASC_PRIO 0), (Fld.CAN_STAT.HOST, b2n (s.hasHost p)),
      (Fld.CAN_STAT.CASC_UP, b2n (s.sideUp .next || s.sideUp .prev))]
  | .EPC_DIRTY => [(Fld.EPC_DIRTY.N, s.dirty)]
  | .TST_PORT_TSTAT => [(Fld.TST_PORT_TSTAT.SYNC_OK, b2n (s.syncFresh p i))]
  | .TST_FT =>
    let t := (s.now p).toNat
    [if w = 0 then (Fld.TST_FT.LO, t % 2 ^ 32) else (Fld.TST_FT.HI, t / 2 ^ 32)]
  | _ => []

/-- A word as it stands. -/
def State.viewWord (s : State) (p : Plane) (r : Reg) (i w : Nat) : Word :=
  let v := (s.views p r i w).foldl (fun a e => e.1.put e.2 a) (s.word p r i w)
  if (s.pl p).loose.isEmpty then v
  else (r.fieldsOf w).foldl (fun a f => match s.loose? p f i with
    | some x => f.put x a
    | none => a) v

/-- A word with its WO fields read as 0 (Table 0.7). -/
def hideWo (r : Reg) (w : Nat) (v : Word) : Word :=
  ((r.fieldsOf w).filter (fun f => f.acc == .wo)).foldl (fun a f => f.put 0 a) v

/-- A read clears the RC fields of a word (Table 0.7). -/
def State.clearRc (s : State) (p : Plane) (r : Reg) (i w : Nat) : State :=
  s.each ((r.fieldsOf w).filter (fun f => f.acc == .rc)) (fun f s =>
    (s.setF p f i 0).endFree p f i)

/-- The values of a register that are longer than 32 bits: first word and count (R13). -/
def Reg.wide (r : Reg) : List (Nat × Nat) :=
  match r with
  | .TST_MATCH => [(1, 4), (5, 4)]
  | .TST_CHK_FLOW => [(9, 2)]
  | .TST_PCHK_FIRST => [(1, 2), (4, 4)]
  | .EPC_LOG | .EPC_FIRST | .LNE_FAR_ENSIGN => [(2, 2)]
  | r => if r.info.multi then [(0, r.info.words)] else []

/-- The longer value that a word belongs to. -/
def Reg.wideAt (r : Reg) (w : Nat) : Option (Nat × Nat) := r.wide.find? (fun g => decide (g.1 ≤ w ∧ w < g.1 + g.2))

/-- A read of the lowest word of a longer value latches the upper words (R13). -/
def State.latchUpper (s : State) (p : Plane) (r : Reg) (i : Nat) (g : Nat × Nat) : State :=
  s.each ((List.range g.2).drop 1) (fun k s =>
    let v := s.viewWord p r i (g.1 + k)
    s.modPl p (fun x => { x with latch := mset none (r.off i (g.1 + k)) (some v) x.latch }))

/-- A 32-bit read at an offset of a plane's window (R7, R8, R13): the value, and what the read changes. R13 does not state
what an upper word reads before its lowest word has been read; this model gives its present value (log entry 132). -/
def State.readReg (s : State) (p : Plane) (off : Nat) : Word × State :=
  match regAt off with
  | none => (0, s)
  | some (r, i, w) =>
    let v := hideWo r w (s.viewWord p r i w)
    let s := s.clearRc p r i w
    match r.wideAt w with
    | some g => if w = g.1 then (v, s.latchUpper p r i g) else ((mget none off (s.pl p).latch).getD v, s)
    | none => (v, s)

/-! ## What holds a write back -/

/-- Does the enable of a register's S fields hold (R339, Table 11.1). -/
def State.sHeld (s : State) (p : Plane) (r : Reg) (i : Nat) : Bool :=
  match r with
  | .LNE_LANE_CFG => (s.portOf p i).isSome
  | .LNE_PORT_CFG | .LFP_PORT_CFG | .TST_GEP_ID => s.portEn p i
  | .MEM_LP_CFG => (List.range 16).any (fun m => s.flag p Fld.MEM_LP_DEV.INIT_OK m)
  | .MEM_PPR_LIST => s.flag p Fld.MEM_LP_DEV.INIT_OK (i / 8)
  | .HIF_DB_ADDR | .HIF_CI_ADDR | .HIF_STAT_ADDR | .HIF_RING_BASE | .HIF_RING_CFG => s.fld p Fld.HIF_CTL.EN 0 != 0
  | .TST_PG_CFG => (pgPorts i).any (s.portEn p)
  | .TST_GEN_STR => s.genRun p (i / 16) (i % 16)
  | _ => false

/-- RO fields that the Canton writes (R293, Table 10.14). -/
def cantonFields : List Fld :=
  [Fld.CAN_CAP_RM.CAP, Fld.CAN_CAP_TRAY.CAP, Fld.CAN_CAP_THERM.CAP, Fld.CAN_PWR_STAT.FLOOR, Fld.CAN_PWR_STATE.RM_LIMIT,
   Fld.CAN_THR_CFG.SHARE]

/-- Package registers: one value in both windows (R326, R336). -/
def packageReg (r : Reg) : Bool :=
  [Reg.CAN_CAP_HOST, .CAN_CAP_RM, .CAN_CAP_TRAY, .CAN_CAP_THERM, .CAN_PWR_STAT, .CAN_PWR_STATE, .CAN_THR_CFG, .CAN_LEAK,
   .CAN_FLOW_CFG].contains r

/-- Registers whose L fields the action of their write stores itself. -/
def storesItself (r : Reg) : Bool :=
  [Reg.HIF_LINK_CFG, .HIF_CTL, .HIF_FUNC_MODE, .CAN_CAP_HOST, .CAN_PWR_STATE, .EPC_LOG_RP, .TST_FT_CFG, .TST_FT_SET].contains r

/-- PRESENT names 0, 1, 2, 4, 8 or 16 devices (R236). -/
def presentOk (v : Nat) : Bool := v == 0 || lpCountOk (popcount 16 v)

/-- What a write does to one field of a word: the word after it, whether the write is flagged (R339, R340, R348), and
whether a PRESENT is refused (R236). -/
def State.fieldWrite (s : State) (p : Plane) (r : Reg) (i : Nat) (f : Fld) (v : Word) (a : Word) : Word × Bool × Bool :=
  let new := f.of v
  let diff := decide (new ≠ f.of a)
  match f.acc with
  | .rw =>
    match f.cls with
    | .s => if s.sHeld p r i then (a, diff, false) else (f.put new a, false, false)
    | .g =>
      if s.flag p Fld.EPC_COMMIT_STAT.BUSY 0 then (a, diff, false)
      else if f = Fld.MEM_LP_CFG.PRESENT ∧ presentOk new = false then (a, false, true)
      else (f.put new a, false, false)
    | _ => if storesItself r then (a, false, false) else (f.put new a, false, false)
  | .w1c => (f.put (f.of a - Nat.land (f.of a) new) a, false, false)
  | .ro => (a, cantonFields.contains f && diff, false)
  | _ => (a, false, false)

/-- What a write does to a word: every field for itself (R338). A word without fields is RW throughout, or is not there. -/
def State.wordWrite (s : State) (p : Plane) (r : Reg) (i w : Nat) (v : Word) : Word × Bool × Bool :=
  let a := s.word p r i w
  match r.fieldsOf w, r.fill with
  | [], some (.rw, _) => (v, false, false)
  | fs, _ => fs.foldl (fun x f =>
      let y := s.fieldWrite p r i f v x.1
      (y.1, x.2.1 || y.2.1, x.2.2 || y.2.2)) (a, false, false)

/-- A flagged write (R340). -/
def State.flagWrite (s : State) (p : Plane) (off : Nat) : State :=
  let abs := 0x4000000 * p.num + off
  let s := s.count p Fld.EPC_S_IGN_CNT.N 0
  let s := if s.flag p Fld.EPC_S_IGN_ADDR.VALID 0 then s
    else (s.setFlag p Fld.EPC_S_IGN_ADDR.VALID 0 true).setF p Fld.EPC_S_IGN_ADDR.ADDR 0 abs
  s.raise p 0x0A03 (wn p.num) [wn abs]

/-! ## What a write starts -/

/-- An action of a bit of the written word. -/
def State.ifBit (s : State) (k : Nat) (v : Word) (f : State → State) : State := if bit k v.toNat then f s else s

/-- The action of a write of `v` to a register, after its fields are stored; `old` is the word before it, `w` the word
that completed the write. -/
def State.regAct (s : State) (p : Plane) (r : Reg) (i w : Nat) (old v : Word) : State :=
  match r with
  | .TOP_RST_CTL =>
    ((((s.ifBit 0 v (·.blockReset p .swc)).ifBit 1 v (·.blockReset p .col)).ifBit 2 v (·.blockReset p .dsp)).ifBit 3 v
      (·.blockReset p .mem)).ifBit 4 v (·.blockReset p .tst)
  | .LNE_LANE_CFG =>
    let s := (s.ifBit 20 v (·.prbsClear p i)).prbsCfg p i old
    if bit 17 v.toNat ∧ ¬ bit 17 old.toNat then s.squelchOn p i else s
  | .LNE_EYE_CTL => s.ifBit 31 v (·.eyeStart p i (bits 30 29 v.toNat))
  | .LNE_PORT_CTL =>
    if s.portEn p i then
      let s := s.ifBit 0 v (fun s => s.when (s.isActive && s.unitOk p i) (·.retrainPort p i))
      (s.ifBit 1 v (·.admitWrite p i)).ifBit 2 v (·.startRestore p i)
    else s
  | .LNE_WIRE_CTL => s.wireCtl p i v
  | .RTE_DRAIN_CTL =>
    let busy := s.flag p Fld.RTE_DRAIN_STAT.BUSY 0
    let s := s.ifBit 31 v (·.drainStart p (BitVec.ofNat 16 v.toNat))
    s.ifBit 30 v (fun s => if busy then s.drainAbort p else s)
  | .RTE_ENTRY | .RTE_SET | .GWM_WIN => s.modRte p (fun x => { x with bad := x.bad.filter (· ≠ r.off i 0) })
  | .SWC_PORT_CTL => s.ifBit 0 v (fun s => if i ≤ 576 then s.endHold p i else s)
  | .COL_GRP_CTL => s.when (s.colOn p && v.toNat % 16 != 0) (·.colCtlWrite p i (v.toNat % 16))
  | .DSP_LYR_CTL => s.when (s.dspOn p && v.toNat % 16 != 0) (·.dspCtlWrite p i (v.toNat % 16))
  | .MEM_PPR_CTL => s.ifBit 31 v (·.pprStart p (v.toNat % 16))
  | .HIF_LINK_CFG => (s.glEn p (bit 31 v.toNat)).ifBit 30 v (·.glRetrain p)
  | .HIF_CTL => s.hifCtl p (v.toNat % 16)
  | .HIF_FUNC_MODE => s.funcMode p v.toNat 0
  | .CAN_CTL => s.ifBit 0 v (·.handReg p)
  | .CAN_CAP_HOST => s.capHost p v.toNat
  | .CAN_PWR_STATE => s.hostReqWrite p v.toNat
  | .CAN_MBOX_CTL => s.ifBit 31 v (·.mboxSend p)
  | .EPC_COMMIT_CTL => (s.ifBit 1 v (·.discard p)).ifBit 0 v (·.commitStart p)
  | .EPC_UNIT_CTL =>
    let ty := bits 27 24 v.toNat
    let ix := bits 4 0 v.toNat
    (s.ifBit 30 v (·.retire p ty ix)).ifBit 31 v (·.unitTestStart p ty ix)
  | .EPC_FREEZE_CTL => s.ifBit 31 v (·.freezeFrom p (1 + p.num))
  | .EPC_LOG_RP => s.logRp p v
  | .TST_FT_CFG => s.ftCfgWrite p v
  | .TST_FT_SET =>
    let lo := (mget none (Reg.off .TST_FT_SET 0 0) (s.pl p).partW).getD 0
    if w = 1 then s.ftSet p (BitVec.ofNat 64 (lo.toNat + 2 ^ 32 * v.toNat)) else s
  | .TST_GEN_CTL => (s.genStop p i (bits 31 16 v.toNat)).genStart p i (bits 15 0 v.toNat)
  | .TST_CHK_CLR => s.ifBit 0 v (·.freeFlows p i)
  | _ => s

/-- A write of one word is stored: in both windows for a package register of a whole package (R326). SHARE of CAN_THR_CFG
is each plane's own (Table 10.14). -/
def State.putReg (s : State) (p : Plane) (r : Reg) (i w : Nat) (v : Word) : State :=
  if packageReg r ∧ ¬ s.pkg.split then
    s.both (fun q s => s.setWord q r i w
      (if r = .CAN_THR_CFG then Fld.CAN_THR_CFG.SHARE.put (s.fld q Fld.CAN_THR_CFG.SHARE i) v else v))
  else s.setWord p r i w v

/-- A write of LNE_PORT_CFG (R55, R56, R62): the write that sets or clears PORT_EN carries the S fields; a cleared LPI_EN
wakes the port. The result says whether it is flagged. -/
def State.portCfgWrite (s : State) (p : Plane) (i : Nat) (v : Word) : Bool × State :=
  let on := bit 31 v.toNat
  match s.portEn p i, on with
  | false, true => (false, s.portOn p i v)
  | true, false => (false, s.portOff p i v)
  | _, _ =>
    let y := s.wordWrite p .LNE_PORT_CFG i 0 v
    let s := s.setWord p .LNE_PORT_CFG i 0 y.1
    (y.2.1, if s.lpiOn p i then s else s.lpiWake p i)

/-- One word takes effect. -/
def State.wordStore (s : State) (p : Plane) (r : Reg) (i w : Nat) (v : Word) : Bool × State :=
  if r = .LNE_PORT_CFG then s.portCfgWrite p i v
  else
    let y := s.wordWrite p r i w v
    let s := s.putReg p r i w y.1
    (y.2.1, if y.2.2 then s.setFlag p Fld.MEM_LP_CFG.CFG_REJ 0 true else s)

/-- The words of a longer value take effect together, the lower ones as last written (R13). -/
def State.valueStore (s : State) (p : Plane) (r : Reg) (i : Nat) (g : Nat × Nat) (v : Word) : Bool × State :=
  ((List.range g.2).map (· + g.1)).foldl (fun x w =>
    let u := if w + 1 = g.1 + g.2 then v else (mget none (r.off i w) (x.2.pl p).partW).getD (x.2.word p r i w)
    let y := x.2.wordStore p r i w u
    (x.1 || y.1, y.2)) (false, s)

/-- A 32-bit write at an offset of a plane's window, and whether it is flagged (R7 to R9, R13, R338 to R342, R348). -/
def State.writeReg (s : State) (p : Plane) (off : Nat) (v : Word) : Bool × State :=
  match regAt off with
  | none => (false, s)
  | some (r, i, w) =>
    let old := s.word p r i w
    let act := fun (y : Bool × State) =>
      let t := if y.1 then y.2.flagWrite p off else y.2
      (y.1, t.regAct p r i w old v)
    match r.wideAt w with
    | some g =>
      if w + 1 < g.1 + g.2 then (false, s.modPl p (fun x => { x with partW := mset none off (some v) x.partW }))
      else act (s.valueStore p r i g v)
    | none => act (s.wordStore p r i w v)

/-- The plane and the offset that an absolute address names (R5, R272). -/
def planeAt (addr : Nat) : Plane := if addr < 0x4000000 then .hoist else .fly

/-- REGISTER_WRITE (R7): a write from outside at an absolute address. -/
def execRegisterWrite (addr : BitVec 27) (v : Word) (s : State) : Res :=
  let p := planeAt addr.toNat
  goOn (s.when (s.live p) (fun s => (s.writeReg p (addr.toNat % 0x4000000) v).2))

end Sys2Proof.Machine
end

