-- ==== Sys2Proof/Machine/Commands.lean ====
section
/-! DEFINITION. What the host does with a plane: MMIO requests (R272), the commands of CMDQ (R279, R280, R289), the loss
and the return of the host (R290, R292). -/

namespace Sys2Proof.Machine

/-! ## MMIO (R272) -/

/-- MMIO_RSP leaves the half the request came on, unless the request took that half down. -/
def State.mmioRsp (s : State) (h : Plane) (m : GlMsg) (status : Byte) (v : Word) : State :=
  if s.glStage h = 5 then
    s.glOut h { code := 0x17, status := status, mtag := m.mtag, arg := v, addr := 0, line := [] }
  else s

/-- A request that no plane can be asked for: the other plane's logic does not run, or Halyard is down. STATUS and value
of its answer are not stated, and are free. -/
def State.mmioLost (s : State) (h : Plane) (m : GlMsg) : State :=
  let (f, s) := s.takeFree
  s.mmioRsp h m (BitVec.ofNat 8 (Config.freeNat f % 2)) (wn (Config.freeNat f / 2))

/-- Can a half's request reach a plane. -/
def State.mmioReach (s : State) (h q : Plane) : Bool := (q == h || s.halUp h) && s.live q

/-- MMIO_RD on a half: a read that is not aligned, or outside the map, returns 0. -/
def State.mmioRead (s : State) (h : Plane) (m : GlMsg) : State :=
  let s := s.modHalf h (fun x => { x with frMmio := x.frMmio + 1 })
  let a := m.addr.toNat
  let q := planeAt a
  if 0x8000000 ≤ a then s.mmioRsp h m 0 0
  else if s.mmioReach h q then
    let s := s.hostActive q
    let (v, s) := if a % 4 = 0 then s.readReg q (a % 0x4000000) else (0, s)
    s.mmioRsp h m 0 v
  else if a % 4 ≠ 0 then s.mmioRsp h m 0 0
  else s.mmioLost h m

/-- MMIO_WR on a half. -/
def State.mmioWrite (s : State) (h : Plane) (m : GlMsg) : State :=
  let s := s.modHalf h (fun x => { x with frMmio := x.frMmio + 1 })
  let a := m.addr.toNat
  let q := planeAt a
  if 0x8000000 ≤ a then s.mmioRsp h m 0 0
  else if s.mmioReach h q then
    let s := s.hostActive q
    (if a % 4 = 0 then (s.writeReg q (a % 0x4000000) m.arg).2 else s).mmioRsp h m 0 0
  else if a % 4 ≠ 0 then s.mmioRsp h m 0 0
  else s.mmioLost h m

/-- MMIO_RD, MMIO_WR. -/
def execMmioRd (half : Plane) (m : GlMsg) (s : State) : Res :=
  goOn (s.when (s.glOn half && s.glStage half == 5) (·.mmioRead half m))
def execMmioWr (half : Plane) (m : GlMsg) (s : State) : Res :=
  goOn (s.when (s.glOn half && s.glStage half == 5) (·.mmioWrite half m))

/-! ## Commands (R279) -/

/-- The descriptor of the next command, once it has been fetched. -/
def State.nextCmd (s : State) (p : Plane) : Bytes :=
  match (s.pl p).hif.fetched.find? (fun f => f.1 == (s.pl p).hif.done) with
  | some f => f.2
  | none => []

/-- The next command may start: CMDQ is enabled, CPLQ has room, no command is in progress, and its descriptor has been
fetched and says what it is: OP, INTR, TAG (Table 9.7) and its operands from byte 8. -/
def State.cmdMay (s : State) (p : Plane) (op : Nat) (h : CmdHead) (ops : Bytes) : Bool :=
  let b := s.nextCmd p
  s.live p && s.ringOn p 0 && s.ringRoom p 1 && (s.pl p).hif.adapt.isNone && (s.pl p).hif.ending.isNone &&
    !b.isEmpty && leNat (slice 0 1 b) == op && bit 0 (leNat (slice 1 1 b)) == h.intr &&
    leNat (slice 2 2 b) == h.tag.toNat && slice 8 ops.length b == ops

/-- The command at the front leaves the fetched ones. -/
def State.cmdTake (s : State) (p : Plane) : State :=
  s.modHif p (fun x => { x with fetched := x.fetched.filter (fun f => f.1 ≠ x.done) })

/-- A command has ended; if it disabled CMDQ, those behind it are flushed (R280). -/
def State.cmdEnd (s : State) (p : Plane) (op : Nat) (h : CmdHead) (status : Nat) (sIgn : Bool) (done result : Nat) : State :=
  (s.cmdDone p op h.tag h.intr status sIgn done result).cmdFlush p

/-- A command is performed. -/
def State.cmd (s : State) (p : Plane) (op : Nat) (h : CmdHead) (ops : Bytes) (f : State → State) : State :=
  s.when (s.cmdMay p op h ops) (fun s => f (s.cmdTake p))

/-- A command's host accesses are out; it completes when they are answered. -/
def State.cmdHold (s : State) (p : Plane) (e : CmdEnd) : State := s.modHif p (fun x => { x with ending := some e })

/-- Is a register range inside the plane's window, from an aligned offset. -/
def rangeOk (off words : Nat) : Bool := off % 4 == 0 && decide (off + 4 * (words - 1) ≤ 0x3FFFFFC)

/-- NOP. -/
def execNop (p : Plane) (h : CmdHead) (s : State) : Res := goOn (s.cmd p 0 h [] (fun s => s.cmdEnd p 0 h 0 false 0 0))

/-- The pairs are written in order; whether one is flagged. -/
def State.writePairs (s : State) (p : Plane) (l : List (Word × Word)) : Bool × State :=
  l.foldl (fun x e =>
    let y := x.2.writeReg p e.1.toNat e.2
    (x.1 || y.1, y.2)) (false, s)

/-- REG_WR. -/
def State.regWr (s : State) (p : Plane) (h : CmdHead) (pairs : List (Word × Word)) : State :=
  if ¬ (1 ≤ pairs.length ∧ pairs.length ≤ 7) then s.cmdEnd p 1 h 1 false 0 0
  else if pairs.all (fun e => rangeOk e.1.toNat 1) then
    let (g, s) := s.writePairs p pairs
    s.cmdEnd p 1 h 0 g pairs.length 0
  else s.cmdEnd p 1 h 2 false 0 0
def execRegWr (p : Plane) (h : CmdHead) (pairs : List (Word × Word)) (s : State) : Res :=
  goOn (s.cmd p 1 h ((pairs.take 7).flatMap (fun e => leBytes 4 e.1.toNat ++ leBytes 4 e.2.toNat)) (fun s =>
    s.regWr p h pairs))

/-- `n` consecutive registers from an offset, read in order. -/
def State.readRun (s : State) (p : Plane) (off n : Nat) : Bytes × State :=
  (List.range n).foldl (fun x k =>
    let y := x.2.readReg p (off + 4 * k)
    (x.1 ++ leBytes 4 y.1.toNat, y.2)) ([], s)

/-- Words written to consecutive registers. -/
def State.writeRun (s : State) (p : Plane) (off : Nat) (l : List Word) : Bool × State :=
  (l.zipIdx).foldl (fun x e =>
    let y := x.2.writeReg p (off + 4 * e.2) e.1
    (x.1 || y.1, y.2)) (false, s)

/-- A plane's command ends once every host access of it is answered: BULK_WR then writes what it read (R279). -/
def State.cmdSettle (s : State) (p : Plane) : State :=
  match (s.pl p).hif.ending with
  | none => s
  | some e =>
    if ((s.pl p).hif.outst ++ (s.pl p).hif.waiting).any (fun r => r.what == .dataLine) then s else
      let s := s.modHif p (fun x => { x with ending := none })
      let (g, s) := s.writeRun p e.off e.data
      s.cmdEnd p e.op e.head e.status g e.done 0

/-- GL_DATA (R269). -/
def execGlData (half : Plane) (m : GlMsg) (s : State) : Res :=
  goOn (s.when (s.glOn half && s.glStage half == 5) (fun s => (s.glData half m).both (fun q s => s.cmdSettle q)))

/-- GL_CMP (R270). -/
def execGlCmp (half : Plane) (m : GlMsg) (s : State) : Res :=
  goOn (s.when (s.glOn half && s.glStage half == 5) (fun s => (s.glCmp half m).both (fun q s => s.cmdSettle q)))

/-- REG_RD: 16 registers to a line. `fault` names the line whose write is answered FAULT: the command stops there. -/
def State.regRd (s : State) (p : Plane) (h : CmdHead) (off words haddr : Nat) (fault : Option Nat) : State :=
  if ¬ (1 ≤ words ∧ words ≤ 65536) ∨ haddr % 64 ≠ 0 then s.cmdEnd p 2 h 1 false 0 0
  else if rangeOk off words then
    let lines := (words + 15) / 16
    let stop := fault.filter (· < lines)
    let n := match stop with
      | some k => min words (16 * (k + 1))
      | none => words
    let (b, s) := s.readRun p off n
    let s := s.each (List.range ((n + 15) / 16)) (fun k s =>
      s.pushLine p (haddr + 64 * k) (slice (64 * k) 64 b) .dataLine)
    s.cmdHold p ⟨2, h, if stop.isSome then 3 else 0, n, 0, []⟩
  else s.cmdEnd p 2 h 2 false 0 0
def execRegRd (p : Plane) (h : CmdHead) (off words : Word) (haddr : BitVec 64) (fault : Option Nat) (s : State) : Res :=
  goOn (s.cmd p 2 h (leBytes 4 off.toNat ++ leBytes 4 words.toNat ++ leBytes 8 haddr.toNat) (fun s =>
    s.regRd p h off.toNat words.toNat haddr.toNat fault))

/-- BULK_WR: `data` is what its reads return; with `fault` the read after them is answered FAULT, and the command stops
there. -/
def State.bulkWr (s : State) (p : Plane) (h : CmdHead) (off words haddr : Nat) (data : List Word) (fault : Bool) : State :=
  let data := data.take words
  if ¬ (1 ≤ words ∧ words ≤ 65536) ∨ haddr % 64 ≠ 0 then s.cmdEnd p 3 h 1 false 0 0
  else if rangeOk off words then
    let lines := if fault then min ((words + 15) / 16) (data.length / 16 + 1) else (words + 15) / 16
    let s := s.each (List.range lines) (fun k s =>
      s.glRequest p (glMsg 0x02 0 (BitVec.ofNat 64 (haddr + 64 * k)) []) .dataLine)
    s.cmdHold p ⟨3, h, if fault then 3 else 0, data.length, off, data⟩
  else s.cmdEnd p 3 h 2 false 0 0
def execBulkWr (p : Plane) (h : CmdHead) (off words : Word) (haddr : BitVec 64) (data : List Word) (fault : Bool)
    (s : State) : Res :=
  goOn (s.cmd p 3 h (leBytes 4 off.toNat ++ leBytes 4 words.toNat ++ leBytes 8 haddr.toNat) (fun s =>
    s.bulkWr p h off.toNat words.toNat haddr.toNat data fault))

/-- MODE_SET (R289). -/
def State.modeSet (s : State) (p : Plane) (h : CmdHead) (func mode : Nat) : State :=
  if 6 < func ∨ 1 < mode then s.cmdEnd p 4 h 1 false 0 0
  else (s.funcMode p (setBits func func (s.fld p Fld.HIF_FUNC_MODE.MODE 0) mode) 0).cmdEnd p 4 h 0 false 1 0
def execModeSet (p : Plane) (h : CmdHead) (func mode : Byte) (s : State) : Res :=
  goOn (s.cmd p 4 h [func, mode] (fun s => s.modeSet p h func.toNat mode.toNat))

/-- The endpoints of a plane whose window to a destination CWND_SET sets: the engines, and the golden ports that have
one. -/
def State.cwndKeys (s : State) (p : Plane) (dst : EpId) : List Nat :=
  [0, 1, 2] ++ ((s.pl p).lfp.eps.map (·.1)).filter (fun k => decide (16 ≤ k) && mhas dst.toNat (s.ep p k).src)

/-- CWND_SET (R109, R289). -/
def State.cwndSet (s : State) (p : Plane) (h : CmdHead) (dst : EpId) (cwnd : Nat) : State :=
  if ¬ (1 ≤ cwnd ∧ cwnd ≤ 512) then s.cmdEnd p 5 h 1 false 0 0
  else if s.hostCc p then
    let s := s.each (s.cwndKeys p dst) (fun k s =>
      ((s.modSrc p k dst (fun w => { w with cwnd := cwnd })).pumpSrc p k dst).epMoved p k)
    s.cmdEnd p 5 h 0 false 0 0
  else s.cmdEnd p 5 h 4 false 0 0
def execCwndSet (p : Plane) (h : CmdHead) (dst : EpId) (cwnd : BitVec 16) (s : State) : Res :=
  goOn (s.cmd p 5 h (leBytes 2 dst.toNat ++ leBytes 2 cwnd.toNat) (fun s => s.cwndSet p h dst cwnd.toNat))

/-- Is lane L of the device, which R3 numbers 576p + l in plane p, in Train (Table 2.5), so that ADAPT may act on it. -/
def State.inTrain (s : State) (p : Plane) (lane : Nat) : Bool :=
  let l := lane % 576
  decide (lane / 576 = p.num) && (s.portOf p l).any (fun i => s.stage p i == 2 && s.trains p i l)

/-- ADAPT (R44, R279, R289): the lane holds one request; READY makes it send RX_READY. -/
def State.adaptStart (s : State) (p : Plane) (h : CmdHead) (lane : Nat) (a b ctl : Byte) : State :=
  if bit 0 (s.fld p Fld.HIF_FUNC_MODE.MODE 0) ∧ s.inTrain p lane then
    let s := s.modLane p (lane % 576) (fun x => { x with
      reqA := a
      reqB := b
      reqPre := bits 6 4 ctl.toNat
      ready := x.ready || bit 7 ctl.toNat })
    let t := s.ticks
    s.modHif p (fun x => { x with adapt := some ⟨lane % 576, h, t⟩ })
  else s.cmdEnd p 6 h 4 false 0 0
def execAdapt (p : Plane) (h : CmdHead) (lane : BitVec 16) (reqA reqB ctl : Byte) (s : State) : Res :=
  goOn (s.cmd p 6 h (leBytes 2 lane.toNat ++ [reqA, reqB, ctl]) (fun s => s.adaptStart p h lane.toNat reqA reqB ctl))

/-- ADAPT_DONE: the far end's report as RESULT shows it, or `none` where 10 µs have passed: then no tap is reported
updated, and SNR is the lane's reading. -/
def State.adaptEnd (s : State) (p : Plane) (report : Option (BitVec 32)) : State :=
  match (s.pl p).hif.adapt with
  | none => s
  | some a =>
    let r := match report with
      | some r => r.toNat
      | none => s.fld p Fld.LNE_LANE_STAT.SNR a.lane
    (s.modHif p (fun x => { x with adapt := none })).cmdEnd p 6 a.head 0 false 0 r
def execAdaptDone (p : Plane) (report : Option (BitVec 32)) (s : State) : Res :=
  goOn (s.when (s.live p) (·.adaptEnd p report))

/-- BAD_OP: an unknown OP or a field outside its range. -/
def execBadOp (p : Plane) (h : CmdHead) (op : Byte) (s : State) : Res :=
  goOn (s.cmd p op.toNat h [] (fun s => s.cmdEnd p op.toNat h 1 false 0 0))

/-! ## The host is lost and comes back (R290, R292) -/

/-- A plane loses its host: every function runs in hardware mode again, HOST_LOST is raised, and the active Canton sends
its copy. -/
def State.hostGone (s : State) (p : Plane) (cause : Nat) : State :=
  let s := s.funcMode p 0 cause
  let s := s.modHif p (fun x => { x with hostLost := true })
  let s := s.raise p 0x0806 (wn p.num) []
  if s.managed then s.cantonEvent 0x090F p.num [] else s

/-- HOST_WATCHDOG: HOST_WDT has passed without host activity. -/
def execHostWatchdog (p : Plane) (s : State) : Res :=
  goOn (s.when (s.live p && s.fld p Fld.HIF_FUNC_MODE.MODE 0 != 0 && s.fld p Fld.HIF_WDT_CFG.HOST_WDT 0 != 0)
    (·.hostGone p 1))

/-- HOST_LINK_LOST: both halves have been out of Active for 1 ms. -/
def execHostLinkLost (p : Plane) (s : State) : Res :=
  goOn (s.when (s.live p && s.glStage .hoist != 5 && s.glStage .fly != 5) (·.hostGone p 2))

/-- HOST_BACK: a half is Active and host activity has been seen again. -/
def execHostBack (p : Plane) (s : State) : Res :=
  goOn (s.when (s.live p && (s.pl p).hif.hostLost && (s.glStage .hoist == 5 || s.glStage .fly == 5)) (fun s =>
    let s := s.modHif p (fun x => { x with hostLost := false })
    if s.managed then s.cantonEvent 0x0910 p.num [] else s))

end Sys2Proof.Machine
end

