-- ==== Sys2Proof/Machine/Late.lean ====
section
/-! DEFINITION. Meanings that may start what other files define: flits of the Gnotric Link, whose messages read and write
registers (R265, R272), packets that may be delivered to the Canton (R84, R97, R157), and the errors that may fail a PG
(R371). -/

namespace Sys2Proof.Machine

/-! ## Gnotric Link flits (R265) -/

/-- One message of a flit, while the half is Active; a code that the host does not send is discarded and counted
(Table 9.3). -/
def State.glMessage (s : State) (h : Plane) (m : GlMsg) : State :=
  if s.glStage h ≠ 5 ∨ m.code = 0 then s
  else match m.code.toNat with
    | 0x11 => s.glData h m
    | 0x12 => s.glCmp h m
    | 0x13 => s.snpInv h m
    | 0x15 => s.mmioRead h m
    | 0x16 => s.mmioWrite h m
    | _ => s.count h Fld.HIF_GL_CRC.N 0

/-- Credit returned by a flit that is accepted (R265, R266). -/
def State.glCredit (s : State) (h : Plane) (f : GlFlit) : State :=
  s.modHalf h (fun x => { x with credReq := x.credReq + f.crReq.toNat })

/-- A flit with its acknowledgment and the slots freed, where no message carries them (log entry 130). -/
def State.glTell (s : State) (h : Plane) (nak : Bool) : State :=
  s.when (s.glRoom h) (fun s => s.glFlitOut h 2 nak [])

/-- A flit on a half in Active: a CRC error is counted and answered by a NAK; flits are accepted in TX_SEQ order only. -/
def State.glFlitIn (s : State) (h : Plane) (f : GlFlit) : State :=
  if f.crcOk then
    if f.kind = 1 ∨ f.kind = 3 then s else
      let s := s.glAck h f.ackSeq f.nak
      let s :=
        if s.glStage h = 5 ∧ f.txSeq = (s.half h).rxSeq + 1 then
          let n := (s.half h).txSeq
          let s := (s.modHalf h (fun x => { x with rxSeq := f.txSeq })).glCredit h f
          if f.kind = 2 then s
          else
            let s := s.each f.msgs (fun m s => s.glMessage h m)
            if s.glStage h = 5 ∧ (s.half h).txSeq = n then s.glTell h false else s
        else s
      s.both (fun q s => (s.glPump q).cmdSettle q)
  else (s.count h Fld.HIF_GL_CRC.N 0).glTell h true

/-- GL_FLIT (R264, R265). -/
def execGlFlit (half : Plane) (f : GlFlit) (s : State) : Res :=
  goOn (s.when (s.glOn half) (fun s => if s.glStage half = 5 then s.glFlitIn half f else s.glBringup half f))

/-! ## Packets -/

/-- PACKET_INGRESS (R84). -/
def execPacketIngress (p : Plane) (i : Fin 576) (pkt : Packet) (bad : Bool) (unknown got : Nat) (more : Bool)
    (s : State) : Res :=
  goOn (s.when (s.live p) (fun s => (State.ingress (State.cantonTakes p) s p i pkt bad unknown got more).escCheck p))

/-- PACKET_TRANSMIT (R157). -/
def execPacketTransmit (p : Plane) (code : Code) (s : State) : Res :=
  goOn (s.when (s.runs p) (fun s => (State.transmit (State.cantonTakes p) s p code.toNat).escCheck p))

/-- WH_FALLBACK (R97). -/
def execWhFallback (p : Plane) (i : Fin 576) (vc : Fin 9) (s : State) : Res :=
  goOn (s.when (s.runs p) (fun s => State.fallback (State.cantonTakes p) s p i vc))

/-! ## Errors that may fail a PG (R371) -/

/-- SENT_BLOCK (R94). -/
def execSentBlock (p : Plane) (i : Fin 576) (counts : List (BitVec 16)) (rsv : Bool) (s : State) : Res :=
  goOn (s.when (s.live p && s.counting p i) (fun s => (s.sentIn p i counts rsv).escCheck p))

/-- CELL_ARRIVAL (R156). -/
def execCellArrival (p : Plane) (src dst : Fin 46) (pseq : BitVec 12) (hec : Bool) (s : State) : Res :=
  goOn (s.when (s.runs p) (fun s => (s.cellIn p src dst pseq hec).escCheck p))

/-- RESEQ_LOSS (R156). -/
def execReseqLoss (p : Plane) (src dst : Fin 46) (s : State) : Res :=
  goOn (s.when (s.runs p) (fun s => (s.reseqLoss p src dst).escCheck p))

end Sys2Proof.Machine
end

