-- ==== Sys2Proof/Machine/LineIn.lean ====
section
/-! DEFINITION. The receivers of a plane's lanes (R29 to R40, R64 to R66): a codeword pair is decoded, slot blocks act,
port blocks are put in order again and acted on. A packet that comes block by block enters the switch core whole (log entry
131). -/

namespace Sys2Proof.Machine

/-! ## Port blocks -/

/-- The SOP block that bytes 1 to 31 of a block spell (Table 3.1). -/
def sopOf (b : Bytes) : SopBlock :=
  let n := leNat (slice 0 1 b)
  ⟨bit 6 n, bit 5 n, BitVec.ofNat 4 n, BitVec.ofNat 16 (leNat (slice 1 2 b)), bit 7 n || bit 4 n || leNat (slice 3 28 b) != 0⟩

/-- The TIME block that bytes 1 to 31 of a LINK block spell (Table 12.2). -/
def timeOf (b : Bytes) : TimeBlock :=
  let n := leNat (slice 1 1 b)
  ⟨BitVec.ofNat 2 (n / 16), BitVec.ofNat 4 n, BitVec.ofNat 8 (leNat (slice 2 1 b)),
    leNat (slice 3 8 b) * 65536 + leNat (slice 11 2 b), leNat (slice 13 8 b) * 65536 + leNat (slice 21 2 b),
    BitVec.ofNat 64 (leNat (slice 23 8 b))⟩

/-- The nine counts of a CREDIT or SENT block (Table 3.9). -/
def countsOf (b : Bytes) : List (BitVec 16) := (List.range 9).map (fun v => BitVec.ofNat 16 (leNat (slice (1 + 2 * v) 2 b)))

/-- A LINK block by its SUB; an unknown one is ignored (R91, R376). -/
def State.linkIn (s : State) (p : Plane) (i : Nat) (b : Bytes) : State :=
  let sub := leNat (slice 0 1 b)
  let rsv := leNat (slice 19 12 b) != 0
  if sub = 1 then if s.counting p i then s.creditIn p i (countsOf b) rsv else s
  else if sub = 2 then if s.counting p i then s.sentIn p i (countsOf b) rsv else s
  else if sub = 3 ∧ s.portActive p i then
    let kind := leNat (slice 1 1 b) / 64
    if kind = 0 ∧ s.timeRole p i = 2 then s.syncIn p i (timeOf b)
    else if kind = 1 ∧ s.timeRole p i = 1 then s.dreqIn p i (timeOf b)
    else if kind = 2 ∧ s.timeRole p i = 2 then s.drespIn p i (timeOf b)
    else s
  else s

/-- Units that some bytes of a packet fill. -/
def unitsIn (b : Bytes) : Nat := (b.length + 63) / 64

/-- The packet being put together ends: it is received, or ends as bad with `unknown` blocks of an unknown code in it. -/
def State.asmEnd (s : State) (p : Plane) (i : Nat) (b : Bytes) (bad : Bool) (unknown : Nat) : State :=
  State.ingress (State.cantonTakes p) (s.modStream p i (fun x => { x with asm := none })) p i (parsePkt b) bad unknown
    (unitsIn b) false

/-- A bad block: a packet it falls inside is discarded, and what follows of it ignored (R34). -/
def State.badBlock (s : State) (p : Plane) (i unknown : Nat) : State :=
  match (s.stream p i).asm with
  | some a => s.asmEnd p i a.bytes true unknown
  | none => s.countN p Fld.LNE_BADBLK.N 0 unknown

/-- 32 more bytes of the packet in progress: it ends where its header fails HCRC, or with the last byte that LEN implies
(R34). -/
def State.dataIn (s : State) (p : Plane) (i : Nat) (d : Bytes) : State :=
  match (s.stream p i).asm with
  | none => s
  | some a =>
    let b := a.bytes ++ d
    let k := parsePkt b
    if k.hdr.hcrc ≠ hcrcOf k then s.asmEnd p i b false 0
    else if lenT k ≤ b.length then s.asmEnd p i (b.take (lenT k)) false 0
    else s.modStream p i (fun x => { x with asm := some ⟨b⟩ })

/-- A port block in its order; none for one of an uncorrectable pair (R32, R34, R37, R73). -/
def State.portBlockIn (s : State) (p : Plane) (i : Nat) (x : Option Block) : State :=
  match x with
  | none => s.badBlock p i 0
  | some b =>
    let rest := b.bytes.tail
    if b.data then s.dataIn p i b.bytes
    else if b.code = bSOP then
      let got := ((s.stream p i).asm.map (fun a => unitsIn a.bytes)).getD 0
      let x := sopOf rest
      if s.counting p i then
        (s.sopIn p i x got).modStream p i (fun y => { y with asm := if x.abort then none else some {} })
      else s
    else if b.code = bLINK then s.linkIn p i rest
    else if b.code = bIDLE then s
    else s.badBlock p i 1

/-! ## Slot blocks and block positions -/

/-- A WIDTH or an LPI block, which stands on every active lane of the port. -/
def State.slotIn (s : State) (p : Plane) (i : Nat) (b : Block) : State :=
  let rest := b.bytes.tail
  if s.portActive p i then
    if b.code = bWIDTH then
      s.widthIn p i (Nat.land (leNat (slice 0 2 rest)) (s.fullMask p i)) (bit 0 (leNat (slice 2 1 rest)))
    else if b.code = bLPI then s.lpiIn p i (rest.headD 0)
    else s
  else s

/-- The lanes that a port's receiver takes blocks from, by the far end's LANE_IDX (R40). -/
def State.rxLanes (s : State) (p : Plane) (i : Nat) : List Nat :=
  let l := lanesIn i (s.port p i).set
  (List.range 16).filterMap (fun k => l.find? (fun x => decide ((s.lane p x).farIdx = k)))

/-- The first block position of a lane is taken off. -/
def State.popItem (s : State) (p : Plane) (l : Nat) : State := s.modWire p l (fun x => { x with items := x.items.tail })

/-- One block position of the lanes that have not failed (R33, R39, R58): markers with the same AM_COUNT are brought
together; a slot block has no turn in the dealing; a port block of a failed lane is bad. -/
def State.rowIn (s : State) (p : Plane) (i : Nat) (lanes live : List Nat) : State :=
  let head := fun (l : Nat) => ((s.wire p l).items.head?).getD .bad
  let marks := live.filterMap (fun l => match head l with
    | .mark n => some n
    | _ => none)
  let late := live.filter (fun l => match head l with
    | .mark n => decide (n < marks.foldl max 0)
    | .bad => false
    | _ => true)
  let pop := fun (s : State) (ls : List Nat) => s.each ls (fun l s => s.popItem p l)
  if marks ≠ [] then pop s (if late = [] then live else late)
  else
    let slots := live.filterMap (fun l => match head l with
      | .slot b => some b
      | _ => none)
    match slots with
    | b :: _ => (pop s live).slotIn p i b
    | [] =>
      let bs := lanes.map (fun l => if live.contains l then (match head l with
        | .block b => some b
        | _ => none) else none)
      s.each bs (fun b s => s.portBlockIn p i b) |> (pop · live)

/-- Block positions as long as every lane that has not failed has one. -/
def State.rowsIn : Nat → State → Plane → Nat → State
  | 0, s, _, _ => s
  | n + 1, s, p, i =>
    let lanes := s.rxLanes p i
    let live := lanes.filter (fun l => !bit (l - i) (s.port p i).fail)
    if live ≠ [] ∧ live.all (fun l => !(s.wire p l).items.isEmpty) then State.rowsIn n (s.rowIn p i lanes live) p i else s

/-! ## Codeword pairs (R36, R37) -/

/-- The outcome of one codeword is counted: the symbols corrected, or none where it is uncorrectable. -/
def State.codewordIn (s : State) (p : Plane) (l : Nat) (c : Option Nat) : State :=
  match c with
  | none => s.count p Fld.LNE_FEC_UNCORR.N l
  | some 0 => s
  | some k => (s.count p Fld.LNE_FEC_CORR.N l).countN p Fld.LNE_FEC_SYMERR.N l k

/-- The outcomes of a pair: a run of UNCORR_FAIL pairs with an uncorrectable codeword fails the lane. -/
def State.pairOutcome (s : State) (p : Plane) (i l : Nat) (a b : Option Nat) : State :=
  let s := (s.codewordIn p l a).codewordIn p l b
  if a.isNone ∨ b.isNone then
    let n := (s.lane p l).uncorr + 1
    let s := s.modLane p l (fun x => { x with uncorr := n })
    if max 1 (s.fld p Fld.LNE_GLB_CFG.UNCORR_FAIL 0) ≤ n ∧ 3 ≤ s.stage p i ∧ s.stage p i ≤ 6 then s.laneFail p i l 1
    else s
  else s.modLane p l (fun x => { x with uncorr := 0 })

/-- The 40 blocks of a pair, by their place in it: markers and ENSIGN fragments act on their lane at once; while the lane
has marker lock and belongs to the set, its other blocks join the order of the port. -/
def State.blockAt (s : State) (p : Plane) (i l : Nat) (e : Block × Nat) (skew : Nat) : State :=
  let (b, k) := e
  let put := fun (s : State) (x : RxItem) =>
    if s.flag p Fld.LNE_LANE_STAT.AM_LOCK l && bit (l - i) (s.port p i).set then
      s.modWire p l (fun w => { w with items := w.items ++ [x] })
    else s
  let rest := b.bytes.tail
  if b.slot = false then put s (.block b)
  else if b.code = bAM then
    let n := (s.wire p l).since
    let s := s.modWire p l (fun w => { w with since := 0 })
    put (s.markerIn p i l rest (k == 0 && (n == 128 || n == 8192)) skew) (.mark (leNat (slice 4 4 rest)))
  else if b.code = bENSIGN ∧ bit (l - i) (s.port p i).set then put (s.ensignIn p i l rest) (.slot b)
  else put s (.slot b)

/-- The levels of a pair at a lane of an enabled port. -/
def State.pairLevels (s : State) (p : Plane) (i l : Nat) (levels : List Nat) (skew : Nat) : State :=
  let x := s.wire p l
  let r := pairIn x.rscr x.rpre levels
  let s := s.modWire p l (fun w => { w with rscr := r.scr, rpre := r.pre, since := w.since + 1 })
  let s := s.pairOutcome p i l r.a r.b
  if s.takesMarkers p i l = false then s
  else
    let s := match r.blocks with
      | some bs => s.each bs.zipIdx (fun e s => s.blockAt p i l e skew)
      | none =>
        if s.flag p Fld.LNE_LANE_STAT.AM_LOCK l && bit (l - i) (s.port p i).set then
          s.modWire p l (fun w => { w with items := w.items ++ List.replicate 40 RxItem.bad })
        else s
    let n := ((s.rxLanes p i).map (fun l => (s.wire p l).items.length)).sum
    s.rowsIn (n + 1) p i

/-- The outcomes alone of a pair: its 40 blocks are bad where a codeword is uncorrectable, and with them the packet in
progress (R37). -/
def State.pairOnly (s : State) (p : Plane) (i l : Nat) (a b : Option Nat) : State :=
  let s := s.pairOutcome p i l a b
  if (a.isNone ∨ b.isNone) ∧ bit (l - i) (s.port p i).set then
    (s.modStream p i (fun x => { x with asm := none })).modLink p i (fun x => { x with rx := x.rx.map (fun r => { r with bad := true }) })
  else s

/-! ## PRBS checker (R66) -/

/-- The last 64 symbols of the lane fit SSPRQ from a place on. -/
def ssprqFit (chk n : Nat) : Bool := (List.range 64).all (fun k => decide (chk / 4 ^ (63 - k) % 4 = Config.ssprq ((n + k) % 65535) % 4))

/-- One symbol at the checker of pattern k: the bit errors counted, whether it is locked after it, and its state. Without
lock it runs on the bits received; 64 right symbols in a row give lock (log entry 116), 64 wrong ones lose it. -/
def checkSymbol (k : Nat) (locked : Bool) (x : LaneLine) (v : Nat) : Nat × Bool × LaneLine :=
  let e := prbsRun k 2 x.chk
  let want := if k = 7 then ungray (Config.ssprq x.place % 4) else e.1
  let errs := ((want.zip (ungray v)).filter (fun b => b.1 != b.2)).length
  if locked then
    let wrong := if errs = 0 then 0 else x.wrong + 1
    let y := { x with
      chk := if k = 7 then x.chk else e.2
      place := (x.place + 1) % 65535
      wrong := wrong
      right := 0 }
    (errs, decide (wrong < 64), if wrong < 64 then y else { y with chk := 0, wrong := 0 })
  else if k = 7 then
    let c := (4 * x.chk + v) % 4 ^ 64
    let n := x.right + 1
    match (if n < 64 then none else (List.range 65535).find? (ssprqFit c)) with
    | some q => (0, true, { x with chk := c, place := (q + 64) % 65535, right := n, wrong := 0 })
    | none => (0, false, { x with chk := c, right := n })
  else
    let right := if errs = 0 ∧ x.chk ≠ 0 then x.right + 1 else 0
    let c := ((ungray v).foldl (fun a b => 2 * a + b2n b) x.chk) % 2 ^ prbsLen k
    (0, decide (64 ≤ right), { x with chk := c, right := right, wrong := 0 })

/-- The symbols of a lane at its checker: LNE_PRBS_ERR counts the bit errors while it is locked, and saturates (R12). -/
def State.checkIn (s : State) (p : Plane) (l : Nat) (levels : List Nat) : State :=
  let k := s.prbsChk p l
  let r := levels.foldl (fun (a : Nat × Bool × LaneLine) v =>
    let y := checkSymbol k a.2.1 a.2.2 v
    (a.1 + y.1, y.2.1, y.2.2)) (0, s.flag p Fld.LNE_LANE_STAT.PRBS_LOCK l, s.wire p l)
  let n := min (2 ^ 64 - 1) ((s.word p .LNE_PRBS_ERR l 0).toNat + 2 ^ 32 * (s.word p .LNE_PRBS_ERR l 1).toNat + r.1)
  ((s.modWire p l (fun _ => r.2.2)).setFlag p Fld.LNE_LANE_STAT.PRBS_LOCK l r.2.1).setWords p .LNE_PRBS_ERR l
    [wn (n % 2 ^ 32), wn (n / 2 ^ 32)]

/-! ## Meanings -/

/-- The levels that reach a lane's receiver, with its polarity, by the loopback mode (Table 2.10): its own pair in modes 1
and 2, which ignore the line; in mode 3 they are sent on too. -/
def State.levelsIn (s : State) (p : Plane) (l : Nat) (levels : List Nat) : Option (List Nat) × State :=
  let m := s.loopMode p l
  let inv := s.flag p Fld.LNE_LANE_CFG.RX_INV l
  if m = 1 ∨ m = 2 then
    match (s.wire p l).loopq with
    | x :: rest => (some (if m = 1 then x else invert inv x), s.modWire p l (fun w => { w with loopq := rest }))
    | [] => (none, s)
  else (some (invert inv levels), if m = 3 then s.drive p l levels else s)

/-- A pair's levels reach a lane: its port's receiver, or the PRBS checker of a lane in no enabled port (R64). -/
def State.laneIn (s : State) (p : Plane) (l : Nat) (levels : List Nat) (skew : Nat) : State :=
  let (x, s) := s.levelsIn p l levels
  match x with
  | none => s
  | some v =>
    match s.portOf p l with
    | some i => s.pairLevels p i l v skew
    | none => if s.prbsChk p l = 0 then s else s.checkIn p l v

/-- CODEWORD_PAIR (R37): the outcomes of codewords A and B, or the 5,440 levels of the pair. -/
def execCodewordPair (p : Plane) (lane : Fin 576) (r : PairRx) (s : State) : Res :=
  goOn (match r with
    | .outcome a b => s.onLane p lane (fun i s => s.pairOnly p i lane (a.map (·.val)) (b.map (·.val)))
    | .symbols levels skew => s.when (s.live p) (fun s => (s.laneIn p lane (levels.map (·.val)) skew.toNat).escCheck p))

end Sys2Proof.Machine
end

