-- ==== Sys2Proof/Machine/Tap.lean ====
section
/-! DEFINITION. The test access port: boundary scan (R396, R397) and freeze read-out (R364). The standby supply alone
powers it; RESET_N does not reset it. -/

namespace Sys2Proof.Machine

/-- The low `n` bits of a number, bit 0 first. -/
def bitsOut (n v : Nat) : List Bool := (List.range n).map (fun i => bit i v)

/-- An instruction is loaded, and a data scan shifts out `out`. -/
def State.tapLoad (s : State) (code : Byte) (out : List Bool) : State :=
  s.modPkg (fun x => { x with
    ir := code
    tdo := out })

/-- The one-bit bypass register, which captures 0. -/
def State.tapBypass (s : State) (code : Byte) : State := s.tapLoad code [false]

/-- Instructions whose boundary cells drive the pins. -/
def drivesPins (ir : Byte) : Bool := ir == 0x00 || ir == 0x03 || ir == 0x08 || ir == 0x09

/-- The boundary cells drive the pins; every pin is in high impedance (R397: only while RESET_N is asserted). -/
def State.pinsDriven (s : State) : Bool := !s.pkg.resetN && drivesPins s.pkg.ir
def State.pinsHighz (s : State) : Bool := !s.pkg.resetN && s.pkg.ir == 0x04

/-- The boundary cells drive fabric lane drivers, which stay squelched while EPO_N is asserted (R397). -/
def State.lanesDriven (s : State) : Bool := s.pinsDriven && !s.pkg.epoPin

/-- Levels captured at `n` boundary cells: those of the pins, which are free values. -/
def State.pinLevels (s : State) (n : Nat) : List Bool × State :=
  let (f, s) := s.takeFree
  (bitsOut n (Config.freeNat f), s)

/-- EXTEST and its AC forms: the cells drive the pins, and the scan shows the levels captured. -/
def State.extest (s : State) (code : Byte) : State :=
  if s.pkg.resetN then s.tapBypass code else
    let (l, s) := s.pinLevels s.pkg.boundary.length
    s.tapLoad code l

/-- EXTEST (R397). -/
def execExtest (s : State) : Res := goOn (s.extest 0x00)

/-- SAMPLE_PRELOAD (R396): the pins are sampled and the cells loaded, without effect on the pins. -/
def State.samplePreload (s : State) (cells : List Bool) : State :=
  let (l, s) := s.pinLevels cells.length
  (s.tapLoad 0x01 l).modPkg (fun x => { x with boundary := cells })
def execSamplePreload (cells : List Bool) (s : State) : Res := goOn (s.samplePreload cells)

/-- IDCODE (R396). -/
def execIdcode (s : State) : Res := goOn (s.tapLoad 0x02 (bitsOut 32 0x11152593))

/-- CLAMP, HIGHZ (R397): both select the bypass register. -/
def execClamp (s : State) : Res := goOn (s.tapBypass 0x03)
def execHighz (s : State) : Res := goOn (s.tapBypass 0x04)

/-- EXTEST_PULSE, EXTEST_TRAIN (R397). -/
def execExtestPulse (s : State) : Res := goOn (s.extest 0x08)
def execExtestTrain (s : State) : Res := goOn (s.extest 0x09)

/-- BYPASS (R396). -/
def execBypass (s : State) : Res := goOn (s.tapBypass 0xFF)

/-! ## Freeze read-out (R364) -/

/-- A read-out instruction: outside freeze it selects BYPASS. -/
def State.readOut (s : State) (code : Byte) (f : State → State) : State :=
  if s.hoist.epc.frozen || s.fly.epc.frozen then f s else s.tapBypass code

/-- The plane whose freeze registers FRZ_STATUS shows: Hoist where it is frozen, else Fly. -/
def State.frozenFirst (s : State) : Plane := if s.hoist.epc.frozen then .hoist else .fly

/-- The time at which a plane froze. -/
def State.frozenAt (s : State) (p : Plane) : Nat :=
  (s.word p .EPC_FREEZE_TIME 0 0).toNat + 2 ^ 32 * (s.word p .EPC_FREEZE_TIME 0 1).toNat

/-- The 128 bits of FRZ_STATUS (Table 11.12). -/
def State.frzStatusWord (s : State) : Nat :=
  let p := s.frozenFirst
  b2n s.hoist.epc.frozen + 2 * b2n s.fly.epc.frozen + 4 * s.fld p Fld.EPC_FREEZE_STAT.SOURCE 0 +
    32 * s.fld p Fld.EPC_FREEZE_STAT.CANTON_RAN 0 +
    2 ^ 64 * s.frozenAt p

/-- FRZ_STATUS. -/
def execFrzStatus (s : State) : Res :=
  goOn (s.readOut 0xC0 (fun s => s.tapLoad 0xC0 (bitsOut 128 s.frzStatusWord)))

/-- FRZ_DIR: the last entry has chain ID 0xFFFF; its other bits are not stated. -/
def State.frzDir (s : State) : State :=
  let (f, s) := s.takeFree
  s.tapLoad 0xC1 ((Config.scanDir.flatMap (fun e => bitsOut 64 e.toNat)) ++
    bitsOut 64 (Config.freeNat f * 65536 + 0xFFFF))
def execFrzDir (s : State) : Res := goOn (s.readOut 0xC1 (·.frzDir))

/-- The length of a chain of a plane, as its directory entry gives it; 0 for a chain the directory does not name. -/
def chainLen (plane id : Nat) : Nat :=
  ((Config.scanDir.find? (fun e => bits 15 0 e.toNat == id && bits 20 20 e.toNat == plane)).map
    (fun e => bits 63 32 e.toNat)).getD 0

/-- The headers of the cells in a plane's switch core: in flight, and in its resequencers (R155). -/
def State.cellHeaders (s : State) (p : Plane) : List Bytes :=
  let w := (s.pl p).swc
  (w.flight ++ w.reseq.flatMap (fun q => q.2.filterMap (·.cell))).map Cell.header

/-- FRZ_CHAIN: a chain of a frozen plane reads the same again, since it recirculates; which latches it holds is not stated.
A chain of a plane that runs is a free value. -/
def State.frzChain (s : State) (sel : Nat) : State :=
  let p : Plane := if bit 16 sel then .fly else .hoist
  let n := chainLen (bits 16 16 sel) (bits 15 0 sel)
  if (s.pl p).epc.frozen then s.tapLoad 0xC2 (bitsOut n (Config.chainBits sel (s.frozenAt p) (s.cellHeaders p)))
  else
    let (f, s) := s.takeFree
    s.tapLoad 0xC2 (bitsOut n (Config.freeNat f))
def execFrzChain (sel : BitVec 17) (s : State) : Res := goOn (s.readOut 0xC2 (·.frzChain sel.toNat))

/-- A word of tile t of a plane: the pool's bytes where the address is in the pool's part (Table 8.2). -/
def State.tileWord (s : State) (p : Plane) (t a : Nat) : Option Nat :=
  let r := s.tileRegion p t a
  if r.1 = 3 then some (leNat ((s.pl p).mem.sram.read r.2 4)) else none

/-- FRZ_MEM: 32 bits at a word address of a memory. Of the memories, the layout of the tiles' pool part is stated; another
word is a free value. -/
def State.frzMem (s : State) (sel : Nat) : State :=
  let p : Plane := if bit 63 sel then .fly else .hoist
  let m := bits 62 56 sel
  let known := if 2 ≤ m ∧ m ≤ 17 then s.tileWord p (m - 2) (4 * bits 37 0 sel) else none
  match known with
  | some v => s.tapLoad 0xC3 (bitsOut 32 v)
  | none =>
    if (s.pl p).epc.frozen then s.tapLoad 0xC3 (bitsOut 32 (Config.memBits sel (s.frozenAt p)))
    else
      let (f, s) := s.takeFree
      s.tapLoad 0xC3 (bitsOut 32 (Config.freeNat f))
def execFrzMem (sel : BitVec 64) (s : State) : Res := goOn (s.readOut 0xC3 (·.frzMem sel.toNat))

/-- What FRZ_REG reads at an absolute address: a read that changes nothing. -/
def State.frzRegWord (s : State) (a : Nat) : Word :=
  let p := planeAt a
  match regAt (a % 0x4000000) with
  | none => 0
  | some (r, i, w) => hideWo r w (s.viewWord p r i w)

/-- FRZ_REG. -/
def execFrzReg (addr : BitVec 27) (s : State) : Res :=
  goOn (s.readOut 0xC4 (fun s => s.tapLoad 0xC4 (bitsOut 32 (s.frzRegWord addr.toNat).toNat)))

end Sys2Proof.Machine
end

