-- ==== Sys2Proof/Machine/Dispatch.lean ====
section
/-! DEFINITION. The dispatch: one arm per command, each one direct call of its meaning. -/

namespace Sys2Proof.Machine

/-- The effect of a command on everything but the queue. -/
def exec (i : Instr) (s : State) : Host.Outcome State Fault Refusal :=
  match i with
  | .registerWrite addr v => Sys2Proof.Machine.execRegisterWrite addr v s
  | .resetDeassert straps => Sys2Proof.Machine.execResetDeassert straps s
  | .selfTestDone p pg chip tile elem hal => Sys2Proof.Machine.execSelfTestDone p pg chip tile elem hal s
  | .swcRst p => Sys2Proof.Machine.execSwcRst p s
  | .colRst p => Sys2Proof.Machine.execColRst p s
  | .dspRst p => Sys2Proof.Machine.execDspRst p s
  | .memRst p => Sys2Proof.Machine.execMemRst p s
  | .tstRst p => Sys2Proof.Machine.execTstRst p s
  | .blockResetDone p b => Sys2Proof.Machine.execBlockResetDone p b s
  | .portEnable p j v => Sys2Proof.Machine.execPortEnable p j v s
  | .portDisable p j v => Sys2Proof.Machine.execPortDisable p j v s
  | .detectSense p j mask => Sys2Proof.Machine.execDetectSense p j mask s
  | .trainingFrame p lane bytes converged => Sys2Proof.Machine.execTrainingFrame p lane bytes converged s
  | .trainTimeout p j => Sys2Proof.Machine.execTrainTimeout p j s
  | .alignmentMarker p lane bytes atSpacing skew => Sys2Proof.Machine.execAlignmentMarker p lane bytes atSpacing skew s
  | .markerLoss p lane => Sys2Proof.Machine.execMarkerLoss p lane s
  | .lockTimeout p j => Sys2Proof.Machine.execLockTimeout p j s
  | .signalDetectLoss p lane => Sys2Proof.Machine.execSignalDetectLoss p lane s
  | .codewordPair p lane r => Sys2Proof.Machine.execCodewordPair p lane r s
  | .ensignBlock p lane bytes => Sys2Proof.Machine.execEnsignBlock p lane bytes s
  | .exchangeTimeout p j => Sys2Proof.Machine.execExchangeTimeout p j s
  | .ensignTailEnd p j => Sys2Proof.Machine.execEnsignTailEnd p j s
  | .portAdmit p j => Sys2Proof.Machine.execPortAdmit p j s
  | .retrain p j => Sys2Proof.Machine.execRetrain p j s
  | .restore p j => Sys2Proof.Machine.execRestore p j s
  | .restoreAutoTick p => Sys2Proof.Machine.execRestoreAutoTick p s
  | .wireCtlWrite p j v => Sys2Proof.Machine.execWireCtlWrite p j v s
  | .neighbourMissing p j => Sys2Proof.Machine.execNeighbourMissing p j s
  | .widthBlock p j mask sw seq => Sys2Proof.Machine.execWidthBlock p j mask sw seq s
  | .widthSend p j => Sys2Proof.Machine.execWidthSend p j s
  | .runLimit p lane => Sys2Proof.Machine.execRunLimit p lane s
  | .lpiIdleExpiry p j => Sys2Proof.Machine.execLpiIdleExpiry p j s
  | .lpiBlock p j code => Sys2Proof.Machine.execLpiBlock p j code s
  | .lpiWake p j far => Sys2Proof.Machine.execLpiWake p j far s
  | .wakeTimeout p j => Sys2Proof.Machine.execWakeTimeout p j s
  | .lpiMaxWake p j => Sys2Proof.Machine.execLpiMaxWake p j s
  | .lpiReentryAllowed p j => Sys2Proof.Machine.execLpiReentryAllowed p j s
  | .txSquelch p lane => Sys2Proof.Machine.execTxSquelch p lane s
  | .prbsClr p lane => Sys2Proof.Machine.execPrbsClr p lane s
  | .prbsLockLoss p lane => Sys2Proof.Machine.execPrbsLockLoss p lane s
  | .eyeScanStart p lane eye => Sys2Proof.Machine.execEyeScanStart p lane eye s
  | .eyeScanDone p lane h w => Sys2Proof.Machine.execEyeScanDone p lane h w s
  | .laserReady p c => Sys2Proof.Machine.execLaserReady p c s
  | .laserInputFail p c k => Sys2Proof.Machine.execLaserInputFail p c k s
  | .sopBlock p j b got => Sys2Proof.Machine.execSopBlock p j b got s
  | .packetIngress p j pkt bad unknown got more => Sys2Proof.Machine.execPacketIngress p j pkt bad unknown got more s
  | .pchkLinkSilence p j sent => Sys2Proof.Machine.execPchkLinkSilence p j sent s
  | .creditBlock p j counts rsv => Sys2Proof.Machine.execCreditBlock p j counts rsv s
  | .sentBlock p j counts rsv => Sys2Proof.Machine.execSentBlock p j counts rsv s
  | .creditSend p j => Sys2Proof.Machine.execCreditSend p j s
  | .sentSend p j => Sys2Proof.Machine.execSentSend p j s
  | .packetTransmit p code => Sys2Proof.Machine.execPacketTransmit p code s
  | .whFallback p j vc => Sys2Proof.Machine.execWhFallback p j vc s
  | .whTruncate p j => Sys2Proof.Machine.execWhTruncate p j s
  | .escapeMove p slice code vc => Sys2Proof.Machine.execEscapeMove p slice code vc s
  | .cellTime p => Sys2Proof.Machine.execCellTime p s
  | .cellArrival p src dst pseq hec => Sys2Proof.Machine.execCellArrival p src dst pseq hec s
  | .reseqLoss p src dst => Sys2Proof.Machine.execReseqLoss p src dst s
  | .spineFail p elem lost => Sys2Proof.Machine.execSpineFail p elem lost s
  | .pgFail p g => Sys2Proof.Machine.execPgFail p g s
  | .chipletFail p c => Sys2Proof.Machine.execChipletFail p c s
  | .engineFail p e => Sys2Proof.Machine.execEngineFail p e s
  | .holdDownEnd p code => Sys2Proof.Machine.execHoldDownEnd p code s
  | .hdClr p code => Sys2Proof.Machine.execHdClr p code s
  | .halyardFlit p f => Sys2Proof.Machine.execHalyardFlit p f s
  | .mirrorRecord p => Sys2Proof.Machine.execMirrorRecord p s
  | .windowedArrival p e pkt => Sys2Proof.Machine.execWindowedArrival p e pkt s
  | .holeSkip p e src => Sys2Proof.Machine.execHoleSkip p e src s
  | .pennantDeadline p e src wseq => Sys2Proof.Machine.execPennantDeadline p e src wseq s
  | .winSync p e pkt => Sys2Proof.Machine.execWinSync p e pkt s
  | .ackReceived p e pkt => Sys2Proof.Machine.execAckReceived p e pkt s
  | .ackDelay p e src => Sys2Proof.Machine.execAckDelay p e src s
  | .cplReceived p e pkt => Sys2Proof.Machine.execCplReceived p e pkt s
  | .opTimeout p e tag => Sys2Proof.Machine.execOpTimeout p e tag s
  | .tagRelease p e tag => Sys2Proof.Machine.execTagRelease p e tag s
  | .cwndIncrease p e dst => Sys2Proof.Machine.execCwndIncrease p e dst s
  | .drainStart p id => Sys2Proof.Machine.execDrainStart p id s
  | .drainAbort p => Sys2Proof.Machine.execDrainAbort p s
  | .drainMarker p j id => Sys2Proof.Machine.execDrainMarker p j id s
  | .routeDrained p => Sys2Proof.Machine.execRouteDrained p s
  | .cmapSample p => Sys2Proof.Machine.execCmapSample p s
  | .cmapInterval p => Sys2Proof.Machine.execCmapInterval p s
  | .contrib p pkt ecc => Sys2Proof.Machine.execContrib p pkt ecc s
  | .partialIn p pkt ecc => Sys2Proof.Machine.execPartialIn p pkt ecc s
  | .chunkFreed p g chunk => Sys2Proof.Machine.execChunkFreed p g chunk s
  | .slotCred p pkt => Sys2Proof.Machine.execSlotCred p pkt s
  | .slotCredDelay p g => Sys2Proof.Machine.execSlotCredDelay p g s
  | .slotCredRefresh p g => Sys2Proof.Machine.execSlotCredRefresh p g s
  | .colCtl p pkt => Sys2Proof.Machine.execColCtl p pkt s
  | .collectiveTimeout p g => Sys2Proof.Machine.execCollectiveTimeout p g s
  | .groupActivate p g => Sys2Proof.Machine.execGroupActivate p g s
  | .groupDeactivate p g => Sys2Proof.Machine.execGroupDeactivate p g s
  | .groupAbort p g => Sys2Proof.Machine.execGroupAbort p g s
  | .reform p g => Sys2Proof.Machine.execReform p g s
  | .engineStateFlit p up => Sys2Proof.Machine.execEngineStateFlit p up s
  | .engineStateSend p => Sys2Proof.Machine.execEngineStateSend p s
  | .token p pkt ecc => Sys2Proof.Machine.execToken p pkt ecc s
  | .expertOut p pkt ecc => Sys2Proof.Machine.execExpertOut p pkt ecc s
  | .layerTimeout p l => Sys2Proof.Machine.execLayerTimeout p l s
  | .layerActivate p l => Sys2Proof.Machine.execLayerActivate p l s
  | .layerDeactivate p l => Sys2Proof.Machine.execLayerDeactivate p l s
  | .layerAbort p l => Sys2Proof.Machine.execLayerAbort p l s
  | .layerReform p l => Sys2Proof.Machine.execLayerReform p l s
  | .put p pkt ecc => Sys2Proof.Machine.execPut p pkt ecc s
  | .get p pkt ecc => Sys2Proof.Machine.execGet p pkt ecc s
  | .putRed p pkt ecc => Sys2Proof.Machine.execPutRed p pkt ecc s
  | .copy p pkt => Sys2Proof.Machine.execCopy p pkt s
  | .copyPieceDone p id piece ecc => Sys2Proof.Machine.execCopyPieceDone p id piece ecc s
  | .faddI p pkt ecc => Sys2Proof.Machine.execFaddI p pkt ecc s
  | .faddF p pkt ecc => Sys2Proof.Machine.execFaddF p pkt ecc s
  | .cas p pkt ecc => Sys2Proof.Machine.execCas p pkt ecc s
  | .swap p pkt ecc => Sys2Proof.Machine.execSwap p pkt ecc s
  | .amax p pkt ecc => Sys2Proof.Machine.execAmax p pkt ecc s
  | .amin p pkt ecc => Sys2Proof.Machine.execAmin p pkt ecc s
  | .fwdTimeout p tag => Sys2Proof.Machine.execFwdTimeout p tag s
  | .scrubTick p lp unit addr sub col err => Sys2Proof.Machine.execScrubTick p lp unit addr sub col err s
  | .columnRepairDone p t sub col => Sys2Proof.Machine.execColumnRepairDone p t sub col s
  | .tileFail p t => Sys2Proof.Machine.execTileFail p t s
  | .lpDeviceFail p m => Sys2Proof.Machine.execLpDeviceFail p m s
  | .sramZeroDone p => Sys2Proof.Machine.execSramZeroDone p s
  | .lpInitDone p m ok bad => Sys2Proof.Machine.execLpInitDone p m ok bad s
  | .lpZeroDone p => Sys2Proof.Machine.execLpZeroDone p s
  | .pprStart p m => Sys2Proof.Machine.execPprStart p m s
  | .glDetectSense half mask => Sys2Proof.Machine.execGlDetectSense half mask s
  | .glStageTimeout half => Sys2Proof.Machine.execGlStageTimeout half s
  | .glInitFlit half f => Sys2Proof.Machine.execGlInitFlit half f s
  | .glFlit half f => Sys2Proof.Machine.execGlFlit half f s
  | .glLaneFail half lane => Sys2Proof.Machine.execGlLaneFail half lane s
  | .glHalfDown half => Sys2Proof.Machine.execGlHalfDown half s
  | .glRetrain half => Sys2Proof.Machine.execGlRetrain half s
  | .glData half m => Sys2Proof.Machine.execGlData half m s
  | .glCmp half m => Sys2Proof.Machine.execGlCmp half m s
  | .snpInv half m => Sys2Proof.Machine.execSnpInv half m s
  | .mmioRd half m => Sys2Proof.Machine.execMmioRd half m s
  | .mmioWr half m => Sys2Proof.Machine.execMmioWr half m s
  | .nop p h => Sys2Proof.Machine.execNop p h s
  | .regWr p h pairs => Sys2Proof.Machine.execRegWr p h pairs s
  | .regRd p h off words haddr fault => Sys2Proof.Machine.execRegRd p h off words haddr fault s
  | .bulkWr p h off words haddr data fault => Sys2Proof.Machine.execBulkWr p h off words haddr data fault s
  | .modeSet p h func mode => Sys2Proof.Machine.execModeSet p h func mode s
  | .cwndSet p h dst cwnd => Sys2Proof.Machine.execCwndSet p h dst cwnd s
  | .adapt p h lane reqA reqB ctl => Sys2Proof.Machine.execAdapt p h lane reqA reqB ctl s
  | .adaptDone p report => Sys2Proof.Machine.execAdaptDone p report s
  | .ringEnable p r => Sys2Proof.Machine.execRingEnable p r s
  | .ringDisable p r => Sys2Proof.Machine.execRingDisable p r s
  | .statusLineWrite p => Sys2Proof.Machine.execStatusLineWrite p s
  | .intrCoalesce p r => Sys2Proof.Machine.execIntrCoalesce p r s
  | .eventRaise p code unit args => Sys2Proof.Machine.execEventRaise p code unit args s
  | .evtHoldEnd p code unit => Sys2Proof.Machine.execEvtHoldEnd p code unit s
  | .funcModeWrite p v => Sys2Proof.Machine.execFuncModeWrite p v s
  | .hostWatchdog p => Sys2Proof.Machine.execHostWatchdog p s
  | .hostLinkLost p => Sys2Proof.Machine.execHostLinkLost p s
  | .hostBack p => Sys2Proof.Machine.execHostBack p s
  | .heartbeatSend p => Sys2Proof.Machine.execHeartbeatSend p s
  | .heartbeat p role seq jrn time health => Sys2Proof.Machine.execHeartbeat p role seq jrn time health s
  | .heartbeatMiss p => Sys2Proof.Machine.execHeartbeatMiss p s
  | .cantonClaim p => Sys2Proof.Machine.execCantonClaim p s
  | .journalRecord p seq r => Sys2Proof.Machine.execJournalRecord p seq r s
  | .healthReport p agree flashOk => Sys2Proof.Machine.execHealthReport p agree flashOk s
  | .selfTestTick p kat ok => Sys2Proof.Machine.execSelfTestTick p kat ok s
  | .cantonWatchdog p => Sys2Proof.Machine.execCantonWatchdog p s
  | .cantonBoot p flash => Sys2Proof.Machine.execCantonBoot p flash s
  | .cantonBootDone p ok mc => Sys2Proof.Machine.execCantonBootDone p ok mc s
  | .handover p req => Sys2Proof.Machine.execHandover p req s
  | .handoverAck p => Sys2Proof.Machine.execHandoverAck p s
  | .healthGet req => Sys2Proof.Machine.execHealthGet req s
  | .inventoryGet req members => Sys2Proof.Machine.execInventoryGet req members s
  | .sensorGet req => Sys2Proof.Machine.execSensorGet req s
  | .attest req => Sys2Proof.Machine.execAttest req s
  | .neighbourGet req => Sys2Proof.Machine.execNeighbourGet req s
  | .capSet req => Sys2Proof.Machine.execCapSet req s
  | .powerSet req => Sys2Proof.Machine.execPowerSet req s
  | .fwWrite req => Sys2Proof.Machine.execFwWrite req s
  | .fwActivate req => Sys2Proof.Machine.execFwActivate req s
  | .svnCommit req => Sys2Proof.Machine.execSvnCommit req s
  | .keyRevoke req signer => Sys2Proof.Machine.execKeyRevoke req signer s
  | .ownerSet req => Sys2Proof.Machine.execOwnerSet req s
  | .masterHandover req => Sys2Proof.Machine.execMasterHandover req s
  | .mboxSend p => Sys2Proof.Machine.execMboxSend p s
  | .cascadeMsg side f => Sys2Proof.Machine.execCascadeMsg side f s
  | .announce slot serial eligible master => Sys2Proof.Machine.execAnnounce slot serial eligible master s
  | .memberLost slot => Sys2Proof.Machine.execMemberLost slot s
  | .trayTimeFrame side kind lock t rx => Sys2Proof.Machine.execTrayTimeFrame side kind lock t rx s
  | .trayTimeSend ask => Sys2Proof.Machine.execTrayTimeSend ask s
  | .ptpMessage kind t rx => Sys2Proof.Machine.execPtpMessage kind t rx s
  | .trayCapSplit members => Sys2Proof.Machine.execTrayCapSplit members s
  | .powerFrame share => Sys2Proof.Machine.execPowerFrame share s
  | .sensorPoll p k r => Sys2Proof.Machine.execSensorPoll p k r s
  | .leakMeasure loop ohms => Sys2Proof.Machine.execLeakMeasure loop ohms s
  | .leakPowerOff loop => Sys2Proof.Machine.execLeakPowerOff loop s
  | .throttleStep p => Sys2Proof.Machine.execThrottleStep p s
  | .shareUpdate hoist fly => Sys2Proof.Machine.execShareUpdate hoist fly s
  | .capUnmeet p => Sys2Proof.Machine.execCapUnmeet p s
  | .capHostWrite p v => Sys2Proof.Machine.execCapHostWrite p v s
  | .hostReqWrite p v => Sys2Proof.Machine.execHostReqWrite p v s
  | .epoAssert src => Sys2Proof.Machine.execEpoAssert src s
  | .thermalTrip p k => Sys2Proof.Machine.execThermalTrip p k s
  | .commit p => Sys2Proof.Machine.execCommit p s
  | .discard p => Sys2Proof.Machine.execDiscard p s
  | .unitRetire p v => Sys2Proof.Machine.execUnitRetire p v s
  | .unitTest p v => Sys2Proof.Machine.execUnitTest p v s
  | .unitTestDone p pass => Sys2Proof.Machine.execUnitTestDone p pass s
  | .engineGate p u => Sys2Proof.Machine.execEngineGate p u s
  | .unitWake p u => Sys2Proof.Machine.execUnitWake p u s
  | .freeze p => Sys2Proof.Machine.execFreeze p s
  | .freezePin casc => Sys2Proof.Machine.execFreezePin casc s
  | .errorLogged p code unit info0 info1 info2 => Sys2Proof.Machine.execErrorLogged p code unit info0 info1 info2 s
  | .logRpWrite p v => Sys2Proof.Machine.execLogRpWrite p v s
  | .configEccError p off => Sys2Proof.Machine.execConfigEccError p off s
  | .ftCfgWrite p v => Sys2Proof.Machine.execFtCfgWrite p v s
  | .ftSet p v => Sys2Proof.Machine.execFtSet p v s
  | .syncSend p j => Sys2Proof.Machine.execSyncSend p j s
  | .dreqSend p j => Sys2Proof.Machine.execDreqSend p j s
  | .sync p j b => Sys2Proof.Machine.execSync p j b s
  | .dreq p j b => Sys2Proof.Machine.execDreq p j b s
  | .dresp p j b => Sys2Proof.Machine.execDresp p j b s
  | .timeSourceLost p => Sys2Proof.Machine.execTimeSourceLost p s
  | .timeSourceReturn p => Sys2Proof.Machine.execTimeSourceReturn p s
  | .timeFlitSend p => Sys2Proof.Machine.execTimeFlitSend p s
  | .timeFlit p b => Sys2Proof.Machine.execTimeFlit p b s
  | .ppsInEdge p => Sys2Proof.Machine.execPpsInEdge p s
  | .ppsMissing p => Sys2Proof.Machine.execPpsMissing p s
  | .ppsOut p => Sys2Proof.Machine.execPpsOut p s
  | .genStart p g streams => Sys2Proof.Machine.execGenStart p g streams s
  | .genStop p g streams => Sys2Proof.Machine.execGenStop p g streams s
  | .genPacket p g st => Sys2Proof.Machine.execGenPacket p g st s
  | .gepReceive p j pkt => Sys2Proof.Machine.execGepReceive p j pkt s
  | .chkClr p g => Sys2Proof.Machine.execChkClr p g s
  | .injectDelayEnd p code => Sys2Proof.Machine.execInjectDelayEnd p code s
  | .fecInject p lane => Sys2Proof.Machine.execFecInject p lane s
  | .refclkLoss p k => Sys2Proof.Machine.execRefclkLoss p k s
  | .refclkReturn p k => Sys2Proof.Machine.execRefclkReturn p k s
  | .samplePreload cells => Sys2Proof.Machine.execSamplePreload cells s
  | .frzChain sel => Sys2Proof.Machine.execFrzChain sel s
  | .frzMem sel => Sys2Proof.Machine.execFrzMem sel s
  | .frzReg addr => Sys2Proof.Machine.execFrzReg addr s
  | .notifyAck seq => Sys2Proof.Machine.execNotifyAck seq s
  | .mgmtEthLinkChange up => Sys2Proof.Machine.execMgmtEthLinkChange up s
  | .alignmentMarkerSend p j => Sys2Proof.Machine.execAlignmentMarkerSend p j s
  | .ensignSend p lane => Sys2Proof.Machine.execEnsignSend p lane s
  | .trainingFrameSend p lane => Sys2Proof.Machine.execTrainingFrameSend p lane s
  | .badOp p h op => Sys2Proof.Machine.execBadOp p h op s
  | .mgmtUnknown req code => Sys2Proof.Machine.execMgmtUnknown req code s
  | .halyardFail => Sys2Proof.Machine.execHalyardFail s
  | .halyardReturn => Sys2Proof.Machine.execHalyardReturn s
  | .announceSend => Sys2Proof.Machine.execAnnounceSend s
  | .masterElection => Sys2Proof.Machine.execMasterElection s
  | .inventorySave => Sys2Proof.Machine.execInventorySave s
  | .thermCapStep => Sys2Proof.Machine.execThermCapStep s
  | .epoRelease => Sys2Proof.Machine.execEpoRelease s
  | .neighbourLost => Sys2Proof.Machine.execNeighbourLost s
  | .neighbourNotify => Sys2Proof.Machine.execNeighbourNotify s
  | .viewCheck => Sys2Proof.Machine.execViewCheck s
  | .avsSet => Sys2Proof.Machine.execAvsSet s
  | .commitDecision => Sys2Proof.Machine.execCommitDecision s
  | .commitInstant => Sys2Proof.Machine.execCommitInstant s
  | .cfgMeasDone => Sys2Proof.Machine.execCfgMeasDone s
  | .powerTransition => Sys2Proof.Machine.execPowerTransition s
  | .powerState => Sys2Proof.Machine.execPowerState s
  | .pwrgdLoss => Sys2Proof.Machine.execPwrgdLoss s
  | .pwrgdAssert => Sys2Proof.Machine.execPwrgdAssert s
  | .aonClkLoss => Sys2Proof.Machine.execAonClkLoss s
  | .extest => Sys2Proof.Machine.execExtest s
  | .idcode => Sys2Proof.Machine.execIdcode s
  | .clamp => Sys2Proof.Machine.execClamp s
  | .highz => Sys2Proof.Machine.execHighz s
  | .extestPulse => Sys2Proof.Machine.execExtestPulse s
  | .extestTrain => Sys2Proof.Machine.execExtestTrain s
  | .bypass => Sys2Proof.Machine.execBypass s
  | .frzStatus => Sys2Proof.Machine.execFrzStatus s
  | .frzDir => Sys2Proof.Machine.execFrzDir s
  | .resetAssert => Sys2Proof.Machine.execResetAssert s
  | .standbySupplyLoss => Sys2Proof.Machine.execStandbySupplyLoss s
  | .corePllLock => Sys2Proof.Machine.execCorePllLock s
  | .aonClkReturn => Sys2Proof.Machine.execAonClkReturn s
  | .inventoryMinuteCount => Sys2Proof.Machine.execInventoryMinuteCount s

end Sys2Proof.Machine
end

