-- ==== Sys2Proof/Machine/Tick.lean ====
section
/-! DEFINITION. One core clock passing while no command waits (DESIGN CHOICE, log entry 1): the tick count advances and
each plane's fabric time runs on at the nominal rate × (1 + FREQ) (R374), and its PRBS generators send, unless a freeze
or a missing power or reset has stopped it (R362, R350). -/

namespace Sys2Proof.Machine

/-- FREQ in units of 0.1 ppb, signed (Table 12.12). -/
def State.freq (s : State) (p : Plane) : Int := toInt 32 (s.word p .TST_FT_FREQ 0 0).toNat

/-- Fabric time after one nominal core clock of 0.625 ns, that is 40,960 units of 1/65,536 ns: the new time and the new
remainder in 10^-10 of a unit. The counter has 64 + 16 bits. -/
def ftAdvance (ft rem : Nat) (freq : Int) : Nat × Nat :=
  let acc := rem + (40960 * (10000000000 + freq)).toNat
  ((ft + acc / 10000000000) % 2 ^ 80, acc % 10000000000)

/-- A plane's fabric time runs on for one core clock. -/
def State.ftTick (s : State) (p : Plane) : State :=
  if s.live p then
    s.modPl p (fun x =>
      let t := ftAdvance x.ft x.ftRem (s.freq p)
      { x with ft := t.1, ftRem := t.2 })
  else s

/-- The lanes of a plane whose PRBS generator runs: those of no enabled port (R64, R66). -/
def State.genLanes (s : State) (p : Plane) : List Nat :=
  (((s.pl p).line.lanes.filter (fun e => decide (e.2.genOn ≠ 0))).map (·.1)).filter (fun l => (s.portOf p l).isNone)

/-- What runs by itself in a plane during a core clock: fabric time, and the PRBS generators of a plane that runs. -/
def State.planeTick (s : State) (p : Plane) : State :=
  let s := s.ftTick p
  if s.live p then s.each (s.genLanes p) (fun l s => s.genTick p l) else s

/-- One core clock passes. -/
def State.idle (s : State) : State := { (s.both (fun p s => s.planeTick p)) with ticks := s.ticks + 1 }

end Sys2Proof.Machine
end

