-- ==== Sys2Proof/Safety.lean ====
section
/-! DEFINITION. What counts as a safe run: the block never stops, and the tables that a run changes keep the form in which
equal contents are equal data. What a command may change, part by part and register by register. -/

namespace Sys2Proof

/-- A state whose next step is a next state. -/
def Safe (s : Machine.State) : Prop := ∃ t, Machine.step s = .next t

namespace Machine

/-- What holds of a plane in every state that a run meets: the register files list their offsets in rising order, both
memory pools are in canonical form (R231, R234, R236), and the event store holds at most 256 events (R282). -/
structure PlaneSt.Inv (x : PlaneSt) : Prop where
  regs      : keysAbove none x.regs = true
  committed : keysAbove none x.committed = true
  sram      : x.mem.sram.wf = true
  lp        : x.mem.lp.wf = true
  events    : x.hif.events.length ≤ 256

/-- Both planes hold the invariant. -/
def State.Inv (s : State) : Prop := ∀ p, (s.pl p).Inv

/-- The parts of the state beside the registers: those of a plane, the package, the numbering of free values and the
record of what left the device. `pools` are the contents of the SRAM and LPDDR5X pools, `mem` the rest of the memory
complex. -/
inductive Part where
  | committed | partW | latch | loose | ft | lne | line | lfp | rte | swc | hif | can | epc | tst | col | dsp | pools | mem
  | pkg | free | out
  deriving DecidableEq, Repr

/-- A part of a plane is the same in two planes' states. -/
def PlaneSt.Same (x y : PlaneSt) : Part → Prop
  | .committed => y.committed = x.committed
  | .partW => y.partW = x.partW
  | .latch => y.latch = x.latch
  | .loose => y.loose = x.loose
  | .ft => y.ft = x.ft ∧ y.ftRem = x.ftRem
  | .lne => y.lne = x.lne
  | .line => y.line = x.line
  | .lfp => y.lfp = x.lfp
  | .rte => y.rte = x.rte
  | .swc => y.swc = x.swc
  | .hif => y.hif = x.hif
  | .can => y.can = x.can
  | .epc => y.epc = x.epc
  | .tst => y.tst = x.tst
  | .col => y.col = x.col
  | .dsp => y.dsp = x.dsp
  | .pools => y.mem.sram = x.mem.sram ∧ y.mem.lp = x.mem.lp
  | .mem => { y.mem with sram := x.mem.sram, lp := x.mem.lp } = x.mem
  | .pkg | .free | .out => True

/-- A part is the same in two states. -/
def State.Same (s t : State) : Part → Prop
  | .pkg => t.pkg = s.pkg
  | .free => t.free = s.free
  | .out => t.out = s.out
  | b => ∀ p, (s.pl p).Same (t.pl p) b

/-- A register has word `w` at index `i`. -/
def Reg.Has (r : Reg) (i w : Nat) : Prop := i < r.info.count ∧ i % r.info.period < r.info.valid ∧ w < r.info.words

/-- An offset is that of a word of a register. -/
def Reg.Owns (r : Reg) (a : Nat) : Prop := ∃ i w, r.Has i w ∧ a = r.off i w

/-- What takes `s` to `t` changes at most the parts of `ps` and the registers of `rs`, and neither the waiting commands
nor the core clock count. -/
structure Changes (ps : List Part) (rs : List Reg) (s t : State) : Prop where
  pending : t.pending = s.pending
  ticks   : t.ticks = s.ticks
  parts   : ∀ b, b ∉ ps → s.Same t b
  words   : ∀ p r i w, r ∉ rs → r.Has i w → t.word p r i w = s.word p r i w

end Machine

/-! ## The registers that shared effects write -/

namespace Machine

/-- What an event, or a message on a ring, may write. -/
def eventRegs : List Reg := [.HIF_EVT_LOST, .HIF_RING_IDX]

/-- What an entry of the error log may write. -/
def logRegs : List Reg := eventRegs ++ [.EPC_FIRST, .EPC_LOG, .EPC_LOG_OVF, .EPC_LOG_WP]

/-- What a port that goes down may write. -/
def portDownRegs : List Reg := logRegs ++ [.LFP_PORT_STAT, .LNE_LANE_STAT, .LNE_PORT_CTL, .LNE_PORT_STAT,
  .LNE_QDISC_CNT, .RTE_MARK_RX, .SWC_FLUSH_DISC, .SWC_PORT_FLUSH, .SWC_PORT_STAT, .TST_FT_DELAY, .TST_FT_STAT]

/-- What a packet that the device itself sends may write. -/
def sendRegs : List Reg := logRegs ++ [.GWM_DENY_CNT, .GWM_MEMERR_CNT, .GWM_UNMAP_CNT, .GWM_UNSUP_CNT,
  .LFP_HCRC_DISC, .LFP_HDR_DISC, .LFP_HOP_DISC, .RTE_ESC_DISC, .RTE_ESC_MOVE, .RTE_INT_DISC, .RTE_MARK_RX,
  .RTE_MC_DISC, .RTE_MISS_DISC, .RTE_NOPORT_DISC, .RTE_PATH_DISC, .SWC_FLUSH_DISC, .SWC_MIR_DROP, .SWC_OVF_DISC,
  .TST_INJ, .TST_INJ_CNT, .TST_MATCH_CNT]

/-- What a packet that an engine takes in may write. -/
def receiveRegs : List Reg := sendRegs ++ [.LFP_CRC_DISC, .LFP_STOMP_RX]

/-- What a plane that goes down may write. -/
def planeDownRegs : List Reg := portDownRegs ++ sendRegs ++ [.COL_GRP_STAT, .DSP_LYR_STAT, .GWM_COPY_ACT,
  .GWM_FWD_USED, .TOP_PG_STAT]

/-- What a memory operation may write. -/
def memoryRegs : List Reg := sendRegs ++ [.COL_GRP_STAT, .COL_REC_FREE, .COL_SLOT_FREE, .COL_SPILL_FREE,
  .DSP_LYR_STAT, .DSP_OVF_FREE, .EPC_SUPPR_CNT, .GWM_COPY_ACT, .GWM_FWD_CNT, .GWM_FWD_TMO, .GWM_FWD_USED,
  .GWM_OPS_CNT, .GWM_SAT_CNT, .MEM_DEEP_FREE, .MEM_ERR_ADDR, .MEM_ERR_INFO, .MEM_LINK_CE, .MEM_LINK_UE, .MEM_LP_CE,
  .MEM_LP_DEV, .MEM_LP_DEV_ROW, .MEM_LP_UE, .MEM_SRAM_CE, .MEM_SRAM_UE, .MEM_TILE_CE, .MEM_TILE_STAT,
  .TOP_UNIT_STAT]

/-- What the collective and the dispatch engine may write. -/
def engineRegs : List Reg := [.COL_ABORT_DISC, .COL_CRED_DISC, .COL_FWD_CNT, .COL_GRP_DISC, .COL_SAT_CNT,
  .COL_STALE_DISC, .DSP_ABORT_DISC, .DSP_DROP_CNT, .DSP_HOST_CNT, .DSP_LYR_DISC, .DSP_OUT_DISC, .DSP_OVF_FULL,
  .DSP_QUEUE_CNT, .DSP_REFUSE_CNT, .DSP_SAT_CNT, .DSP_STALE_DISC]

/-- What a management answer may write. -/
def mailRegs : List Reg := [.CAN_MBOX_CTL, .CAN_MBOX_RX, .CAN_SIG_FAIL]

end Machine

end Sys2Proof
end

