-- ==== Sys2Proof/Certificates/Slice0/Obligations.lean ====
section
/-! DEFINITION. The statements for the provers. Each is a conjunction of clauses: for every state and operands that meet
the clause's conditions, the command answers a next state that holds what the clause names. -/

open Sys2Proof Sys2Proof.Machine

/-- A step runs the command at the front of the queue. For every command c, every rest of the queue and every state,
step with c in front of that rest is exec of c on the state whose queue is the rest. (00_scope.md, Readers and the
way through the manual) -/
def Obligations.StepRunsTheFrontCommand : Prop :=
  ∀ (c : Instr) (rest : List Instr) (s : State), step { s with pending := c :: rest } = exec c
    { s with pending := rest }

/-- With no command waiting one core clock passes (the model's choice, log entry 1). With an empty queue a step
answers a next state: the tick count is one more, the queue stays empty, nothing leaves the device, and of each
plane only the fabric time and the line state of its lanes may differ, the latter only where a PRBS generator runs
on a lane of no enabled port. In a plane that is live the fabric time goes on by one clock. What a step does on an
empty queue is the choice of log entry 1. (12_test_instrument.md, Fabric time; 02_lanes.md, Loopback, PRBS and eye
monitor) -/
def Obligations.IdleStepPassesOneClock : Prop :=
  ∀ s : State, s.pending = [] → ∃ t, step s = .next t ∧ t.pending = [] ∧ t.ticks = s.ticks + 1 ∧ t.pkg = s.pkg ∧
    t.out = s.out ∧
    ∀ p, t.pl p = { s.pl p with ft := (t.pl p).ft, ftRem := (t.pl p).ftRem, line := (t.pl p).line } ∧
      (s.live p = true → ((t.pl p).ft, (t.pl p).ftRem) = ftAdvance (s.pl p).ft (s.pl p).ftRem (s.freq p)) ∧
      (s.live p = false ∨ s.genLanes p = [] → (t.pl p).line = (s.pl p).line)

/-- What reset leaves. State.reset has an empty queue, holds the invariant Inv, lists no byte in any memory pool,
gives TOP_CHIP_ID the part number 0x1152 in both planes with the plane bit 0 in Hoist and 1 in Fly, shows no port
enabled and every port at stage Down. (00_scope.md, Variants and identification; 00_scope.md, Registers;
02_lanes.md, Port configuration) -/
def Obligations.ResetState : Prop :=
  State.reset.pending = [] ∧ State.reset.Inv ∧ (∀ p, (State.reset.pl p).mem.sram = [] ∧ (State.reset.pl p).mem.lp =
    []) ∧
    (∀ p, State.reset.fld p Fld.TOP_CHIP_ID.PART 0 = 0x1152 ∧ State.reset.fld p Fld.TOP_CHIP_ID.PLANE 0 = p.num) ∧
    ∀ (p : Plane) (i : Nat), State.reset.portEn p i = false ∧ State.reset.stage p i = 0

/-- Every command of the table answers a next state from every state. For every command and every state, exec
answers a next state: never a fault and never a refusal. It leaves the queue and the core clock count as they were,
and it keeps the invariant Inv (register files in rising order of offset, both memory pools in canonical form, at
most 256 events in the store). The table and its rules describe an effect for each step and stop on none; that the
state has these fields is the model's choice. (95_what_each_step_holds.md, Which steps each requirement bears on;
00_scope.md, Registers) -/
def Obligations.EveryCommandCompletes : Prop :=
  ∀ (c : Instr) (s : State), ∃ t, exec c s = .next t ∧ t.pending = s.pending ∧ t.ticks = s.ticks ∧ (s.Inv → t.Inv)

/-- Every step keeps the invariant of registers, memory and events. For every state with Inv, run or not, whatever
waits in its queue: if step answers a next state, that state has Inv. Inv says of both planes that their register
files and committed copies list offsets in rising order, that the SRAM and LPDDR5X pools are in canonical form, and
that the event store holds at most 256 events (R282). (08_memory_and_windows.md, Bonded SRAM layout;
08_memory_and_windows.md, LPDDR5X; 09_host_interface.md, Events) -/
def Obligations.StepKeepsTheInvariant : Prop :=
  ∀ s t : State, s.Inv → step s = .next t → t.Inv

/-- A step takes one command and adds none. Whatever a step runs, the queue of the next state is the old queue
without its first command: no command puts another in the queue. This queue is the model's own.
(95_what_each_step_holds.md, Which steps each requirement bears on) -/
def Obligations.StepTakesTheFront : Prop :=
  ∀ s t : State, step s = .next t → t.pending = s.pending.tail

/-- Every register word lies at its own offset, and an offset names one word. For every register, index and word
that the tables give, the offset decodes to exactly that register, index and word; and an offset that decodes to a
register, index and word is one that the tables give to it. (00_scope.md, Registers; 01_architecture.md, Identity,
strap, clock and reset registers; 12_test_instrument.md, Test registers) -/
def Obligations.RegisterOffsets : Prop :=
  (∀ (r : Reg) (i w : Nat), r.Has i w → regAt (r.off i w) = some (r, i, w)) ∧
    ∀ (a : Nat) (r : Reg) (i w : Nat), regAt a = some (r, i, w) → r.Has i w ∧ a = r.off i w

/-- An address that no register occupies reads 0 and ignores writes. At every offset of a plane's window that is not
the offset of a word of a register, a read returns 0 and changes nothing, and a write changes nothing and is not
flagged; REGISTER_WRITE to such an address answers the state unchanged. (R8) -/
def Obligations.UnoccupiedAddresses : Prop :=
  (∀ (s : State) (p : Plane) (a : Nat) (v : Word), (∀ r : Reg, ¬ r.Owns a) →
      s.readReg p a = (0, s) ∧ s.writeReg p a v = (false, s)) ∧
    ∀ (s : State) (addr : BitVec 27) (v : Word), (∀ r : Reg, ¬ r.Owns (addr.toNat % 0x4000000)) →
      exec (.registerWrite addr v) s = .next s

/-- The widest aligned set of a port. With ok the lanes of a port that are neither failed, untrained nor undetected,
and w the code of the configured width (up to 16 lanes), the chosen set has 2^c lanes exactly if some aligned group
of that many lanes lies in ok, no aligned group of a larger width does, and no such group of the same width with
lower indices does; the set is that group. (R54) -/
def Obligations.WidestAlignedSet : Prop :=
  ∀ w ok c m : Nat, w ≤ 4 → (widestSet w ok = some (c, m) ↔
    c ≤ w ∧ ∃ g, g < 2 ^ (w - c) ∧ (∀ j, m.testBit j = true ↔ g * 2 ^ c ≤ j ∧ j < (g + 1) * 2 ^ c) ∧
      (∀ j, g * 2 ^ c ≤ j → j < (g + 1) * 2 ^ c → ok.testBit j = true) ∧
      (∀ h, h < g → ∃ j, h * 2 ^ c ≤ j ∧ j < (h + 1) * 2 ^ c ∧ ok.testBit j = false) ∧
      ∀ d h, c < d → d ≤ w → h < 2 ^ (w - d) → ∃ j, h * 2 ^ d ≤ j ∧ j < (h + 1) * 2 ^ d ∧ ok.testBit j = false)

/-- Which bytes PUT stores and that GET stores none. PUT of an operation that passes the checks and names local
memory answers a next state in which every byte of both pools is as before, but for the bytes from the translated
place on, as many as the data has, which hold the data in order. GET answers one in which every byte of both pools
is as before. (08_memory_and_windows.md, Memory operations; 08_memory_and_windows.md, Global windows) -/
def Obligations.MemoryPutAndGetBytes : Prop :=
  (∀ (s : State) (p : Plane) (k : Packet) (x y : Place), s.memOn p = true → k.hdr.op = 0x10 → crcOk k = true →
      s.memCheck p 0x10 k.payload = .ok x y → x.local = true → ∃ t, exec (.put p k []) s = .next t ∧
        (∀ a, (t.pl p).mem.sram.byte a =
          if x.lp = false ∧ x.at_ ≤ a ∧ a < x.at_ + (k.payload.drop 16).length then (k.payload.drop 16).getD (a -
            x.at_) 0
          else (s.pl p).mem.sram.byte a) ∧
        ∀ a, (t.pl p).mem.lp.byte a =
          if x.lp = true ∧ x.at_ ≤ a ∧ a < x.at_ + (k.payload.drop 16).length then (k.payload.drop 16).getD (a -
            x.at_) 0
          else (s.pl p).mem.lp.byte a) ∧
    ∀ (s : State) (p : Plane) (k : Packet) (x y : Place), s.memOn p = true → k.hdr.op = 0x11 → crcOk k = true →
      s.memCheck p 0x11 k.payload = .ok x y → x.local = true → ∃ t, exec (.get p k []) s = .next t ∧
        ∀ a, (t.pl p).mem.sram.byte a = (s.pl p).mem.sram.byte a ∧ (t.pl p).mem.lp.byte a = (s.pl p).mem.lp.byte a

/-- No row of the table has bits. No word spells a command, whatever its width, and putting a word where the next
command is taken changes nothing (the model's reading of a table whose rows give no bits, log entry 2).
(95_what_each_step_holds.md, Which steps each requirement bears on) -/
def Obligations.NoWordSpellsACommand : Prop :=
  ∀ (s : State) (nbits w : Nat), decodeTableWord nbits w = none ∧ s.withFetchWord nbits w = s

/-- Enabling a port and the stages Detect, Train, Lock and Exchange. Each command answers a next state under the
stated conditions, and the next state holds what is named: PORT_ENABLE of a configuration that breaks the rules sets
CFG_REJ; PORT_ENABLE of a good one sets PORT_EN and starts the port at Detect, or at Lock; PORT_DISABLE clears
PORT_EN and takes the stage down; DETECT_SENSE with a wide enough set of present lanes moves Detect to Train;
TRAIN_TIMEOUT with a wide enough aligned set of trained lanes goes on to Lock with that set; without one, Train
fails with reason 0xA and one retry more; LOCK_TIMEOUT fails with reason 0xB and one retry more; EXCHANGE_TIMEOUT
fails with reason 0xC and one retry more. (02_lanes.md, Bring-up stages; 02_lanes.md, Port configuration) -/
def Obligations.EarlyStagesOfBringUp : Prop :=
  -- PORT_ENABLE of a configuration that breaks the rules sets CFG_REJ.
  (∀ (s : State) (p : Plane) (i : Fin 576) (v : Word), s.live p = true → s.portEn p i = false → bit 31 v.toNat =
      true → s.cfgBad p i v = true → ∃ t, exec (.portEnable p i v) s = .next t ∧ t.flag p Fld.LNE_PORT_STAT.CFG_REJ
      i = true) ∧
  -- PORT_ENABLE of a good one sets PORT_EN and starts the port at Detect, or at Lock.
  (∀ (s : State) (p : Plane) (i : Fin 576) (v : Word), s.live p = true → s.isActive = true → s.portEn p i = false →
      bit 31 v.toNat = true → s.cfgBad p i v = false → ∃ t, exec (.portEnable p i v) s = .next t ∧ t.portEn p i =
      true ∧ (t.stage p i = 1 ∨ t.stage p i = 3)) ∧
  -- PORT_DISABLE clears PORT_EN and takes the stage down.
  (∀ (s : State) (p : Plane) (i : Fin 576) (v : Word), s.live p = true → s.portEn p i = true → bit 31 v.toNat =
      false → ∃ t, exec (.portDisable p i v) s = .next t ∧ t.portEn p i = false ∧ t.stage p i = 0) ∧
  -- DETECT_SENSE with a wide enough set of present lanes moves Detect to Train.
  (∀ (s : State) (p : Plane) (i : Fin 576) (mask : BitVec 16), s.live p = true → s.portEn p i = true → s.stage p i =
      1 → bit (i.val / 32) (s.fld p Fld.EPC_GATE_STAT.PG_PWR 0) = true → s.laserOk p i = true → s.usableSet p i
      (Nat.land (Nat.land (s.port p i).sensed mask.toNat) (s.fullMask p i)) ≠ none → ∃ t, exec (.detectSense p i
      mask) s = .next t ∧ t.stage p i = 2) ∧
  -- TRAIN_TIMEOUT with a wide enough aligned set of trained lanes goes on to Lock with that set.
  (∀ (s : State) (p : Plane) (i : Fin 576) (c m : Nat), s.live p = true → s.portEn p i = true → s.stage p i = 2 →
      s.usableSet p i (maskOf 16 (fun k => bit k (s.port p i).det && (s.lane p (i + k)).trained)) = some (c, m) → ∃
      t, exec (.trainTimeout p i) s = .next t ∧ t.stage p i = 3 ∧ (t.port p i).set = m) ∧
  -- Without one, Train fails with reason 0xA and one retry more.
  (∀ (s : State) (p : Plane) (i : Fin 576), s.live p = true → s.portEn p i = true → s.stage p i = 2 → s.usableSet p
      i (maskOf 16 (fun k => bit k (s.port p i).det && (s.lane p (i + k)).trained)) = none → ∃ t, exec
      (.trainTimeout p i) s = .next t ∧ t.fld p Fld.LNE_PORT_STAT.REASON i = (if t.stage p i = 1 ∧ t.laserOk p i =
      false then 0xE else 0xA) ∧ t.fld p Fld.LNE_PORT_STAT.RETRIES i = min 15 (s.fld p Fld.LNE_PORT_STAT.RETRIES i +
      1)) ∧
  -- LOCK_TIMEOUT fails with reason 0xB and one retry more.
  (∀ (s : State) (p : Plane) (i : Fin 576), s.live p = true → s.portEn p i = true → s.stage p i = 3 → ∃ t, exec
      (.lockTimeout p i) s = .next t ∧ t.fld p Fld.LNE_PORT_STAT.REASON i = (if t.stage p i = 1 ∧ t.laserOk p i =
      false then 0xE else 0xB) ∧ t.fld p Fld.LNE_PORT_STAT.RETRIES i = min 15 (s.fld p Fld.LNE_PORT_STAT.RETRIES i +
      1)) ∧
  -- EXCHANGE_TIMEOUT fails with reason 0xC and one retry more.
  (∀ (s : State) (p : Plane) (i : Fin 576), s.live p = true → s.portEn p i = true → s.stage p i = 4 → s.recsIn p i =
      false → ∃ t, exec (.exchangeTimeout p i) s = .next t ∧ t.fld p Fld.LNE_PORT_STAT.REASON i = (if t.stage p i =
      1 ∧ t.laserOk p i = false then 0xE else 0xC) ∧ t.fld p Fld.LNE_PORT_STAT.RETRIES i = min 15 (s.fld p
      Fld.LNE_PORT_STAT.RETRIES i + 1))

/-- What a lane receives during bring-up and in Active. Each command answers a next state under the stated
conditions, and the next state holds what is named: TRAINING_FRAME with a good control field sets SIG_DET; the first
ALIGNMENT_MARKER of a lane gives codeword lock and counts one good marker; MARKER_LOSS in Lock or Exchange fails the
lane and clears its marker lock; SIGNAL_DETECT_LOSS in Train clears SIG_DET and the lane is trained no more;
CODEWORD_PAIR with an uncorrectable codeword counts it and begins or lengthens a run; CODEWORD_PAIR with corrected
symbols counts the codeword and the symbols and ends a run of uncorrectable ones; ENSIGN_BLOCK in Active keeps the
Ensign tail open; ENSIGN_TAIL_END ends it; ADMIT of a Quarantine that reason 7 or 8 does not cause returns the port
to Exchange with its flag set and the neighbour's identity kept. (02_lanes.md, Bring-up stages; 02_lanes.md,
Alignment markers and deskew; 02_lanes.md, Forward error correction) -/
def Obligations.LaneBlocksDuringBringUp : Prop :=
  -- TRAINING_FRAME with a good control field sets SIG_DET.
  (∀ (s : State) (p : Plane) (l : Fin 584) (i : Fin 576) (b : Bytes) (c : Bool), s.live p = true → s.portOf p l =
      some i.val → l.val < 576 → s.stage p i = 2 → bit (l - i) (s.port p i).det = true → bits 7 0 (leNat (slice 0 16
      b)) = 0xA5 → bits 127 112 (leNat (slice 0 16 b)) = crcMsb 16 0x1021 0xFFFF (slice 0 14 b) → ∃ t, exec
      (.trainingFrame p l b c) s = .next t ∧ t.flag p Fld.LNE_LANE_STAT.SIG_DET l = true) ∧
  -- The first ALIGNMENT_MARKER of a lane gives codeword lock and counts one good marker.
  (∀ (s : State) (p : Plane) (l i : Fin 576) (b : Bytes) (at_ : Bool) (k : BitVec 16), s.live p = true → s.portOf p
      l = some i.val → s.stage p i = 3 → bit (l - i) (s.port p i).set = true → s.flag p Fld.LNE_LANE_STAT.AM_LOCK l
      = false → (s.lane p l).amRun = 0 → ∃ t, exec (.alignmentMarker p l b at_ k) s = .next t ∧ t.flag p
      Fld.LNE_LANE_STAT.CW_LOCK l = true ∧ (t.lane p l).amRun = 1) ∧
  -- MARKER_LOSS in Lock or Exchange fails the lane and clears its marker lock.
  (∀ (s : State) (p : Plane) (l i : Fin 576), s.live p = true → s.portOf p l = some i.val → (s.stage p i = 3 ∨
      s.stage p i = 4) → s.flag p Fld.LNE_LANE_STAT.AM_LOCK l = true → s.flag p Fld.LNE_LANE_STAT.LANE_FAIL l =
      false → ∃ t, exec (.markerLoss p l) s = .next t ∧ t.flag p Fld.LNE_LANE_STAT.LANE_FAIL l = true ∧ t.flag p
      Fld.LNE_LANE_STAT.AM_LOCK l = false) ∧
  -- SIGNAL_DETECT_LOSS in Train clears SIG_DET and the lane is trained no more.
  (∀ (s : State) (p : Plane) (l i : Fin 576), s.live p = true → s.portOf p l = some i.val → s.stage p i = 2 → ∃ t,
      exec (.signalDetectLoss p l) s = .next t ∧ t.flag p Fld.LNE_LANE_STAT.SIG_DET l = false ∧ (t.lane p l).trained
      = false) ∧
  -- CODEWORD_PAIR with an uncorrectable codeword counts it and begins or lengthens a run.
  (∀ (s : State) (p : Plane) (l i : Fin 576), s.live p = true → s.portOf p l = some i.val → bit (l - i) (s.port p
      i).set = true → s.stage p i = 5 → (s.lane p l).uncorr + 1 < max 1 (s.fld p Fld.LNE_GLB_CFG.UNCORR_FAIL 0) → ∃
      t, exec (.codewordPair p l (.outcome none (some 0))) s = .next t ∧ t.staged p Fld.LNE_FEC_UNCORR.N l = satInc
      32 (s.staged p Fld.LNE_FEC_UNCORR.N l) ∧ (t.lane p l).uncorr = (s.lane p l).uncorr + 1 ∧ (t.link p i).rx =
      (s.link p i).rx.map (fun r => { r with bad := true })) ∧
  -- CODEWORD_PAIR with corrected symbols counts the codeword and the symbols and ends a run of uncorrectable ones.
  (∀ (s : State) (p : Plane) (l i : Fin 576) (k : Fin 16), s.live p = true → s.portOf p l = some i.val → k.val ≠ 0 →
      ∃ t, exec (.codewordPair p l (.outcome (some k) (some 0))) s = .next t ∧ t.staged p Fld.LNE_FEC_CORR.N l =
      satInc 32 (s.staged p Fld.LNE_FEC_CORR.N l) ∧ t.staged p Fld.LNE_FEC_SYMERR.N l = satAdd 32 (s.staged p
      Fld.LNE_FEC_SYMERR.N l) k ∧ (t.lane p l).uncorr = 0) ∧
  -- ENSIGN_BLOCK in Active keeps the Ensign tail open.
  (∀ (s : State) (p : Plane) (l i : Fin 576) (b : Bytes), s.live p = true → s.portOf p l = some i.val → s.stage p i
      = 5 → bit (l - i) (s.port p i).set = true → ∃ t, exec (.ensignBlock p l b) s = .next t ∧ (t.port p i).tail =
      true) ∧
  -- ENSIGN_TAIL_END ends it.
  (∀ (s : State) (p : Plane) (i : Fin 576), s.live p = true → s.portActive p i = true → ∃ t, exec (.ensignTailEnd p
      i) s = .next t ∧ (t.port p i).tail = false) ∧
  -- ADMIT of a Quarantine that reason 7 or 8 does not cause returns the port to Exchange with its flag set and the neighbour's identity kept.
  (∀ (s : State) (p : Plane) (i : Fin 576) (r : Bytes), s.live p = true → s.portEn p i = true → s.stage p i = 6 →
      s.fld p Fld.LNE_PORT_STAT.REASON i ≠ 7 → s.fld p Fld.LNE_PORT_STAT.REASON i ≠ 8 → s.farRec p i = some r →
      (s.port p i).farFlag = false → ∃ t, exec (.portAdmit p i) s = .next t ∧ t.stage p i = 4 ∧ (t.port p i).flag =
      true ∧ (t.port p i).ident = some (slice 16 16 r, recField r 36 2))

/-- Port control writes, the plan check and what a port sends in bring-up. Each command answers a next state under
the stated conditions, and the next state holds what is named: RETRAIN restarts the port at Detect or Lock with
reason and retries 0; RESTORE of failed lanes of an Active port starts the restore; RESTORE_AUTO_TICK does the same
for the one port it finds; WIRE_CTL_WRITE outside Quarantine stores VALID and forgets the checked identity;
NEIGHBOUR_MISSING raises event 0x0106 once for the port; TRAINING_FRAME_SEND sends the lane's training frame;
ALIGNMENT_MARKER_SEND sends one marker on every lane of the set, with the count after the last; ENSIGN_SEND sends
the next quarter of the port's record. (02_lanes.md, Bring-up stages; 02_lanes.md, Half-mast; 02_lanes.md, Alignment
markers and deskew) -/
def Obligations.PortControlAndSends : Prop :=
  -- RETRAIN restarts the port at Detect or Lock with reason and retries 0.
  (∀ (s : State) (p : Plane) (i : Fin 576), s.live p = true → s.portEn p i = true → s.isActive = true → s.unitOk p i
      = true → ∃ t, exec (.retrain p i) s = .next t ∧ (t.stage p i = 1 ∨ t.stage p i = 3) ∧ t.fld p
      Fld.LNE_PORT_STAT.REASON i = (if t.stage p i = 1 ∧ t.laserOk p i = false then 0xE else 0) ∧ t.fld p
      Fld.LNE_PORT_STAT.RETRIES i = 0) ∧
  -- RESTORE of failed lanes of an Active port starts the restore.
  (∀ (s : State) (p : Plane) (i : Fin 576), s.live p = true → s.portEn p i = true → s.stage p i = 5 → s.idleMask p i
      ≠ 0 → (s.port p i).restoring = false → ∃ t, exec (.restore p i) s = .next t ∧ (t.port p i).restoring = true ∧
      t.flag p Fld.LNE_PORT_CTL.RESTORE i = true) ∧
  -- RESTORE_AUTO_TICK does the same for the one port it finds.
  (∀ (s : State) (p : Plane) (i : Fin 576), s.live p = true → s.hostRecovery p = false → s.activePorts p = [i.val] →
      s.flag p Fld.LNE_PORT_CFG.RESTORE_AUTO i = true → s.stage p i = 5 → s.idleMask p i ≠ 0 → (s.port p
      i).restoring = false → ∃ t, exec (.restoreAutoTick p) s = .next t ∧ (t.port p i).restoring = true ∧ t.flag p
      Fld.LNE_PORT_CTL.RESTORE i = true) ∧
  -- WIRE_CTL_WRITE outside Quarantine stores VALID and forgets the checked identity.
  (∀ (s : State) (p : Plane) (i : Fin 576) (v : Word), s.live p = true → s.stage p i ≠ 6 → ∃ t, exec (.wireCtlWrite
      p i v) s = .next t ∧ t.flag p Fld.LNE_WIRE_CTL.VALID i = bit 31 v.toNat ∧ (t.port p i).ident = none) ∧
  -- NEIGHBOUR_MISSING raises event 0x0106 once for the port.
  (∀ (s : State) (p : Plane) (i : Fin 576), s.live p = true → s.portEn p i = true → s.stage p i = 1 → s.flag p
      Fld.LNE_WIRE_CTL.VALID i = true → (s.port p i).told = false → s.evtMasked p 0x0106 = false → s.ringOn p 2 =
      false → (s.pl p).hif.events.length < 256 → ∃ t, exec (.neighbourMissing p i) s = .next t ∧ (t.port p i).told =
      true ∧ (t.pl p).hif.events = (s.pl p).hif.events ++ [⟨0x0106, 0, s.now p, wn (portId p i), []⟩]) ∧
  -- TRAINING_FRAME_SEND sends the lane's training frame.
  (∀ (s : State) (p : Plane) (l : Fin 584) (i : Fin 576), s.live p = true → s.portOf p l = some i.val → l.val < 576
      → s.trains p i l = true → ∃ t, exec (.trainingFrameSend p l) s = .next t ∧ t.out = .trainFrame p l (trainBytes
      (576 * p.num + l) (s.lane p l).frames (s.lane p l)) :: s.out) ∧
  -- ALIGNMENT_MARKER_SEND sends one marker on every lane of the set, with the count after the last.
  (∀ (s : State) (p : Plane) (i : Fin 576), s.live p = true → s.portEn p i = true → 3 ≤ s.stage p i → s.stage p i ≤
      6 → (s.port p i).lpi ≠ .asleep → ∃ t, exec (.alignmentMarkerSend p i) s = .next t ∧ (t.port p i).amTx =
      (s.port p i).amTx + 1 ∧ ∀ l ∈ lanesIn i (s.port p i).txSet, Out.marker p l (amBytes (576 * p.num + l) (l - i)
      (s.widthCode p i) (s.port p i).amTx) ∈ t.out) ∧
  -- ENSIGN_SEND sends the next quarter of the port's record.
  (∀ (s : State) (p : Plane) (l i : Fin 576), s.live p = true → s.portOf p l = some i.val → bit (l - i) (s.port p
      i).set = true → s.stage p i = 4 → ∃ t, exec (.ensignSend p l) s = .next t ∧ (t.lane p l).fragTx = ((s.lane p
      l).fragTx + 1) % 4 ∧ t.out = .ensign p l ([BitVec.ofNat 8 (128 * b2n (s.port p i).flag + (s.lane p l).fragTx)]
      ++ slice (16 * (s.lane p l).fragTx) 16 (s.ownRecord p i l) ++ List.replicate 14 0) :: s.out)

/-- Width changes, the run limit and low-power idle. Each command answers a next state under the stated conditions,
and the next state holds what is named: WIDTH_BLOCK that names the mask proposed here is agreement; WIDTH_SEND sends
the proposed mask under the next sequence number; RUN_LIMIT sends a STUFF block; LPI_IDLE_EXPIRY sends the request;
an LPI_BLOCK with the answer puts the port to sleep; LPI_WAKE starts the waking of a sleeping port; WAKE_TIMEOUT
takes a port that does not wake back to Train with reason 0, or 0xE without laser light; LPI_MAX_WAKE wakes it and
holds off the next entry; LPI_REENTRY_ALLOWED ends that. (02_lanes.md, Half-mast; 02_lanes.md, Idle and low-power
idle; 02_lanes.md, Run limit) -/
def Obligations.WidthAndLowPowerIdle : Prop :=
  -- WIDTH_BLOCK that names the mask proposed here is agreement.
  (∀ (s : State) (p : Plane) (i : Fin 576) (mask : BitVec 16) (sw : Bool) (seq : Byte), s.live p = true →
      s.portActive p i = true → (s.port p i).changing = true → (s.port p i).swTx = false → Nat.land mask.toNat
      (s.fullMask p i) = (s.port p i).mask → Nat.land (s.port p i).mask (s.port p i).fail = (s.port p i).mask → ∃ t,
      exec (.widthBlock p i mask sw seq) s = .next t ∧ (t.port p i).agreed = true ∧ (t.port p i).swRx = ((s.port p
      i).swRx || sw)) ∧
  -- WIDTH_SEND sends the proposed mask under the next sequence number.
  (∀ (s : State) (p : Plane) (i : Fin 576), s.live p = true → s.portActive p i = true → (s.port p i).changing = true
      → (s.port p i).swRx = false → ∃ t, exec (.widthSend p i) s = .next t ∧ (t.port p i).wseq = (s.port p i).wseq +
      1 ∧ t.out = .block p i 0xD2 (slice 0 31 (leBytes 2 (s.port p i).mask ++ leBytes 1 (b2n ((s.port p i).agreed &&
      !(s.port p i).swTx)) ++ [(s.port p i).wseq])) :: s.out) ∧
  -- RUN_LIMIT sends a STUFF block.
  (∀ (s : State) (p : Plane) (l i : Fin 576), s.live p = true → s.portOf p l = some i.val → 3 ≤ s.stage p i →
      s.stage p i ≤ 6 → ∃ t, exec (.runLimit p l) s = .next t ∧ t.out = .block p i 0x2D (List.replicate 31 0x33) ::
      s.out) ∧
  -- LPI_IDLE_EXPIRY sends the request.
  (∀ (s : State) (p : Plane) (i : Fin 576), s.live p = true → s.portActive p i = true → s.lpiOn p i = true →
      s.txQuiet p i = true → s.rxQuiet p i = true → (s.port p i).lpi = .awake → (s.port p i).lpiReady = true → ∃ t,
      exec (.lpiIdleExpiry p i) s = .next t ∧ (t.port p i).lpi = .asked ∧ t.out = .block p i 0x96 (slice 0 31 [1])
      :: s.out) ∧
  -- An LPI_BLOCK with the answer puts the port to sleep.
  (∀ (s : State) (p : Plane) (i : Fin 576), s.live p = true → s.portActive p i = true → (s.port p i).lpi = .asked →
      ∃ t, exec (.lpiBlock p i 2) s = .next t ∧ (t.port p i).lpi = .asleep) ∧
  -- LPI_WAKE starts the waking of a sleeping port.
  (∀ (s : State) (p : Plane) (i : Fin 576) (far : Bool), s.live p = true → s.portActive p i = true → (s.port p
      i).lpi = .asleep → ∃ t, exec (.lpiWake p i far) s = .next t ∧ (t.port p i).lpi = .waking) ∧
  -- WAKE_TIMEOUT takes a port that does not wake back to Train with reason 0, or 0xE without laser light.
  (∀ (s : State) (p : Plane) (i : Fin 576), s.live p = true → s.portActive p i = true → (s.port p i).lpi = .waking →
      s.hostRecovery p = false → ∃ t, exec (.wakeTimeout p i) s = .next t ∧ t.stage p i = 2 ∧ (t.fld p
      Fld.LNE_PORT_STAT.REASON i = 0 ∨ t.fld p Fld.LNE_PORT_STAT.REASON i = 0xE)) ∧
  -- LPI_MAX_WAKE wakes it and holds off the next entry.
  (∀ (s : State) (p : Plane) (i : Fin 576), s.live p = true → s.portActive p i = true → (s.port p i).lpi = .asleep →
      ∃ t, exec (.lpiMaxWake p i) s = .next t ∧ (t.port p i).lpi = .waking ∧ (t.port p i).lpiReady = false) ∧
  -- LPI_REENTRY_ALLOWED ends that.
  (∀ (s : State) (p : Plane) (i : Fin 576), s.live p = true → s.portActive p i = true → ∃ t, exec
      (.lpiReentryAllowed p i) s = .next t ∧ (t.port p i).lpiReady = true)

/-- Squelch, PRBS, eye monitor and lasers. Each command answers a next state under the stated conditions, and the
next state holds what is named: TX_SQUELCH sets the lane's squelch; PRBS_CLR zeroes both words of the error count;
PRBS_LOCK_LOSS clears PRBS_LOCK; EYE_SCAN_START sets START, stores the eye and clears DONE; EYE_SCAN_DONE clears
START, sets DONE and stores height and width; LASER_READY of a chiplet whose module is enabled makes its lasers
ready; LASER_INPUT_FAIL whose eight lanes have failed already is kept for them and takes one free value.
(02_lanes.md, Loopback, PRBS and eye monitor; 02_lanes.md, Optical variant) -/
def Obligations.LaneInstruments : Prop :=
  -- TX_SQUELCH sets the lane's squelch.
  (∀ (s : State) (p : Plane) (l : Fin 576), s.live p = true → ∃ t, exec (.txSquelch p l) s = .next t ∧ t.flag p
      Fld.LNE_LANE_CFG.TX_SQUELCH l = true) ∧
  -- PRBS_CLR zeroes both words of the error count.
  (∀ (s : State) (p : Plane) (l : Fin 576), s.live p = true → ∃ t, exec (.prbsClr p l) s = .next t ∧ t.word p
      .LNE_PRBS_ERR l 0 = 0 ∧ t.word p .LNE_PRBS_ERR l 1 = 0) ∧
  -- PRBS_LOCK_LOSS clears PRBS_LOCK.
  (∀ (s : State) (p : Plane) (l : Fin 576), s.live p = true → ∃ t, exec (.prbsLockLoss p l) s = .next t ∧ t.flag p
      Fld.LNE_LANE_STAT.PRBS_LOCK l = false) ∧
  -- EYE_SCAN_START sets START, stores the eye and clears DONE.
  (∀ (s : State) (p : Plane) (l : Fin 576) (e : BitVec 2), s.live p = true → ∃ t, exec (.eyeScanStart p l e) s =
      .next t ∧ t.flag p Fld.LNE_EYE_CTL.START l = true ∧ t.fld p Fld.LNE_EYE_CTL.EYE l = e.toNat ∧ t.flag p
      Fld.LNE_EYE_STAT.DONE l = false) ∧
  -- EYE_SCAN_DONE clears START, sets DONE and stores height and width.
  (∀ (s : State) (p : Plane) (l : Fin 576) (h w : Byte), s.live p = true → s.flag p Fld.LNE_EYE_CTL.START l = true →
      ∃ t, exec (.eyeScanDone p l h w) s = .next t ∧ t.flag p Fld.LNE_EYE_CTL.START l = false ∧ t.flag p
      Fld.LNE_EYE_STAT.DONE l = true ∧ t.fld p Fld.LNE_EYE_STAT.HEIGHT l = h.toNat % 2 ^ 7 ∧ t.fld p
      Fld.LNE_EYE_STAT.WIDTH l = w.toNat) ∧
  -- LASER_READY of a chiplet whose module is enabled makes its lasers ready.
  (∀ (s : State) (p : Plane) (c : Fin 9), s.live p = true → s.pkg.optical = true → mget false c.val (s.pl
      p).lne.enabled = true → ∃ t, exec (.laserReady p c) s = .next t ∧ mget false c (t.pl p).lne.lasers = true) ∧
  -- LASER_INPUT_FAIL whose eight lanes have failed already is kept for them and takes one free value.
  (∀ (s : State) (p : Plane) (c : Fin 9) (k : Fin 8), s.live p = true → s.pkg.optical = true → (∀ j, j < 8 → ∃ i,
      s.portOf p (64 * c.val + 8 * k.val + j) = some i ∧ s.flag p Fld.LNE_LANE_STAT.LANE_FAIL (64 * c.val + 8 *
      k.val + j) = true) → ∃ t, exec (.laserInputFail p c k) s = .next t ∧ mget false (8 * c.val + k.val) (t.pl
      p).lne.inputs = true ∧ t.free = s.free + 1)

/-- Packet starts and credit counters of a port. Each command answers a next state under the stated conditions, and
the next state holds what is named: SOP_BLOCK of a packet with credit opens the packet and counts its units as
received on its VC; SOP_BLOCK with ABORT ends the packet in progress; CREDIT_BLOCK stores the limit of every VC;
CREDIT_SEND sends the nine limits; SENT_SEND sends the nine sent counts; SENT_BLOCK sets the received count of every
VC to the one it names; PCHK_LINK_SILENCE with its check enabled counts the silence. (03_fabric_protocol.md,
Hop-by-hop credits; 03_fabric_protocol.md, The packet on the wire; 12_test_instrument.md, Protocol checker) -/
def Obligations.CreditBlocks : Prop :=
  -- SOP_BLOCK of a packet with credit opens the packet and counts its units as received on its VC.
  (∀ (s : State) (p : Plane) (i : Fin 576) (b : SopBlock) (got : BitVec 16), s.live p = true → s.counting p i = true
      → b.rsv = false → b.abort = false → b.wh = false → (s.link p i).rx = none → b.vc.toNat ≤ 8 → b.units.toNat ≤
      (s.cred p i b.vc.toNat).rxAvail → ∃ t, exec (.sopBlock p i b got) s = .next t ∧ (t.link p i).rx = some
      { vc := b.vc, units := b.units.toNat, wh := false, viol := false, at_ := s.ticks, time := s.now p } ∧ (t.cred
      p i b.vc.toNat).recv = (s.cred p i b.vc.toNat).recv + BitVec.ofNat 16 b.units.toNat) ∧
  -- SOP_BLOCK with ABORT ends the packet in progress.
  (∀ (s : State) (p : Plane) (i : Fin 576) (b : SopBlock) (got : BitVec 16), s.live p = true → s.counting p i = true
      → b.abort = true → (∀ r, (s.link p i).rx = some r → r.pid = none) → ∃ t, exec (.sopBlock p i b got) s = .next
      t ∧ (t.link p i).rx = none) ∧
  -- CREDIT_BLOCK stores the limit of every VC.
  (∀ (s : State) (p : Plane) (i : Fin 576) (n : List (BitVec 16)) (r : Bool), s.live p = true → s.counting p i =
      true → ∃ t, exec (.creditBlock p i n r) s = .next t ∧ ∀ v, v < 9 → (t.cred p i v).limRx = n.getD v 0) ∧
  -- CREDIT_SEND sends the nine limits.
  (∀ (s : State) (p : Plane) (i : Fin 577), s.live p = true → i.val < 576 → s.canSend p i = true → ∃ t, exec
      (.creditSend p i) s = .next t ∧ t.out = .block p i 0x78 (slice 0 31 ([1] ++ (List.range 9).flatMap (fun v =>
      leBytes 2 (s.cred p i v).limit.toNat))) :: s.out) ∧
  -- SENT_SEND sends the nine sent counts.
  (∀ (s : State) (p : Plane) (i : Fin 576), s.live p = true → s.canSend p i = true → ∃ t, exec (.sentSend p i) s =
      .next t ∧ t.out = .block p i 0x78 (slice 0 31 ([2] ++ (List.range 9).flatMap (fun v => leBytes 2 (s.cred p i
      v).sent.toNat))) :: s.out) ∧
  -- SENT_BLOCK sets the received count of every VC to the one it names.
  (∀ (s : State) (p : Plane) (i : Fin 576) (n : List (BitVec 16)) (r : Bool), s.live p = true → s.counting p i =
      true → s.fld p Fld.EPC_ERR_CFG.ESC_U 0 = 0 → ∃ t, exec (.sentBlock p i n r) s = .next t ∧ ∀ v, v < 9 → (t.cred
      p i v).recv = n.getD v 0) ∧
  -- PCHK_LINK_SILENCE with its check enabled counts the silence.
  (∀ (s : State) (p : Plane) (i : Fin 576) (sent : Bool), s.live p = true → s.portActive p i = true → bit (if sent
      then 8 else 7) (s.fld p Fld.TST_PCHK_EN.EN 0) = true → ∃ t, exec (.pchkLinkSilence p i sent) s = .next t ∧
      t.staged p Fld.TST_PCHK_CNT.N (if sent then 8 else 7) = satInc 32 (s.staged p Fld.TST_PCHK_CNT.N (if sent then
      8 else 7)))

/-- A packet at the ingress of a plane, and hold-down. Each command answers a next state under the stated
conditions, and the next state holds what is named: PACKET_INGRESS at a port in Quarantine or below counts in
LNE_QDISC_CNT; a packet that a header check refuses counts in the counter of that check; a unicast packet that is
admitted is put in the buffer unchanged with its code, queue VC and account; HOLD_DOWN_END ends a hold-down and
clears HOLD; HD_CLR does the same. (03_fabric_protocol.md, Checks, corruption and loss; 05_switch_core.md, Buffer
partition and admission; 05_switch_core.md, Port down, flush and hold-down) -/
def Obligations.PacketIngressAndHoldDown : Prop :=
  -- PACKET_INGRESS at a port in Quarantine or below counts in LNE_QDISC_CNT.
  (∀ (s : State) (p : Plane) (i : Fin 576) (k : Packet) (bad : Bool) (got : Nat), s.live p = true → s.portEn p i =
      true → s.counting p i = false → s.fld p Fld.EPC_ERR_CFG.ESC_U 0 = 0 → ∃ t, exec (.packetIngress p i k bad 0
      got false) s = .next t ∧ t.staged p Fld.LNE_QDISC_CNT.N 0 = satInc 32 (s.staged p Fld.LNE_QDISC_CNT.N 0)) ∧
  -- A packet that a header check refuses counts in the counter of that check.
  (∀ (s : State) (p : Plane) (i : Fin 576) (k : Packet) (got : Nat) (r : RxProg) (d : Disc), s.live p = true →
      s.counting p i = true → (s.link p i).rx = some r → r.wh = false → r.pid = none → s.stage p i = 5 →
      s.headerCheck p (some i.val) k = some d → s.fld p Fld.EPC_ERR_CFG.ESC_U 0 = 0 → ∃ t, exec (.packetIngress p i
      k false 0 got false) s = .next t ∧ t.staged p d.fld 0 = satInc 32 (s.staged p d.fld 0)) ∧
  -- A unicast packet that is admitted is put in the buffer unchanged with its code, queue VC and account.
  (∀ (s : State) (p : Plane) (i : Fin 576) (k : Packet) (got : Nat) (r : RxProg) (code q : Nat) (esc : Option Nat)
      (a : Acct), s.live p = true → s.counting p i = true → (s.link p i).rx = some r → r.wh = false ∧ r.pid = none ∧
      r.bad = false → r.viol = false → s.stage p i = 5 → s.golden p i = false → s.headerCheck p (some i.val) k =
      none → crcOk k = true → s.fld p Fld.EPC_ERR_CFG.ESC_U 0 = 0 → s.fld p Fld.TST_PCHK_EN.EN 0 = 0 → (∀ n, n < 32
      → s.flag p Fld.TST_MATCH.VALID n = false) → s.coreUp p = true → s.routeOf p i r.vc.toNat k = .one code q esc
      false → sumUnits ((s.bufPkts p).filter (fun x => !x.left)) + r.units ≤ 4194304 → s.account p false code q
      r.units = some a → ∃ t, exec (.packetIngress p i k false 0 got false) s = .next t ∧ ∃ b, t.pkt? p (s.pl
      p).swc.nextPid = some b ∧ b.pkt = k ∧ b.codes = [code] ∧ b.qvc = q ∧ b.acct = a) ∧
  -- HOLD_DOWN_END ends a hold-down and clears HOLD.
  (∀ (s : State) (p : Plane) (c : Code), s.live p = true → s.inHold p c.toNat = true → c.toNat ≤ 576 → ∃ t, exec
      (.holdDownEnd p c) s = .next t ∧ t.inHold p c.toNat = false ∧ t.flag p Fld.SWC_PORT_STAT.HOLD c.toNat = false) ∧
  -- HD_CLR does the same.
  (∀ (s : State) (p : Plane) (c : Code), s.live p = true → s.inHold p c.toNat = true → c.toNat ≤ 576 → ∃ t, exec
      (.hdClr p c) s = .next t ∧ t.inHold p c.toNat = false ∧ t.flag p Fld.SWC_PORT_STAT.HOLD c.toNat = false)

/-- Transmission, wormhole mode, ageing, cells and the escape VC. Each command answers a next state under the stated
conditions, and the next state holds what is named: PACKET_TRANSMIT sends the packet at the head of the stage, as
the injections left it; WH_FALLBACK starts the packet in wormhole mode with the credit there is and shows WH_TX;
WH_TRUNCATE ends it and counts in LFP_WH_TRUNC; CELL_TIME discards a packet that is too old at the head of its queue
and counts it; CELL_ARRIVAL of a bad cell counts in SWC_RESEQ_LOSS and SWC_SPINE_ERR before ESC_U is checked;
RESEQ_LOSS counts the packet given up before ESC_U is checked; ESCAPE_MOVE gives the packet its escape code on VC 8
and counts the move. (05_switch_core.md, Egress; 05_switch_core.md, Cells and the resequencer; 05_switch_core.md,
Matching; 03_fabric_protocol.md, Hop-by-hop credits; 04_routing.md, Escape VC) -/
def Obligations.SwitchCoreMoves : Prop :=
  -- PACKET_TRANSMIT sends the packet at the head of the stage, as the injections left it.
  (∀ (s : State) (p : Plane) (c : Code) (e : StageEnt) (b : BufPkt), s.runs p = true → c.toNat < 576 → s.portActive
      p c.toNat = true → s.canSend p c.toNat = true → s.golden p c.toNat = false → (s.port p c.toNat).mgmtTx = [] →
      (s.pl p).rte.markDue = [] → s.tx? p c.toNat = none → (∀ v, v < 9 → ∀ x, (s.stg p c.toNat v).head? = some x →
      x.head = true ∧ ∃ b, s.pkt? p x.pid = some b ∧ ¬ (s.flowMode p c.toNat = 0 ∧ s.oversize p c.toNat v b.units =
      true)) → s.mayStart p c.toNat 8 = some (e, b) → s.headCredit p c.toNat 8 b = true → s.headWh p c.toNat 8 b =
      false → b.units ≤ e.have_ → e.cap = 0 → (∀ v, v < 9 → s.side p c.toNat v = none) → ∃ t, exec (.packetTransmit
      p c) s = .next t ∧ .packet p c.toNat false (injected e.inj e.pkt) ∈ t.out) ∧
  -- WH_FALLBACK starts the packet in wormhole mode with the credit there is and shows WH_TX.
  (∀ (s : State) (p : Plane) (i : Fin 576) (v : Fin 9) (e : StageEnt) (l : List StageEnt) (b : BufPkt), s.runs p =
      true → s.codeSends p i = true → s.tx? p i = none → (∀ v, v < 9 → ∀ x, (s.stg p i v).head? = some x → x.head =
      true ∧ ∃ b, s.pkt? p x.pid = some b ∧ ¬ (s.flowMode p i = 0 ∧ s.oversize p i v b.units = true)) → s.stg p i v
      = e :: l → s.pkt? p e.pid = some b → s.flowMode p i = 2 → e.head = true → e.until_ = none → e.sop = true ∧ 1 ≤
      e.have_ → s.narrower p b.src i = true → b.units ≤ e.have_ → b.bad = false → s.headCredit p i v b = false →
      (s.cred p i v).avail < unitsOf (injected e.inj e.pkt) → e.cap = 0 → s.side p i v = none → ∃ t, exec
      (.whFallback p i v) s = .next t ∧ t.tx? p i = some ⟨e.pid, v, true, min e.have_ (s.cred p i v).avail, injected
      e.inj e.pkt⟩ ∧ t.flag p Fld.LFP_PORT_STAT.WH_TX i = true) ∧
  -- WH_TRUNCATE ends it and counts in LFP_WH_TRUNC.
  (∀ (s : State) (p : Plane) (i : Fin 576) (x : TxProg), s.runs p = true → s.portActive p i = true → s.tx? p i =
      some x → x.wh = true → ∃ t, exec (.whTruncate p i) s = .next t ∧ t.tx? p i = none ∧ t.staged p
      Fld.LFP_WH_TRUNC.N 0 = satInc 32 (s.staged p Fld.LFP_WH_TRUNC.N 0)) ∧
  -- CELL_TIME discards a packet that is too old at the head of its queue and counts it.
  (∀ (s : State) (p : Plane) (key : Nat) (e : VoqEnt) (b : BufPkt), s.runs p = true → (s.pl p).swc.kept = [] → (s.pl
      p).swc.voqs = [(key, [e])] → e.head = none → s.pkt? p e.pid = some b → b.mc = false → s.aged p b.arr = true →
      voqTarget key < 1000 → ∃ t, exec (.cellTime p) s = .next t ∧ t.staged p Fld.LFP_AGE_DISC.N 0 = satInc 32
      (s.staged p Fld.LFP_AGE_DISC.N 0)) ∧
  -- CELL_ARRIVAL of a bad cell counts in SWC_RESEQ_LOSS and SWC_SPINE_ERR before ESC_U is checked.
  (∀ (s : State) (p : Plane) (i e : Fin 46) (q : BitVec 12) (c : Cell), s.runs p = true → s.flying p i.val e.val q =
      some c → ∃ t, exec (.cellArrival p i e q true) s = .next t ∧ ∃ u : State, t = u.escCheck p ∧ u.staged p
      Fld.SWC_RESEQ_LOSS.N 0 = satInc 32 (s.staged p Fld.SWC_RESEQ_LOSS.N 0) ∧ u.staged p Fld.SWC_SPINE_ERR.N 0 =
      satInc 32 (s.staged p Fld.SWC_SPINE_ERR.N 0)) ∧
  -- RESEQ_LOSS counts the packet given up before ESC_U is checked.
  (∀ (s : State) (p : Plane) (i e : Fin 46) (c : Cell), s.runs p = true → mget [] (64 * i.val + e.val) (s.pl
      p).swc.reseq ≠ [] → s.flying p i.val e.val (mget 0 (64 * i.val + e.val) (s.pl p).swc.pseqRx) = some c → ∃ t,
      exec (.reseqLoss p i e) s = .next t ∧ ∃ u : State, t = u.escCheck p ∧ u.staged p Fld.SWC_RESEQ_LOSS.N 0 =
      satInc 32 (s.staged p Fld.SWC_RESEQ_LOSS.N 0)) ∧
  -- ESCAPE_MOVE gives the packet its escape code on VC 8 and counts the move.
  (∀ (s : State) (p : Plane) (m : Fin 46) (c : Code) (v : Fin 9) (e : VoqEnt) (l : List VoqEnt) (b : BufPkt) (d :
      Nat), s.runs p = true → s.voq p (voqKey m.val c.toNat v.val) = e :: l → s.pkt? p e.pid = some b → b.esc = some
      d → v.val < 8 → e.gone = 0 → s.flag p Fld.RTE_GLB_CFG.ESC_EN 0 = true → s.usable p b.src d = true → s.escOk p
      b.src d = true → ∃ t, exec (.escapeMove p m c v) s = .next t ∧ t.pkt? p e.pid = some
      { b with codes := [d], qcode := d, qvc := 8, esc := none } ∧ t.staged p Fld.RTE_ESC_MOVE.N 0 = satInc 32
      (s.staged p Fld.RTE_ESC_MOVE.N 0))

/-- Route drains, congestion maps and mirror records. Each command answers a next state under the stated conditions,
and the next state holds what is named: DRAIN_START sets BUSY, clears DONE and ABT, stores the ID and marks every
packet held as old; DRAIN_ABORT of a running drain clears BUSY and sets ABT; DRAIN_MARKER stores the ID at its
ingress port with VALID; ROUTE_DRAINED with nothing old and nothing awaited clears BUSY and sets DONE; CMAP_SAMPLE
raises the peak of Halyard's bin to its queue depth at least; CMAP_INTERVAL numbers the map and empties the bins;
MIRROR_RECORD takes the oldest record out of the staging store into the capture ring. (04_routing.md, Changing
routes on a live fabric; 04_routing.md, Congestion maps; 05_switch_core.md, Mirroring) -/
def Obligations.DrainsMapsAndMirror : Prop :=
  -- DRAIN_START sets BUSY, clears DONE and ABT, stores the ID and marks every packet held as old.
  (∀ (s : State) (p : Plane) (id : BitVec 16), s.live p = true → s.flag p Fld.RTE_DRAIN_STAT.BUSY 0 = false → ∃ t,
      exec (.drainStart p id) s = .next t ∧ t.flag p Fld.RTE_DRAIN_STAT.BUSY 0 = true ∧ t.flag p
      Fld.RTE_DRAIN_STAT.DONE 0 = false ∧ t.flag p Fld.RTE_DRAIN_STAT.ABT 0 = false ∧ t.fld p Fld.RTE_DRAIN_STAT.ID
      0 = id.toNat ∧ ∀ b ∈ t.bufPkts p, b.old = true) ∧
  -- DRAIN_ABORT of a running drain clears BUSY and sets ABT.
  (∀ (s : State) (p : Plane), s.live p = true → s.flag p Fld.RTE_DRAIN_STAT.BUSY 0 = true → ∃ t, exec (.drainAbort
      p) s = .next t ∧ t.flag p Fld.RTE_DRAIN_STAT.BUSY 0 = false ∧ t.flag p Fld.RTE_DRAIN_STAT.ABT 0 = true) ∧
  -- DRAIN_MARKER stores the ID at its ingress port with VALID.
  (∀ (s : State) (p : Plane) (i : Fin 576) (id : BitVec 16), s.live p = true → ∃ t, exec (.drainMarker p i id) s =
      .next t ∧ t.flag p Fld.RTE_MARK_RX.VALID i = true ∧ t.fld p Fld.RTE_MARK_RX.ID i = id.toNat) ∧
  -- ROUTE_DRAINED with nothing old and nothing awaited clears BUSY and sets DONE.
  (∀ (s : State) (p : Plane), s.live p = true → s.flag p Fld.RTE_DRAIN_STAT.BUSY 0 = true → (s.pl p).rte.waiting =
      [] → s.oldCount p = 0 → ∃ t, exec (.routeDrained p) s = .next t ∧ t.flag p Fld.RTE_DRAIN_STAT.BUSY 0 = false ∧
      t.flag p Fld.RTE_DRAIN_STAT.DONE 0 = true) ∧
  -- CMAP_SAMPLE raises the peak of Halyard's bin to its queue depth at least.
  (∀ (s : State) (p : Plane), s.live p = true → ∃ t, exec (.cmapSample p) s = .next t ∧ ((List.range 9).map
      (s.qdepth p 576)).sum ≤ (mget {} 576 (t.pl p).rte.bins).peak) ∧
  -- CMAP_INTERVAL numbers the map and empties the bins.
  (∀ (s : State) (p : Plane), s.live p = true → ∃ t, exec (.cmapInterval p) s = .next t ∧ t.word p .RTE_CMAP_SEQ 0 0
      = s.word p .RTE_CMAP_SEQ 0 0 + 1 ∧ (t.pl p).rte.bins = []) ∧
  -- MIRROR_RECORD takes the oldest record out of the staging store into the capture ring.
  (∀ (s : State) (p : Plane) (ty : Nat) (tm : BitVec 64) (b : Bytes) (l : List (Nat × BitVec 64 × Bytes)), s.live p
      = true → (s.pl p).swc.mirror = (ty, tm, b) :: l → s.ringRoom p 3 = true → ∃ t, exec (.mirrorRecord p) s =
      .next t ∧ (t.pl p).swc.mirror = l ∧ t.word p .HIF_RING_IDX 3 0 = (s.ring p 3).pi + 1)

/-- Windows at the destination. Each command answers a next state under the stated conditions, and the next state
holds what is named: ACK_DELAY acknowledges everything up to the base; WIN_SYNC sets base and acknowledged point to
its sequence number and forgets what was ahead; a packet behind the base counts in LFP_LATE_DISC; a Pennant ahead of
the base is held and the base stays; HOLE_SKIP counts the sequence numbers given up; PENNANT_DEADLINE counts the
Pennant that fails. (03_fabric_protocol.md, End-to-end windows; 03_fabric_protocol.md, Pennant ordering) -/
def Obligations.WindowArrivals : Prop :=
  -- ACK_DELAY acknowledges everything up to the base.
  (∀ (s : State) (p : Plane) (e : Endpt) (a : EpId), s.runs p = true → (s.dstWin p (epKey e) a).base ≠ (s.dstWin p
      (epKey e) a).acked → ∃ t, exec (.ackDelay p e a) s = .next t ∧ (t.dstWin p (epKey e) a).acked = (s.dstWin p
      (epKey e) a).base ∧ (t.dstWin p (epKey e) a).base = (s.dstWin p (epKey e) a).base) ∧
  -- WIN_SYNC sets base and acknowledged point to its sequence number and forgets what was ahead.
  (∀ (s : State) (p : Plane) (e : Endpt) (k : Packet), s.runs p = true → crcOk k = true → k.hdr.src.toNat < 0xFF00 →
      (s.dstWin p (epKey e) k.hdr.src).held = [] → ∃ t, exec (.winSync p e k) s = .next t ∧ (t.dstWin p (epKey e)
      k.hdr.src).base = k.hdr.wseq ∧ (t.dstWin p (epKey e) k.hdr.src).acked = k.hdr.wseq ∧ (t.dstWin p (epKey e)
      k.hdr.src).seen = []) ∧
  -- A packet behind the base counts in LFP_LATE_DISC.
  (∀ (s : State) (p : Plane) (x : Eng) (k : Packet), s.epOn p (epKey (.eng x)) = true → windowed k.hdr = true →
      crcOk k = true → k.hdr.src.toNat < 0xFF00 → (s.ep p (epKey (.eng x))).gen ≤ (s.dstWin p (epKey (.eng x))
      k.hdr.src).gen → 65024 ≤ (k.hdr.wseq - (s.dstWin p (epKey (.eng x)) k.hdr.src).base).toNat → ∃ t, exec
      (.windowedArrival p (.eng x) k) s = .next t ∧ t.staged p Fld.LFP_LATE_DISC.N 0 = satInc 32 (s.staged p
      Fld.LFP_LATE_DISC.N 0)) ∧
  -- A Pennant ahead of the base is held and the base stays.
  (∀ (s : State) (p : Plane) (x : Eng) (k : Packet), s.epOn p (epKey (.eng x)) = true → windowed k.hdr = true →
      crcOk k = true → k.hdr.src.toNat < 0xFF00 → (s.ep p (epKey (.eng x))).gen ≤ (s.dstWin p (epKey (.eng x))
      k.hdr.src).gen → 0 < (k.hdr.wseq - (s.dstWin p (epKey (.eng x)) k.hdr.src).base).toNat → (k.hdr.wseq -
      (s.dstWin p (epKey (.eng x)) k.hdr.src).base).toNat < 512 → (k.hdr.wseq - (s.dstWin p (epKey (.eng x))
      k.hdr.src).base).toNat ∉ (s.dstWin p (epKey (.eng x)) k.hdr.src).seen → 0 ∉ (s.dstWin p (epKey (.eng x))
      k.hdr.src).seen → opDone (epKey (.eng x)) k.hdr.op = true → k.hdr.pen = true → (s.dstWin p (epKey (.eng x))
      k.hdr.src).lostOk = false → k.hdr.ce = false → (s.dstWin p (epKey (.eng x)) k.hdr.src).held = [] → (s.dstWin p
      (epKey (.eng x)) k.hdr.src).base = (s.dstWin p (epKey (.eng x)) k.hdr.src).acked → ∃ t, exec (.windowedArrival
      p (.eng x) k) s = .next t ∧ (t.dstWin p (epKey (.eng x)) k.hdr.src).held = [⟨k⟩] ∧ (t.dstWin p (epKey (.eng
      x)) k.hdr.src).base = (s.dstWin p (epKey (.eng x)) k.hdr.src).base) ∧
  -- HOLE_SKIP counts the sequence numbers given up.
  (∀ (s : State) (p : Plane) (e : Endpt) (a : EpId) (n m : Nat), s.epOn p (epKey e) = true → (s.dstWin p (epKey e)
      a).stall = some n → (s.dstWin p (epKey e) a).seen.min? = some m → m ≠ 0 → ∃ t, exec (.holeSkip p e a) s =
      .next t ∧ t.staged p Fld.LFP_HOLE_CNT.N 0 = satAdd 32 (s.staged p Fld.LFP_HOLE_CNT.N 0) m) ∧
  -- PENNANT_DEADLINE counts the Pennant that fails.
  (∀ (s : State) (p : Plane) (e : Endpt) (a : EpId) (w : BitVec 16) (g : Pennant), s.epOn p (epKey e) = true →
      (s.dstWin p (epKey e) a).held.find? (fun g => g.pkt.hdr.wseq == w) = some g → ∃ t, exec (.pennantDeadline p e
      a w) s = .next t ∧ t.staged p Fld.LFP_PEN_FAIL.N 0 = satInc 32 (s.staged p Fld.LFP_PEN_FAIL.N 0))

/-- Windows, tags and timeouts at the source. Each command answers a next state under the stated conditions, and the
next state holds what is named: CWND_INCREASE adds INC up to the full window; ACK_RECEIVED moves the base to the
acknowledged number; CPL_RECEIVED of a synchronisation ends it; one that matches no request counts in LFP_STALE_CPL;
OP_TIMEOUT counts in LFP_OP_TMO; TAG_RELEASE ends the quarantine of a tag. (03_fabric_protocol.md, End-to-end
windows; 03_fabric_protocol.md, Congestion marking and response; 03_fabric_protocol.md, Tags and timeouts) -/
def Obligations.WindowSource : Prop :=
  -- CWND_INCREASE adds INC up to the full window.
  (∀ (s : State) (p : Plane) (e : Endpt) (d : EpId), s.epOn p (epKey e) = true → s.hostCc p = false → e ≠ .eng .col
      → e ≠ .eng .dsp → s.cwnd p (s.srcWin p (epKey e) d) < s.wSrc p → ∃ t, exec (.cwndIncrease p e d) s = .next t ∧
      (t.srcWin p (epKey e) d).cwnd = min (s.wSrc p) (s.cwnd p (s.srcWin p (epKey e) d) + s.fld p Fld.LFP_CC_CFG.INC
      0)) ∧
  -- ACK_RECEIVED moves the base to the acknowledged number.
  (∀ (s : State) (p : Plane) (e : Endpt) (k : Packet), s.epOn p (epKey e) = true → crcOk k = true → e ≠ .eng .col →
      e ≠ .eng .dsp → (s.srcWin p (epKey e) k.hdr.src).sync = .done → (k.hdr.wseq - (s.srcWin p (epKey e)
      k.hdr.src).base).toNat ≤ ((s.srcWin p (epKey e) k.hdr.src).next - (s.srcWin p (epKey e) k.hdr.src).base).toNat
      → k.hdr.ece = false → ∃ t, exec (.ackReceived p e k) s = .next t ∧ (t.srcWin p (epKey e) k.hdr.src).base =
      k.hdr.wseq) ∧
  -- CPL_RECEIVED of a synchronisation ends it.
  (∀ (s : State) (p : Plane) (e : Endpt) (k : Packet) (d : EpId), s.epOn p (epKey e) = true → crcOk k = true → e ≠
      .eng .col → e ≠ .eng .dsp → mget none k.hdr.tag.toNat (s.ep p (epKey e)).reqs = some ⟨.winSync d, d⟩ →
      k.hdr.ece = false → k.hdr.op = stOK → ∃ t, exec (.cplReceived p e k) s = .next t ∧ (t.srcWin p (epKey e)
      d).sync = .done) ∧
  -- One that matches no request counts in LFP_STALE_CPL.
  (∀ (s : State) (p : Plane) (e : Endpt) (k : Packet), s.epOn p (epKey e) = true → crcOk k = true → mget none
      k.hdr.tag.toNat (s.ep p (epKey e)).reqs = none → cplStatus k.hdr.op ≠ stRESYNC → ∃ t, exec (.cplReceived p e
      k) s = .next t ∧ t.staged p Fld.LFP_STALE_CPL.N 0 = satInc 32 (s.staged p Fld.LFP_STALE_CPL.N 0)) ∧
  -- OP_TIMEOUT counts in LFP_OP_TMO.
  (∀ (s : State) (p : Plane) (e : Endpt) (g : BitVec 16) (d : EpId), s.epOn p (epKey e) = true → mget none g.toNat
      (s.ep p (epKey e)).reqs = some ⟨.winSync d, d⟩ → ∃ t, exec (.opTimeout p e g) s = .next t ∧ t.staged p
      Fld.LFP_OP_TMO.N 0 = satInc 32 (s.staged p Fld.LFP_OP_TMO.N 0)) ∧
  -- TAG_RELEASE ends the quarantine of a tag.
  (∀ (s : State) (p : Plane) (e : Endpt) (g : BitVec 16), s.live p = true → ∃ t, exec (.tagRelease p e g) s = .next
      t ∧ g.toNat ∉ (t.ep p (epKey e)).quar)

/-- The golden end point, the generator, the checker and the injections. Each command answers a next state under the
stated conditions, and the next state holds what is named: GEN_START starts a stopped stream with its count at 0;
GEN_STOP stops a running one; CHK_CLR frees every flow record of the group; FEC_INJECT takes one from LEFT and
counts the injection; INJECT_DELAY_END frees the delayed packet at the head of its stage; a delayed packet beside
the switch core leaves on its port; GEN_PACKET sends the stream's next packet where no injection matches it; a
WIN_SYNC at the golden port sets the base and forgets what was ahead; a packet type it does not serve counts in
TST_GEP_DISC. (12_test_instrument.md, Golden end point; 12_test_instrument.md, Traffic generator;
12_test_instrument.md, Traffic checker; 12_test_instrument.md, Error injection) -/
def Obligations.GoldenEndPoint : Prop :=
  -- GEN_START starts a stopped stream with its count at 0.
  (∀ (s : State) (p : Plane) (g : Fin 18) (k : Fin 16), s.live p = true → s.genRun p g k = false → s.golden p (32 *
      g.val) = true → s.portEn p (s.genPort p g k) = true → s.flag p Fld.TST_GEP_ID.VALID (s.genPort p g k) = true →
      s.genMode p g k ≠ 1 → ∃ t, exec (.genStart p g (BitVec.ofNat 16 (2 ^ k.val))) s = .next t ∧ t.genRun p g k =
      true ∧ t.fld p Fld.TST_GEN_SENT.N (sentIdx g k) = 0) ∧
  -- GEN_STOP stops a running one.
  (∀ (s : State) (p : Plane) (g : Fin 18) (k : Fin 16), s.live p = true → s.genRun p g k = true → ∃ t, exec
      (.genStop p g (BitVec.ofNat 16 (2 ^ k.val))) s = .next t ∧ t.genRun p g k = false) ∧
  -- CHK_CLR frees every flow record of the group.
  (∀ (s : State) (p : Plane) (g : Fin 18) (f : Fin 256), s.live p = true → ∃ t, exec (.chkClr p g) s = .next t ∧
      t.flag p Fld.TST_CHK_FLOW.VALID (256 * g.val + f.val) = false) ∧
  -- FEC_INJECT takes one from LEFT and counts the injection.
  (∀ (s : State) (p : Plane) (l i : Fin 576), s.live p = true → s.portOf p l = some i.val → s.portActive p i = true
      → s.flag p Fld.TST_FEC_INJ.EN l = true → s.fld p Fld.TST_FEC_INJ.LEFT l ≠ 0 → s.fld p Fld.TST_FEC_INJ.LEFT l ≠
      0xFFFF → ∃ t, exec (.fecInject p l) s = .next t ∧ t.fld p Fld.TST_FEC_INJ.LEFT l = s.fld p
      Fld.TST_FEC_INJ.LEFT l - 1 ∧ t.staged p Fld.TST_FEC_INJ_CNT.N l = satInc 32 (s.staged p Fld.TST_FEC_INJ_CNT.N
      l)) ∧
  -- INJECT_DELAY_END frees the delayed packet at the head of its stage.
  (∀ (s : State) (p : Plane) (c : Code) (v : Fin 9) (e : StageEnt) (l : List StageEnt) (u : Nat), s.runs p = true →
      s.stg p c.toNat v = e :: l → e.until_ = some u → (∀ w, w < 9 → w ≠ v.val → ∀ x, (s.stg p c.toNat w).head? =
      some x → x.until_ = none) → (∀ w, w < 9 → s.side p c.toNat w = none) → ∃ t, exec (.injectDelayEnd p c) s =
      .next t ∧ t.stg p c.toNat v = { e with until_ := none } :: l) ∧
  -- A delayed packet beside the switch core leaves on its port.
  (∀ (s : State) (p : Plane) (c : Code) (v : Fin 9) (e : SideEnt) (u : Nat), s.runs p = true → s.side p c.toNat v =
      some e → e.until_ = some u → (∀ w, w < 9 → w ≠ v.val → s.side p c.toNat w = none ∧ ∀ x, (s.stg p c.toNat
      w).head? = some x → x.until_ = none) → s.tx? p c.toNat = none → ∃ t, exec (.injectDelayEnd p c) s = .next t ∧
      .packet p c.toNat false (injected e.inj (e.stamped (s.now p)).pkt) ∈ t.out) ∧
  -- GEN_PACKET sends the stream's next packet where no injection matches it.
  (∀ (s : State) (p : Plane) (g : Fin 18) (k : Fin 16), s.runs p = true → (s.pl p).tst.inReset = false → s.genRun p
      g k = true → s.portActive p (s.genPort p g k) = true → s.fld p Fld.TST_GEN_STR.RATE (strIdx g k) ≠ 0 → mget []
      (s.genPort p g k) (s.pl p).tst.resp = [] → unitsOf (s.genForm p g k (s.fld p Fld.TST_GEN_SENT.N (sentIdx g k))
      0 0) ≤ s.sideAvail p (s.genPort p g k) (s.genForm p g k (s.fld p Fld.TST_GEN_SENT.N (sentIdx g k)) 0
      0).hdr.vc.toNat → s.genMode p g k ≠ 1 → s.fld p Fld.TST_GEN_STR.COUNT (strIdx g k) = 0 → noId (s.genForm p g k
      (s.fld p Fld.TST_GEN_SENT.N (sentIdx g k)) 0 0).hdr = false → (s.tap p 1 (s.genPort p g k) (s.genForm p g k
      (s.fld p Fld.TST_GEN_SENT.N (sentIdx g k)) 0 0)).2.1 = 0 → ∃ t, exec (.genPacket p g k) s = .next t ∧
      t.out.head? = some (.packet p (s.genPort p g k) false (s.genForm p g k (s.fld p Fld.TST_GEN_SENT.N (sentIdx g
      k)) 0 0))) ∧
  -- A WIN_SYNC at the golden port sets the base and forgets what was ahead.
  (∀ (s : State) (p : Plane) (i : Fin 576) (k : Packet), s.runs p = true → s.golden p i = true → s.portEn p i = true
      → (s.pl p).tst.inReset = false → crcOk k = true → k.hdr.type = tREQ → k.hdr.op = 0x03 → k.hdr.src.toNat <
      0xFF00 → (s.dstWin p (16 + i.val) k.hdr.src).held = [] → ∃ t, exec (.gepReceive p i k) s = .next t ∧ (t.dstWin
      p (16 + i.val) k.hdr.src).base = k.hdr.wseq ∧ (t.dstWin p (16 + i.val) k.hdr.src).seen = []) ∧
  -- A packet type it does not serve counts in TST_GEP_DISC.
  (∀ (s : State) (p : Plane) (i : Fin 576) (k : Packet), s.runs p = true → s.golden p i = true → s.portEn p i = true
      → (s.pl p).tst.inReset = false → crcOk k = true → k.hdr.type ≠ tREQ → k.hdr.type ≠ tCPL → k.hdr.type ≠ tACK →
      k.hdr.type ≠ tTEST → ∃ t, exec (.gepReceive p i k) s = .next t ∧ t.staged p Fld.TST_GEP_DISC.N 0 = satInc 32
      (s.staged p Fld.TST_GEP_DISC.N 0))

/-- Fabric time over links. Each command answers a next state under the stated conditions, and the next state holds
what is named: FT_CFG_WRITE stores the word; with no source taken yet, the source it names is taken; FT_SET with the
source set by software sets the time, with no fraction; SYNC_SEND sends a SYNC under the next sequence number;
DREQ_SEND sends a request and keeps the time it left; SYNC shows the far stratum and state; a SYNC from a locked far
end with a measured delay makes SYNC_OK read 1; DREQ is answered with the times it arrived and the answer leaves;
DRESP of the last request adds one delay, of which eight are kept. (12_test_instrument.md, Fabric time) -/
def Obligations.FabricTimePort : Prop :=
  -- FT_CFG_WRITE stores the word.
  (∀ (s : State) (p : Plane) (v : Word), s.live p = true → ∃ t, exec (.ftCfgWrite p v) s = .next t ∧ t.word p
      .TST_FT_CFG 0 0 = v) ∧
  -- With no source taken yet, the source it names is taken.
  (∀ (s : State) (p : Plane) (v : Word), s.live p = true → (s.time p).taken = none → ∃ t, exec (.ftCfgWrite p v) s =
      .next t ∧ (t.time p).taken = some (bits 31 30 v.toNat)) ∧
  -- FT_SET with the source set by software sets the time, with no fraction.
  (∀ (s : State) (p : Plane) (v : BitVec 64), s.live p = true → (s.time p).taken = some 0 → ∃ t, exec (.ftSet p v) s
      = .next t ∧ (t.pl p).ft = 65536 * v.toNat ∧ (t.pl p).ftRem = 0) ∧
  -- SYNC_SEND sends a SYNC under the next sequence number.
  (∀ (s : State) (p : Plane) (i : Fin 576), s.live p = true → s.portActive p i = true → s.timeRole p i = 1 → ∃ t,
      exec (.syncSend p i) s = .next t ∧ t.out = .block p i 0x78 (slice 0 31 (timeBytes 0 (s.timeState p)
      (s.timeStratum p) (s.timePort p i).syncSeq (s.pl p).ft 0 (s.time p).root)) :: s.out ∧ (t.timePort p i).syncSeq
      = (s.timePort p i).syncSeq + 1) ∧
  -- DREQ_SEND sends a request and keeps the time it left.
  (∀ (s : State) (p : Plane) (i : Fin 576), s.live p = true → s.portActive p i = true → s.timeRole p i = 2 → ∃ t,
      exec (.dreqSend p i) s = .next t ∧ t.out = .block p i 0x78 (slice 0 31 (timeBytes 1 (s.timeState p)
      (s.timeStratum p) (s.timePort p i).dreqSeq 0 0 0)) :: s.out ∧ (t.timePort p i).t1 = some (s.pl p).ft) ∧
  -- SYNC shows the far stratum and state.
  (∀ (s : State) (p : Plane) (i : Fin 576) (b : TimeBlock), s.live p = true → s.portActive p i = true → s.timeRole p
      i = 2 → b.state.toNat < 2 → ∃ t, exec (.sync p i b) s = .next t ∧ t.fld p Fld.TST_PORT_TSTAT.FAR_STRATUM i =
      b.stratum.toNat ∧ t.fld p Fld.TST_PORT_TSTAT.FAR_STATE i = b.state.toNat) ∧
  -- A SYNC from a locked far end with a measured delay makes SYNC_OK read 1.
  (∀ (s : State) (p : Plane) (i : Fin 576) (b : TimeBlock), s.live p = true → s.portActive p i = true → s.timeRole p
      i = 2 → 2 ≤ b.state.toNat → b.stratum.toNat ≤ 14 → (s.timePort p i).delays ≠ [] → (s.time p).taken ≠ some 1 →
      ∃ t, exec (.sync p i b) s = .next t ∧ t.syncFresh p i = true) ∧
  -- DREQ is answered with the times it arrived and the answer leaves.
  (∀ (s : State) (p : Plane) (i : Fin 576) (b : TimeBlock), s.live p = true → s.portActive p i = true → s.timeRole p
      i = 1 → ∃ t, exec (.dreq p i b) s = .next t ∧ t.out = .block p i 0x78 (slice 0 31 (timeBytes 2 (s.timeState p)
      (s.timeStratum p) b.seq (s.pl p).ft (s.pl p).ft 0)) :: s.out) ∧
  -- DRESP of the last request adds one delay, of which eight are kept.
  (∀ (s : State) (p : Plane) (i : Fin 576) (b : TimeBlock) (t1 : Nat), s.live p = true → s.portActive p i = true →
      s.timeRole p i = 2 → (s.timePort p i).t1 = some t1 → b.seq + 1 = (s.timePort p i).dreqSeq → ∃ t, exec (.dresp
      p i b) s = .next t ∧ (t.timePort p i).delays = ((((s.pl p).ft : Int) - t1 - ((b.t3 : Int) - b.t)) ::
      (s.timePort p i).delays).take 8 ∧ (t.timePort p i).t1 = none)

/-- Fabric time sources: loss, return, Halyard and PPS. Each command answers a next state under the stated
conditions, and the next state holds what is named: TIME_SOURCE_LOST of the port in use enters holdover;
TIME_SOURCE_RETURN takes the port into use; TIME_FLIT_SEND sends the time over Halyard; TIME_FLIT sets the stratum
one above the sender's and shows holdover where the sender is in holdover; PPS_IN_EDGE sets PPS_SEEN; the first one
used is kept; PPS_MISSING clears PPS_SEEN and enters holdover; PPS_OUT drives the pin of the plane that may.
(12_test_instrument.md, Fabric time) -/
def Obligations.FabricTimeSource : Prop :=
  -- TIME_SOURCE_LOST of the port in use enters holdover.
  (∀ (s : State) (p : Plane), s.live p = true → (s.time p).taken = some 1 → s.fld p Fld.TST_FT_STAT.USING 0 = 2 → ∃
      t, exec (.timeSourceLost p) s = .next t ∧ t.fld p Fld.TST_FT_STAT.STATE 0 = 3 ∧ t.fld p Fld.TST_FT_STAT.USING
      0 = 0) ∧
  -- TIME_SOURCE_RETURN takes the port into use.
  (∀ (s : State) (p : Plane), s.live p = true → (s.time p).taken = some 1 → (s.timePort p (s.fld p
      Fld.TST_FT_CFG.TIME_PORT 0)).okAt ≠ none → s.portActive p (s.fld p Fld.TST_FT_CFG.TIME_PORT 0) = true → ∃ t,
      exec (.timeSourceReturn p) s = .next t ∧ t.fld p Fld.TST_FT_STAT.USING 0 = 1) ∧
  -- TIME_FLIT_SEND sends the time over Halyard.
  (∀ (s : State) (p : Plane), s.live p = true → s.halUp p = true → s.halRoom p = true → ∃ t, exec (.timeFlitSend p)
      s = .next t ∧ t.out.head? = some (.halCtl p 6 ([BitVec.ofNat 8 (16 * s.timeState p + s.timeStratum p)] ++
      leBytes 8 ((s.pl p).ft / 65536) ++ leBytes 2 (s.pl p).ft))) ∧
  -- TIME_FLIT sets the stratum one above the sender's and shows holdover where the sender is in holdover.
  (∀ (s : State) (p : Plane) (b : TimeBlock), s.live p = true → s.halUp p = true → (s.time p).taken = some 2 → 2 ≤
      b.state.toNat → b.stratum.toNat ≤ 14 → b.state.toNat = 3 → ∃ t, exec (.timeFlit p b) s = .next t ∧ t.fld p
      Fld.TST_FT_STAT.STRATUM 0 = b.stratum.toNat + 1 ∧ t.fld p Fld.TST_FT_STAT.STATE 0 = 3) ∧
  -- PPS_IN_EDGE sets PPS_SEEN.
  (∀ (s : State) (p : Plane), s.live p = true → (s.time p).taken ≠ some 3 → ∃ t, exec (.ppsInEdge p) s = .next t ∧
      t.flag p Fld.TST_FT_STAT.PPS_SEEN 0 = true) ∧
  -- The first one used is kept.
  (∀ (s : State) (p : Plane), s.live p = true → (s.time p).taken = some 3 → (s.time p).edge = false → ∃ t, exec
      (.ppsInEdge p) s = .next t ∧ t.flag p Fld.TST_FT_STAT.PPS_SEEN 0 = true ∧ (t.time p).edge = true) ∧
  -- PPS_MISSING clears PPS_SEEN and enters holdover.
  (∀ (s : State) (p : Plane), s.live p = true → (s.time p).taken = some 3 → ∃ t, exec (.ppsMissing p) s = .next t ∧
      t.flag p Fld.TST_FT_STAT.PPS_SEEN 0 = false ∧ t.fld p Fld.TST_FT_STAT.STATE 0 = 3 ∧ t.fld p
      Fld.TST_FT_STAT.USING 0 = 0) ∧
  -- PPS_OUT drives the pin of the plane that may.
  (∀ (s : State) (p : Plane), s.live p = true → s.flag p Fld.TST_FT_CFG.PPS_OUT_EN 0 = true → (p = .hoist ∨ s.flag
      .hoist Fld.TST_FT_CFG.PPS_OUT_EN 0 = false) → ∃ t, exec (.ppsOut p) s = .next t ∧ t.out = .pps p true ::
      s.out)

/-- Failures of units, the error log and freeze. Each command answers a next state under the stated conditions, and
the next state holds what is named: PG_FAIL clears PG_OK of the group; CHIPLET_FAIL clears its CHIPLET_OK and the
PG_OK of a group of it; SPINE_FAIL takes the element out and the spine has one less; ENGINE_FAIL clears the engine's
OK bit; ERROR_LOGGED into a log with room moves the write pointer and the sequence by one; FREEZE stops the plane
and shows its source; FREEZE_PIN stops both with source 0, or 3 from the cascade. (01_architecture.md, Cost of a
failed unit; 11_state_and_change.md, Errors; 11_state_and_change.md, Freeze) -/
def Obligations.UnitFailures : Prop :=
  -- PG_FAIL clears PG_OK of the group.
  (∀ (s : State) (p : Plane) (g : Fin 18), s.live p = true → s.pgOk p g = true → ∃ t, exec (.pgFail p g) s = .next t
      ∧ t.pgOk p g = false) ∧
  -- CHIPLET_FAIL clears its CHIPLET_OK and the PG_OK of a group of it.
  (∀ (s : State) (p : Plane) (c : Fin 9), s.live p = true → bit c (s.fld p Fld.TOP_UNIT_STAT.CHIPLET_OK 0) = true →
      ∃ t, exec (.chipletFail p c) s = .next t ∧ bit c (t.fld p Fld.TOP_UNIT_STAT.CHIPLET_OK 0) = false ∧ t.pgOk p
      (2 * c + 1) = false) ∧
  -- SPINE_FAIL takes the element out and the spine has one less.
  (∀ (s : State) (p : Plane) (k : Fin 24) (lost : List CellId), s.live p = true → bit k (s.fld p
      Fld.SWC_SPINE_STAT.ELEM_OK 0) = true → 19 ≤ s.spineN p → s.fld p Fld.EPC_ERR_CFG.ESC_U 0 = 0 → ∃ t, exec
      (.spineFail p k lost) s = .next t ∧ bit k (t.fld p Fld.SWC_SPINE_STAT.ELEM_OK 0) = false ∧ t.spineN p =
      s.spineN p - 1) ∧
  -- ENGINE_FAIL clears the engine's OK bit.
  (∀ (s : State) (p : Plane) (e : Eng), s.live p = true → (s.pl p).epc.engFailed.contains (engNum e) = false → ∃ t,
      exec (.engineFail p e) s = .next t ∧ t.flag p (engOkFld (engNum e)) 0 = false) ∧
  -- ERROR_LOGGED into a log with room moves the write pointer and the sequence by one.
  (∀ (s : State) (p : Plane) (code : Byte) (unit info0 info1 info2 : Word), s.live p = true → 1 ≤ code.toNat →
      code.toNat ≤ 0x12 → s.unitOut p code.toNat unit.toNat = false → (s.pl p).epc.recent = [] → s.logFill p < 256 →
      s.fld p Fld.EPC_ERR_CFG.ESC_U 0 = 0 → ∃ t, exec (.errorLogged p code unit info0 info1 info2) s = .next t ∧
      t.word p .EPC_LOG_WP 0 0 = s.word p .EPC_LOG_WP 0 0 + 1 ∧ (t.pl p).epc.seq = (s.pl p).epc.seq + 1) ∧
  -- FREEZE stops the plane and shows its source.
  (∀ (s : State) (p : Plane), s.live p = true → s.flag p Fld.TOP_CLK_STAT.CORE_LOCK 0 = true → ∃ t, exec (.freeze p)
      s = .next t ∧ t.flag p Fld.EPC_FREEZE_STAT.FROZEN 0 = true ∧ (t.pl p).epc.frozen = true ∧ t.fld p
      Fld.EPC_FREEZE_STAT.SOURCE 0 = 1 + p.num) ∧
  -- FREEZE_PIN stops both with source 0, or 3 from the cascade.
  (∀ (s : State) (p : Plane) (casc : Option Side), s.live p = true → s.flag p Fld.TOP_CLK_STAT.CORE_LOCK 0 = true →
      ∃ t, exec (.freezePin casc) s = .next t ∧ t.flag p Fld.EPC_FREEZE_STAT.FROZEN 0 = true ∧ (t.pl p).epc.frozen =
      true ∧ t.fld p Fld.EPC_FREEZE_STAT.SOURCE 0 = (if casc = none then 0 else 3))

/-- Taking units out, testing them, clocks and gating. Each command answers a next state under the stated
conditions, and the next state holds what is named: UNIT_RETIRE of a group without enabled ports clears its PG_OK;
UNIT_TEST of a unit that is out starts the test; UNIT_TEST_DONE ends it and shows whether it passed; REFCLK_LOSS
clears the clock's REFCLK_OK; REFCLK_RETURN sets it; ENGINE_GATE of a unit nothing needs takes its power; UNIT_WAKE
gives it back; and of a group wakes each quad that an enabled port needs. (11_state_and_change.md, Changing parts in
service; 11_state_and_change.md, Power states; 13_electrical_and_package.md, Clocks) -/
def Obligations.UnitService : Prop :=
  -- UNIT_RETIRE of a group without enabled ports clears its PG_OK.
  (∀ (s : State) (p : Plane) (v : Word), s.live p = true → bits 27 24 v.toNat = 0 → bits 4 0 v.toNat < 18 → s.pgOk p
      (bits 4 0 v.toNat) = true → s.enabledIn p [bits 4 0 v.toNat] = [] → ∃ t, exec (.unitRetire p v) s = .next t ∧
      t.pgOk p (bits 4 0 v.toNat) = false) ∧
  -- UNIT_TEST of a unit that is out starts the test.
  (∀ (s : State) (p : Plane) (v : Word), s.live p = true → unitThere (bits 27 24 v.toNat) (bits 4 0 v.toNat) = true
      → s.unitIn p (bits 27 24 v.toNat) (bits 4 0 v.toNat) = false → s.flag p Fld.EPC_UNIT_STAT.BUSY 0 = false → ∃
      t, exec (.unitTest p v) s = .next t ∧ t.flag p Fld.EPC_UNIT_CTL.TEST 0 = true ∧ t.flag p
      Fld.EPC_UNIT_STAT.BUSY 0 = true ∧ (t.pl p).epc.testing = some (bits 27 24 v.toNat, bits 4 0 v.toNat)) ∧
  -- UNIT_TEST_DONE ends it and shows whether it passed.
  (∀ (s : State) (p : Plane) (ty ix : Nat) (pass : Bool), s.live p = true → (s.pl p).epc.testing = some (ty, ix) → ∃
      t, exec (.unitTestDone p pass) s = .next t ∧ t.flag p Fld.EPC_UNIT_CTL.TEST 0 = false ∧ t.flag p
      Fld.EPC_UNIT_STAT.BUSY 0 = false ∧ t.flag p Fld.EPC_UNIT_STAT.PASS 0 = pass ∧ (t.pl p).epc.testing = none) ∧
  -- REFCLK_LOSS clears the clock's REFCLK_OK.
  (∀ (s : State) (p : Plane) (k : Fin 4), s.live p = true → (k.val ≠ 2 ∨ bit 3 (s.fld p Fld.TOP_CLK_STAT.REFCLK_OK
      0) = true) → ∃ t, exec (.refclkLoss p k) s = .next t ∧ bit k (t.fld p Fld.TOP_CLK_STAT.REFCLK_OK 0) = false) ∧
  -- REFCLK_RETURN sets it.
  (∀ (s : State) (p : Plane) (k : Fin 4), s.live p = true → s.flag p Fld.TOP_CLK_STAT.CORE_LOCK 0 = true → ∃ t, exec
      (.refclkReturn p k) s = .next t ∧ bit k (t.fld p Fld.TOP_CLK_STAT.REFCLK_OK 0) = true) ∧
  -- ENGINE_GATE of a unit nothing needs takes its power.
  (∀ (s : State) (p : Plane) (u : GateUnit), s.live p = true → s.isActive = true → s.needed p u = false → ∃ t, exec
      (.engineGate p u) s = .next t ∧ t.powered p u = false) ∧
  -- UNIT_WAKE gives it back.
  (∀ (s : State) (p : Plane) (u : GateUnit), s.live p = true → s.isActive = true → (∀ g, u ≠ .pg g) → ∃ t, exec
      (.unitWake p u) s = .next t ∧ t.powered p u = true) ∧
  -- And of a group wakes each quad that an enabled port needs.
  (∀ (s : State) (p : Plane) (g : Fin 18) (q : Nat), s.live p = true → s.isActive = true → q ∈ s.quadsNeeded p → q /
      8 = g.val → ∃ t, exec (.unitWake p (.pg g)) s = .next t ∧ q ∈ (t.pl p).epc.quads)

/-- Block resets. Each command answers a next state under the stated conditions, and the next state holds what is
named: SWC_RST shows its bit and clears PLANE_OK; COL_RST shows its bit and clears COL_OK; DSP_RST shows its bit and
clears DSP_OK; MEM_RST shows its bit and clears MEM_OK; TST_RST shows its bit and holds the instrument in reset;
BLOCK_RESET_DONE clears the bit of its block. (11_state_and_change.md, Reset domains; 06_collectives.md, Failures
and aborts; 08_memory_and_windows.md, Errors and repair; 12_test_instrument.md, TST_ block reset) -/
def Obligations.BlockResets : Prop :=
  -- SWC_RST shows its bit and clears PLANE_OK.
  (∀ (s : State) (p : Plane), s.runs p = true → s.flag p Fld.TOP_RST_CTL.SWC_RST 0 = false → ∃ t, exec (.swcRst p) s
      = .next t ∧ t.flag p Fld.TOP_RST_CTL.SWC_RST 0 = true ∧ t.flag p Fld.TOP_PG_STAT.PLANE_OK 0 = false) ∧
  -- COL_RST shows its bit and clears COL_OK.
  (∀ (s : State) (p : Plane), s.runs p = true → s.flag p Fld.TOP_RST_CTL.COL_RST 0 = false → ∃ t, exec (.colRst p) s
      = .next t ∧ t.flag p Fld.TOP_RST_CTL.COL_RST 0 = true ∧ t.flag p Fld.TOP_PG_STAT.COL_OK 0 = false) ∧
  -- DSP_RST shows its bit and clears DSP_OK.
  (∀ (s : State) (p : Plane), s.runs p = true → s.flag p Fld.TOP_RST_CTL.DSP_RST 0 = false → ∃ t, exec (.dspRst p) s
      = .next t ∧ t.flag p Fld.TOP_RST_CTL.DSP_RST 0 = true ∧ t.flag p Fld.TOP_PG_STAT.DSP_OK 0 = false) ∧
  -- MEM_RST shows its bit and clears MEM_OK.
  (∀ (s : State) (p : Plane), s.runs p = true → s.flag p Fld.TOP_RST_CTL.MEM_RST 0 = false → ∃ t, exec (.memRst p) s
      = .next t ∧ t.flag p Fld.TOP_RST_CTL.MEM_RST 0 = true ∧ t.flag p Fld.TOP_PG_STAT.MEM_OK 0 = false) ∧
  -- TST_RST shows its bit and holds the instrument in reset.
  (∀ (s : State) (p : Plane), s.runs p = true → s.flag p Fld.TOP_RST_CTL.TST_RST 0 = false → ∃ t, exec (.tstRst p) s
      = .next t ∧ t.flag p Fld.TOP_RST_CTL.TST_RST 0 = true ∧ (t.pl p).tst.inReset = true) ∧
  -- BLOCK_RESET_DONE clears the bit of its block.
  (∀ (s : State) (p : Plane) (b : Blk), s.runs p = true → s.flag p (rstFld b) 0 = true → ∃ t, exec (.blockResetDone
      p b) s = .next t ∧ t.flag p (rstFld b) 0 = false)

/-- Halyard: flits, failure, return and the package view. Each command answers a next state under the stated
conditions, and the next state holds what is named: a HALYARD_FLIT with a bad CRC counts in SWC_HAL_CRC and asks for
the resend; a good data flit in sequence adds its bytes to the packet that its VC is receiving; a good flit of KIND
2 in sequence stores the limits it carries; HALYARD_FAIL takes both ends down and splits the package; HALYARD_RETURN
brings both ends up; VIEW_CHECK takes the units' states of the deciding plane into the package view.
(05_switch_core.md, Halyard; 10_management.md, When views disagree) -/
def Obligations.HalyardFlitsAndState : Prop :=
  -- A HALYARD_FLIT with a bad CRC counts in SWC_HAL_CRC and asks for the resend.
  (∀ (s : State) (p : Plane) (f : HalFlit), s.live p = true → s.halUp p = true → f.vc.toNat ≤ 8 → f.crcOk = false →
      s.halRoom p = true → ∃ t, exec (.halyardFlit p f) s = .next t ∧ t.staged p Fld.SWC_HAL_CRC.N 0 = satInc 32
      (s.staged p Fld.SWC_HAL_CRC.N 0) ∧ t.out.head? = some (.halFlit p (s.halForm p [] 0 0 0 2 true))) ∧
  -- A good data flit in sequence adds its bytes to the packet that its VC is receiving.
  (∀ (s : State) (p : Plane) (f : HalFlit), s.live p = true → s.halUp p = true → f.vc.toNat ≤ 8 → f.crcOk = true →
      f.kind = 0 → f.nak = false → f.txSeq = (s.pl p).swc.hal.rxSeq + 1 → (s.pl p).swc.hal.nakDue = false ∧ (s.pl
      p).swc.hal.ctl = [] → f.nu = 0 ∧ f.bad = false → s.halRx p f.vc.toNat ≠ [] → bit 0 f.sopm.toNat = false →
      (s.halRx p f.vc.toNat ++ slice 0 64 f.data).length ≠ 64 → (s.halRx p f.vc.toNat ++ slice 0 64 f.data).length /
      64 < unitsWanted (s.halRx p f.vc.toNat ++ slice 0 64 f.data) → ∃ t, exec (.halyardFlit p f) s = .next t ∧
      (t.pl p).swc.hal.rxSeq = f.txSeq ∧ t.halRx p f.vc.toNat = s.halRx p f.vc.toNat ++ slice 0 64 f.data) ∧
  -- A good flit of KIND 2 in sequence stores the limits it carries.
  (∀ (s : State) (p : Plane) (f : HalFlit), s.live p = true → s.halUp p = true → f.vc.toNat ≤ 8 → f.crcOk = true →
      f.kind = 2 → f.nak = false → f.txSeq = (s.pl p).swc.hal.rxSeq + 1 → (s.pl p).swc.hal.nakDue = false ∧ (s.pl
      p).swc.hal.ctl = [] → ∃ t, exec (.halyardFlit p f) s = .next t ∧ (t.pl p).swc.hal.rxSeq = f.txSeq ∧ ∀ v, v < 9
      → (t.cred p 576 v).limRx = f.counts.getD v (s.cred p 576 v).limRx) ∧
  -- HALYARD_FAIL takes both ends down and splits the package.
  (∀ (s : State), s.halUp .hoist = true → ∃ t, exec (.halyardFail) s = .next t ∧ t.halUp .fly = false ∧ t.pkg.split
      = true) ∧
  -- HALYARD_RETURN brings both ends up.
  (∀ (s : State), s.halUp .hoist = false → s.live .hoist = true → s.live .fly = true → 2 ≤ s.power → ∃ t, exec
      (.halyardReturn) s = .next t ∧ t.halUp .fly = true ∧ t.flag .fly Fld.SWC_HAL_STAT.UP 0 = true) ∧
  -- VIEW_CHECK takes the units' states of the deciding plane into the package view.
  (∀ (s : State) (p : Plane), s.mgr = some p → s.pkg.split = true → ∃ t, exec (.viewCheck) s = .next t ∧ ∀ u ∈
      s.unitStates p, mget 0 (2000 * p.num + u.1) t.pkg.view = u.2.2 + 1)

/-- Packets of the collective engine. Each command answers a next state under the stated conditions, and the next
state holds what is named: the first CONTRIB of a chunk takes a slot and marks its child as seen; the first PARTIAL
of a child device does the same; CHUNK_FREED of the oldest sent chunk moves the base past it and frees the slot;
SLOT_CRED of the parent stores its limit; SLOT_CRED_DELAY tells the children the limit; SLOT_CRED_REFRESH tells it
again; an abort from the parent aborts the group with its code and ORIGIN 0. (06_collectives.md, Slots, chunks and
slot credit; 06_collectives.md, Collective packets; 06_collectives.md, Failures and aborts) -/
def Obligations.CollectivePackets : Prop :=
  -- The first CONTRIB of a chunk takes a slot and marks its child as seen.
  (∀ (s : State) (p : Plane) (k : Packet) (g : Fin 1024) (h : ColHdr) (ch : Child), s.colOn p = true → crcOk k =
      true → colHdr? k.payload = some h → h.group = g.val → s.gState p g = 1 → (s.children p g).find? (fun c => c.id
      == k.hdr.src && c.eng == (k.hdr.op == opPARTIAL)) = some ch → h.epoch = s.gEpoch p g → s.gBase p g ≤ h.chunk →
      h.chunk < s.gLimit p g → (s.grp p g).freed.contains h.chunk = false → mget none h.chunk (s.grp p g).chunks =
      none → s.colFormatOk p g ch.eng h k.payload.length = true → s.gRelay p g = false → (s.children p g).all (fun c
      => decide (c.idx = ch.idx)) = false → k.hdr.op = opCONTRIB → ∃ t, exec (.contrib p k []) s = .next t ∧ ∃ c,
      mget none h.chunk (t.grp p g).chunks = some c ∧ c.seen = [ch.idx] ∧ c.elems = h.elems) ∧
  -- The first PARTIAL of a child device does the same.
  (∀ (s : State) (p : Plane) (k : Packet) (g : Fin 1024) (h : ColHdr) (ch : Child), s.colOn p = true → crcOk k =
      true → colHdr? k.payload = some h → h.group = g.val → s.gState p g = 1 → (s.children p g).find? (fun c => c.id
      == k.hdr.src && c.eng == (k.hdr.op == opPARTIAL)) = some ch → h.epoch = s.gEpoch p g → s.gBase p g ≤ h.chunk →
      h.chunk < s.gLimit p g → (s.grp p g).freed.contains h.chunk = false → mget none h.chunk (s.grp p g).chunks =
      none → s.colFormatOk p g ch.eng h k.payload.length = true → s.gRelay p g = false → (s.children p g).all (fun c
      => decide (c.idx = ch.idx)) = false → h.fwd = false → ∃ t, exec (.partialIn p k []) s = .next t ∧ ∃ c, mget
      none h.chunk (t.grp p g).chunks = some c ∧ c.seen = [ch.idx] ∧ c.elems = h.elems) ∧
  -- CHUNK_FREED of the oldest sent chunk moves the base past it and frees the slot.
  (∀ (s : State) (p : Plane) (g : Fin 1024) (n : BitVec 32) (c : Chunk), s.colOn p = true → s.gState p g = 1 → mget
      none n.toNat (s.grp p g).chunks = some c → c.sent = true → s.chunkPending p g n.toNat = false → n.toNat =
      s.gBase p g → (s.grp p g).freed = [] → (s.grp p g).lastIdx = none → s.gKind p g ≠ 3 → n.toNat + 1 < 2 ^ 32 → ∃
      t, exec (.chunkFreed p g n) s = .next t ∧ t.gBase p g = n.toNat + 1 ∧ mget none n.toNat (t.grp p g).chunks =
      none) ∧
  -- SLOT_CRED of the parent stores its limit.
  (∀ (s : State) (p : Plane) (k : Packet) (g : Fin 1024) (h : ColHdr), s.colOn p = true → crcOk k = true → colHdr?
      k.payload = some h → h.group = g.val → s.gState p g = 1 → s.gRoot p g = false → k.hdr.src = s.gParent p g →
      h.epoch = s.gEpoch p g → (s.grp p g).parent < h.chunk → ∃ t, exec (.slotCred p k) s = .next t ∧ (t.grp p
      g).parent = h.chunk) ∧
  -- SLOT_CRED_DELAY tells the children the limit.
  (∀ (s : State) (p : Plane) (g : Fin 1024), s.colOn p = true → s.gState p g = 1 → (s.grp p g).told < s.gLimit p g →
      ∃ t, exec (.slotCredDelay p g) s = .next t ∧ (t.grp p g).told = s.gLimit p g) ∧
  -- SLOT_CRED_REFRESH tells it again.
  (∀ (s : State) (p : Plane) (g : Fin 1024), s.colOn p = true → s.gState p g = 1 → ∃ t, exec (.slotCredRefresh p g)
      s = .next t ∧ (t.grp p g).told = s.gLimit p g) ∧
  -- An abort from the parent aborts the group with its code and ORIGIN 0.
  (∀ (s : State) (p : Plane) (k : Packet) (g : Fin 1024) (h : ColHdr), s.colOn p = true → crcOk k = true → colHdr?
      k.payload = some h → h.group = g.val → s.gState p g = 1 → h.elems = 1 → s.gRoot p g = false → k.hdr.src =
      s.gParent p g → ∃ t, exec (.colCtl p k) s = .next t ∧ t.gState p g = 2 ∧ t.fld p Fld.COL_GRP_STAT.ABORT_CODE g
      = h.child % 16 ∧ t.flag p Fld.COL_GRP_STAT.ORIGIN g = false)

/-- Groups of the collective engine. Each command answers a next state under the stated conditions, and the next
state holds what is named: COLLECTIVE_TIMEOUT with open work aborts the group with code 1 and ORIGIN 1;
GROUP_ACTIVATE starts epoch 0 at chunk 0 with the children then configured and counts one group more;
GROUP_DEACTIVATE empties the group; GROUP_ABORT aborts with code 6 and ORIGIN 1; REFORM starts the next epoch,
modulo 256, at chunk 0; ENGINE_STATE_FLIT that says the far engine is out aborts a group that spans both planes;
ENGINE_STATE_SEND sends the engine's state and its number of active groups. (06_collectives.md, Epochs;
06_collectives.md, Failures and aborts; 06_collectives.md, Groups, trees and members) -/
def Obligations.CollectiveGroups : Prop :=
  -- COLLECTIVE_TIMEOUT with open work aborts the group with code 1 and ORIGIN 1.
  (∀ (s : State) (p : Plane) (g : Fin 1024), s.colOn p = true → s.gState p g = 1 → s.openWork p g = true → ∃ t, exec
      (.collectiveTimeout p g) s = .next t ∧ t.gState p g = 2 ∧ t.fld p Fld.COL_GRP_STAT.ABORT_CODE g = 1 ∧ t.flag p
      Fld.COL_GRP_STAT.ORIGIN g = true) ∧
  -- GROUP_ACTIVATE starts epoch 0 at chunk 0 with the children then configured and counts one group more.
  (∀ (s : State) (p : Plane) (g : Fin 1024), s.colOn p = true → s.flag p Fld.COL_GRP.VALID g = true → s.gState p g =
      0 → s.fld p Fld.COL_ACT_CNT.N 0 < 64 → s.fld p Fld.COL_GRP.ALLOC_CHUNKS g * s.gSlots p g ≤ s.fld p
      Fld.COL_SLOT_FREE.N 0 → s.fld p Fld.COL_GRP.ALLOC_CHUNKS g ≤ s.fld p Fld.COL_REC_FREE.N 0 → s.gExhaust p g = 0
      → ∃ t, exec (.groupActivate p g) s = .next t ∧ t.gState p g = 1 ∧ t.gEpoch p g = 0 ∧ t.gBase p g = 0 ∧ t.fld p
      Fld.COL_ACT_CNT.N 0 = s.fld p Fld.COL_ACT_CNT.N 0 + 1 ∧ (t.grp p g).kids = s.childrenNow p g) ∧
  -- GROUP_DEACTIVATE empties the group.
  (∀ (s : State) (p : Plane) (g : Fin 1024), s.colOn p = true → (s.gState p g = 1 ∨ s.gState p g = 2) → ∃ t, exec
      (.groupDeactivate p g) s = .next t ∧ t.gState p g = 0 ∧ t.grp p g = {}) ∧
  -- GROUP_ABORT aborts with code 6 and ORIGIN 1.
  (∀ (s : State) (p : Plane) (g : Fin 1024), s.colOn p = true → s.gState p g = 1 → ∃ t, exec (.groupAbort p g) s =
      .next t ∧ t.gState p g = 2 ∧ t.fld p Fld.COL_GRP_STAT.ABORT_CODE g = 6 ∧ t.flag p Fld.COL_GRP_STAT.ORIGIN g =
      true) ∧
  -- REFORM starts the next epoch, modulo 256, at chunk 0.
  (∀ (s : State) (p : Plane) (g : Fin 1024), s.colOn p = true → s.gState p g = 2 → ∃ t, exec (.reform p g) s = .next
      t ∧ t.gState p g = 1 ∧ t.gEpoch p g = (s.gEpoch p g + 1) % 256 ∧ t.gBase p g = 0) ∧
  -- ENGINE_STATE_FLIT that says the far engine is out aborts a group that spans both planes.
  (∀ (s : State) (p : Plane) (g : Fin 1024), s.live p = true → s.halUp p = true → s.gState p g = 1 → s.flag p
      Fld.COL_GRP.XPLANE g = true → ∃ t, exec (.engineStateFlit p false) s = .next t ∧ t.gState p g = 2) ∧
  -- ENGINE_STATE_SEND sends the engine's state and its number of active groups.
  (∀ (s : State) (p : Plane), s.live p = true → s.halUp p = true → ∃ t, exec (.engineStateSend p) s = .next t ∧
      (t.pl p).col.told = s.colOn p ∧ t.out = .halCtl p 3 ([BitVec.ofNat 8 (b2n (s.colOn p))] ++ leBytes 2 ((s.rows
      p .COL_GRP_STAT 0).filter (fun g => s.gState p g == 1)).length ++ List.replicate 252 0) :: s.out)

/-- Layers and packets of the dispatch engine. Each command answers a next state under the stated conditions, and
the next state holds what is named: the first TOKEN fragment of a token opens its record; EXPERT_OUT of a live
choice is kept with the record; LAYER_TIMEOUT aborts the epoch with code 1; LAYER_ACTIVATE starts epoch 0 and counts
one layer more; LAYER_DEACTIVATE empties the layer; LAYER_ABORT aborts with code 3; LAYER_REFORM starts the next
epoch, modulo 256. (07_expert_dispatch.md, Dispatch; 07_expert_dispatch.md, Combine; 07_expert_dispatch.md, Epochs,
allowance and pacing; 07_expert_dispatch.md, Failures and aborts) -/
def Obligations.ExpertLayers : Prop :=
  -- The first TOKEN fragment of a token opens its record.
  (∀ (s : State) (p : Plane) (k : Packet) (l : Fin 64) (h : DspHdr), s.dspOn p = true → crcOk k = true → dspHdr?
      k.payload = some h → h.layer = l.val → s.flag p Fld.DSP_LYR.VALID l = true → (s.origins p l).contains
      k.hdr.src = true → s.lState p l = 1 → h.epoch = s.lEpoch p l → bit 7 h.flags = false → (s.layerRecs p l).find?
      (fun e => e.2.origin == k.hdr.src && e.2.token == h.token) = none → s.tokenOk p h k.hdr.src k.payload none =
      true → ((s.layerRecs p l).filter (fun e => e.2.origin == k.hdr.src)).length < s.fld p Fld.DSP_LYR.TOK_MAX l →
      (s.lyr p l).closed = false → (s.origins p l).all (fun o => (s.lyr p l).lastBy.contains o) = false → ∃ t, exec
      (.token p k []) s = .next t ∧ ∃ n r, t.rec? p n = some r ∧ r.layer = l ∧ r.origin = k.hdr.src ∧ r.token =
      h.token ∧ h.frag ∈ r.arrived) ∧
  -- EXPERT_OUT of a live choice is kept with the record.
  (∀ (s : State) (p : Plane) (k : Packet) (l : Fin 64) (h : DspHdr) (r : TokRec) (rd : Nat), s.dspOn p = true →
      crcOk k = true → dspHdr? k.payload = some h → h.layer = l.val → s.lState p l = 1 → s.rec? p h.tref = some r →
      r.fate.getD h.j .dropped = .sent rd → rd = h.round → k.hdr.src = (s.lyr p l).mapEp (expertOf (r.route.getD h.j
      0)) → h.epoch = s.lEpoch p l → r.layer = l → s.recDone p r = false → r.arrived.contains h.frag = true →
      r.outs.contains (h.j, h.frag) = false → (k.payload.length = if bit 4 h.flags then 16 else 16 + wireBytes
      (s.fld p Fld.DSP_LYR.Y_FMT l) 64 (s.lE p l)) → (s.lyr p l).closed = false → (s.origins p l).all (fun o =>
      (s.lyr p l).lastBy.contains o) = false → ∃ t, exec (.expertOut p k []) s = .next t ∧ ∃ r, t.rec? p h.tref =
      some r ∧ (h.j, h.frag) ∈ r.outs) ∧
  -- LAYER_TIMEOUT aborts the epoch with code 1.
  (∀ (s : State) (p : Plane) (l : Fin 64), s.dspOn p = true → (s.lyr p l).used = true → s.lState p l = 1 → ∃ t, exec
      (.layerTimeout p l) s = .next t ∧ t.lState p l = 2 ∧ t.fld p Fld.DSP_LYR_STAT.ABORT_CODE l = 1) ∧
  -- LAYER_ACTIVATE starts epoch 0 and counts one layer more.
  (∀ (s : State) (p : Plane) (l : Fin 64), s.dspOn p = true → s.flag p Fld.DSP_LYR.VALID l = true → s.lState p l = 0
      → s.fld p Fld.DSP_ACT_CNT.N 0 < 16 → s.fld p Fld.DSP_LYR.ORIG_COUNT l * s.fld p Fld.DSP_LYR.TOK_MAX l ≤ s.fld
      p Fld.DSP_REC_FREE.N 0 → s.fld p Fld.DSP_LYR.ORIG_COUNT l * s.fld p Fld.DSP_LYR.TOK_MAX l * (s.lFrags p l *
      ((s.lE p l + 63) / 64)) ≤ s.fld p Fld.COL_SLOT_FREE.N 0 → s.lPolicy p l ≠ 1 → ∃ t, exec (.layerActivate p l) s
      = .next t ∧ t.lState p l = 1 ∧ t.lEpoch p l = 0 ∧ t.fld p Fld.DSP_ACT_CNT.N 0 = s.fld p Fld.DSP_ACT_CNT.N 0 +
      1) ∧
  -- LAYER_DEACTIVATE empties the layer.
  (∀ (s : State) (p : Plane) (l : Fin 64), s.dspOn p = true → (s.lState p l = 1 ∨ s.lState p l = 2) → ∃ t, exec
      (.layerDeactivate p l) s = .next t ∧ t.lState p l = 0 ∧ t.lyr p l = {}) ∧
  -- LAYER_ABORT aborts with code 3.
  (∀ (s : State) (p : Plane) (l : Fin 64), s.dspOn p = true → s.lState p l = 1 → ∃ t, exec (.layerAbort p l) s =
      .next t ∧ t.lState p l = 2 ∧ t.fld p Fld.DSP_LYR_STAT.ABORT_CODE l = 3) ∧
  -- LAYER_REFORM starts the next epoch, modulo 256.
  (∀ (s : State) (p : Plane) (l : Fin 64), s.dspOn p = true → s.lState p l = 2 → ∃ t, exec (.layerReform p l) s =
      .next t ∧ t.lState p l = 1 ∧ t.lEpoch p l = (s.lEpoch p l + 1) % 256)

/-- Memory operations on local memory. Each operation that passes the checks of Table 8.8 and names local memory
answers a next state in which each pool is the old one with the stated write, so that every other byte reads as
before: PUT writes its data at the translated place and nothing else of either pool; GET answers the bytes there and
changes neither pool; PUT_RED writes the reduction of what is there with its data; FADD_I writes the sum; FADD_F
writes the floating sum; CAS writes what its comparison gives; SWAP writes the new value; AMAX writes the larger;
AMIN writes the smaller. (08_memory_and_windows.md, Memory operations; 08_memory_and_windows.md, Global windows) -/
def Obligations.MemoryOperations : Prop :=
  -- PUT writes its data at the translated place and nothing else of either pool.
  (∀ (s : State) (p : Plane) (k : Packet) (x y : Place), s.memOn p = true → k.hdr.op = 0x10 → crcOk k = true →
      s.memCheck p 0x10 k.payload = .ok x y → x.local = true → ∃ t, exec (.put p k []) s = .next t ∧ t = ((s.count p
      Fld.GWM_OPS_CNT.N 0).poolWrite p x (k.payload.drop 16)).cpl p 2 none k.hdr stOK [] ∧ (t.pl p).mem.sram = (if
      x.lp then (s.pl p).mem.sram else (s.pl p).mem.sram.write x.at_ (k.payload.drop 16)) ∧ (t.pl p).mem.lp = (if
      x.lp then (s.pl p).mem.lp.write x.at_ (k.payload.drop 16) else (s.pl p).mem.lp)) ∧
  -- GET answers the bytes there and changes neither pool.
  (∀ (s : State) (p : Plane) (k : Packet) (x y : Place), s.memOn p = true → k.hdr.op = 0x11 → crcOk k = true →
      s.memCheck p 0x11 k.payload = .ok x y → x.local = true → ∃ t, exec (.get p k []) s = .next t ∧ t = (s.count p
      Fld.GWM_OPS_CNT.N 0).cpl p 2 none k.hdr stOK (s.poolRead p x (rangeLen 0x11 (memHdr k.payload))) ∧ (t.pl
      p).mem.sram = (s.pl p).mem.sram ∧ (t.pl p).mem.lp = (s.pl p).mem.lp) ∧
  -- PUT_RED writes the reduction of what is there with its data.
  (∀ (s : State) (p : Plane) (k : Packet) (x y : Place), s.memOn p = true → k.hdr.op = 0x12 → crcOk k = true →
      s.memCheck p 0x12 k.payload = .ok x y → x.local = true → ∃ t, exec (.putRed p k []) s = .next t ∧ t =
      (((s.count p Fld.GWM_OPS_CNT.N 0).poolWrite p x (reduceBytes (memHdr k.payload).rfmt (memHdr k.payload).rop
      (s.poolRead p x (rangeLen 0x12 (memHdr k.payload))) (k.payload.drop 16)).1).countN p Fld.GWM_SAT_CNT.N 0
      (reduceBytes (memHdr k.payload).rfmt (memHdr k.payload).rop (s.poolRead p x (rangeLen 0x12 (memHdr
      k.payload))) (k.payload.drop 16)).2).cpl p 2 none k.hdr stOK [] ∧ (t.pl p).mem.sram = (if x.lp then (s.pl
      p).mem.sram else (s.pl p).mem.sram.write x.at_ ((reduceBytes (memHdr k.payload).rfmt (memHdr k.payload).rop
      (s.poolRead p x (rangeLen 0x12 (memHdr k.payload))) (k.payload.drop 16)).1)) ∧ (t.pl p).mem.lp = (if x.lp then
      (s.pl p).mem.lp.write x.at_ ((reduceBytes (memHdr k.payload).rfmt (memHdr k.payload).rop (s.poolRead p x
      (rangeLen 0x12 (memHdr k.payload))) (k.payload.drop 16)).1) else (s.pl p).mem.lp)) ∧
  -- FADD_I writes the sum.
  (∀ (s : State) (p : Plane) (k : Packet) (x y : Place), s.memOn p = true → k.hdr.op = 0x18 → crcOk k = true →
      s.memCheck p 0x18 k.payload = .ok x y → x.local = true → ∃ t, exec (.faddI p k []) s = .next t ∧ t = ((s.count
      p Fld.GWM_OPS_CNT.N 0).poolWrite p x (leBytes (rangeLen 0x18 (memHdr k.payload)) (atomicNew 0x18 (memHdr
      k.payload) (leNat (s.poolRead p x (rangeLen 0x18 (memHdr k.payload)))) k.payload))).cpl p 2 none k.hdr stOK
      (s.poolRead p x (rangeLen 0x18 (memHdr k.payload))) ∧ (t.pl p).mem.sram = (if x.lp then (s.pl p).mem.sram else
      (s.pl p).mem.sram.write x.at_ (leBytes (rangeLen 0x18 (memHdr k.payload)) (atomicNew 0x18 (memHdr k.payload)
      (leNat (s.poolRead p x (rangeLen 0x18 (memHdr k.payload)))) k.payload))) ∧ (t.pl p).mem.lp = (if x.lp then
      (s.pl p).mem.lp.write x.at_ (leBytes (rangeLen 0x18 (memHdr k.payload)) (atomicNew 0x18 (memHdr k.payload)
      (leNat (s.poolRead p x (rangeLen 0x18 (memHdr k.payload)))) k.payload)) else (s.pl p).mem.lp)) ∧
  -- FADD_F writes the floating sum.
  (∀ (s : State) (p : Plane) (k : Packet) (x y : Place), s.memOn p = true → k.hdr.op = 0x19 → crcOk k = true →
      s.memCheck p 0x19 k.payload = .ok x y → x.local = true → ∃ t, exec (.faddF p k []) s = .next t ∧ t = ((s.count
      p Fld.GWM_OPS_CNT.N 0).poolWrite p x (leBytes (rangeLen 0x19 (memHdr k.payload)) (atomicNew 0x19 (memHdr
      k.payload) (leNat (s.poolRead p x (rangeLen 0x19 (memHdr k.payload)))) k.payload))).cpl p 2 none k.hdr stOK
      (s.poolRead p x (rangeLen 0x19 (memHdr k.payload))) ∧ (t.pl p).mem.sram = (if x.lp then (s.pl p).mem.sram else
      (s.pl p).mem.sram.write x.at_ (leBytes (rangeLen 0x19 (memHdr k.payload)) (atomicNew 0x19 (memHdr k.payload)
      (leNat (s.poolRead p x (rangeLen 0x19 (memHdr k.payload)))) k.payload))) ∧ (t.pl p).mem.lp = (if x.lp then
      (s.pl p).mem.lp.write x.at_ (leBytes (rangeLen 0x19 (memHdr k.payload)) (atomicNew 0x19 (memHdr k.payload)
      (leNat (s.poolRead p x (rangeLen 0x19 (memHdr k.payload)))) k.payload)) else (s.pl p).mem.lp)) ∧
  -- CAS writes what its comparison gives.
  (∀ (s : State) (p : Plane) (k : Packet) (x y : Place), s.memOn p = true → k.hdr.op = 0x1A → crcOk k = true →
      s.memCheck p 0x1A k.payload = .ok x y → x.local = true → ∃ t, exec (.cas p k []) s = .next t ∧ t = ((s.count p
      Fld.GWM_OPS_CNT.N 0).poolWrite p x (leBytes (rangeLen 0x1A (memHdr k.payload)) (atomicNew 0x1A (memHdr
      k.payload) (leNat (s.poolRead p x (rangeLen 0x1A (memHdr k.payload)))) k.payload))).cpl p 2 none k.hdr stOK
      (s.poolRead p x (rangeLen 0x1A (memHdr k.payload))) ∧ (t.pl p).mem.sram = (if x.lp then (s.pl p).mem.sram else
      (s.pl p).mem.sram.write x.at_ (leBytes (rangeLen 0x1A (memHdr k.payload)) (atomicNew 0x1A (memHdr k.payload)
      (leNat (s.poolRead p x (rangeLen 0x1A (memHdr k.payload)))) k.payload))) ∧ (t.pl p).mem.lp = (if x.lp then
      (s.pl p).mem.lp.write x.at_ (leBytes (rangeLen 0x1A (memHdr k.payload)) (atomicNew 0x1A (memHdr k.payload)
      (leNat (s.poolRead p x (rangeLen 0x1A (memHdr k.payload)))) k.payload)) else (s.pl p).mem.lp)) ∧
  -- SWAP writes the new value.
  (∀ (s : State) (p : Plane) (k : Packet) (x y : Place), s.memOn p = true → k.hdr.op = 0x1B → crcOk k = true →
      s.memCheck p 0x1B k.payload = .ok x y → x.local = true → ∃ t, exec (.swap p k []) s = .next t ∧ t = ((s.count
      p Fld.GWM_OPS_CNT.N 0).poolWrite p x (leBytes (rangeLen 0x1B (memHdr k.payload)) (atomicNew 0x1B (memHdr
      k.payload) (leNat (s.poolRead p x (rangeLen 0x1B (memHdr k.payload)))) k.payload))).cpl p 2 none k.hdr stOK
      (s.poolRead p x (rangeLen 0x1B (memHdr k.payload))) ∧ (t.pl p).mem.sram = (if x.lp then (s.pl p).mem.sram else
      (s.pl p).mem.sram.write x.at_ (leBytes (rangeLen 0x1B (memHdr k.payload)) (atomicNew 0x1B (memHdr k.payload)
      (leNat (s.poolRead p x (rangeLen 0x1B (memHdr k.payload)))) k.payload))) ∧ (t.pl p).mem.lp = (if x.lp then
      (s.pl p).mem.lp.write x.at_ (leBytes (rangeLen 0x1B (memHdr k.payload)) (atomicNew 0x1B (memHdr k.payload)
      (leNat (s.poolRead p x (rangeLen 0x1B (memHdr k.payload)))) k.payload)) else (s.pl p).mem.lp)) ∧
  -- AMAX writes the larger.
  (∀ (s : State) (p : Plane) (k : Packet) (x y : Place), s.memOn p = true → k.hdr.op = 0x1C → crcOk k = true →
      s.memCheck p 0x1C k.payload = .ok x y → x.local = true → ∃ t, exec (.amax p k []) s = .next t ∧ t = ((s.count
      p Fld.GWM_OPS_CNT.N 0).poolWrite p x (leBytes (rangeLen 0x1C (memHdr k.payload)) (atomicNew 0x1C (memHdr
      k.payload) (leNat (s.poolRead p x (rangeLen 0x1C (memHdr k.payload)))) k.payload))).cpl p 2 none k.hdr stOK
      (s.poolRead p x (rangeLen 0x1C (memHdr k.payload))) ∧ (t.pl p).mem.sram = (if x.lp then (s.pl p).mem.sram else
      (s.pl p).mem.sram.write x.at_ (leBytes (rangeLen 0x1C (memHdr k.payload)) (atomicNew 0x1C (memHdr k.payload)
      (leNat (s.poolRead p x (rangeLen 0x1C (memHdr k.payload)))) k.payload))) ∧ (t.pl p).mem.lp = (if x.lp then
      (s.pl p).mem.lp.write x.at_ (leBytes (rangeLen 0x1C (memHdr k.payload)) (atomicNew 0x1C (memHdr k.payload)
      (leNat (s.poolRead p x (rangeLen 0x1C (memHdr k.payload)))) k.payload)) else (s.pl p).mem.lp)) ∧
  -- AMIN writes the smaller.
  (∀ (s : State) (p : Plane) (k : Packet) (x y : Place), s.memOn p = true → k.hdr.op = 0x1D → crcOk k = true →
      s.memCheck p 0x1D k.payload = .ok x y → x.local = true → ∃ t, exec (.amin p k []) s = .next t ∧ t = ((s.count
      p Fld.GWM_OPS_CNT.N 0).poolWrite p x (leBytes (rangeLen 0x1D (memHdr k.payload)) (atomicNew 0x1D (memHdr
      k.payload) (leNat (s.poolRead p x (rangeLen 0x1D (memHdr k.payload)))) k.payload))).cpl p 2 none k.hdr stOK
      (s.poolRead p x (rangeLen 0x1D (memHdr k.payload))) ∧ (t.pl p).mem.sram = (if x.lp then (s.pl p).mem.sram else
      (s.pl p).mem.sram.write x.at_ (leBytes (rangeLen 0x1D (memHdr k.payload)) (atomicNew 0x1D (memHdr k.payload)
      (leNat (s.poolRead p x (rangeLen 0x1D (memHdr k.payload)))) k.payload))) ∧ (t.pl p).mem.lp = (if x.lp then
      (s.pl p).mem.lp.write x.at_ (leBytes (rangeLen 0x1D (memHdr k.payload)) (atomicNew 0x1D (memHdr k.payload)
      (leNat (s.poolRead p x (rangeLen 0x1D (memHdr k.payload)))) k.payload)) else (s.pl p).mem.lp))

/-- Copies, forwards and the units of the memory complex. Each command answers a next state under the stated
conditions, and the next state holds what is named: COPY between local places starts with its first piece read,
unless that read meets an error; COPY from remote memory starts with a GET of its first piece sent to the source;
COPY_PIECE_DONE writes the piece and closes it; FWD_TIMEOUT of a forwarded operation counts in GWM_FWD_TMO and frees
its proxy; SCRUB_TICK that meets a correctable error counts it; COLUMN_REPAIR_DONE of a column with enough errors
and a spare left counts the repair and keeps it; TILE_FAIL fails the tile and clears its TILE_OK; LP_DEVICE_FAIL
clears INIT_OK and sets FAIL; SRAM_ZERO_DONE shows it and the pool reads as zero; LP_INIT_DONE with success sets
INIT_OK and clears FAIL; LP_ZERO_DONE shows it and the pool reads as zero; PPR_START names the device and makes it
busy. (08_memory_and_windows.md, Memory operations; 08_memory_and_windows.md, Forwarding; 08_memory_and_windows.md,
Errors and repair; 08_memory_and_windows.md, LPDDR5X; 08_memory_and_windows.md, Bonded SRAM layout) -/
def Obligations.MemoryCopiesAndUnits : Prop :=
  -- COPY between local places starts with its first piece read, unless that read meets an error.
  (∀ (s : State) (p : Plane) (k : Packet) (x y : Place), s.memOn p = true → k.hdr.op = 0x13 → crcOk k = true →
      s.memCheck p 0x13 k.payload = .ok x y → x.local = true → y.local = true → s.copyUsed p < s.copyMax p → (memHdr
      k.payload).size ≤ 4096 - wordOf 16 8 k.payload % 4096 → 1 ≤ (memHdr k.payload).size → s.rangeBad p x (memHdr
      k.payload).size false = false → (∀ m ∈ (s.pl p).mem.lpDevs, m < 16) → ∃ t, exec (.copy p k) s = .next t ∧
      ((s.eccRead p x (memHdr k.payload).size false (Config.readErrs s.free)).1 = false ∨ t.copy? p (s.pl
      p).mem.nextId = some ⟨k.hdr, x, y, wordOf 16 8 k.payload, (memHdr k.payload).size, 1, [0], mset [] 0
      (s.poolRead p x (memHdr k.payload).size) [], stOK, false⟩)) ∧
  -- COPY from remote memory starts with a GET of its first piece sent to the source.
  (∀ (s : State) (p : Plane) (k : Packet) (x y : Place), s.memOn p = true → k.hdr.op = 0x13 → crcOk k = true →
      s.memCheck p 0x13 k.payload = .ok x y → x.local = false → s.copyUsed p < s.copyMax p → s.proxyUsed p < 16384 →
      s.epWindowed p 2 = true → (memHdr k.payload).size ≤ 4096 - wordOf 16 8 k.payload % 4096 → 1 ≤ (memHdr
      k.payload).size → ∃ t, exec (.copy p k) s = .next t ∧ t.copy? p (s.pl p).mem.nextId = some ⟨k.hdr, x, y,
      wordOf 16 8 k.payload, (memHdr k.payload).size, 1, [0], [], stOK, false⟩ ∧ ∃ q, mget none ((s.pl p).mem.nextId
      + 1) (t.pl p).mem.proxies = some q ∧ q.what = .copyGet (s.pl p).mem.nextId 0 ∧ q.pkt.hdr.dst = x.tgt) ∧
  -- COPY_PIECE_DONE writes the piece and closes it.
  (∀ (s : State) (p : Plane) (id i : Nat) (c : CopySt), s.memOn p = true → s.copy? p id = some c → c.prog.contains i
      = true → c.dst.local = true → mget [] i c.data ≠ [] → s.rangeBad p (c.dst.plus (pieceOff c.daddr i)) (mget []
      i c.data).length true = false → c.prog.filter (· ≠ i) ≠ [] → c.size ≤ pieceOff c.daddr c.next → c.status =
      stOK → c.lost = false → (s.pl p).mem.waits = [] → ∃ t, exec (.copyPieceDone p id i []) s = .next t ∧ t.copy? p
      id = some { c with prog := c.prog.filter (· ≠ i), data := c.data.filter (fun e => e.1 ≠ i) } ∧ (c.dst.lp =
      false → (t.pl p).mem.sram = (s.pl p).mem.sram.write (c.dst.at_ + pieceOff c.daddr i) (mget [] i c.data))) ∧
  -- FWD_TIMEOUT of a forwarded operation counts in GWM_FWD_TMO and frees its proxy.
  (∀ (s : State) (p : Plane) (tag : BitVec 16) (id : Nat) (d : EpId) (q : Proxy), s.memOn p = true → mget none
      tag.toNat (s.ep p 2).reqs = some ⟨.forward id, d⟩ → mget none id (s.pl p).mem.proxies = some q → q.what = .op
      → (s.dstWin p 2 q.hdr.src).held = [] → (s.pl p).mem.copies = [] → (s.pl p).mem.waits = [] → ∃ t, exec
      (.fwdTimeout p tag) s = .next t ∧ t.staged p Fld.GWM_FWD_TMO.N 0 = satInc 32 (s.staged p Fld.GWM_FWD_TMO.N 0)
      ∧ mget none id (t.pl p).mem.proxies = none) ∧
  -- SCRUB_TICK that meets a correctable error counts it.
  (∀ (s : State) (p : Plane) (u : Fin 16) (a : BitVec 40) (sub col : Byte), s.live p = true → s.flag p
      Fld.TOP_PG_STAT.MEM_OK 0 = true → s.fld p Fld.MEM_SCRUB_CFG.SRAM_SCRUB 0 ≠ 0 → a.toNat < 64 * blk →
      s.tileFailed p u = false → ∃ t, exec (.scrubTick p false u a sub col 1) s = .next t ∧ t.staged p
      Fld.MEM_SRAM_CE.N 0 = satInc 32 (s.staged p Fld.MEM_SRAM_CE.N 0)) ∧
  -- COLUMN_REPAIR_DONE of a column with enough errors and a spare left counts the repair and keeps it.
  (∀ (s : State) (p : Plane) (u : Fin 16) (sub col : Byte), s.live p = true → s.tileFailed p u = false → s.fld p
      Fld.MEM_ECC_CFG.REPAIR_CE 0 ≠ 0 → s.fld p Fld.MEM_ECC_CFG.REPAIR_CE 0 ≤ mget 0 (colKey u sub.toNat col.toNat)
      (s.pl p).mem.colCe → mget 0 (256 * u.val + sub.toNat) (s.pl p).mem.spares < 2 → ∃ t, exec (.columnRepairDone p
      u sub col) s = .next t ∧ t.staged p Fld.MEM_REPAIR_CNT.N 0 = satInc 32 (s.staged p Fld.MEM_REPAIR_CNT.N 0) ∧
      (t.pl p).mem.fixed = (s.pl p).mem.fixed ++ [colKey u sub.toNat col.toNat]) ∧
  -- TILE_FAIL fails the tile and clears its TILE_OK.
  (∀ (s : State) (p : Plane) (u : Fin 16), s.live p = true → s.tileFailed p u = false → ∃ t, exec (.tileFail p u) s
      = .next t ∧ t.tileFailed p u = true ∧ bit u (t.fld p Fld.TOP_UNIT_STAT.TILE_OK 0) = false) ∧
  -- LP_DEVICE_FAIL clears INIT_OK and sets FAIL.
  (∀ (s : State) (p : Plane) (m : Fin 16), s.live p = true → s.flag p Fld.MEM_LP_DEV.INIT_OK m = true → s.flag p
      Fld.MEM_LP_DEV.FAIL m = false → ∃ t, exec (.lpDeviceFail p m) s = .next t ∧ t.flag p Fld.MEM_LP_DEV.INIT_OK m
      = false ∧ t.flag p Fld.MEM_LP_DEV.FAIL m = true) ∧
  -- SRAM_ZERO_DONE shows it and the pool reads as zero.
  (∀ (s : State) (p : Plane), s.live p = true → s.flag p Fld.MEM_STAT.SRAM_ZERO 0 = false → ∃ t, exec (.sramZeroDone
      p) s = .next t ∧ t.flag p Fld.MEM_STAT.SRAM_ZERO 0 = true ∧ (t.pl p).mem.sram = [] ∧ (t.pl p).mem.poison = []) ∧
  -- LP_INIT_DONE with success sets INIT_OK and clears FAIL.
  (∀ (s : State) (p : Plane) (m : Fin 16) (bad : BitVec 8), s.live p = true → (s.pl p).mem.lpBusy.contains m.val =
      true → ∃ t, exec (.lpInitDone p m true bad) s = .next t ∧ t.flag p Fld.MEM_LP_DEV.INIT_OK m = true ∧ t.flag p
      Fld.MEM_LP_DEV.FAIL m = false) ∧
  -- LP_ZERO_DONE shows it and the pool reads as zero.
  (∀ (s : State) (p : Plane), s.live p = true → s.flag p Fld.MEM_STAT.LP_OK 0 = true → s.flag p Fld.MEM_STAT.LP_ZERO
      0 = false → ∃ t, exec (.lpZeroDone p) s = .next t ∧ t.flag p Fld.MEM_STAT.LP_ZERO 0 = true ∧ (t.pl p).mem.lp =
      [] ∧ (t.pl p).mem.lpPois = []) ∧
  -- PPR_START names the device and makes it busy.
  (∀ (s : State) (p : Plane) (m : Fin 16), s.live p = true → s.flag p Fld.MEM_LP_DEV.INIT_OK m = false → ∃ t, exec
      (.pprStart p m) s = .next t ∧ t.fld p Fld.MEM_PPR_CTL.DEV 0 = m.val ∧ t.flag p Fld.MEM_PPR_CTL.START 0 = true
      ∧ (t.pl p).mem.lpBusy.contains m.val = true)

/-- Boundary scan instructions. Each command answers a next state under the stated conditions, and the next state
holds what is named: EXTEST in reset drives the pins and shifts the whole boundary register; outside reset it acts
as BYPASS; EXTEST_PULSE in reset likewise; outside reset likewise; EXTEST_TRAIN in reset likewise; outside reset
likewise; SAMPLE_PRELOAD stores the cells and captures as many; IDCODE shifts out 0x11152593; CLAMP selects the
bypass register and in reset drives the pins; HIGHZ selects the bypass register and in reset floats the pins; BYPASS
shifts one 0. (12_test_instrument.md, Boundary scan) -/
def Obligations.BoundaryScan : Prop :=
  -- EXTEST in reset drives the pins and shifts the whole boundary register.
  (∀ (s : State), s.pkg.resetN = false → ∃ t, exec (.extest) s = .next t ∧ t.pkg.ir = 0x00 ∧ t.pinsDriven = true ∧
      t.pkg.tdo.length = s.pkg.boundary.length) ∧
  -- Outside reset it acts as BYPASS.
  (∀ (s : State), s.pkg.resetN = true → ∃ t, exec (.extest) s = .next t ∧ t = s.modPkg (fun x =>
      { x with ir := 0x00, tdo := [false] })) ∧
  -- EXTEST_PULSE in reset likewise.
  (∀ (s : State), s.pkg.resetN = false → ∃ t, exec (.extestPulse) s = .next t ∧ t.pkg.ir = 0x08 ∧ t.pinsDriven =
      true ∧ t.pkg.tdo.length = s.pkg.boundary.length) ∧
  -- Outside reset likewise.
  (∀ (s : State), s.pkg.resetN = true → ∃ t, exec (.extestPulse) s = .next t ∧ t = s.modPkg (fun x =>
      { x with ir := 0x08, tdo := [false] })) ∧
  -- EXTEST_TRAIN in reset likewise.
  (∀ (s : State), s.pkg.resetN = false → ∃ t, exec (.extestTrain) s = .next t ∧ t.pkg.ir = 0x09 ∧ t.pinsDriven =
      true ∧ t.pkg.tdo.length = s.pkg.boundary.length) ∧
  -- Outside reset likewise.
  (∀ (s : State), s.pkg.resetN = true → ∃ t, exec (.extestTrain) s = .next t ∧ t = s.modPkg (fun x =>
      { x with ir := 0x09, tdo := [false] })) ∧
  -- SAMPLE_PRELOAD stores the cells and captures as many.
  (∀ (s : State) (cells : List Bool), ∃ t, exec (.samplePreload cells) s = .next t ∧ t.pkg.boundary = cells ∧
      t.pkg.ir = 0x01 ∧ t.pkg.tdo.length = cells.length) ∧
  -- IDCODE shifts out 0x11152593.
  (∀ (s : State), ∃ t, exec (.idcode) s = .next t ∧ t = s.modPkg (fun x =>
      { x with ir := 0x02, tdo := bitsOut 32 0x11152593 })) ∧
  -- CLAMP selects the bypass register and in reset drives the pins.
  (∀ (s : State), ∃ t, exec (.clamp) s = .next t ∧ t = s.modPkg (fun x => { x with ir := 0x03, tdo := [false] }) ∧
      (s.pkg.resetN = false → t.pinsDriven = true)) ∧
  -- HIGHZ selects the bypass register and in reset floats the pins.
  (∀ (s : State), ∃ t, exec (.highz) s = .next t ∧ t = s.modPkg (fun x => { x with ir := 0x04, tdo := [false] }) ∧
      (s.pkg.resetN = false → t.pinsHighz = true)) ∧
  -- BYPASS shifts one 0.
  (∀ (s : State), ∃ t, exec (.bypass) s = .next t ∧ t = s.modPkg (fun x => { x with ir := 0xFF, tdo := [false] }))

/-- Reading a frozen device through the test port. While the device is frozen each command answers a next state that
holds what is named, and where the statement gives the whole state nothing else changes: FRZ_STATUS shifts out the
freeze status; FRZ_DIR shifts out the directory of chains; FRZ_CHAIN shifts out as many bits as the chain has;
FRZ_MEM of a tile shifts out the four bytes of the SRAM pool; FRZ_REG shifts out the register's word and changes
nothing else, a counter that a read clears included. (11_state_and_change.md, Freeze) -/
def Obligations.FreezeReadOut : Prop :=
  -- FRZ_STATUS shifts out the freeze status.
  (∀ (s : State), (s.hoist.epc.frozen || s.fly.epc.frozen) = true → ∃ t, exec (.frzStatus) s = .next t ∧ t =
      s.modPkg (fun x => { x with ir := 0xC0, tdo := bitsOut 128 s.frzStatusWord })) ∧
  -- FRZ_DIR shifts out the directory of chains.
  (∀ (s : State), (s.hoist.epc.frozen || s.fly.epc.frozen) = true → ∃ t, exec (.frzDir) s = .next t ∧ t.pkg.ir =
      0xC1 ∧ t.pkg.tdo.take (64 * Config.scanDir.length) = Config.scanDir.flatMap (fun e => bitsOut 64 e.toNat)) ∧
  -- FRZ_CHAIN shifts out as many bits as the chain has.
  (∀ (s : State) (sel : BitVec 17), (s.hoist.epc.frozen || s.fly.epc.frozen) = true → ∃ t, exec (.frzChain sel) s =
      .next t ∧ t.pkg.ir = 0xC2 ∧ t.pkg.tdo.length = chainLen (bits 16 16 sel.toNat) (bits 15 0 sel.toNat)) ∧
  -- FRZ_MEM of a tile shifts out the four bytes of the SRAM pool.
  (∀ (s : State) (sel : BitVec 64) (n : Nat), (s.hoist.epc.frozen || s.fly.epc.frozen) = true → 2 ≤ bits 62 56
      sel.toNat → bits 62 56 sel.toNat ≤ 17 → s.tileRegion (if bit 63 sel.toNat then .fly else .hoist) (bits 62 56
      sel.toNat - 2) (4 * bits 37 0 sel.toNat) = (3, n) → ∃ t, exec (.frzMem sel) s = .next t ∧ t = s.modPkg (fun x
      =>
      { x with ir := 0xC3, tdo := bitsOut 32 (leNat ((s.pl (if bit 63 sel.toNat then .fly else .hoist)).mem.sram.read n 4)) })) ∧
  -- FRZ_REG shifts out the register's word and changes nothing else, a counter that a read clears included.
  (∀ (s : State) (addr : BitVec 27), (s.hoist.epc.frozen || s.fly.epc.frozen) = true → ∃ t, exec (.frzReg addr) s =
      .next t ∧ t = s.modPkg (fun x => { x with ir := 0xC4, tdo := bitsOut 32 (s.frzRegWord addr.toNat).toNat }))

/-- Power states, supplies and reset. Each command answers a next state under the stated conditions, and the next
state holds what is named: POWER_TRANSITION towards a higher target starts the move to the next state and nothing
else; POWER_STATE ends a move to Active in Active; and a move to Off in Off; PWRGD_LOSS leaves the device Off;
PWRGD_ASSERT that the rack manager allows starts the way out of Off and ends the trip; HOST_REQ_WRITE stores the
host's request; RESET_ASSERT empties the SRAM pools and keeps the repairs, the test port's instruction and the
owner; RESET_DEASSERT latches the straps in both planes and CANTON_SEL picks the active Canton; STANDBY_SUPPLY_LOSS
clears both planes and keeps what the flash holds. (11_state_and_change.md, Power states; 11_state_and_change.md,
Reset domains; 10_management.md, Power; 13_electrical_and_package.md, Sequencing) -/
def Obligations.PowerStates : Prop :=
  -- POWER_TRANSITION towards a higher target starts the move to the next state and nothing else.
  (∀ (s : State) (p : Plane), s.mgr = some p → s.pkg.fwRan = true → s.pkg.moving = none → s.epoOn = false →
      s.pkg.epoHold = false → s.hoist.epc.frozen = false → s.fly.epc.frozen = false → 0 < s.power → s.power <
      s.target p → ∃ t, exec (.powerTransition) s = .next t ∧ t = s.modPkg (fun x =>
      { x with moving := some (s.power + 1) })) ∧
  -- POWER_STATE ends a move to Active in Active.
  (∀ (s : State), s.pkg.epoHold = false → s.live .hoist = true → s.live .fly = true → s.pkg.moving = some 3 →
      s.pkg.off = false → ∃ t, exec (.powerState) s = .next t ∧ t.power = 3) ∧
  -- And a move to Off in Off.
  (∀ (s : State), s.pkg.epoHold = false → s.live .hoist = true → s.live .fly = true → s.pkg.moving = some 0 →
      s.pkg.off = false → ∃ t, exec (.powerState) s = .next t ∧ t.pkg.off = true ∧ t.pkg.moving = none) ∧
  -- PWRGD_LOSS leaves the device Off.
  (∀ (s : State), s.pkg.pwrgd = true → ∃ t, exec (.pwrgdLoss) s = .next t ∧ t.pkg.pwrgd = false ∧ t.pkg.off = true) ∧
  -- PWRGD_ASSERT that the rack manager allows starts the way out of Off and ends the trip.
  (∀ (s : State), s.pkg.off = true → s.pkg.resetN = true → s.rmLimit .hoist ≠ 0 → s.epoOn = false → ∃ t, exec
      (.pwrgdAssert) s = .next t ∧ t.pkg.pwrgd = true ∧ t.pkg.off = false ∧ t.pkg.moving = some 1 ∧ t.flag .hoist
      Fld.CAN_PWR_STATE.TRIP 0 = false) ∧
  -- HOST_REQ_WRITE stores the host's request.
  (∀ (s : State) (p : Plane) (v : Word), s.live p = true → s.noOrders = false → ∃ t, exec (.hostReqWrite p v) s =
      .next t ∧ t.fld p Fld.CAN_PWR_STATE.HOST_REQ 0 = bits 27 26 v.toNat) ∧
  -- RESET_ASSERT empties the SRAM pools and keeps the repairs, the test port's instruction and the owner.
  (∀ (s : State), ∃ t, exec (.resetAssert) s = .next t ∧ t.pkg.resetN = false ∧ t.pkg.freezeN = false ∧ t.pkg.pwrgd
      = s.pkg.pwrgd ∧ t.pkg.ir = s.pkg.ir ∧ t.pkg.ownerFp = s.pkg.ownerFp ∧ t.hoist.mem.sram = [] ∧ t.fly.mem.sram =
      [] ∧ t.hoist.mem.fixed = s.hoist.mem.fixed) ∧
  -- RESET_DEASSERT latches the straps in both planes and CANTON_SEL picks the active Canton.
  (∀ (s : State) (straps : BitVec 7), s.pkg.resetN = false → ∃ t, exec (.resetDeassert straps) s = .next t ∧
      t.pkg.resetN = true ∧ t.pkg.active = some (if bit 0 straps.toNat then .fly else .hoist) ∧ t.pkg.off =
      !s.pkg.pwrgd ∧ t.word .hoist .TOP_STRAP 0 0 = wn straps.toNat ∧ t.word .fly .TOP_STRAP 0 0 = wn straps.toNat) ∧
  -- STANDBY_SUPPLY_LOSS clears both planes and keeps what the flash holds.
  (∀ (s : State), ∃ t, exec (.standbySupplyLoss) s = .next t ∧ t.hoist = {} ∧ t.fly = {} ∧ t.pkg.pwrgd = false ∧
      t.pkg.off = true ∧ t.pkg.resetN = false ∧ t.pkg.pwrOffReq = true ∧ t.pkg.ownerFp = s.pkg.ownerFp ∧
      t.pkg.flash0 = s.pkg.flash0 ∧ t.pkg.flash1 = s.pkg.flash1 ∧ t.pkg.inv = s.pkg.saved)

/-- Emergency power off, thermal trip, leaks and clocks of the always-on island. Each command answers a next state
under the stated conditions, and the next state holds what is named: EPO_ASSERT shows EPO in both planes, asks for
power off and ends a move; EPO_RELEASE leaves the device Off; THERMAL_TRIP at 110 °C or above, whatever the state,
sets TRIP and RM_LIMIT 0 and asks for power off; the third agreeing LEAK_MEASURE below 8 kΩ shows the loop wet;
LEAK_POWER_OFF of a loop still wet asks for power off; AVS_SET of two dies at 35 °C or above sets both rails to
their fused values; AON_CLK_LOSS runs the island from its oscillator and clears AON_OK; AON_CLK_RETURN undoes that;
CORE_PLL_LOCK shows lock in both planes and 1600 MHz; SELF_TEST_DONE of a plane that passes shows its parts and
PLANE_OK. (10_management.md, Power; 10_management.md, Sensors; 13_electrical_and_package.md, Clocks;
13_electrical_and_package.md, Power rails) -/
def Obligations.Protection : Prop :=
  -- EPO_ASSERT shows EPO in both planes, asks for power off and ends a move.
  (∀ (s : State) (src : EpoSource), s.epoOn = false → ∃ t, exec (.epoAssert src) s = .next t ∧ t.epoOn = true ∧
      t.pkg.epoHold = true ∧ t.pkg.pwrOffReq = true ∧ t.pkg.moving = none ∧ t.flag .hoist Fld.CAN_PWR_STATE.EPO 0 =
      true ∧ t.flag .fly Fld.CAN_PWR_STATE.EPO 0 = true) ∧
  -- EPO_RELEASE leaves the device Off.
  (∀ (s : State), s.epoOn = true → ∃ t, exec (.epoRelease) s = .next t ∧ t.epoOn = false ∧ t.pkg.epoHold = false ∧
      t.pkg.off = true) ∧
  -- THERMAL_TRIP at 110 °C or above, whatever the state, sets TRIP and RM_LIMIT 0 and asks for power off.
  (∀ (s : State) (p : Plane) (k : Fin 41), s.flag p Fld.CAN_PWR_STATE.TRIP 0 = false → 11000 ≤ toInt 24 (s.fld p
      Fld.CAN_SENSOR.VALUE k) → ∃ t, exec (.thermalTrip p k) s = .next t ∧ t.pkg.epoHold = true ∧ t.pkg.pwrOffReq =
      true ∧ t.flag p Fld.CAN_PWR_STATE.TRIP 0 = true ∧ t.fld p Fld.CAN_PWR_STATE.RM_LIMIT 0 = 0) ∧
  -- The third agreeing LEAK_MEASURE below 8 kΩ shows the loop wet.
  (∀ (s : State) (n : Fin 4) (r : Nat), (mget {} n.val s.pkg.loops).cand = 1 → (mget {} n.val s.pkg.loops).agree = 2
      → r < 8000 → bits (2 * n.val + 1) (2 * n.val) (s.fld .hoist Fld.CAN_LEAK.STATE 0) ≠ 1 → ∃ t, exec
      (.leakMeasure n (some r)) s = .next t ∧ bits (2 * n.val + 1) (2 * n.val) (t.fld .hoist Fld.CAN_LEAK.STATE 0) =
      1 ∧ (mget {} n.val t.pkg.loops).wetAt = some s.ticks) ∧
  -- LEAK_POWER_OFF of a loop still wet asks for power off.
  (∀ (s : State) (n : Fin 4), (mget {} n.val s.pkg.loops).wetAt.isSome = true → s.fld .hoist Fld.CAN_LEAK.LEAK_OFF_S
      0 ≠ 255 → ∃ t, exec (.leakPowerOff n) s = .next t ∧ t.pkg.pwrOffReq = true) ∧
  -- AVS_SET of two dies at 35 °C or above sets both rails to their fused values.
  (∀ (s : State) (a b : Int), s.managed = true → s.pkg.pwrgd = true → s.pkg.off = false → s.hottest .hoist = some a
      → 3500 ≤ a → s.hottest .fly = some b → 3500 ≤ b → ∃ t, exec (.avsSet) s = .next t ∧ t.avsOf .hoist =
      Config.avsFuse .hoist ∧ t.avsOf .fly = Config.avsFuse .fly) ∧
  -- AON_CLK_LOSS runs the island from its oscillator and clears AON_OK.
  (∀ (s : State), ∃ t, exec (.aonClkLoss) s = .next t ∧ t.pkg.aonOsc = true ∧ t.flag .hoist Fld.TOP_CLK_STAT.AON_OK
      0 = false ∧ t.flag .fly Fld.TOP_CLK_STAT.AON_OK 0 = false) ∧
  -- AON_CLK_RETURN undoes that.
  (∀ (s : State), ∃ t, exec (.aonClkReturn) s = .next t ∧ t.pkg.aonOsc = false ∧ t.flag .hoist
      Fld.TOP_CLK_STAT.AON_OK 0 = true ∧ t.flag .fly Fld.TOP_CLK_STAT.AON_OK 0 = true) ∧
  -- CORE_PLL_LOCK shows lock in both planes and 1600 MHz.
  (∀ (s : State), s.live .hoist = true → s.live .fly = true → s.pkg.freezeN = false → ∃ t, exec (.corePllLock) s =
      .next t ∧ t.flag .hoist Fld.TOP_CLK_STAT.CORE_LOCK 0 = true ∧ t.flag .fly Fld.TOP_CLK_STAT.CORE_LOCK 0 = true
      ∧ t.fld .hoist Fld.TOP_CLK_STAT.CORE_MHZ 0 = 1600) ∧
  -- SELF_TEST_DONE of a plane that passes shows its parts and PLANE_OK.
  (∀ (s : State) (p : Plane) (pg : BitVec 18) (chip : BitVec 9) (tile : BitVec 16) (elem : BitVec 24) (hal : Bool),
      s.runs p = true → s.flag p Fld.TOP_CLK_STAT.CORE_LOCK 0 = true → (s.pl p).epc.tested = false → 18 ≤ popcount
      24 elem.toNat → s.pkg.fwRan = false → s.halUp p.other = false → ∃ t, exec (.selfTestDone p pg chip tile elem
      hal) s = .next t ∧ (t.pl p).epc.tested = true ∧ t.fld p Fld.TOP_PG_STAT.PG_OK 0 = pg.toNat ∧ t.fld p
      Fld.TOP_UNIT_STAT.CHIPLET_OK 0 = chip.toNat ∧ t.fld p Fld.SWC_SPINE_STAT.N 0 = popcount 24 elem.toNat ∧ t.flag
      p Fld.TOP_PG_STAT.PLANE_OK 0 = true)

/-- Sensors, caps and the throttle. Each command answers a next state under the stated conditions, and the next
state holds what is named: SENSOR_POLL of a temperature shows the value, WARN from 95 °C and CRIT from 105 °C;
THERM_CAP_STEP raises the thermal cap by a tenth of the maximum until it is lifted; THROTTLE_STEP over the cap goes
one level down; SHARE_UPDATE splits 256 parts by the two demands; CAP_UNMEET of a cap below the floor shows UNMEET
and throttles fully; CAP_HOST_WRITE stores the host's cap. (10_management.md, Sensors; 10_management.md, Power) -/
def Obligations.SensorsAndCaps : Prop :=
  -- SENSOR_POLL of a temperature shows the value, WARN from 95 °C and CRIT from 105 °C.
  (∀ (s : State) (p : Plane) (k : Fin 119) (v : BitVec 24) (r : Sample), s.pkg.resetN = true → 16 ≤ k.val → k.val ≤
      40 → r.a = some v → r.oorA = false → ∃ t, exec (.sensorPoll p k r) s = .next t ∧ t.fld p Fld.CAN_SENSOR.VALUE
      k = v.toNat ∧ t.flag p Fld.CAN_SENSOR.WARN k = decide (9500 ≤ v.toInt) ∧ t.flag p Fld.CAN_SENSOR.CRIT k =
      decide (10500 ≤ v.toInt) ∧ t.flag p Fld.CAN_SENSOR.FAULT k = false) ∧
  -- THERM_CAP_STEP raises the thermal cap by a tenth of the maximum until it is lifted.
  (∀ (s : State) (p : Plane), s.mgr = some p → s.pkg.sensHost = false → s.anyWarn = false → s.fld p
      Fld.CAN_CAP_THERM.CAP 0 ≠ 0 → ∃ t, exec (.thermCapStep) s = .next t ∧ t.fld p Fld.CAN_CAP_THERM.CAP 0 = if
      s.maxPower ≤ s.fld p Fld.CAN_CAP_THERM.CAP 0 + s.maxPower / 10 then 0 else s.fld p Fld.CAN_CAP_THERM.CAP 0 +
      s.maxPower / 10) ∧
  -- THROTTLE_STEP over the cap goes one level down.
  (∀ (s : State) (p : Plane), s.live p = true → s.lastFour p ≠ [] → s.overCap p = true → ∃ t, exec (.throttleStep p)
      s = .next t ∧ (t.pl p).can.level = min 7 ((s.pl p).can.level + 1)) ∧
  -- SHARE_UPDATE splits 256 parts by the two demands.
  (∀ (s : State) (p : Plane) (a b : BitVec 16), s.mgr = some p → s.pkg.split = false → 0 < a.toNat + b.toNat → ∃ t,
      exec (.shareUpdate a b) s = .next t ∧ t.fld .hoist Fld.CAN_THR_CFG.SHARE 0 = min 255 (256 * a.toNat / (a.toNat
      + b.toNat)) ∧ t.fld .fly Fld.CAN_THR_CFG.SHARE 0 = min 255 (256 * b.toNat / (a.toNat + b.toNat))) ∧
  -- CAP_UNMEET of a cap below the floor shows UNMEET and throttles fully.
  (∀ (s : State) (p : Plane), s.live p = true → s.effCap p < s.floor p → ∃ t, exec (.capUnmeet p) s = .next t ∧
      t.flag p Fld.CAN_PWR_STAT.UNMEET 0 = true ∧ t.thrLevel p = 7) ∧
  -- CAP_HOST_WRITE stores the host's cap.
  (∀ (s : State) (p : Plane) (v : Word), s.live p = true → s.noOrders = false → ∃ t, exec (.capHostWrite p v) s =
      .next t ∧ t.fld p Fld.CAN_CAP_HOST.CAP 0 = v.toNat % 65536)

/-- A register write by its fields' access types and change classes. Each command answers a next state under the
stated conditions, and the next state holds what is named: REGISTER_WRITE of LNE_WIRE_FAB, a word of read-write
fields of class S, stores the value; of LFP_GLB_CFG, whose fields are class G, it stores the staged copies and the
fields in force stay; of that word while a commit is in progress it stores nothing and counts in EPC_S_IGN_CNT; of
TOP_CHIP_ID, a read-only word, it changes nothing and flags nothing; of LFP_AGE_DISC, a counter that a read clears,
it leaves the count. (00_scope.md, Registers; 11_state_and_change.md, Field classes; 11_state_and_change.md, Commit)
-/
def Obligations.RegisterWrites : Prop :=
  -- REGISTER_WRITE of LNE_WIRE_FAB, a word of read-write fields of class S, stores the value.
  (∀ (s : State) (addr : BitVec 27) (v : Word) (i : Nat), s.live (planeAt addr.toNat) = true → regAt (addr.toNat %
      0x4000000) = some (.LNE_WIRE_FAB, i, 0) → i < 576 → ∃ t, exec (.registerWrite addr v) s = .next t ∧ t.word
      (planeAt addr.toNat) .LNE_WIRE_FAB i 0 = v) ∧
  -- Of LFP_GLB_CFG, whose fields are class G, it stores the staged copies and the fields in force stay.
  (∀ (s : State) (addr : BitVec 27) (v : Word), s.live (planeAt addr.toNat) = true → regAt (addr.toNat % 0x4000000)
      = some (.LFP_GLB_CFG, 0, 0) → s.flag (planeAt addr.toNat) Fld.EPC_COMMIT_STAT.BUSY 0 = false → ∃ t, exec
      (.registerWrite addr v) s = .next t ∧ t.staged (planeAt addr.toNat) Fld.LFP_GLB_CFG.HOP_LIMIT 0 = bits 12 8
      v.toNat ∧ t.staged (planeAt addr.toNat) Fld.LFP_GLB_CFG.MAX_RES 0 = bits 23 16 v.toNat ∧ t.fld (planeAt
      addr.toNat) Fld.LFP_GLB_CFG.HOP_LIMIT 0 = s.fld (planeAt addr.toNat) Fld.LFP_GLB_CFG.HOP_LIMIT 0) ∧
  -- Of that word while a commit is in progress it stores nothing and counts in EPC_S_IGN_CNT.
  (∀ (s : State) (addr : BitVec 27) (v : Word), s.live (planeAt addr.toNat) = true → regAt (addr.toNat % 0x4000000)
      = some (.LFP_GLB_CFG, 0, 0) → s.flag (planeAt addr.toNat) Fld.EPC_COMMIT_STAT.BUSY 0 = true → bits 12 8
      v.toNat ≠ s.staged (planeAt addr.toNat) Fld.LFP_GLB_CFG.HOP_LIMIT 0 → ∃ t, exec (.registerWrite addr v) s =
      .next t ∧ t.word (planeAt addr.toNat) .LFP_GLB_CFG 0 0 = s.word (planeAt addr.toNat) .LFP_GLB_CFG 0 0 ∧
      t.staged (planeAt addr.toNat) Fld.EPC_S_IGN_CNT.N 0 = satInc 32 (s.staged (planeAt addr.toNat)
      Fld.EPC_S_IGN_CNT.N 0)) ∧
  -- Of TOP_CHIP_ID, a read-only word, it changes nothing and flags nothing.
  (∀ (s : State) (addr : BitVec 27) (v : Word), s.live (planeAt addr.toNat) = true → regAt (addr.toNat % 0x4000000)
      = some (.TOP_CHIP_ID, 0, 0) → ∃ t, exec (.registerWrite addr v) s = .next t ∧ t.word (planeAt addr.toNat)
      .TOP_CHIP_ID 0 0 = s.word (planeAt addr.toNat) .TOP_CHIP_ID 0 0 ∧ t.staged (planeAt addr.toNat)
      Fld.EPC_S_IGN_CNT.N 0 = s.staged (planeAt addr.toNat) Fld.EPC_S_IGN_CNT.N 0) ∧
  -- Of LFP_AGE_DISC, a counter that a read clears, it leaves the count.
  (∀ (s : State) (addr : BitVec 27) (v : Word), s.live (planeAt addr.toNat) = true → regAt (addr.toNat % 0x4000000)
      = some (.LFP_AGE_DISC, 0, 0) → ∃ t, exec (.registerWrite addr v) s = .next t ∧ t.staged (planeAt addr.toNat)
      Fld.LFP_AGE_DISC.N 0 = s.staged (planeAt addr.toNat) Fld.LFP_AGE_DISC.N 0)

/-- Commits, discards and the integrity of configuration. Each command answers a next state under the stated
conditions, and the next state holds what is named: COMMIT with no commit in progress sets BUSY and clears DONE of
every plane it involves; with one in progress it sets REJ and starts nothing; COMMIT_DECISION whose checks all pass
sets the instant 200 ns ahead of the plane's fabric time; with a check that fails it ends the commit with FAIL and
the committed copies stay; COMMIT_INSTANT ends the commit with DONE, counts one in EPC_COMMIT_SEQ and puts the
staged copies in force; DISCARD gives every word that differs its committed value again; CFG_MEAS_DONE stores the
measurement of the committed configuration with the commit it is of; LOG_RP_WRITE within 256 entries of the write
pointer stores the read pointer; CONFIG_ECC_ERROR in a route or window entry marks the entry as invalid.
(11_state_and_change.md, Commit; 11_state_and_change.md, Errors; 10_management.md, Boot and identity) -/
def Obligations.Commits : Prop :=
  -- COMMIT with no commit in progress sets BUSY and clears DONE of every plane it involves.
  (∀ (s : State) (p : Plane), s.live p = true → s.commitSame p = false → s.commitBusy (s.involved p) = false → ∃ t,
      exec (.commit p) s = .next t ∧ t.pkg.commits = s.pkg.commits ++ [⟨p, decide (1 < (s.involved p).length), none,
      s.ticks⟩] ∧ ∀ q, q ∈ s.involved p → t.flag q Fld.EPC_COMMIT_STAT.BUSY 0 = true ∧ t.flag q
      Fld.EPC_COMMIT_STAT.DONE 0 = false) ∧
  -- With one in progress it sets REJ and starts nothing.
  (∀ (s : State) (p : Plane), s.live p = true → s.commitSame p = false → s.commitBusy (s.involved p) = true → ∃ t,
      exec (.commit p) s = .next t ∧ t.flag p Fld.EPC_COMMIT_STAT.REJ 0 = true ∧ t.pkg = s.pkg) ∧
  -- COMMIT_DECISION whose checks all pass sets the instant 200 ns ahead of the plane's fabric time.
  (∀ (s : State) (c : Commit), s.undecided = some c → firstFail (c.planes.flatMap (planeFails s (s.each c.planes
      (fun q s => s.commitPlane q)))) = none → ∃ t, exec (.commitDecision) s = .next t ∧ t.pkg.commits =
      s.pkg.commits.map (fun d => if d = c then { d with at_ := some ((s.now c.plane).toNat + 200) } else d)) ∧
  -- With a check that fails it ends the commit with FAIL and the committed copies stay.
  (∀ (s : State) (c : Commit) (e : Nat × Nat), s.undecided = some c → firstFail (c.planes.flatMap (planeFails s
      (s.each c.planes (fun q s => s.commitPlane q)))) = some e → ∃ t, exec (.commitDecision) s = .next t ∧
      t.pkg.commits = s.pkg.commits.erase c ∧ ∀ q, q ∈ c.planes → t.flag q Fld.EPC_COMMIT_STAT.FAIL 0 = true ∧
      t.flag q Fld.EPC_COMMIT_STAT.BUSY 0 = false ∧ (t.pl q).committed = (s.pl q).committed) ∧
  -- COMMIT_INSTANT ends the commit with DONE, counts one in EPC_COMMIT_SEQ and puts the staged copies in force.
  (∀ (s : State) (c : Commit), s.decided = some c → ∃ t, exec (.commitInstant) s = .next t ∧ (∀ q, q ∈ c.planes →
      t.flag q Fld.EPC_COMMIT_STAT.DONE 0 = true ∧ t.flag q Fld.EPC_COMMIT_STAT.BUSY 0 = false ∧ t.word q
      .EPC_COMMIT_SEQ 0 0 = s.word q .EPC_COMMIT_SEQ 0 0 + 1) ∧ ∀ q, c.planes.head? = some q → (t.pl q).committed =
      committedOf (s.pl q).regs) ∧
  -- DISCARD gives every word that differs its committed value again.
  (∀ (s : State) (p : Plane), s.live p = true → s.commitBusy (s.involved p) = false → ∃ t, exec (.discard p) s =
      .next t ∧ ∀ q, q ∈ s.involved p → ∀ k, k ∈ s.dirtyOf q → ∀ a, regAt k = some a → t.word q a.1 a.2.1 a.2.2 =
      s.asCommitted q a.1 a.2.1 a.2.2) ∧
  -- CFG_MEAS_DONE stores the measurement of the committed configuration with the commit it is of.
  (∀ (s : State) (p : Plane), s.mgr = some p → ∃ t, exec (.cfgMeasDone) s = .next t ∧ t = s.modPkg (fun x =>
      { x with cfgMeas := Config.shake256 s.measBytes, cfgMeasSeq := s.word p .EPC_COMMIT_SEQ 0 0, cfgStale := false })) ∧
  -- LOG_RP_WRITE within 256 entries of the write pointer stores the read pointer.
  (∀ (s : State) (p : Plane) (v : Word), s.live p = true → (s.word p .EPC_LOG_WP 0 0 - v).toNat ≤ 256 → ∃ t, exec
      (.logRpWrite p v) s = .next t ∧ t.word p .EPC_LOG_RP 0 0 = v) ∧
  -- CONFIG_ECC_ERROR in a route or window entry marks the entry as invalid.
  (∀ (s : State) (p : Plane) (off : BitVec 26) (r : Reg) (i w : Nat), s.live p = true → regAt off.toNat = some (r,
      i, w) → (r.fieldsOf w).any (fun f => f.acc == .rw) = true → (r = .RTE_ENTRY ∨ r = .RTE_SET ∨ r = .GWM_WIN) → ∃
      t, exec (.configEccError p off) s = .next t ∧ r.off i 0 ∈ (t.pl p).rte.bad)

/-- Bring-up, failure and flits of a half of the Gnotric Link. Each command answers a next state under the stated
conditions, and the next state holds what is named: GL_DETECT_SENSE in Detect takes as detected the lanes that two
senses in a row agree on and goes to Train with four of them; GL_STAGE_TIMEOUT in Train to Init with retries left
returns the half to Detect with its reason and one retry more; with none left the half has Failed; GL_INIT_FLIT in
Lock counts a good flit and the eighth leads to Init; in Init, once eight INIT flits have come and left, it makes
the half Active and shows OTHER_UP at the other; GL_LANE_FAIL in Active goes on with the widest set without the
lane; GL_HALF_DOWN takes an Active half down, with WIDTH 0, and clears OTHER_UP at the other; GL_RETRAIN of a half
that is not Active starts at Detect with retries 0; a GL_FLIT in sequence with messages sent takes its
acknowledgment and the REQ credit it returns; one with a bad CRC counts in HIF_GL_CRC and is answered with a request
to resend. (09_host_interface.md, Link structure; 09_host_interface.md, Flits and replay) -/
def Obligations.GnotricLinkHalves : Prop :=
  -- GL_DETECT_SENSE in Detect takes as detected the lanes that two senses in a row agree on and goes to Train with four of them.
  (∀ (s : State) (p : Plane) (mask : Byte), s.glOn p = true → s.glStage p = 1 → ∃ t, exec (.glDetectSense p mask) s
      = .next t ∧ (t.half p).sensed = mask.toNat ∧ (t.half p).det = Nat.land (s.half p).sensed mask.toNat ∧
      t.glStage p = if 4 ≤ (onesOf 8 (Nat.land (s.half p).sensed mask.toNat)).length then 2 else 1) ∧
  -- GL_STAGE_TIMEOUT in Train to Init with retries left returns the half to Detect with its reason and one retry more.
  (∀ (s : State) (p : Plane), s.glOn p = true → 2 ≤ s.glStage p → s.glStage p ≤ 4 → s.hostRecovery p = false →
      (s.half p).retries + 1 < max 1 (s.fld p Fld.HIF_LINK_CFG.RETRY_MAX 0) → ∃ t, exec (.glStageTimeout p) s =
      .next t ∧ t.glStage p = 1 ∧ (t.half p).retries = (s.half p).retries + 1 ∧ (t.half p).reason = 8 + s.glStage p) ∧
  -- With none left the half has Failed.
  (∀ (s : State) (p : Plane), s.glOn p = true → 2 ≤ s.glStage p → s.glStage p ≤ 4 → max 1 (s.fld p
      Fld.HIF_LINK_CFG.RETRY_MAX 0) ≤ (s.half p).retries + 1 → ∃ t, exec (.glStageTimeout p) s = .next t ∧ t.glStage
      p = 6 ∧ (t.half p).retries = (s.half p).retries + 1 ∧ (t.half p).reason = 8 + s.glStage p) ∧
  -- GL_INIT_FLIT in Lock counts a good flit and the eighth leads to Init.
  (∀ (s : State) (p : Plane) (f : GlFlit), s.glOn p = true → s.glStage p = 3 → f.crcOk = true → ∃ t, exec
      (.glInitFlit p f) s = .next t ∧ (t.half p).good = (s.half p).good + 1 ∧ t.glStage p = if 8 ≤ (s.half p).good +
      1 then 4 else 3) ∧
  -- In Init, once eight INIT flits have come and left, it makes the half Active and shows OTHER_UP at the other.
  (∀ (s : State) (p : Plane) (f : GlFlit) (i : GlMsg) (l : List GlMsg), s.glOn p = true → s.glStage p = 4 → f.crcOk
      = true → f.kind = 1 → f.msgs = i :: l → i.code = 0x47 ∧ i.status = 0x4C ∧ i.mtag.toNat / 256 = 1 → 7 ≤ (s.half
      p).initRx → 7 ≤ (s.half p).initTx → ∃ t, exec (.glInitFlit p f) s = .next t ∧ t.glStage p = 5 ∧ t.flag p.other
      Fld.HIF_LINK_STAT.OTHER_UP 0 = true) ∧
  -- GL_LANE_FAIL in Active goes on with the widest set without the lane.
  (∀ (s : State) (p : Plane) (lane : Fin 8), s.glOn p = true → s.glStage p = 5 → bit lane (s.half p).act = true →
      glSet ((s.half p).det - Nat.land (s.half p).det (Nat.lor (s.half p).failed (2 ^ lane.val))) ≠ 0 → ∃ t, exec
      (.glLaneFail p lane) s = .next t ∧ (t.half p).failed = Nat.lor (s.half p).failed (2 ^ lane.val) ∧ (t.half
      p).act = glSet ((s.half p).det - Nat.land (s.half p).det (Nat.lor (s.half p).failed (2 ^ lane.val))) ∧ t.fld p
      Fld.HIF_LINK_STAT.WIDTH 0 = glWidth (glSet ((s.half p).det - Nat.land (s.half p).det (Nat.lor (s.half
      p).failed (2 ^ lane.val)))) ∧ t.glStage p = 5) ∧
  -- GL_HALF_DOWN takes an Active half down, with WIDTH 0, and clears OTHER_UP at the other.
  (∀ (s : State) (p : Plane), s.glOn p = true → s.glStage p = 5 → ∃ t, exec (.glHalfDown p) s = .next t ∧ t.glStage
      p = s.glNext p ∧ t.fld p Fld.HIF_LINK_STAT.WIDTH 0 = 0 ∧ t.flag p.other Fld.HIF_LINK_STAT.OTHER_UP 0 = false) ∧
  -- GL_RETRAIN of a half that is not Active starts at Detect with retries 0.
  (∀ (s : State) (p : Plane), s.live p = true → s.flag p Fld.HIF_LINK_CFG.EN 0 = true → s.glStage p ≠ 5 → ∃ t, exec
      (.glRetrain p) s = .next t ∧ t.glStage p = 1 ∧ t.flag p Fld.HIF_LINK_CFG.RETRAIN 0 = false ∧ (t.half
      p).retries = 0) ∧
  -- A GL_FLIT in sequence with messages sent takes its acknowledgment and the REQ credit it returns.
  (∀ (s : State) (p : Plane) (f : GlFlit), s.glOn p = true → s.glStage p = 5 → f.crcOk = true → f.kind = 2 → f.nak =
      false → f.txSeq = (s.half p).rxSeq + 1 → (s.half p).txq = [] → (∀ q, (s.pl q).hif.waiting = [] ∧ (s.pl
      q).hif.ending = none) → ∃ t, exec (.glFlit p f) s = .next t ∧ (t.half p).rxSeq = f.txSeq ∧ (t.half p).credReq
      = (s.half p).credReq + f.crReq.toNat ∧ (t.half p).store = (s.half p).store.filter (fun e => decide (0 <
      (e.txSeq - f.ackSeq).toNat ∧ (e.txSeq - f.ackSeq).toNat < 2048))) ∧
  -- One with a bad CRC counts in HIF_GL_CRC and is answered with a request to resend.
  (∀ (s : State) (p : Plane) (f : GlFlit), s.glOn p = true → s.glStage p = 5 → f.crcOk = false → ∃ t, exec (.glFlit
      p f) s = .next t ∧ t.fld p Fld.HIF_GL_CRC.N 0 = satInc 32 (s.fld p Fld.HIF_GL_CRC.N 0) ∧ (t.half p).rxSeq =
      (s.half p).rxSeq ∧ (s.glRoom p = true → ∃ g, t.out.head? = some (.gl p g) ∧ g.nak = true))

/-- Messages of the Gnotric Link. Each command answers a next state under the stated conditions, and the next state
holds what is named: GL_DATA that answers the read of a descriptor stores the descriptor; GL_CMP of a ring entry
makes it valid and leaves the producer index; SNP_INV of the doorbell line drops the copy of it, starts one read of
it and is answered; MMIO_RD of a register word is answered with the value that a read shows; MMIO_WR of LNE_WIRE_FAB
stores the value and is answered. (09_host_interface.md, Messages and line states; 09_host_interface.md, Rings) -/
def Obligations.GnotricLinkMessages : Prop :=
  -- GL_DATA that answers the read of a descriptor stores the descriptor.
  (∀ (s : State) (p : Plane) (m : GlMsg) (q : Plane) (r : GlReq) (i : Word), s.glOn p = true → s.glStage p = 5 →
      s.answering p m.mtag = some (q, r) → r.what = .descr i → m.status = 0 → m.line ≠ [] → s.ringOn q 0 = true → (∀
      f ∈ (s.pl q).hif.fetched, f.2 ≠ []) → (∀ o, (s.pl o).hif.ending = none) → ∃ t, exec (.glData p m) s = .next t
      ∧ (t.pl q).hif.fetched = (s.pl q).hif.fetched ++ [(i, slice 0 64 m.line)]) ∧
  -- GL_CMP of a ring entry makes it valid and leaves the producer index.
  (∀ (s : State) (p : Plane) (m : GlMsg) (q : Plane) (r : GlReq) (k : Nat) (i : Word) (l : Nat), s.glOn p = true →
      s.glStage p = 5 → s.answering p m.mtag = some (q, r) → r.what = .entry k i l → m.status = 0 → (s.answered q
      r).entryOut q k = false → (∀ o, (s.pl o).hif.ending = none) → ∃ t, exec (.glCmp p m) s = .next t ∧ (t.ring q
      k).valid = i + 1 ∧ (t.ring q k).pi = (s.ring q k).pi) ∧
  -- SNP_INV of the doorbell line drops the copy of it, starts one read of it and is answered.
  (∀ (s : State) (p : Plane) (m : GlMsg), s.glOn p = true → s.glStage p = 5 → s.glRoom p = true → s.cmdUsed p = true
      → s.ciUsed p = false → s.cmdUsed p.other = false → s.ciUsed p.other = false → s.lineAddr p .HIF_DB_ADDR =
      m.addr.toNat / 64 * 64 → ∃ t, exec (.snpInv p m) s = .next t ∧ (t.pl p).hif.cmdBell.shared = false ∧ (t.pl
      p).hif.cmdBell.reads = (s.pl p).hif.cmdBell.reads + 1 ∧ (t.pl p).hif.active = s.ticks ∧ ∃ l, t.out = l ++ .gl
      p ⟨[{ glMsg 0x14 0 m.addr [] with mtag := m.mtag }], (s.half p).txSeq, 0, (s.half p).rxSeq, false, 0,
      BitVec.ofNat 8 (min 255 (s.half p).frSnp), BitVec.ofNat 8 (min 255 (s.half p).frMmio), true⟩ :: s.out) ∧
  -- MMIO_RD of a register word is answered with the value that a read shows.
  (∀ (s : State) (p : Plane) (m : GlMsg) (r : Reg) (i w : Nat), s.glOn p = true → s.glStage p = 5 → s.glRoom p =
      true → m.addr.toNat < 0x8000000 → m.addr.toNat % 4 = 0 → s.mmioReach p (planeAt m.addr.toNat) = true → regAt
      (m.addr.toNat % 0x4000000) = some (r, i, w) → (∀ g, r.wideAt w = some g → w = g.1) → ∃ t, exec (.mmioRd p m) s
      = .next t ∧ ∃ g, t.out.head? = some (.gl p g) ∧ g.msgs = [⟨0x17, 0, m.mtag, hideWo r w (((s.modHalf p (fun x
      => { x with frMmio := x.frMmio + 1 })).hostActive (planeAt m.addr.toNat)).viewWord (planeAt m.addr.toNat) r i
      w), 0, []⟩]) ∧
  -- MMIO_WR of LNE_WIRE_FAB stores the value and is answered.
  (∀ (s : State) (p : Plane) (m : GlMsg) (i : Nat), s.glOn p = true → s.glStage p = 5 → s.glRoom p = true →
      m.addr.toNat < 0x8000000 → m.addr.toNat % 4 = 0 → s.mmioReach p (planeAt m.addr.toNat) = true → regAt
      (m.addr.toNat % 0x4000000) = some (.LNE_WIRE_FAB, i, 0) → i < 576 → ∃ t, exec (.mmioWr p m) s = .next t ∧
      t.word (planeAt m.addr.toNat) .LNE_WIRE_FAB i 0 = m.arg ∧ ∃ g, t.out.head? = some (.gl p g) ∧ g.msgs = [⟨0x17,
      0, m.mtag, 0, 0, []⟩])

/-- Commands of the command queue. Each command answers a next state under the stated conditions, and the next state
holds what is named: NOP ends with status 0: CMDQ_CI and the count of commands go on by one and its completion entry
is written or waits; an unknown OP ends with status 1 likewise; REG_WR of LNE_WIRE_FAB stores the value and ends
with status 0 and count 1; REG_RD of a good range writes its data before it ends; BULK_WR of a good range ends with
the writes of its data; MODE_SET of a function that exists sets that bit of HIF_FUNC_MODE; CWND_SET under host
congestion control sets the window of the destination at each endpoint and ends with status 0; ADAPT of a lane in
Train under host training sends the requests and waits; ADAPT_DONE ends it. (09_host_interface.md, Commands;
09_host_interface.md, Rings; 09_host_interface.md, Functions and their modes) -/
def Obligations.HostCommands : Prop :=
  -- NOP ends with status 0: CMDQ_CI and the count of commands go on by one and its completion entry is written or waits.
  (∀ (s : State) (p : Plane) (h : CmdHead), s.cmdMay p 0 h [] = true → (∀ f ∈ (s.pl p).hif.fetched, f.2 ≠ []) → ∃ t,
      exec (.nop p h) s = .next t ∧ (t.pl p).hif.done = (s.pl p).hif.done + 1 ∧ t.word p .HIF_RING_IDX 0 0 = (s.pl
      p).hif.done + 1 ∧ t.fld p Fld.HIF_CMD_CNT.N 0 = satInc 32 (s.fld p Fld.HIF_CMD_CNT.N 0) ∧ (t.ring p 1).pi =
      (s.ring p 1).pi + 1 ∧ ((s.ring p 1).held = [] → s.entryOut p 1 = false → ∃ q, q ∈ (t.pl p).hif.outst ++ (t.pl
      p).hif.waiting ∧ q.what = .entry 1 (s.ring p 1).pi 0 ∧ q.msg.line = withPhase (s.phase p 1 (s.ring p 1).pi)
      (cplBytes 0 h.tag 0 false (s.pl p).hif.done.toNat 0 0 (s.now p)))) ∧
  -- An unknown OP ends with status 1 likewise.
  (∀ (s : State) (p : Plane) (h : CmdHead) (op : Byte), s.cmdMay p op.toNat h [] = true → (∀ f ∈ (s.pl
      p).hif.fetched, f.2 ≠ []) → ∃ t, exec (.badOp p h op) s = .next t ∧ (t.pl p).hif.done = (s.pl p).hif.done + 1
      ∧ t.word p .HIF_RING_IDX 0 0 = (s.pl p).hif.done + 1 ∧ t.fld p Fld.HIF_CMD_CNT.N 0 = satInc 32 (s.fld p
      Fld.HIF_CMD_CNT.N 0) ∧ (t.ring p 1).pi = (s.ring p 1).pi + 1 ∧ ((s.ring p 1).held = [] → s.entryOut p 1 =
      false → ∃ q, q ∈ (t.pl p).hif.outst ++ (t.pl p).hif.waiting ∧ q.what = .entry 1 (s.ring p 1).pi 0 ∧ q.msg.line
      = withPhase (s.phase p 1 (s.ring p 1).pi) (cplBytes op.toNat h.tag 1 false (s.pl p).hif.done.toNat 0 0 (s.now
      p)))) ∧
  -- REG_WR of LNE_WIRE_FAB stores the value and ends with status 0 and count 1.
  (∀ (s : State) (p : Plane) (h : CmdHead) (off v : Word) (i : Nat), s.cmdMay p 1 h (leBytes 4 off.toNat ++ leBytes
      4 v.toNat) = true → (∀ f ∈ (s.pl p).hif.fetched, f.2 ≠ []) → regAt off.toNat = some (.LNE_WIRE_FAB, i, 0) → i
      < 576 → rangeOk off.toNat 1 = true → ∃ t, exec (.regWr p h [(off, v)]) s = .next t ∧ t.word p .LNE_WIRE_FAB i
      0 = v ∧ (t.pl p).hif.done = (s.pl p).hif.done + 1 ∧ t.word p .HIF_RING_IDX 0 0 = (s.pl p).hif.done + 1 ∧ t.fld
      p Fld.HIF_CMD_CNT.N 0 = satInc 32 (s.fld p Fld.HIF_CMD_CNT.N 0) ∧ (t.ring p 1).pi = (s.ring p 1).pi + 1 ∧
      ((s.ring p 1).held = [] → s.entryOut p 1 = false → ∃ q, q ∈ (t.pl p).hif.outst ++ (t.pl p).hif.waiting ∧
      q.what = .entry 1 (s.ring p 1).pi 0 ∧ q.msg.line = withPhase (s.phase p 1 (s.ring p 1).pi) (cplBytes 1 h.tag 0
      false (s.pl p).hif.done.toNat 1 0 (s.now p)))) ∧
  -- REG_RD of a good range writes its data before it ends.
  (∀ (s : State) (p : Plane) (h : CmdHead) (off words : Word) (haddr : BitVec 64), s.cmdMay p 2 h (leBytes 4
      off.toNat ++ leBytes 4 words.toNat ++ leBytes 8 haddr.toNat) = true → 1 ≤ words.toNat → words.toNat ≤ 65536 →
      haddr.toNat % 64 = 0 → rangeOk off.toNat words.toNat = true → ∃ t, exec (.regRd p h off words haddr none) s =
      .next t ∧ (t.pl p).hif.ending = some ⟨2, h, 0, words.toNat, 0, []⟩) ∧
  -- BULK_WR of a good range ends with the writes of its data.
  (∀ (s : State) (p : Plane) (h : CmdHead) (off words : Word) (haddr : BitVec 64) (data : List Word), s.cmdMay p 3 h
      (leBytes 4 off.toNat ++ leBytes 4 words.toNat ++ leBytes 8 haddr.toNat) = true → 1 ≤ words.toNat → words.toNat
      ≤ 65536 → haddr.toNat % 64 = 0 → rangeOk off.toNat words.toNat = true → data.length = words.toNat → ∃ t, exec
      (.bulkWr p h off words haddr data false) s = .next t ∧ (t.pl p).hif.ending = some ⟨3, h, 0, words.toNat,
      off.toNat, data⟩) ∧
  -- MODE_SET of a function that exists sets that bit of HIF_FUNC_MODE.
  (∀ (s : State) (p : Plane) (h : CmdHead) (func mode : Byte), s.cmdMay p 4 h [func, mode] = true → (∀ f ∈ (s.pl
      p).hif.fetched, f.2 ≠ []) → func.toNat ≤ 6 → mode.toNat ≤ 1 → ∃ t, exec (.modeSet p h func mode) s = .next t ∧
      t.fld p Fld.HIF_FUNC_MODE.MODE 0 = setBits func.toNat func.toNat (s.fld p Fld.HIF_FUNC_MODE.MODE 0) mode.toNat
      % 128 ∧ (t.pl p).hif.done = (s.pl p).hif.done + 1 ∧ t.word p .HIF_RING_IDX 0 0 = (s.pl p).hif.done + 1 ∧ t.fld
      p Fld.HIF_CMD_CNT.N 0 = satInc 32 (s.fld p Fld.HIF_CMD_CNT.N 0)) ∧
  -- CWND_SET under host congestion control sets the window of the destination at each endpoint and ends with status 0.
  (∀ (s : State) (p : Plane) (h : CmdHead) (dst : EpId) (cwnd : BitVec 16), s.cmdMay p 5 h (leBytes 2 dst.toNat ++
      leBytes 2 cwnd.toNat) = true → (∀ f ∈ (s.pl p).hif.fetched, f.2 ≠ []) → s.hostCc p = true → 1 ≤ cwnd.toNat →
      cwnd.toNat ≤ 512 → (∀ k, k < 3 → (s.srcWin p k dst).waiting = []) → (s.pl p).col.grps = [] → (s.pl p).dsp.lyrs
      = [] → s.cwndKeys p dst = [0, 1, 2] → ∃ t, exec (.cwndSet p h dst cwnd) s = .next t ∧ (∀ k, k < 3 → (t.srcWin
      p k dst).cwnd = cwnd.toNat) ∧ (t.pl p).hif.done = (s.pl p).hif.done + 1 ∧ t.word p .HIF_RING_IDX 0 0 = (s.pl
      p).hif.done + 1 ∧ t.fld p Fld.HIF_CMD_CNT.N 0 = satInc 32 (s.fld p Fld.HIF_CMD_CNT.N 0) ∧ (t.ring p 1).pi =
      (s.ring p 1).pi + 1 ∧ ((s.ring p 1).held = [] → s.entryOut p 1 = false → ∃ q, q ∈ (t.pl p).hif.outst ++ (t.pl
      p).hif.waiting ∧ q.what = .entry 1 (s.ring p 1).pi 0 ∧ q.msg.line = withPhase (s.phase p 1 (s.ring p 1).pi)
      (cplBytes 5 h.tag 0 false (s.pl p).hif.done.toNat 0 0 (s.now p)))) ∧
  -- ADAPT of a lane in Train under host training sends the requests and waits.
  (∀ (s : State) (p : Plane) (h : CmdHead) (lane : BitVec 16) (a b ctl : Byte) (l : Fin 576), s.cmdMay p 6 h
      (leBytes 2 lane.toNat ++ [a, b, ctl]) = true → bit 0 (s.fld p Fld.HIF_FUNC_MODE.MODE 0) = true → s.inTrain p
      lane.toNat = true → lane.toNat % 576 = l.val → ∃ t, exec (.adapt p h lane a b ctl) s = .next t ∧ (t.pl
      p).hif.adapt = some ⟨l.val, h, s.ticks⟩ ∧ (t.lane p l).reqA = a ∧ (t.lane p l).reqB = b ∧ (t.lane p l).reqPre
      = bits 6 4 ctl.toNat ∧ (t.lane p l).ready = ((s.lane p l).ready || bit 7 ctl.toNat)) ∧
  -- ADAPT_DONE ends it.
  (∀ (s : State) (p : Plane) (r : BitVec 32) (a : AdaptWait), s.live p = true → s.ringOn p 0 = true → (s.pl
      p).hif.adapt = some a → (∀ f ∈ (s.pl p).hif.fetched, f.2 ≠ []) → ∃ t, exec (.adaptDone p (some r)) s = .next t
      ∧ (t.pl p).hif.adapt = none ∧ (t.pl p).hif.done = (s.pl p).hif.done + 1)

/-- Rings, interrupts, events and the loss of the host. Each command answers a next state under the stated
conditions, and the next state holds what is named: RING_ENABLE of a ring that is off sets its indices to 0;
RING_DISABLE turns it off; STATUS_LINE_WRITE writes the status line with the indices as they are; INTR_COALESCE of
an armed ring with entries not signalled raises one interrupt; EVENT_RAISE of a code that is neither masked nor held
stores the event with time, unit and arguments; EVT_HOLD_END stores the last event held with the number of those
that came; FUNC_MODE_WRITE stores the modes; HOST_WATCHDOG with a mode set returns every function to the device;
HOST_LINK_LOST with no half Active does the same; HOST_BACK with a half Active ends the loss. (09_host_interface.md,
Rings; 09_host_interface.md, Events; 09_host_interface.md, Ordering and interrupts; 09_host_interface.md, Functions
and their modes) -/
def Obligations.RingsAndEvents : Prop :=
  -- RING_ENABLE of a ring that is off sets its indices to 0.
  (∀ (s : State) (p : Plane) (r : Ring), s.live p = true → s.ringOn p r.num = false → (s.pl p).hif.events = [] → ∃
      t, exec (.ringEnable p r) s = .next t ∧ t.ringOn p r.num = true ∧ (t.ring p r.num).pi = 0 ∧ (t.ring p
      r.num).ci = 0 ∧ t.word p .HIF_RING_IDX r.num 0 = 0) ∧
  -- RING_DISABLE turns it off.
  (∀ (s : State) (p : Plane) (r : Ring), s.live p = true → s.ringOn p r.num = true → ∃ t, exec (.ringDisable p r) s
      = .next t ∧ t.ringOn p r.num = false) ∧
  -- STATUS_LINE_WRITE writes the status line with the indices as they are.
  (∀ (s : State) (p : Plane), s.live p = true → (s.pl p).hif.statDue = true → s.reportOut p = false → ∃ t, exec
      (.statusLineWrite p) s = .next t ∧ (t.pl p).hif.statDue = false ∧ (∃ q, q ∈ (t.pl p).hif.outst ++ (t.pl
      p).hif.waiting ∧ q.what = .status ∧ q.msg.line = slice 0 64 (s.statBytes p))) ∧
  -- INTR_COALESCE of an armed ring with entries not signalled raises one interrupt.
  (∀ (s : State) (p : Plane) (r : Ring), s.live p = true → r ≠ .cmdq → s.ringOn p r.num = true → (s.ring p
      r.num).armed = true → 0 < (s.ring p r.num).unsig → s.reportOut p = false → ∃ t, exec (.intrCoalesce p r) s =
      .next t ∧ t.fld p Fld.HIF_INTR_CNT.N 0 = satInc 32 (s.fld p Fld.HIF_INTR_CNT.N 0) ∧ (t.ring p r.num).latched =
      (s.ring p r.num).arm ∧ (t.ring p r.num).unsig = 0) ∧
  -- EVENT_RAISE of a code that is neither masked nor held stores the event with time, unit and arguments.
  (∀ (s : State) (p : Plane) (code : BitVec 16) (unit : Word) (args : List Word), s.live p = true → s.evtMasked p
      code = false → (heldCodes.contains code = false ∨ s.fld p Fld.HIF_EVT_CFG.EVT_HOLD 0 = 0) → s.ringOn p 2 =
      false → (s.pl p).hif.events.length < 256 → ∃ t, exec (.eventRaise p code unit args) s = .next t ∧ (t.pl
      p).hif.events = (s.pl p).hif.events ++ [⟨code, 0, s.now p, unit, args⟩]) ∧
  -- EVT_HOLD_END stores the last event held with the number of those that came.
  (∀ (s : State) (p : Plane) (code : BitVec 16) (unit : Word) (tr : Tracker), s.live p = true → (s.pl
      p).hif.trackers.find? (fun x => x.code == code && x.unit == unit) = some tr → tr.held ≠ 0 → s.evtMasked p code
      = false → s.ringOn p 2 = false → (s.pl p).hif.events.length < 256 → ∃ t, exec (.evtHoldEnd p code unit) s =
      .next t ∧ (t.pl p).hif.trackers = (s.pl p).hif.trackers.erase tr ∧ (t.pl p).hif.events = (s.pl p).hif.events
      ++ [{ tr.last with rep := BitVec.ofNat 32 tr.held }]) ∧
  -- FUNC_MODE_WRITE stores the modes.
  (∀ (s : State) (p : Plane) (v : Word), s.live p = true → ∃ t, exec (.funcModeWrite p v) s = .next t ∧ t.fld p
      Fld.HIF_FUNC_MODE.MODE 0 = v.toNat % 128) ∧
  -- HOST_WATCHDOG with a mode set returns every function to the device.
  (∀ (s : State) (p : Plane), s.live p = true → s.fld p Fld.HIF_FUNC_MODE.MODE 0 ≠ 0 → s.fld p
      Fld.HIF_WDT_CFG.HOST_WDT 0 ≠ 0 → ∃ t, exec (.hostWatchdog p) s = .next t ∧ t.fld p Fld.HIF_FUNC_MODE.MODE 0 =
      0 ∧ (t.pl p).hif.hostLost = true) ∧
  -- HOST_LINK_LOST with no half Active does the same.
  (∀ (s : State) (p : Plane), s.live p = true → s.glStage .hoist ≠ 5 → s.glStage .fly ≠ 5 → ∃ t, exec (.hostLinkLost
      p) s = .next t ∧ t.fld p Fld.HIF_FUNC_MODE.MODE 0 = 0 ∧ (t.pl p).hif.hostLost = true) ∧
  -- HOST_BACK with a half Active ends the loss.
  (∀ (s : State) (p : Plane), s.live p = true → (s.pl p).hif.hostLost = true → (s.glStage .hoist = 5 ∨ s.glStage
      .fly = 5) → ∃ t, exec (.hostBack p) s = .next t ∧ (t.pl p).hif.hostLost = false)

/-- Heartbeats, the role of active Canton, the journal and health. Each command answers a next state under the
stated conditions (no mailbox request waits, where the clause says so), and the next state holds what is named:
HEARTBEAT_SEND numbers the next heartbeat; HEARTBEAT stores the role and the journal number of the other Canton;
HEARTBEAT_MISS at a standby that may take over moves the role, fences the other and counts a takeover in both
planes; at one that may not, the package has no active Canton; CANTON_CLAIM with no active Canton gives the role to
the one that claims, and to CANTON_SEL's where both do; HANDOVER by the control bit starts a handover; HANDOVER_ACK
completes it; JOURNAL_RECORD at a standby stores the record under its item and key and the number reached;
HEALTH_REPORT numbers the report and shows it in CAN_HEALTH. (10_management.md, Active and standby;
10_management.md, Takeover) -/
def Obligations.CantonRoles : Prop :=
  -- HEARTBEAT_SEND numbers the next heartbeat.
  (∀ (s : State) (p : Plane), s.canUp p = true → ∃ t, exec (.heartbeatSend p) s = .next t ∧ (t.pl p).can.hbSeq =
      (s.pl p).can.hbSeq + 1) ∧
  -- HEARTBEAT stores the role and the journal number of the other Canton.
  (∀ (s : State) (p : Plane) (role : BitVec 2) (seq : BitVec 16) (jrn : BitVec 32) (time : BitVec 64) (health :
      BitVec 16), s.canUp p = true → s.halUp p = true → (s.mgr = some p ∨ role.toNat ≠ 0) → s.pkg.activating = none
      → (∀ q, s.flag q Fld.CAN_MBOX_CTL.SEND 0 = false) → ∃ t, exec (.heartbeat p role seq jrn time health) s =
      .next t ∧ (t.pl p).can.peerRole = roleOf role.toNat ∧ (t.pl p).can.jrnHeard = jrn) ∧
  -- HEARTBEAT_MISS at a standby that may take over moves the role, fences the other and counts a takeover in both planes.
  (∀ (s : State) (p : Plane), s.canEligible p = true → s.pkg.active = some p.other → s.halUp p = true → s.pkg.split
      = false → s.power ≠ 0 → s.power = s.target p → (∀ q, s.flag q Fld.CAN_MBOX_CTL.SEND 0 = false) → ∃ t, exec
      (.heartbeatMiss p) s = .next t ∧ t.pkg.active = some p ∧ (t.pl p).can.role = .active ∧ (t.pl
      (p).other).can.role = .booting ∧ t.pkg.handing = false ∧ ∀ r, t.fld r Fld.CAN_TAKEOVER_CNT.N 0 = satInc 32
      (s.fld r Fld.CAN_TAKEOVER_CNT.N 0)) ∧
  -- At one that may not, the package has no active Canton.
  (∀ (s : State) (p : Plane), s.canUp p = true → (s.pl p).can.role = .standby → s.canEligible p = false →
      s.pkg.active = some p.other → s.halUp p = true → s.pkg.split = false → (∀ q, s.flag q Fld.CAN_MBOX_CTL.SEND 0
      = false) → ∃ t, exec (.heartbeatMiss p) s = .next t ∧ t.pkg.active = none ∧ (t.pl p.other).can.role = .booting
      ∧ (t.pl p).can.role = .standby) ∧
  -- CANTON_CLAIM with no active Canton gives the role to the one that claims, and to CANTON_SEL's where both do.
  (∀ (s : State) (p : Plane) (q : Plane), s.pkg.active = none → s.claims p = true → q = (if s.claims p.other = true
      then (if s.flag p Fld.TOP_STRAP.CANTON_SEL 0 = true then Plane.fly else Plane.hoist) else p) → s.power ≠ 0 →
      s.power = s.target q → (∀ q, s.flag q Fld.CAN_MBOX_CTL.SEND 0 = false) → ∃ t, exec (.cantonClaim p) s = .next
      t ∧ t.pkg.active = some q ∧ (t.pl q).can.role = .active ∧ (t.pl (q).other).can.role = .booting ∧ t.pkg.handing
      = false ∧ ∀ r, t.fld r Fld.CAN_TAKEOVER_CNT.N 0 = satInc 32 (s.fld r Fld.CAN_TAKEOVER_CNT.N 0)) ∧
  -- HANDOVER by the control bit starts a handover.
  (∀ (s : State) (p : Plane), s.pkg.resetN = true → s.live p = true → s.mgr = some p → s.canHand = true → ∃ t, exec
      (.handover p none) s = .next t ∧ t.flag p Fld.CAN_CTL.HANDOVER 0 = true ∧ t.pkg.handing = true ∧ (t.pl
      p).can.role = .handing) ∧
  -- HANDOVER_ACK completes it.
  (∀ (s : State) (p : Plane), s.pkg.handing = true → s.canHand = true → s.mgr = some p.other → s.power ≠ 0 → s.power
      = s.target p → (∀ q, s.flag q Fld.CAN_MBOX_CTL.SEND 0 = false) → ∃ t, exec (.handoverAck p) s = .next t ∧
      t.pkg.active = some p ∧ (t.pl p).can.role = .active ∧ (t.pl (p).other).can.role = .booting ∧ t.pkg.handing =
      false ∧ ∀ r, t.fld r Fld.CAN_TAKEOVER_CNT.N 0 = satInc 32 (s.fld r Fld.CAN_TAKEOVER_CNT.N 0)) ∧
  -- JOURNAL_RECORD at a standby stores the record under its item and key and the number reached.
  (∀ (s : State) (p : Plane) (seq : BitVec 32) (r : JournalRec), s.canUp p = true → s.halUp p = true → (s.pl
      p).can.role ≠ .booting → s.pkg.active ≠ some p → ∃ t, exec (.journalRecord p seq r) s = .next t ∧ (t.pl
      p).can.jrn = seq ∧ (t.pl p).can.journal = mset [] (r.item.toNat * 2 ^ 32 + r.key % 2 ^ 32) r.data (s.pl
      p).can.journal) ∧
  -- HEALTH_REPORT numbers the report and shows it in CAN_HEALTH.
  (∀ (s : State) (p : Plane) (agree flashOk : Bool), s.canUp p = true → (s.pl p).can.role ≠ .booting →
      s.pkg.activating = none → (∀ q, s.flag q Fld.CAN_MBOX_CTL.SEND 0 = false) → ∃ t, exec (.healthReport p agree
      flashOk) s = .next t ∧ (t.pl p).can.healthSeq = (s.pl p).can.healthSeq + 1 ∧ ∀ w, w < 16 → t.word p
      .CAN_HEALTH w 0 = wn (leNat (slice (4 * w) 4 (t.pl p).can.health)))

/-- Self-tests, watchdog and boot of a Canton. Each command answers a next state under the stated conditions, and
the next state holds what is named: SELF_TEST_TICK stores the known-answer result or takes one of 256 segments of
the march, whose last shows the result; CANTON_WATCHDOG restarts the Canton and leaves the role where it is;
CANTON_BOOT with a good image in the preferred slot runs it with its measurement; CANTON_BOOT_DONE of a good boot
makes a Canton that is not active the standby; of a failed boot it counts one failure, the third of which fences the
Canton. (10_management.md, Active and standby; 10_management.md, Takeover; 10_management.md, Boot and identity) -/
def Obligations.CantonBoot : Prop :=
  -- SELF_TEST_TICK stores the known-answer result or takes one of 256 segments of the march, whose last shows the result.
  (∀ (s : State) (p : Plane) (kat ok : Bool), s.canUp p = true → (s.pl p).can.role = .standby → ∃ t, exec
      (.selfTestTick p kat ok) s = .next t ∧ (kat = true → (t.pl p).can.katOk = ok) ∧ (kat = false → (s.pl
      p).can.marchSeg + 1 < 256 → (t.pl p).can.marchSeg = (s.pl p).can.marchSeg + 1 ∧ (t.pl p).can.marchGood =
      ((s.pl p).can.marchGood && ok)) ∧ (kat = false → 256 ≤ (s.pl p).can.marchSeg + 1 → (t.pl p).can.marchSeg = 0 ∧
      (t.pl p).can.sramOk = ((s.pl p).can.marchGood && ok) ∧ (t.pl p).can.marches = (s.pl p).can.marches + 1)) ∧
  -- CANTON_WATCHDOG restarts the Canton and leaves the role where it is.
  (∀ (s : State) (p : Plane), s.canUp p = true → (s.pl p).can.role ≠ .booting → s.fld p Fld.CAN_HB_CFG.WDT_MS 0 ≠ 0
      → ∃ t, exec (.cantonWatchdog p) s = .next t ∧ (t.pl p).can.role = .booting ∧ t.flag p Fld.CAN_BOOT_STAT.OK 0 =
      false ∧ t.pkg.active = s.pkg.active) ∧
  -- CANTON_BOOT with a good image in the preferred slot runs it with its measurement.
  (∀ (s : State) (p : Plane) (v : FlashView) (c : Nat) (d : FlashDir), s.canUp p = true → (s.pl p).can.role =
      .booting → (s.pl p).can.imgRuns = false → (s.setView p (some v)).flashDir p = some (c, d) → d.pref ≤ 1 →
      imageCode 1 s.pkg.svnFw s.pkg.revoked ((s.setView p (some v)).slotHdr p d d.pref) ((s.setView p (some
      v)).slotProof p d d.pref) = 0 → s.pkg.activating = none → (∀ q, s.flag q Fld.CAN_MBOX_CTL.SEND 0 = false) → ∃
      t, exec (.cantonBoot p (some v)) s = .next t ∧ (t.pl p).can.imgRuns = true ∧ (t.pl p).can.inRom = false ∧
      (t.pl p).can.fwMeas = slice 0 64 (Config.shake256 (slice 0 256 ((s.setView p (some v)).slotHdr p d d.pref))) ∧
      t.fld p Fld.CAN_BOOT_STAT.SLOT 0 = d.pref ∧ t.flag p Fld.CAN_BOOT_STAT.FALLBACK 0 = false) ∧
  -- CANTON_BOOT_DONE of a good boot makes a Canton that is not active the standby.
  (∀ (s : State) (p : Plane) (mc : Option Image), s.canUp p = true → (s.pl p).can.role = .booting → (s.pl
      p).can.imgRuns = true → s.pkg.active ≠ some p → s.halUp .hoist = true → s.halUp .fly = true → s.power ≠ 0 →
      s.power = s.target p.other → s.pkg.activating = none → (∀ q, s.flag q Fld.CAN_MBOX_CTL.SEND 0 = false) → ∃ t,
      exec (.cantonBootDone p true mc) s = .next t ∧ (t.pl p).can.role = .standby ∧ (t.pl p).can.bootFails = 0 ∧
      t.flag p Fld.CAN_BOOT_STAT.OK 0 = true) ∧
  -- Of a failed boot it counts one failure, the third of which fences the Canton.
  (∀ (s : State) (p : Plane) (mc : Option Image), s.canUp p = true → (s.pl p).can.role = .booting → (s.pl
      p).can.imgRuns = true → s.pkg.activating = none → (∀ q, s.flag q Fld.CAN_MBOX_CTL.SEND 0 = false) → ∃ t, exec
      (.cantonBootDone p false mc) s = .next t ∧ (t.pl p).can.imgRuns = false ∧ (t.pl p).can.bootFails = (s.pl
      p).can.bootFails + 1 ∧ (3 ≤ (s.pl p).can.bootFails + 1 → s.pkg.active = some p.other → (t.pl p).can.fenced =
      true))

/-- Management requests that report. At the active Canton, over Ethernet, not split and with no journal record
unacknowledged, each request is answered in parts of the stated bytes: HEALTH_GET is answered with the reports of
both Cantons, Hoist's first; INVENTORY_GET with the inventory, and of a master with the members' after it;
SENSOR_GET with the sensor words it names; ATTEST with the evidence over its nonce; NEIGHBOUR_GET with the
neighbours of the ports; a code that does not exist with UNSUPPORTED and nothing else. (10_management.md, Management
messages; 10_management.md, Inventory; 10_management.md, Sensors; 10_management.md, Boot and identity) -/
def Obligations.ManagementReports : Prop :=
  -- HEALTH_GET is answered with the reports of both Cantons, Hoist's first.
  (∀ (s : State) (p : Plane) (req : MgmtReq), s.pkg.resetN = true → s.mgr = some p → s.pkg.split = false → s.waits p
      = false → req.transport = .ethernet → ((req.target = 0xFF ∨ req.target.toNat = s.slot)) → ∃ t, exec
      (.healthGet req) s = .next t ∧ t.out = (((partsOf (if p = Plane.hoist then slice 0 64 (s.pl p).can.health ++
      slice 0 64 (s.pl p).can.peerRep else slice 0 64 (s.pl p).can.peerRep ++ slice 0 64 (s.pl
      p).can.health)).zipIdx).map (fun e => Out.mgmt .ethernet (msgHeader 1 (1 + 8 * b2n (decide (e.2 + 1 < (partsOf
      (if p = Plane.hoist then slice 0 64 (s.pl p).can.health ++ slice 0 64 (s.pl p).can.peerRep else slice 0 64
      (s.pl p).can.peerRep ++ slice 0 64 (s.pl p).can.health)).length))) 0 req.seq req.target e.2 e.1.length ++
      e.1))).reverse ++ s.out) ∧
  -- INVENTORY_GET with the inventory, and of a master with the members' after it.
  (∀ (s : State) (p : Plane) (req : MgmtReq) (members : List (BitVec 4 × Bytes)), s.pkg.resetN = true → s.mgr = some
      p → s.pkg.split = false → s.waits p = false → req.transport = .ethernet → ((req.target = 0xFF ∨
      req.target.toNat = s.slot)) → ∃ t, exec (.inventoryGet req members) s = .next t ∧ t.out = (((partsOf
      (s.inventoryBytes ++ (if s.isMaster = true then members.flatMap (·.2) else []))).zipIdx).map (fun e =>
      Out.mgmt .ethernet (msgHeader 2 (1 + 8 * b2n (decide (e.2 + 1 < (partsOf (s.inventoryBytes ++ (if s.isMaster =
      true then members.flatMap (·.2) else []))).length))) 0 req.seq req.target e.2 e.1.length ++ e.1))).reverse ++
      s.out) ∧
  -- SENSOR_GET with the sensor words it names.
  (∀ (s : State) (p : Plane) (req : MgmtReq), s.pkg.resetN = true → s.mgr = some p → s.pkg.split = false → s.waits p
      = false → req.transport = .ethernet → ((req.target = 0xFF ∨ req.target.toNat = s.slot)) → ∃ t, exec
      (.sensorGet req) s = .next t ∧ t.out = (((partsOf ((((List.range (leNat (slice 1 1 req.body))).map (· + leNat
      (slice 0 1 req.body))).filter (· < 119)).flatMap (fun k => leBytes 4 (s.word p .CAN_SENSOR k
      0).toNat))).zipIdx).map (fun e => Out.mgmt .ethernet (msgHeader 3 (1 + 8 * b2n (decide (e.2 + 1 < (partsOf
      ((((List.range (leNat (slice 1 1 req.body))).map (· + leNat (slice 0 1 req.body))).filter (· < 119)).flatMap
      (fun k => leBytes 4 (s.word p .CAN_SENSOR k 0).toNat))).length))) 0 req.seq req.target e.2 e.1.length ++
      e.1))).reverse ++ s.out) ∧
  -- ATTEST with the evidence over its nonce.
  (∀ (s : State) (p : Plane) (req : MgmtReq), s.pkg.resetN = true → s.mgr = some p → s.pkg.split = false → s.waits p
      = false → req.transport = .ethernet → ((req.target = 0xFF ∨ req.target.toNat = s.slot)) → ∃ t, exec (.attest
      req) s = .next t ∧ t.out = (((partsOf (s.attestBytes p (slice 0 32 req.body))).zipIdx).map (fun e => Out.mgmt
      .ethernet (msgHeader 4 (1 + 8 * b2n (decide (e.2 + 1 < (partsOf (s.attestBytes p (slice 0 32
      req.body))).length))) 0 req.seq req.target e.2 e.1.length ++ e.1))).reverse ++ s.out) ∧
  -- NEIGHBOUR_GET with the neighbours of the ports.
  (∀ (s : State) (p : Plane) (req : MgmtReq), s.pkg.resetN = true → s.mgr = some p → s.pkg.split = false → s.waits p
      = false → req.transport = .ethernet → ((req.target = 0xFF ∨ req.target.toNat = s.slot)) → ∃ t, exec
      (.neighbourGet req) s = .next t ∧ t.out = (((partsOf (Config.recordBytes 3 ((s.neighRows.filter (fun e =>
      e.2.isSome)).flatMap neighNumbers))).zipIdx).map (fun e => Out.mgmt .ethernet (msgHeader 5 (1 + 8 * b2n
      (decide (e.2 + 1 < (partsOf (Config.recordBytes 3 ((s.neighRows.filter (fun e => e.2.isSome)).flatMap
      neighNumbers))).length))) 0 req.seq req.target e.2 e.1.length ++ e.1))).reverse ++ s.out) ∧
  -- A code that does not exist with UNSUPPORTED and nothing else.
  (∀ (s : State) (p : Plane) (req : MgmtReq) (code : Byte), s.pkg.resetN = true → s.mgr = some p → s.pkg.split =
      false → s.waits p = false → req.transport = .ethernet → ((req.target = 0xFF ∨ req.target.toNat = s.slot)) →
      mgmtCodes.contains code.toNat = false → ∃ t, exec (.mgmtUnknown req code) s = .next t ∧ t.out.head? = some
      (.mgmt .ethernet (msgHeader code.toNat 1 1 req.seq req.target 0 0)))

/-- Management requests that act. At the active Canton, over Ethernet but for the last, not split, with no journal
record unacknowledged and the signature good where it needs one, each request answers OK, but FW_ACTIVATE, which
answers later: SVN_COMMIT raises the anti-rollback counter of its type to the running image's number; KEY_REVOKE
signed by another key that is not revoked revokes the key; OWNER_SET with no owner stores the fingerprint; CAP_SET
of the rack manager's cap stores it; FW_WRITE writes the bytes into the slot not preferred of both flash devices;
FW_ACTIVATE makes the other slot preferred in both directories and restarts the standby; MASTER_HANDOVER at the
master gives the role to the member named; HANDOVER by request starts a handover; POWER_SET of a limit that no move
follows stores it; MBOX_SEND of HEALTH_GET fills CAN_MBOX_RX with the answer, clears SEND and BUSY and sets DONE.
(10_management.md, Management messages; 10_management.md, Boot and identity; 10_management.md, The tray;
10_management.md, Power) -/
def Obligations.ManagementOrders : Prop :=
  -- SVN_COMMIT raises the anti-rollback counter of its type to the running image's number.
  (∀ (s : State) (p : Plane) (req : MgmtReq), s.pkg.resetN = true → s.mgr = some p → s.pkg.split = false → s.waits p
      = false → req.transport = .ethernet → ((req.target = 0xFF ∨ req.target.toNat = s.slot)) → s.sigStatus 0x22 req
      = 0 → (mgmtArgs req).length = 1 → 1 ≤ leNat (slice 0 1 (mgmtArgs req)) → leNat (slice 0 1 (mgmtArgs req)) ≤ 2
      → ∃ t, exec (.svnCommit req) s = .next t ∧ (leNat (slice 0 1 (mgmtArgs req)) = 1 → t.pkg.svnFw = max
      s.pkg.svnFw (s.fld p Fld.CAN_BOOT_STAT.FW_SVN 0) ∧ t.pkg.svnMc = s.pkg.svnMc) ∧ (leNat (slice 0 1 (mgmtArgs
      req)) = 2 → t.pkg.svnMc = max s.pkg.svnMc (s.pl p).can.mcSvn ∧ t.pkg.svnFw = s.pkg.svnFw) ∧ t.pkg.signedSeq =
      req.seq ∧ t.out.head? = some (.mgmt .ethernet (msgHeader 0x22 1 0 req.seq req.target 0 0))) ∧
  -- KEY_REVOKE signed by another key that is not revoked revokes the key.
  (∀ (s : State) (p : Plane) (req : MgmtReq) (signer : Option (Fin 4)) (j : Fin 4), s.pkg.resetN = true → s.mgr =
      some p → s.pkg.split = false → s.waits p = false → req.transport = .ethernet → ((req.target = 0xFF ∨
      req.target.toNat = s.slot)) → s.sigStatus 0x23 req = 0 → 1 ≤ (mgmtArgs req).length → leNat (slice 0 1
      (mgmtArgs req)) < 4 → signer = some j → j.val ≠ leNat (slice 0 1 (mgmtArgs req)) → s.pkg.revoked.getLsbD j.val
      = false → (List.range 4).filter (fun x => decide (x < 4) && !s.pkg.revoked.getLsbD x) ≠ [leNat (slice 0 1
      (mgmtArgs req))] → ∃ t, exec (.keyRevoke req signer) s = .next t ∧ t.pkg.revoked = (s.pkg.revoked |||
      BitVec.ofNat 4 (2 ^ leNat (slice 0 1 (mgmtArgs req)))) ∧ t.pkg.signedSeq = req.seq ∧ t.out.head? = some (.mgmt
      .ethernet (msgHeader 0x23 1 0 req.seq req.target 0 0))) ∧
  -- OWNER_SET with no owner stores the fingerprint.
  (∀ (s : State) (p : Plane) (req : MgmtReq), s.pkg.resetN = true → s.mgr = some p → s.pkg.split = false → s.waits p
      = false → req.transport = .ethernet → ((req.target = 0xFF ∨ req.target.toNat = s.slot)) → s.sigStatus 0x24 req
      = 0 → s.pkg.ownerFp = none → ∃ t, exec (.ownerSet req) s = .next t ∧ t.pkg.ownerFp = some (slice 0 32 req.fp)
      ∧ t.pkg.signedSeq = req.seq ∧ t.out.head? = some (.mgmt .ethernet (msgHeader 0x24 1 0 req.seq req.target 0
      0))) ∧
  -- CAP_SET of the rack manager's cap stores it.
  (∀ (s : State) (p : Plane) (req : MgmtReq), s.pkg.resetN = true → s.mgr = some p → s.pkg.split = false → s.waits p
      = false → req.transport = .ethernet → ((req.target = 0xFF ∨ req.target.toNat = s.slot)) → s.sigStatus 0x10 req
      = 0 → (mgmtArgs req).length = 3 → s.noOrders = false → leNat (slice 0 1 (mgmtArgs req)) = 0 → ∃ t, exec
      (.capSet req) s = .next t ∧ (∀ q, t.fld q Fld.CAN_CAP_RM.CAP 0 = leNat (slice 1 2 (mgmtArgs req))) ∧
      t.pkg.signedSeq = req.seq ∧ t.out.head? = some (.mgmt .ethernet (msgHeader 0x10 1 0 req.seq req.target 0 0))) ∧
  -- FW_WRITE writes the bytes into the slot not preferred of both flash devices.
  (∀ (s : State) (p : Plane) (req : MgmtReq) (c : Plane → Nat) (d : Plane → FlashDir), s.pkg.resetN = true → s.mgr =
      some p → s.pkg.split = false → s.waits p = false → req.transport = .ethernet → ((req.target = 0xFF ∨
      req.target.toNat = s.slot)) → s.sigStatus 0x20 req = 0 → 4 ≤ (mgmtArgs req).length → (mgmtArgs req).length ≤
      1028 → leNat (slice 0 4 (mgmtArgs req)) + ((mgmtArgs req).length - 4) ≤ 1048576 → (∀ q, s.flashDir q = some (c
      q, d q)) → ∃ t, exec (.fwWrite req) s = .next t ∧ (∀ q j, j < (mgmtArgs req).length - 4 → mget none (slotOff
      (d q) (1 - (d q).pref) + leNat (slice 0 4 (mgmtArgs req)) + j) (t.flashOf q) = ((mgmtArgs req).drop 4)[j]?) ∧
      t.pkg.signedSeq = req.seq ∧ t.out.head? = some (.mgmt .ethernet (msgHeader 0x20 1 0 req.seq req.target 0 0))) ∧
  -- FW_ACTIVATE makes the other slot preferred in both directories and restarts the standby.
  (∀ (s : State) (p : Plane) (req : MgmtReq) (c : Plane → Nat) (d : Plane → FlashDir), s.pkg.resetN = true → s.mgr =
      some p → s.pkg.split = false → s.waits p = false → req.transport = .ethernet → ((req.target = 0xFF ∨
      req.target.toNat = s.slot)) → s.sigStatus 0x21 req = 0 → (∀ q, s.flashDir q = some (c q, d q)) → s.noOrders =
      false → s.pkg.handing = false → s.pkg.activating = none → (s.pl p.other).can.fenced = false → ∃ t, exec
      (.fwActivate req) s = .next t ∧ t.pkg.activating = some ⟨req, (d .hoist).pref, (d .fly).pref, (s.pl
      p.other).can.bootFails⟩ ∧ (t.pl p.other).can.role = .booting ∧ (∀ q j, j < 20 → mget none (0x1000 * (1 - c q)
      + j) (t.flashOf q) = (dirBytes { (d q) with seq := ((d q).seq + 1) % 2 ^ 32, pref := 1 - (d q).pref })[j]?) ∧
      t.pkg.signedSeq = req.seq) ∧
  -- MASTER_HANDOVER at the master gives the role to the member named.
  (∀ (s : State) (p : Plane) (req : MgmtReq), s.pkg.resetN = true → s.mgr = some p → s.pkg.split = false → s.waits p
      = false → req.transport = .ethernet → ((req.target = 0xFF ∨ req.target.toNat = s.slot)) → s.sigStatus 0x31 req
      = 0 → (mgmtArgs req).length = 1 → leNat (slice 0 1 (mgmtArgs req)) < 8 → s.isMaster = true → s.heardOk (leNat
      (slice 0 1 (mgmtArgs req))) = true → (s.pkg.master.map (fun v => v.toNat)).getD 15 ≠ leNat (slice 0 1
      (mgmtArgs req)) → ∃ t, exec (.masterHandover req) s = .next t ∧ t.pkg.master = some (BitVec.ofNat 3 (leNat
      (slice 0 1 (mgmtArgs req)))) ∧ (∀ q, t.fld q Fld.CAN_STAT.MASTER_SLOT 0 = leNat (slice 0 1 (mgmtArgs req)) ∧
      t.flag q Fld.CAN_STAT.MASTER 0 = decide (leNat (slice 0 1 (mgmtArgs req)) = s.slot)) ∧ t.pkg.signedSeq =
      req.seq ∧ t.out.head? = some (.mgmt .ethernet (msgHeader 0x31 1 0 req.seq req.target 0 0))) ∧
  -- HANDOVER by request starts a handover.
  (∀ (s : State) (p : Plane) (req : MgmtReq), s.pkg.resetN = true → s.mgr = some p → s.pkg.split = false → s.waits p
      = false → req.transport = .ethernet → ((req.target = 0xFF ∨ req.target.toNat = s.slot)) → s.sigStatus 0x30 req
      = 0 → s.canHand = true → ∃ t, exec (.handover p (some req)) s = .next t ∧ t.pkg.handing = true ∧ (t.pl
      p).can.role = .handing ∧ t.pkg.signedSeq = req.seq ∧ t.out.head? = some (.mgmt .ethernet (msgHeader 0x30 1 0
      req.seq req.target 0 0))) ∧
  -- POWER_SET of a limit that no move follows stores it.
  (∀ (s : State) (p : Plane) (req : MgmtReq), s.pkg.resetN = true → s.mgr = some p → s.pkg.split = false → s.waits p
      = false → req.transport = .ethernet → ((req.target = 0xFF ∨ req.target.toNat = s.slot)) → s.sigStatus 0x11 req
      = 0 → (mgmtArgs req).length = 1 → leNat (slice 0 1 (mgmtArgs req)) ≤ 3 → s.noOrders = false → s.power ≠ 0 →
      s.power ≤ min (leNat (slice 0 1 (mgmtArgs req))) (s.hostReq p) → ∃ t, exec (.powerSet req) s = .next t ∧ (∀ q,
      t.fld q Fld.CAN_PWR_STATE.RM_LIMIT 0 = leNat (slice 0 1 (mgmtArgs req))) ∧ t.pkg.signedSeq = req.seq ∧
      t.out.head? = some (.mgmt .ethernet (msgHeader 0x11 1 0 req.seq req.target 0 0))) ∧
  -- MBOX_SEND of HEALTH_GET fills CAN_MBOX_RX with the answer, clears SEND and BUSY and sets DONE.
  (∀ (s : State) (p : Plane) (r : Plane) (b : Bytes), s.live p = true → s.flag p Fld.CAN_MBOX_CTL.BUSY 0 = false →
      s.flag p.other Fld.CAN_MBOX_CTL.SEND 0 = false → s.mgr = some r → s.pkg.split = false → (s.pl p).can.inRom =
      false → b = slice 0 (min 1280 (s.fld p Fld.CAN_MBOX_CTL.LEN 0)) ((List.range 320).flatMap (fun w => leBytes 4
      (s.word p .CAN_MBOX_TX w 0).toNat)) → (parseReq p .mailbox b).1 = 1 → (parseReq p .mailbox b).2.target = 0xFF
      → ∃ t, exec (.mboxSend p) s = .next t ∧ t.flag p Fld.CAN_MBOX_CTL.SEND 0 = false ∧ t.flag p
      Fld.CAN_MBOX_CTL.BUSY 0 = false ∧ t.flag p Fld.CAN_MBOX_CTL.DONE 0 = true ∧ ∀ w, w < 36 → t.word p
      .CAN_MBOX_RX w 0 = wn (leNat (slice (4 * w) 4 (msgHeader 1 1 0 (parseReq p .mailbox b).2.seq 0xFF 0 128 ++ (if
      r = Plane.hoist then slice 0 64 (s.pl r).can.health ++ slice 0 64 (s.pl r).can.peerRep else slice 0 64 (s.pl
      r).can.peerRep ++ slice 0 64 (s.pl r).can.health)))))

/-- Cascade frames, announcements and tray time. Each command answers a next state under the stated conditions, and
the next state holds what is named: CASCADE_MSG for another member goes on at the other side; a notice for this
device, the tray master, leaves on Ethernet; ANNOUNCE_SEND sends the announcement on both sides; ANNOUNCE stores
what is known of its sender; one of a master with a lower slot, or heard by a device that is no master, is followed;
MEMBER_LOST at the master forgets the member; a TIME frame of the master sets the tray time with the delay of its
side; a request for the delay is echoed; an echo gives half its round trip as the delay; TRAY_TIME_SEND of the
master sends the time on both sides; or asks for the delay; POWER_FRAME stores this device's share of the tray cap.
(10_management.md, The tray; 10_management.md, Power) -/
def Obligations.TrayFrames : Prop :=
  -- CASCADE_MSG for another member goes on at the other side.
  (∀ (s : State) (p : Plane) (side : Sys2Proof.Side) (f : CascFrame), s.cascEn = true → s.mgr = some p → f.crcOk =
      true → f.src.toNat ≠ s.slot → f.dst.toNat ≠ s.slot → f.dst ≠ 0xF → ∃ t, exec (.cascadeMsg side f) s = .next t
      ∧ t.out = .casc (Side.opposite side) f :: s.out ∧ t.sideUp side = true) ∧
  -- A notice for this device, the tray master, leaves on Ethernet.
  (∀ (s : State) (p : Plane) (side : Sys2Proof.Side) (f : CascFrame), s.cascEn = true → s.mgr = some p → f.crcOk =
      true → f.src.toNat ≠ s.slot → f.dst.toNat = s.slot → f.type = 2 → 16 ≤ f.payload.length → bit 0 (leNat (slice
      2 1 f.payload)) = false → bit 2 (leNat (slice 2 1 f.payload)) = true → s.isMaster = true → ∃ t, exec
      (.cascadeMsg side f) s = .next t ∧ t.out = .mgmt .ethernet f.payload :: s.out) ∧
  -- ANNOUNCE_SEND sends the announcement on both sides.
  (∀ (s : State) (p : Plane), s.cascEn = true → s.mgr = some p → s.waits p = false → ∃ t, exec (.announceSend) s =
      .next t ∧ t.out = .casc .prev ⟨BitVec.ofNat 4 s.slot, 0xF, 1, (Config.recordBytes 4 [s.slot,
      Config.serial.toNat, b2n s.ownOk, b2n s.isMaster]), true⟩ :: .casc .next ⟨BitVec.ofNat 4 s.slot, 0xF, 1,
      (Config.recordBytes 4 [s.slot, Config.serial.toNat, b2n s.ownOk, b2n s.isMaster]), true⟩ :: s.out) ∧
  -- ANNOUNCE stores what is known of its sender.
  (∀ (s : State) (p : Plane) (slot : BitVec 3) (serial : BitVec 64) (eligible : Bool), s.cascEn = true → s.mgr =
      some p → slot.toNat ≠ s.slot → ∃ t, exec (.announce slot serial eligible false) s = .next t ∧ t.heardAt
      slot.toNat = some ⟨serial, eligible, false, s.ticks⟩) ∧
  -- One of a master with a lower slot, or heard by a device that is no master, is followed.
  (∀ (s : State) (p : Plane) (slot : BitVec 3) (serial : BitVec 64) (eligible : Bool), s.cascEn = true → s.mgr =
      some p → slot.toNat ≠ s.slot → (s.isMaster = false ∨ slot.toNat < s.slot) → (s.pkg.master.map (fun v =>
      v.toNat)).getD 15 ≠ slot.toNat → ∃ t, exec (.announce slot serial eligible true) s = .next t ∧ t.pkg.master =
      some (BitVec.ofNat 3 slot.toNat) ∧ ∀ q, t.fld q Fld.CAN_STAT.MASTER_SLOT 0 = slot.toNat ∧ t.flag q
      Fld.CAN_STAT.MASTER 0 = false) ∧
  -- MEMBER_LOST at the master forgets the member.
  (∀ (s : State) (p : Plane) (slot : BitVec 3), s.cascEn = true → s.mgr = some p → s.isMaster = true → slot.toNat ≠
      s.slot → (s.heardAt slot.toNat).isSome = true → ∃ t, exec (.memberLost slot) s = .next t ∧ t.heardAt
      slot.toNat = none) ∧
  -- A TIME frame of the master sets the tray time with the delay of its side.
  (∀ (s : State) (p : Plane) (side : Sys2Proof.Side) (lock : Bool) (tm rx : BitVec 64), s.cascEn = true → s.mgr =
      some p → s.isMaster = false → ∃ t, exec (.trayTimeFrame side 0 lock tm rx) s = .next t ∧ t.pkg.trayTime =
      BitVec.ofInt 64 ((tm.toNat : Int) + (match side with | .next => s.pkg.delayNext | .prev => s.pkg.delayPrev) +
      (s.trayNow - rx.toNat)) ∧ t.pkg.trayAt = s.ticks ∧ ∀ q, t.flag q Fld.CAN_STAT.PTP_LOCK 0 = lock) ∧
  -- A request for the delay is echoed.
  (∀ (s : State) (p : Plane) (side : Sys2Proof.Side) (lock : Bool) (tm rx : BitVec 64), s.cascEn = true → s.mgr =
      some p → ∃ t, exec (.trayTimeFrame side 1 lock tm rx) s = .next t ∧ t.out = .casc side ⟨BitVec.ofNat 4 s.slot,
      0xF, 3, (Config.recordBytes 5 [2, tm.toNat]), true⟩ :: s.out) ∧
  -- An echo gives half its round trip as the delay.
  (∀ (s : State) (p : Plane) (side : Sys2Proof.Side) (lock : Bool) (tm rx : BitVec 64), s.cascEn = true → s.mgr =
      some p → ∃ t, exec (.trayTimeFrame side 2 lock tm rx) s = .next t ∧
      (match side with | .next => t.pkg.delayNext | .prev => t.pkg.delayPrev) = (rx.toNat - tm.toNat) / 2) ∧
  -- TRAY_TIME_SEND of the master sends the time on both sides.
  (∀ (s : State) (p : Plane), s.cascEn = true → s.mgr = some p → s.isMaster = true → ∃ t, exec (.trayTimeSend false)
      s = .next t ∧ t.out = .casc .prev ⟨BitVec.ofNat 4 s.slot, 0xF, 3, (Config.recordBytes 5 [0, s.trayNow.toNat,
      s.fld .hoist Fld.CAN_STAT.PTP_LOCK 0]), true⟩ :: .casc .next ⟨BitVec.ofNat 4 s.slot, 0xF, 3,
      (Config.recordBytes 5 [0, s.trayNow.toNat, s.fld .hoist Fld.CAN_STAT.PTP_LOCK 0]), true⟩ :: s.out) ∧
  -- Or asks for the delay.
  (∀ (s : State) (p : Plane), s.cascEn = true → s.mgr = some p → ∃ t, exec (.trayTimeSend true) s = .next t ∧ t.out
      = .casc .prev ⟨BitVec.ofNat 4 s.slot, 0xF, 3, (Config.recordBytes 5 [1, s.trayNow.toNat]), true⟩ :: .casc
      .next ⟨BitVec.ofNat 4 s.slot, 0xF, 3, (Config.recordBytes 5 [1, s.trayNow.toNat]), true⟩ :: s.out) ∧
  -- POWER_FRAME stores this device's share of the tray cap.
  (∀ (s : State) (p : Plane) (share : BitVec 16), s.cascEn = true → s.mgr = some p → s.noOrders = false →
      s.pkg.split = false → ∃ t, exec (.powerFrame share) s = .next t ∧ ∀ q, t.fld q Fld.CAN_CAP_TRAY.CAP 0 =
      share.toNat)

/-- Tray master, PTP, the tray cap, notices and the inventory. Each command answers a next state under the stated
conditions, and the next state holds what is named: MASTER_ELECTION of a device alone makes it the master; with a
cascade it is the eligible member with the lowest slot; MGMT_ETH_LINK_CHANGE shows ETH_UP in both planes;
PTP_MESSAGE of a one-step Sync gives the offset and asks for the delay; of a two-step Sync keeps its arrival; a
delay answer sets tray time and shows PTP_LOCK; TRAY_CAP_SPLIT gives each member its share: its own is stored, the
others leave in POWER frames; NOTIFY_ACK ends the repetition of the notice it names; INVENTORY_SAVE keeps the
inventory; NEIGHBOUR_LOST with one far device lost reports it once with its first port and the number of ports;
NEIGHBOUR_NOTIFY reports the ports whose neighbour changed; INVENTORY_MINUTE_COUNT counts a minute and each sixtieth
an hour. (10_management.md, The tray; 10_management.md, Power; 10_management.md, Inventory; 10_management.md, When
views disagree) -/
def Obligations.TrayMasterAndPackage : Prop :=
  -- MASTER_ELECTION of a device alone makes it the master.
  (∀ (s : State), s.managed = true → s.cascEn = false → (s.pkg.master.map (fun v => v.toNat)).getD 15 ≠ s.slot → ∃
      t, exec (.masterElection) s = .next t ∧ t.pkg.master = some (BitVec.ofNat 3 s.slot) ∧ ∀ q, t.fld q
      Fld.CAN_STAT.MASTER_SLOT 0 = s.slot ∧ t.flag q Fld.CAN_STAT.MASTER 0 = true) ∧
  -- With a cascade it is the eligible member with the lowest slot.
  (∀ (s : State) (k : Fin 8), s.managed = true → s.cascEn = true → s.pkg.master = none → s.lowestOk = some k.val → ∃
      t, exec (.masterElection) s = .next t ∧ t.pkg.master = some (BitVec.ofNat 3 k.val) ∧ ∀ q, t.fld q
      Fld.CAN_STAT.MASTER_SLOT 0 = k.val ∧ t.flag q Fld.CAN_STAT.MASTER 0 = decide (k.val = s.slot)) ∧
  -- MGMT_ETH_LINK_CHANGE shows ETH_UP in both planes.
  (∀ (s : State) (up : Bool), s.pkg.resetN = true → (up = true ∨ s.isMaster = false) → ∃ t, exec (.mgmtEthLinkChange
      up) s = .next t ∧ ∀ q, t.flag q Fld.CAN_STAT.ETH_UP 0 = up) ∧
  -- PTP_MESSAGE of a one-step Sync gives the offset and asks for the delay.
  (∀ (s : State) (kind : Byte) (tm rx : BitVec 64), s.managed = true → s.isMaster = true → s.flag .hoist
      Fld.CAN_STAT.ETH_UP 0 = true → kind.toNat % 16 = 0 → bit 4 kind.toNat = false → ∃ t, exec (.ptpMessage kind tm
      rx) s = .next t ∧ t.pkg.ptpMs = (rx.toNat : Int) - tm.toNat ∧ t.out.head? = some (.ptp 1)) ∧
  -- Of a two-step Sync keeps its arrival.
  (∀ (s : State) (kind : Byte) (tm rx : BitVec 64), s.managed = true → s.isMaster = true → s.flag .hoist
      Fld.CAN_STAT.ETH_UP 0 = true → kind.toNat % 16 = 0 → bit 4 kind.toNat = true → ∃ t, exec (.ptpMessage kind tm
      rx) s = .next t ∧ t.pkg.ptpTwo = some (BitVec.ofNat 64 rx.toNat) ∧ t.out = s.out) ∧
  -- A delay answer sets tray time and shows PTP_LOCK.
  (∀ (s : State) (kind : Byte) (tm rx t3 : BitVec 64), s.managed = true → s.isMaster = true → s.flag .hoist
      Fld.CAN_STAT.ETH_UP 0 = true → kind.toNat % 16 = 9 → s.pkg.ptpT1 = some t3 → ∃ t, exec (.ptpMessage kind tm
      rx) s = .next t ∧ t.pkg.ptpDelay = (s.pkg.ptpMs + ((tm.toNat : Int) - t3.toNat)) / 2 ∧ t.pkg.ptpT1 = none ∧
      t.pkg.trayTime = BitVec.ofInt 64 (s.trayNow - (s.pkg.ptpMs - (s.pkg.ptpMs + ((tm.toNat : Int) - t3.toNat)) /
      2)) ∧ ∀ q, t.flag q Fld.CAN_STAT.PTP_LOCK 0 = true) ∧
  -- TRAY_CAP_SPLIT gives each member its share: its own is stored, the others leave in POWER frames.
  (∀ (s : State) (p : Plane) (members : List (BitVec 3 × BitVec 16 × BitVec 16)) (own : BitVec 16) (rest : List (Nat
      × Nat)), s.mgr = some p → s.waits p = false → s.pkg.split = false → s.isMaster = true → s.noOrders = false →
      (if s.pkg.trayCap = 0 then (members.map (fun m => (m.1.toNat, m.2.1.toNat, m.2.2.toNat))).map (fun m => (m.1,
      0)) else trayShares s.pkg.trayCap (members.map (fun m => (m.1.toNat, m.2.1.toNat, m.2.2.toNat)))) = (s.slot,
      own.toNat) :: rest → (∀ e ∈ rest, e.1 ≠ s.slot) → ∃ t, exec (.trayCapSplit members) s = .next t ∧ (∀ q, t.fld
      q Fld.CAN_CAP_TRAY.CAP 0 = own.toNat) ∧ t.out = (rest.map (fun e => Out.casc (if s.sideUp .next = true then
      .next else .prev) ⟨BitVec.ofNat 4 s.slot, BitVec.ofNat 4 e.1, 4, Config.recordBytes 6 [e.2], true⟩)).reverse
      ++ (s.trayShare p own.toNat).out) ∧
  -- NOTIFY_ACK ends the repetition of the notice it names.
  (∀ (s : State) (seq : BitVec 32), s.managed = true → ∃ t, exec (.notifyAck seq) s = .next t ∧ t.pkg.unacked =
      s.pkg.unacked.filter (fun n => n.1 != seq)) ∧
  -- INVENTORY_SAVE keeps the inventory.
  (∀ (s : State), s.managed = true → ∃ t, exec (.inventorySave) s = .next t ∧ t.pkg.saved = s.pkg.inv) ∧
  -- NEIGHBOUR_LOST with one far device lost reports it once with its first port and the number of ports.
  (∀ (s : State) (p : Plane) (ser : BitVec 64), s.mgr = some p → s.waits p = false → dedup (s.pkg.lastDown.map
      (·.2)) = [ser] → ∃ t, exec (.neighbourLost) s = .next t ∧ t.pkg.lastDown = [] ∧ t.out.head? = some (.notify
      s.pkg.notifySeq 0x0911 p.num (wn (((s.pkg.lastDown.filter (fun e => e.2 == ser)).head?.map (·.1)).getD 0))
      ([ser.toNat % 2 ^ 32, ser.toNat / 2 ^ 32, (dedup ((s.pkg.lastDown.filter (fun e => e.2 == ser)).map
      (·.1))).length].map wn))) ∧
  -- NEIGHBOUR_NOTIFY reports the ports whose neighbour changed.
  (∀ (s : State) (p : Plane), s.mgr = some p → s.waits p = false → s.neighRows.filter (fun e => mget none e.1
      s.pkg.neigh != e.2) ≠ [] → ∃ t, exec (.neighbourNotify) s = .next t ∧ t.pkg.neigh = (s.neighRows.filter (fun e
      => mget none e.1 s.pkg.neigh != e.2)).foldl (fun m e => mset none e.1 e.2 m) s.pkg.neigh ∧ t.out.head? = some
      (.notify s.pkg.notifySeq 0 p.num (wn 0) (((s.neighRows.filter (fun e => mget none e.1 s.pkg.neigh !=
      e.2)).flatMap neighNumbers).map wn))) ∧
  -- INVENTORY_MINUTE_COUNT counts a minute and each sixtieth an hour.
  (∀ (s : State), ∃ t, exec (.inventoryMinuteCount) s = .next t ∧ t.pkg.inv.minutes = (if s.pkg.inv.minutes + 1 < 60
      then s.pkg.inv.minutes + 1 else 0) ∧ t.pkg.inv.hours = (if s.pkg.inv.minutes + 1 < 60 then s.pkg.inv.hours
      else s.pkg.inv.hours + 1))

/-- What commands with many forms leave unchanged, form by form. Under the conditions stated with it, each of these
forms answers a next state that differs from the old one at most in the parts and registers named with it: every
other register word, part, byte of memory, the queue and the core clock count are unchanged: CODEWORD_PAIR given as
two outcomes; PACKET_INGRESS of a packet that is no management packet; PACKET_TRANSMIT at a port or at Halyard;
WH_FALLBACK; REGISTER_WRITE of an I field; of a G field; of an RO word; of a counter that a read clears; a discard
changes register words only, and only those with uncommitted contents; CONFIG_ECC_ERROR of a table entry; REG_WR of
an I field; MMIO_WR of an I field; MMIO_RD of a plain word; GL_FLIT with a good CRC; GL_DATA; GL_CMP; HEALTH_REPORT;
CANTON_BOOT with a good image; CANTON_BOOT_DONE that failed; HEARTBEAT_MISS that takes over with no change of power
state due; the same of CANTON_CLAIM; and of HANDOVER_ACK; MGMT_MSG with an unknown code; CASCADE_MSG for another
member. (95_what_each_step_holds.md, Which steps each requirement bears on; 00_scope.md, Registers; 02_lanes.md,
Lane registers; 05_switch_core.md, Switch core registers; 09_host_interface.md, Host interface registers;
10_management.md, Canton registers; 11_state_and_change.md, Commit) -/
def Obligations.FrameUnderConditions : Prop :=
  -- CODEWORD_PAIR given as two outcomes.
  (∀ (s : State) (p : Plane) (l : Fin 576) (a b : Option (Fin 16)), ∃ t, exec (.codewordPair p l (.outcome a b)) s =
      .next t ∧ Changes [.epc, .hif, .lfp, .line, .lne, .out, .pkg, .rte, .swc, .tst] (portDownRegs ++
      [.LNE_FEC_CORR, .LNE_FEC_SYMERR, .LNE_FEC_UNCORR]) s t) ∧
  -- PACKET_INGRESS of a packet that is no management packet.
  (∀ (s : State) (p : Plane) (i : Fin 576) (k : Packet) (bad : Bool) (unknown got : Nat) (more : Bool), k.hdr.type ≠
      4 → ∃ t, exec (.packetIngress p i k bad unknown got more) s = .next t ∧ Changes [.can, .col, .dsp, .epc, .hif,
      .lfp, .line, .lne, .mem, .out, .pkg, .rte, .swc, .tst] (planeDownRegs ++ [.EPC_FREEZE_STAT, .EPC_FREEZE_TIME,
      .EPC_SUPPR_CNT, .LFP_CRC_DISC, .LFP_CRED_VIOL, .LFP_LATE_DISC, .LFP_OOW_DISC, .LFP_PEN_FAIL, .LFP_STALE_CPL,
      .LFP_STOMP_RX, .LFP_STOMP_TX, .LNE_BADBLK, .SWC_RESEQ_LOSS, .SWC_SPINE_ERR, .SWC_SPINE_STAT, .TST_CHK_FLOW,
      .TST_CHK_NOFLOW, .TST_GEP_DISC, .TST_PCHK_CNT, .TST_PCHK_FIRST]) s t) ∧
  -- PACKET_TRANSMIT at a port or at Halyard.
  (∀ (s : State) (p : Plane) (c : Code), c.toNat < 580 → ∃ t, exec (.packetTransmit p c) s = .next t ∧ Changes
      [.can, .col, .dsp, .epc, .free, .hif, .lfp, .line, .lne, .loose, .mem, .out, .pkg, .pools, .rte, .swc, .tst]
      (memoryRegs ++ planeDownRegs ++ engineRegs ++ [.EPC_FREEZE_STAT, .EPC_FREEZE_TIME, .LFP_AGE_DISC,
      .LFP_CRC_DISC, .LFP_LATE_DISC, .LFP_OOW_DISC, .LFP_OVERSIZE_DISC, .LFP_PEN_FAIL, .LFP_STALE_CPL,
      .LFP_STOMP_RX, .SWC_RESEQ_LOSS, .SWC_SPINE_ERR, .SWC_SPINE_STAT, .TST_CHK_FLOW, .TST_CHK_NOFLOW]) s t) ∧
  -- WH_FALLBACK.
  (∀ (s : State) (p : Plane) (i : Fin 576) (v : Fin 9), ∃ t, exec (.whFallback p i v) s = .next t ∧ Changes [.can,
      .col, .dsp, .epc, .free, .hif, .lfp, .line, .lne, .loose, .mem, .out, .pkg, .pools, .rte, .swc, .tst]
      (memoryRegs ++ planeDownRegs ++ engineRegs ++ [.EPC_FREEZE_STAT, .EPC_FREEZE_TIME, .LFP_AGE_DISC,
      .LFP_CRC_DISC, .LFP_LATE_DISC, .LFP_OOW_DISC, .LFP_OVERSIZE_DISC, .LFP_PEN_FAIL, .LFP_STALE_CPL,
      .LFP_STOMP_RX, .SWC_RESEQ_LOSS, .SWC_SPINE_ERR, .SWC_SPINE_STAT, .TST_CHK_FLOW, .TST_CHK_NOFLOW]) s t) ∧
  -- REGISTER_WRITE of an I field.
  (∀ (s : State) (addr : BitVec 27) (v : Word) (i : Nat), s.live (planeAt addr.toNat) = true → regAt (addr.toNat %
      0x4000000) = some (.LNE_WIRE_FAB, i, 0) → i < 576 → ∃ t, exec (.registerWrite addr v) s = .next t ∧ Changes []
      ([.LNE_WIRE_FAB]) s t) ∧
  -- Of a G field.
  (∀ (s : State) (addr : BitVec 27) (v : Word), s.live (planeAt addr.toNat) = true → regAt (addr.toNat % 0x4000000)
      = some (.LFP_GLB_CFG, 0, 0) → s.flag (planeAt addr.toNat) Fld.EPC_COMMIT_STAT.BUSY 0 = false → ∃ t, exec
      (.registerWrite addr v) s = .next t ∧ Changes [] ([.LFP_GLB_CFG]) s t) ∧
  -- Of an RO word.
  (∀ (s : State) (addr : BitVec 27) (v : Word), s.live (planeAt addr.toNat) = true → regAt (addr.toNat % 0x4000000)
      = some (.TOP_CHIP_ID, 0, 0) → ∃ t, exec (.registerWrite addr v) s = .next t ∧ Changes [] ([.TOP_CHIP_ID]) s t) ∧
  -- Of a counter that a read clears.
  (∀ (s : State) (addr : BitVec 27) (v : Word), s.live (planeAt addr.toNat) = true → regAt (addr.toNat % 0x4000000)
      = some (.LFP_AGE_DISC, 0, 0) → ∃ t, exec (.registerWrite addr v) s = .next t ∧ Changes [] ([.LFP_AGE_DISC]) s
      t) ∧
  -- A discard changes register words only, and only those with uncommitted contents.
  (∀ (s : State) (p : Plane), s.live p = true → s.commitBusy (s.involved p) = false → ∃ t, exec (.discard p) s =
      .next t ∧ (∀ b, s.Same t b) ∧ t.pending = s.pending ∧ t.ticks = s.ticks ∧ ∀ q r i w, r.Has i w → q ∉
      s.involved p ∨ r.off i w ∉ s.dirtyOf q → t.word q r i w = s.word q r i w) ∧
  -- CONFIG_ECC_ERROR of a table entry.
  (∀ (s : State) (p : Plane) (off : BitVec 26) (r : Reg) (i w : Nat), s.live p = true → regAt off.toNat = some (r,
      i, w) → (r.fieldsOf w).any (fun f => f.acc == .rw) = true → (r = .RTE_ENTRY ∨ r = .RTE_SET ∨ r = .GWM_WIN) → ∃
      t, exec (.configEccError p off) s = .next t ∧ Changes [.can, .col, .dsp, .epc, .hif, .lfp, .line, .lne, .mem,
      .out, .pkg, .rte, .swc, .tst] (planeDownRegs ++ [.EPC_FREEZE_STAT, .EPC_FREEZE_TIME, .EPC_SUPPR_CNT,
      .SWC_RESEQ_LOSS, .SWC_SPINE_ERR, .SWC_SPINE_STAT]) s t) ∧
  -- REG_WR of an I field.
  (∀ (s : State) (p : Plane) (h : CmdHead) (off v : Word) (i : Nat), s.cmdMay p 1 h (leBytes 4 off.toNat ++ leBytes
      4 v.toNat) = true → (∀ f ∈ (s.pl p).hif.fetched, f.2 ≠ []) → regAt off.toNat = some (.LNE_WIRE_FAB, i, 0) → i
      < 576 → rangeOk off.toNat 1 = true → ∃ t, exec (.regWr p h [(off, v)]) s = .next t ∧ Changes [.free, .hif,
      .out] ([.HIF_CMD_CNT, .HIF_INTR_CNT, .HIF_RING_IDX, .LNE_WIRE_FAB]) s t) ∧
  -- MMIO_WR of an I field.
  (∀ (s : State) (p : Plane) (m : GlMsg) (i : Nat), s.glOn p = true → s.glStage p = 5 → s.glRoom p = true →
      m.addr.toNat < 0x8000000 → m.addr.toNat % 4 = 0 → s.mmioReach p (planeAt m.addr.toNat) = true → regAt
      (m.addr.toNat % 0x4000000) = some (.LNE_WIRE_FAB, i, 0) → i < 576 → ∃ t, exec (.mmioWr p m) s = .next t ∧
      Changes [.hif, .out] ([.LNE_WIRE_FAB]) s t) ∧
  -- MMIO_RD of a plain word.
  (∀ (s : State) (p : Plane) (m : GlMsg) (r : Reg) (i w : Nat), s.glOn p = true → s.glStage p = 5 → s.glRoom p =
      true → m.addr.toNat < 0x8000000 → m.addr.toNat % 4 = 0 → s.mmioReach p (planeAt m.addr.toNat) = true → regAt
      (m.addr.toNat % 0x4000000) = some (r, i, w) → (∀ g, r.wideAt w = some g → w = g.1) → ∃ t, exec (.mmioRd p m) s
      = .next t ∧ Changes [.hif, .latch, .loose, .out] [r] s t) ∧
  -- GL_FLIT with a good CRC.
  (∀ (s : State) (p : Plane) (f : GlFlit), s.glOn p = true → s.glStage p = 5 → f.crcOk = true → f.kind = 2 → f.nak =
      false → f.txSeq = (s.half p).rxSeq + 1 → (s.half p).txq = [] → (∀ q, (s.pl q).hif.waiting = [] ∧ (s.pl
      q).hif.ending = none) → ∃ t, exec (.glFlit p f) s = .next t ∧ Changes [.epc, .hif, .out] (logRegs ++
      [.HIF_GL_REPLAY, .HIF_LINK_CFG, .HIF_LINK_STAT]) s t) ∧
  -- GL_DATA.
  (∀ (s : State) (p : Plane) (m : GlMsg) (q : Plane) (r : GlReq) (i : Word), s.glOn p = true → s.glStage p = 5 →
      s.answering p m.mtag = some (q, r) → r.what = .descr i → m.status = 0 → m.line ≠ [] → s.ringOn q 0 = true → (∀
      f ∈ (s.pl q).hif.fetched, f.2 ≠ []) → (∀ o, (s.pl o).hif.ending = none) → ∃ t, exec (.glData p m) s = .next t
      ∧ Changes [.hif, .out] ([.HIF_LINK_STAT]) s t) ∧
  -- GL_CMP.
  (∀ (s : State) (p : Plane) (m : GlMsg) (q : Plane) (r : GlReq) (k : Nat) (i : Word) (l : Nat), s.glOn p = true →
      s.glStage p = 5 → s.answering p m.mtag = some (q, r) → r.what = .entry k i l → m.status = 0 → (s.answered q
      r).entryOut q k = false → (∀ o, (s.pl o).hif.ending = none) → ∃ t, exec (.glCmp p m) s = .next t ∧ Changes
      [.hif, .out] ([.HIF_INTR_CNT, .HIF_LINK_STAT]) s t) ∧
  -- HEALTH_REPORT.
  (∀ (s : State) (p : Plane) (agree flashOk : Bool), s.canUp p = true → (s.pl p).can.role ≠ .booting →
      s.pkg.activating = none → (∀ q, s.flag q Fld.CAN_MBOX_CTL.SEND 0 = false) → ∃ t, exec (.healthReport p agree
      flashOk) s = .next t ∧ Changes [.can, .hif, .lfp, .out, .pkg, .swc] (eventRegs ++ [.CAN_HEALTH]) s t) ∧
  -- CANTON_BOOT with a good image.
  (∀ (s : State) (p : Plane) (v : FlashView) (c : Nat) (d : FlashDir), s.canUp p = true → (s.pl p).can.role =
      .booting → (s.pl p).can.imgRuns = false → (s.setView p (some v)).flashDir p = some (c, d) → d.pref ≤ 1 →
      imageCode 1 s.pkg.svnFw s.pkg.revoked ((s.setView p (some v)).slotHdr p d d.pref) ((s.setView p (some
      v)).slotProof p d d.pref) = 0 → s.pkg.activating = none → (∀ q, s.flag q Fld.CAN_MBOX_CTL.SEND 0 = false) → ∃
      t, exec (.cantonBoot p (some v)) s = .next t ∧ Changes [.can, .out, .pkg] ([.CAN_BOOT_STAT]) s t) ∧
  -- CANTON_BOOT_DONE that failed.
  (∀ (s : State) (p : Plane) (mc : Option Image), s.canUp p = true → (s.pl p).can.role = .booting → (s.pl
      p).can.imgRuns = true → s.pkg.activating = none → (∀ q, s.flag q Fld.CAN_MBOX_CTL.SEND 0 = false) → ∃ t, exec
      (.cantonBootDone p false mc) s = .next t ∧ Changes [.can, .out] [] s t) ∧
  -- HEARTBEAT_MISS that takes over with no change of power state due.
  (∀ (s : State) (p : Plane), s.canEligible p = true → s.pkg.active = some p.other → s.halUp p = true → s.pkg.split
      = false → s.power ≠ 0 → s.power = s.target p → (∀ q, s.flag q Fld.CAN_MBOX_CTL.SEND 0 = false) → (∀ r, s.power
      = s.target r) → ∃ t, exec (.heartbeatMiss p) s = .next t ∧ Changes [.can, .free, .hif, .lfp, .out, .pkg, .swc]
      (eventRegs ++ [.CAN_BOOT_STAT, .CAN_CTL, .CAN_MBOX_CTL, .CAN_STAT, .CAN_TAKEOVER_CNT]) s t) ∧
  -- The same of CANTON_CLAIM.
  (∀ (s : State) (p : Plane) (q : Plane), s.pkg.active = none → s.claims p = true → q = (if s.claims p.other = true
      then (if s.flag p Fld.TOP_STRAP.CANTON_SEL 0 = true then Plane.fly else Plane.hoist) else p) → s.power ≠ 0 →
      s.power = s.target q → (∀ q, s.flag q Fld.CAN_MBOX_CTL.SEND 0 = false) → (∀ r, s.power = s.target r) → ∃ t,
      exec (.cantonClaim p) s = .next t ∧ Changes [.can, .free, .hif, .lfp, .out, .pkg, .swc] (eventRegs ++
      [.CAN_BOOT_STAT, .CAN_CTL, .CAN_MBOX_CTL, .CAN_STAT, .CAN_TAKEOVER_CNT]) s t) ∧
  -- And of HANDOVER_ACK.
  (∀ (s : State) (p : Plane), s.pkg.handing = true → s.canHand = true → s.mgr = some p.other → s.power ≠ 0 → s.power
      = s.target p → (∀ q, s.flag q Fld.CAN_MBOX_CTL.SEND 0 = false) → (∀ r, s.power = s.target r) → ∃ t, exec
      (.handoverAck p) s = .next t ∧ Changes [.can, .free, .hif, .lfp, .out, .pkg, .swc] (eventRegs ++
      [.CAN_BOOT_STAT, .CAN_CTL, .CAN_MBOX_CTL, .CAN_STAT, .CAN_TAKEOVER_CNT]) s t) ∧
  -- MGMT_MSG with an unknown code.
  (∀ (s : State) (p : Plane) (req : MgmtReq) (code : Byte), s.pkg.resetN = true → s.mgr = some p → s.pkg.split =
      false → s.waits p = false → req.transport = .ethernet → ((req.target = 0xFF ∨ req.target.toNat = s.slot)) →
      mgmtCodes.contains code.toNat = false → ∃ t, exec (.mgmtUnknown req code) s = .next t ∧ Changes [.epc, .hif,
      .lfp, .lne, .out, .pkg, .rte, .swc] (logRegs ++ [.CAN_MBOX_CTL, .CAN_MBOX_RX, .GWM_DENY_CNT, .GWM_MEMERR_CNT,
      .GWM_UNMAP_CNT, .GWM_UNSUP_CNT, .LFP_HCRC_DISC, .LFP_HDR_DISC, .LFP_HOP_DISC, .RTE_ESC_DISC, .RTE_ESC_MOVE,
      .RTE_INT_DISC, .RTE_MARK_RX, .RTE_MC_DISC, .RTE_MISS_DISC, .RTE_NOPORT_DISC, .RTE_PATH_DISC, .SWC_FLUSH_DISC,
      .SWC_MIR_DROP, .SWC_OVF_DISC, .TST_MATCH_CNT]) s t) ∧
  -- CASCADE_MSG for another member.
  (∀ (s : State) (p : Plane) (side : Sys2Proof.Side) (f : CascFrame), s.cascEn = true → s.mgr = some p → f.crcOk =
      true → f.src.toNat ≠ s.slot → f.dst.toNat ≠ s.slot → f.dst ≠ 0xF → ∃ t, exec (.cascadeMsg side f) s = .next t
      ∧ Changes [.out, .pkg] [] s t)

/-- What the commands of lanes and ports leave unchanged. Each of these commands answers a next state that differs
from the old one at most in the parts and registers named with it: every other register word of both planes, every
other part of a plane or of the package, every byte of memory where the memory pools are not named, the queue and
the core clock count are unchanged. Commands: PORT_ENABLE, PORT_DISABLE, DETECT_SENSE, TRAINING_FRAME,
TRAIN_TIMEOUT, ALIGNMENT_MARKER, MARKER_LOSS, LOCK_TIMEOUT, SIGNAL_DETECT_LOSS, ENSIGN_BLOCK, EXCHANGE_TIMEOUT,
ENSIGN_TAIL_END, ADMIT, RETRAIN, RESTORE, RESTORE_AUTO_TICK, WIRE_CTL_WRITE, NEIGHBOUR_MISSING, WIDTH_BLOCK,
WIDTH_SEND, RUN_LIMIT, LPI_IDLE_EXPIRY, LPI_BLOCK, LPI_WAKE, WAKE_TIMEOUT, LPI_MAX_WAKE, LPI_REENTRY_ALLOWED,
TX_SQUELCH, PRBS_CLR, PRBS_LOCK_LOSS, EYE_SCAN_START, EYE_SCAN_DONE, LASER_READY, LASER_INPUT_FAIL,
ALIGNMENT_MARKER_SEND, ENSIGN_SEND, TRAINING_FRAME_SEND. (02_lanes.md, Lane registers; 95_what_each_step_holds.md,
Which steps each requirement bears on) -/
def Obligations.FrameLanes : Prop :=
  (∀ (s : State) (p : Plane) (i : Fin 576) (v : Word), ∃ t, exec (.portEnable p i v) s = .next t ∧ Changes [.line,
      .lne, .swc] ([.LNE_LANE_STAT, .LNE_PORT_CFG, .LNE_PORT_STAT]) s t) ∧
  (∀ (s : State) (p : Plane) (i : Fin 576) (v : Word), ∃ t, exec (.portDisable p i v) s = .next t ∧ Changes [.epc,
      .hif, .lfp, .line, .lne, .out, .pkg, .rte, .swc, .tst] (portDownRegs ++ [.LNE_PORT_CFG]) s t) ∧
  (∀ (s : State) (p : Plane) (i : Fin 576) (mask : BitVec 16), ∃ t, exec (.detectSense p i mask) s = .next t ∧
      Changes [.lne] ([.LNE_PORT_STAT]) s t) ∧
  (∀ (s : State) (p : Plane) (lane : Fin 584) (bytes : Bytes) (converged : Bool), ∃ t, exec (.trainingFrame p lane
      bytes converged) s = .next t ∧ Changes [.free, .hif, .line, .lne, .loose] ([.HIF_LINK_STAT, .LNE_LANE_STAT,
      .LNE_PORT_CTL, .LNE_PORT_STAT, .LNE_TX_COEF]) s t) ∧
  (∀ (s : State) (p : Plane) (i : Fin 576), ∃ t, exec (.trainTimeout p i) s = .next t ∧ Changes [.hif, .lfp, .line,
      .lne, .out, .swc] (eventRegs ++ [.LFP_PORT_STAT, .LNE_LANE_STAT, .LNE_PORT_CTL, .LNE_PORT_STAT,
      .LNE_QDISC_CNT]) s t) ∧
  (∀ (s : State) (p : Plane) (lane : Fin 576) (bytes : Bytes) (atSpacing : Bool) (skew : BitVec 16), ∃ t, exec
      (.alignmentMarker p lane bytes atSpacing skew) s = .next t ∧ Changes [.epc, .free, .hif, .lfp, .line, .lne,
      .loose, .out, .pkg, .rte, .swc, .tst] (portDownRegs) s t) ∧
  (∀ (s : State) (p : Plane) (lane : Fin 576), ∃ t, exec (.markerLoss p lane) s = .next t ∧ Changes [.epc, .hif,
      .lfp, .line, .lne, .out, .pkg, .rte, .swc, .tst] (portDownRegs) s t) ∧
  (∀ (s : State) (p : Plane) (i : Fin 576), ∃ t, exec (.lockTimeout p i) s = .next t ∧ Changes [.hif, .lfp, .line,
      .lne, .out, .swc] (eventRegs ++ [.LFP_PORT_STAT, .LNE_LANE_STAT, .LNE_PORT_STAT, .LNE_QDISC_CNT]) s t) ∧
  (∀ (s : State) (p : Plane) (lane : Fin 576), ∃ t, exec (.signalDetectLoss p lane) s = .next t ∧ Changes [.epc,
      .hif, .lfp, .line, .lne, .out, .pkg, .rte, .swc, .tst] (portDownRegs) s t) ∧
  (∀ (s : State) (p : Plane) (lane : Fin 576) (bytes : Bytes), ∃ t, exec (.ensignBlock p lane bytes) s = .next t ∧
      Changes [.hif, .lfp, .line, .lne, .out, .rte, .swc] (eventRegs ++ [.LFP_PORT_STAT, .LNE_FAR_ENSIGN,
      .LNE_PORT_STAT, .RTE_MARK_RX, .SWC_PORT_STAT]) s t) ∧
  (∀ (s : State) (p : Plane) (i : Fin 576), ∃ t, exec (.exchangeTimeout p i) s = .next t ∧ Changes [.hif, .lfp,
      .line, .lne, .out, .swc] (eventRegs ++ [.LFP_PORT_STAT, .LNE_LANE_STAT, .LNE_PORT_STAT, .LNE_QDISC_CNT]) s t) ∧
  (∀ (s : State) (p : Plane) (i : Fin 576), ∃ t, exec (.ensignTailEnd p i) s = .next t ∧ Changes [.lne] ([]) s t) ∧
  (∀ (s : State) (p : Plane) (i : Fin 576), ∃ t, exec (.portAdmit p i) s = .next t ∧ Changes [.hif, .lfp, .line,
      .lne, .out, .rte, .swc] (eventRegs ++ [.LFP_PORT_STAT, .LNE_PORT_STAT, .RTE_MARK_RX, .SWC_PORT_STAT]) s t) ∧
  (∀ (s : State) (p : Plane) (i : Fin 576), ∃ t, exec (.retrain p i) s = .next t ∧ Changes [.epc, .hif, .lfp, .line,
      .lne, .out, .pkg, .rte, .swc, .tst] (portDownRegs) s t) ∧
  (∀ (s : State) (p : Plane) (i : Fin 576), ∃ t, exec (.restore p i) s = .next t ∧ Changes [.line, .lne]
      ([.LNE_LANE_STAT, .LNE_PORT_CTL]) s t) ∧
  (∀ (s : State) (p : Plane), ∃ t, exec (.restoreAutoTick p) s = .next t ∧ Changes [.line, .lne] ([.LNE_LANE_STAT,
      .LNE_PORT_CTL]) s t) ∧
  (∀ (s : State) (p : Plane) (i : Fin 576) (v : Word), ∃ t, exec (.wireCtlWrite p i v) s = .next t ∧ Changes [.hif,
      .lfp, .line, .lne, .out, .rte, .swc] (eventRegs ++ [.LFP_PORT_STAT, .LNE_PORT_STAT, .LNE_WIRE_CTL,
      .RTE_MARK_RX, .SWC_PORT_STAT]) s t) ∧
  (∀ (s : State) (p : Plane) (i : Fin 576), ∃ t, exec (.neighbourMissing p i) s = .next t ∧ Changes [.hif, .lne,
      .out] (eventRegs) s t) ∧
  (∀ (s : State) (p : Plane) (i : Fin 576) (mask : BitVec 16) (sw : Bool) (seq : Byte), ∃ t, exec (.widthBlock p i
      mask sw seq) s = .next t ∧ Changes [.epc, .hif, .lfp, .line, .lne, .out, .pkg, .rte, .swc, .tst] (portDownRegs
      ++ [.LNE_FAR_ENSIGN]) s t) ∧
  (∀ (s : State) (p : Plane) (i : Fin 576), ∃ t, exec (.widthSend p i) s = .next t ∧ Changes [.hif, .line, .lne,
      .out] (eventRegs ++ [.LNE_FAR_ENSIGN, .LNE_PORT_CTL, .LNE_PORT_STAT]) s t) ∧
  (∀ (s : State) (p : Plane) (lane : Fin 576), ∃ t, exec (.runLimit p lane) s = .next t ∧ Changes [.line, .out] ([])
      s t) ∧
  (∀ (s : State) (p : Plane) (i : Fin 576), ∃ t, exec (.lpiIdleExpiry p i) s = .next t ∧ Changes [.line, .lne, .out]
      ([]) s t) ∧
  (∀ (s : State) (p : Plane) (i : Fin 576) (code : Byte), ∃ t, exec (.lpiBlock p i code) s = .next t ∧ Changes
      [.line, .lne, .out] ([.LNE_LANE_STAT]) s t) ∧
  (∀ (s : State) (p : Plane) (i : Fin 576) (far : Bool), ∃ t, exec (.lpiWake p i far) s = .next t ∧ Changes [.lne,
      .out] ([.LNE_LANE_STAT]) s t) ∧
  (∀ (s : State) (p : Plane) (i : Fin 576), ∃ t, exec (.wakeTimeout p i) s = .next t ∧ Changes [.epc, .hif, .lfp,
      .line, .lne, .out, .pkg, .rte, .swc, .tst] (portDownRegs) s t) ∧
  (∀ (s : State) (p : Plane) (i : Fin 576), ∃ t, exec (.lpiMaxWake p i) s = .next t ∧ Changes [.lne, .out]
      ([.LNE_LANE_STAT]) s t) ∧
  (∀ (s : State) (p : Plane) (i : Fin 576), ∃ t, exec (.lpiReentryAllowed p i) s = .next t ∧ Changes [.lne] ([]) s
      t) ∧
  (∀ (s : State) (p : Plane) (lane : Fin 576), ∃ t, exec (.txSquelch p lane) s = .next t ∧ Changes [.epc, .hif,
      .lfp, .line, .lne, .out, .pkg, .rte, .swc, .tst] (portDownRegs ++ [.LNE_LANE_CFG]) s t) ∧
  (∀ (s : State) (p : Plane) (lane : Fin 576), ∃ t, exec (.prbsClr p lane) s = .next t ∧ Changes []
      ([.LNE_PRBS_ERR]) s t) ∧
  (∀ (s : State) (p : Plane) (lane : Fin 576), ∃ t, exec (.prbsLockLoss p lane) s = .next t ∧ Changes [.line]
      ([.LNE_LANE_STAT]) s t) ∧
  (∀ (s : State) (p : Plane) (lane : Fin 576) (eye : BitVec 2), ∃ t, exec (.eyeScanStart p lane eye) s = .next t ∧
      Changes [] ([.LNE_EYE_CTL, .LNE_EYE_STAT]) s t) ∧
  (∀ (s : State) (p : Plane) (lane : Fin 576) (h w : Byte), ∃ t, exec (.eyeScanDone p lane h w) s = .next t ∧
      Changes [] ([.LNE_EYE_CTL, .LNE_EYE_STAT]) s t) ∧
  (∀ (s : State) (p : Plane) (c : Fin 9), ∃ t, exec (.laserReady p c) s = .next t ∧ Changes [.lne] ([]) s t) ∧
  (∀ (s : State) (p : Plane) (c : Fin 9) (k : Fin 8), ∃ t, exec (.laserInputFail p c k) s = .next t ∧ Changes [.epc,
      .free, .hif, .lfp, .line, .lne, .out, .pkg, .rte, .swc, .tst] (portDownRegs) s t) ∧
  (∀ (s : State) (p : Plane) (i : Fin 576), ∃ t, exec (.alignmentMarkerSend p i) s = .next t ∧ Changes [.line, .lne,
      .out] ([]) s t) ∧
  (∀ (s : State) (p : Plane) (lane : Fin 576), ∃ t, exec (.ensignSend p lane) s = .next t ∧ Changes [.line, .lne,
      .out] ([]) s t) ∧
  (∀ (s : State) (p : Plane) (lane : Fin 584), ∃ t, exec (.trainingFrameSend p lane) s = .next t ∧ Changes [.hif,
      .line, .lne, .out] ([.HIF_LINK_STAT, .LNE_LANE_STAT, .LNE_PORT_STAT]) s t)

/-- What the commands of credits, windows and congestion leave unchanged. Each of these commands answers a next
state that differs from the old one at most in the parts and registers named with it: every other register word of
both planes, every other part of a plane or of the package, every byte of memory where the memory pools are not
named, the queue and the core clock count are unchanged. Commands: SOP_BLOCK, CREDIT_BLOCK, SENT_BLOCK, CREDIT_SEND,
SENT_SEND, WH_TRUNCATE, WINDOWED_ARRIVAL, HOLE_SKIP, PENNANT_DEADLINE, WIN_SYNC, ACK_RECEIVED, ACK_DELAY,
CPL_RECEIVED, OP_TIMEOUT, TAG_RELEASE, CWND_INCREASE. (03_fabric_protocol.md, Protocol registers;
95_what_each_step_holds.md, Which steps each requirement bears on) -/
def Obligations.FrameFabric : Prop :=
  (∀ (s : State) (p : Plane) (i : Fin 576) (b : SopBlock) (got : BitVec 16), ∃ t, exec (.sopBlock p i b got) s =
      .next t ∧ Changes [.hif, .lfp, .line, .out, .swc] (eventRegs ++ [.LNE_QDISC_CNT, .TST_PCHK_CNT,
      .TST_PCHK_FIRST]) s t) ∧
  (∀ (s : State) (p : Plane) (i : Fin 576) (counts : List (BitVec 16)) (rsv : Bool), ∃ t, exec (.creditBlock p i
      counts rsv) s = .next t ∧ Changes [.hif, .lfp, .out] (eventRegs ++ [.LFP_PORT_STAT, .TST_PCHK_CNT,
      .TST_PCHK_FIRST]) s t) ∧
  (∀ (s : State) (p : Plane) (i : Fin 576) (counts : List (BitVec 16)) (rsv : Bool), ∃ t, exec (.sentBlock p i
      counts rsv) s = .next t ∧ Changes [.can, .col, .dsp, .epc, .hif, .lfp, .line, .lne, .mem, .out, .pkg, .rte,
      .swc, .tst] (planeDownRegs ++ [.EPC_FREEZE_STAT, .EPC_FREEZE_TIME, .EPC_SUPPR_CNT, .LFP_CRED_RECON,
      .LFP_CRED_VIOL, .SWC_RESEQ_LOSS, .SWC_SPINE_ERR, .SWC_SPINE_STAT, .TST_PCHK_CNT, .TST_PCHK_FIRST]) s t) ∧
  (∀ (s : State) (p : Plane) (i : Fin 577), ∃ t, exec (.creditSend p i) s = .next t ∧ Changes [.lfp, .line, .out,
      .swc] ([]) s t) ∧
  (∀ (s : State) (p : Plane) (i : Fin 576), ∃ t, exec (.sentSend p i) s = .next t ∧ Changes [.line, .out] ([]) s t) ∧
  (∀ (s : State) (p : Plane) (i : Fin 576), ∃ t, exec (.whTruncate p i) s = .next t ∧ Changes [.lfp, .line, .out,
      .swc] ([.LFP_PORT_STAT, .LFP_WH_TRUNC]) s t) ∧
  (∀ (s : State) (p : Plane) (e : Endpt) (pkt : Packet), ∃ t, exec (.windowedArrival p e pkt) s = .next t ∧ Changes
      [.can, .col, .dsp, .epc, .free, .hif, .lfp, .line, .loose, .mem, .out, .pkg, .pools, .rte, .swc, .tst]
      (memoryRegs ++ engineRegs ++ [.LFP_CRC_DISC, .LFP_LATE_DISC, .LFP_OOW_DISC, .LFP_PEN_FAIL, .LFP_STALE_CPL,
      .LFP_STOMP_RX, .TST_CHK_FLOW, .TST_CHK_NOFLOW, .TST_GEP_DISC, .TST_PCHK_CNT, .TST_PCHK_FIRST]) s t) ∧
  (∀ (s : State) (p : Plane) (e : Endpt) (src : EpId), ∃ t, exec (.holeSkip p e src) s = .next t ∧ Changes [.can,
      .col, .dsp, .epc, .free, .hif, .lfp, .line, .loose, .mem, .out, .pkg, .pools, .rte, .swc, .tst] (memoryRegs ++
      engineRegs ++ [.LFP_HOLE_CNT, .LFP_PEN_FAIL, .TST_CHK_FLOW, .TST_CHK_NOFLOW]) s t) ∧
  (∀ (s : State) (p : Plane) (e : Endpt) (src : EpId) (wseq : BitVec 16), ∃ t, exec (.pennantDeadline p e src wseq)
      s = .next t ∧ Changes [.can, .col, .dsp, .epc, .free, .hif, .lfp, .line, .loose, .mem, .out, .pkg, .pools,
      .rte, .swc, .tst] (memoryRegs ++ engineRegs ++ [.LFP_PEN_FAIL, .TST_CHK_FLOW, .TST_CHK_NOFLOW]) s t) ∧
  (∀ (s : State) (p : Plane) (e : Endpt) (pkt : Packet), ∃ t, exec (.winSync p e pkt) s = .next t ∧ Changes [.epc,
      .hif, .lfp, .line, .out, .rte, .swc, .tst] (receiveRegs) s t) ∧
  (∀ (s : State) (p : Plane) (e : Endpt) (pkt : Packet), ∃ t, exec (.ackReceived p e pkt) s = .next t ∧ Changes
      [.col, .dsp, .epc, .hif, .lfp, .line, .out, .rte, .swc, .tst] (receiveRegs ++ [.DSP_LYR_STAT]) s t) ∧
  (∀ (s : State) (p : Plane) (e : Endpt) (src : EpId), ∃ t, exec (.ackDelay p e src) s = .next t ∧ Changes [.epc,
      .hif, .lfp, .line, .out, .rte, .swc, .tst] (sendRegs) s t) ∧
  (∀ (s : State) (p : Plane) (e : Endpt) (pkt : Packet), ∃ t, exec (.cplReceived p e pkt) s = .next t ∧ Changes
      [.can, .col, .dsp, .epc, .free, .hif, .lfp, .line, .loose, .mem, .out, .pkg, .pools, .rte, .swc, .tst]
      (memoryRegs ++ [.LFP_CRC_DISC, .LFP_STALE_CPL, .LFP_STOMP_RX]) s t) ∧
  (∀ (s : State) (p : Plane) (e : Endpt) (tag : BitVec 16), ∃ t, exec (.opTimeout p e tag) s = .next t ∧ Changes
      [.can, .col, .dsp, .epc, .free, .hif, .lfp, .line, .loose, .mem, .out, .pkg, .pools, .rte, .swc, .tst]
      (memoryRegs ++ [.LFP_OP_TMO]) s t) ∧
  (∀ (s : State) (p : Plane) (e : Endpt) (tag : BitVec 16), ∃ t, exec (.tagRelease p e tag) s = .next t ∧ Changes
      [.lfp] ([]) s t) ∧
  (∀ (s : State) (p : Plane) (e : Endpt) (dst : EpId), ∃ t, exec (.cwndIncrease p e dst) s = .next t ∧ Changes
      [.col, .dsp, .epc, .hif, .lfp, .line, .out, .rte, .swc, .tst] (sendRegs ++ [.DSP_LYR_STAT]) s t)

/-- What the commands of routing, the switch core and Halyard leave unchanged. Each of these commands answers a next
state that differs from the old one at most in the parts and registers named with it: every other register word of
both planes, every other part of a plane or of the package, every byte of memory where the memory pools are not
named, the queue and the core clock count are unchanged. Commands: ESCAPE_MOVE, CELL_TIME, CELL_ARRIVAL, RESEQ_LOSS,
SPINE_FAIL, HOLD_DOWN_END, HD_CLR, HALYARD_FLIT, HALYARD_FAIL, HALYARD_RETURN, MIRROR_RECORD, DRAIN_START,
DRAIN_ABORT, DRAIN_MARKER, ROUTE_DRAINED, CMAP_SAMPLE, CMAP_INTERVAL. (05_switch_core.md, Switch core registers;
95_what_each_step_holds.md, Which steps each requirement bears on) -/
def Obligations.FrameSwitch : Prop :=
  (∀ (s : State) (p : Plane) (slice : Fin 46) (code : Code) (vc : Fin 9), ∃ t, exec (.escapeMove p slice code vc) s
      = .next t ∧ Changes [.swc] ([.RTE_ESC_MOVE]) s t) ∧
  (∀ (s : State) (p : Plane), ∃ t, exec (.cellTime p) s = .next t ∧ Changes [.epc, .hif, .lfp, .out, .swc] (logRegs
      ++ [.LFP_AGE_DISC, .SWC_OVF_DISC]) s t) ∧
  (∀ (s : State) (p : Plane) (src dst : Fin 46) (pseq : BitVec 12) (hec : Bool), ∃ t, exec (.cellArrival p src dst
      pseq hec) s = .next t ∧ Changes [.can, .col, .dsp, .epc, .hif, .lfp, .line, .lne, .mem, .out, .pkg, .rte,
      .swc, .tst] (planeDownRegs ++ [.EPC_FREEZE_STAT, .EPC_FREEZE_TIME, .EPC_SUPPR_CNT, .SWC_RESEQ_LOSS,
      .SWC_SPINE_ERR, .SWC_SPINE_STAT]) s t) ∧
  (∀ (s : State) (p : Plane) (src dst : Fin 46), ∃ t, exec (.reseqLoss p src dst) s = .next t ∧ Changes [.can, .col,
      .dsp, .epc, .hif, .lfp, .line, .lne, .mem, .out, .pkg, .rte, .swc, .tst] (planeDownRegs ++ [.EPC_FREEZE_STAT,
      .EPC_FREEZE_TIME, .EPC_SUPPR_CNT, .SWC_RESEQ_LOSS, .SWC_SPINE_ERR, .SWC_SPINE_STAT]) s t) ∧
  (∀ (s : State) (p : Plane) (elem : Fin 24) (lost : List CellId), ∃ t, exec (.spineFail p elem lost) s = .next t ∧
      Changes [.can, .col, .dsp, .epc, .hif, .lfp, .line, .lne, .mem, .out, .pkg, .rte, .swc, .tst] (planeDownRegs
      ++ [.EPC_FREEZE_STAT, .EPC_FREEZE_TIME, .EPC_SUPPR_CNT, .SWC_RESEQ_LOSS, .SWC_SPINE_ERR, .SWC_SPINE_STAT]) s
      t) ∧
  (∀ (s : State) (p : Plane) (code : Code), ∃ t, exec (.holdDownEnd p code) s = .next t ∧ Changes [.hif, .out, .swc]
      (eventRegs ++ [.SWC_PORT_STAT]) s t) ∧
  (∀ (s : State) (p : Plane) (code : Code), ∃ t, exec (.hdClr p code) s = .next t ∧ Changes [.hif, .out, .swc]
      (eventRegs ++ [.SWC_PORT_STAT]) s t) ∧
  (∀ (s : State) (p : Plane) (f : HalFlit), ∃ t, exec (.halyardFlit p f) s = .next t ∧ Changes [.col, .epc, .hif,
      .lfp, .line, .out, .pkg, .rte, .swc, .tst] (receiveRegs ++ [.CAN_STAT, .COL_GRP_STAT, .HIF_LINK_STAT,
      .LFP_PORT_STAT, .SWC_HAL_CRC, .SWC_HAL_REPLAY, .SWC_HAL_STAT, .SWC_PORT_FLUSH, .SWC_PORT_STAT, .TOP_PG_STAT,
      .TST_FT_DELAY, .TST_FT_STAT]) s t) ∧
  (∀ (s : State), ∃ t, exec (.halyardFail) s = .next t ∧ Changes [.col, .epc, .hif, .lfp, .line, .out, .pkg, .rte,
      .swc, .tst] (sendRegs ++ [.CAN_STAT, .COL_GRP_STAT, .HIF_LINK_STAT, .LFP_PORT_STAT, .SWC_HAL_STAT,
      .SWC_PORT_FLUSH, .SWC_PORT_STAT, .TOP_PG_STAT, .TST_FT_DELAY, .TST_FT_STAT]) s t) ∧
  (∀ (s : State), ∃ t, exec (.halyardReturn) s = .next t ∧ Changes [.can, .free, .hif, .lfp, .loose, .out, .pkg,
      .rte, .swc] (eventRegs ++ [.CAN_CAP_HOST, .CAN_CAP_RM, .CAN_CAP_THERM, .CAN_CAP_TRAY, .CAN_PWR_STAT,
      .CAN_STAT, .HIF_LINK_STAT, .SWC_HAL_STAT, .SWC_PORT_STAT, .TOP_CLK_STAT, .TOP_PG_STAT]) s t) ∧
  (∀ (s : State) (p : Plane), ∃ t, exec (.mirrorRecord p) s = .next t ∧ Changes [.hif, .out, .swc] ([.HIF_RING_IDX])
      s t) ∧
  (∀ (s : State) (p : Plane) (id : BitVec 16), ∃ t, exec (.drainStart p id) s = .next t ∧ Changes [.rte, .swc]
      ([.RTE_DRAIN_CTL, .RTE_DRAIN_STAT, .RTE_MARK_RX]) s t) ∧
  (∀ (s : State) (p : Plane), ∃ t, exec (.drainAbort p) s = .next t ∧ Changes [.hif, .out, .rte] (eventRegs ++
      [.RTE_DRAIN_STAT, .RTE_MARK_RX]) s t) ∧
  (∀ (s : State) (p : Plane) (i : Fin 576) (id : BitVec 16), ∃ t, exec (.drainMarker p i id) s = .next t ∧ Changes
      [.rte] ([.RTE_MARK_RX]) s t) ∧
  (∀ (s : State) (p : Plane), ∃ t, exec (.routeDrained p) s = .next t ∧ Changes [.hif, .lfp, .line, .out, .rte,
      .swc] (eventRegs ++ [.RTE_DRAIN_STAT, .SWC_MIR_DROP, .TST_INJ, .TST_INJ_CNT, .TST_MATCH_CNT]) s t) ∧
  (∀ (s : State) (p : Plane), ∃ t, exec (.cmapSample p) s = .next t ∧ Changes [.rte] ([]) s t) ∧
  (∀ (s : State) (p : Plane), ∃ t, exec (.cmapInterval p) s = .next t ∧ Changes [.hif, .out, .rte] ([.HIF_RING_IDX,
      .RTE_CMAP, .RTE_CMAP_LOST, .RTE_CMAP_SEQ]) s t)

/-- What the commands of the three engines leave unchanged. Each of these commands answers a next state that differs
from the old one at most in the parts and registers named with it: every other register word of both planes, every
other part of a plane or of the package, every byte of memory where the memory pools are not named, the queue and
the core clock count are unchanged. Commands: COL_RST, MEM_RST, CONTRIB, PARTIAL, CHUNK_FREED, SLOT_CRED,
SLOT_CRED_DELAY, SLOT_CRED_REFRESH, COL_CTL, COLLECTIVE_TIMEOUT, GROUP_ACTIVATE, GROUP_DEACTIVATE, GROUP_ABORT,
REFORM, ENGINE_STATE_FLIT, ENGINE_STATE_SEND, TOKEN, EXPERT_OUT, LAYER_TIMEOUT, LAYER_ACTIVATE, LAYER_DEACTIVATE,
LAYER_ABORT, LAYER_REFORM, PUT, GET, PUT_RED, COPY, COPY_PIECE_DONE, FADD_I, FADD_F, CAS, SWAP, AMAX, AMIN,
FWD_TIMEOUT, SCRUB_TICK, COLUMN_REPAIR_DONE, TILE_FAIL, LP_DEVICE_FAIL, SRAM_ZERO_DONE, LP_INIT_DONE, LP_ZERO_DONE,
PPR_START. (08_memory_and_windows.md, Memory and window registers; 95_what_each_step_holds.md, Which steps each
requirement bears on) -/
def Obligations.FrameEngines : Prop :=
  (∀ (s : State) (p : Plane), ∃ t, exec (.colRst p) s = .next t ∧ Changes [.col, .dsp, .epc, .hif, .lfp, .line,
      .mem, .out, .rte, .swc, .tst] (sendRegs ++ [.COL_GRP_STAT, .DSP_LYR_STAT, .GWM_COPY_ACT, .GWM_FWD_USED,
      .LFP_PORT_STAT, .SWC_PORT_FLUSH, .TOP_PG_STAT, .TOP_RST_CTL, .TST_CHK_FLOW, .TST_GEN_STAT]) s t) ∧
  (∀ (s : State) (p : Plane), ∃ t, exec (.memRst p) s = .next t ∧ Changes [.col, .dsp, .epc, .hif, .lfp, .line,
      .mem, .out, .rte, .swc, .tst] (sendRegs ++ [.COL_GRP_STAT, .DSP_LYR_STAT, .GWM_COPY_ACT, .GWM_FWD_USED,
      .LFP_PORT_STAT, .SWC_PORT_FLUSH, .TOP_PG_STAT, .TOP_RST_CTL, .TST_CHK_FLOW, .TST_GEN_STAT]) s t) ∧
  (∀ (s : State) (p : Plane) (pkt : Packet) (ecc : List EccHit), ∃ t, exec (.contrib p pkt ecc) s = .next t ∧
      Changes [.can, .col, .dsp, .epc, .free, .hif, .lfp, .line, .loose, .mem, .out, .pkg, .rte, .swc, .tst]
      (receiveRegs ++ [.COL_ABORT_DISC, .COL_CRED_DISC, .COL_FWD_CNT, .COL_GRP_DISC, .COL_GRP_STAT, .COL_REC_FREE,
      .COL_SAT_CNT, .COL_SLOT_FREE, .COL_SPILL_FREE, .COL_STALE_DISC, .DSP_LYR_STAT, .DSP_OVF_FREE, .EPC_SUPPR_CNT,
      .MEM_DEEP_FREE, .MEM_ERR_ADDR, .MEM_ERR_INFO, .MEM_LINK_CE, .MEM_LINK_UE, .MEM_LP_CE, .MEM_LP_DEV,
      .MEM_LP_DEV_ROW, .MEM_LP_UE, .MEM_SRAM_CE, .MEM_SRAM_UE, .MEM_TILE_CE, .MEM_TILE_STAT, .TOP_UNIT_STAT]) s t) ∧
  (∀ (s : State) (p : Plane) (pkt : Packet) (ecc : List EccHit), ∃ t, exec (.partialIn p pkt ecc) s = .next t ∧
      Changes [.can, .col, .dsp, .epc, .free, .hif, .lfp, .line, .loose, .mem, .out, .pkg, .rte, .swc, .tst]
      (receiveRegs ++ [.COL_ABORT_DISC, .COL_CRED_DISC, .COL_FWD_CNT, .COL_GRP_DISC, .COL_GRP_STAT, .COL_REC_FREE,
      .COL_SAT_CNT, .COL_SLOT_FREE, .COL_SPILL_FREE, .COL_STALE_DISC, .DSP_LYR_STAT, .DSP_OVF_FREE, .EPC_SUPPR_CNT,
      .MEM_DEEP_FREE, .MEM_ERR_ADDR, .MEM_ERR_INFO, .MEM_LINK_CE, .MEM_LINK_UE, .MEM_LP_CE, .MEM_LP_DEV,
      .MEM_LP_DEV_ROW, .MEM_LP_UE, .MEM_SRAM_CE, .MEM_SRAM_UE, .MEM_TILE_CE, .MEM_TILE_STAT, .TOP_UNIT_STAT]) s t) ∧
  (∀ (s : State) (p : Plane) (g : Fin 1024) (chunk : BitVec 32), ∃ t, exec (.chunkFreed p g chunk) s = .next t ∧
      Changes [.col, .epc, .hif, .lfp, .line, .out, .rte, .swc, .tst] (sendRegs ++ [.COL_GRP_BASE, .COL_GRP_LIMIT,
      .COL_GRP_STAT]) s t) ∧
  (∀ (s : State) (p : Plane) (pkt : Packet), ∃ t, exec (.slotCred p pkt) s = .next t ∧ Changes [.col, .epc, .hif,
      .lfp, .line, .out, .rte, .swc, .tst] (receiveRegs ++ [.COL_ABORT_DISC, .COL_GRP_DISC, .COL_GRP_STAT,
      .COL_SAT_CNT]) s t) ∧
  (∀ (s : State) (p : Plane) (g : Fin 1024), ∃ t, exec (.slotCredDelay p g) s = .next t ∧ Changes [.col, .epc, .hif,
      .lfp, .line, .out, .rte, .swc, .tst] (sendRegs) s t) ∧
  (∀ (s : State) (p : Plane) (g : Fin 1024), ∃ t, exec (.slotCredRefresh p g) s = .next t ∧ Changes [.col, .epc,
      .hif, .lfp, .line, .out, .rte, .swc, .tst] (sendRegs) s t) ∧
  (∀ (s : State) (p : Plane) (pkt : Packet), ∃ t, exec (.colCtl p pkt) s = .next t ∧ Changes [.col, .epc, .hif,
      .lfp, .line, .out, .rte, .swc, .tst] (receiveRegs ++ [.COL_ABORT_DISC, .COL_GRP_DISC, .COL_GRP_STAT]) s t) ∧
  (∀ (s : State) (p : Plane) (g : Fin 1024), ∃ t, exec (.collectiveTimeout p g) s = .next t ∧ Changes [.col, .epc,
      .hif, .lfp, .line, .out, .rte, .swc, .tst] (sendRegs ++ [.COL_GRP_STAT]) s t) ∧
  (∀ (s : State) (p : Plane) (g : Fin 1024), ∃ t, exec (.groupActivate p g) s = .next t ∧ Changes [.col, .epc, .hif,
      .lfp, .line, .mem, .out, .rte, .swc, .tst] (sendRegs ++ [.COL_ABORT_DISC, .COL_ACT_CNT, .COL_GRP_BASE,
      .COL_GRP_LIMIT, .COL_GRP_STAT, .COL_REC_FREE, .COL_SLOT_FREE, .COL_SPILL_FREE, .DSP_OVF_FREE, .MEM_DEEP_FREE])
      s t) ∧
  (∀ (s : State) (p : Plane) (g : Fin 1024), ∃ t, exec (.groupDeactivate p g) s = .next t ∧ Changes [.col, .epc,
      .hif, .lfp, .line, .mem, .out, .rte, .swc, .tst] (sendRegs ++ [.COL_ABORT_DISC, .COL_ACT_CNT, .COL_GRP_BASE,
      .COL_GRP_LIMIT, .COL_GRP_STAT, .COL_REC_FREE, .COL_SLOT_FREE, .COL_SPILL_FREE, .DSP_OVF_FREE, .MEM_DEEP_FREE])
      s t) ∧
  (∀ (s : State) (p : Plane) (g : Fin 1024), ∃ t, exec (.groupAbort p g) s = .next t ∧ Changes [.col, .epc, .hif,
      .lfp, .line, .mem, .out, .rte, .swc, .tst] (sendRegs ++ [.COL_ABORT_DISC, .COL_ACT_CNT, .COL_GRP_BASE,
      .COL_GRP_LIMIT, .COL_GRP_STAT, .COL_REC_FREE, .COL_SLOT_FREE, .COL_SPILL_FREE, .DSP_OVF_FREE, .MEM_DEEP_FREE])
      s t) ∧
  (∀ (s : State) (p : Plane) (g : Fin 1024), ∃ t, exec (.reform p g) s = .next t ∧ Changes [.col, .epc, .hif, .lfp,
      .line, .mem, .out, .rte, .swc, .tst] (sendRegs ++ [.COL_ABORT_DISC, .COL_ACT_CNT, .COL_GRP_BASE,
      .COL_GRP_LIMIT, .COL_GRP_STAT, .COL_REC_FREE, .COL_SLOT_FREE, .COL_SPILL_FREE, .DSP_OVF_FREE, .MEM_DEEP_FREE])
      s t) ∧
  (∀ (s : State) (p : Plane) (up : Bool), ∃ t, exec (.engineStateFlit p up) s = .next t ∧ Changes [.col, .epc, .hif,
      .lfp, .line, .out, .rte, .swc, .tst] (sendRegs ++ [.COL_GRP_STAT]) s t) ∧
  (∀ (s : State) (p : Plane), ∃ t, exec (.engineStateSend p) s = .next t ∧ Changes [.col, .out] ([]) s t) ∧
  (∀ (s : State) (p : Plane) (pkt : Packet) (ecc : List EccHit), ∃ t, exec (.token p pkt ecc) s = .next t ∧ Changes
      [.can, .col, .dsp, .epc, .free, .hif, .lfp, .line, .loose, .mem, .out, .pkg, .rte, .swc, .tst] (receiveRegs ++
      [.COL_GRP_STAT, .COL_REC_FREE, .COL_SLOT_FREE, .COL_SPILL_FREE, .DSP_ABORT_DISC, .DSP_DROP_CNT, .DSP_HOST_CNT,
      .DSP_LYR_DISC, .DSP_LYR_STAT, .DSP_OVF_FREE, .DSP_OVF_FULL, .DSP_QUEUE_CNT, .DSP_REFUSE_CNT, .DSP_SAT_CNT,
      .DSP_STALE_DISC, .EPC_SUPPR_CNT, .MEM_DEEP_FREE, .MEM_ERR_ADDR, .MEM_ERR_INFO, .MEM_LINK_CE, .MEM_LINK_UE,
      .MEM_LP_CE, .MEM_LP_DEV, .MEM_LP_DEV_ROW, .MEM_LP_UE, .MEM_SRAM_CE, .MEM_SRAM_UE, .MEM_TILE_CE,
      .MEM_TILE_STAT, .TOP_UNIT_STAT]) s t) ∧
  (∀ (s : State) (p : Plane) (pkt : Packet) (ecc : List EccHit), ∃ t, exec (.expertOut p pkt ecc) s = .next t ∧
      Changes [.can, .col, .dsp, .epc, .free, .hif, .lfp, .line, .loose, .mem, .out, .pkg, .rte, .swc, .tst]
      (receiveRegs ++ [.COL_GRP_STAT, .COL_REC_FREE, .COL_SLOT_FREE, .COL_SPILL_FREE, .DSP_ABORT_DISC,
      .DSP_DROP_CNT, .DSP_LYR_STAT, .DSP_OUT_DISC, .DSP_OVF_FREE, .DSP_SAT_CNT, .EPC_SUPPR_CNT, .MEM_DEEP_FREE,
      .MEM_ERR_ADDR, .MEM_ERR_INFO, .MEM_LINK_CE, .MEM_LINK_UE, .MEM_LP_CE, .MEM_LP_DEV, .MEM_LP_DEV_ROW,
      .MEM_LP_UE, .MEM_SRAM_CE, .MEM_SRAM_UE, .MEM_TILE_CE, .MEM_TILE_STAT, .TOP_UNIT_STAT]) s t) ∧
  (∀ (s : State) (p : Plane) (l : Fin 64), ∃ t, exec (.layerTimeout p l) s = .next t ∧ Changes [.dsp, .epc, .hif,
      .lfp, .line, .out, .rte, .swc, .tst] (sendRegs ++ [.DSP_LYR_STAT]) s t) ∧
  (∀ (s : State) (p : Plane) (l : Fin 64), ∃ t, exec (.layerActivate p l) s = .next t ∧ Changes [.dsp, .epc, .hif,
      .lfp, .line, .mem, .out, .rte, .swc, .tst] (sendRegs ++ [.COL_REC_FREE, .COL_SLOT_FREE, .COL_SPILL_FREE,
      .DSP_ABORT_DISC, .DSP_ACT_CNT, .DSP_LYR_STAT, .DSP_OVF_FREE, .DSP_REC_FREE, .MEM_DEEP_FREE]) s t) ∧
  (∀ (s : State) (p : Plane) (l : Fin 64), ∃ t, exec (.layerDeactivate p l) s = .next t ∧ Changes [.dsp, .epc, .hif,
      .lfp, .line, .mem, .out, .rte, .swc, .tst] (sendRegs ++ [.COL_REC_FREE, .COL_SLOT_FREE, .COL_SPILL_FREE,
      .DSP_ABORT_DISC, .DSP_ACT_CNT, .DSP_LYR_STAT, .DSP_OVF_FREE, .DSP_REC_FREE, .MEM_DEEP_FREE]) s t) ∧
  (∀ (s : State) (p : Plane) (l : Fin 64), ∃ t, exec (.layerAbort p l) s = .next t ∧ Changes [.dsp, .epc, .hif,
      .lfp, .line, .mem, .out, .rte, .swc, .tst] (sendRegs ++ [.COL_REC_FREE, .COL_SLOT_FREE, .COL_SPILL_FREE,
      .DSP_ABORT_DISC, .DSP_ACT_CNT, .DSP_LYR_STAT, .DSP_OVF_FREE, .DSP_REC_FREE, .MEM_DEEP_FREE]) s t) ∧
  (∀ (s : State) (p : Plane) (l : Fin 64), ∃ t, exec (.layerReform p l) s = .next t ∧ Changes [.dsp, .epc, .hif,
      .lfp, .line, .mem, .out, .rte, .swc, .tst] (sendRegs ++ [.COL_REC_FREE, .COL_SLOT_FREE, .COL_SPILL_FREE,
      .DSP_ABORT_DISC, .DSP_ACT_CNT, .DSP_LYR_STAT, .DSP_OVF_FREE, .DSP_REC_FREE, .MEM_DEEP_FREE]) s t) ∧
  (∀ (s : State) (p : Plane) (pkt : Packet) (ecc : List EccHit), ∃ t, exec (.put p pkt ecc) s = .next t ∧ Changes
      [.can, .col, .dsp, .epc, .free, .hif, .lfp, .line, .loose, .mem, .out, .pkg, .pools, .rte, .swc, .tst]
      (memoryRegs ++ [.LFP_CRC_DISC, .LFP_STOMP_RX]) s t) ∧
  (∀ (s : State) (p : Plane) (pkt : Packet) (ecc : List EccHit), ∃ t, exec (.get p pkt ecc) s = .next t ∧ Changes
      [.can, .col, .dsp, .epc, .free, .hif, .lfp, .line, .loose, .mem, .out, .pkg, .pools, .rte, .swc, .tst]
      (memoryRegs ++ [.LFP_CRC_DISC, .LFP_STOMP_RX]) s t) ∧
  (∀ (s : State) (p : Plane) (pkt : Packet) (ecc : List EccHit), ∃ t, exec (.putRed p pkt ecc) s = .next t ∧ Changes
      [.can, .col, .dsp, .epc, .free, .hif, .lfp, .line, .loose, .mem, .out, .pkg, .pools, .rte, .swc, .tst]
      (memoryRegs ++ [.LFP_CRC_DISC, .LFP_STOMP_RX]) s t) ∧
  (∀ (s : State) (p : Plane) (pkt : Packet), ∃ t, exec (.copy p pkt) s = .next t ∧ Changes [.can, .col, .dsp, .epc,
      .free, .hif, .lfp, .line, .loose, .mem, .out, .pkg, .pools, .rte, .swc, .tst] (memoryRegs ++ [.LFP_CRC_DISC,
      .LFP_STOMP_RX]) s t) ∧
  (∀ (s : State) (p : Plane) (id piece : Nat) (ecc : List EccHit), ∃ t, exec (.copyPieceDone p id piece ecc) s =
      .next t ∧ Changes [.can, .col, .dsp, .epc, .free, .hif, .lfp, .line, .loose, .mem, .out, .pkg, .pools, .rte,
      .swc, .tst] (memoryRegs) s t) ∧
  (∀ (s : State) (p : Plane) (pkt : Packet) (ecc : List EccHit), ∃ t, exec (.faddI p pkt ecc) s = .next t ∧ Changes
      [.can, .col, .dsp, .epc, .free, .hif, .lfp, .line, .loose, .mem, .out, .pkg, .pools, .rte, .swc, .tst]
      (memoryRegs ++ [.LFP_CRC_DISC, .LFP_STOMP_RX]) s t) ∧
  (∀ (s : State) (p : Plane) (pkt : Packet) (ecc : List EccHit), ∃ t, exec (.faddF p pkt ecc) s = .next t ∧ Changes
      [.can, .col, .dsp, .epc, .free, .hif, .lfp, .line, .loose, .mem, .out, .pkg, .pools, .rte, .swc, .tst]
      (memoryRegs ++ [.LFP_CRC_DISC, .LFP_STOMP_RX]) s t) ∧
  (∀ (s : State) (p : Plane) (pkt : Packet) (ecc : List EccHit), ∃ t, exec (.cas p pkt ecc) s = .next t ∧ Changes
      [.can, .col, .dsp, .epc, .free, .hif, .lfp, .line, .loose, .mem, .out, .pkg, .pools, .rte, .swc, .tst]
      (memoryRegs ++ [.LFP_CRC_DISC, .LFP_STOMP_RX]) s t) ∧
  (∀ (s : State) (p : Plane) (pkt : Packet) (ecc : List EccHit), ∃ t, exec (.swap p pkt ecc) s = .next t ∧ Changes
      [.can, .col, .dsp, .epc, .free, .hif, .lfp, .line, .loose, .mem, .out, .pkg, .pools, .rte, .swc, .tst]
      (memoryRegs ++ [.LFP_CRC_DISC, .LFP_STOMP_RX]) s t) ∧
  (∀ (s : State) (p : Plane) (pkt : Packet) (ecc : List EccHit), ∃ t, exec (.amax p pkt ecc) s = .next t ∧ Changes
      [.can, .col, .dsp, .epc, .free, .hif, .lfp, .line, .loose, .mem, .out, .pkg, .pools, .rte, .swc, .tst]
      (memoryRegs ++ [.LFP_CRC_DISC, .LFP_STOMP_RX]) s t) ∧
  (∀ (s : State) (p : Plane) (pkt : Packet) (ecc : List EccHit), ∃ t, exec (.amin p pkt ecc) s = .next t ∧ Changes
      [.can, .col, .dsp, .epc, .free, .hif, .lfp, .line, .loose, .mem, .out, .pkg, .pools, .rte, .swc, .tst]
      (memoryRegs ++ [.LFP_CRC_DISC, .LFP_STOMP_RX]) s t) ∧
  (∀ (s : State) (p : Plane) (tag : BitVec 16), ∃ t, exec (.fwdTimeout p tag) s = .next t ∧ Changes [.can, .col,
      .dsp, .epc, .free, .hif, .lfp, .line, .loose, .mem, .out, .pkg, .pools, .rte, .swc, .tst] (memoryRegs ++
      [.LFP_OP_TMO]) s t) ∧
  (∀ (s : State) (p : Plane) (lp : Bool) (unit : Fin 16) (addr : BitVec 40) (sub col : Byte) (err : BitVec 2), ∃ t,
      exec (.scrubTick p lp unit addr sub col err) s = .next t ∧ Changes [.can, .col, .dsp, .epc, .free, .hif, .lfp,
      .line, .loose, .mem, .out, .pkg, .rte, .swc, .tst] (sendRegs ++ [.COL_GRP_STAT, .COL_REC_FREE, .COL_SLOT_FREE,
      .COL_SPILL_FREE, .DSP_LYR_STAT, .DSP_OVF_FREE, .EPC_SUPPR_CNT, .MEM_DEEP_FREE, .MEM_ERR_ADDR, .MEM_ERR_INFO,
      .MEM_LP_CE, .MEM_LP_DEV, .MEM_LP_DEV_ROW, .MEM_LP_UE, .MEM_SRAM_CE, .MEM_SRAM_UE, .MEM_TILE_CE,
      .MEM_TILE_STAT, .TOP_UNIT_STAT]) s t) ∧
  (∀ (s : State) (p : Plane) (tx : Fin 16) (sub col : Byte), ∃ t, exec (.columnRepairDone p tx sub col) s = .next t
      ∧ Changes [.can, .hif, .lfp, .mem, .out, .pkg, .swc] (eventRegs ++ [.MEM_REPAIR_CNT, .MEM_TILE_STAT]) s t) ∧
  (∀ (s : State) (p : Plane) (tx : Fin 16), ∃ t, exec (.tileFail p tx) s = .next t ∧ Changes [.col, .dsp, .epc,
      .free, .hif, .lfp, .line, .mem, .out, .rte, .swc, .tst] (sendRegs ++ [.COL_GRP_STAT, .COL_REC_FREE,
      .COL_SLOT_FREE, .COL_SPILL_FREE, .DSP_LYR_STAT, .DSP_OVF_FREE, .MEM_DEEP_FREE, .MEM_TILE_STAT,
      .TOP_UNIT_STAT]) s t) ∧
  (∀ (s : State) (p : Plane) (m : Fin 16), ∃ t, exec (.lpDeviceFail p m) s = .next t ∧ Changes [.col, .dsp, .epc,
      .free, .hif, .lfp, .line, .mem, .out, .rte, .swc, .tst] (sendRegs ++ [.COL_GRP_STAT, .COL_REC_FREE,
      .COL_SLOT_FREE, .COL_SPILL_FREE, .DSP_LYR_STAT, .DSP_OVF_FREE, .MEM_DEEP_FREE, .MEM_LP_DEV]) s t) ∧
  (∀ (s : State) (p : Plane), ∃ t, exec (.sramZeroDone p) s = .next t ∧ Changes [.mem, .pools] ([.MEM_STAT]) s t) ∧
  (∀ (s : State) (p : Plane) (m : Fin 16) (ok : Bool) (bad : BitVec 8), ∃ t, exec (.lpInitDone p m ok bad) s = .next
      t ∧ Changes [.can, .col, .dsp, .epc, .free, .hif, .lfp, .line, .mem, .out, .pkg, .pools, .rte, .swc, .tst]
      (sendRegs ++ [.COL_GRP_STAT, .COL_REC_FREE, .COL_SLOT_FREE, .COL_SPILL_FREE, .DSP_LYR_STAT, .DSP_OVF_FREE,
      .MEM_DEEP_FREE, .MEM_LP_DEV, .MEM_LP_POOL, .MEM_PPR_CTL, .MEM_STAT]) s t) ∧
  (∀ (s : State) (p : Plane), ∃ t, exec (.lpZeroDone p) s = .next t ∧ Changes [.mem, .pools] ([.MEM_STAT]) s t) ∧
  (∀ (s : State) (p : Plane) (m : Fin 16), ∃ t, exec (.pprStart p m) s = .next t ∧ Changes [.mem] ([.MEM_PPR_CTL]) s
      t)

/-- What the commands of the host interface leave unchanged. Each of these commands answers a next state that
differs from the old one at most in the parts and registers named with it: every other register word of both planes,
every other part of a plane or of the package, every byte of memory where the memory pools are not named, the queue
and the core clock count are unchanged. Commands: GL_DETECT_SENSE, GL_STAGE_TIMEOUT, GL_INIT_FLIT, GL_LANE_FAIL,
GL_HALF_DOWN, GL_RETRAIN, SNP_INV, NOP, BULK_WR, MODE_SET, CWND_SET, ADAPT, ADAPT_DONE, RING_ENABLE, RING_DISABLE,
STATUS_LINE_WRITE, INTR_COALESCE, EVENT_RAISE, EVT_HOLD_END, FUNC_MODE_WRITE, HOST_WATCHDOG, HOST_LINK_LOST,
HOST_BACK, BAD_OP. (09_host_interface.md, Host interface registers; 95_what_each_step_holds.md, Which steps each
requirement bears on) -/
def Obligations.FrameHost : Prop :=
  (∀ (s : State) (half : Plane) (mask : Byte), ∃ t, exec (.glDetectSense half mask) s = .next t ∧ Changes [.hif]
      ([.HIF_LINK_STAT]) s t) ∧
  (∀ (s : State) (half : Plane), ∃ t, exec (.glStageTimeout half) s = .next t ∧ Changes [.hif] ([.HIF_LINK_CFG,
      .HIF_LINK_STAT]) s t) ∧
  (∀ (s : State) (half : Plane) (f : GlFlit), ∃ t, exec (.glInitFlit half f) s = .next t ∧ Changes [.free, .hif,
      .loose, .out] (eventRegs ++ [.HIF_GL_CRC, .HIF_LINK_STAT]) s t) ∧
  (∀ (s : State) (half : Plane) (lane : Fin 8), ∃ t, exec (.glLaneFail half lane) s = .next t ∧ Changes [.epc, .hif,
      .out] (logRegs ++ [.HIF_LINK_CFG, .HIF_LINK_STAT]) s t) ∧
  (∀ (s : State) (half : Plane), ∃ t, exec (.glHalfDown half) s = .next t ∧ Changes [.epc, .hif, .out] (logRegs ++
      [.HIF_LINK_CFG, .HIF_LINK_STAT]) s t) ∧
  (∀ (s : State) (half : Plane), ∃ t, exec (.glRetrain half) s = .next t ∧ Changes [.epc, .hif, .out] (logRegs ++
      [.HIF_LINK_CFG, .HIF_LINK_STAT]) s t) ∧
  (∀ (s : State) (half : Plane) (m : GlMsg), ∃ t, exec (.snpInv half m) s = .next t ∧ Changes [.hif, .out] ([]) s t) ∧
  (∀ (s : State) (p : Plane) (h : CmdHead), ∃ t, exec (.nop p h) s = .next t ∧ Changes [.free, .hif, .out]
      ([.HIF_CMD_CNT, .HIF_INTR_CNT, .HIF_RING_IDX]) s t) ∧
  (∀ (s : State) (p : Plane) (h : CmdHead) (off words : Word) (haddr : BitVec 64) (data : List Word) (fault : Bool),
      ∃ t, exec (.bulkWr p h off words haddr data fault) s = .next t ∧ Changes [.free, .hif, .out] ([.HIF_CMD_CNT,
      .HIF_INTR_CNT, .HIF_RING_IDX]) s t) ∧
  (∀ (s : State) (p : Plane) (h : CmdHead) (func mode : Byte), ∃ t, exec (.modeSet p h func mode) s = .next t ∧
      Changes [.free, .hif, .out] (eventRegs ++ [.HIF_CMD_CNT, .HIF_FUNC_MODE, .HIF_INTR_CNT]) s t) ∧
  (∀ (s : State) (p : Plane) (h : CmdHead) (dst : EpId) (cwnd : BitVec 16), ∃ t, exec (.cwndSet p h dst cwnd) s =
      .next t ∧ Changes [.col, .dsp, .epc, .free, .hif, .lfp, .line, .out, .rte, .swc, .tst] (sendRegs ++
      [.DSP_LYR_STAT, .HIF_CMD_CNT, .HIF_INTR_CNT]) s t) ∧
  (∀ (s : State) (p : Plane) (h : CmdHead) (lane : BitVec 16) (reqA reqB ctl : Byte), ∃ t, exec (.adapt p h lane
      reqA reqB ctl) s = .next t ∧ Changes [.free, .hif, .lne, .out] ([.HIF_CMD_CNT, .HIF_INTR_CNT, .HIF_RING_IDX])
      s t) ∧
  (∀ (s : State) (p : Plane) (report : Option (BitVec 32)), ∃ t, exec (.adaptDone p report) s = .next t ∧ Changes
      [.free, .hif, .out] ([.HIF_CMD_CNT, .HIF_INTR_CNT, .HIF_RING_IDX]) s t) ∧
  (∀ (s : State) (p : Plane) (r : Ring), ∃ t, exec (.ringEnable p r) s = .next t ∧ Changes [.hif, .out] ([.HIF_CTL,
      .HIF_RING_IDX]) s t) ∧
  (∀ (s : State) (p : Plane) (r : Ring), ∃ t, exec (.ringDisable p r) s = .next t ∧ Changes [.free, .hif, .out]
      ([.HIF_CMD_CNT, .HIF_CTL, .HIF_INTR_CNT, .HIF_RING_IDX]) s t) ∧
  (∀ (s : State) (p : Plane), ∃ t, exec (.statusLineWrite p) s = .next t ∧ Changes [.hif, .out] ([]) s t) ∧
  (∀ (s : State) (p : Plane) (r : Ring), ∃ t, exec (.intrCoalesce p r) s = .next t ∧ Changes [.hif, .out]
      ([.HIF_INTR_CNT]) s t) ∧
  (∀ (s : State) (p : Plane) (code : BitVec 16) (unit : Word) (args : List Word), ∃ t, exec (.eventRaise p code unit
      args) s = .next t ∧ Changes [.hif, .out] (eventRegs) s t) ∧
  (∀ (s : State) (p : Plane) (code : BitVec 16) (unit : Word), ∃ t, exec (.evtHoldEnd p code unit) s = .next t ∧
      Changes [.hif, .out] (eventRegs) s t) ∧
  (∀ (s : State) (p : Plane) (v : Word), ∃ t, exec (.funcModeWrite p v) s = .next t ∧ Changes [.hif, .out]
      (eventRegs ++ [.HIF_FUNC_MODE]) s t) ∧
  (∀ (s : State) (p : Plane), ∃ t, exec (.hostWatchdog p) s = .next t ∧ Changes [.can, .hif, .lfp, .out, .pkg, .swc]
      (eventRegs ++ [.HIF_FUNC_MODE]) s t) ∧
  (∀ (s : State) (p : Plane), ∃ t, exec (.hostLinkLost p) s = .next t ∧ Changes [.can, .hif, .lfp, .out, .pkg, .swc]
      (eventRegs ++ [.HIF_FUNC_MODE]) s t) ∧
  (∀ (s : State) (p : Plane), ∃ t, exec (.hostBack p) s = .next t ∧ Changes [.can, .hif, .lfp, .out, .pkg, .swc]
      (eventRegs) s t) ∧
  (∀ (s : State) (p : Plane) (h : CmdHead) (op : Byte), ∃ t, exec (.badOp p h op) s = .next t ∧ Changes [.free,
      .hif, .out] ([.HIF_CMD_CNT, .HIF_INTR_CNT, .HIF_RING_IDX]) s t)

/-- What the commands of management leave unchanged. Each of these commands answers a next state that differs from
the old one at most in the parts and registers named with it: every other register word of both planes, every other
part of a plane or of the package, every byte of memory where the memory pools are not named, the queue and the core
clock count are unchanged. Commands: HEARTBEAT_SEND, JOURNAL_RECORD, SELF_TEST_TICK, CANTON_WATCHDOG, HANDOVER,
HEALTH_GET, INVENTORY_GET, SENSOR_GET, ATTEST, NEIGHBOUR_GET, CAP_SET, FW_WRITE, FW_ACTIVATE, SVN_COMMIT,
KEY_REVOKE, OWNER_SET, MASTER_HANDOVER, ANNOUNCE_SEND, ANNOUNCE, MASTER_ELECTION, MEMBER_LOST, TRAY_TIME_FRAME,
TRAY_TIME_SEND, PTP_MESSAGE, TRAY_CAP_SPLIT, POWER_FRAME, INVENTORY_SAVE, SENSOR_POLL, THERM_CAP_STEP, LEAK_MEASURE,
LEAK_POWER_OFF, THROTTLE_STEP, SHARE_UPDATE, CAP_UNMEET, CAP_HOST_WRITE, EPO_ASSERT, THERMAL_TRIP, NEIGHBOUR_LOST,
NEIGHBOUR_NOTIFY, VIEW_CHECK, CFG_MEAS_DONE, NOTIFY_ACK, INVENTORY_MINUTE_COUNT, MGMT_ETH_LINK_CHANGE.
(10_management.md, Canton registers; 95_what_each_step_holds.md, Which steps each requirement bears on) -/
def Obligations.FrameCanton : Prop :=
  (∀ (s : State) (p : Plane), ∃ t, exec (.heartbeatSend p) s = .next t ∧ Changes [.can, .epc, .lfp, .out, .swc]
      ([.EPC_LOG_RP]) s t) ∧
  (∀ (s : State) (p : Plane) (seq : BitVec 32) (r : JournalRec), ∃ t, exec (.journalRecord p seq r) s = .next t ∧
      Changes [.can] ([.CAN_STAT]) s t) ∧
  (∀ (s : State) (p : Plane) (kat ok : Bool), ∃ t, exec (.selfTestTick p kat ok) s = .next t ∧ Changes [.can] ([]) s
      t) ∧
  (∀ (s : State) (p : Plane), ∃ t, exec (.cantonWatchdog p) s = .next t ∧ Changes [.can] ([.CAN_BOOT_STAT,
      .CAN_MBOX_CTL, .CAN_STAT]) s t) ∧
  (∀ (s : State) (p : Plane) (req : Option MgmtReq), ∃ t, exec (.handover p req) s = .next t ∧ Changes [.can, .epc,
      .hif, .lfp, .lne, .out, .pkg, .rte, .swc] (logRegs ++ mailRegs ++ [.CAN_CTL, .CAN_STAT, .GWM_DENY_CNT,
      .GWM_MEMERR_CNT, .GWM_UNMAP_CNT, .GWM_UNSUP_CNT, .LFP_HCRC_DISC, .LFP_HDR_DISC, .LFP_HOP_DISC, .RTE_ESC_DISC,
      .RTE_ESC_MOVE, .RTE_INT_DISC, .RTE_MARK_RX, .RTE_MC_DISC, .RTE_MISS_DISC, .RTE_NOPORT_DISC, .RTE_PATH_DISC,
      .SWC_FLUSH_DISC, .SWC_MIR_DROP, .SWC_OVF_DISC, .TST_MATCH_CNT]) s t) ∧
  (∀ (s : State) (req : MgmtReq), ∃ t, exec (.healthGet req) s = .next t ∧ Changes [.can, .epc, .hif, .lfp, .lne,
      .out, .pkg, .rte, .swc] (logRegs ++ mailRegs ++ [.GWM_DENY_CNT, .GWM_MEMERR_CNT, .GWM_UNMAP_CNT,
      .GWM_UNSUP_CNT, .LFP_HCRC_DISC, .LFP_HDR_DISC, .LFP_HOP_DISC, .RTE_ESC_DISC, .RTE_ESC_MOVE, .RTE_INT_DISC,
      .RTE_MARK_RX, .RTE_MC_DISC, .RTE_MISS_DISC, .RTE_NOPORT_DISC, .RTE_PATH_DISC, .SWC_FLUSH_DISC, .SWC_MIR_DROP,
      .SWC_OVF_DISC, .TST_MATCH_CNT]) s t) ∧
  (∀ (s : State) (req : MgmtReq) (members : List (BitVec 4 × Bytes)), ∃ t, exec (.inventoryGet req members) s =
      .next t ∧ Changes [.can, .epc, .hif, .lfp, .lne, .out, .pkg, .rte, .swc] (logRegs ++ mailRegs ++
      [.GWM_DENY_CNT, .GWM_MEMERR_CNT, .GWM_UNMAP_CNT, .GWM_UNSUP_CNT, .LFP_HCRC_DISC, .LFP_HDR_DISC, .LFP_HOP_DISC,
      .RTE_ESC_DISC, .RTE_ESC_MOVE, .RTE_INT_DISC, .RTE_MARK_RX, .RTE_MC_DISC, .RTE_MISS_DISC, .RTE_NOPORT_DISC,
      .RTE_PATH_DISC, .SWC_FLUSH_DISC, .SWC_MIR_DROP, .SWC_OVF_DISC, .TST_MATCH_CNT]) s t) ∧
  (∀ (s : State) (req : MgmtReq), ∃ t, exec (.sensorGet req) s = .next t ∧ Changes [.can, .epc, .hif, .lfp, .lne,
      .out, .pkg, .rte, .swc] (logRegs ++ mailRegs ++ [.GWM_DENY_CNT, .GWM_MEMERR_CNT, .GWM_UNMAP_CNT,
      .GWM_UNSUP_CNT, .LFP_HCRC_DISC, .LFP_HDR_DISC, .LFP_HOP_DISC, .RTE_ESC_DISC, .RTE_ESC_MOVE, .RTE_INT_DISC,
      .RTE_MARK_RX, .RTE_MC_DISC, .RTE_MISS_DISC, .RTE_NOPORT_DISC, .RTE_PATH_DISC, .SWC_FLUSH_DISC, .SWC_MIR_DROP,
      .SWC_OVF_DISC, .TST_MATCH_CNT]) s t) ∧
  (∀ (s : State) (req : MgmtReq), ∃ t, exec (.attest req) s = .next t ∧ Changes [.can, .epc, .hif, .lfp, .lne, .out,
      .pkg, .rte, .swc] (logRegs ++ mailRegs ++ [.GWM_DENY_CNT, .GWM_MEMERR_CNT, .GWM_UNMAP_CNT, .GWM_UNSUP_CNT,
      .LFP_HCRC_DISC, .LFP_HDR_DISC, .LFP_HOP_DISC, .RTE_ESC_DISC, .RTE_ESC_MOVE, .RTE_INT_DISC, .RTE_MARK_RX,
      .RTE_MC_DISC, .RTE_MISS_DISC, .RTE_NOPORT_DISC, .RTE_PATH_DISC, .SWC_FLUSH_DISC, .SWC_MIR_DROP, .SWC_OVF_DISC,
      .TST_MATCH_CNT]) s t) ∧
  (∀ (s : State) (req : MgmtReq), ∃ t, exec (.neighbourGet req) s = .next t ∧ Changes [.can, .epc, .hif, .lfp, .lne,
      .out, .pkg, .rte, .swc] (logRegs ++ mailRegs ++ [.GWM_DENY_CNT, .GWM_MEMERR_CNT, .GWM_UNMAP_CNT,
      .GWM_UNSUP_CNT, .LFP_HCRC_DISC, .LFP_HDR_DISC, .LFP_HOP_DISC, .RTE_ESC_DISC, .RTE_ESC_MOVE, .RTE_INT_DISC,
      .RTE_MARK_RX, .RTE_MC_DISC, .RTE_MISS_DISC, .RTE_NOPORT_DISC, .RTE_PATH_DISC, .SWC_FLUSH_DISC, .SWC_MIR_DROP,
      .SWC_OVF_DISC, .TST_MATCH_CNT]) s t) ∧
  (∀ (s : State) (req : MgmtReq), ∃ t, exec (.capSet req) s = .next t ∧ Changes [.can, .epc, .hif, .lfp, .lne, .out,
      .pkg, .rte, .swc] (logRegs ++ mailRegs ++ [.CAN_CAP_RM, .CAN_PWR_STAT, .GWM_DENY_CNT, .GWM_MEMERR_CNT,
      .GWM_UNMAP_CNT, .GWM_UNSUP_CNT, .LFP_HCRC_DISC, .LFP_HDR_DISC, .LFP_HOP_DISC, .RTE_ESC_DISC, .RTE_ESC_MOVE,
      .RTE_INT_DISC, .RTE_MARK_RX, .RTE_MC_DISC, .RTE_MISS_DISC, .RTE_NOPORT_DISC, .RTE_PATH_DISC, .SWC_FLUSH_DISC,
      .SWC_MIR_DROP, .SWC_OVF_DISC, .TOP_CLK_STAT, .TST_MATCH_CNT]) s t) ∧
  (∀ (s : State) (req : MgmtReq), ∃ t, exec (.fwWrite req) s = .next t ∧ Changes [.can, .epc, .hif, .lfp, .lne,
      .out, .pkg, .rte, .swc] (logRegs ++ mailRegs ++ [.GWM_DENY_CNT, .GWM_MEMERR_CNT, .GWM_UNMAP_CNT,
      .GWM_UNSUP_CNT, .LFP_HCRC_DISC, .LFP_HDR_DISC, .LFP_HOP_DISC, .RTE_ESC_DISC, .RTE_ESC_MOVE, .RTE_INT_DISC,
      .RTE_MARK_RX, .RTE_MC_DISC, .RTE_MISS_DISC, .RTE_NOPORT_DISC, .RTE_PATH_DISC, .SWC_FLUSH_DISC, .SWC_MIR_DROP,
      .SWC_OVF_DISC, .TST_MATCH_CNT]) s t) ∧
  (∀ (s : State) (req : MgmtReq), ∃ t, exec (.fwActivate req) s = .next t ∧ Changes [.can, .epc, .hif, .lfp, .lne,
      .out, .pkg, .rte, .swc] (logRegs ++ mailRegs ++ [.CAN_BOOT_STAT, .CAN_STAT, .GWM_DENY_CNT, .GWM_MEMERR_CNT,
      .GWM_UNMAP_CNT, .GWM_UNSUP_CNT, .LFP_HCRC_DISC, .LFP_HDR_DISC, .LFP_HOP_DISC, .RTE_ESC_DISC, .RTE_ESC_MOVE,
      .RTE_INT_DISC, .RTE_MARK_RX, .RTE_MC_DISC, .RTE_MISS_DISC, .RTE_NOPORT_DISC, .RTE_PATH_DISC, .SWC_FLUSH_DISC,
      .SWC_MIR_DROP, .SWC_OVF_DISC, .TST_MATCH_CNT]) s t) ∧
  (∀ (s : State) (req : MgmtReq), ∃ t, exec (.svnCommit req) s = .next t ∧ Changes [.can, .epc, .hif, .lfp, .lne,
      .out, .pkg, .rte, .swc] (logRegs ++ mailRegs ++ [.GWM_DENY_CNT, .GWM_MEMERR_CNT, .GWM_UNMAP_CNT,
      .GWM_UNSUP_CNT, .LFP_HCRC_DISC, .LFP_HDR_DISC, .LFP_HOP_DISC, .RTE_ESC_DISC, .RTE_ESC_MOVE, .RTE_INT_DISC,
      .RTE_MARK_RX, .RTE_MC_DISC, .RTE_MISS_DISC, .RTE_NOPORT_DISC, .RTE_PATH_DISC, .SWC_FLUSH_DISC, .SWC_MIR_DROP,
      .SWC_OVF_DISC, .TST_MATCH_CNT]) s t) ∧
  (∀ (s : State) (req : MgmtReq) (signer : Option (Fin 4)), ∃ t, exec (.keyRevoke req signer) s = .next t ∧ Changes
      [.can, .epc, .hif, .lfp, .lne, .out, .pkg, .rte, .swc] (logRegs ++ mailRegs ++ [.GWM_DENY_CNT,
      .GWM_MEMERR_CNT, .GWM_UNMAP_CNT, .GWM_UNSUP_CNT, .LFP_HCRC_DISC, .LFP_HDR_DISC, .LFP_HOP_DISC, .RTE_ESC_DISC,
      .RTE_ESC_MOVE, .RTE_INT_DISC, .RTE_MARK_RX, .RTE_MC_DISC, .RTE_MISS_DISC, .RTE_NOPORT_DISC, .RTE_PATH_DISC,
      .SWC_FLUSH_DISC, .SWC_MIR_DROP, .SWC_OVF_DISC, .TST_MATCH_CNT]) s t) ∧
  (∀ (s : State) (req : MgmtReq), ∃ t, exec (.ownerSet req) s = .next t ∧ Changes [.can, .epc, .hif, .lfp, .lne,
      .out, .pkg, .rte, .swc] (logRegs ++ mailRegs ++ [.GWM_DENY_CNT, .GWM_MEMERR_CNT, .GWM_UNMAP_CNT,
      .GWM_UNSUP_CNT, .LFP_HCRC_DISC, .LFP_HDR_DISC, .LFP_HOP_DISC, .RTE_ESC_DISC, .RTE_ESC_MOVE, .RTE_INT_DISC,
      .RTE_MARK_RX, .RTE_MC_DISC, .RTE_MISS_DISC, .RTE_NOPORT_DISC, .RTE_PATH_DISC, .SWC_FLUSH_DISC, .SWC_MIR_DROP,
      .SWC_OVF_DISC, .TST_MATCH_CNT]) s t) ∧
  (∀ (s : State) (req : MgmtReq), ∃ t, exec (.masterHandover req) s = .next t ∧ Changes [.can, .epc, .hif, .lfp,
      .lne, .out, .pkg, .rte, .swc] (logRegs ++ mailRegs ++ [.CAN_STAT, .GWM_DENY_CNT, .GWM_MEMERR_CNT,
      .GWM_UNMAP_CNT, .GWM_UNSUP_CNT, .LFP_HCRC_DISC, .LFP_HDR_DISC, .LFP_HOP_DISC, .RTE_ESC_DISC, .RTE_ESC_MOVE,
      .RTE_INT_DISC, .RTE_MARK_RX, .RTE_MC_DISC, .RTE_MISS_DISC, .RTE_NOPORT_DISC, .RTE_PATH_DISC, .SWC_FLUSH_DISC,
      .SWC_MIR_DROP, .SWC_OVF_DISC, .TST_MATCH_CNT]) s t) ∧
  (∀ (s : State), ∃ t, exec (.announceSend) s = .next t ∧ Changes [.out, .pkg] ([]) s t) ∧
  (∀ (s : State) (slot : BitVec 3) (serial : BitVec 64) (eligible master : Bool), ∃ t, exec (.announce slot serial
      eligible master) s = .next t ∧ Changes [.can, .free, .hif, .lfp, .out, .pkg, .swc] (eventRegs ++ [.CAN_STAT])
      s t) ∧
  (∀ (s : State), ∃ t, exec (.masterElection) s = .next t ∧ Changes [.can, .free, .hif, .lfp, .out, .pkg, .swc]
      (eventRegs ++ [.CAN_STAT]) s t) ∧
  (∀ (s : State) (slot : BitVec 3), ∃ t, exec (.memberLost slot) s = .next t ∧ Changes [.can, .free, .hif, .lfp,
      .out, .pkg, .swc] (eventRegs) s t) ∧
  (∀ (s : State) (side : Side) (kind : Fin 3) (lock : Bool) (tx rx : BitVec 64), ∃ t, exec (.trayTimeFrame side kind
      lock tx rx) s = .next t ∧ Changes [.out, .pkg] ([.CAN_STAT]) s t) ∧
  (∀ (s : State) (ask : Bool), ∃ t, exec (.trayTimeSend ask) s = .next t ∧ Changes [.out, .pkg] ([]) s t) ∧
  (∀ (s : State) (kind : Byte) (tx rx : BitVec 64), ∃ t, exec (.ptpMessage kind tx rx) s = .next t ∧ Changes [.out,
      .pkg] ([.CAN_STAT]) s t) ∧
  (∀ (s : State) (members : List (BitVec 3 × BitVec 16 × BitVec 16)), ∃ t, exec (.trayCapSplit members) s = .next t
      ∧ Changes [.can, .hif, .lfp, .out, .pkg, .swc] (eventRegs ++ [.CAN_CAP_TRAY, .CAN_PWR_STAT, .TOP_CLK_STAT]) s
      t) ∧
  (∀ (s : State) (share : BitVec 16), ∃ t, exec (.powerFrame share) s = .next t ∧ Changes [.can, .hif, .lfp, .out,
      .pkg, .swc] (eventRegs ++ [.CAN_CAP_TRAY, .CAN_PWR_STAT, .TOP_CLK_STAT]) s t) ∧
  (∀ (s : State), ∃ t, exec (.inventorySave) s = .next t ∧ Changes [.pkg] ([]) s t) ∧
  (∀ (s : State) (p : Plane) (k : Fin 119) (r : Sample), ∃ t, exec (.sensorPoll p k r) s = .next t ∧ Changes [.can,
      .epc, .free, .hif, .lfp, .line, .lne, .out, .pkg, .rte, .swc, .tst] (portDownRegs ++ [.CAN_CAP_THERM,
      .CAN_PWR_STAT, .CAN_SENSOR, .TOP_CLK_STAT]) s t) ∧
  (∀ (s : State), ∃ t, exec (.thermCapStep) s = .next t ∧ Changes [.can, .hif, .lfp, .out, .pkg, .swc] (eventRegs ++
      [.CAN_CAP_THERM, .CAN_PWR_STAT, .TOP_CLK_STAT]) s t) ∧
  (∀ (s : State) (loop : Fin 4) (ohms : Option Nat), ∃ t, exec (.leakMeasure loop ohms) s = .next t ∧ Changes [.can,
      .epc, .free, .hif, .lfp, .line, .lne, .out, .pkg, .rte, .swc, .tst] (portDownRegs ++ [.CAN_CAP_THERM,
      .CAN_LEAK, .CAN_PWR_STAT, .CAN_SENSOR, .TOP_CLK_STAT]) s t) ∧
  (∀ (s : State) (loop : Fin 4), ∃ t, exec (.leakPowerOff loop) s = .next t ∧ Changes [.out, .pkg] ([]) s t) ∧
  (∀ (s : State) (p : Plane), ∃ t, exec (.throttleStep p) s = .next t ∧ Changes [.can] ([.CAN_PWR_STAT,
      .TOP_CLK_STAT]) s t) ∧
  (∀ (s : State) (hoist fly : BitVec 16), ∃ t, exec (.shareUpdate hoist fly) s = .next t ∧ Changes []
      ([.CAN_PWR_STAT, .CAN_THR_CFG]) s t) ∧
  (∀ (s : State) (p : Plane), ∃ t, exec (.capUnmeet p) s = .next t ∧ Changes [.can, .hif, .lfp, .out, .pkg, .swc]
      (eventRegs ++ [.CAN_PWR_STAT, .TOP_CLK_STAT]) s t) ∧
  (∀ (s : State) (p : Plane) (v : Word), ∃ t, exec (.capHostWrite p v) s = .next t ∧ Changes [.can, .hif, .lfp,
      .out, .pkg, .swc] (eventRegs ++ [.CAN_CAP_HOST, .CAN_PWR_STAT, .TOP_CLK_STAT]) s t) ∧
  (∀ (s : State) (src : EpoSource), ∃ t, exec (.epoAssert src) s = .next t ∧ Changes [.can, .col, .dsp, .epc, .hif,
      .lfp, .line, .lne, .mem, .out, .pkg, .rte, .swc, .tst] (planeDownRegs ++ [.CAN_PWR_STATE]) s t) ∧
  (∀ (s : State) (p : Plane) (k : Fin 41), ∃ t, exec (.thermalTrip p k) s = .next t ∧ Changes [.can, .col, .dsp,
      .epc, .hif, .lfp, .line, .lne, .mem, .out, .pkg, .rte, .swc, .tst] (planeDownRegs ++ [.CAN_PWR_STATE,
      .EPC_FREEZE_STAT, .EPC_FREEZE_TIME]) s t) ∧
  (∀ (s : State), ∃ t, exec (.neighbourLost) s = .next t ∧ Changes [.can, .hif, .lfp, .out, .pkg, .swc] (eventRegs)
      s t) ∧
  (∀ (s : State), ∃ t, exec (.neighbourNotify) s = .next t ∧ Changes [.can, .hif, .lfp, .out, .pkg, .swc]
      (eventRegs) s t) ∧
  (∀ (s : State), ∃ t, exec (.viewCheck) s = .next t ∧ Changes [.can, .free, .hif, .lfp, .out, .pkg, .swc]
      (eventRegs) s t) ∧
  (∀ (s : State), ∃ t, exec (.cfgMeasDone) s = .next t ∧ Changes [.pkg] ([]) s t) ∧
  (∀ (s : State) (seq : BitVec 32), ∃ t, exec (.notifyAck seq) s = .next t ∧ Changes [.can, .lfp, .out, .pkg, .swc]
      ([]) s t) ∧
  (∀ (s : State), ∃ t, exec (.inventoryMinuteCount) s = .next t ∧ Changes [.can, .lfp, .out, .pkg, .swc] ([]) s t) ∧
  (∀ (s : State) (up : Bool), ∃ t, exec (.mgmtEthLinkChange up) s = .next t ∧ Changes [.can, .free, .hif, .lfp,
      .out, .pkg, .swc] (eventRegs ++ [.CAN_STAT]) s t)

/-- What the commands of change, units, freeze and errors leave unchanged. Each of these commands answers a next
state that differs from the old one at most in the parts and registers named with it: every other register word of
both planes, every other part of a plane or of the package, every byte of memory where the memory pools are not
named, the queue and the core clock count are unchanged. Commands: SWC_RST, DSP_RST, BLOCK_RESET_DONE, PG_FAIL,
CHIPLET_FAIL, ENGINE_FAIL, COMMIT, COMMIT_DECISION, COMMIT_INSTANT, UNIT_RETIRE, UNIT_TEST, UNIT_TEST_DONE,
ENGINE_GATE, UNIT_WAKE, FREEZE, FREEZE_PIN, ERROR_LOGGED, LOG_RP_WRITE, REFCLK_LOSS, REFCLK_RETURN, AON_CLK_LOSS,
FRZ_STATUS, FRZ_DIR, FRZ_CHAIN, FRZ_MEM, FRZ_REG, CORE_PLL_LOCK, AON_CLK_RETURN. (11_state_and_change.md, Epoch and
error registers; 95_what_each_step_holds.md, Which steps each requirement bears on) -/
def Obligations.FrameUnits : Prop :=
  (∀ (s : State) (p : Plane), ∃ t, exec (.swcRst p) s = .next t ∧ Changes [.col, .dsp, .epc, .hif, .lfp, .line,
      .mem, .out, .rte, .swc, .tst] (sendRegs ++ [.COL_GRP_STAT, .DSP_LYR_STAT, .GWM_COPY_ACT, .GWM_FWD_USED,
      .LFP_PORT_STAT, .SWC_PORT_FLUSH, .TOP_PG_STAT, .TOP_RST_CTL, .TST_CHK_FLOW, .TST_GEN_STAT]) s t) ∧
  (∀ (s : State) (p : Plane), ∃ t, exec (.dspRst p) s = .next t ∧ Changes [.col, .dsp, .epc, .hif, .lfp, .line,
      .mem, .out, .rte, .swc, .tst] (sendRegs ++ [.COL_GRP_STAT, .DSP_LYR_STAT, .GWM_COPY_ACT, .GWM_FWD_USED,
      .LFP_PORT_STAT, .SWC_PORT_FLUSH, .TOP_PG_STAT, .TOP_RST_CTL, .TST_CHK_FLOW, .TST_GEN_STAT]) s t) ∧
  (∀ (s : State) (p : Plane) (b : Blk), ∃ t, exec (.blockResetDone p b) s = .next t ∧ Changes [.col, .epc, .out,
      .tst] ([.TOP_PG_STAT, .TOP_RST_CTL]) s t) ∧
  (∀ (s : State) (p : Plane) (g : Fin 18), ∃ t, exec (.pgFail p g) s = .next t ∧ Changes [.epc, .hif, .lfp, .line,
      .lne, .out, .pkg, .rte, .swc, .tst] (portDownRegs ++ [.EPC_SUPPR_CNT, .TOP_PG_STAT]) s t) ∧
  (∀ (s : State) (p : Plane) (c : Fin 9), ∃ t, exec (.chipletFail p c) s = .next t ∧ Changes [.epc, .hif, .lfp,
      .line, .lne, .out, .pkg, .rte, .swc, .tst] (portDownRegs ++ [.EPC_SUPPR_CNT, .TOP_PG_STAT, .TOP_UNIT_STAT]) s
      t) ∧
  (∀ (s : State) (p : Plane) (e : Eng), ∃ t, exec (.engineFail p e) s = .next t ∧ Changes [.col, .dsp, .epc, .hif,
      .lfp, .line, .mem, .out, .rte, .swc, .tst] (sendRegs ++ [.COL_GRP_STAT, .DSP_LYR_STAT, .EPC_SUPPR_CNT,
      .GWM_COPY_ACT, .GWM_FWD_USED, .LFP_PORT_STAT, .SWC_PORT_FLUSH, .TOP_PG_STAT]) s t) ∧
  (∀ (s : State) (p : Plane), ∃ t, exec (.commit p) s = .next t ∧ Changes [.pkg] ([.EPC_COMMIT_STAT]) s t) ∧
  (∀ (s : State), ∃ t, exec (.commitDecision) s = .next t ∧ Changes [.committed, .hif, .lfp, .out, .pkg, .swc]
      (eventRegs ++ [.EPC_COMMIT_STAT, .EPC_FAIL_ADDR]) s t) ∧
  (∀ (s : State), ∃ t, exec (.commitInstant) s = .next t ∧ Changes [.can, .col, .committed, .dsp, .epc, .free, .hif,
      .lfp, .line, .loose, .mem, .out, .pkg, .pools, .rte, .swc, .tst] (memoryRegs ++ [.EPC_COMMIT_SEQ,
      .EPC_COMMIT_STAT, .MEM_LP_POOL, .MEM_SRAM_POOL, .MEM_STAT, .SWC_BUF_STAT]) s t) ∧
  (∀ (s : State) (p : Plane) (v : Word), ∃ t, exec (.unitRetire p v) s = .next t ∧ Changes [.can, .col, .dsp, .epc,
      .free, .hif, .lfp, .line, .lne, .mem, .out, .pkg, .rte, .swc, .tst] (planeDownRegs ++ [.COL_REC_FREE,
      .COL_SLOT_FREE, .COL_SPILL_FREE, .DSP_OVF_FREE, .EPC_FREEZE_STAT, .EPC_FREEZE_TIME, .EPC_SUPPR_CNT,
      .EPC_UNIT_CTL, .EPC_UNIT_STAT, .MEM_DEEP_FREE, .MEM_TILE_STAT, .SWC_RESEQ_LOSS, .SWC_SPINE_ERR,
      .SWC_SPINE_STAT, .TOP_UNIT_STAT]) s t) ∧
  (∀ (s : State) (p : Plane) (v : Word), ∃ t, exec (.unitTest p v) s = .next t ∧ Changes [.epc] ([.EPC_UNIT_CTL,
      .EPC_UNIT_STAT]) s t) ∧
  (∀ (s : State) (p : Plane) (pass : Bool), ∃ t, exec (.unitTestDone p pass) s = .next t ∧ Changes [.epc, .hif,
      .line, .lne, .mem, .out, .pools] (eventRegs ++ [.COL_REC_FREE, .COL_SLOT_FREE, .COL_SPILL_FREE, .DSP_OVF_FREE,
      .EPC_UNIT_CTL, .EPC_UNIT_STAT, .LNE_LANE_STAT, .LNE_PORT_STAT, .MEM_DEEP_FREE, .MEM_TILE_STAT,
      .SWC_SPINE_STAT, .TOP_PG_STAT, .TOP_UNIT_STAT]) s t) ∧
  (∀ (s : State) (p : Plane) (u : GateUnit), ∃ t, exec (.engineGate p u) s = .next t ∧ Changes [.epc]
      ([.EPC_GATE_STAT]) s t) ∧
  (∀ (s : State) (p : Plane) (u : GateUnit), ∃ t, exec (.unitWake p u) s = .next t ∧ Changes [.epc]
      ([.EPC_GATE_STAT]) s t) ∧
  (∀ (s : State) (p : Plane), ∃ t, exec (.freeze p) s = .next t ∧ Changes [.can, .epc, .hif, .lfp, .lne, .out, .pkg,
      .swc] (eventRegs ++ [.EPC_FREEZE_STAT, .EPC_FREEZE_TIME]) s t) ∧
  (∀ (s : State) (casc : Option Side), ∃ t, exec (.freezePin casc) s = .next t ∧ Changes [.can, .epc, .hif, .lfp,
      .lne, .out, .pkg, .swc] (eventRegs ++ [.EPC_FREEZE_STAT, .EPC_FREEZE_TIME]) s t) ∧
  (∀ (s : State) (p : Plane) (code : Byte) (unit info0 info1 info2 : Word), ∃ t, exec (.errorLogged p code unit
      info0 info1 info2) s = .next t ∧ Changes [.can, .col, .dsp, .epc, .hif, .lfp, .line, .lne, .mem, .out, .pkg,
      .rte, .swc, .tst] (planeDownRegs ++ [.EPC_FREEZE_STAT, .EPC_FREEZE_TIME, .EPC_SUPPR_CNT, .SWC_RESEQ_LOSS,
      .SWC_SPINE_ERR, .SWC_SPINE_STAT]) s t) ∧
  (∀ (s : State) (p : Plane) (v : Word), ∃ t, exec (.logRpWrite p v) s = .next t ∧ Changes [.epc] ([.EPC_LOG_RP]) s
      t) ∧
  (∀ (s : State) (p : Plane) (k : Fin 4), ∃ t, exec (.refclkLoss p k) s = .next t ∧ Changes [.can, .col, .dsp, .epc,
      .hif, .lfp, .line, .lne, .mem, .out, .pkg, .rte, .swc, .tst] (planeDownRegs ++ [.EPC_FREEZE_STAT,
      .EPC_FREEZE_TIME, .EPC_SUPPR_CNT, .TOP_CLK_STAT]) s t) ∧
  (∀ (s : State) (p : Plane) (k : Fin 4), ∃ t, exec (.refclkReturn p k) s = .next t ∧ Changes [] ([.TOP_CLK_STAT]) s
      t) ∧
  (∀ (s : State), ∃ t, exec (.aonClkLoss) s = .next t ∧ Changes [.pkg] ([.TOP_CLK_STAT]) s t) ∧
  (∀ (s : State), ∃ t, exec (.frzStatus) s = .next t ∧ Changes [.pkg] ([]) s t) ∧
  (∀ (s : State), ∃ t, exec (.frzDir) s = .next t ∧ Changes [.free, .pkg] ([]) s t) ∧
  (∀ (s : State) (sel : BitVec 17), ∃ t, exec (.frzChain sel) s = .next t ∧ Changes [.free, .pkg] ([]) s t) ∧
  (∀ (s : State) (sel : BitVec 64), ∃ t, exec (.frzMem sel) s = .next t ∧ Changes [.free, .pkg] ([]) s t) ∧
  (∀ (s : State) (addr : BitVec 27), ∃ t, exec (.frzReg addr) s = .next t ∧ Changes [.pkg] ([]) s t) ∧
  (∀ (s : State), ∃ t, exec (.corePllLock) s = .next t ∧ Changes [.can, .epc, .hif, .lfp, .lne, .out, .pkg, .swc]
      (eventRegs ++ [.EPC_FREEZE_STAT, .EPC_FREEZE_TIME, .HIF_LINK_CFG, .HIF_LINK_STAT, .TOP_CLK_STAT]) s t) ∧
  (∀ (s : State), ∃ t, exec (.aonClkReturn) s = .next t ∧ Changes [.pkg] ([.TOP_CLK_STAT]) s t)

/-- What the commands of time, the instrument and the test port leave unchanged. Each of these commands answers a
next state that differs from the old one at most in the parts and registers named with it: every other register word
of both planes, every other part of a plane or of the package, every byte of memory where the memory pools are not
named, the queue and the core clock count are unchanged. Commands: TST_RST, PCHK_LINK_SILENCE, AVS_SET,
FT_CFG_WRITE, FT_SET, SYNC_SEND, DREQ_SEND, SYNC, DREQ, DRESP, TIME_SOURCE_LOST, TIME_SOURCE_RETURN, TIME_FLIT_SEND,
TIME_FLIT, PPS_IN_EDGE, PPS_MISSING, PPS_OUT, GEN_START, GEN_STOP, GEN_PACKET, GEP_RECEIVE, CHK_CLR,
INJECT_DELAY_END, FEC_INJECT, EXTEST, SAMPLE_PRELOAD, IDCODE, CLAMP, HIGHZ, EXTEST_PULSE, EXTEST_TRAIN, BYPASS.
(12_test_instrument.md, Test registers; 95_what_each_step_holds.md, Which steps each requirement bears on) -/
def Obligations.FrameInstrument : Prop :=
  (∀ (s : State) (p : Plane), ∃ t, exec (.tstRst p) s = .next t ∧ Changes [.col, .dsp, .epc, .hif, .lfp, .line,
      .mem, .out, .rte, .swc, .tst] (sendRegs ++ [.COL_GRP_STAT, .DSP_LYR_STAT, .GWM_COPY_ACT, .GWM_FWD_USED,
      .LFP_PORT_STAT, .SWC_PORT_FLUSH, .TOP_PG_STAT, .TOP_RST_CTL, .TST_CHK_FLOW, .TST_GEN_STAT]) s t) ∧
  (∀ (s : State) (p : Plane) (i : Fin 576) (sent : Bool), ∃ t, exec (.pchkLinkSilence p i sent) s = .next t ∧
      Changes [.hif, .out] (eventRegs ++ [.TST_PCHK_CNT, .TST_PCHK_FIRST]) s t) ∧
  (∀ (s : State), ∃ t, exec (.avsSet) s = .next t ∧ Changes [.can, .lfp, .out, .pkg, .swc] ([]) s t) ∧
  (∀ (s : State) (p : Plane) (v : Word), ∃ t, exec (.ftCfgWrite p v) s = .next t ∧ Changes [.hif, .out, .tst]
      (eventRegs ++ [.TST_FT_CFG, .TST_FT_DELAY, .TST_FT_STAT]) s t) ∧
  (∀ (s : State) (p : Plane) (v : BitVec 64), ∃ t, exec (.ftSet p v) s = .next t ∧ Changes [.ft] ([.TST_FT_SET]) s
      t) ∧
  (∀ (s : State) (p : Plane) (i : Fin 576), ∃ t, exec (.syncSend p i) s = .next t ∧ Changes [.line, .out, .tst] ([])
      s t) ∧
  (∀ (s : State) (p : Plane) (i : Fin 576), ∃ t, exec (.dreqSend p i) s = .next t ∧ Changes [.line, .out, .tst] ([])
      s t) ∧
  (∀ (s : State) (p : Plane) (i : Fin 576) (b : TimeBlock), ∃ t, exec (.sync p i b) s = .next t ∧ Changes [.ft,
      .hif, .out, .tst] (eventRegs ++ [.TST_FT_FREQ, .TST_FT_OFFSET, .TST_FT_STAT, .TST_PORT_TSTAT]) s t) ∧
  (∀ (s : State) (p : Plane) (i : Fin 576) (b : TimeBlock), ∃ t, exec (.dreq p i b) s = .next t ∧ Changes [.line,
      .out] ([]) s t) ∧
  (∀ (s : State) (p : Plane) (i : Fin 576) (b : TimeBlock), ∃ t, exec (.dresp p i b) s = .next t ∧ Changes [.tst]
      ([.TST_FT_DELAY, .TST_PORT_DELAY]) s t) ∧
  (∀ (s : State) (p : Plane), ∃ t, exec (.timeSourceLost p) s = .next t ∧ Changes [.hif, .out] (eventRegs ++
      [.TST_FT_DELAY, .TST_FT_STAT]) s t) ∧
  (∀ (s : State) (p : Plane), ∃ t, exec (.timeSourceReturn p) s = .next t ∧ Changes [.hif, .out] (eventRegs ++
      [.TST_FT_DELAY, .TST_FT_STAT]) s t) ∧
  (∀ (s : State) (p : Plane), ∃ t, exec (.timeFlitSend p) s = .next t ∧ Changes [.lfp, .out, .swc] ([]) s t) ∧
  (∀ (s : State) (p : Plane) (b : TimeBlock), ∃ t, exec (.timeFlit p b) s = .next t ∧ Changes [.ft, .hif, .out,
      .tst] (eventRegs ++ [.TST_FT_DELAY, .TST_FT_FREQ, .TST_FT_OFFSET, .TST_FT_STAT]) s t) ∧
  (∀ (s : State) (p : Plane), ∃ t, exec (.ppsInEdge p) s = .next t ∧ Changes [.ft, .hif, .out, .tst] (eventRegs ++
      [.TST_FT_DELAY, .TST_FT_FREQ, .TST_FT_OFFSET, .TST_FT_STAT]) s t) ∧
  (∀ (s : State) (p : Plane), ∃ t, exec (.ppsMissing p) s = .next t ∧ Changes [.hif, .out] (eventRegs ++
      [.TST_FT_DELAY, .TST_FT_STAT]) s t) ∧
  (∀ (s : State) (p : Plane), ∃ t, exec (.ppsOut p) s = .next t ∧ Changes [.out] ([]) s t) ∧
  (∀ (s : State) (p : Plane) (g : Fin 18) (streams : BitVec 16), ∃ t, exec (.genStart p g streams) s = .next t ∧
      Changes [] ([.TST_GEN_SENT, .TST_GEN_STAT]) s t) ∧
  (∀ (s : State) (p : Plane) (g : Fin 18) (streams : BitVec 16), ∃ t, exec (.genStop p g streams) s = .next t ∧
      Changes [.hif, .out] (eventRegs ++ [.TST_GEN_STAT]) s t) ∧
  (∀ (s : State) (p : Plane) (g : Fin 18) (st : Fin 16), ∃ t, exec (.genPacket p g st) s = .next t ∧ Changes [.epc,
      .hif, .lfp, .line, .out, .rte, .swc, .tst] (sendRegs ++ [.TST_GEN_SENT, .TST_GEN_STAT]) s t) ∧
  (∀ (s : State) (p : Plane) (i : Fin 576) (pkt : Packet), ∃ t, exec (.gepReceive p i pkt) s = .next t ∧ Changes
      [.epc, .hif, .lfp, .line, .out, .rte, .swc, .tst] (receiveRegs ++ [.LFP_LATE_DISC, .LFP_OOW_DISC,
      .LFP_PEN_FAIL, .LFP_STALE_CPL, .TST_CHK_FLOW, .TST_CHK_NOFLOW, .TST_GEP_DISC, .TST_PCHK_CNT, .TST_PCHK_FIRST])
      s t) ∧
  (∀ (s : State) (p : Plane) (g : Fin 18), ∃ t, exec (.chkClr p g) s = .next t ∧ Changes [] ([.TST_CHK_FLOW]) s t) ∧
  (∀ (s : State) (p : Plane) (code : Code), ∃ t, exec (.injectDelayEnd p code) s = .next t ∧ Changes [.lfp, .line,
      .out, .rte, .swc] ([.SWC_MIR_DROP]) s t) ∧
  (∀ (s : State) (p : Plane) (lane : Fin 576), ∃ t, exec (.fecInject p lane) s = .next t ∧ Changes [.line]
      ([.TST_FEC_INJ, .TST_FEC_INJ_CNT]) s t) ∧
  (∀ (s : State), ∃ t, exec (.extest) s = .next t ∧ Changes [.free, .pkg] ([]) s t) ∧
  (∀ (s : State) (cells : List Bool), ∃ t, exec (.samplePreload cells) s = .next t ∧ Changes [.free, .pkg] ([]) s t) ∧
  (∀ (s : State), ∃ t, exec (.idcode) s = .next t ∧ Changes [.pkg] ([]) s t) ∧
  (∀ (s : State), ∃ t, exec (.clamp) s = .next t ∧ Changes [.pkg] ([]) s t) ∧
  (∀ (s : State), ∃ t, exec (.highz) s = .next t ∧ Changes [.pkg] ([]) s t) ∧
  (∀ (s : State), ∃ t, exec (.extestPulse) s = .next t ∧ Changes [.free, .pkg] ([]) s t) ∧
  (∀ (s : State), ∃ t, exec (.extestTrain) s = .next t ∧ Changes [.free, .pkg] ([]) s t) ∧
  (∀ (s : State), ∃ t, exec (.bypass) s = .next t ∧ Changes [.pkg] ([]) s t)
end

