-- ==== Sys2Proof/Laws/Maps.lean ====
section
/-! SUPPORT. Laws of the sparse tables: a read after a write, and the canonical form kept by every write. -/

namespace Sys2Proof.Machine

theorem mget_nil {α : Type} (d : α) (k : Nat) : mget d k [] = d := rfl

/-- What a key reads as, with a proposition. -/
theorem mget_cons {α : Type} (d : α) (k k' : Nat) (v : α) (m : SMap α) :
    mget d k ((k', v) :: m) = if k = k' then v else mget d k m := by
  rw [show mget d k ((k', v) :: m) = match Nat.beq k k' with
    | true => v
    | false => mget d k m from rfl]
  by_cases h : k = k'
  · rw [Nat.beq_eq.mpr h, if_pos h]
  · rw [Bool.eq_false_iff.mpr (fun c => h (Nat.beq_eq.mp c)), if_neg h]

theorem mget_mins {α : Type} (d : α) (k j : Nat) (v : α) (m : SMap α) (h : j ≠ k) :
    mget d j (mins k v m) = mget d j m := by
  induction m with
  | nil => simp only [mins, mget_cons, if_neg h]
  | cons e m ih =>
    obtain ⟨k', v'⟩ := e
    unfold mins
    split
    · simp only [mget_cons, if_neg h]
    · simp only [mget_cons, ih]

theorem mget_mdel {α : Type} (d : α) (k j : Nat) (m : SMap α) :
    mget d j (mdel k m) = if j = k then d else mget d j m := by
  induction m with
  | nil => simp [mdel, mget_nil]
  | cons e m ih =>
    obtain ⟨k', v'⟩ := e
    unfold mdel
    split
    · subst_vars
      rw [ih, mget_cons]
      split <;> rfl
    · simp only [mget_cons, ih]
      (repeat' split) <;> first | rfl | omega

/-- A key that a table does not list reads as what is put there. -/
theorem mget_mins_same {α : Type} (d : α) (k : Nat) (v : α) (m : SMap α) : mget d k (mins k v (mdel k m)) = v := by
  induction m with
  | nil => simp [mins, mdel, mget_cons]
  | cons e m ih =>
    obtain ⟨k', v'⟩ := e
    unfold mdel
    split
    · exact ih
    · unfold mins
      split
      · simp [mget_cons]
      · rw [mget_cons, if_neg ‹_›, ih]

/-- A read after a write: the value written at its key, and what was there before at every other. -/
theorem mget_mset {α : Type} [DecidableEq α] (d : α) (k j : Nat) (v : α) (m : SMap α) :
    mget d j (mset d k v m) = if j = k then v else mget d j m := by
  unfold mset
  split
  · rw [mget_mdel, ‹v = d›]
  · split
    · subst_vars
      exact mget_mins_same d j v m
    · rw [mget_mins d k j v _ ‹_›, mget_mdel, if_neg ‹_›]

@[simp] theorem mget_mset_same {α : Type} [DecidableEq α] (d : α) (k : Nat) (v : α) (m : SMap α) :
    mget d k (mset d k v m) = v := by rw [mget_mset, if_pos rfl]

/-- A write leaves what any other key reads as, whatever an unlisted key reads as. -/
theorem mget_mset_ne {α : Type} [DecidableEq α] (d : α) (k : Nat) (v : α) (m : SMap α) (j : Nat) (hj : j ≠ k) (e : α) :
    mget e j (mset d k v m) = mget e j m := by
  unfold mset
  split
  · rw [mget_mdel, if_neg hj]
  · rw [mget_mins e k j v _ hj, mget_mdel, if_neg hj]

@[simp] theorem mget_mmod_same {α : Type} [DecidableEq α] (d : α) (k : Nat) (f : α → α) (m : SMap α) :
    mget d k (mmod d k f m) = f (mget d k m) := mget_mset_same d k _ m

theorem mget_mmod_ne {α : Type} [DecidableEq α] (d : α) (k : Nat) (f : α → α) (m : SMap α) (j : Nat) (hj : j ≠ k) :
    mget d j (mmod d k f m) = mget d j m := mget_mset_ne d k _ m j hj d

theorem keysAbove_cons {α : Type} (b : Option Nat) (k : Nat) (v : α) (m : SMap α) :
    keysAbove b ((k, v) :: m) = true ↔ (∀ x, b = some x → x < k) ∧ keysAbove (some k) m = true := by
  cases b <;> simp [keysAbove]

theorem keysAbove_mono {α : Type} (b : Nat) (m : SMap α) (h : keysAbove (some b) m = true) (a : Option Nat)
    (ha : ∀ x, a = some x → x ≤ b) : keysAbove a m = true := by
  cases m with
  | nil => cases a <;> rfl
  | cons e m =>
    obtain ⟨k, v⟩ := e
    simp only [keysAbove, Bool.and_eq_true, decide_eq_true_eq] at h
    cases a with
    | none => exact h.2
    | some x =>
      have := ha x rfl
      simp only [keysAbove, Bool.and_eq_true, decide_eq_true_eq]
      exact ⟨by omega, h.2⟩

/-- Dropping entries, or changing their values, keeps the keys rising. -/
theorem keysAbove_filterMap {α β : Type} (f : Nat × α → Option (Nat × β))
    (hf : ∀ e y, f e = some y → y.1 = e.1) (m : SMap α) (b : Option Nat) (h : keysAbove b m = true) :
    keysAbove b (m.filterMap f) = true := by
  induction m generalizing b with
  | nil => cases b <;> rfl
  | cons e m ih =>
    obtain ⟨k, v⟩ := e
    have hk : keysAbove (some k) m = true := by
      cases b with
      | none => exact h
      | some x =>
        simp only [keysAbove, Bool.and_eq_true] at h
        exact h.2
    have hb : ∀ x, b = some x → x < k := by
      intro x hx
      subst hx
      simp only [keysAbove, Bool.and_eq_true, decide_eq_true_eq] at h
      exact h.1
    rw [List.filterMap_cons]
    split
    · exact keysAbove_mono k _ (ih _ hk) b (fun x hx => Nat.le_of_lt (hb x hx))
    · rename_i y hy
      have e1 := hf _ _ hy
      simp only at e1
      obtain ⟨k', w⟩ := y
      simp only at e1
      subst e1
      cases b with
      | none => exact ih _ hk
      | some x =>
        simp only [keysAbove, Bool.and_eq_true, decide_eq_true_eq]
        exact ⟨hb x rfl, ih _ hk⟩

theorem keysAbove_filter {α : Type} (q : Nat × α → Bool) (m : SMap α) (b : Option Nat) (h : keysAbove b m = true) :
    keysAbove b (m.filter q) = true := by
  rw [← List.filterMap_eq_filter]
  refine keysAbove_filterMap _ ?_ m b h
  intro e y hy
  rw [Option.guard_eq_some_iff] at hy
  rw [hy.1]

theorem wf_filter {α : Type} [DecidableEq α] (d : α) (q : Nat × α → Bool) (m : SMap α) (h : SMap.wf d m = true) :
    SMap.wf d (m.filter q) = true := by
  simp only [SMap.wf, Bool.and_eq_true] at h ⊢
  refine ⟨keysAbove_filter q m none h.1, ?_⟩
  rw [List.all_eq_true] at h ⊢
  intro x hx
  exact h.2 x (List.mem_filter.mp hx).1

/-- Dropping other keys leaves what a key reads as. -/
theorem mget_filter {α : Type} (q : Nat × α → Bool) (j : Nat) (m : SMap α) (hq : ∀ v, q (j, v) = true) (d : α) :
    mget d j (m.filter q) = mget d j m := by
  induction m with
  | nil => rfl
  | cons e m ih =>
    obtain ⟨k, v⟩ := e
    rw [List.filter_cons]
    split
    · rw [mget_cons, mget_cons, ih]
    · rename_i hk
      rw [mget_cons, ih, if_neg]
      intro e1
      subst e1
      exact hk (hq v)

theorem keysAbove_mdel {α : Type} (k : Nat) (m : SMap α) (b : Option Nat) (h : keysAbove b m = true) :
    keysAbove b (mdel k m) = true := by
  induction m generalizing b with
  | nil => simpa [mdel] using h
  | cons e m ih =>
    obtain ⟨k', v⟩ := e
    obtain ⟨hb, hm⟩ := (keysAbove_cons _ _ _ _).1 h
    unfold mdel
    split
    · exact keysAbove_mono k' _ (ih _ hm) b (fun x hx => Nat.le_of_lt (hb x hx))
    · exact (keysAbove_cons _ _ _ _).2 ⟨hb, ih _ hm⟩

/-- A key above the bound put where it is not listed. -/
theorem keysAbove_mins {α : Type} (k : Nat) (v : α) (m : SMap α) (b : Option Nat) (h : keysAbove b m = true)
    (hk : ∀ x, b = some x → x < k) : keysAbove b (mins k v (mdel k m)) = true := by
  induction m generalizing b with
  | nil => exact (keysAbove_cons _ _ _ _).2 ⟨hk, rfl⟩
  | cons e m ih =>
    obtain ⟨k', v'⟩ := e
    obtain ⟨hb, hm⟩ := (keysAbove_cons _ _ _ _).1 h
    unfold mdel
    split
    · subst_vars
      have := keysAbove_mdel k' m (some k') hm
      exact ih b (keysAbove_mono k' _ hm b (fun x hx => Nat.le_of_lt (hb x hx))) hk
    · unfold mins
      split
      · exact (keysAbove_cons _ _ _ _).2 ⟨hk, (keysAbove_cons _ _ _ _).2
          ⟨fun x hx => by cases hx; assumption, keysAbove_mdel k m _ hm⟩⟩
      · exact (keysAbove_cons _ _ _ _).2 ⟨hb, ih _ hm (fun x hx => by cases hx; omega)⟩

/-- Every write keeps the keys in rising order. -/
theorem keysAbove_mset {α : Type} [DecidableEq α] (d : α) (k : Nat) (v : α) (m : SMap α)
    (h : keysAbove none m = true) : keysAbove none (mset d k v m) = true := by
  unfold mset
  split
  · exact keysAbove_mdel k m none h
  · exact keysAbove_mins k v m none h (by simp)

theorem all_mdel {α : Type} (q : Nat × α → Bool) (k : Nat) (m : SMap α) (h : m.all q = true) :
    (mdel k m).all q = true := by
  induction m with
  | nil => rfl
  | cons e m ih =>
    obtain ⟨k', v'⟩ := e
    simp only [List.all_cons, Bool.and_eq_true] at h
    unfold mdel
    split
    · exact ih h.2
    · simp [h.1, ih h.2]

theorem all_mins {α : Type} (q : Nat × α → Bool) (k : Nat) (v : α) (m : SMap α) (h : m.all q = true)
    (hv : q (k, v) = true) : (mins k v m).all q = true := by
  induction m with
  | nil => simp [mins, hv]
  | cons e m ih =>
    obtain ⟨k', v'⟩ := e
    simp only [List.all_cons, Bool.and_eq_true] at h
    unfold mins
    split
    · simp [hv, h.1, h.2]
    · simp [h.1, ih h.2]

/-- Every write keeps the canonical form. -/
theorem wf_mset {α : Type} [DecidableEq α] (d : α) (k : Nat) (v : α) (m : SMap α) (h : SMap.wf d m = true) :
    SMap.wf d (mset d k v m) = true := by
  unfold SMap.wf at *
  rw [Bool.and_eq_true] at *
  refine ⟨keysAbove_mset d k v m h.1, ?_⟩
  unfold mset
  split
  · exact all_mdel _ k m h.2
  · exact all_mins _ k v _ (all_mdel _ k m h.2) (by simpa using ‹¬v = d›)

theorem wf_nil {α : Type} [DecidableEq α] (d : α) : SMap.wf d ([] : SMap α) = true := rfl

end Sys2Proof.Machine
end

