-- ==== Sys2Proof/Laws/Keeps.lean ====
section
/-! SUPPORT. `Keeps`: what an operation leaves of a state, with the set of parts and registers it may change (its
footprint), and the lemmas of the operations every family shares. The lemmas of the other operations are in the files
Keep…, one per operation: given a state that keeps what it should of `S`, so does the state after the operation. -/

namespace Sys2Proof.Machine

/-- A set of parts and registers, by bit. -/
abbrev Foot := Nat

def Part.num (b : Part) : Nat := b.ctorIdx
def Reg.num (r : Reg) : Nat := 32 + r.ctorIdx

def Part.foot (b : Part) : Foot := 2 ^ b.num
def Reg.foot (r : Reg) : Foot := 2 ^ r.num

/-- The footprint with these parts and registers. -/
def foot (ps : List Part) (rs : List Reg) : Foot :=
  rs.foldr (fun r a => Nat.lor r.foot a) (ps.foldr (fun b a => Nat.lor b.foot a) 0)

/-- The bits of the first registers. -/
def Foot.ones (n : Nat) : Foot := (2 ^ n - 1) * 2 ^ 32
/-- The union of footprints. -/
def Foot.join (l : List Foot) : Foot := l.foldr Nat.lor 0

/-- Every register. -/
def Foot.regs : Foot := Foot.ones 288

/-- Every member of `A` is one of `B`. -/
def Foot.Sub (A B : Foot) : Prop := ∀ k, Nat.testBit A k = true → Nat.testBit B k = true

theorem Foot.Sub.up {A B F : Foot} (h : Foot.Sub B F) (e : Nat.land A B = A) : Foot.Sub A F := by
  intro k hk
  apply h k
  rw [← e] at hk
  have := Nat.testBit_and A B k
  change (A &&& B).testBit k = true at hk
  rw [this, Bool.and_eq_true] at hk
  exact hk.2

theorem Foot.Sub.refl (A : Foot) : Foot.Sub A A := fun _ h => h

theorem Reg.num_lt (r : Reg) : r.ctorIdx < 271 := by cases r <;> decide

theorem testBit_ones (n k : Nat) (h : k < n) : (Foot.ones n).testBit (32 + k) = true := by
  unfold Foot.ones
  rw [← Nat.shiftLeft_eq, Nat.testBit_shiftLeft, Nat.add_sub_cancel_left, Nat.testBit_two_pow_sub_one]
  simp only [Bool.and_eq_true, decide_eq_true_eq]
  exact ⟨Nat.le_add_right _ _, h⟩

theorem Reg.sub_all (r : Reg) : Foot.Sub r.foot Foot.regs := by
  intro k hk
  unfold Reg.foot Reg.num at hk
  rw [Nat.testBit_two_pow, decide_eq_true_eq] at hk
  subst hk
  exact testBit_ones 288 _ (Nat.lt_trans (Reg.num_lt r) (by decide))

theorem Reg.sub_up {r : Reg} {B F : Foot} (h : Foot.Sub B F) (e : Nat.land Foot.regs B = Foot.regs) : Foot.Sub r.foot F :=
  fun k hk => h.up e k (Reg.sub_all r k hk)

theorem Part.sub_iff {b : Part} {F : Foot} : Foot.Sub b.foot F ↔ F.testBit b.num = true := by
  constructor
  · intro h
    exact h b.num (by unfold Part.foot; rw [Nat.testBit_two_pow, decide_eq_true_eq])
  · intro h k hk
    unfold Part.foot at hk
    rw [Nat.testBit_two_pow, decide_eq_true_eq] at hk
    exact hk ▸ h

theorem Reg.sub_iff {r : Reg} {F : Foot} : Foot.Sub r.foot F ↔ F.testBit r.num = true := by
  constructor
  · intro h
    exact h r.num (by unfold Reg.foot; rw [Nat.testBit_two_pow, decide_eq_true_eq])
  · intro h k hk
    unfold Reg.foot at hk
    rw [Nat.testBit_two_pow, decide_eq_true_eq] at hk
    exact hk ▸ h

/-- What an operation leaves of a state `s` in the next state `t`: the waiting commands and the core clock count as they
were, the free values still numbered upwards, the record of what left the device only added to, the invariant, and
everything outside the footprint `F`. -/
structure Keeps (F : Foot) (s t : State) : Prop where
  pending : t.pending = s.pending
  ticks   : t.ticks = s.ticks
  free    : s.free ≤ t.free
  out     : s.out <:+ t.out
  inv     : ∀ p, (s.pl p).Inv → (t.pl p).Inv
  parts   : ∀ b : Part, F.testBit b.num = false → s.Same t b
  regs    : ∀ p, ∀ r : Reg, F.testBit r.num = false → ∀ a, r.Owns a →
              (∀ r : Reg, F.testBit r.num = true → ¬ r.Owns a) → ∀ d, mget d a (t.pl p).regs = mget d a (s.pl p).regs

variable {F : Foot} {S s t : State}

theorem Memory.put_wf (m : Memory) (a : Nat) (b : Byte) (h : m.wf = true) : (m.put a b).wf = true := wf_mset 0 a b m h

theorem Memory.write_wf (bs : Bytes) : ∀ (m : Memory) (a : Nat), m.wf = true → (m.write a bs).wf = true := by
  induction bs with
  | nil => exact fun _ _ h => h
  | cons b bs ih => exact fun m a h => ih _ _ (Memory.put_wf m a b h)

theorem PlaneSt.Same.refl (x : PlaneSt) (b : Part) : x.Same x b := by
  cases b <;> first | exact rfl | exact ⟨rfl, rfl⟩ | trivial

theorem PlaneSt.Same.trans {x y z : PlaneSt} {b : Part} (h : x.Same y b) (k : y.Same z b) : x.Same z b := by
  cases b
  case ft => exact ⟨k.1.trans h.1, k.2.trans h.2⟩
  case pools => exact ⟨k.1.trans h.1, k.2.trans h.2⟩
  case mem =>
    simp only [PlaneSt.Same] at h k ⊢
    rw [← h, ← k]
  all_goals first | exact Eq.trans k h | trivial

theorem State.Same.refl (s : State) (b : Part) : s.Same s b := by
  cases b <;> first | exact rfl | exact fun p => PlaneSt.Same.refl _ _

theorem State.Same.trans {u : State} {b : Part} (h : s.Same t b) (k : t.Same u b) : s.Same u b := by
  cases b <;> first | exact Eq.trans k h | exact fun p => (h p).trans (k p)

theorem Keeps.refl (F : Foot) (s : State) : Keeps F s s :=
  ⟨rfl, rfl, Nat.le_refl _, List.suffix_refl _, fun _ h => h, fun b _ => State.Same.refl s b,
    fun _ _ _ _ _ _ _ => rfl⟩

theorem Keeps.trans {u : State} (h : Keeps F s t) (k : Keeps F t u) : Keeps F s u where
  pending := k.pending.trans h.pending
  ticks := k.ticks.trans h.ticks
  free := Nat.le_trans h.free k.free
  out := h.out.trans k.out
  inv := fun p x => k.inv p (h.inv p x)
  parts := fun b e => (h.parts b e).trans (k.parts b e)
  regs := fun p r hr a ho ha d => (k.regs p r hr a ho ha d).trans (h.regs p r hr a ho ha d)

/-- The second part of a result. -/
theorem Keeps.snd {α : Type} {x : α × State} {a : α} (h : Keeps F S x.2) (e : x = (a, t)) : Keeps F S t := by
  subst e
  exact h

/-- An intermediate state. -/
theorem Keeps.cut (x : State) (h : Keeps F S x) (k : Keeps F S x → Keeps F S t) : Keeps F S t := k h

/-- An intermediate function of states, of states and one argument. -/
theorem Keeps.cutF (f : State → State) (h : ∀ s, Keeps F s (f s)) (k : (∀ s, Keeps F s (f s)) → Keeps F S t) :
    Keeps F S t := k h
theorem Keeps.cutG {α : Type} (f : State → α → State) (h : ∀ s a, Keeps F s (f s a))
    (k : (∀ s a, Keeps F s (f s a)) → Keeps F S t) : Keeps F S t := k h
theorem Keeps.cutH {α : Type} (f : α → State → State) (h : ∀ a s, Keeps F s (f a s))
    (k : (∀ a s, Keeps F s (f a s)) → Keeps F S t) : Keeps F S t := k h
theorem Keeps.appF {f : State → State} (hs : Keeps F S s) (hf : ∀ s, Keeps F s (f s)) : Keeps F S (f s) :=
  hs.trans (hf s)
theorem Keeps.appG {α : Type} {f : State → α → State} {a : α} (hs : Keeps F S s) (hf : ∀ s a, Keeps F s (f s a)) :
    Keeps F S (f s a) := hs.trans (hf s a)
theorem Keeps.appH {α : Type} {f : α → State → State} {a : α} (hs : Keeps F S s) (hf : ∀ a s, Keeps F s (f a s)) :
    Keeps F S (f a s) := hs.trans (hf a s)

theorem Keeps.ite {c : Prop} [Decidable c] (hs : Keeps F S s) (ht : Keeps F S t) :
    Keeps F S (if c then s else t) := by
  split <;> assumption

theorem Keeps.ite_snd {α : Type} {c : Prop} [Decidable c] {x y : α × State} (hx : Keeps F S x.2) (hy : Keeps F S y.2) :
    Keeps F S (if c then x else y).2 := by
  split <;> assumption

/-- What a change of a plane must do for `Keeps`. -/
structure PlaneSt.Stays (F : Foot) (x y : PlaneSt) : Prop where
  inv   : x.Inv → y.Inv
  parts : ∀ b : Part, F.testBit b.num = false → x.Same y b
  regs  : ∀ r : Reg, F.testBit r.num = false → ∀ a, r.Owns a →
            (∀ r : Reg, F.testBit r.num = true → ¬ r.Owns a) → ∀ d, mget d a y.regs = mget d a x.regs

theorem PlaneSt.Stays.refl (F : Foot) (x : PlaneSt) : PlaneSt.Stays F x x :=
  ⟨fun h => h, fun b _ => PlaneSt.Same.refl x b, fun _ _ _ _ _ _ => rfl⟩

/-- A change of one part that leaves the invariant's parts alone. -/
theorem PlaneSt.Stays.part {x y : PlaneSt} (c : Part) (hc : Foot.Sub c.foot F) (hi : x.Inv → y.Inv)
    (hr : y.regs = x.regs) (hp : ∀ b, b ≠ c → x.Same y b) : PlaneSt.Stays F x y := by
  refine ⟨hi, fun b hb => hp b ?_, fun _ _ a _ _ d => by rw [hr]⟩
  intro e
  subst e
  rw [Part.sub_iff.mp hc] at hb
  cases hb

/-- Every part of a plane and every register. -/
def Foot.plane : Foot :=
  Foot.join [foot [.committed, .partW, .latch, .loose, .ft, .lne, .line, .lfp, .rte, .swc, .hif, .can, .epc, .tst, .col, .dsp,
    .pools, .mem] [], Foot.regs]

/-- Any change of a plane that keeps the invariant. -/
theorem PlaneSt.Stays.any {x y : PlaneSt} (hF : Foot.Sub Foot.plane F) (hi : x.Inv → y.Inv) : PlaneSt.Stays F x y := by
  refine ⟨hi, fun b hb => ?_, fun r hr => ?_⟩
  · cases b
    case pkg => trivial
    case free => trivial
    case out => trivial
    all_goals
      rw [Part.sub_iff.mp (hF.up ?_)] at hb
      · cases hb
      · decide +kernel
  · rw [Reg.sub_iff.mp (Reg.sub_up (r := r) hF (by decide +kernel))] at hr
    cases hr

theorem State.setPl_keeps (hs : Keeps F S s) (p : Plane) (x : PlaneSt) (hx : PlaneSt.Stays F (s.pl p) x) :
    Keeps F S (s.setPl p x) := by
  refine hs.trans ?_
  have key : ∀ q, PlaneSt.Stays F (s.pl q) ((s.setPl p x).pl q) := by
    intro q
    cases p <;> cases q <;> first | exact hx | exact PlaneSt.Stays.refl F _
  have e : ∀ b : Part, F.testBit b.num = false → s.Same (s.setPl p x) b := by
    intro b hb
    cases b
    case pkg => cases p <;> rfl
    case free => cases p <;> rfl
    case out => cases p <;> rfl
    all_goals exact fun q => (key q).parts _ hb
  refine ⟨?_, ?_, ?_, ?_, fun q h => (key q).inv h, e, (fun q => (key q).regs)⟩
  · cases p <;> rfl
  · cases p <;> rfl
  · cases p <;> exact Nat.le_refl _
  · cases p <;> exact List.suffix_refl _

theorem State.modPl_keeps (hs : Keeps F S s) (p : Plane) (f : PlaneSt → PlaneSt) (hf : ∀ x, PlaneSt.Stays F x (f x)) :
    Keeps F S (s.modPl p f) := State.setPl_keeps hs p _ (hf _)

/-- The other parts after a change of one. -/
theorem State.modPkg_keeps (hs : Keeps F S s) (hF : Foot.Sub Part.pkg.foot F) (f : Pkg → Pkg) :
    Keeps F S (s.modPkg f) := by
  refine hs.trans ⟨rfl, rfl, Nat.le_refl _, List.suffix_refl _, fun p h => by cases p <;> exact h, ?_,
    fun p _ _ _ _ _ _ => by cases p <;> rfl⟩
  intro b hb
  have h0 := (Part.sub_iff (b := Part.pkg)).mp hF
  cases b
  case pkg => rw [h0] at hb; cases hb
  case free => rfl
  case out => rfl
  all_goals exact fun p => by cases p <;> exact PlaneSt.Same.refl _ _

theorem State.modSwc_keeps (hs : Keeps F S s) (hF : Foot.Sub Part.swc.foot F) (p : Plane) (f : SwcSt → SwcSt) :
    Keeps F S (s.modSwc p f) :=
  State.modPl_keeps hs p _ (fun x => PlaneSt.Stays.part Part.swc hF (fun h => ⟨h.regs, h.committed, h.sram, h.lp, h.events⟩) rfl
    (fun b hb => by cases b <;> first | exact absurd rfl hb | exact rfl | exact ⟨rfl, rfl⟩ | trivial))
theorem State.modLfp_keeps (hs : Keeps F S s) (hF : Foot.Sub Part.lfp.foot F) (p : Plane) (f : LfpSt → LfpSt) :
    Keeps F S (s.modLfp p f) :=
  State.modPl_keeps hs p _ (fun x => PlaneSt.Stays.part Part.lfp hF (fun h => ⟨h.regs, h.committed, h.sram, h.lp, h.events⟩) rfl
    (fun b hb => by cases b <;> first | exact absurd rfl hb | exact rfl | exact ⟨rfl, rfl⟩ | trivial))
theorem State.modRte_keeps (hs : Keeps F S s) (hF : Foot.Sub Part.rte.foot F) (p : Plane) (f : RteSt → RteSt) :
    Keeps F S (s.modRte p f) :=
  State.modPl_keeps hs p _ (fun x => PlaneSt.Stays.part Part.rte hF (fun h => ⟨h.regs, h.committed, h.sram, h.lp, h.events⟩) rfl
    (fun b hb => by cases b <;> first | exact absurd rfl hb | exact rfl | exact ⟨rfl, rfl⟩ | trivial))
theorem State.modCan_keeps (hs : Keeps F S s) (hF : Foot.Sub Part.can.foot F) (p : Plane) (f : CanSt → CanSt) :
    Keeps F S (s.modCan p f) :=
  State.modPl_keeps hs p _ (fun x => PlaneSt.Stays.part Part.can hF (fun h => ⟨h.regs, h.committed, h.sram, h.lp, h.events⟩) rfl
    (fun b hb => by cases b <;> first | exact absurd rfl hb | exact rfl | exact ⟨rfl, rfl⟩ | trivial))
theorem State.modCol_keeps (hs : Keeps F S s) (hF : Foot.Sub Part.col.foot F) (p : Plane) (f : ColSt → ColSt) :
    Keeps F S (s.modCol p f) :=
  State.modPl_keeps hs p _ (fun x => PlaneSt.Stays.part Part.col hF (fun h => ⟨h.regs, h.committed, h.sram, h.lp, h.events⟩) rfl
    (fun b hb => by cases b <;> first | exact absurd rfl hb | exact rfl | exact ⟨rfl, rfl⟩ | trivial))
theorem State.modDsp_keeps (hs : Keeps F S s) (hF : Foot.Sub Part.dsp.foot F) (p : Plane) (f : DspSt → DspSt) :
    Keeps F S (s.modDsp p f) :=
  State.modPl_keeps hs p _ (fun x => PlaneSt.Stays.part Part.dsp hF (fun h => ⟨h.regs, h.committed, h.sram, h.lp, h.events⟩) rfl
    (fun b hb => by cases b <;> first | exact absurd rfl hb | exact rfl | exact ⟨rfl, rfl⟩ | trivial))
theorem State.modEpc_keeps (hs : Keeps F S s) (hF : Foot.Sub Part.epc.foot F) (p : Plane) (f : EpcSt → EpcSt) :
    Keeps F S (s.modEpc p f) :=
  State.modPl_keeps hs p _ (fun x => PlaneSt.Stays.part Part.epc hF (fun h => ⟨h.regs, h.committed, h.sram, h.lp, h.events⟩) rfl
    (fun b hb => by cases b <;> first | exact absurd rfl hb | exact rfl | exact ⟨rfl, rfl⟩ | trivial))

/-- A change of the host interface that adds no event. -/
theorem State.modHif_keeps (hs : Keeps F S s) (hF : Foot.Sub Part.hif.foot F) (p : Plane) (f : HifSt → HifSt)
    (hf : ∀ x, (f x).events.length ≤ x.events.length) : Keeps F S (s.modHif p f) :=
  State.modPl_keeps hs p _ (fun x => PlaneSt.Stays.part Part.hif hF
    (fun h => ⟨h.regs, h.committed, h.sram, h.lp, Nat.le_trans (hf x.hif) h.events⟩) rfl
    (fun b hb => by cases b <;> first | exact absurd rfl hb | exact rfl | exact ⟨rfl, rfl⟩ | trivial))

/-- The host interface with its events as given. -/
theorem State.setHif_keeps (hs : Keeps F S s) (hF : Foot.Sub Part.hif.foot F) (p : Plane) (x : HifSt)
    (hf : (s.pl p).hif.events.length ≤ 256 → x.events.length ≤ 256) :
    Keeps F S (s.setPl p { s.pl p with hif := x }) :=
  State.setPl_keeps hs p _ (PlaneSt.Stays.part Part.hif hF
    (fun h => ⟨h.regs, h.committed, h.sram, h.lp, hf h.events⟩) rfl
    (fun b hb => by cases b <;> first | exact absurd rfl hb | exact rfl | exact ⟨rfl, rfl⟩ | trivial))

/-- A change of the memory complex beside its pools. -/
theorem State.modMem_keeps (hs : Keeps F S s) (hF : Foot.Sub Part.mem.foot F) (p : Plane) (f : MemSt → MemSt)
    (hf : ∀ x, (f x).sram = x.sram ∧ (f x).lp = x.lp) : Keeps F S (s.modMem p f) :=
  State.modPl_keeps hs p _ (fun x => PlaneSt.Stays.part Part.mem hF
    (fun h => ⟨h.regs, h.committed, (hf x.mem).1 ▸ h.sram, (hf x.mem).2 ▸ h.lp, h.events⟩) rfl
    (fun b hb => by cases b <;> first | exact absurd rfl hb | exact rfl | exact hf x.mem | exact ⟨rfl, rfl⟩ | trivial))

/-- A change of the memory pools that keeps their canonical form. -/
theorem State.modMem_pools (hs : Keeps F S s) (hF : Foot.Sub (foot [.pools, .mem] []) F) (p : Plane) (f : MemSt → MemSt)
    (hf : ∀ x, (x.sram.wf = true → (f x).sram.wf = true) ∧ (x.lp.wf = true → (f x).lp.wf = true)) :
    Keeps F S (s.modMem p f) := by
  refine State.modPl_keeps hs p _ (fun x => ⟨fun h => ⟨h.regs, h.committed, (hf x.mem).1 h.sram, (hf x.mem).2 h.lp,
    h.events⟩, ?_, fun _ _ _ _ _ _ => rfl⟩)
  intro b hb
  have h1 : F.testBit Part.pools.num = true := Part.sub_iff.mp (hF.up (by decide +kernel))
  have h2 : F.testBit Part.mem.num = true := Part.sub_iff.mp (hF.up (by decide +kernel))
  cases b
  case pools => rw [h1] at hb; cases hb
  case mem => rw [h2] at hb; cases hb
  all_goals first | exact rfl | exact ⟨rfl, rfl⟩ | trivial

/-- A word of a register is replaced. -/
theorem keysAbove_putWord (r : Reg) (i w : Nat) (v : Word) (m : RegFile) (h : keysAbove none m = true) :
    keysAbove none (putWord r i w v m) = true := by
  unfold putWord
  dsimp only
  split
  · exact keysAbove_mset _ _ _ m h
  · exact h

theorem Reg.owns_of_at {r r' : Reg} {a i w : Nat} (h : r.at? a = some (r', i, w)) : r.Owns a := by
  unfold Reg.at? at h
  dsimp only at h
  split at h
  · cases h
  · split at h
    · rename_i h1 h2
      refine ⟨(a - r.info.base) / r.info.stride, (a - r.info.base) % r.info.stride / 4, ⟨h2.1, h2.2.1, by omega⟩, ?_⟩
      have := Nat.div_add_mod (a - r.info.base) r.info.stride
      unfold Reg.off
      omega
    · cases h

theorem mget_putWord (r : Reg) (i w : Nat) (v : Word) (m : RegFile) (a : Nat)
    (ha : ¬ r.Owns a) (d : Word) : mget d a (putWord r i w v m) = mget d a m := by
  unfold putWord
  dsimp only
  split
  · rename_i hc
    rw [Bool.and_eq_true, Bool.and_eq_true] at hc
    have hne : a ≠ r.off i w := fun e =>
      ha ⟨i, w, ⟨Nat.blt_eq.mp hc.1.1, Nat.blt_eq.mp hc.1.2, Nat.blt_eq.mp hc.2⟩, e⟩
    exact mget_mset_ne _ _ _ _ _ hne d
  · rfl

/-- A change of the register file that keeps its order and changes words of the registers of the footprint. -/
theorem State.modRegs_keeps (hs : Keeps F S s) (p : Plane) (f : RegFile → RegFile)
    (hf : ∀ m, keysAbove none m = true → keysAbove none (f m) = true)
    (hr : ∀ m, ∀ r : Reg, F.testBit r.num = false → ∀ a, r.Owns a →
      (∀ r : Reg, F.testBit r.num = true → ¬ r.Owns a) → ∀ d, mget d a (f m) = mget d a m) :
    Keeps F S (s.modPl p (fun x => { x with regs := f x.regs })) :=
  State.modPl_keeps hs p _ (fun x => ⟨fun h => ⟨hf _ h.regs, h.committed, h.sram, h.lp, h.events⟩,
    fun b _ => by cases b <;> first | exact rfl | exact ⟨rfl, rfl⟩ | trivial, fun r => hr _ r⟩)

theorem State.setWord_keeps (hs : Keeps F S s) (p : Plane) (r : Reg) (hF : Foot.Sub r.foot F) (i k : Nat) (v : Word) :
    Keeps F S (s.setWord p r i k v) :=
  State.modRegs_keeps hs p _ (fun m h => keysAbove_putWord _ _ _ _ m h)
    (fun m _ _ a _ ha d => mget_putWord r i k v m a (ha r (Reg.sub_iff.mp hF)) d)
theorem State.setF_keeps (hs : Keeps F S s) (p : Plane) (f : Fld) (hF : Foot.Sub f.reg.foot F) (i v : Nat) :
    Keeps F S (s.setF p f i v) :=
  State.modRegs_keeps hs p _ (fun m h => keysAbove_putWord _ _ _ _ m h)
    (fun m _ _ a _ ha d => mget_putWord f.reg i f.word _ m a (ha _ (Reg.sub_iff.mp hF)) d)
theorem State.setFlag_keeps (hs : Keeps F S s) (p : Plane) (f : Fld) (hF : Foot.Sub f.reg.foot F) (i : Nat) (b : Bool) :
    Keeps F S (s.setFlag p f i b) := State.setF_keeps hs p f hF i _
theorem State.count_keeps (hs : Keeps F S s) (p : Plane) (f : Fld) (hF : Foot.Sub f.reg.foot F) (i : Nat) :
    Keeps F S (s.count p f i) := State.setF_keeps hs p f hF i _
theorem State.countN_keeps (hs : Keeps F S s) (p : Plane) (f : Fld) (hF : Foot.Sub f.reg.foot F) (i n : Nat) :
    Keeps F S (s.countN p f i n) := State.setF_keeps hs p f hF i _
theorem State.setFree_keeps (hs : Keeps F S s) (hF : Foot.Sub Part.loose.foot F) (p : Plane) (f : Fld) (i v : Nat) :
    Keeps F S (s.setFree p f i v) :=
  State.modPl_keeps hs p _ (fun x => PlaneSt.Stays.part Part.loose hF (fun h => ⟨h.regs, h.committed, h.sram, h.lp, h.events⟩) rfl
    (fun b hb => by cases b <;> first | exact absurd rfl hb | exact rfl | exact ⟨rfl, rfl⟩ | trivial))
theorem State.endFree_keeps (hs : Keeps F S s) (hF : Foot.Sub Part.loose.foot F) (p : Plane) (f : Fld) (i : Nat) :
    Keeps F S (s.endFree p f i) :=
  State.modPl_keeps hs p _ (fun x => PlaneSt.Stays.part Part.loose hF (fun h => ⟨h.regs, h.committed, h.sram, h.lp, h.events⟩) rfl
    (fun b hb => by cases b <;> first | exact absurd rfl hb | exact rfl | exact ⟨rfl, rfl⟩ | trivial))

theorem State.emit_keeps (hs : Keeps F S s) (hF : Foot.Sub Part.out.foot F) (o : Out) : Keeps F S (s.emit o) := by
  refine hs.trans ⟨rfl, rfl, Nat.le_refl _, List.suffix_cons o s.out, fun p h => by cases p <;> exact h, ?_,
    fun p _ _ _ _ _ _ => by cases p <;> rfl⟩
  intro b hb
  have h0 := (Part.sub_iff (b := Part.out)).mp hF
  cases b
  case out => rw [h0] at hb; cases hb
  case free => rfl
  case pkg => rfl
  all_goals exact fun p => by cases p <;> exact PlaneSt.Same.refl _ _

theorem State.takeFree_keeps (hs : Keeps F S s) (hF : Foot.Sub Part.free.foot F) : Keeps F S s.takeFree.2 := by
  refine hs.trans ⟨rfl, rfl, Nat.le_succ _, List.suffix_refl _, fun p h => by cases p <;> exact h, ?_,
    fun p _ _ _ _ _ _ => by cases p <;> rfl⟩
  intro b hb
  have h0 := (Part.sub_iff (b := Part.free)).mp hF
  cases b
  case free => rw [h0] at hb; cases hb
  case out => rfl
  case pkg => rfl
  all_goals exact fun p => by cases p <;> exact PlaneSt.Same.refl _ _

theorem State.foldl_keeps {α : Type} (hs : Keeps F S s) (l : List α) (f : State → α → State)
    (hf : ∀ a s, Keeps F s (f s a)) : Keeps F S (l.foldl f s) := by
  induction l generalizing s with
  | nil => exact hs
  | cons a l ih => exact ih (hs.trans (hf a s))

/-- Folds that carry results beside the state. -/
theorem State.foldl_snd {α β : Type} {a : β} (hs : Keeps F S s) (l : List α) (f : β × State → α → β × State)
    (hf : ∀ x e, Keeps F x.2 (f x e).2) : Keeps F S (l.foldl f (a, s)).2 := by
  induction l generalizing a s with
  | nil => exact hs
  | cons e l ih => exact ih (a := (f (a, s) e).1) (hs.trans (hf (a, s) e))
theorem State.foldl_snd2 {α β γ : Type} {a : β} {b : γ} (hs : Keeps F S s) (l : List α)
    (f : β × γ × State → α → β × γ × State) (hf : ∀ x e, Keeps F x.2.2 (f x e).2.2) :
    Keeps F S (l.foldl f (a, b, s)).2.2 := by
  induction l generalizing a b s with
  | nil => exact hs
  | cons e l ih => exact ih (a := (f (a, b, s) e).1) (b := (f (a, b, s) e).2.1) (hs.trans (hf (a, b, s) e))

theorem State.each_keeps {α : Type} (hs : Keeps F S s) (l : List α) (f : α → State → State)
    (hf : ∀ a s, Keeps F s (f a s)) : Keeps F S (s.each l f) := State.foldl_keeps hs l _ hf
theorem State.both_keeps (hs : Keeps F S s) (f : Plane → State → State) (hf : ∀ p s, Keeps F s (f p s)) :
    Keeps F S (s.both f) := (hs.trans (hf _ _)).trans (hf _ _)
theorem State.when_keeps (hs : Keeps F S s) (b : Bool) (f : State → State) (hf : ∀ s, Keeps F s (f s)) :
    Keeps F S (s.when b f) := by
  unfold State.when
  split
  · exact hs.trans (hf s)
  · exact hs

theorem State.setWords_keeps (hs : Keeps F S s) (p : Plane) (r : Reg) (hF : Foot.Sub r.foot F) (i : Nat)
    (ws : List Word) : Keeps F S (s.setWords p r i ws) :=
  State.foldl_keeps hs _ _ (fun e s => State.setWord_keeps (Keeps.refl F s) p r hF i e.2 e.1)

end Sys2Proof.Machine
end

