-- ==== Sys2Proof/Laws/Regs.lean ====
section
/-! SUPPORT. Laws of the register map: no two registers share an offset (R6), what a field reads as after a write of a
field, and what a footprint says about words. -/

namespace Sys2Proof.Machine

/-- The registers in the order of the map. -/
def allRegs : List Reg :=
  regsOfBlock0 ++ regsOfBlock1 ++ regsOfBlock2 ++ regsOfBlock3 ++ regsOfBlock4 ++ regsOfBlock5 ++ regsOfBlock6 ++
    regsOfBlock7 ++ regsOfBlock8 ++ regsOfBlock9 ++ regsOfBlock10 ++ regsOfBlock11 ++ regsOfBlock12

theorem Reg.ctorIdx_inj {r q : Reg} (h : r.ctorIdx = q.ctorIdx) : r = q := by
  rw [← Reg.ofNat_ctorIdx r, ← Reg.ofNat_ctorIdx q, h]

theorem allRegs_order : (allRegs.map Reg.ctorIdx == List.range allRegs.length) = true := by decide +kernel

theorem mem_allRegs (r : Reg) : r ∈ allRegs := by
  have hl : allRegs.length = 271 := by decide +kernel
  have h : r.ctorIdx ∈ allRegs.map Reg.ctorIdx := by
    rw [eq_of_beq allRegs_order, List.mem_range, hl]
    exact Reg.num_lt r
  obtain ⟨q, hq, e⟩ := List.mem_map.mp h
  exact Reg.ctorIdx_inj e ▸ hq

/-- A register's words in rows of one spacing: the spacing, the bytes of a row that words take, and how many rows. -/
def RegInfo.row (n : RegInfo) : Nat := n.stride * n.period
def RegInfo.used (n : RegInfo) : Nat := n.stride * (n.valid - 1) + 4 * n.words
def RegInfo.rows (n : RegInfo) : Nat := (n.count + n.period - 1) / n.period

/-- Two registers lie apart: one wholly below the other, or rows of one spacing in which their words do not meet. -/
def apart (n m : RegInfo) : Bool :=
  Nat.ble (n.base + n.row * (n.rows - 1) + n.used) m.base || Nat.ble (m.base + m.row * (m.rows - 1) + m.used) n.base ||
    (Nat.beq n.row m.row &&
      (Nat.ble (n.base % n.row + n.used) (m.base % m.row) && Nat.ble (m.base % m.row + m.used) m.row ||
        Nat.ble (m.base % m.row + m.used) (n.base % n.row) && Nat.ble (n.base % n.row + n.used) n.row))

theorem apart_all :
    (allRegs.all (fun r => allRegs.all (fun q => Nat.beq r.ctorIdx q.ctorIdx || apart r.info q.info))) = true := by
  decide +kernel

theorem period_pos (r : Reg) : 0 < r.info.period := by
  have h : (allRegs.all (fun r => Nat.blt 0 r.info.period)) = true := by decide +kernel
  exact Nat.blt_eq.mp (List.all_eq_true.mp h r (mem_allRegs r))

/-- A word's offset within its row. -/
theorem Reg.Owns.at_row {r : Reg} {a : Nat} (h : r.Owns a) :
    ∃ k e, k < r.info.rows ∧ e < r.info.used ∧ a = r.info.base + r.info.row * k + e := by
  obtain ⟨i, w, ⟨hi, hv, hw⟩, rfl⟩ := h
  have hp := period_pos r
  unfold Reg.off RegInfo.rows RegInfo.used RegInfo.row
  generalize r.info = n at *
  obtain ⟨base, stride, count, words, period, valid, multi⟩ := n
  dsimp only at *
  refine ⟨i / period, stride * (i % period) + 4 * w, ?_, ?_, ?_⟩
  · rw [Nat.div_lt_iff_lt_mul hp]
    have := Nat.div_add_mod (count + period - 1) period
    have := Nat.mod_lt (count + period - 1) hp
    rw [Nat.mul_comm]
    omega
  · have := Nat.mul_le_mul_left stride (show i % period ≤ valid - 1 by omega)
    omega
  · have e : stride * i = stride * period * (i / period) + stride * (i % period) := by
      rw [Nat.mul_assoc, ← Nat.mul_add, Nat.div_add_mod]
    omega

theorem mod_row {S b k e u : Nat} (h : b % S + u ≤ S) (he : e < u) : (b + S * k + e) % S = b % S + e := by
  have hS : b % S < S := by
    apply Nat.mod_lt
    omega
  rw [Nat.add_right_comm, Nat.add_mul_mod_self_left, Nat.add_mod, Nat.mod_eq_of_lt (show e < S by omega),
    Nat.mod_eq_of_lt (by omega)]

/-- No two registers share an offset (R6). -/
theorem Reg.owns_unique {r q : Reg} {a : Nat} (hr : r.Owns a) (hq : q.Owns a) : r = q := by
  have h := List.all_eq_true.mp (List.all_eq_true.mp apart_all r (mem_allRegs r)) q (mem_allRegs q)
  rw [Bool.or_eq_true] at h
  rcases h with h | h
  · exact Reg.ctorIdx_inj (Nat.eq_of_beq_eq_true h)
  · exfalso
    obtain ⟨k, e, hk, he, ha⟩ := hr.at_row
    obtain ⟨k', e', hk', he', ha'⟩ := hq.at_row
    unfold apart at h
    simp only [Bool.or_eq_true, Bool.and_eq_true, Nat.ble_eq, Nat.beq_eq] at h
    have b1 := Nat.mul_le_mul_left r.info.row (show k ≤ r.info.rows - 1 by omega)
    have b2 := Nat.mul_le_mul_left q.info.row (show k' ≤ q.info.rows - 1 by omega)
    rcases h with (h | h) | ⟨hS, h⟩
    · omega
    · omega
    · have m1 : a % r.info.row = _ % r.info.row := congrArg (· % r.info.row) ha
      have m2 : a % r.info.row = _ % r.info.row := congrArg (· % r.info.row) ha'
      rw [← hS] at m2 h
      rcases h with ⟨h1, h2⟩ | ⟨h1, h2⟩
      · rw [mod_row (by omega) he] at m1
        rw [mod_row h2 he'] at m2
        omega
      · rw [mod_row h2 he] at m1
        rw [mod_row (by omega) he'] at m2
        omega

end Sys2Proof.Machine
end

