-- ==== Sys2Proof/Laws/Fields.lean ====
section
/-! SUPPORT. Fields: what a field reads as after a write of it or of another field, and what is left of a field by an
operation whose footprint does not have its register. -/

namespace Sys2Proof.Machine

/-- The value written into a range of bits reads back. -/
theorem bits_setBits (hi lo n v : Nat) (h : lo ≤ hi) : bits hi lo (setBits hi lo n v) = v % 2 ^ (hi + 1 - lo) := by
  unfold bits setBits
  have e : 2 ^ (hi + 1) = 2 ^ lo * 2 ^ (hi + 1 - lo) := by
    rw [← Nat.pow_add]
    congr 1
    omega
  have hlo : 0 < 2 ^ lo := Nat.two_pow_pos lo
  generalize n / 2 ^ (hi + 1) = q
  rw [e, show q * (2 ^ lo * 2 ^ (hi + 1 - lo)) + v % 2 ^ (hi + 1 - lo) * 2 ^ lo + n % 2 ^ lo =
    2 ^ lo * (q * 2 ^ (hi + 1 - lo) + v % 2 ^ (hi + 1 - lo)) + n % 2 ^ lo by
      rw [Nat.mul_add, Nat.mul_comm (v % _), Nat.mul_left_comm],
    Nat.mul_add_div hlo, Nat.div_eq_of_lt (Nat.mod_lt _ hlo), Nat.add_zero, Nat.add_comm, Nat.add_mul_mod_self_right,
    Nat.mod_mod]

/-- A range of bits above or below the one written reads as before. -/
theorem bits_setBits_other (hi lo n v hi' lo' : Nat) (h : lo ≤ hi) (d : hi < lo' ∨ hi' < lo) :
    bits hi' lo' (setBits hi lo n v) = bits hi' lo' n := by
  have hw : v % 2 ^ (hi + 1 - lo) * 2 ^ lo + n % 2 ^ lo < 2 ^ (hi + 1) := by
    have e : 2 ^ (hi + 1) = 2 ^ (hi + 1 - lo) * 2 ^ lo := by
      rw [← Nat.pow_add]
      congr 1
      omega
    have h1 := Nat.mod_lt v (Nat.two_pow_pos (hi + 1 - lo))
    have h2 := Nat.mod_lt n (Nat.two_pow_pos lo)
    have h3 := Nat.mul_le_mul_right (2 ^ lo) (show v % 2 ^ (hi + 1 - lo) + 1 ≤ 2 ^ (hi + 1 - lo) from h1)
    rw [Nat.add_mul, Nat.one_mul] at h3
    omega
  have hdiv : setBits hi lo n v / 2 ^ (hi + 1) = n / 2 ^ (hi + 1) := by
    unfold setBits
    rw [Nat.add_assoc, Nat.mul_comm (n / 2 ^ (hi + 1)), Nat.mul_add_div (Nat.two_pow_pos _), Nat.div_eq_of_lt hw,
      Nat.add_zero]
  have hmod : setBits hi lo n v % 2 ^ lo = n % 2 ^ lo := by
    have e : 2 ^ (hi + 1) = 2 ^ (hi + 1 - lo) * 2 ^ lo := by
      rw [← Nat.pow_add]
      congr 1
      omega
    unfold setBits
    rw [e, ← Nat.mul_assoc, ← Nat.add_mul, Nat.add_comm, Nat.add_mul_mod_self_right, Nat.mod_mod]
  unfold bits
  rcases d with d | d
  · have e : 2 ^ lo' = 2 ^ (hi + 1) * 2 ^ (lo' - (hi + 1)) := by
      rw [← Nat.pow_add]
      congr 1
      omega
    rw [e, ← Nat.div_div_eq_div_mul, ← Nat.div_div_eq_div_mul, hdiv]
  · by_cases hl : lo' ≤ hi'
    · have key : ∀ x : Nat, x / 2 ^ lo' % 2 ^ (hi' + 1 - lo') = x % 2 ^ lo / 2 ^ lo' % 2 ^ (hi' + 1 - lo') := by
        intro x
        have e : 2 ^ lo = 2 ^ lo' * 2 ^ (hi' + 1 - lo') * 2 ^ (lo - (hi' + 1)) := by
          rw [← Nat.pow_add, ← Nat.pow_add]
          congr 1
          omega
        rw [e, Nat.mul_assoc, Nat.mod_mul_right_div_self, Nat.mod_mul_right_mod]
      rw [key, key n, hmod]
    · rw [show hi' + 1 - lo' = 0 by omega, Nat.pow_zero, Nat.mod_one, Nat.mod_one]

/-- A field lies within its word. -/
def Fld.Ok (f : Fld) : Prop := f.lo ≤ f.hi ∧ f.hi < 32

theorem Fld.of_put (f : Fld) (h : f.Ok) (v : Nat) (w : Word) : f.of (f.put v w) = v % 2 ^ f.width := by
  unfold Fld.of Fld.put Fld.width
  rw [BitVec.toNat_ofNat, ← bits_setBits f.hi f.lo w.toNat v h.1]
  unfold bits
  obtain ⟨h1, h2⟩ := h
  have e : 2 ^ 32 = 2 ^ f.lo * 2 ^ (f.hi + 1 - f.lo) * 2 ^ (32 - (f.hi + 1)) := by
    rw [← Nat.pow_add, ← Nat.pow_add]
    congr 1
    omega
  rw [e, Nat.mul_assoc, Nat.mod_mul_right_div_self, Nat.mod_mul_right_mod]

theorem Fld.of_put_other (f g : Fld) (h : f.Ok) (hg : g.Ok) (d : f.hi < g.lo ∨ g.hi < f.lo) (v : Nat) (w : Word) :
    g.of (f.put v w) = g.of w := by
  unfold Fld.of Fld.put
  rw [BitVec.toNat_ofNat, ← bits_setBits_other f.hi f.lo w.toNat v g.hi g.lo h.1 d]
  unfold bits
  obtain ⟨h1, h2⟩ := hg
  have e : 2 ^ 32 = 2 ^ g.lo * 2 ^ (g.hi + 1 - g.lo) * 2 ^ (32 - (g.hi + 1)) := by
    rw [← Nat.pow_add, ← Nat.pow_add]
    congr 1
    omega
  rw [e, Nat.mul_assoc, Nat.mod_mul_right_div_self, Nat.mod_mul_right_mod]

/-- Two words of one register at one offset are one word. -/
theorem Reg.off_inj {r : Reg} {i w j x : Nat} (h : r.Has i w) (k : r.Has j x) (e : r.off i w = r.off j x) :
    i = j ∧ w = x := by
  have hs : (allRegs.all (fun r => Nat.ble (4 * r.info.words) r.info.stride && Nat.blt 0 r.info.words ||
      Nat.beq r.info.count 1)) = true := by decide +kernel
  have hr := List.all_eq_true.mp hs r (mem_allRegs r)
  obtain ⟨h1, -, h2⟩ := h
  obtain ⟨k1, -, k2⟩ := k
  unfold Reg.off at e
  rw [Bool.or_eq_true, Bool.and_eq_true] at hr
  generalize r.info = n at *
  obtain ⟨base, stride, count, words, period, valid, multi⟩ := n
  simp only [Nat.ble_eq, Nat.blt_eq, Nat.beq_eq] at *
  rcases hr with ⟨hr, -⟩ | hr
  · have e' : stride * i + 4 * w = stride * j + 4 * x := by omega
    have hij : i = j := by
      rcases Nat.lt_trichotomy i j with lt | eq | gt
      · have := Nat.mul_le_mul_left stride (show i + 1 ≤ j from lt)
        rw [Nat.mul_add, Nat.mul_one] at this
        omega
      · exact eq
      · have := Nat.mul_le_mul_left stride (show j + 1 ≤ i from gt)
        rw [Nat.mul_add, Nat.mul_one] at this
        omega
    subst hij
    omega
  · have hi : i = 0 := by omega
    have hj : j = 0 := by omega
    subst hi hj
    omega

/-- A register of `n` indices has each of its words at an index below `n`. -/
theorem Reg.has {n i : Nat} (h : i < n) (r : Reg) (w : Nat)
    (c : (Nat.beq r.info.count n && Nat.beq r.info.period 1 && Nat.beq r.info.valid 1 && Nat.blt w r.info.words) = true) :
    r.Has i w := by
  simp only [Bool.and_eq_true, Nat.beq_eq, Nat.blt_eq] at c
  exact ⟨c.1.1.1 ▸ h, by rw [c.1.1.2, c.1.2, Nat.mod_one]; exact Nat.zero_lt_one, c.2⟩

theorem putWord_has {r : Reg} {i w : Nat} (h : r.Has i w) (v : Word) (m : RegFile) :
    putWord r i w v m = mset (r.resetWord w) (r.off i w) v m := by
  obtain ⟨h1, h2, h3⟩ := h
  unfold putWord
  rw [if_pos]
  simp only [Bool.and_eq_true, Nat.blt_eq]
  exact ⟨⟨h1, h2⟩, h3⟩

/-- A word reads as written. -/
theorem wordAt_putWord {r : Reg} {i w : Nat} (h : r.Has i w) (v : Word) (m : RegFile) :
    wordAt r i w (putWord r i w v m) = v := by
  rw [putWord_has h]
  unfold wordAt
  rw [mget_mset, if_pos rfl]

/-- Another word reads as before. -/
theorem wordAt_putWord_other {r q : Reg} {i w j x : Nat} (k : q.Has j x) (ne : ¬ (q = r ∧ j = i ∧ x = w)) (v : Word)
    (m : RegFile) : wordAt q j x (putWord r i w v m) = wordAt q j x m := by
  by_cases h : r.Has i w
  · rw [putWord_has h]
    unfold wordAt
    refine mget_mset_ne _ _ _ _ _ ?_ _
    intro e
    have eq : q = r := Reg.owns_unique ⟨j, x, k, rfl⟩ ⟨i, w, h, e⟩
    subst eq
    obtain ⟨e1, e2⟩ := Reg.off_inj k h e
    exact ne ⟨rfl, e1, e2⟩
  · have e : putWord r i w v m = m := by
      unfold putWord
      rw [if_neg]
      simp only [Bool.and_eq_true, Nat.blt_eq]
      exact fun c => h ⟨c.1.1, c.1.2, c.2⟩
    rw [e]

/-- A field reads as written. -/
theorem Fld.get_set (f : Fld) (hf : f.Ok) {i : Nat} (h : f.reg.Has i f.word) (v : Nat) (m : RegFile) : f.get i (f.set i v m) = v % 2 ^ f.width := by
  unfold Fld.get Fld.set
  rw [wordAt_putWord h _ _, Fld.of_put f hf]

/-- Another field of the same word reads as before. -/
theorem Fld.get_set_beside (f g : Fld) (hf : f.Ok) (hg : g.Ok) (e : g.reg = f.reg ∧ g.word = f.word)
    (d : f.hi < g.lo ∨ g.hi < f.lo) {i : Nat} (h : f.reg.Has i f.word) (v : Nat) (m : RegFile) : g.get i (f.set i v m) = g.get i m := by
  unfold Fld.get Fld.set
  rw [e.1, e.2, wordAt_putWord h _ _, Fld.of_put_other f g hf hg d]

/-- A field of another word reads as before. -/
theorem Fld.get_set_apart (f g : Fld) {i j : Nat} (k : g.reg.Has j g.word)
    (ne : ¬ (g.reg = f.reg ∧ j = i ∧ g.word = f.word)) (v : Nat) (m : RegFile) :
    g.get j (f.set i v m) = g.get j m := by
  unfold Fld.get Fld.set
  rw [wordAt_putWord_other k ne _ _]

/-- The fields of a register lie within its words, and no two of them share a bit. -/
theorem fields_apart : (allRegs.all (fun r => r.fields.all (fun f =>
    Nat.beq f.reg.ctorIdx r.ctorIdx && Nat.ble f.lo f.hi && Nat.blt f.hi 32 && Nat.blt f.word r.info.words &&
      r.fields.all (fun g => Nat.blt f.word g.word || Nat.blt g.word f.word || Nat.blt f.hi g.lo || Nat.blt g.hi f.lo ||
        decide (f = g))))) = true := by decide +kernel

theorem Reg.fields_ok {r : Reg} {f : Fld} (h : f ∈ r.fields) : f.reg = r ∧ f.Ok ∧ f.word < r.info.words := by
  have e := List.all_eq_true.mp (List.all_eq_true.mp fields_apart r (mem_allRegs r)) f h
  simp only [Bool.and_eq_true, Nat.beq_eq, Nat.ble_eq, Nat.blt_eq] at e
  exact ⟨Reg.ctorIdx_inj e.1.1.1.1, ⟨e.1.1.1.2, e.1.1.2⟩, e.1.2⟩

theorem Reg.fields_beside {r : Reg} {f g : Fld} (hf : f ∈ r.fields) (hg : g ∈ r.fields) (hw : f.word = g.word)
    (ne : f ≠ g) : f.hi < g.lo ∨ g.hi < f.lo := by
  have e := List.all_eq_true.mp (List.all_eq_true.mp fields_apart r (mem_allRegs r)) f hf
  rw [Bool.and_eq_true] at e
  have k := List.all_eq_true.mp e.2 g hg
  simp only [Bool.or_eq_true, Nat.blt_eq, decide_eq_true_eq] at k
  rcases k with (((k | k) | k) | k) | k
  · omega
  · omega
  · exact Or.inl k
  · exact Or.inr k
  · exact absurd k ne

/-- A field of a word that fields of the same word are put into, one after the other. -/
theorem of_foldl_put {r : Reg} {w : Nat} (val : Fld → Nat) (f : Fld) (hf : f ∈ r.fields ∧ f.word = w) (l : List Fld) :
    (∀ g ∈ l, g ∈ r.fields ∧ g.word = w) → ∀ a : Word,
      f.of (l.foldl (fun a g => g.put (val g) a) a) = if f ∈ l then val f % 2 ^ f.width else f.of a := by
  induction l with
  | nil =>
    intro _ a
    rfl
  | cons g l ih =>
    intro hl a
    have hg := hl g (List.mem_cons_self ..)
    rw [List.foldl_cons, ih (fun g h => hl g (List.mem_cons_of_mem _ h))]
    by_cases m : f ∈ l
    · rw [if_pos m, if_pos (List.mem_cons_of_mem _ m)]
    · rw [if_neg m]
      by_cases e : f = g
      · subst e
        rw [if_pos (List.mem_cons_self ..), Fld.of_put f (Reg.fields_ok hf.1).2.1]
      · rw [if_neg (by rw [List.mem_cons]; exact fun c => c.elim e m),
          Fld.of_put_other g f (Reg.fields_ok hg.1).2.1 (Reg.fields_ok hf.1).2.1
            (Reg.fields_beside hg.1 hf.1 (hg.2.trans hf.2.symm) (Ne.symm e))]

theorem Fld.of_lt (f : Fld) (w : Word) : f.of w < 2 ^ f.width := by
  unfold Fld.of bits Fld.width
  exact Nat.mod_lt _ (Nat.two_pow_pos _)

theorem Fld.of_mod (f : Fld) (w : Word) : f.of w % 2 ^ f.width = f.of w := Nat.mod_eq_of_lt (f.of_lt w)

/-- A register outside a footprint reads as before, word by word. -/
theorem Keeps.word_eq {F : Foot} {s t : State} (h : Keeps F s t) (p : Plane) {r : Reg}
    (hr : F.testBit r.num = false) {i w : Nat} (k : r.Has i w) : t.word p r i w = s.word p r i w := by
  unfold State.word wordAt
  refine h.regs p r hr _ ⟨i, w, k, rfl⟩ ?_ _
  intro q hq ho
  have e : q = r := Reg.owns_unique ho ⟨i, w, k, rfl⟩
  subst e
  rw [hr] at hq
  exact Bool.noConfusion hq

/-- What software reads at a field outside a footprint is as before. -/
theorem Keeps.staged_eq {F : Foot} {s t : State} (h : Keeps F s t) (p : Plane) {f : Fld}
    (hr : F.testBit f.reg.num = false) {i : Nat} (k : f.reg.Has i f.word) : t.staged p f i = s.staged p f i := by
  have e := h.word_eq p hr k
  unfold State.word at e
  unfold State.staged Fld.get
  rw [e]

/-- The value in force of a field outside a footprint is as before. -/
theorem Keeps.fld_eq {F : Foot} {s t : State} (h : Keeps F s t) (p : Plane) {f : Fld}
    (hr : F.testBit f.reg.num = false) (hc : F.testBit Part.committed.num = false) {i : Nat}
    (k : f.reg.Has i f.word) : t.fld p f i = s.fld p f i := by
  have e := h.staged_eq p hr k
  unfold State.staged at e
  have c : (t.pl p).committed = (s.pl p).committed := h.parts .committed hc p
  unfold State.fld
  split
  · rw [c]
  · exact e

/-- The footprint of a list of parts and registers has just these. -/
theorem foot_part (ps : List Part) (rs : List Reg) (b : Part) : (foot ps rs).testBit b.num = true ↔ b ∈ ps := by
  have hlor : ∀ x y k : Nat, (Nat.lor x y).testBit k = (x.testBit k || y.testBit k) := fun x y k => Nat.testBit_or x y k
  have hp : ∀ c : Part, c.foot.testBit b.num = decide (c = b) := by
    intro c
    unfold Part.foot
    rw [Nat.testBit_two_pow]
    cases b <;> cases c <;> rfl
  have hr : ∀ r : Reg, r.foot.testBit b.num = false := by
    intro r
    unfold Reg.foot Reg.num
    rw [Nat.testBit_two_pow, decide_eq_false_iff_not]
    have : b.num < 32 := by cases b <;> decide
    omega
  unfold foot
  induction rs with
  | nil =>
    induction ps with
    | nil => simp
    | cons c ps ih =>
      simp only [List.foldr_nil, List.foldr_cons, hlor, hp, Bool.or_eq_true, decide_eq_true_eq, List.mem_cons] at ih ⊢
      exact or_congr eq_comm ih
  | cons r rs ih => simpa only [List.foldr_cons, hlor, hr, Bool.false_or] using ih

theorem foot_reg (ps : List Part) (rs : List Reg) (q : Reg) : (foot ps rs).testBit q.num = true ↔ q ∈ rs := by
  have hlor : ∀ x y k : Nat, (Nat.lor x y).testBit k = (x.testBit k || y.testBit k) := fun x y k => Nat.testBit_or x y k
  have hp : ∀ c : Part, c.foot.testBit q.num = false := by
    intro c
    unfold Part.foot Reg.num
    rw [Nat.testBit_two_pow, decide_eq_false_iff_not]
    have : c.num < 32 := by cases c <;> decide
    omega
  have hr : ∀ r : Reg, r.foot.testBit q.num = decide (r = q) := by
    intro r
    unfold Reg.foot Reg.num
    rw [Nat.testBit_two_pow]
    refine decide_eq_decide.mpr ⟨fun h => Reg.ctorIdx_inj (by omega), fun h => by rw [h]⟩
  unfold foot
  induction rs with
  | nil =>
    induction ps with
    | nil => simp
    | cons c ps ih => simpa only [List.foldr_nil, List.foldr_cons, hlor, hp, Bool.false_or] using ih
  | cons r rs ih =>
    simp only [List.foldr_cons, hlor, hr, Bool.or_eq_true, decide_eq_true_eq, List.mem_cons] at ih ⊢
    exact or_congr eq_comm ih

/-- What keeps all but some parts and registers changes at most these. -/
theorem Keeps.changes {ps : List Part} {rs : List Reg} {s t : State} (h : Keeps (foot ps rs) s t) :
    Changes ps rs s t where
  pending := h.pending
  ticks := h.ticks
  parts := fun b hb => h.parts b (Bool.eq_false_iff.mpr (fun c => hb ((foot_part ps rs b).mp c)))
  words := fun p _ _ _ hr k => h.word_eq p (Bool.eq_false_iff.mpr (fun c => hr ((foot_reg ps rs _).mp c))) k

end Sys2Proof.Machine
end

