-- ==== Sys2Proof/Laws/KeepOps.lean ====
section
/-! SUPPORT. `Keeps` of the definitions of Machine/Ops.lean, each with its footprint. -/

namespace Sys2Proof.Machine

set_option Elab.async false

variable {F : Foot} {S s : State}

theorem goOn_keeps (s : State) :
    ∃ t', goOn s = .next t' ∧ Keeps F s t' := by
  unfold goOn
  refine ⟨_, rfl, ?_⟩
  repeat' first | with_reducible assumption | with_reducible exact Keeps.refl _ _

def State.discard1_foot : Foot := foot [] [.LFP_HCRC_DISC, .LFP_HDR_DISC, .LFP_HOP_DISC, .RTE_NOPORT_DISC,
  .RTE_INT_DISC, .RTE_MISS_DISC, .RTE_MC_DISC, .RTE_ESC_DISC, .RTE_PATH_DISC, .GWM_UNSUP_CNT, .GWM_UNMAP_CNT,
  .GWM_DENY_CNT, .GWM_MEMERR_CNT]

theorem State.discard1_keeps (hs : Keeps F S s) (hF : Foot.Sub State.discard1_foot F) (p : Plane) (d : Disc) :
    Keeps F S (State.discard1 s p d) := by
  refine State.count_keeps hs p _ ?_ 0
  cases d <;> exact hF.up (by decide +kernel)

def State.glFlitOut_foot : Foot := foot [.out, .hif] []

theorem State.glFlitOut_keeps (hs : Keeps F S s) (hF : Foot.Sub State.glFlitOut_foot F) (h : Plane)
    (kind : BitVec 2) (nak : Bool) (ms : List GlMsg) :
    Keeps F S (State.glFlitOut s h kind nak ms) := by
  unfold State.glFlitOut
  repeat' first
    | with_reducible assumption | (with_reducible refine Foot.Sub.up hF ?_; decide +kernel)
    | ((first | intro x | (lift_lets; intro x))
       first
         | (refine Keeps.cut x ?_ (fun hx => ?_); rotate_left; clear_value x; rotate_left; unfold x)
         | clear_value x
         | skip)
    | with_reducible apply State.emit_keeps | with_reducible apply State.modHif_keeps
    | with_reducible exact Keeps.refl _ _ | exact Nat.le_refl _

def State.glOut_foot : Foot := Foot.join [foot [.hif] [], State.glFlitOut_foot]

theorem State.glOut_keeps (hs : Keeps F S s) (hF : Foot.Sub State.glOut_foot F) (h : Plane) (m : GlMsg) :
    Keeps F S (State.glOut s h m) := by
  unfold State.glOut
  repeat' first
    | with_reducible assumption | (with_reducible refine Foot.Sub.up hF ?_; decide +kernel)
    | with_reducible apply State.modHif_keeps | with_reducible apply State.glFlitOut_keeps | intro x
    | with_reducible apply Keeps.ite | with_reducible exact Keeps.refl _ _ | exact Nat.le_refl _

def State.glDrain_foot : Foot := Foot.join [foot [.hif] [], State.glFlitOut_foot]

theorem State.glDrain_keeps (hs : Keeps F S s) (hF : Foot.Sub State.glDrain_foot F) (h : Plane) :
    Keeps F S (State.glDrain s h) := by
  unfold State.glDrain
  repeat' first
    | with_reducible assumption | (with_reducible refine Foot.Sub.up hF ?_; decide +kernel)
    | with_reducible apply State.each_keeps | with_reducible apply State.modHif_keeps
    | with_reducible apply State.glFlitOut_keeps | intro x | with_reducible apply Keeps.ite
    | with_reducible exact Keeps.refl _ _ | exact Nat.le_refl _

def State.glPump1_foot : Foot := Foot.join [foot [.hif] [], State.glOut_foot]

theorem State.glPump1_keeps (hs : Keeps F S s) (hF : Foot.Sub State.glPump1_foot F) (p : Plane) :
    Keeps F S (State.glPump1 s p) := by
  unfold State.glPump1
  repeat' first
    | with_reducible assumption | (with_reducible refine Foot.Sub.up hF ?_; decide +kernel)
    | ((first | intro x | (lift_lets; intro x))
       first
         | (refine Keeps.cut x ?_ (fun hx => ?_); rotate_left; clear_value x; rotate_left; unfold x)
         | clear_value x
         | skip)
    | with_reducible apply State.modHif_keeps | with_reducible apply State.glOut_keeps
    | with_reducible apply Keeps.ite | split | with_reducible exact Keeps.refl _ _ | exact Nat.le_refl _

def State.glPump_foot : Foot := State.glPump1_foot

theorem State.glPump_keeps (hs : Keeps F S s) (hF : Foot.Sub State.glPump_foot F) (p : Plane) :
    Keeps F S (State.glPump s p) := by
  unfold State.glPump
  repeat' first
    | with_reducible assumption | (with_reducible refine Foot.Sub.up hF ?_; decide +kernel)
    | with_reducible apply State.each_keeps | with_reducible apply State.glPump1_keeps | intro x
    | with_reducible exact Keeps.refl _ _

def State.glRequest_foot : Foot := Foot.join [foot [.hif] [], State.glPump_foot]

theorem State.glRequest_keeps (hs : Keeps F S s) (hF : Foot.Sub State.glRequest_foot F) (p : Plane) (m : GlMsg)
    (w : GlWhat) :
    Keeps F S (State.glRequest s p m w) := by
  unfold State.glRequest
  repeat' first
    | with_reducible assumption | (with_reducible refine Foot.Sub.up hF ?_; decide +kernel)
    | with_reducible apply State.modHif_keeps | with_reducible apply State.glPump_keeps | intro x
    | with_reducible exact Keeps.refl _ _ | exact Nat.le_refl _

def State.pushLine_foot : Foot := State.glRequest_foot

theorem State.pushLine_keeps (hs : Keeps F S s) (hF : Foot.Sub State.pushLine_foot F) (p : Plane) (addr : Nat)
    (line : Bytes) (w : GlWhat) :
    Keeps F S (State.pushLine s p addr line w) := by
  unfold State.pushLine
  repeat' first
    | with_reducible assumption | (with_reducible refine Foot.Sub.up hF ?_; decide +kernel)
    | with_reducible apply State.glRequest_keeps | with_reducible exact Keeps.refl _ _

def State.modRing_foot : Foot := foot [.hif] []

theorem State.modRing_keeps (hs : Keeps F S s) (hF : Foot.Sub State.modRing_foot F) (p : Plane) (r : Nat)
    (f : RingSt → RingSt) :
    Keeps F S (State.modRing s p r f) := by
  unfold State.modRing
  repeat' first
    | with_reducible assumption | (with_reducible refine Foot.Sub.up hF ?_; decide +kernel)
    | with_reducible apply State.modHif_keeps | intro x | with_reducible exact Keeps.refl _ _ | exact Nat.le_refl _

def State.ringPump_foot : Foot := Foot.join [State.modRing_foot, State.pushLine_foot]

theorem State.ringPump_keeps (hs : Keeps F S s) (hF : Foot.Sub State.ringPump_foot F) (p : Plane) (r : Nat) :
    Keeps F S (State.ringPump s p r) := by
  unfold State.ringPump
  repeat' first
    | with_reducible assumption | (with_reducible refine Foot.Sub.up hF ?_; decide +kernel)
    | ((first | intro x | (lift_lets; intro x))
       first
         | (refine Keeps.cut x ?_ (fun hx => ?_); rotate_left; clear_value x; rotate_left; unfold x)
         | clear_value x
         | skip)
    | with_reducible apply State.each_keeps | with_reducible apply State.modRing_keeps
    | with_reducible apply State.pushLine_keeps | with_reducible apply Keeps.ite | split
    | with_reducible exact Keeps.refl _ _

def State.ringWrite_foot : Foot := Foot.join [foot [.hif] [.HIF_RING_IDX], State.modRing_foot, State.ringPump_foot]

theorem State.ringWrite_keeps (hs : Keeps F S s) (hF : Foot.Sub State.ringWrite_foot F) (p : Plane) (r : Nat)
    (entry : Bytes) (force : Bool) :
    Keeps F S (State.ringWrite s p r entry force) := by
  unfold State.ringWrite
  repeat' first
    | with_reducible assumption | (with_reducible refine Foot.Sub.up hF ?_; decide +kernel)
    | ((first | intro x | (lift_lets; intro x))
       first
         | (refine Keeps.cut x ?_ (fun hx => ?_); rotate_left; clear_value x; rotate_left; unfold x)
         | clear_value x
         | skip)
    | with_reducible apply State.modHif_keeps | with_reducible apply State.setWord_keeps
    | with_reducible apply State.modRing_keeps | with_reducible apply State.ringPump_keeps
    | with_reducible exact Keeps.refl _ _ | exact Nat.le_refl _

def State.evtPump1_foot : Foot := Foot.join [foot [.hif] [], State.ringWrite_foot]

theorem State.evtPump1_keeps (hs : Keeps F S s) (hF : Foot.Sub State.evtPump1_foot F) (p : Plane) :
    Keeps F S (State.evtPump1 s p) := by
  unfold State.evtPump1
  split
  · exact hs
  · rename_i e rest h
    apply Keeps.ite
    · refine State.ringWrite_keeps ?_ (hF.up (by decide +kernel)) _ _ _ _
      refine State.setHif_keeps hs (hF.up (by decide +kernel)) p _ (fun hl => ?_)
      rw [h] at hl
      exact Nat.le_trans (Nat.le_succ _) hl
    · exact hs

def State.evtPump_foot : Foot := State.evtPump1_foot

theorem State.evtPump_keeps (hs : Keeps F S s) (hF : Foot.Sub State.evtPump_foot F) (p : Plane) :
    Keeps F S (State.evtPump s p) := by
  unfold State.evtPump
  repeat' first
    | with_reducible assumption | (with_reducible refine Foot.Sub.up hF ?_; decide +kernel)
    | with_reducible apply State.each_keeps | with_reducible apply State.evtPump1_keeps | intro x
    | with_reducible exact Keeps.refl _ _

def State.evtStore_foot : Foot := Foot.join [foot [.hif] [.HIF_EVT_LOST], State.evtPump_foot]

theorem State.evtStore_keeps (hs : Keeps F S s) (hF : Foot.Sub State.evtStore_foot F) (p : Plane) (e : Evt) :
    Keeps F S (State.evtStore s p e) := by
  unfold State.evtStore
  have h := State.evtPump_keeps hs (hF.up (by decide +kernel)) p
  lift_lets
  intro t
  change Keeps F S t at h
  clear_value t
  split
  · rename_i hlt
    refine State.evtPump_keeps ?_ (hF.up (by decide +kernel)) _
    refine State.setHif_keeps h (hF.up (by decide +kernel)) p _ (fun _ => ?_)
    simp only [List.length_append, List.length_cons, List.length_nil]
    omega
  · refine State.count_keeps ?_ _ _ (hF.up (by decide +kernel)) _
    exact State.modHif_keeps h (hF.up (by decide +kernel)) p _ (fun _ => Nat.le_refl _)

def State.raise_foot : Foot := Foot.join [foot [.hif] [], State.evtStore_foot]

theorem State.raise_keeps (hs : Keeps F S s) (hF : Foot.Sub State.raise_foot F) (p : Plane) (code : BitVec 16)
    (unit : Word) (args : List Word) :
    Keeps F S (State.raise s p code unit args) := by
  unfold State.raise
  repeat' first
    | with_reducible assumption | (with_reducible refine Foot.Sub.up hF ?_; decide +kernel)
    | ((first | intro x | (lift_lets; intro x))
       first
         | (refine Keeps.cut x ?_ (fun hx => ?_); rotate_left; clear_value x; rotate_left; unfold x)
         | clear_value x
         | skip)
    | with_reducible apply State.modHif_keeps | with_reducible apply State.evtStore_keeps
    | with_reducible apply Keeps.ite | with_reducible exact Keeps.refl _ _ | exact Nat.le_refl _

def State.raiseBoth_foot : Foot := State.raise_foot

theorem State.raiseBoth_keeps (hs : Keeps F S s) (hF : Foot.Sub State.raiseBoth_foot F) (code : BitVec 16)
    (unit : Word) (args : List Word) :
    Keeps F S (State.raiseBoth s code unit args) := by
  unfold State.raiseBoth
  repeat' first
    | with_reducible assumption | (with_reducible refine Foot.Sub.up hF ?_; decide +kernel)
    | with_reducible apply State.both_keeps | with_reducible apply State.raise_keeps | intro x
    | with_reducible exact Keeps.refl _ _

def State.firstError_foot : Foot := foot [] [.EPC_FIRST]

theorem State.firstError_keeps (hs : Keeps F S s) (hF : Foot.Sub State.firstError_foot F) (p : Plane)
    (seq : BitVec 32) (suppr folded : Bool) (code unit i0 i1 i2 : Nat) :
    Keeps F S (State.firstError s p seq suppr folded code unit i0 i1 i2) := by
  unfold State.firstError
  repeat' first
    | with_reducible assumption | (with_reducible refine Foot.Sub.up hF ?_; decide +kernel)
    | ((first | intro x | (lift_lets; intro x))
       first
         | (refine Keeps.cut x ?_ (fun hx => ?_); rotate_left; clear_value x; rotate_left; unfold x)
         | clear_value x
         | skip)
    | with_reducible apply State.setWords_keeps | with_reducible apply Keeps.ite
    | with_reducible exact Keeps.refl _ _

def State.noteU_foot : Foot := foot [.epc] []

theorem State.noteU_keeps (hs : Keeps F S s) (hF : Foot.Sub State.noteU_foot F) (p : Plane) (code unit : Nat) :
    Keeps F S (State.noteU s p code unit) := by
  unfold State.noteU
  repeat' first
    | with_reducible assumption | (with_reducible refine Foot.Sub.up hF ?_; decide +kernel)
    | ((first | intro x | (lift_lets; intro x))
       first
         | (refine Keeps.cut x ?_ (fun hx => ?_); rotate_left; clear_value x; rotate_left; unfold x)
         | clear_value x
         | skip)
    | with_reducible apply State.modEpc_keeps | split | with_reducible exact Keeps.refl _ _

def State.noteElem_foot : Foot := foot [.epc] []

theorem State.noteElem_keeps (hs : Keeps F S s) (hF : Foot.Sub State.noteElem_foot F) (p : Plane) (k : Nat) :
    Keeps F S (State.noteElem s p k) := by
  unfold State.noteElem
  repeat' first
    | with_reducible assumption | (with_reducible refine Foot.Sub.up hF ?_; decide +kernel)
    | ((first | intro x | (lift_lets; intro x))
       first
         | (refine Keeps.cut x ?_ (fun hx => ?_); rotate_left; clear_value x; rotate_left; unfold x)
         | clear_value x
         | skip)
    | with_reducible apply State.modEpc_keeps | with_reducible exact Keeps.refl _ _

def State.logError_foot : Foot := Foot.join [foot [.epc] [.EPC_LOG, .EPC_LOG_WP, .EPC_LOG_OVF], State.noteU_foot,
  State.firstError_foot, State.raise_foot]

theorem State.logError_keeps (hs : Keeps F S s) (hF : Foot.Sub State.logError_foot F) (p : Plane)
    (code unit i0 i1 i2 : Nat) :
    Keeps F S (State.logError s p code unit i0 i1 i2) := by
  unfold State.logError
  repeat' first
    | with_reducible assumption | (with_reducible refine Foot.Sub.up hF ?_; decide +kernel)
    | ((first | intro x | (lift_lets; intro x))
       first
         | (refine Keeps.cut x ?_ (fun hx => ?_); rotate_left; clear_value x; rotate_left; unfold x)
         | clear_value x
         | skip)
    | with_reducible apply State.setWord_keeps | with_reducible apply State.modEpc_keeps
    | with_reducible apply State.setWords_keeps | with_reducible apply State.count_keeps
    | with_reducible apply State.noteU_keeps | with_reducible apply State.firstError_keeps
    | with_reducible apply State.raise_keeps | with_reducible apply Keeps.ite | split
    | with_reducible exact Keeps.refl _ _

def State.logRp_foot : Foot := foot [.epc] [.EPC_LOG_RP]

theorem State.logRp_keeps (hs : Keeps F S s) (hF : Foot.Sub State.logRp_foot F) (p : Plane) (v : Word) :
    Keeps F S (State.logRp s p v) := by
  unfold State.logRp
  repeat' first
    | with_reducible assumption | (with_reducible refine Foot.Sub.up hF ?_; decide +kernel)
    | ((first | intro x | (lift_lets; intro x))
       first
         | (refine Keeps.cut x ?_ (fun hx => ?_); rotate_left; clear_value x; rotate_left; unfold x)
         | clear_value x
         | skip)
    | with_reducible apply State.setWord_keeps | with_reducible apply State.modEpc_keeps
    | with_reducible apply Keeps.ite | with_reducible exact Keeps.refl _ _

def State.suppressError_foot : Foot := Foot.join [foot [] [.EPC_SUPPR_CNT], State.firstError_foot]

theorem State.suppressError_keeps (hs : Keeps F S s) (hF : Foot.Sub State.suppressError_foot F) (p : Plane)
    (code unit i0 i1 i2 : Nat) :
    Keeps F S (State.suppressError s p code unit i0 i1 i2) := by
  unfold State.suppressError
  repeat' first
    | with_reducible assumption | (with_reducible refine Foot.Sub.up hF ?_; decide +kernel)
    | with_reducible apply State.count_keeps | with_reducible apply State.firstError_keeps
    | with_reducible exact Keeps.refl _ _

end Sys2Proof.Machine
end

