-- ==== Sys2Proof/Laws/KeepMatch.lean ====
section
/-! SUPPORT. `Keeps` of the definitions of Machine/Match.lean, each with its footprint. -/

namespace Sys2Proof.Machine

set_option Elab.async false

variable {F : Foot} {S s : State}

def State.countMatch_foot : Foot := foot [.swc] [.TST_MATCH_CNT]

theorem State.countMatch_keeps (hs : Keeps F S s) (hF : Foot.Sub State.countMatch_foot F) (p : Plane) (r : Nat) :
    Keeps F S (State.countMatch s p r).2 := by
  unfold State.countMatch
  repeat' first
    | with_reducible assumption | (with_reducible refine Foot.Sub.up hF ?_; decide +kernel)
    | ((first | intro x | (lift_lets; intro x))
       first
         | (refine Keeps.cut x ?_ (fun hx => ?_); rotate_left; clear_value x; rotate_left; unfold x)
         | clear_value x
         | skip)
    | with_reducible apply State.count_keeps | with_reducible apply State.modSwc_keeps
    | with_reducible exact Keeps.refl _ _

def State.tap_foot : Foot := State.countMatch_foot

theorem State.tap_keeps (hs : Keeps F S s) (hF : Foot.Sub State.tap_foot F) (p : Plane) (t code : Nat)
    (k : Packet) :
    Keeps F S (State.tap s p t code k).2.2 := by
  unfold State.tap
  repeat' first
    | with_reducible assumption | (with_reducible refine Foot.Sub.up hF ?_; decide +kernel)
    | ((first | intro x | (lift_lets; intro x))
       first
         | (refine Keeps.cut x ?_ (fun hx => ?_); rotate_left; clear_value x; rotate_left; unfold x)
         | clear_value x
         | skip)
    | with_reducible apply State.countMatch_keeps | with_reducible apply State.foldl_keeps
    | with_reducible apply State.foldl_snd | with_reducible apply State.foldl_snd2 | with_reducible apply Keeps.ite
    | with_reducible apply Keeps.ite_snd | with_reducible refine Keeps.snd ?_ (by assumption) | split
    | with_reducible exact Keeps.refl _ _

def State.capture_foot : Foot := foot [.swc] [.SWC_MIR_DROP]

theorem State.capture_keeps (hs : Keeps F S s) (hF : Foot.Sub State.capture_foot F) (p : Plane) (type : Nat)
    (k : Packet) (stamp : BitVec 64) (code vc rule : Nat) (disc bad inj : Bool) :
    Keeps F S (State.capture s p type k stamp code vc rule disc bad inj) := by
  unfold State.capture
  repeat' first
    | with_reducible assumption | (with_reducible refine Foot.Sub.up hF ?_; decide +kernel)
    | ((first | intro x | (lift_lets; intro x))
       first
         | (refine Keeps.cut x ?_ (fun hx => ?_); rotate_left; clear_value x; rotate_left; unfold x)
         | clear_value x
         | skip)
    | with_reducible apply State.modSwc_keeps | with_reducible apply State.count_keeps
    | with_reducible apply Keeps.ite | with_reducible exact Keeps.refl _ _

def State.ingressTap_foot : Foot := Foot.join [State.tap_foot, State.capture_foot]

theorem State.ingressTap_keeps (hs : Keeps F S s) (hF : Foot.Sub State.ingressTap_foot F) (p : Plane)
    (k : Packet) (stamp : BitVec 64) (code vc : Nat) (disc bad : Bool) :
    Keeps F S (State.ingressTap s p k stamp code vc disc bad) := by
  unfold State.ingressTap
  repeat' first
    | with_reducible assumption | (with_reducible refine Foot.Sub.up hF ?_; decide +kernel)
    | ((first | intro x | (lift_lets; intro x))
       first
         | (refine Keeps.cut x ?_ (fun hx => ?_); rotate_left; clear_value x; rotate_left; unfold x)
         | clear_value x
         | skip)
    | with_reducible apply State.tap_keeps | with_reducible apply State.capture_keeps
    | with_reducible apply Keeps.ite | with_reducible refine Keeps.snd ?_ (by assumption) | split
    | with_reducible exact Keeps.refl _ _

def State.inject_foot : Foot := foot [.swc] [.TST_INJ_CNT, .TST_INJ]

theorem State.inject_keeps (hs : Keeps F S s) (hF : Foot.Sub State.inject_foot F) (p : Plane) (r code : Nat) :
    Keeps F S (State.inject s p r code).2 := by
  unfold State.inject
  repeat' first
    | with_reducible assumption | (with_reducible refine Foot.Sub.up hF ?_; decide +kernel)
    | ((first | intro x | (lift_lets; intro x))
       first
         | (refine Keeps.cut x ?_ (fun hx => ?_); rotate_left; clear_value x; rotate_left; unfold x)
         | clear_value x
         | skip)
    | with_reducible apply State.modSwc_keeps | with_reducible apply State.count_keeps
    | with_reducible apply State.setF_keeps | with_reducible apply Keeps.ite | with_reducible apply Keeps.ite_snd
    | with_reducible exact Keeps.refl _ _

def State.capPush_foot : Foot := State.ringWrite_foot

theorem State.capPush_keeps (hs : Keeps F S s) (hF : Foot.Sub State.capPush_foot F) (p : Plane) (type : Nat)
    (time : BitVec 64) (body : Bytes) :
    Keeps F S (State.capPush s p type time body) := by
  unfold State.capPush
  repeat' first
    | with_reducible assumption | (with_reducible refine Foot.Sub.up hF ?_; decide +kernel)
    | with_reducible apply State.ringWrite_keeps | with_reducible exact Keeps.refl _ _

def execMirrorRecord_foot : Foot := Foot.join [foot [.swc] [], State.capPush_foot]

theorem execMirrorRecord_keeps (hF : Foot.Sub execMirrorRecord_foot F) (p : Plane) (s : State) :
    ∃ t', execMirrorRecord p s = .next t' ∧ Keeps F s t' := by
  unfold execMirrorRecord
  refine ⟨_, rfl, ?_⟩
  repeat' first
    | with_reducible assumption | (with_reducible refine Foot.Sub.up hF ?_; decide +kernel)
    | with_reducible apply State.when_keeps | with_reducible apply State.modSwc_keeps
    | with_reducible apply State.capPush_keeps | intro x | with_reducible apply Keeps.ite | split
    | with_reducible exact Keeps.refl _ _

end Sys2Proof.Machine
end

