-- ==== Sys2Proof/Laws/KeepLine.lean ====
section
/-! SUPPORT. `Keeps` of the definitions of Machine/Line.lean, each with its footprint. -/

namespace Sys2Proof.Machine

set_option Elab.async false

variable {F : Foot} {S s : State}

def State.modLine_foot : Foot := foot [.line] []

theorem State.modLine_keeps (hs : Keeps F S s) (hF : Foot.Sub State.modLine_foot F) (p : Plane)
    (f : LineSt → LineSt) :
    Keeps F S (State.modLine s p f) := by
  unfold State.modLine
  repeat' first
    | with_reducible assumption | (with_reducible refine Foot.Sub.up hF ?_; decide +kernel)
    | with_reducible apply State.modPl_keeps | intro x | with_reducible exact Keeps.refl _ _
    | exact PlaneSt.Stays.part .line (hF.up (by decide +kernel)) (fun h => ⟨h.regs, h.committed, h.sram, h.lp, h.events⟩) rfl (fun b hb => by cases b <;> first | exact absurd rfl hb | exact rfl | exact ⟨rfl, rfl⟩ | trivial)

def State.modWire_foot : Foot := State.modLine_foot

theorem State.modWire_keeps (hs : Keeps F S s) (hF : Foot.Sub State.modWire_foot F) (p : Plane) (l : Nat)
    (f : LaneLine → LaneLine) :
    Keeps F S (State.modWire s p l f) := by
  unfold State.modWire
  repeat' first
    | with_reducible assumption | (with_reducible refine Foot.Sub.up hF ?_; decide +kernel)
    | with_reducible apply State.modLine_keeps | intro x | with_reducible exact Keeps.refl _ _

def State.modStream_foot : Foot := State.modLine_foot

theorem State.modStream_keeps (hs : Keeps F S s) (hF : Foot.Sub State.modStream_foot F) (p : Plane) (i : Nat)
    (f : PortLine → PortLine) :
    Keeps F S (State.modStream s p i f) := by
  unfold State.modStream
  repeat' first
    | with_reducible assumption | (with_reducible refine Foot.Sub.up hF ?_; decide +kernel)
    | with_reducible apply State.modLine_keeps | intro x | with_reducible exact Keeps.refl _ _

def State.drive_foot : Foot := State.modWire_foot

theorem State.drive_keeps (hs : Keeps F S s) (hF : Foot.Sub State.drive_foot F) (p : Plane) (l : Nat)
    (levels : List Nat) :
    Keeps F S (State.drive s p l levels) := by
  unfold State.drive
  repeat' first
    | with_reducible assumption | (with_reducible refine Foot.Sub.up hF ?_; decide +kernel)
    | with_reducible apply State.modWire_keeps | intro x | with_reducible apply Keeps.ite
    | with_reducible exact Keeps.refl _ _

def State.pairSend_foot : Foot := Foot.join [State.modWire_foot, State.drive_foot]

theorem State.pairSend_keeps (hs : Keeps F S s) (hF : Foot.Sub State.pairSend_foot F) (p : Plane) (l : Nat) :
    Keeps F S (State.pairSend s p l) := by
  unfold State.pairSend
  repeat' first
    | with_reducible assumption | (with_reducible refine Foot.Sub.up hF ?_; decide +kernel)
    | ((first | intro x | (lift_lets; intro x))
       first
         | (refine Keeps.cut x ?_ (fun hx => ?_); rotate_left; clear_value x; rotate_left; unfold x)
         | clear_value x
         | skip)
    | with_reducible apply State.modWire_keeps | with_reducible apply State.drive_keeps
    | with_reducible apply Keeps.ite | with_reducible exact Keeps.refl _ _

def State.laneBlock_foot : Foot := Foot.join [State.pairSend_foot, State.modWire_foot]

theorem State.laneBlock_keeps (hs : Keeps F S s) (hF : Foot.Sub State.laneBlock_foot F) (p : Plane) (l : Nat)
    (b : Block) :
    Keeps F S (State.laneBlock s p l b) := by
  unfold State.laneBlock
  repeat' first
    | with_reducible assumption | (with_reducible refine Foot.Sub.up hF ?_; decide +kernel)
    | with_reducible apply State.pairSend_keeps | with_reducible apply State.modWire_keeps | intro x
    | with_reducible exact Keeps.refl _ _

def State.deal_foot : Foot := Foot.join [State.laneBlock_foot, State.modStream_foot]

theorem State.deal_keeps (hs : Keeps F S s) (hF : Foot.Sub State.deal_foot F) (p : Plane) (i : Nat) (b : Block) :
    Keeps F S (State.deal s p i b) := by
  unfold State.deal
  repeat' first
    | with_reducible assumption | (with_reducible refine Foot.Sub.up hF ?_; decide +kernel)
    | ((first | intro x | (lift_lets; intro x))
       first
         | (refine Keeps.cut x ?_ (fun hx => ?_); rotate_left; clear_value x; rotate_left; unfold x)
         | clear_value x
         | skip)
    | with_reducible apply State.laneBlock_keeps | with_reducible apply State.modStream_keeps | split
    | with_reducible exact Keeps.refl _ _

def State.dealAll_foot : Foot := State.deal_foot

theorem State.dealAll_keeps (hs : Keeps F S s) (hF : Foot.Sub State.dealAll_foot F) (p : Plane) (i : Nat)
    (bs : List Block) :
    Keeps F S (State.dealAll s p i bs) := by
  unfold State.dealAll
  repeat' first
    | with_reducible assumption | (with_reducible refine Foot.Sub.up hF ?_; decide +kernel)
    | with_reducible apply State.each_keeps | with_reducible apply State.deal_keeps | intro x
    | with_reducible exact Keeps.refl _ _

def State.roundUp_foot : Foot := State.dealAll_foot

theorem State.roundUp_keeps (hs : Keeps F S s) (hF : Foot.Sub State.roundUp_foot F) (p : Plane) (i : Nat) :
    Keeps F S (State.roundUp s p i) := by
  unfold State.roundUp
  repeat' first
    | with_reducible assumption | (with_reducible refine Foot.Sub.up hF ?_; decide +kernel)
    | ((first | intro x | (lift_lets; intro x))
       first
         | (refine Keeps.cut x ?_ (fun hx => ?_); rotate_left; clear_value x; rotate_left; unfold x)
         | clear_value x
         | skip)
    | with_reducible apply State.dealAll_keeps | with_reducible apply Keeps.ite
    | with_reducible exact Keeps.refl _ _

def State.slotAll_foot : Foot := Foot.join [State.roundUp_foot, State.laneBlock_foot]

theorem State.slotAll_keeps (hs : Keeps F S s) (hF : Foot.Sub State.slotAll_foot F) (p : Plane) (i : Nat)
    (ls : List Nat) (f : Nat → Block) :
    Keeps F S (State.slotAll s p i ls f) := by
  unfold State.slotAll
  repeat' first
    | with_reducible assumption | (with_reducible refine Foot.Sub.up hF ?_; decide +kernel)
    | with_reducible apply State.each_keeps | with_reducible apply State.roundUp_keeps
    | with_reducible apply State.laneBlock_keeps | intro x | with_reducible exact Keeps.refl _ _

def State.pairFill_foot : Foot := Foot.join [State.roundUp_foot, State.laneBlock_foot]

theorem State.pairFill_keeps (hs : Keeps F S s) (hF : Foot.Sub State.pairFill_foot F) (p : Plane) (i : Nat)
    (ls : List Nat) :
    Keeps F S (State.pairFill s p i ls) := by
  unfold State.pairFill
  repeat' first
    | with_reducible assumption | (with_reducible refine Foot.Sub.up hF ?_; decide +kernel)
    | ((first | intro x | (lift_lets; intro x))
       first
         | (refine Keeps.cut x ?_ (fun hx => ?_); rotate_left; clear_value x; rotate_left; unfold x)
         | clear_value x
         | skip)
    | with_reducible apply State.each_keeps | with_reducible apply State.roundUp_keeps
    | with_reducible apply State.laneBlock_keeps | with_reducible apply Keeps.ite
    | with_reducible exact Keeps.refl _ _

def State.linePacket_foot : Foot := Foot.join [State.dealAll_foot, State.modStream_foot]

theorem State.linePacket_keeps (hs : Keeps F S s) (hF : Foot.Sub State.linePacket_foot F) (p : Plane) (i : Nat)
    (wh : Bool) (vc : Nat) (k : Packet) :
    Keeps F S (State.linePacket s p i wh vc k) := by
  unfold State.linePacket
  repeat' first
    | with_reducible assumption | (with_reducible refine Foot.Sub.up hF ?_; decide +kernel)
    | with_reducible apply State.dealAll_keeps | with_reducible apply State.modStream_keeps | intro x
    | with_reducible exact Keeps.refl _ _

def State.lineAbort_foot : Foot := Foot.join [State.dealAll_foot, State.modStream_foot]

theorem State.lineAbort_keeps (hs : Keeps F S s) (hF : Foot.Sub State.lineAbort_foot F) (p : Plane) (i : Nat)
    (vc units : Nat) (k : Packet) :
    Keeps F S (State.lineAbort s p i vc units k) := by
  unfold State.lineAbort
  repeat' first
    | with_reducible assumption | (with_reducible refine Foot.Sub.up hF ?_; decide +kernel)
    | ((first | intro x | (lift_lets; intro x))
       first
         | (refine Keeps.cut x ?_ (fun hx => ?_); rotate_left; clear_value x; rotate_left; unfold x)
         | clear_value x
         | skip)
    | with_reducible apply State.dealAll_keeps | with_reducible apply State.modStream_keeps
    | with_reducible exact Keeps.refl _ _

def State.resetWire_foot : Foot := State.modWire_foot

theorem State.resetWire_keeps (hs : Keeps F S s) (hF : Foot.Sub State.resetWire_foot F) (p : Plane) (l : Nat) :
    Keeps F S (State.resetWire s p l) := by
  unfold State.resetWire
  repeat' first
    | with_reducible assumption | (with_reducible refine Foot.Sub.up hF ?_; decide +kernel)
    | with_reducible apply State.modWire_keeps | intro x | with_reducible exact Keeps.refl _ _

def State.prbsCfg_foot : Foot := Foot.join [foot [] [.LNE_LANE_STAT], State.modWire_foot]

theorem State.prbsCfg_keeps (hs : Keeps F S s) (hF : Foot.Sub State.prbsCfg_foot F) (p : Plane) (l : Nat)
    (old : Word) :
    Keeps F S (State.prbsCfg s p l old) := by
  unfold State.prbsCfg
  repeat' first
    | with_reducible assumption | (with_reducible refine Foot.Sub.up hF ?_; decide +kernel)
    | ((first | intro x | (lift_lets; intro x))
       first
         | (refine Keeps.cut x ?_ (fun hx => ?_); rotate_left; clear_value x; rotate_left; unfold x)
         | clear_value x
         | skip)
    | with_reducible apply State.setFlag_keeps | with_reducible apply State.modWire_keeps
    | with_reducible apply Keeps.ite | with_reducible exact Keeps.refl _ _

def State.genTick_foot : Foot := Foot.join [State.drive_foot, State.modWire_foot]

theorem State.genTick_keeps (hs : Keeps F S s) (hF : Foot.Sub State.genTick_foot F) (p : Plane) (l : Nat) :
    Keeps F S (State.genTick s p l) := by
  unfold State.genTick
  repeat' first
    | with_reducible assumption | (with_reducible refine Foot.Sub.up hF ?_; decide +kernel)
    | ((first | intro x | (lift_lets; intro x))
       first
         | (refine Keeps.cut x ?_ (fun hx => ?_); rotate_left; clear_value x; rotate_left; unfold x)
         | clear_value x
         | skip)
    | with_reducible apply State.drive_keeps | with_reducible apply State.modWire_keeps
    | with_reducible exact Keeps.refl _ _

end Sys2Proof.Machine
end

