-- ==== Sys2Proof/Laws/KeepSwitch.lean ====
section
/-! SUPPORT. `Keeps` of the definitions of Machine/Switch.lean, each with its footprint. -/

namespace Sys2Proof.Machine

set_option Elab.async false

variable {F : Foot} {S s : State}

def State.setSide_foot : Foot := foot [.swc] []

theorem State.setSide_keeps (hs : Keeps F S s) (hF : Foot.Sub State.setSide_foot F) (p : Plane) (code vc : Nat)
    (e : Option SideEnt) :
    Keeps F S (State.setSide s p code vc e) := by
  unfold State.setSide
  repeat' first
    | with_reducible assumption | (with_reducible refine Foot.Sub.up hF ?_; decide +kernel)
    | with_reducible apply State.modSwc_keeps | intro x | with_reducible exact Keeps.refl _ _

def State.modCred_foot : Foot := foot [.lfp] []

theorem State.modCred_keeps (hs : Keeps F S s) (hF : Foot.Sub State.modCred_foot F) (p : Plane) (i vc : Nat)
    (f : Credit → Credit) :
    Keeps F S (State.modCred s p i vc f) := by
  unfold State.modCred
  repeat' first
    | with_reducible assumption | (with_reducible refine Foot.Sub.up hF ?_; decide +kernel)
    | with_reducible apply State.modLfp_keeps | intro x | with_reducible exact Keeps.refl _ _

def State.modLink_foot : Foot := foot [.lfp] []

theorem State.modLink_keeps (hs : Keeps F S s) (hF : Foot.Sub State.modLink_foot F) (p : Plane) (i : Nat)
    (f : LinkSt → LinkSt) :
    Keeps F S (State.modLink s p i f) := by
  unfold State.modLink
  repeat' first
    | with_reducible assumption | (with_reducible refine Foot.Sub.up hF ?_; decide +kernel)
    | with_reducible apply State.modLfp_keeps | intro x | with_reducible exact Keeps.refl _ _

def State.freeCredit_foot : Foot := State.modCred_foot

theorem State.freeCredit_keeps (hs : Keeps F S s) (hF : Foot.Sub State.freeCredit_foot F) (p : Plane)
    (src vc u sess : Nat) :
    Keeps F S (State.freeCredit s p src vc u sess) := by
  unfold State.freeCredit
  repeat' first
    | with_reducible assumption | (with_reducible refine Foot.Sub.up hF ?_; decide +kernel)
    | with_reducible apply State.modCred_keeps | with_reducible apply Keeps.ite
    | with_reducible exact Keeps.refl _ _

def State.setVoq_foot : Foot := foot [.swc] []

theorem State.setVoq_keeps (hs : Keeps F S s) (hF : Foot.Sub State.setVoq_foot F) (p : Plane) (key : Nat)
    (l : List VoqEnt) :
    Keeps F S (State.setVoq s p key l) := by
  unfold State.setVoq
  repeat' first
    | with_reducible assumption | (with_reducible refine Foot.Sub.up hF ?_; decide +kernel)
    | with_reducible apply State.modSwc_keeps | intro x | with_reducible exact Keeps.refl _ _

def State.setStg_foot : Foot := foot [.swc] []

theorem State.setStg_keeps (hs : Keeps F S s) (hF : Foot.Sub State.setStg_foot F) (p : Plane) (code vc : Nat)
    (l : List StageEnt) :
    Keeps F S (State.setStg s p code vc l) := by
  unfold State.setStg
  repeat' first
    | with_reducible assumption | (with_reducible refine Foot.Sub.up hF ?_; decide +kernel)
    | with_reducible apply State.modSwc_keeps | intro x | with_reducible apply Keeps.ite
    | with_reducible exact Keeps.refl _ _

def State.setPkt_foot : Foot := foot [.swc] []

theorem State.setPkt_keeps (hs : Keeps F S s) (hF : Foot.Sub State.setPkt_foot F) (p : Plane) (pid : Nat)
    (b : Option BufPkt) :
    Keeps F S (State.setPkt s p pid b) := by
  unfold State.setPkt
  repeat' first
    | with_reducible assumption | (with_reducible refine Foot.Sub.up hF ?_; decide +kernel)
    | with_reducible apply State.modSwc_keeps | intro x | with_reducible exact Keeps.refl _ _

def State.setTx_foot : Foot := foot [.swc] []

theorem State.setTx_keeps (hs : Keeps F S s) (hF : Foot.Sub State.setTx_foot F) (p : Plane) (code : Nat)
    (t : Option TxProg) :
    Keeps F S (State.setTx s p code t) := by
  unfold State.setTx
  repeat' first
    | with_reducible assumption | (with_reducible refine Foot.Sub.up hF ?_; decide +kernel)
    | with_reducible apply State.modSwc_keeps | intro x | with_reducible exact Keeps.refl _ _

def State.leaveBuffer_foot : Foot := Foot.join [State.setPkt_foot, State.freeCredit_foot]

theorem State.leaveBuffer_keeps (hs : Keeps F S s) (hF : Foot.Sub State.leaveBuffer_foot F) (p : Plane)
    (pid : Nat) :
    Keeps F S (State.leaveBuffer s p pid) := by
  unfold State.leaveBuffer
  repeat' first
    | with_reducible assumption | (with_reducible refine Foot.Sub.up hF ?_; decide +kernel)
    | ((first | intro x | (lift_lets; intro x))
       first
         | (refine Keeps.cut x ?_ (fun hx => ?_); rotate_left; clear_value x; rotate_left; unfold x)
         | clear_value x
         | skip)
    | with_reducible apply State.setPkt_keeps | with_reducible apply State.freeCredit_keeps
    | with_reducible apply Keeps.ite | split | with_reducible exact Keeps.refl _ _

def State.leaveIfGone_foot : Foot := State.leaveBuffer_foot

theorem State.leaveIfGone_keeps (hs : Keeps F S s) (hF : Foot.Sub State.leaveIfGone_foot F) (p : Plane)
    (pid : Nat) :
    Keeps F S (State.leaveIfGone s p pid) := by
  unfold State.leaveIfGone
  repeat' first
    | with_reducible assumption | (with_reducible refine Foot.Sub.up hF ?_; decide +kernel)
    | with_reducible apply State.leaveBuffer_keeps | intro x | with_reducible apply Keeps.ite
    | with_reducible exact Keeps.refl _ _

def State.dropCopy_foot : Foot := Foot.join [State.setPkt_foot, State.leaveBuffer_foot]

theorem State.dropCopy_keeps (hs : Keeps F S s) (hF : Foot.Sub State.dropCopy_foot F) (p : Plane)
    (pid code : Nat) :
    Keeps F S (State.dropCopy s p pid code) := by
  unfold State.dropCopy
  repeat' first
    | with_reducible assumption | (with_reducible refine Foot.Sub.up hF ?_; decide +kernel)
    | ((first | intro x | (lift_lets; intro x))
       first
         | (refine Keeps.cut x ?_ (fun hx => ?_); rotate_left; clear_value x; rotate_left; unfold x)
         | clear_value x
         | skip)
    | with_reducible apply State.setPkt_keeps | with_reducible apply State.leaveBuffer_keeps
    | with_reducible apply Keeps.ite | split | with_reducible exact Keeps.refl _ _

def State.enterVoqs_foot : Foot := Foot.join [State.setPkt_foot, State.setVoq_foot]

theorem State.enterVoqs_keeps (hs : Keeps F S s) (hF : Foot.Sub State.enterVoqs_foot F) (p : Plane) (pid : Nat)
    (b : BufPkt) :
    Keeps F S (State.enterVoqs s p pid b) := by
  unfold State.enterVoqs
  repeat' first
    | with_reducible assumption | (with_reducible refine Foot.Sub.up hF ?_; decide +kernel)
    | ((first | intro x | (lift_lets; intro x))
       first
         | (refine Keeps.cut x ?_ (fun hx => ?_); rotate_left; clear_value x; rotate_left; unfold x)
         | clear_value x
         | skip)
    | with_reducible apply State.each_keeps | with_reducible apply State.setPkt_keeps
    | with_reducible apply State.setVoq_keeps | with_reducible apply Keeps.ite
    | with_reducible exact Keeps.refl _ _

def State.overflow_foot : Foot := Foot.join [foot [] [.SWC_OVF_DISC], State.freeCredit_foot, State.raise_foot,
  State.logError_foot]

theorem State.overflow_keeps (hs : Keeps F S s) (hF : Foot.Sub State.overflow_foot F) (p : Plane) (b : BufPkt) :
    Keeps F S (State.overflow s p b) := by
  unfold State.overflow
  repeat' first
    | with_reducible assumption | (with_reducible refine Foot.Sub.up hF ?_; decide +kernel)
    | ((first | intro x | (lift_lets; intro x))
       first
         | (refine Keeps.cut x ?_ (fun hx => ?_); rotate_left; clear_value x; rotate_left; unfold x)
         | clear_value x
         | skip)
    | with_reducible apply State.count_keeps | with_reducible apply State.freeCredit_keeps
    | with_reducible apply State.raise_keeps | with_reducible apply State.logError_keeps
    | with_reducible exact Keeps.refl _ _

def State.enqueue_foot : Foot := Foot.join [foot [.swc] [], State.overflow_foot, State.enterVoqs_foot,
  State.freeCredit_foot]

theorem State.enqueue_keeps (hs : Keeps F S s) (hF : Foot.Sub State.enqueue_foot F) (p : Plane) (b : BufPkt) :
    Keeps F S (State.enqueue s p b) := by
  unfold State.enqueue
  repeat' first
    | with_reducible assumption | (with_reducible refine Foot.Sub.up hF ?_; decide +kernel)
    | ((first | intro x | (lift_lets; intro x))
       first
         | (refine Keeps.cut x ?_ (fun hx => ?_); rotate_left; clear_value x; rotate_left; unfold x)
         | clear_value x
         | skip)
    | with_reducible apply State.modSwc_keeps | with_reducible apply State.overflow_keeps
    | with_reducible apply State.enterVoqs_keeps | with_reducible apply State.freeCredit_keeps
    | with_reducible apply Keeps.ite | split | with_reducible exact Keeps.refl _ _

def State.retryKept_foot : Foot := Foot.join [foot [.swc] [], State.enqueue_foot]

theorem State.retryKept_keeps (hs : Keeps F S s) (hF : Foot.Sub State.retryKept_foot F) (p : Plane) :
    Keeps F S (State.retryKept s p) := by
  unfold State.retryKept
  repeat' first
    | with_reducible assumption | (with_reducible refine Foot.Sub.up hF ?_; decide +kernel)
    | ((first | intro x | (lift_lets; intro x))
       first
         | (refine Keeps.cut x ?_ (fun hx => ?_); rotate_left; clear_value x; rotate_left; unfold x)
         | clear_value x
         | skip)
    | with_reducible apply State.each_keeps | with_reducible apply State.modSwc_keeps
    | with_reducible apply State.enqueue_keeps | with_reducible exact Keeps.refl _ _

def State.purgeCopy_foot : Foot := Foot.join [State.leaveIfGone_foot, State.setVoq_foot, State.setStg_foot,
  State.dropCopy_foot]

theorem State.purgeCopy_keeps (hs : Keeps F S s) (hF : Foot.Sub State.purgeCopy_foot F) (p : Plane)
    (pid code : Nat) :
    Keeps F S (State.purgeCopy s p pid code) := by
  unfold State.purgeCopy
  repeat' first
    | with_reducible assumption | (with_reducible refine Foot.Sub.up hF ?_; decide +kernel)
    | ((first | intro x | (lift_lets; intro x))
       first
         | (refine Keeps.cut x ?_ (fun hx => ?_); rotate_left; clear_value x; rotate_left; unfold x)
         | clear_value x
         | skip)
    | with_reducible apply State.leaveIfGone_keeps | with_reducible apply State.setVoq_keeps
    | with_reducible apply State.setStg_keeps | with_reducible apply State.dropCopy_keeps
    | with_reducible apply Keeps.ite | split | with_reducible exact Keeps.refl _ _

def State.endWh_foot : Foot := foot [] [.LFP_PORT_STAT]

theorem State.endWh_keeps (hs : Keeps F S s) (hF : Foot.Sub State.endWh_foot F) (p : Plane) (code : Nat) :
    Keeps F S (State.endWh s p code) := by
  unfold State.endWh
  repeat' first
    | with_reducible assumption | (with_reducible refine Foot.Sub.up hF ?_; decide +kernel)
    | with_reducible apply State.setFlag_keeps | with_reducible apply Keeps.ite
    | with_reducible exact Keeps.refl _ _

def State.flushCode_foot : Foot := Foot.join [foot [.swc] [.SWC_PORT_FLUSH, .SWC_FLUSH_DISC], State.endWh_foot,
  State.setTx_foot, State.purgeCopy_foot]

theorem State.flushCode_keeps (hs : Keeps F S s) (hF : Foot.Sub State.flushCode_foot F) (p : Plane) (code : Nat) :
    Keeps F S (State.flushCode s p code) := by
  unfold State.flushCode
  repeat' first
    | with_reducible assumption | (with_reducible refine Foot.Sub.up hF ?_; decide +kernel)
    | ((first | intro x | (lift_lets; intro x))
       first
         | (refine Keeps.cut x ?_ (fun hx => ?_); rotate_left; clear_value x; rotate_left; unfold x)
         | clear_value x
         | skip)
    | with_reducible apply State.each_keeps | with_reducible apply State.count_keeps
    | with_reducible apply State.modSwc_keeps | with_reducible apply State.countN_keeps
    | with_reducible apply State.endWh_keeps | with_reducible apply State.setTx_keeps
    | with_reducible apply State.purgeCopy_keeps | split | with_reducible exact Keeps.refl _ _

def State.startHold_foot : Foot := foot [.swc] [.SWC_PORT_STAT]

theorem State.startHold_keeps (hs : Keeps F S s) (hF : Foot.Sub State.startHold_foot F) (p : Plane) (code : Nat) :
    Keeps F S (State.startHold s p code) := by
  unfold State.startHold
  repeat' first
    | with_reducible assumption | (with_reducible refine Foot.Sub.up hF ?_; decide +kernel)
    | ((first | intro x | (lift_lets; intro x))
       first
         | (refine Keeps.cut x ?_ (fun hx => ?_); rotate_left; clear_value x; rotate_left; unfold x)
         | clear_value x
         | skip)
    | with_reducible apply State.setFlag_keeps | with_reducible apply State.modSwc_keeps
    | with_reducible apply Keeps.ite | with_reducible exact Keeps.refl _ _

def State.cancelHold_foot : Foot := foot [.swc] [.SWC_PORT_STAT]

theorem State.cancelHold_keeps (hs : Keeps F S s) (hF : Foot.Sub State.cancelHold_foot F) (p : Plane)
    (code : Nat) :
    Keeps F S (State.cancelHold s p code) := by
  unfold State.cancelHold
  repeat' first
    | with_reducible assumption | (with_reducible refine Foot.Sub.up hF ?_; decide +kernel)
    | with_reducible apply State.setFlag_keeps | with_reducible apply State.modSwc_keeps | intro x
    | with_reducible exact Keeps.refl _ _

def State.endHold_foot : Foot := Foot.join [State.raise_foot, State.cancelHold_foot]

theorem State.endHold_keeps (hs : Keeps F S s) (hF : Foot.Sub State.endHold_foot F) (p : Plane) (code : Nat) :
    Keeps F S (State.endHold s p code) := by
  unfold State.endHold
  repeat' first
    | with_reducible assumption | (with_reducible refine Foot.Sub.up hF ?_; decide +kernel)
    | with_reducible apply State.raise_keeps | with_reducible apply State.cancelHold_keeps
    | with_reducible apply Keeps.ite | with_reducible exact Keeps.refl _ _

def State.ageDiscard_foot : Foot := Foot.join [foot [] [.LFP_AGE_DISC], State.purgeCopy_foot]

theorem State.ageDiscard_keeps (hs : Keeps F S s) (hF : Foot.Sub State.ageDiscard_foot F) (p : Plane)
    (pid code : Nat) :
    Keeps F S (State.ageDiscard s p pid code) := by
  unfold State.ageDiscard
  repeat' first
    | with_reducible assumption | (with_reducible refine Foot.Sub.up hF ?_; decide +kernel)
    | with_reducible apply State.count_keeps | with_reducible apply State.purgeCopy_keeps
    | with_reducible exact Keeps.refl _ _

def State.headCheck_foot : Foot := Foot.join [foot [] [.LFP_AGE_DISC], State.purgeCopy_foot, State.setVoq_foot]

theorem State.headCheck_keeps (hs : Keeps F S s) (hF : Foot.Sub State.headCheck_foot F) (n : Nat) (a1 : Plane)
    (a2 : Nat) :
    Keeps F S (State.headCheck n s a1 a2) := by
  induction n generalizing s a1 a2 with
  | zero => unfold State.headCheck; exact hs
  | succ n ih =>
    unfold State.headCheck
    repeat' first
      | with_reducible assumption | (with_reducible refine Foot.Sub.up hF ?_; decide +kernel)
      | ((first | intro x | (lift_lets; intro x))
         first
           | (refine Keeps.cut x ?_ (fun hx => ?_); rotate_left; clear_value x; rotate_left; unfold x)
           | clear_value x
           | skip)
      | with_reducible apply ih | with_reducible apply State.each_keeps | with_reducible apply State.count_keeps
      | with_reducible apply State.purgeCopy_keeps | with_reducible apply State.setVoq_keeps
      | with_reducible apply Keeps.ite | split | with_reducible exact Keeps.refl _ _

def State.cellFill_foot : Foot := Foot.join [State.setVoq_foot, State.leaveIfGone_foot, State.headCheck_foot]

theorem State.cellFill_keeps (hs : Keeps F S s) (hF : Foot.Sub State.cellFill_foot F) (n : Nat) (a1 : Plane)
    (a2 : Nat) (a3 : Nat) (a4 : List CellPart) :
    Keeps F S (State.cellFill n s a1 a2 a3 a4).2 := by
  induction n generalizing s a1 a2 a3 a4 with
  | zero => unfold State.cellFill; exact hs
  | succ n ih =>
    unfold State.cellFill
    repeat' first
      | with_reducible assumption | (with_reducible refine Foot.Sub.up hF ?_; decide +kernel)
      | ((first | intro x | (lift_lets; intro x))
         first
           | (refine Keeps.cut x ?_ (fun hx => ?_); rotate_left; clear_value x; rotate_left; unfold x)
           | clear_value x
           | skip)
      | with_reducible apply ih | with_reducible apply State.setVoq_keeps
      | with_reducible apply State.leaveIfGone_keeps | with_reducible apply State.headCheck_keeps
      | with_reducible apply Keeps.ite | with_reducible apply Keeps.ite_snd | split
      | with_reducible exact Keeps.refl _ _

def State.sendCell_foot : Foot := Foot.join [foot [.swc] [], State.cellFill_foot]

theorem State.sendCell_keeps (hs : Keeps F S s) (hF : Foot.Sub State.sendCell_foot F) (p : Plane)
    (keys : List Nat) (i e el : Nat) :
    Keeps F S (State.sendCell s p keys i e el) := by
  unfold State.sendCell
  repeat' first
    | with_reducible assumption | (with_reducible refine Foot.Sub.up hF ?_; decide +kernel)
    | ((first | intro x | (lift_lets; intro x))
       first
         | (refine Keeps.cut x ?_ (fun hx => ?_); rotate_left; clear_value x; rotate_left; unfold x)
         | clear_value x
         | skip)
    | with_reducible apply State.modSwc_keeps | with_reducible apply State.cellFill_keeps
    | with_reducible apply Keeps.ite | with_reducible refine Keeps.snd ?_ (by assumption) | split
    | with_reducible exact Keeps.refl _ _

def State.cellStep_foot : Foot := Foot.join [foot [.swc] [], State.retryKept_foot, State.headCheck_foot,
  State.sendCell_foot]

theorem State.cellStep_keeps (hs : Keeps F S s) (hF : Foot.Sub State.cellStep_foot F) (p : Plane) :
    Keeps F S (State.cellStep s p) := by
  unfold State.cellStep
  repeat' first
    | with_reducible assumption | (with_reducible refine Foot.Sub.up hF ?_; decide +kernel)
    | ((first | intro x | (lift_lets; intro x))
       first
         | (refine Keeps.cut x ?_ (fun hx => ?_); rotate_left; clear_value x; rotate_left; unfold x)
         | clear_value x
         | skip)
    | with_reducible apply State.each_keeps | with_reducible apply State.modSwc_keeps
    | with_reducible apply State.retryKept_keeps | with_reducible apply State.headCheck_keeps
    | with_reducible apply State.sendCell_keeps | with_reducible exact Keeps.refl _ _

def State.ceMark_foot : Foot := foot [.free] []

theorem State.ceMark_keeps (hs : Keeps F S s) (hF : Foot.Sub State.ceMark_foot F) (p : Plane) (q : Nat) :
    Keeps F S (State.ceMark s p q).2 := by
  unfold State.ceMark
  repeat' first
    | with_reducible assumption | (with_reducible refine Foot.Sub.up hF ?_; decide +kernel)
    | ((first | intro x | (lift_lets; intro x))
       first
         | (refine Keeps.cut x ?_ (fun hx => ?_); rotate_left; clear_value x; rotate_left; unfold x)
         | clear_value x
         | skip)
    | with_reducible apply State.takeFree_keeps | with_reducible apply Keeps.ite
    | with_reducible apply Keeps.ite_snd | with_reducible refine Keeps.snd ?_ (by assumption) | split
    | with_reducible exact Keeps.refl _ _

def State.countTx_foot : Foot := foot [.rte] []

theorem State.countTx_keeps (hs : Keeps F S s) (hF : Foot.Sub State.countTx_foot F) (p : Plane) (code : Nat)
    (ceSet : Bool) :
    Keeps F S (State.countTx s p code ceSet) := by
  unfold State.countTx
  repeat' first
    | with_reducible assumption | (with_reducible refine Foot.Sub.up hF ?_; decide +kernel)
    | with_reducible apply State.modRte_keeps | intro x | with_reducible apply Keeps.ite
    | with_reducible exact Keeps.refl _ _

def State.halTold_foot : Foot := State.modCred_foot

theorem State.halTold_keeps (hs : Keeps F S s) (hF : Foot.Sub State.halTold_foot F) (p : Plane) :
    Keeps F S (State.halTold s p) := by
  unfold State.halTold
  repeat' first
    | with_reducible assumption | (with_reducible refine Foot.Sub.up hF ?_; decide +kernel)
    | with_reducible apply State.each_keeps | with_reducible apply State.modCred_keeps | intro x
    | with_reducible exact Keeps.refl _ _

def State.halKeep_foot : Foot := Foot.join [foot [.swc] [], State.halTold_foot]

theorem State.halKeep_keeps (hs : Keeps F S s) (hF : Foot.Sub State.halKeep_foot F) (p : Plane) (f : HalFlit) :
    Keeps F S (State.halKeep s p f) := by
  unfold State.halKeep
  repeat' first
    | with_reducible assumption | (with_reducible refine Foot.Sub.up hF ?_; decide +kernel)
    | with_reducible apply State.modSwc_keeps | with_reducible apply State.halTold_keeps | intro x
    | with_reducible exact Keeps.refl _ _

def State.halSend_foot : Foot := Foot.join [foot [.out] [], State.halKeep_foot]

theorem State.halSend_keeps (hs : Keeps F S s) (hF : Foot.Sub State.halSend_foot F) (p : Plane) (data : Bytes)
    (vc : Nat) (sopm nu : Nat) (kind : Nat) (nak : Bool) :
    Keeps F S (State.halSend s p data vc sopm nu kind nak) := by
  unfold State.halSend
  repeat' first
    | with_reducible assumption | (with_reducible refine Foot.Sub.up hF ?_; decide +kernel)
    | ((first | intro x | (lift_lets; intro x))
       first
         | (refine Keeps.cut x ?_ (fun hx => ?_); rotate_left; clear_value x; rotate_left; unfold x)
         | clear_value x
         | skip)
    | with_reducible apply State.emit_keeps | with_reducible apply State.halKeep_keeps
    | with_reducible exact Keeps.refl _ _

def State.halCtlOut_foot : Foot := Foot.join [foot [.out] [], State.halKeep_foot]

theorem State.halCtlOut_keeps (hs : Keeps F S s) (hF : Foot.Sub State.halCtlOut_foot F) (p : Plane) (cls : Byte)
    (data : Bytes) :
    Keeps F S (State.halCtlOut s p cls data) := by
  unfold State.halCtlOut
  repeat' first
    | with_reducible assumption | (with_reducible refine Foot.Sub.up hF ?_; decide +kernel)
    | with_reducible apply State.emit_keeps | with_reducible apply State.halKeep_keeps
    | with_reducible exact Keeps.refl _ _

def State.halControl_foot : Foot := Foot.join [foot [.swc] [], State.halCtlOut_foot]

theorem State.halControl_keeps (hs : Keeps F S s) (hF : Foot.Sub State.halControl_foot F) (p : Plane)
    (cls : Byte) (data : Bytes) :
    Keeps F S (State.halControl s p cls data) := by
  unfold State.halControl
  repeat' first
    | with_reducible assumption | (with_reducible refine Foot.Sub.up hF ?_; decide +kernel)
    | with_reducible apply State.modSwc_keeps | with_reducible apply State.halCtlOut_keeps | intro x
    | with_reducible apply Keeps.ite | with_reducible exact Keeps.refl _ _

def State.halPacket_foot : Foot := State.halSend_foot

theorem State.halPacket_keeps (hs : Keeps F S s) (hF : Foot.Sub State.halPacket_foot F) (p : Plane) (vc : Nat)
    (k : Packet) :
    Keeps F S (State.halPacket s p vc k) := by
  unfold State.halPacket
  repeat' first
    | with_reducible assumption | (with_reducible refine Foot.Sub.up hF ?_; decide +kernel)
    | ((first | intro x | (lift_lets; intro x))
       first
         | (refine Keeps.cut x ?_ (fun hx => ?_); rotate_left; clear_value x; rotate_left; unfold x)
         | clear_value x
         | skip)
    | with_reducible apply State.halSend_keeps | with_reducible apply State.foldl_keeps
    | with_reducible apply State.foldl_snd | with_reducible apply State.foldl_snd2 | with_reducible apply Keeps.ite
    | with_reducible exact Keeps.refl _ _

def State.finishTx_foot : Foot := Foot.join [foot [.out] [], State.halPacket_foot, State.linePacket_foot,
  State.setTx_foot, State.dropCopy_foot]

theorem State.finishTx_keeps (hs : Keeps F S s) (hF : Foot.Sub State.finishTx_foot F) (p : Plane) (code : Nat)
    (t : TxProg) :
    Keeps F S (State.finishTx s p code t) := by
  unfold State.finishTx
  repeat' first
    | with_reducible assumption | (with_reducible refine Foot.Sub.up hF ?_; decide +kernel)
    | ((first | intro x | (lift_lets; intro x))
       first
         | (refine Keeps.cut x ?_ (fun hx => ?_); rotate_left; clear_value x; rotate_left; unfold x)
         | clear_value x
         | skip)
    | with_reducible apply State.emit_keeps | with_reducible apply State.halPacket_keeps
    | with_reducible apply State.linePacket_keeps | with_reducible apply State.setTx_keeps
    | with_reducible apply State.dropCopy_keeps | with_reducible apply Keeps.ite
    | with_reducible exact Keeps.refl _ _

def State.linkBlock_foot : Foot := Foot.join [foot [.out] [], State.deal_foot]

theorem State.linkBlock_keeps (hs : Keeps F S s) (hF : Foot.Sub State.linkBlock_foot F) (p : Plane) (i : Nat)
    (bytes : Bytes) :
    Keeps F S (State.linkBlock s p i bytes) := by
  unfold State.linkBlock
  repeat' first
    | with_reducible assumption | (with_reducible refine Foot.Sub.up hF ?_; decide +kernel)
    | with_reducible apply State.emit_keeps | with_reducible apply State.deal_keeps
    | with_reducible exact Keeps.refl _ _

def State.sentSend_foot : Foot := State.linkBlock_foot

theorem State.sentSend_keeps (hs : Keeps F S s) (hF : Foot.Sub State.sentSend_foot F) (p : Plane) (i : Nat) :
    Keeps F S (State.sentSend s p i) := by
  unfold State.sentSend
  repeat' first
    | with_reducible assumption | (with_reducible refine Foot.Sub.up hF ?_; decide +kernel)
    | with_reducible apply State.linkBlock_keeps | intro x | with_reducible exact Keeps.refl _ _

def State.endBadTx_foot : Foot := Foot.join [foot [.out] [.LFP_PORT_STAT], State.sentSend_foot,
  State.lineAbort_foot, State.linePacket_foot, State.setStg_foot, State.setTx_foot, State.purgeCopy_foot]

theorem State.endBadTx_keeps (hs : Keeps F S s) (hF : Foot.Sub State.endBadTx_foot F) (p : Plane) (code : Nat)
    (t : TxProg) (have_ : Nat) :
    Keeps F S (State.endBadTx s p code t have_) := by
  unfold State.endBadTx
  repeat' first
    | with_reducible assumption | (with_reducible refine Foot.Sub.up hF ?_; decide +kernel)
    | ((first | intro x | (lift_lets; intro x))
       first
         | (refine Keeps.cut x ?_ (fun hx => ?_); rotate_left; clear_value x; rotate_left; unfold x)
         | clear_value x
         | skip)
    | with_reducible apply State.setFlag_keeps | with_reducible apply State.emit_keeps
    | with_reducible apply State.sentSend_keeps | with_reducible apply State.lineAbort_keeps
    | with_reducible apply State.linePacket_keeps | with_reducible apply State.setStg_keeps
    | with_reducible apply State.setTx_keeps | with_reducible apply State.purgeCopy_keeps
    | with_reducible apply Keeps.ite | with_reducible exact Keeps.refl _ _

def State.sideOut_foot : Foot := Foot.join [foot [.out] [], State.countTx_foot, State.modCred_foot,
  State.capture_foot, State.linePacket_foot]

theorem State.sideOut_keeps (hs : Keeps F S s) (hF : Foot.Sub State.sideOut_foot F) (p : Plane) (i vc : Nat)
    (e : SideEnt) :
    Keeps F S (State.sideOut s p i vc e) := by
  unfold State.sideOut
  repeat' first
    | with_reducible assumption | (with_reducible refine Foot.Sub.up hF ?_; decide +kernel)
    | ((first | intro x | (lift_lets; intro x))
       first
         | (refine Keeps.cut x ?_ (fun hx => ?_); rotate_left; clear_value x; rotate_left; unfold x)
         | clear_value x
         | skip)
    | with_reducible apply State.emit_keeps | with_reducible apply State.countTx_keeps
    | with_reducible apply State.modCred_keeps | with_reducible apply State.capture_keeps
    | with_reducible apply State.linePacket_keeps | with_reducible apply Keeps.ite
    | with_reducible exact Keeps.refl _ _

def State.sideSend_foot : Foot := Foot.join [State.tap_foot, State.inject_foot, State.setSide_foot,
  State.sideOut_foot]

theorem State.sideSend_keeps (hs : Keeps F S s) (hF : Foot.Sub State.sideSend_foot F) (p : Plane) (i : Nat)
    (what : SideWhat) (k : Packet) :
    Keeps F S (State.sideSend s p i what k) := by
  unfold State.sideSend
  repeat' first
    | with_reducible assumption | (with_reducible refine Foot.Sub.up hF ?_; decide +kernel)
    | ((first | intro x | (lift_lets; intro x))
       first
         | (refine Keeps.cut x ?_ (fun hx => ?_); rotate_left; clear_value x; rotate_left; unfold x)
         | clear_value x
         | skip)
    | with_reducible apply State.tap_keeps | with_reducible apply State.inject_keeps
    | with_reducible apply State.setSide_keeps | with_reducible apply State.sideOut_keeps
    | with_reducible apply Keeps.ite | with_reducible refine Keeps.snd ?_ (by assumption) | split
    | with_reducible exact Keeps.refl _ _

def State.portSend_foot : Foot := State.sideSend_foot

theorem State.portSend_keeps (hs : Keeps F S s) (hF : Foot.Sub State.portSend_foot F) (p : Plane) (i : Nat)
    (k : Packet) :
    Keeps F S (State.portSend s p i k) := by
  unfold State.portSend
  repeat' first
    | with_reducible assumption | (with_reducible refine Foot.Sub.up hF ?_; decide +kernel)
    | with_reducible apply State.sideSend_keeps | with_reducible exact Keeps.refl _ _

def State.sidePump_foot : Foot := Foot.join [State.sideOut_foot, State.setSide_foot]

theorem State.sidePump_keeps (hs : Keeps F S s) (hF : Foot.Sub State.sidePump_foot F) (p : Plane) (i : Nat) :
    Keeps F S (State.sidePump s p i) := by
  unfold State.sidePump
  repeat' first
    | with_reducible assumption | (with_reducible refine Foot.Sub.up hF ?_; decide +kernel)
    | with_reducible apply State.each_keeps | with_reducible apply State.sideOut_keeps
    | with_reducible apply State.setSide_keeps | intro x | with_reducible apply Keeps.ite | split
    | with_reducible exact Keeps.refl _ _

def State.sideFree_foot : Foot := Foot.join [State.sidePump_foot, State.setSide_foot]

theorem State.sideFree_keeps (hs : Keeps F S s) (hF : Foot.Sub State.sideFree_foot F) (p : Plane) (i vc : Nat) :
    Keeps F S (State.sideFree s p i vc) := by
  unfold State.sideFree
  repeat' first
    | with_reducible assumption | (with_reducible refine Foot.Sub.up hF ?_; decide +kernel)
    | with_reducible apply State.sidePump_keeps | with_reducible apply State.setSide_keeps | split
    | with_reducible exact Keeps.refl _ _

def State.enterStage_foot : Foot := Foot.join [State.setStg_foot, State.finishTx_foot, State.setTx_foot]

theorem State.enterStage_keeps (hs : Keeps F S s) (hF : Foot.Sub State.enterStage_foot F) (p : Plane)
    (code vc : Nat) (c : Cell) (q : CellPart) :
    Keeps F S (State.enterStage s p code vc c q) := by
  unfold State.enterStage
  repeat' first
    | with_reducible assumption | (with_reducible refine Foot.Sub.up hF ?_; decide +kernel)
    | ((first | intro x | (lift_lets; intro x))
       first
         | (refine Keeps.cut x ?_ (fun hx => ?_); rotate_left; clear_value x; rotate_left; unfold x)
         | clear_value x
         | skip)
    | with_reducible apply State.setStg_keeps | with_reducible apply State.finishTx_keeps
    | with_reducible apply State.setTx_keeps | with_reducible apply Keeps.ite | split
    | with_reducible exact Keeps.refl _ _

def State.release_foot : Foot := State.enterStage_foot

theorem State.release_keeps (hs : Keeps F S s) (hF : Foot.Sub State.release_foot F) (p : Plane) (c : Cell) :
    Keeps F S (State.release s p c) := by
  unfold State.release
  repeat' first
    | with_reducible assumption | (with_reducible refine Foot.Sub.up hF ?_; decide +kernel)
    | with_reducible apply State.each_keeps | with_reducible apply State.enterStage_keeps | intro x
    | with_reducible exact Keeps.refl _ _

def State.reseqRun_foot : Foot := Foot.join [foot [.swc] [], State.release_foot]

theorem State.reseqRun_keeps (hs : Keeps F S s) (hF : Foot.Sub State.reseqRun_foot F) (n : Nat) (a1 : Plane)
    (a2 : Nat) :
    Keeps F S (State.reseqRun n s a1 a2) := by
  induction n generalizing s a1 a2 with
  | zero => unfold State.reseqRun; exact hs
  | succ n ih =>
    unfold State.reseqRun
    repeat' first
      | with_reducible assumption | (with_reducible refine Foot.Sub.up hF ?_; decide +kernel)
      | ((first | intro x | (lift_lets; intro x))
         first
           | (refine Keeps.cut x ?_ (fun hx => ?_); rotate_left; clear_value x; rotate_left; unfold x)
           | clear_value x
           | skip)
      | with_reducible apply ih | with_reducible apply State.modSwc_keeps | with_reducible apply State.release_keeps
      | split | with_reducible exact Keeps.refl _ _

def State.reseqPut_foot : Foot := Foot.join [foot [.swc] [], State.reseqRun_foot]

theorem State.reseqPut_keeps (hs : Keeps F S s) (hF : Foot.Sub State.reseqPut_foot F) (p : Plane)
    (src dst : Nat) (pseq : BitVec 12) (c : Option Cell) :
    Keeps F S (State.reseqPut s p src dst pseq c) := by
  unfold State.reseqPut
  repeat' first
    | with_reducible assumption | (with_reducible refine Foot.Sub.up hF ?_; decide +kernel)
    | ((first | intro x | (lift_lets; intro x))
       first
         | (refine Keeps.cut x ?_ (fun hx => ?_); rotate_left; clear_value x; rotate_left; unfold x)
         | clear_value x
         | skip)
    | with_reducible apply State.modSwc_keeps | with_reducible apply State.reseqRun_keeps
    | with_reducible exact Keeps.refl _ _

def State.loseCell_foot : Foot := Foot.join [foot [] [.SWC_RESEQ_LOSS, .SWC_SPINE_ERR], State.logError_foot,
  State.noteElem_foot, State.endBadTx_foot, State.purgeCopy_foot, State.reseqPut_foot]

theorem State.loseCell_keeps (hs : Keeps F S s) (hF : Foot.Sub State.loseCell_foot F) (p : Plane) (c : Cell)
    (cause : Nat) :
    Keeps F S (State.loseCell s p c cause) := by
  unfold State.loseCell
  repeat' first
    | with_reducible assumption | (with_reducible refine Foot.Sub.up hF ?_; decide +kernel)
    | ((first | intro x | (lift_lets; intro x))
       first
         | (refine Keeps.cut x ?_ (fun hx => ?_); rotate_left; clear_value x; rotate_left; unfold x)
         | clear_value x
         | skip)
    | with_reducible apply State.count_keeps | with_reducible apply State.each_keeps
    | with_reducible apply State.logError_keeps | with_reducible apply State.noteElem_keeps
    | with_reducible apply State.endBadTx_keeps | with_reducible apply State.purgeCopy_keeps
    | with_reducible apply State.reseqPut_keeps | with_reducible apply Keeps.ite | split
    | with_reducible exact Keeps.refl _ _

def State.landed_foot : Foot := foot [.swc] []

theorem State.landed_keeps (hs : Keeps F S s) (hF : Foot.Sub State.landed_foot F) (p : Plane) (c : Cell) :
    Keeps F S (State.landed s p c) := by
  unfold State.landed
  repeat' first
    | with_reducible assumption | (with_reducible refine Foot.Sub.up hF ?_; decide +kernel)
    | with_reducible apply State.modSwc_keeps | intro x | with_reducible exact Keeps.refl _ _

def execCellTime_foot : Foot := State.cellStep_foot

theorem execCellTime_keeps (hF : Foot.Sub execCellTime_foot F) (p : Plane) (s : State) :
    ∃ t', execCellTime p s = .next t' ∧ Keeps F s t' := by
  unfold execCellTime
  refine ⟨_, rfl, ?_⟩
  repeat' first
    | with_reducible assumption | (with_reducible refine Foot.Sub.up hF ?_; decide +kernel)
    | with_reducible apply State.when_keeps | with_reducible apply State.cellStep_keeps | intro x
    | with_reducible exact Keeps.refl _ _

def State.cellIn_foot : Foot := Foot.join [State.landed_foot, State.loseCell_foot, State.reseqPut_foot]

theorem State.cellIn_keeps (hs : Keeps F S s) (hF : Foot.Sub State.cellIn_foot F) (p : Plane) (src dst : Fin 46)
    (pseq : BitVec 12) (hec : Bool) :
    Keeps F S (State.cellIn s p src dst pseq hec) := by
  unfold State.cellIn
  repeat' first
    | with_reducible assumption | (with_reducible refine Foot.Sub.up hF ?_; decide +kernel)
    | ((first | intro x | (lift_lets; intro x))
       first
         | (refine Keeps.cut x ?_ (fun hx => ?_); rotate_left; clear_value x; rotate_left; unfold x)
         | clear_value x
         | skip)
    | with_reducible apply State.landed_keeps | with_reducible apply State.loseCell_keeps
    | with_reducible apply State.reseqPut_keeps | with_reducible apply Keeps.ite | split
    | with_reducible exact Keeps.refl _ _

def State.reseqLoss_foot : Foot := Foot.join [State.loseCell_foot, State.landed_foot]

theorem State.reseqLoss_keeps (hs : Keeps F S s) (hF : Foot.Sub State.reseqLoss_foot F) (p : Plane)
    (src dst : Fin 46) :
    Keeps F S (State.reseqLoss s p src dst) := by
  unfold State.reseqLoss
  repeat' first
    | with_reducible assumption | (with_reducible refine Foot.Sub.up hF ?_; decide +kernel)
    | ((first | intro x | (lift_lets; intro x))
       first
         | (refine Keeps.cut x ?_ (fun hx => ?_); rotate_left; clear_value x; rotate_left; unfold x)
         | clear_value x
         | skip)
    | with_reducible apply State.loseCell_keeps | with_reducible apply State.landed_keeps
    | with_reducible apply Keeps.ite | split | with_reducible exact Keeps.refl _ _

def execHoldDownEnd_foot : Foot := State.endHold_foot

theorem execHoldDownEnd_keeps (hF : Foot.Sub execHoldDownEnd_foot F) (p : Plane) (code : Code) (s : State) :
    ∃ t', execHoldDownEnd p code s = .next t' ∧ Keeps F s t' := by
  unfold execHoldDownEnd
  refine ⟨_, rfl, ?_⟩
  repeat' first
    | with_reducible assumption | (with_reducible refine Foot.Sub.up hF ?_; decide +kernel)
    | with_reducible apply State.when_keeps | with_reducible apply State.endHold_keeps | intro x
    | with_reducible exact Keeps.refl _ _

def execHdClr_foot : Foot := State.endHold_foot

theorem execHdClr_keeps (hF : Foot.Sub execHdClr_foot F) (p : Plane) (code : Code) (s : State) :
    ∃ t', execHdClr p code s = .next t' ∧ Keeps F s t' := by
  unfold execHdClr
  refine ⟨_, rfl, ?_⟩
  repeat' first
    | with_reducible assumption | (with_reducible refine Foot.Sub.up hF ?_; decide +kernel)
    | with_reducible apply State.when_keeps | with_reducible apply State.endHold_keeps | intro x
    | with_reducible exact Keeps.refl _ _

end Sys2Proof.Machine
end

