-- ==== Sys2Proof/Laws/KeepRouting.lean ====
section
/-! SUPPORT. `Keeps` of the definitions of Machine/Routing.lean, each with its footprint. -/

namespace Sys2Proof.Machine

set_option Elab.async false

variable {F : Foot} {S s : State}

def State.flip_foot : Foot := foot [.rte] [.RTE_MARK_RX]

theorem State.flip_keeps (hs : Keeps F S s) (hF : Foot.Sub State.flip_foot F) (p : Plane) (i : Nat) :
    Keeps F S (State.flip s p i) := by
  unfold State.flip
  repeat' first
    | with_reducible assumption | (with_reducible refine Foot.Sub.up hF ?_; decide +kernel)
    | with_reducible apply State.setFlag_keeps | with_reducible apply State.modRte_keeps | intro x
    | with_reducible apply Keeps.ite | with_reducible exact Keeps.refl _ _

def State.markRx_foot : Foot := Foot.join [foot [] [.RTE_MARK_RX], State.flip_foot]

theorem State.markRx_keeps (hs : Keeps F S s) (hF : Foot.Sub State.markRx_foot F) (p : Plane) (i : Nat)
    (id : BitVec 16) :
    Keeps F S (State.markRx s p i id) := by
  unfold State.markRx
  repeat' first
    | with_reducible assumption | (with_reducible refine Foot.Sub.up hF ?_; decide +kernel)
    | ((first | intro x | (lift_lets; intro x))
       first
         | (refine Keeps.cut x ?_ (fun hx => ?_); rotate_left; clear_value x; rotate_left; unfold x)
         | clear_value x
         | skip)
    | with_reducible apply State.setFlag_keeps | with_reducible apply State.setF_keeps
    | with_reducible apply State.flip_keeps | with_reducible apply Keeps.ite | with_reducible exact Keeps.refl _ _

def State.sendMarker_foot : Foot := Foot.join [foot [.rte] [], State.sideSend_foot]

theorem State.sendMarker_keeps (hs : Keeps F S s) (hF : Foot.Sub State.sendMarker_foot F) (p : Plane) (i : Nat)
    (id : BitVec 16) :
    Keeps F S (State.sendMarker s p i id) := by
  unfold State.sendMarker
  repeat' first
    | with_reducible assumption | (with_reducible refine Foot.Sub.up hF ?_; decide +kernel)
    | with_reducible apply State.modRte_keeps | with_reducible apply State.sideSend_keeps | intro x
    | with_reducible apply Keeps.ite | with_reducible exact Keeps.refl _ _

def State.drainStart_foot : Foot := foot [.rte, .swc] [.RTE_DRAIN_STAT, .RTE_DRAIN_CTL, .RTE_MARK_RX]

theorem State.drainStart_keeps (hs : Keeps F S s) (hF : Foot.Sub State.drainStart_foot F) (p : Plane)
    (id : BitVec 16) :
    Keeps F S (State.drainStart s p id) := by
  unfold State.drainStart
  repeat' first
    | with_reducible assumption | (with_reducible refine Foot.Sub.up hF ?_; decide +kernel)
    | ((first | intro x | (lift_lets; intro x))
       first
         | (refine Keeps.cut x ?_ (fun hx => ?_); rotate_left; clear_value x; rotate_left; unfold x)
         | clear_value x
         | skip)
    | with_reducible apply State.setFlag_keeps | with_reducible apply State.setF_keeps
    | with_reducible apply State.modRte_keeps | with_reducible apply State.modSwc_keeps
    | with_reducible apply State.each_keeps | with_reducible apply Keeps.ite | with_reducible exact Keeps.refl _ _

def State.drainAbort_foot : Foot := Foot.join [foot [] [.RTE_DRAIN_STAT], State.flip_foot, State.raise_foot]

theorem State.drainAbort_keeps (hs : Keeps F S s) (hF : Foot.Sub State.drainAbort_foot F) (p : Plane) :
    Keeps F S (State.drainAbort s p) := by
  unfold State.drainAbort
  repeat' first
    | with_reducible assumption | (with_reducible refine Foot.Sub.up hF ?_; decide +kernel)
    | ((first | intro x | (lift_lets; intro x))
       first
         | (refine Keeps.cut x ?_ (fun hx => ?_); rotate_left; clear_value x; rotate_left; unfold x)
         | clear_value x
         | skip)
    | with_reducible apply State.each_keeps | with_reducible apply State.setFlag_keeps
    | with_reducible apply State.flip_keeps | with_reducible apply State.raise_keeps
    | with_reducible apply Keeps.ite | with_reducible exact Keeps.refl _ _

def State.drainDone_foot : Foot := Foot.join [foot [] [.RTE_DRAIN_STAT], State.raise_foot, State.sendMarker_foot]

theorem State.drainDone_keeps (hs : Keeps F S s) (hF : Foot.Sub State.drainDone_foot F) (p : Plane) :
    Keeps F S (State.drainDone s p) := by
  unfold State.drainDone
  repeat' first
    | with_reducible assumption | (with_reducible refine Foot.Sub.up hF ?_; decide +kernel)
    | ((first | intro x | (lift_lets; intro x))
       first
         | (refine Keeps.cut x ?_ (fun hx => ?_); rotate_left; clear_value x; rotate_left; unfold x)
         | clear_value x
         | skip)
    | with_reducible apply State.setFlag_keeps | with_reducible apply State.each_keeps
    | with_reducible apply State.raise_keeps | with_reducible apply State.sendMarker_keeps
    | with_reducible apply Keeps.ite | with_reducible exact Keeps.refl _ _

def State.routeIn_foot : Foot := Foot.join [foot [] [.SWC_FLUSH_DISC, .RTE_ESC_MOVE], State.freeCredit_foot,
  State.ingressTap_foot, State.discard1_foot, State.markRx_foot, State.enqueue_foot]

theorem State.routeIn_keeps (hs : Keeps F S s) (hF : Foot.Sub State.routeIn_foot F) (p : Plane)
    (src vc units : Nat) (k : Packet) (arr : Nat) (stamp : BitVec 64) (sess : Nat) (come : Come) :
    Keeps F S (State.routeIn s p src vc units k arr stamp sess come) := by
  unfold State.routeIn
  repeat' first
    | with_reducible assumption | (with_reducible refine Foot.Sub.up hF ?_; decide +kernel)
    | ((first | intro x | (lift_lets; intro x))
       first
         | (refine Keeps.cut x ?_ (fun hx => ?_); rotate_left; clear_value x; rotate_left; unfold x)
         | clear_value x
         | skip)
    | with_reducible apply State.count_keeps | with_reducible apply State.freeCredit_keeps
    | with_reducible apply State.ingressTap_keeps | with_reducible apply State.discard1_keeps
    | with_reducible apply State.markRx_keeps | with_reducible apply State.enqueue_keeps
    | with_reducible apply Keeps.ite | split | with_reducible exact Keeps.refl _ _

def State.originate_foot : Foot := State.routeIn_foot

theorem State.originate_keeps (hs : Keeps F S s) (hF : Foot.Sub State.originate_foot F) (p : Plane) (eng : Nat)
    (k : Packet) :
    Keeps F S (State.originate s p eng k) := by
  unfold State.originate
  repeat' first
    | with_reducible assumption | (with_reducible refine Foot.Sub.up hF ?_; decide +kernel)
    | with_reducible apply State.routeIn_keeps | with_reducible exact Keeps.refl _ _

def State.respondOn_foot : Foot := Foot.join [foot [] [.SWC_FLUSH_DISC, .RTE_NOPORT_DISC], State.enqueue_foot]

theorem State.respondOn_keeps (hs : Keeps F S s) (hF : Foot.Sub State.respondOn_foot F) (p : Plane)
    (eng code : Nat) (k : Packet) :
    Keeps F S (State.respondOn s p eng code k) := by
  unfold State.respondOn
  repeat' first
    | with_reducible assumption | (with_reducible refine Foot.Sub.up hF ?_; decide +kernel)
    | ((first | intro x | (lift_lets; intro x))
       first
         | (refine Keeps.cut x ?_ (fun hx => ?_); rotate_left; clear_value x; rotate_left; unfold x)
         | clear_value x
         | skip)
    | with_reducible apply State.count_keeps | with_reducible apply State.enqueue_keeps
    | with_reducible apply Keeps.ite | with_reducible exact Keeps.refl _ _

def State.escapeMove_foot : Foot := Foot.join [foot [] [.RTE_ESC_MOVE], State.setVoq_foot, State.setPkt_foot]

theorem State.escapeMove_keeps (hs : Keeps F S s) (hF : Foot.Sub State.escapeMove_foot F) (p : Plane)
    (slice code vc : Nat) :
    Keeps F S (State.escapeMove s p slice code vc) := by
  unfold State.escapeMove
  repeat' first
    | with_reducible assumption | (with_reducible refine Foot.Sub.up hF ?_; decide +kernel)
    | ((first | intro x | (lift_lets; intro x))
       first
         | (refine Keeps.cut x ?_ (fun hx => ?_); rotate_left; clear_value x; rotate_left; unfold x)
         | clear_value x
         | skip)
    | with_reducible apply State.count_keeps | with_reducible apply State.setVoq_keeps
    | with_reducible apply State.setPkt_keeps | with_reducible apply Keeps.ite | split
    | with_reducible exact Keeps.refl _ _

def State.cmapGap_foot : Foot := foot [.rte] []

theorem State.cmapGap_keeps (hs : Keeps F S s) (hF : Foot.Sub State.cmapGap_foot F) (p : Plane) (i : Nat) :
    Keeps F S (State.cmapGap s p i) := by
  unfold State.cmapGap
  repeat' first
    | with_reducible assumption | (with_reducible refine Foot.Sub.up hF ?_; decide +kernel)
    | with_reducible apply State.modRte_keeps | intro x | with_reducible exact Keeps.refl _ _

def State.cmapSample1_foot : Foot := foot [.rte] []

theorem State.cmapSample1_keeps (hs : Keeps F S s) (hF : Foot.Sub State.cmapSample1_foot F) (p : Plane)
    (i : Nat) :
    Keeps F S (State.cmapSample1 s p i) := by
  unfold State.cmapSample1
  repeat' first
    | with_reducible assumption | (with_reducible refine Foot.Sub.up hF ?_; decide +kernel)
    | ((first | intro x | (lift_lets; intro x))
       first
         | (refine Keeps.cut x ?_ (fun hx => ?_); rotate_left; clear_value x; rotate_left; unfold x)
         | clear_value x
         | skip)
    | with_reducible apply State.modRte_keeps | with_reducible exact Keeps.refl _ _

def State.cmapEnd_foot : Foot := Foot.join [foot [.rte] [.RTE_CMAP_SEQ, .RTE_CMAP, .RTE_CMAP_LOST],
  State.capPush_foot]

theorem State.cmapEnd_keeps (hs : Keeps F S s) (hF : Foot.Sub State.cmapEnd_foot F) (p : Plane) :
    Keeps F S (State.cmapEnd s p) := by
  unfold State.cmapEnd
  repeat' first
    | with_reducible assumption | (with_reducible refine Foot.Sub.up hF ?_; decide +kernel)
    | ((first | intro x | (lift_lets; intro x))
       first
         | (refine Keeps.cut x ?_ (fun hx => ?_); rotate_left; clear_value x; rotate_left; unfold x)
         | clear_value x
         | skip)
    | with_reducible apply State.setWord_keeps | with_reducible apply State.each_keeps
    | with_reducible apply State.count_keeps | with_reducible apply State.modRte_keeps
    | with_reducible apply State.capPush_keeps | with_reducible apply State.foldl_keeps
    | with_reducible apply State.foldl_snd | with_reducible apply State.foldl_snd2 | with_reducible apply Keeps.ite
    | with_reducible exact Keeps.refl _ _

def execDrainStart_foot : Foot := State.drainStart_foot

theorem execDrainStart_keeps (hF : Foot.Sub execDrainStart_foot F) (p : Plane) (id : BitVec 16) (s : State) :
    ∃ t', execDrainStart p id s = .next t' ∧ Keeps F s t' := by
  unfold execDrainStart
  refine ⟨_, rfl, ?_⟩
  repeat' first
    | with_reducible assumption | (with_reducible refine Foot.Sub.up hF ?_; decide +kernel)
    | with_reducible apply State.when_keeps | with_reducible apply State.drainStart_keeps | intro x
    | with_reducible exact Keeps.refl _ _

def execDrainAbort_foot : Foot := State.drainAbort_foot

theorem execDrainAbort_keeps (hF : Foot.Sub execDrainAbort_foot F) (p : Plane) (s : State) :
    ∃ t', execDrainAbort p s = .next t' ∧ Keeps F s t' := by
  unfold execDrainAbort
  refine ⟨_, rfl, ?_⟩
  repeat' first
    | with_reducible assumption | (with_reducible refine Foot.Sub.up hF ?_; decide +kernel)
    | with_reducible apply State.when_keeps | with_reducible apply State.drainAbort_keeps | intro x
    | with_reducible exact Keeps.refl _ _

def execDrainMarker_foot : Foot := State.markRx_foot

theorem execDrainMarker_keeps (hF : Foot.Sub execDrainMarker_foot F) (p : Plane) (i : Fin 576) (id : BitVec 16)
    (s : State) :
    ∃ t', execDrainMarker p i id s = .next t' ∧ Keeps F s t' := by
  unfold execDrainMarker
  refine ⟨_, rfl, ?_⟩
  repeat' first
    | with_reducible assumption | (with_reducible refine Foot.Sub.up hF ?_; decide +kernel)
    | with_reducible apply State.when_keeps | with_reducible apply State.markRx_keeps | intro x
    | with_reducible exact Keeps.refl _ _

def execRouteDrained_foot : Foot := State.drainDone_foot

theorem execRouteDrained_keeps (hF : Foot.Sub execRouteDrained_foot F) (p : Plane) (s : State) :
    ∃ t', execRouteDrained p s = .next t' ∧ Keeps F s t' := by
  unfold execRouteDrained
  refine ⟨_, rfl, ?_⟩
  repeat' first
    | with_reducible assumption | (with_reducible refine Foot.Sub.up hF ?_; decide +kernel)
    | with_reducible apply State.when_keeps | with_reducible apply State.drainDone_keeps | intro x
    | with_reducible exact Keeps.refl _ _

def execEscapeMove_foot : Foot := State.escapeMove_foot

theorem execEscapeMove_keeps (hF : Foot.Sub execEscapeMove_foot F) (p : Plane) (slice : Fin 46) (code : Code)
    (vc : Fin 9) (s : State) :
    ∃ t', execEscapeMove p slice code vc s = .next t' ∧ Keeps F s t' := by
  unfold execEscapeMove
  refine ⟨_, rfl, ?_⟩
  repeat' first
    | with_reducible assumption | (with_reducible refine Foot.Sub.up hF ?_; decide +kernel)
    | with_reducible apply State.when_keeps | with_reducible apply State.escapeMove_keeps | intro x
    | with_reducible exact Keeps.refl _ _

def execCmapSample_foot : Foot := State.cmapSample1_foot

theorem execCmapSample_keeps (hF : Foot.Sub execCmapSample_foot F) (p : Plane) (s : State) :
    ∃ t', execCmapSample p s = .next t' ∧ Keeps F s t' := by
  unfold execCmapSample
  refine ⟨_, rfl, ?_⟩
  repeat' first
    | with_reducible assumption | (with_reducible refine Foot.Sub.up hF ?_; decide +kernel)
    | with_reducible apply State.when_keeps | with_reducible apply State.each_keeps
    | with_reducible apply State.cmapSample1_keeps | intro x | with_reducible exact Keeps.refl _ _

def execCmapInterval_foot : Foot := State.cmapEnd_foot

theorem execCmapInterval_keeps (hF : Foot.Sub execCmapInterval_foot F) (p : Plane) (s : State) :
    ∃ t', execCmapInterval p s = .next t' ∧ Keeps F s t' := by
  unfold execCmapInterval
  refine ⟨_, rfl, ?_⟩
  repeat' first
    | with_reducible assumption | (with_reducible refine Foot.Sub.up hF ?_; decide +kernel)
    | with_reducible apply State.when_keeps | with_reducible apply State.cmapEnd_keeps | intro x
    | with_reducible exact Keeps.refl _ _

end Sys2Proof.Machine
end

