-- ==== Sys2Proof/Laws/KeepTime.lean ====
section
/-! SUPPORT. `Keeps` of the definitions of Machine/Time.lean, each with its footprint. -/

namespace Sys2Proof.Machine

set_option Elab.async false

variable {F : Foot} {S s : State}

def State.modTst_foot : Foot := foot [.tst] []

theorem State.modTst_keeps (hs : Keeps F S s) (hF : Foot.Sub State.modTst_foot F) (p : Plane)
    (f : TstSt → TstSt) :
    Keeps F S (State.modTst s p f) := by
  unfold State.modTst
  repeat' first
    | with_reducible assumption | (with_reducible refine Foot.Sub.up hF ?_; decide +kernel)
    | with_reducible apply State.modPl_keeps | intro x | with_reducible exact Keeps.refl _ _
    | exact PlaneSt.Stays.part .tst (hF.up (by decide +kernel)) (fun h => ⟨h.regs, h.committed, h.sram, h.lp, h.events⟩) rfl (fun b hb => by cases b <;> first | exact absurd rfl hb | exact rfl | exact ⟨rfl, rfl⟩ | trivial)

def State.modTime_foot : Foot := State.modTst_foot

theorem State.modTime_keeps (hs : Keeps F S s) (hF : Foot.Sub State.modTime_foot F) (p : Plane)
    (f : TimeSt → TimeSt) :
    Keeps F S (State.modTime s p f) := by
  unfold State.modTime
  repeat' first
    | with_reducible assumption | (with_reducible refine Foot.Sub.up hF ?_; decide +kernel)
    | with_reducible apply State.modTst_keeps | intro x | with_reducible exact Keeps.refl _ _

def State.modTimePort_foot : Foot := State.modTime_foot

theorem State.modTimePort_keeps (hs : Keeps F S s) (hF : Foot.Sub State.modTimePort_foot F) (p : Plane)
    (i : Nat) (f : TimePort → TimePort) :
    Keeps F S (State.modTimePort s p i f) := by
  unfold State.modTimePort
  repeat' first
    | with_reducible assumption | (with_reducible refine Foot.Sub.up hF ?_; decide +kernel)
    | with_reducible apply State.modTime_keeps | intro x | with_reducible exact Keeps.refl _ _

def State.timeUse_foot : Foot := Foot.join [foot [] [.TST_FT_STAT, .TST_FT_DELAY], State.raise_foot]

theorem State.timeUse_keeps (hs : Keeps F S s) (hF : Foot.Sub State.timeUse_foot F) (p : Plane) (u : Nat) :
    Keeps F S (State.timeUse s p u) := by
  unfold State.timeUse
  repeat' first
    | with_reducible assumption | (with_reducible refine Foot.Sub.up hF ?_; decide +kernel)
    | ((first | intro x | (lift_lets; intro x))
       first
         | (refine Keeps.cut x ?_ (fun hx => ?_); rotate_left; clear_value x; rotate_left; unfold x)
         | clear_value x
         | skip)
    | with_reducible apply State.setF_keeps | with_reducible apply State.setWord_keeps
    | with_reducible apply State.raise_keeps | with_reducible apply Keeps.ite | split
    | with_reducible exact Keeps.refl _ _

def State.timeHold_foot : Foot := Foot.join [foot [] [.TST_FT_STAT], State.timeUse_foot]

theorem State.timeHold_keeps (hs : Keeps F S s) (hF : Foot.Sub State.timeHold_foot F) (p : Plane) :
    Keeps F S (State.timeHold s p) := by
  unfold State.timeHold
  repeat' first
    | with_reducible assumption | (with_reducible refine Foot.Sub.up hF ?_; decide +kernel)
    | with_reducible apply State.setF_keeps | with_reducible apply State.timeUse_keeps
    | with_reducible exact Keeps.refl _ _

def State.timeStep_foot : Foot := Foot.join [foot [.ft] [], State.raise_foot]

theorem State.timeStep_keeps (hs : Keeps F S s) (hF : Foot.Sub State.timeStep_foot F) (p : Plane) (off : Int) :
    Keeps F S (State.timeStep s p off) := by
  unfold State.timeStep
  repeat' first
    | with_reducible assumption | (with_reducible refine Foot.Sub.up hF ?_; decide +kernel)
    | ((first | intro x | (lift_lets; intro x))
       first
         | (refine Keeps.cut x ?_ (fun hx => ?_); rotate_left; clear_value x; rotate_left; unfold x)
         | clear_value x
         | skip)
    | with_reducible apply State.raise_keeps | with_reducible apply State.modPl_keeps
    | with_reducible exact Keeps.refl _ _
    | exact PlaneSt.Stays.part .ft (hF.up (by decide +kernel)) (fun h => ⟨h.regs, h.committed, h.sram, h.lp, h.events⟩) rfl (fun b hb => by cases b <;> first | exact absurd rfl hb | exact rfl | exact ⟨rfl, rfl⟩ | trivial)

def State.timeOffset_foot : Foot := Foot.join [foot [] [.TST_FT_OFFSET, .TST_FT_FREQ, .TST_FT_STAT],
  State.timeStep_foot, State.modTime_foot, State.raise_foot]

theorem State.timeOffset_keeps (hs : Keeps F S s) (hF : Foot.Sub State.timeOffset_foot F) (p : Plane)
    (off : Int) (ns : Nat) (far : Nat) :
    Keeps F S (State.timeOffset s p off ns far) := by
  unfold State.timeOffset
  repeat' first
    | with_reducible assumption | (with_reducible refine Foot.Sub.up hF ?_; decide +kernel)
    | ((first | intro x | (lift_lets; intro x))
       first
         | (refine Keeps.cut x ?_ (fun hx => ?_); rotate_left; clear_value x; rotate_left; unfold x)
         | clear_value x
         | skip)
    | with_reducible apply State.setWord_keeps | with_reducible apply State.setF_keeps
    | with_reducible apply State.timeStep_keeps | with_reducible apply State.modTime_keeps
    | with_reducible apply State.raise_keeps | with_reducible apply Keeps.ite | with_reducible exact Keeps.refl _ _

def State.timeTree_foot : Foot := Foot.join [foot [] [.TST_FT_STAT], State.modTime_foot]

theorem State.timeTree_keeps (hs : Keeps F S s) (hF : Foot.Sub State.timeTree_foot F) (p : Plane)
    (stratum : Nat) (root : BitVec 64) :
    Keeps F S (State.timeTree s p stratum root) := by
  unfold State.timeTree
  repeat' first
    | with_reducible assumption | (with_reducible refine Foot.Sub.up hF ?_; decide +kernel)
    | with_reducible apply State.setF_keeps | with_reducible apply State.modTime_keeps | intro x
    | with_reducible exact Keeps.refl _ _

def State.timeTake_foot : Foot := Foot.join [foot [] [.TST_FT_STAT], State.modTime_foot, State.timeUse_foot]

theorem State.timeTake_keeps (hs : Keeps F S s) (hF : Foot.Sub State.timeTake_foot F) (p : Plane) :
    Keeps F S (State.timeTake s p) := by
  unfold State.timeTake
  repeat' first
    | with_reducible assumption | (with_reducible refine Foot.Sub.up hF ?_; decide +kernel)
    | ((first | intro x | (lift_lets; intro x))
       first
         | (refine Keeps.cut x ?_ (fun hx => ?_); rotate_left; clear_value x; rotate_left; unfold x)
         | clear_value x
         | skip)
    | with_reducible apply State.setF_keeps | with_reducible apply State.modTime_keeps
    | with_reducible apply State.timeUse_keeps | with_reducible apply Keeps.ite | split
    | with_reducible exact Keeps.refl _ _

def State.ftCfgWrite_foot : Foot := Foot.join [foot [] [.TST_FT_CFG], State.timeTake_foot]

theorem State.ftCfgWrite_keeps (hs : Keeps F S s) (hF : Foot.Sub State.ftCfgWrite_foot F) (p : Plane) (v : Word) :
    Keeps F S (State.ftCfgWrite s p v) := by
  unfold State.ftCfgWrite
  repeat' first
    | with_reducible assumption | (with_reducible refine Foot.Sub.up hF ?_; decide +kernel)
    | ((first | intro x | (lift_lets; intro x))
       first
         | (refine Keeps.cut x ?_ (fun hx => ?_); rotate_left; clear_value x; rotate_left; unfold x)
         | clear_value x
         | skip)
    | with_reducible apply State.setWord_keeps | with_reducible apply State.timeTake_keeps
    | with_reducible apply Keeps.ite | with_reducible exact Keeps.refl _ _

def State.ftSet_foot : Foot := foot [.ft] [.TST_FT_SET]

theorem State.ftSet_keeps (hs : Keeps F S s) (hF : Foot.Sub State.ftSet_foot F) (p : Plane) (v : BitVec 64) :
    Keeps F S (State.ftSet s p v) := by
  unfold State.ftSet
  repeat' first
    | with_reducible assumption | (with_reducible refine Foot.Sub.up hF ?_; decide +kernel)
    | ((first | intro x | (lift_lets; intro x))
       first
         | (refine Keeps.cut x ?_ (fun hx => ?_); rotate_left; clear_value x; rotate_left; unfold x)
         | clear_value x
         | skip)
    | with_reducible apply State.setWord_keeps | with_reducible apply State.modPl_keeps
    | with_reducible apply Keeps.ite | with_reducible exact Keeps.refl _ _
    | exact PlaneSt.Stays.part .ft (hF.up (by decide +kernel)) (fun h => ⟨h.regs, h.committed, h.sram, h.lp, h.events⟩) rfl (fun b hb => by cases b <;> first | exact absurd rfl hb | exact rfl | exact ⟨rfl, rfl⟩ | trivial)

def State.syncSend_foot : Foot := Foot.join [State.modTimePort_foot, State.linkBlock_foot]

theorem State.syncSend_keeps (hs : Keeps F S s) (hF : Foot.Sub State.syncSend_foot F) (p : Plane) (i : Nat) :
    Keeps F S (State.syncSend s p i) := by
  unfold State.syncSend
  repeat' first
    | with_reducible assumption | (with_reducible refine Foot.Sub.up hF ?_; decide +kernel)
    | ((first | intro x | (lift_lets; intro x))
       first
         | (refine Keeps.cut x ?_ (fun hx => ?_); rotate_left; clear_value x; rotate_left; unfold x)
         | clear_value x
         | skip)
    | with_reducible apply State.modTimePort_keeps | with_reducible apply State.linkBlock_keeps
    | with_reducible exact Keeps.refl _ _

def State.dreqSend_foot : Foot := Foot.join [State.modTimePort_foot, State.linkBlock_foot]

theorem State.dreqSend_keeps (hs : Keeps F S s) (hF : Foot.Sub State.dreqSend_foot F) (p : Plane) (i : Nat) :
    Keeps F S (State.dreqSend s p i) := by
  unfold State.dreqSend
  repeat' first
    | with_reducible assumption | (with_reducible refine Foot.Sub.up hF ?_; decide +kernel)
    | ((first | intro x | (lift_lets; intro x))
       first
         | (refine Keeps.cut x ?_ (fun hx => ?_); rotate_left; clear_value x; rotate_left; unfold x)
         | clear_value x
         | skip)
    | with_reducible apply State.modTimePort_keeps | with_reducible apply State.linkBlock_keeps
    | with_reducible exact Keeps.refl _ _

def State.dreqIn_foot : Foot := State.linkBlock_foot

theorem State.dreqIn_keeps (hs : Keeps F S s) (hF : Foot.Sub State.dreqIn_foot F) (p : Plane) (i : Nat)
    (b : TimeBlock) :
    Keeps F S (State.dreqIn s p i b) := by
  unfold State.dreqIn
  repeat' first
    | with_reducible assumption | (with_reducible refine Foot.Sub.up hF ?_; decide +kernel)
    | with_reducible apply State.linkBlock_keeps | with_reducible exact Keeps.refl _ _

def State.drespIn_foot : Foot := Foot.join [foot [] [.TST_PORT_DELAY, .TST_FT_DELAY], State.modTimePort_foot]

theorem State.drespIn_keeps (hs : Keeps F S s) (hF : Foot.Sub State.drespIn_foot F) (p : Plane) (i : Nat)
    (b : TimeBlock) :
    Keeps F S (State.drespIn s p i b) := by
  unfold State.drespIn
  repeat' first
    | with_reducible assumption | (with_reducible refine Foot.Sub.up hF ?_; decide +kernel)
    | ((first | intro x | (lift_lets; intro x))
       first
         | (refine Keeps.cut x ?_ (fun hx => ?_); rotate_left; clear_value x; rotate_left; unfold x)
         | clear_value x
         | skip)
    | with_reducible apply State.setWord_keeps | with_reducible apply State.modTimePort_keeps
    | with_reducible apply Keeps.ite | split | with_reducible exact Keeps.refl _ _

def State.syncIn_foot : Foot := Foot.join [foot [] [.TST_PORT_TSTAT], State.modTimePort_foot,
  State.timeOffset_foot, State.timeTree_foot]

theorem State.syncIn_keeps (hs : Keeps F S s) (hF : Foot.Sub State.syncIn_foot F) (p : Plane) (i : Nat)
    (b : TimeBlock) :
    Keeps F S (State.syncIn s p i b) := by
  unfold State.syncIn
  repeat' first
    | with_reducible assumption | (with_reducible refine Foot.Sub.up hF ?_; decide +kernel)
    | ((first | intro x | (lift_lets; intro x))
       first
         | (refine Keeps.cut x ?_ (fun hx => ?_); rotate_left; clear_value x; rotate_left; unfold x)
         | clear_value x
         | skip)
    | with_reducible apply State.setF_keeps | with_reducible apply State.modTimePort_keeps
    | with_reducible apply State.timeOffset_keeps | with_reducible apply State.timeTree_keeps
    | with_reducible apply Keeps.ite | with_reducible exact Keeps.refl _ _

def State.timeLost_foot : Foot := Foot.join [State.timeUse_foot, State.timeHold_foot]

theorem State.timeLost_keeps (hs : Keeps F S s) (hF : Foot.Sub State.timeLost_foot F) (p : Plane) :
    Keeps F S (State.timeLost s p) := by
  unfold State.timeLost
  repeat' first
    | with_reducible assumption | (with_reducible refine Foot.Sub.up hF ?_; decide +kernel)
    | ((first | intro x | (lift_lets; intro x))
       first
         | (refine Keeps.cut x ?_ (fun hx => ?_); rotate_left; clear_value x; rotate_left; unfold x)
         | clear_value x
         | skip)
    | with_reducible apply State.timeUse_keeps | with_reducible apply State.timeHold_keeps
    | with_reducible apply Keeps.ite | with_reducible exact Keeps.refl _ _ | dsimp +zetaDelta only

def State.timePortDown_foot : Foot := Foot.join [State.modTimePort_foot, State.timeLost_foot]

theorem State.timePortDown_keeps (hs : Keeps F S s) (hF : Foot.Sub State.timePortDown_foot F) (p : Plane)
    (i : Nat) :
    Keeps F S (State.timePortDown s p i) := by
  unfold State.timePortDown
  repeat' first
    | with_reducible assumption | (with_reducible refine Foot.Sub.up hF ?_; decide +kernel)
    | ((first | intro x | (lift_lets; intro x))
       first
         | (refine Keeps.cut x ?_ (fun hx => ?_); rotate_left; clear_value x; rotate_left; unfold x)
         | clear_value x
         | skip)
    | with_reducible apply State.modTimePort_keeps | with_reducible apply State.timeLost_keeps
    | with_reducible apply Keeps.ite | with_reducible exact Keeps.refl _ _

def State.ppsEdge_foot : Foot := Foot.join [foot [] [.TST_FT_STAT, .TST_FT_OFFSET], State.timeUse_foot,
  State.timeOffset_foot, State.timeStep_foot, State.modTime_foot]

theorem State.ppsEdge_keeps (hs : Keeps F S s) (hF : Foot.Sub State.ppsEdge_foot F) (p : Plane) :
    Keeps F S (State.ppsEdge s p) := by
  unfold State.ppsEdge
  repeat' first
    | with_reducible assumption | (with_reducible refine Foot.Sub.up hF ?_; decide +kernel)
    | ((first | intro x | (lift_lets; intro x))
       first
         | (refine Keeps.cut x ?_ (fun hx => ?_); rotate_left; clear_value x; rotate_left; unfold x)
         | clear_value x
         | skip)
    | with_reducible apply State.setFlag_keeps | with_reducible apply State.setWord_keeps
    | with_reducible apply State.timeUse_keeps | with_reducible apply State.timeOffset_keeps
    | with_reducible apply State.timeStep_keeps | with_reducible apply State.modTime_keeps
    | with_reducible apply Keeps.ite | with_reducible exact Keeps.refl _ _

def execFtCfgWrite_foot : Foot := State.ftCfgWrite_foot

theorem execFtCfgWrite_keeps (hF : Foot.Sub execFtCfgWrite_foot F) (p : Plane) (v : Word) (s : State) :
    ∃ t', execFtCfgWrite p v s = .next t' ∧ Keeps F s t' := by
  unfold execFtCfgWrite
  refine ⟨_, rfl, ?_⟩
  repeat' first
    | with_reducible assumption | (with_reducible refine Foot.Sub.up hF ?_; decide +kernel)
    | with_reducible apply State.when_keeps | with_reducible apply State.ftCfgWrite_keeps | intro x
    | with_reducible exact Keeps.refl _ _

def execFtSet_foot : Foot := State.ftSet_foot

theorem execFtSet_keeps (hF : Foot.Sub execFtSet_foot F) (p : Plane) (v : BitVec 64) (s : State) :
    ∃ t', execFtSet p v s = .next t' ∧ Keeps F s t' := by
  unfold execFtSet
  refine ⟨_, rfl, ?_⟩
  repeat' first
    | with_reducible assumption | (with_reducible refine Foot.Sub.up hF ?_; decide +kernel)
    | with_reducible apply State.when_keeps | with_reducible apply State.ftSet_keeps | intro x
    | with_reducible exact Keeps.refl _ _

def execSyncSend_foot : Foot := State.syncSend_foot

theorem execSyncSend_keeps (hF : Foot.Sub execSyncSend_foot F) (p : Plane) (i : Fin 576) (s : State) :
    ∃ t', execSyncSend p i s = .next t' ∧ Keeps F s t' := by
  unfold execSyncSend
  refine ⟨_, rfl, ?_⟩
  repeat' first
    | with_reducible assumption | (with_reducible refine Foot.Sub.up hF ?_; decide +kernel)
    | with_reducible apply State.when_keeps | with_reducible apply State.syncSend_keeps | intro x
    | with_reducible exact Keeps.refl _ _

def execDreqSend_foot : Foot := State.dreqSend_foot

theorem execDreqSend_keeps (hF : Foot.Sub execDreqSend_foot F) (p : Plane) (i : Fin 576) (s : State) :
    ∃ t', execDreqSend p i s = .next t' ∧ Keeps F s t' := by
  unfold execDreqSend
  refine ⟨_, rfl, ?_⟩
  repeat' first
    | with_reducible assumption | (with_reducible refine Foot.Sub.up hF ?_; decide +kernel)
    | with_reducible apply State.when_keeps | with_reducible apply State.dreqSend_keeps | intro x
    | with_reducible exact Keeps.refl _ _

def execSync_foot : Foot := State.syncIn_foot

theorem execSync_keeps (hF : Foot.Sub execSync_foot F) (p : Plane) (i : Fin 576) (b : TimeBlock) (s : State) :
    ∃ t', execSync p i b s = .next t' ∧ Keeps F s t' := by
  unfold execSync
  refine ⟨_, rfl, ?_⟩
  repeat' first
    | with_reducible assumption | (with_reducible refine Foot.Sub.up hF ?_; decide +kernel)
    | with_reducible apply State.when_keeps | with_reducible apply State.syncIn_keeps | intro x
    | with_reducible exact Keeps.refl _ _

def execDreq_foot : Foot := State.dreqIn_foot

theorem execDreq_keeps (hF : Foot.Sub execDreq_foot F) (p : Plane) (i : Fin 576) (b : TimeBlock) (s : State) :
    ∃ t', execDreq p i b s = .next t' ∧ Keeps F s t' := by
  unfold execDreq
  refine ⟨_, rfl, ?_⟩
  repeat' first
    | with_reducible assumption | (with_reducible refine Foot.Sub.up hF ?_; decide +kernel)
    | with_reducible apply State.when_keeps | with_reducible apply State.dreqIn_keeps | intro x
    | with_reducible exact Keeps.refl _ _

def execDresp_foot : Foot := State.drespIn_foot

theorem execDresp_keeps (hF : Foot.Sub execDresp_foot F) (p : Plane) (i : Fin 576) (b : TimeBlock) (s : State) :
    ∃ t', execDresp p i b s = .next t' ∧ Keeps F s t' := by
  unfold execDresp
  refine ⟨_, rfl, ?_⟩
  repeat' first
    | with_reducible assumption | (with_reducible refine Foot.Sub.up hF ?_; decide +kernel)
    | with_reducible apply State.when_keeps | with_reducible apply State.drespIn_keeps | intro x
    | with_reducible exact Keeps.refl _ _

def execTimeSourceLost_foot : Foot := State.timeLost_foot

theorem execTimeSourceLost_keeps (hF : Foot.Sub execTimeSourceLost_foot F) (p : Plane) (s : State) :
    ∃ t', execTimeSourceLost p s = .next t' ∧ Keeps F s t' := by
  unfold execTimeSourceLost
  refine ⟨_, rfl, ?_⟩
  repeat' first
    | with_reducible assumption | (with_reducible refine Foot.Sub.up hF ?_; decide +kernel)
    | with_reducible apply State.when_keeps | with_reducible apply State.timeLost_keeps | intro x
    | with_reducible exact Keeps.refl _ _

def execTimeSourceReturn_foot : Foot := State.timeUse_foot

theorem execTimeSourceReturn_keeps (hF : Foot.Sub execTimeSourceReturn_foot F) (p : Plane) (s : State) :
    ∃ t', execTimeSourceReturn p s = .next t' ∧ Keeps F s t' := by
  unfold execTimeSourceReturn
  refine ⟨_, rfl, ?_⟩
  repeat' first
    | with_reducible assumption | (with_reducible refine Foot.Sub.up hF ?_; decide +kernel)
    | ((first | intro x | (lift_lets; intro x))
       first
         | (refine Keeps.cut x ?_ (fun hx => ?_); rotate_left; clear_value x; rotate_left; unfold x)
         | clear_value x
         | skip)
    | with_reducible apply State.when_keeps | with_reducible apply State.timeUse_keeps
    | with_reducible apply Keeps.ite | with_reducible exact Keeps.refl _ _

def execTimeFlitSend_foot : Foot := State.halControl_foot

theorem execTimeFlitSend_keeps (hF : Foot.Sub execTimeFlitSend_foot F) (p : Plane) (s : State) :
    ∃ t', execTimeFlitSend p s = .next t' ∧ Keeps F s t' := by
  unfold execTimeFlitSend
  refine ⟨_, rfl, ?_⟩
  repeat' first
    | with_reducible assumption | (with_reducible refine Foot.Sub.up hF ?_; decide +kernel)
    | with_reducible apply State.when_keeps | with_reducible apply State.halControl_keeps | intro x
    | with_reducible exact Keeps.refl _ _

def execTimeFlit_foot : Foot := Foot.join [State.timeUse_foot, State.timeOffset_foot, State.timeTree_foot]

theorem execTimeFlit_keeps (hF : Foot.Sub execTimeFlit_foot F) (p : Plane) (b : TimeBlock) (s : State) :
    ∃ t', execTimeFlit p b s = .next t' ∧ Keeps F s t' := by
  unfold execTimeFlit
  refine ⟨_, rfl, ?_⟩
  repeat' first
    | with_reducible assumption | (with_reducible refine Foot.Sub.up hF ?_; decide +kernel)
    | ((first | intro x | (lift_lets; intro x))
       first
         | (refine Keeps.cut x ?_ (fun hx => ?_); rotate_left; clear_value x; rotate_left; unfold x)
         | clear_value x
         | skip)
    | with_reducible apply State.when_keeps | with_reducible apply State.timeUse_keeps
    | with_reducible apply State.timeOffset_keeps | with_reducible apply State.timeTree_keeps
    | with_reducible apply Keeps.ite | with_reducible exact Keeps.refl _ _

def execPpsInEdge_foot : Foot := State.ppsEdge_foot

theorem execPpsInEdge_keeps (hF : Foot.Sub execPpsInEdge_foot F) (p : Plane) (s : State) :
    ∃ t', execPpsInEdge p s = .next t' ∧ Keeps F s t' := by
  unfold execPpsInEdge
  refine ⟨_, rfl, ?_⟩
  repeat' first
    | with_reducible assumption | (with_reducible refine Foot.Sub.up hF ?_; decide +kernel)
    | with_reducible apply State.when_keeps | with_reducible apply State.ppsEdge_keeps | intro x
    | with_reducible exact Keeps.refl _ _

def execPpsMissing_foot : Foot := Foot.join [foot [] [.TST_FT_STAT], State.raise_foot, State.timeHold_foot]

theorem execPpsMissing_keeps (hF : Foot.Sub execPpsMissing_foot F) (p : Plane) (s : State) :
    ∃ t', execPpsMissing p s = .next t' ∧ Keeps F s t' := by
  unfold execPpsMissing
  refine ⟨_, rfl, ?_⟩
  repeat' first
    | with_reducible assumption | (with_reducible refine Foot.Sub.up hF ?_; decide +kernel)
    | ((first | intro x | (lift_lets; intro x))
       first
         | (refine Keeps.cut x ?_ (fun hx => ?_); rotate_left; clear_value x; rotate_left; unfold x)
         | clear_value x
         | skip)
    | with_reducible apply State.when_keeps | with_reducible apply State.setFlag_keeps
    | with_reducible apply State.raise_keeps | with_reducible apply State.timeHold_keeps
    | with_reducible apply Keeps.ite | with_reducible exact Keeps.refl _ _

def execPpsOut_foot : Foot := foot [.out] []

theorem execPpsOut_keeps (hF : Foot.Sub execPpsOut_foot F) (p : Plane) (s : State) :
    ∃ t', execPpsOut p s = .next t' ∧ Keeps F s t' := by
  unfold execPpsOut
  refine ⟨_, rfl, ?_⟩
  repeat' first
    | with_reducible assumption | (with_reducible refine Foot.Sub.up hF ?_; decide +kernel)
    | with_reducible apply State.when_keeps | with_reducible apply State.emit_keeps | intro x
    | with_reducible exact Keeps.refl _ _

end Sys2Proof.Machine
end

