-- ==== Sys2Proof/Laws/KeepFabric.lean ====
section
/-! SUPPORT. `Keeps` of the definitions of Machine/Fabric.lean, each with its footprint. -/

namespace Sys2Proof.Machine

set_option Elab.async false

variable {F : Foot} {S s : State}

def State.pchk_foot : Foot := Foot.join [foot [] [.TST_PCHK_CNT, .TST_PCHK_FIRST], State.raise_foot]

theorem State.pchk_keeps (hs : Keeps F S s) (hF : Foot.Sub State.pchk_foot F) (p : Plane) (rule i vc h : Nat) :
    Keeps F S (State.pchk s p rule i vc h) := by
  unfold State.pchk
  repeat' first
    | with_reducible assumption | (with_reducible refine Foot.Sub.up hF ?_; decide +kernel)
    | ((first | intro x | (lift_lets; intro x))
       first
         | (refine Keeps.cut x ?_ (fun hx => ?_); rotate_left; clear_value x; rotate_left; unfold x)
         | clear_value x
         | skip)
    | with_reducible apply State.count_keeps | with_reducible apply State.setWords_keeps
    | with_reducible apply State.raise_keeps | with_reducible apply Keeps.ite | with_reducible exact Keeps.refl _ _

def State.pchkIf_foot : Foot := State.pchk_foot

theorem State.pchkIf_keeps (hs : Keeps F S s) (hF : Foot.Sub State.pchkIf_foot F) (c : Bool) (p : Plane)
    (rule i vc h : Nat) :
    Keeps F S (State.pchkIf s c p rule i vc h) := by
  unfold State.pchkIf
  repeat' first
    | with_reducible assumption | (with_reducible refine Foot.Sub.up hF ?_; decide +kernel)
    | with_reducible apply State.pchk_keeps | with_reducible apply Keeps.ite | with_reducible exact Keeps.refl _ _

def State.creditSend_foot : Foot := Foot.join [State.linkBlock_foot, State.modCred_foot]

theorem State.creditSend_keeps (hs : Keeps F S s) (hF : Foot.Sub State.creditSend_foot F) (p : Plane) (i : Nat) :
    Keeps F S (State.creditSend s p i) := by
  unfold State.creditSend
  repeat' first
    | with_reducible assumption | (with_reducible refine Foot.Sub.up hF ?_; decide +kernel)
    | ((first | intro x | (lift_lets; intro x))
       first
         | (refine Keeps.cut x ?_ (fun hx => ?_); rotate_left; clear_value x; rotate_left; unfold x)
         | clear_value x
         | skip)
    | with_reducible apply State.each_keeps | with_reducible apply State.linkBlock_keeps
    | with_reducible apply State.modCred_keeps | with_reducible exact Keeps.refl _ _

def State.startCounters_foot : Foot := Foot.join [foot [.swc] [], State.modCred_foot, State.modLink_foot,
  State.creditSend_foot]

theorem State.startCounters_keeps (hs : Keeps F S s) (hF : Foot.Sub State.startCounters_foot F) (p : Plane)
    (i : Nat) :
    Keeps F S (State.startCounters s p i) := by
  unfold State.startCounters
  repeat' first
    | with_reducible assumption | (with_reducible refine Foot.Sub.up hF ?_; decide +kernel)
    | ((first | intro x | (lift_lets; intro x))
       first
         | (refine Keeps.cut x ?_ (fun hx => ?_); rotate_left; clear_value x; rotate_left; unfold x)
         | clear_value x
         | skip)
    | with_reducible apply State.each_keeps | with_reducible apply State.modSwc_keeps
    | with_reducible apply State.modCred_keeps | with_reducible apply State.modLink_keeps
    | with_reducible apply State.creditSend_keeps | with_reducible exact Keeps.refl _ _

def State.recvUnits_foot : Foot := State.modCred_foot

theorem State.recvUnits_keeps (hs : Keeps F S s) (hF : Foot.Sub State.recvUnits_foot F) (p : Plane)
    (i vc u : Nat) :
    Keeps F S (State.recvUnits s p i vc u) := by
  unfold State.recvUnits
  repeat' first
    | with_reducible assumption | (with_reducible refine Foot.Sub.up hF ?_; decide +kernel)
    | with_reducible apply State.modCred_keeps | intro x | with_reducible apply Keeps.ite
    | with_reducible exact Keeps.refl _ _

def State.freeUnits_foot : Foot := State.modCred_foot

theorem State.freeUnits_keeps (hs : Keeps F S s) (hF : Foot.Sub State.freeUnits_foot F) (p : Plane)
    (i vc u : Nat) :
    Keeps F S (State.freeUnits s p i vc u) := by
  unfold State.freeUnits
  repeat' first
    | with_reducible assumption | (with_reducible refine Foot.Sub.up hF ?_; decide +kernel)
    | with_reducible apply State.modCred_keeps | with_reducible apply Keeps.ite
    | with_reducible exact Keeps.refl _ _

def State.rxProgress_foot : Foot := Foot.join [State.modLink_foot, State.recvUnits_foot, State.freeUnits_foot,
  State.setPkt_foot]

theorem State.rxProgress_keeps (hs : Keeps F S s) (hF : Foot.Sub State.rxProgress_foot F) (p : Plane)
    (i got : Nat) :
    Keeps F S (State.rxProgress s p i got) := by
  unfold State.rxProgress
  repeat' first
    | with_reducible assumption | (with_reducible refine Foot.Sub.up hF ?_; decide +kernel)
    | ((first | intro x | (lift_lets; intro x))
       first
         | (refine Keeps.cut x ?_ (fun hx => ?_); rotate_left; clear_value x; rotate_left; unfold x)
         | clear_value x
         | skip)
    | with_reducible apply State.when_keeps | with_reducible apply State.modLink_keeps
    | with_reducible apply State.recvUnits_keeps | with_reducible apply State.freeUnits_keeps
    | with_reducible apply State.setPkt_keeps | with_reducible apply Keeps.ite | split
    | with_reducible exact Keeps.refl _ _

def State.dropUnsent_foot : Foot := State.purgeCopy_foot

theorem State.dropUnsent_keeps (hs : Keeps F S s) (hF : Foot.Sub State.dropUnsent_foot F) (p : Plane)
    (pid : Nat) :
    Keeps F S (State.dropUnsent s p pid) := by
  unfold State.dropUnsent
  repeat' first
    | with_reducible assumption | (with_reducible refine Foot.Sub.up hF ?_; decide +kernel)
    | with_reducible apply State.each_keeps | with_reducible apply State.purgeCopy_keeps | intro x
    | with_reducible exact Keeps.refl _ _

def State.mapPkt_foot : Foot := Foot.join [foot [.swc] [], State.setPkt_foot]

theorem State.mapPkt_keeps (hs : Keeps F S s) (hF : Foot.Sub State.mapPkt_foot F) (p : Plane) (pid : Nat)
    (f : Packet → Packet) :
    Keeps F S (State.mapPkt s p pid f) := by
  unfold State.mapPkt
  repeat' first
    | with_reducible assumption | (with_reducible refine Foot.Sub.up hF ?_; decide +kernel)
    | with_reducible apply State.modSwc_keeps | with_reducible apply State.setPkt_keeps | intro x
    | with_reducible apply Keeps.ite | split | with_reducible exact Keeps.refl _ _

def State.endUpstream_foot : Foot := Foot.join [State.mapPkt_foot, State.dropUnsent_foot, State.setPkt_foot]

theorem State.endUpstream_keeps (hs : Keeps F S s) (hF : Foot.Sub State.endUpstream_foot F) (p : Plane)
    (r : RxProg) :
    Keeps F S (State.endUpstream s p r) := by
  unfold State.endUpstream
  repeat' first
    | with_reducible assumption | (with_reducible refine Foot.Sub.up hF ?_; decide +kernel)
    | ((first | intro x | (lift_lets; intro x))
       first
         | (refine Keeps.cut x ?_ (fun hx => ?_); rotate_left; clear_value x; rotate_left; unfold x)
         | clear_value x
         | skip)
    | with_reducible apply State.mapPkt_keeps | with_reducible apply State.dropUnsent_keeps
    | with_reducible apply State.setPkt_keeps | split | with_reducible exact Keeps.refl _ _

def State.stopCounters_foot : Foot := Foot.join [foot [] [.LNE_QDISC_CNT, .LFP_PORT_STAT], State.endUpstream_foot,
  State.modLink_foot, State.modCred_foot]

theorem State.stopCounters_keeps (hs : Keeps F S s) (hF : Foot.Sub State.stopCounters_foot F) (p : Plane)
    (i : Nat) :
    Keeps F S (State.stopCounters s p i) := by
  unfold State.stopCounters
  repeat' first
    | with_reducible assumption | (with_reducible refine Foot.Sub.up hF ?_; decide +kernel)
    | ((first | intro x | (lift_lets; intro x))
       first
         | (refine Keeps.cut x ?_ (fun hx => ?_); rotate_left; clear_value x; rotate_left; unfold x)
         | clear_value x
         | skip)
    | with_reducible apply State.count_keeps | with_reducible apply State.each_keeps
    | with_reducible apply State.setFlag_keeps | with_reducible apply State.endUpstream_keeps
    | with_reducible apply State.modLink_keeps | with_reducible apply State.modCred_keeps | split
    | with_reducible exact Keeps.refl _ _

def State.creditViolation_foot : Foot := Foot.join [foot [] [.LFP_CRED_VIOL], State.logError_foot,
  State.raise_foot]

theorem State.creditViolation_keeps (hs : Keeps F S s) (hF : Foot.Sub State.creditViolation_foot F) (p : Plane)
    (i vc : Nat) :
    Keeps F S (State.creditViolation s p i vc) := by
  unfold State.creditViolation
  repeat' first
    | with_reducible assumption | (with_reducible refine Foot.Sub.up hF ?_; decide +kernel)
    | with_reducible apply State.count_keeps | with_reducible apply State.logError_keeps
    | with_reducible apply State.raise_keeps | with_reducible exact Keeps.refl _ _

def State.endRx_foot : Foot := Foot.join [foot [] [.LNE_QDISC_CNT], State.rxProgress_foot, State.modLink_foot,
  State.endUpstream_foot, State.freeUnits_foot]

theorem State.endRx_keeps (hs : Keeps F S s) (hF : Foot.Sub State.endRx_foot F) (p : Plane) (i got : Nat) :
    Keeps F S (State.endRx s p i got) := by
  unfold State.endRx
  repeat' first
    | with_reducible assumption | (with_reducible refine Foot.Sub.up hF ?_; decide +kernel)
    | ((first | intro x | (lift_lets; intro x))
       first
         | (refine Keeps.cut x ?_ (fun hx => ?_); rotate_left; clear_value x; rotate_left; unfold x)
         | clear_value x
         | skip)
    | with_reducible apply State.count_keeps | with_reducible apply State.rxProgress_keeps
    | with_reducible apply State.modLink_keeps | with_reducible apply State.endUpstream_keeps
    | with_reducible apply State.freeUnits_keeps | with_reducible apply Keeps.ite | split
    | with_reducible exact Keeps.refl _ _

def State.sopIn_foot : Foot := Foot.join [State.pchkIf_foot, State.endRx_foot, State.recvUnits_foot,
  State.freeUnits_foot, State.modStream_foot, State.modLink_foot]

theorem State.sopIn_keeps (hs : Keeps F S s) (hF : Foot.Sub State.sopIn_foot F) (p : Plane) (i : Nat)
    (b : SopBlock) (got : Nat) :
    Keeps F S (State.sopIn s p i b got) := by
  unfold State.sopIn
  repeat' first
    | with_reducible assumption | (with_reducible refine Foot.Sub.up hF ?_; decide +kernel)
    | ((first | intro x | (lift_lets; intro x))
       first
         | (refine Keeps.cut x ?_ (fun hx => ?_); rotate_left; clear_value x; rotate_left; unfold x)
         | clear_value x
         | skip)
    | with_reducible apply State.pchkIf_keeps | with_reducible apply State.endRx_keeps
    | with_reducible apply State.recvUnits_keeps | with_reducible apply State.freeUnits_keeps
    | with_reducible apply State.modStream_keeps | with_reducible apply State.modLink_keeps
    | with_reducible apply Keeps.ite | with_reducible exact Keeps.refl _ _

def State.creditIn_foot : Foot := Foot.join [foot [] [.LFP_PORT_STAT], State.pchkIf_foot, State.modCred_foot]

theorem State.creditIn_keeps (hs : Keeps F S s) (hF : Foot.Sub State.creditIn_foot F) (p : Plane) (i : Nat)
    (counts : List (BitVec 16)) (rsv : Bool) :
    Keeps F S (State.creditIn s p i counts rsv) := by
  unfold State.creditIn
  repeat' first
    | with_reducible assumption | (with_reducible refine Foot.Sub.up hF ?_; decide +kernel)
    | ((first | intro x | (lift_lets; intro x))
       first
         | (refine Keeps.cut x ?_ (fun hx => ?_); rotate_left; clear_value x; rotate_left; unfold x)
         | clear_value x
         | skip)
    | with_reducible apply State.each_keeps | with_reducible apply State.setFlag_keeps
    | with_reducible apply State.pchkIf_keeps | with_reducible apply State.modCred_keeps
    | with_reducible apply Keeps.ite | with_reducible exact Keeps.refl _ _

def State.sentIn_foot : Foot := Foot.join [foot [] [.LFP_CRED_RECON], State.pchkIf_foot, State.freeUnits_foot,
  State.recvUnits_foot, State.pchk_foot, State.creditViolation_foot, State.modCred_foot]

theorem State.sentIn_keeps (hs : Keeps F S s) (hF : Foot.Sub State.sentIn_foot F) (p : Plane) (i : Nat)
    (counts : List (BitVec 16)) (rsv : Bool) :
    Keeps F S (State.sentIn s p i counts rsv) := by
  unfold State.sentIn
  repeat' first
    | with_reducible assumption | (with_reducible refine Foot.Sub.up hF ?_; decide +kernel)
    | ((first | intro x | (lift_lets; intro x))
       first
         | (refine Keeps.cut x ?_ (fun hx => ?_); rotate_left; clear_value x; rotate_left; unfold x)
         | clear_value x
         | skip)
    | with_reducible apply State.each_keeps | with_reducible apply State.countN_keeps
    | with_reducible apply State.pchkIf_keeps | with_reducible apply State.freeUnits_keeps
    | with_reducible apply State.recvUnits_keeps | with_reducible apply State.pchk_keeps
    | with_reducible apply State.creditViolation_keeps | with_reducible apply State.modCred_keeps
    | with_reducible apply Keeps.ite | with_reducible exact Keeps.refl _ _

def State.pchkPacket_foot : Foot := State.pchkIf_foot

theorem State.pchkPacket_keeps (hs : Keeps F S s) (hF : Foot.Sub State.pchkPacket_foot F) (p : Plane) (i : Nat)
    (r : RxProg) (k : Packet) :
    Keeps F S (State.pchkPacket s p i r k) := by
  unfold State.pchkPacket
  repeat' first
    | with_reducible assumption | (with_reducible refine Foot.Sub.up hF ?_; decide +kernel)
    | ((first | intro x | (lift_lets; intro x))
       first
         | (refine Keeps.cut x ?_ (fun hx => ?_); rotate_left; clear_value x; rotate_left; unfold x)
         | clear_value x
         | skip)
    | with_reducible apply State.pchkIf_keeps | with_reducible apply Keeps.ite
    | with_reducible exact Keeps.refl _ _

def execSopBlock_foot : Foot := State.sopIn_foot

theorem execSopBlock_keeps (hF : Foot.Sub execSopBlock_foot F) (p : Plane) (i : Fin 576) (b : SopBlock)
    (got : BitVec 16) (s : State) :
    ∃ t', execSopBlock p i b got s = .next t' ∧ Keeps F s t' := by
  unfold execSopBlock
  refine ⟨_, rfl, ?_⟩
  repeat' first
    | with_reducible assumption | (with_reducible refine Foot.Sub.up hF ?_; decide +kernel)
    | with_reducible apply State.when_keeps | with_reducible apply State.sopIn_keeps | intro x
    | with_reducible exact Keeps.refl _ _

def execCreditBlock_foot : Foot := State.creditIn_foot

theorem execCreditBlock_keeps (hF : Foot.Sub execCreditBlock_foot F) (p : Plane) (i : Fin 576)
    (counts : List (BitVec 16)) (rsv : Bool) (s : State) :
    ∃ t', execCreditBlock p i counts rsv s = .next t' ∧ Keeps F s t' := by
  unfold execCreditBlock
  refine ⟨_, rfl, ?_⟩
  repeat' first
    | with_reducible assumption | (with_reducible refine Foot.Sub.up hF ?_; decide +kernel)
    | with_reducible apply State.when_keeps | with_reducible apply State.creditIn_keeps | intro x
    | with_reducible exact Keeps.refl _ _

def execSentSend_foot : Foot := State.sentSend_foot

theorem execSentSend_keeps (hF : Foot.Sub execSentSend_foot F) (p : Plane) (i : Fin 576) (s : State) :
    ∃ t', execSentSend p i s = .next t' ∧ Keeps F s t' := by
  unfold execSentSend
  refine ⟨_, rfl, ?_⟩
  repeat' first
    | with_reducible assumption | (with_reducible refine Foot.Sub.up hF ?_; decide +kernel)
    | with_reducible apply State.when_keeps | with_reducible apply State.sentSend_keeps | intro x
    | with_reducible exact Keeps.refl _ _

def execPchkLinkSilence_foot : Foot := State.pchk_foot

theorem execPchkLinkSilence_keeps (hF : Foot.Sub execPchkLinkSilence_foot F) (p : Plane) (i : Fin 576)
    (sent : Bool) (s : State) :
    ∃ t', execPchkLinkSilence p i sent s = .next t' ∧ Keeps F s t' := by
  unfold execPchkLinkSilence
  refine ⟨_, rfl, ?_⟩
  repeat' first
    | with_reducible assumption | (with_reducible refine Foot.Sub.up hF ?_; decide +kernel)
    | with_reducible apply State.when_keeps | with_reducible apply State.pchk_keeps | intro x
    | with_reducible apply Keeps.ite | with_reducible exact Keeps.refl _ _

end Sys2Proof.Machine
end

