-- ==== Sys2Proof/Laws/KeepLanes.lean ====
section
/-! SUPPORT. `Keeps` of the definitions of Machine/Lanes.lean, each with its footprint. -/

namespace Sys2Proof.Machine

set_option Elab.async false

variable {F : Foot} {S s : State}

def State.modLne_foot : Foot := foot [.lne] []

theorem State.modLne_keeps (hs : Keeps F S s) (hF : Foot.Sub State.modLne_foot F) (p : Plane)
    (f : LneSt → LneSt) :
    Keeps F S (State.modLne s p f) := by
  unfold State.modLne
  repeat' first
    | with_reducible assumption | (with_reducible refine Foot.Sub.up hF ?_; decide +kernel)
    | with_reducible apply State.modPl_keeps | intro x | with_reducible exact Keeps.refl _ _
    | exact PlaneSt.Stays.part .lne (hF.up (by decide +kernel)) (fun h => ⟨h.regs, h.committed, h.sram, h.lp, h.events⟩) rfl (fun b hb => by cases b <;> first | exact absurd rfl hb | exact rfl | exact ⟨rfl, rfl⟩ | trivial)

def State.modLane_foot : Foot := State.modLne_foot

theorem State.modLane_keeps (hs : Keeps F S s) (hF : Foot.Sub State.modLane_foot F) (p : Plane) (l : Nat)
    (f : LaneSt → LaneSt) :
    Keeps F S (State.modLane s p l f) := by
  unfold State.modLane
  repeat' first
    | with_reducible assumption | (with_reducible refine Foot.Sub.up hF ?_; decide +kernel)
    | with_reducible apply State.modLne_keeps | intro x | with_reducible exact Keeps.refl _ _

def State.modPort_foot : Foot := State.modLne_foot

theorem State.modPort_keeps (hs : Keeps F S s) (hF : Foot.Sub State.modPort_foot F) (p : Plane) (i : Nat)
    (f : PortSt → PortSt) :
    Keeps F S (State.modPort s p i f) := by
  unfold State.modPort
  repeat' first
    | with_reducible assumption | (with_reducible refine Foot.Sub.up hF ?_; decide +kernel)
    | with_reducible apply State.modLne_keeps | intro x | with_reducible exact Keeps.refl _ _

def State.setStage_foot : Foot := foot [] [.LNE_PORT_STAT]

theorem State.setStage_keeps (hs : Keeps F S s) (hF : Foot.Sub State.setStage_foot F) (p : Plane) (i st : Nat) :
    Keeps F S (State.setStage s p i st) := by
  unfold State.setStage
  repeat' first
    | with_reducible assumption | (with_reducible refine Foot.Sub.up hF ?_; decide +kernel)
    | with_reducible apply State.setF_keeps | with_reducible exact Keeps.refl _ _

def State.resetLanes_foot : Foot := Foot.join [foot [] [.LNE_LANE_STAT], State.resetWire_foot, State.modLane_foot]

theorem State.resetLanes_keeps (hs : Keeps F S s) (hF : Foot.Sub State.resetLanes_foot F) (p : Plane)
    (i mask : Nat) :
    Keeps F S (State.resetLanes s p i mask) := by
  unfold State.resetLanes
  repeat' first
    | with_reducible assumption | (with_reducible refine Foot.Sub.up hF ?_; decide +kernel)
    | ((first | intro x | (lift_lets; intro x))
       first
         | (refine Keeps.cut x ?_ (fun hx => ?_); rotate_left; clear_value x; rotate_left; unfold x)
         | clear_value x
         | skip)
    | with_reducible apply State.each_keeps | with_reducible apply State.setFlag_keeps
    | with_reducible apply State.setF_keeps | with_reducible apply State.resetWire_keeps
    | with_reducible apply State.modLane_keeps | with_reducible exact Keeps.refl _ _

def State.showSet_foot : Foot := foot [] [.LNE_PORT_STAT]

theorem State.showSet_keeps (hs : Keeps F S s) (hF : Foot.Sub State.showSet_foot F) (p : Plane) (i c m : Nat)
    (half : Bool) :
    Keeps F S (State.showSet s p i c m half) := by
  unfold State.showSet
  repeat' first
    | with_reducible assumption | (with_reducible refine Foot.Sub.up hF ?_; decide +kernel)
    | ((first | intro x | (lift_lets; intro x))
       first
         | (refine Keeps.cut x ?_ (fun hx => ?_); rotate_left; clear_value x; rotate_left; unfold x)
         | clear_value x
         | skip)
    | with_reducible apply State.setF_keeps | with_reducible apply State.setFlag_keeps
    | with_reducible exact Keeps.refl _ _

def State.endExchange_foot : Foot := Foot.join [foot [] [.LNE_QDISC_CNT], State.modPort_foot,
  State.stopCounters_foot]

theorem State.endExchange_keeps (hs : Keeps F S s) (hF : Foot.Sub State.endExchange_foot F) (p : Plane)
    (i : Nat) :
    Keeps F S (State.endExchange s p i) := by
  unfold State.endExchange
  repeat' first
    | with_reducible assumption | (with_reducible refine Foot.Sub.up hF ?_; decide +kernel)
    | ((first | intro x | (lift_lets; intro x))
       first
         | (refine Keeps.cut x ?_ (fun hx => ?_); rotate_left; clear_value x; rotate_left; unfold x)
         | clear_value x
         | skip)
    | with_reducible apply State.countN_keeps | with_reducible apply State.modPort_keeps
    | with_reducible apply State.stopCounters_keeps | with_reducible apply Keeps.ite
    | with_reducible exact Keeps.refl _ _

def State.enterLock_foot : Foot := Foot.join [State.setStage_foot, State.modStream_foot, State.modPort_foot]

theorem State.enterLock_keeps (hs : Keeps F S s) (hF : Foot.Sub State.enterLock_foot F) (p : Plane) (i m : Nat) :
    Keeps F S (State.enterLock s p i m) := by
  unfold State.enterLock
  repeat' first
    | with_reducible assumption | (with_reducible refine Foot.Sub.up hF ?_; decide +kernel)
    | with_reducible apply State.setStage_keeps | with_reducible apply State.modStream_keeps
    | with_reducible apply State.modPort_keeps | intro x | with_reducible exact Keeps.refl _ _

def State.enterDetect_foot : Foot := Foot.join [foot [] [.LNE_PORT_STAT], State.resetLanes_foot,
  State.modPort_foot, State.showSet_foot, State.enterLock_foot, State.setStage_foot]

theorem State.enterDetect_keeps (hs : Keeps F S s) (hF : Foot.Sub State.enterDetect_foot F) (p : Plane)
    (i reason : Nat) :
    Keeps F S (State.enterDetect s p i reason) := by
  unfold State.enterDetect
  repeat' first
    | with_reducible assumption | (with_reducible refine Foot.Sub.up hF ?_; decide +kernel)
    | ((first | intro x | (lift_lets; intro x))
       first
         | (refine Keeps.cut x ?_ (fun hx => ?_); rotate_left; clear_value x; rotate_left; unfold x)
         | clear_value x
         | skip)
    | with_reducible apply State.setF_keeps | with_reducible apply State.resetLanes_keeps
    | with_reducible apply State.modPort_keeps | with_reducible apply State.showSet_keeps
    | with_reducible apply State.enterLock_keeps | with_reducible apply State.setStage_keeps
    | with_reducible apply Keeps.ite | with_reducible exact Keeps.refl _ _

def State.enterFailed_foot : Foot := Foot.join [foot [] [.LNE_PORT_STAT], State.setStage_foot,
  State.enterDetect_foot, State.raise_foot]

theorem State.enterFailed_keeps (hs : Keeps F S s) (hF : Foot.Sub State.enterFailed_foot F) (p : Plane)
    (i reason : Nat) :
    Keeps F S (State.enterFailed s p i reason) := by
  unfold State.enterFailed
  repeat' first
    | with_reducible assumption | (with_reducible refine Foot.Sub.up hF ?_; decide +kernel)
    | ((first | intro x | (lift_lets; intro x))
       first
         | (refine Keeps.cut x ?_ (fun hx => ?_); rotate_left; clear_value x; rotate_left; unfold x)
         | clear_value x
         | skip)
    | with_reducible apply State.setF_keeps | with_reducible apply State.setStage_keeps
    | with_reducible apply State.enterDetect_keeps | with_reducible apply State.raise_keeps
    | with_reducible exact Keeps.refl _ _

def State.stageFail_foot : Foot := Foot.join [foot [] [.LNE_PORT_STAT], State.endExchange_foot,
  State.enterFailed_foot, State.enterDetect_foot]

theorem State.stageFail_keeps (hs : Keeps F S s) (hF : Foot.Sub State.stageFail_foot F) (p : Plane)
    (i reason : Nat) :
    Keeps F S (State.stageFail s p i reason) := by
  unfold State.stageFail
  repeat' first
    | with_reducible assumption | (with_reducible refine Foot.Sub.up hF ?_; decide +kernel)
    | ((first | intro x | (lift_lets; intro x))
       first
         | (refine Keeps.cut x ?_ (fun hx => ?_); rotate_left; clear_value x; rotate_left; unfold x)
         | clear_value x
         | skip)
    | with_reducible apply State.setF_keeps | with_reducible apply State.endExchange_keeps
    | with_reducible apply State.enterFailed_keeps | with_reducible apply State.enterDetect_keeps
    | with_reducible apply Keeps.ite | with_reducible exact Keeps.refl _ _

def State.leaveActive_foot : Foot := Foot.join [foot [.swc, .pkg] [.LNE_PORT_STAT, .LNE_PORT_CTL],
  State.setStage_foot, State.stopCounters_foot, State.flushCode_foot, State.cancelHold_foot, State.flip_foot,
  State.timePortDown_foot, State.cmapGap_foot, State.raise_foot, State.logError_foot]

theorem State.leaveActive_keeps (hs : Keeps F S s) (hF : Foot.Sub State.leaveActive_foot F) (p : Plane)
    (i reason : Nat) (held : Bool) :
    Keeps F S (State.leaveActive s p i reason held) := by
  unfold State.leaveActive
  repeat' first
    | with_reducible assumption | (with_reducible refine Foot.Sub.up hF ?_; decide +kernel)
    | ((first | intro x | (lift_lets; intro x))
       first
         | (refine Keeps.cut x ?_ (fun hx => ?_); rotate_left; clear_value x; rotate_left; unfold x)
         | clear_value x
         | skip)
    | with_reducible apply State.setF_keeps | with_reducible apply State.setFlag_keeps
    | with_reducible apply State.modSwc_keeps | with_reducible apply State.modPkg_keeps
    | with_reducible apply State.setStage_keeps | with_reducible apply State.stopCounters_keeps
    | with_reducible apply State.flushCode_keeps | with_reducible apply State.cancelHold_keeps
    | with_reducible apply State.flip_keeps | with_reducible apply State.timePortDown_keeps
    | with_reducible apply State.cmapGap_keeps | with_reducible apply State.raise_keeps
    | with_reducible apply State.logError_keeps | with_reducible apply Keeps.ite
    | with_reducible exact Keeps.refl _ _

def State.linkDown_foot : Foot := Foot.join [State.leaveActive_foot, State.enterFailed_foot,
  State.enterDetect_foot]

theorem State.linkDown_keeps (hs : Keeps F S s) (hF : Foot.Sub State.linkDown_foot F) (p : Plane)
    (i reason : Nat) :
    Keeps F S (State.linkDown s p i reason) := by
  unfold State.linkDown
  repeat' first
    | with_reducible assumption | (with_reducible refine Foot.Sub.up hF ?_; decide +kernel)
    | ((first | intro x | (lift_lets; intro x))
       first
         | (refine Keeps.cut x ?_ (fun hx => ?_); rotate_left; clear_value x; rotate_left; unfold x)
         | clear_value x
         | skip)
    | with_reducible apply State.leaveActive_keeps | with_reducible apply State.enterFailed_keeps
    | with_reducible apply State.enterDetect_keeps | with_reducible apply Keeps.ite
    | with_reducible exact Keeps.refl _ _

def State.enterActive_foot : Foot := Foot.join [foot [.swc] [.LNE_PORT_STAT, .LFP_PORT_STAT, .RTE_MARK_RX],
  State.modCred_foot, State.startCounters_foot, State.setStage_foot, State.showSet_foot, State.cmapGap_foot,
  State.modPort_foot, State.startHold_foot, State.raise_foot]

theorem State.enterActive_keeps (hs : Keeps F S s) (hF : Foot.Sub State.enterActive_foot F) (p : Plane)
    (i : Nat) :
    Keeps F S (State.enterActive s p i) := by
  unfold State.enterActive
  repeat' first
    | with_reducible assumption | (with_reducible refine Foot.Sub.up hF ?_; decide +kernel)
    | ((first | intro x | (lift_lets; intro x))
       first
         | (refine Keeps.cut x ?_ (fun hx => ?_); rotate_left; clear_value x; rotate_left; unfold x)
         | clear_value x
         | skip)
    | with_reducible apply State.each_keeps | with_reducible apply State.setF_keeps
    | with_reducible apply State.setFlag_keeps | with_reducible apply State.modSwc_keeps
    | with_reducible apply State.modCred_keeps | with_reducible apply State.startCounters_keeps
    | with_reducible apply State.setStage_keeps | with_reducible apply State.showSet_keeps
    | with_reducible apply State.cmapGap_keeps | with_reducible apply State.modPort_keeps
    | with_reducible apply State.startHold_keeps | with_reducible apply State.raise_keeps
    | with_reducible apply Keeps.ite | with_reducible exact Keeps.refl _ _

def State.updateExchange_foot : Foot := State.startCounters_foot

theorem State.updateExchange_keeps (hs : Keeps F S s) (hF : Foot.Sub State.updateExchange_foot F) (p : Plane)
    (i : Nat) :
    Keeps F S (State.updateExchange s p i) := by
  unfold State.updateExchange
  repeat' first
    | with_reducible assumption | (with_reducible refine Foot.Sub.up hF ?_; decide +kernel)
    | ((first | intro x | (lift_lets; intro x))
       first
         | (refine Keeps.cut x ?_ (fun hx => ?_); rotate_left; clear_value x; rotate_left; unfold x)
         | clear_value x
         | skip)
    | with_reducible apply State.startCounters_keeps | with_reducible apply Keeps.ite
    | with_reducible exact Keeps.refl _ _

def State.admitFar_foot : Foot := Foot.join [foot [] [.LNE_PORT_STAT], State.modPort_foot, State.setStage_foot,
  State.enterActive_foot, State.updateExchange_foot]

theorem State.admitFar_keeps (hs : Keeps F S s) (hF : Foot.Sub State.admitFar_foot F) (p : Plane) (i : Nat) :
    Keeps F S (State.admitFar s p i) := by
  unfold State.admitFar
  repeat' first
    | with_reducible assumption | (with_reducible refine Foot.Sub.up hF ?_; decide +kernel)
    | ((first | intro x | (lift_lets; intro x))
       first
         | (refine Keeps.cut x ?_ (fun hx => ?_); rotate_left; clear_value x; rotate_left; unfold x)
         | clear_value x
         | skip)
    | with_reducible apply State.setF_keeps | with_reducible apply State.modPort_keeps
    | with_reducible apply State.setStage_keeps | with_reducible apply State.enterActive_keeps
    | with_reducible apply State.updateExchange_keeps | with_reducible apply Keeps.ite
    | with_reducible exact Keeps.refl _ _

def State.quarantine_foot : Foot := Foot.join [foot [] [.LNE_PORT_STAT], State.setStage_foot, State.modPort_foot,
  State.updateExchange_foot, State.raise_foot]

theorem State.quarantine_keeps (hs : Keeps F S s) (hF : Foot.Sub State.quarantine_foot F) (p : Plane)
    (i reason : Nat) :
    Keeps F S (State.quarantine s p i reason) := by
  unfold State.quarantine
  repeat' first
    | with_reducible assumption | (with_reducible refine Foot.Sub.up hF ?_; decide +kernel)
    | ((first | intro x | (lift_lets; intro x))
       first
         | (refine Keeps.cut x ?_ (fun hx => ?_); rotate_left; clear_value x; rotate_left; unfold x)
         | clear_value x
         | skip)
    | with_reducible apply State.setF_keeps | with_reducible apply State.setStage_keeps
    | with_reducible apply State.modPort_keeps | with_reducible apply State.updateExchange_keeps
    | with_reducible apply State.raise_keeps | with_reducible apply Keeps.ite | with_reducible exact Keeps.refl _ _

def State.takePlan_foot : Foot := State.modPort_foot

theorem State.takePlan_keeps (hs : Keeps F S s) (hF : Foot.Sub State.takePlan_foot F) (p : Plane) (i : Nat) :
    Keeps F S (State.takePlan s p i) := by
  unfold State.takePlan
  repeat' first
    | with_reducible assumption | (with_reducible refine Foot.Sub.up hF ?_; decide +kernel)
    | with_reducible apply State.modPort_keeps | intro x | with_reducible exact Keeps.refl _ _

def State.ensignCheck_foot : Foot := Foot.join [State.quarantine_foot, State.admitFar_foot]

theorem State.ensignCheck_keeps (hs : Keeps F S s) (hF : Foot.Sub State.ensignCheck_foot F) (p : Plane)
    (i : Nat) :
    Keeps F S (State.ensignCheck s p i) := by
  unfold State.ensignCheck
  repeat' first
    | with_reducible assumption | (with_reducible refine Foot.Sub.up hF ?_; decide +kernel)
    | ((first | intro x | (lift_lets; intro x))
       first
         | (refine Keeps.cut x ?_ (fun hx => ?_); rotate_left; clear_value x; rotate_left; unfold x)
         | clear_value x
         | skip)
    | with_reducible apply State.quarantine_keeps | with_reducible apply State.admitFar_keeps
    | with_reducible apply Keeps.ite | split | with_reducible exact Keeps.refl _ _

def State.startTrain_foot : Foot := State.modLane_foot

theorem State.startTrain_keeps (hs : Keeps F S s) (hF : Foot.Sub State.startTrain_foot F) (p : Plane)
    (i mask : Nat) :
    Keeps F S (State.startTrain s p i mask) := by
  unfold State.startTrain
  repeat' first
    | with_reducible assumption | (with_reducible refine Foot.Sub.up hF ?_; decide +kernel)
    | ((first | intro x | (lift_lets; intro x))
       first
         | (refine Keeps.cut x ?_ (fun hx => ?_); rotate_left; clear_value x; rotate_left; unfold x)
         | clear_value x
         | skip)
    | with_reducible apply State.each_keeps | with_reducible apply State.modLane_keeps
    | with_reducible exact Keeps.refl _ _

def State.trainDone_foot : Foot := State.enterLock_foot

theorem State.trainDone_keeps (hs : Keeps F S s) (hF : Foot.Sub State.trainDone_foot F) (p : Plane) (i : Nat) :
    Keeps F S (State.trainDone s p i) := by
  unfold State.trainDone
  repeat' first
    | with_reducible assumption | (with_reducible refine Foot.Sub.up hF ?_; decide +kernel)
    | ((first | intro x | (lift_lets; intro x))
       first
         | (refine Keeps.cut x ?_ (fun hx => ?_); rotate_left; clear_value x; rotate_left; unfold x)
         | clear_value x
         | skip)
    | with_reducible apply State.enterLock_keeps | with_reducible apply Keeps.ite | split
    | with_reducible exact Keeps.refl _ _

def State.laneTrained_foot : Foot := Foot.join [foot [] [.LNE_LANE_STAT], State.trainDone_foot, State.modLane_foot]

theorem State.laneTrained_keeps (hs : Keeps F S s) (hF : Foot.Sub State.laneTrained_foot F) (p : Plane)
    (i l : Nat) :
    Keeps F S (State.laneTrained s p i l) := by
  unfold State.laneTrained
  repeat' first
    | with_reducible assumption | (with_reducible refine Foot.Sub.up hF ?_; decide +kernel)
    | ((first | intro x | (lift_lets; intro x))
       first
         | (refine Keeps.cut x ?_ (fun hx => ?_); rotate_left; clear_value x; rotate_left; unfold x)
         | clear_value x
         | skip)
    | with_reducible apply State.setFlag_keeps | with_reducible apply State.trainDone_keeps
    | with_reducible apply State.modLane_keeps | with_reducible apply Keeps.ite
    | with_reducible exact Keeps.refl _ _

theorem coefFld_foot (h : Foot.Sub (foot [] [.LNE_TX_COEF]) F) (t : Nat) : Foot.Sub (coefFld t).reg.foot F := by
  unfold coefFld
  split <;> exact h

def State.moveTap_foot : Foot := foot [.loose] [.LNE_TX_COEF]

theorem State.moveTap_keeps (hs : Keeps F S s) (hF : Foot.Sub State.moveTap_foot F) (p : Plane)
    (l t req rep : Nat) :
    Keeps F S (State.moveTap s p l t req rep).2 := by
  unfold State.moveTap
  repeat' first
    | with_reducible assumption | (with_reducible refine Foot.Sub.up hF ?_; decide +kernel)
    | with_reducible apply coefFld_foot
    | ((first | intro x | (lift_lets; intro x))
       first
         | (refine Keeps.cut x ?_ (fun hx => ?_); rotate_left; clear_value x; rotate_left; unfold x)
         | clear_value x
         | skip)
    | with_reducible apply State.setFree_keeps | with_reducible apply State.setF_keeps
    | with_reducible apply Keeps.ite | with_reducible apply Keeps.ite_snd | split
    | with_reducible exact Keeps.refl _ _

def State.applyPreset_foot : Foot := foot [.loose, .free] [.LNE_TX_COEF]

theorem State.applyPreset_keeps (hs : Keeps F S s) (hF : Foot.Sub State.applyPreset_foot F) (p : Plane)
    (l pre : Nat) :
    Keeps F S (State.applyPreset s p l pre) := by
  unfold State.applyPreset
  repeat' first
    | with_reducible assumption | (with_reducible refine Foot.Sub.up hF ?_; decide +kernel)
    | with_reducible apply coefFld_foot
    | ((first | intro x | (lift_lets; intro x))
       first
         | (refine Keeps.cut x ?_ (fun hx => ?_); rotate_left; clear_value x; rotate_left; unfold x)
         | clear_value x
         | skip)
    | with_reducible apply State.each_keeps | with_reducible apply State.endFree_keeps
    | with_reducible apply State.setF_keeps | with_reducible apply State.takeFree_keeps
    | with_reducible apply State.setFree_keeps | with_reducible apply Keeps.ite
    | with_reducible refine Keeps.snd ?_ (by assumption) | split | with_reducible exact Keeps.refl _ _

def State.trainAnswer_foot : Foot := Foot.join [State.applyPreset_foot, State.modLane_foot, State.moveTap_foot]

theorem State.trainAnswer_keeps (hs : Keeps F S s) (hF : Foot.Sub State.trainAnswer_foot F) (p : Plane)
    (l pre : Nat) (ra rb : Byte) :
    Keeps F S (State.trainAnswer s p l pre ra rb) := by
  unfold State.trainAnswer
  repeat' first
    | with_reducible assumption | (with_reducible refine Foot.Sub.up hF ?_; decide +kernel)
    | ((first | intro x | (lift_lets; intro x))
       first
         | (refine Keeps.cut x ?_ (fun hx => ?_); rotate_left; clear_value x; rotate_left; unfold x)
         | clear_value x
         | skip)
    | with_reducible apply State.applyPreset_keeps | with_reducible apply State.modLane_keeps
    | with_reducible apply State.moveTap_keeps | with_reducible apply Keeps.ite
    | with_reducible exact Keeps.refl _ _

def State.trainAsk_foot : Foot := Foot.join [foot [.free] [], State.modLane_foot]

theorem State.trainAsk_keeps (hs : Keeps F S s) (hF : Foot.Sub State.trainAsk_foot F) (p : Plane) (l fp : Nat)
    (fa fb : Byte) (converged : Bool) :
    Keeps F S (State.trainAsk s p l fp fa fb converged) := by
  unfold State.trainAsk
  repeat' first
    | with_reducible assumption | (with_reducible refine Foot.Sub.up hF ?_; decide +kernel)
    | with_reducible apply State.takeFree_keeps | with_reducible apply State.modLane_keeps | intro x
    | with_reducible exact Keeps.refl _ _

def State.trainFrame_foot : Foot := Foot.join [foot [] [.LNE_LANE_STAT], State.trainAnswer_foot,
  State.trainAsk_foot, State.modLane_foot, State.laneTrained_foot]

theorem State.trainFrame_keeps (hs : Keeps F S s) (hF : Foot.Sub State.trainFrame_foot F) (p : Plane)
    (i l : Nat) (b : Bytes) (converged : Bool) :
    Keeps F S (State.trainFrame s p i l b converged) := by
  unfold State.trainFrame
  repeat' first
    | with_reducible assumption | (with_reducible refine Foot.Sub.up hF ?_; decide +kernel)
    | ((first | intro x | (lift_lets; intro x))
       first
         | (refine Keeps.cut x ?_ (fun hx => ?_); rotate_left; clear_value x; rotate_left; unfold x)
         | clear_value x
         | skip)
    | with_reducible apply State.setFlag_keeps | with_reducible apply State.trainAnswer_keeps
    | with_reducible apply State.trainAsk_keeps | with_reducible apply State.modLane_keeps
    | with_reducible apply State.laneTrained_keeps | with_reducible apply Keeps.ite
    | with_reducible exact Keeps.refl _ _

def State.sendTrain_foot : Foot := Foot.join [foot [.out] [], State.modWire_foot, State.drive_foot,
  State.modLane_foot, State.laneTrained_foot]

theorem State.sendTrain_keeps (hs : Keeps F S s) (hF : Foot.Sub State.sendTrain_foot F) (p : Plane) (i l : Nat) :
    Keeps F S (State.sendTrain s p i l) := by
  unfold State.sendTrain
  repeat' first
    | with_reducible assumption | (with_reducible refine Foot.Sub.up hF ?_; decide +kernel)
    | ((first | intro x | (lift_lets; intro x))
       first
         | (refine Keeps.cut x ?_ (fun hx => ?_); rotate_left; clear_value x; rotate_left; unfold x)
         | clear_value x
         | skip)
    | with_reducible apply State.emit_keeps | with_reducible apply State.modWire_keeps
    | with_reducible apply State.drive_keeps | with_reducible apply State.modLane_keeps
    | with_reducible apply State.laneTrained_keeps | with_reducible apply Keeps.ite
    | with_reducible exact Keeps.refl _ _

def State.startChange_foot : Foot := State.modPort_foot

theorem State.startChange_keeps (hs : Keeps F S s) (hF : Foot.Sub State.startChange_foot F) (p : Plane)
    (i : Nat) :
    Keeps F S (State.startChange s p i) := by
  unfold State.startChange
  repeat' first
    | with_reducible assumption | (with_reducible refine Foot.Sub.up hF ?_; decide +kernel)
    | with_reducible apply State.modPort_keeps | intro x | with_reducible exact Keeps.refl _ _

def State.moveTx_foot : Foot := Foot.join [State.modStream_foot, State.modPort_foot]

theorem State.moveTx_keeps (hs : Keeps F S s) (hF : Foot.Sub State.moveTx_foot F) (p : Plane) (i : Nat) :
    Keeps F S (State.moveTx s p i) := by
  unfold State.moveTx
  repeat' first
    | with_reducible assumption | (with_reducible refine Foot.Sub.up hF ?_; decide +kernel)
    | with_reducible apply State.modStream_keeps | with_reducible apply State.modPort_keeps | intro x | split
    | with_reducible exact Keeps.refl _ _

def State.moveRx_foot : Foot := Foot.join [State.modStream_foot, State.modPort_foot]

theorem State.moveRx_keeps (hs : Keeps F S s) (hF : Foot.Sub State.moveRx_foot F) (p : Plane) (i : Nat) :
    Keeps F S (State.moveRx s p i) := by
  unfold State.moveRx
  repeat' first
    | with_reducible assumption | (with_reducible refine Foot.Sub.up hF ?_; decide +kernel)
    | with_reducible apply State.modStream_keeps | with_reducible apply State.modPort_keeps | intro x | split
    | with_reducible exact Keeps.refl _ _

def State.showFar_foot : Foot := foot [] [.LNE_FAR_ENSIGN]

theorem State.showFar_keeps (hs : Keeps F S s) (hF : Foot.Sub State.showFar_foot F) (p : Plane) (i : Nat) :
    Keeps F S (State.showFar s p i) := by
  unfold State.showFar
  repeat' first
    | with_reducible assumption | (with_reducible refine Foot.Sub.up hF ?_; decide +kernel)
    | with_reducible apply State.setWords_keeps | intro x | split | with_reducible exact Keeps.refl _ _

def State.endChange_foot : Foot := Foot.join [foot [] [.LNE_PORT_CTL], State.modPort_foot, State.showFar_foot,
  State.showSet_foot, State.raise_foot]

theorem State.endChange_keeps (hs : Keeps F S s) (hF : Foot.Sub State.endChange_foot F) (p : Plane) (i : Nat) :
    Keeps F S (State.endChange s p i) := by
  unfold State.endChange
  repeat' first
    | with_reducible assumption | (with_reducible refine Foot.Sub.up hF ?_; decide +kernel)
    | ((first | intro x | (lift_lets; intro x))
       first
         | (refine Keeps.cut x ?_ (fun hx => ?_); rotate_left; clear_value x; rotate_left; unfold x)
         | clear_value x
         | skip)
    | with_reducible apply State.setFlag_keeps | with_reducible apply State.modPort_keeps
    | with_reducible apply State.showFar_keeps | with_reducible apply State.showSet_keeps
    | with_reducible apply State.raise_keeps | with_reducible apply Keeps.ite | split
    | with_reducible exact Keeps.refl _ _

def State.mergeFail_foot : Foot := Foot.join [State.modPort_foot, State.startChange_foot, State.linkDown_foot]

theorem State.mergeFail_keeps (hs : Keeps F S s) (hF : Foot.Sub State.mergeFail_foot F) (p : Plane)
    (i mask : Nat) :
    Keeps F S (State.mergeFail s p i mask) := by
  unfold State.mergeFail
  repeat' first
    | with_reducible assumption | (with_reducible refine Foot.Sub.up hF ?_; decide +kernel)
    | ((first | intro x | (lift_lets; intro x))
       first
         | (refine Keeps.cut x ?_ (fun hx => ?_); rotate_left; clear_value x; rotate_left; unfold x)
         | clear_value x
         | skip)
    | with_reducible apply State.modPort_keeps | with_reducible apply State.startChange_keeps
    | with_reducible apply State.linkDown_keeps | split | with_reducible exact Keeps.refl _ _

def State.laneFail_foot : Foot := Foot.join [foot [] [.LNE_LANE_STAT], State.logError_foot, State.modPort_foot,
  State.mergeFail_foot, State.enterDetect_foot, State.endExchange_foot]

theorem State.laneFail_keeps (hs : Keeps F S s) (hF : Foot.Sub State.laneFail_foot F) (p : Plane)
    (i l cause : Nat) :
    Keeps F S (State.laneFail s p i l cause) := by
  unfold State.laneFail
  repeat' first
    | with_reducible assumption | (with_reducible refine Foot.Sub.up hF ?_; decide +kernel)
    | ((first | intro x | (lift_lets; intro x))
       first
         | (refine Keeps.cut x ?_ (fun hx => ?_); rotate_left; clear_value x; rotate_left; unfold x)
         | clear_value x
         | skip)
    | with_reducible apply State.setFlag_keeps | with_reducible apply State.logError_keeps
    | with_reducible apply State.modPort_keeps | with_reducible apply State.mergeFail_keeps
    | with_reducible apply State.enterDetect_keeps | with_reducible apply State.endExchange_keeps
    | with_reducible apply Keeps.ite | split | with_reducible exact Keeps.refl _ _

def State.startRestore_foot : Foot := Foot.join [foot [] [.LNE_PORT_CTL], State.resetLanes_foot,
  State.startTrain_foot, State.modPort_foot]

theorem State.startRestore_keeps (hs : Keeps F S s) (hF : Foot.Sub State.startRestore_foot F) (p : Plane)
    (i : Nat) :
    Keeps F S (State.startRestore s p i) := by
  unfold State.startRestore
  repeat' first
    | with_reducible assumption | (with_reducible refine Foot.Sub.up hF ?_; decide +kernel)
    | ((first | intro x | (lift_lets; intro x))
       first
         | (refine Keeps.cut x ?_ (fun hx => ?_); rotate_left; clear_value x; rotate_left; unfold x)
         | clear_value x
         | skip)
    | with_reducible apply State.setFlag_keeps | with_reducible apply State.resetLanes_keeps
    | with_reducible apply State.startTrain_keeps | with_reducible apply State.modPort_keeps
    | with_reducible apply Keeps.ite | with_reducible exact Keeps.refl _ _

def State.restoreEnd_foot : Foot := Foot.join [foot [] [.LNE_PORT_CTL], State.modPort_foot, State.startChange_foot]

theorem State.restoreEnd_keeps (hs : Keeps F S s) (hF : Foot.Sub State.restoreEnd_foot F) (p : Plane) (i : Nat) :
    Keeps F S (State.restoreEnd s p i) := by
  unfold State.restoreEnd
  repeat' first
    | with_reducible assumption | (with_reducible refine Foot.Sub.up hF ?_; decide +kernel)
    | ((first | intro x | (lift_lets; intro x))
       first
         | (refine Keeps.cut x ?_ (fun hx => ?_); rotate_left; clear_value x; rotate_left; unfold x)
         | clear_value x
         | skip)
    | with_reducible apply State.setFlag_keeps | with_reducible apply State.modPort_keeps
    | with_reducible apply State.startChange_keeps | with_reducible apply Keeps.ite
    | with_reducible exact Keeps.refl _ _

def State.lockDone_foot : Foot := Foot.join [State.stageFail_foot, State.setStage_foot, State.takePlan_foot]

theorem State.lockDone_keeps (hs : Keeps F S s) (hF : Foot.Sub State.lockDone_foot F) (p : Plane) (i : Nat) :
    Keeps F S (State.lockDone s p i) := by
  unfold State.lockDone
  repeat' first
    | with_reducible assumption | (with_reducible refine Foot.Sub.up hF ?_; decide +kernel)
    | ((first | intro x | (lift_lets; intro x))
       first
         | (refine Keeps.cut x ?_ (fun hx => ?_); rotate_left; clear_value x; rotate_left; unfold x)
         | clear_value x
         | skip)
    | with_reducible apply State.stageFail_keeps | with_reducible apply State.setStage_keeps
    | with_reducible apply State.takePlan_keeps | with_reducible apply Keeps.ite
    | with_reducible exact Keeps.refl _ _

def State.restoreLock_foot : Foot := Foot.join [foot [] [.LNE_LANE_STAT], State.modPort_foot,
  State.startChange_foot]

theorem State.restoreLock_keeps (hs : Keeps F S s) (hF : Foot.Sub State.restoreLock_foot F) (p : Plane)
    (i l : Nat) :
    Keeps F S (State.restoreLock s p i l) := by
  unfold State.restoreLock
  repeat' first
    | with_reducible assumption | (with_reducible refine Foot.Sub.up hF ?_; decide +kernel)
    | ((first | intro x | (lift_lets; intro x))
       first
         | (refine Keeps.cut x ?_ (fun hx => ?_); rotate_left; clear_value x; rotate_left; unfold x)
         | clear_value x
         | skip)
    | with_reducible apply State.setFlag_keeps | with_reducible apply State.modPort_keeps
    | with_reducible apply State.startChange_keeps | with_reducible apply Keeps.ite
    | with_reducible exact Keeps.refl _ _

def State.wakeDone_foot : Foot := State.modPort_foot

theorem State.wakeDone_keeps (hs : Keeps F S s) (hF : Foot.Sub State.wakeDone_foot F) (p : Plane) (i : Nat) :
    Keeps F S (State.wakeDone s p i) := by
  unfold State.wakeDone
  repeat' first
    | with_reducible assumption | (with_reducible refine Foot.Sub.up hF ?_; decide +kernel)
    | ((first | intro x | (lift_lets; intro x))
       first
         | (refine Keeps.cut x ?_ (fun hx => ?_); rotate_left; clear_value x; rotate_left; unfold x)
         | clear_value x
         | skip)
    | with_reducible apply State.modPort_keeps | with_reducible apply Keeps.ite
    | with_reducible exact Keeps.refl _ _

def State.markerIn_foot : Foot := Foot.join [foot [.free, .loose] [.LNE_LANE_STAT], State.modLane_foot,
  State.laneFail_foot, State.restoreLock_foot, State.wakeDone_foot, State.lockDone_foot]

theorem State.markerIn_keeps (hs : Keeps F S s) (hF : Foot.Sub State.markerIn_foot F) (p : Plane) (i l : Nat)
    (b : Bytes) (atSpacing : Bool) (skew : Nat) :
    Keeps F S (State.markerIn s p i l b atSpacing skew) := by
  unfold State.markerIn
  repeat' first
    | with_reducible assumption | (with_reducible refine Foot.Sub.up hF ?_; decide +kernel)
    | ((first | intro x | (lift_lets; intro x))
       first
         | (refine Keeps.cut x ?_ (fun hx => ?_); rotate_left; clear_value x; rotate_left; unfold x)
         | clear_value x
         | skip)
    | with_reducible apply State.setFlag_keeps | with_reducible apply State.setF_keeps
    | with_reducible apply State.takeFree_keeps | with_reducible apply State.setFree_keeps
    | with_reducible apply State.modLane_keeps | with_reducible apply State.laneFail_keeps
    | with_reducible apply State.restoreLock_keeps | with_reducible apply State.wakeDone_keeps
    | with_reducible apply State.lockDone_keeps | with_reducible apply Keeps.ite
    | with_reducible refine Keeps.snd ?_ (by assumption) | split | with_reducible exact Keeps.refl _ _

def State.ensignIn_foot : Foot := Foot.join [State.modLane_foot, State.showFar_foot, State.modPort_foot,
  State.ensignCheck_foot, State.enterActive_foot]

theorem State.ensignIn_keeps (hs : Keeps F S s) (hF : Foot.Sub State.ensignIn_foot F) (p : Plane) (i l : Nat)
    (b : Bytes) :
    Keeps F S (State.ensignIn s p i l b) := by
  unfold State.ensignIn
  repeat' first
    | with_reducible assumption | (with_reducible refine Foot.Sub.up hF ?_; decide +kernel)
    | ((first | intro x | (lift_lets; intro x))
       first
         | (refine Keeps.cut x ?_ (fun hx => ?_); rotate_left; clear_value x; rotate_left; unfold x)
         | clear_value x
         | skip)
    | with_reducible apply State.modLane_keeps | with_reducible apply State.showFar_keeps
    | with_reducible apply State.modPort_keeps | with_reducible apply State.ensignCheck_keeps
    | with_reducible apply State.enterActive_keeps | with_reducible apply Keeps.ite
    | with_reducible exact Keeps.refl _ _

def State.lpiEnter_foot : Foot := Foot.join [foot [] [.LNE_LANE_STAT], State.modPort_foot]

theorem State.lpiEnter_keeps (hs : Keeps F S s) (hF : Foot.Sub State.lpiEnter_foot F) (p : Plane) (i : Nat) :
    Keeps F S (State.lpiEnter s p i) := by
  unfold State.lpiEnter
  repeat' first
    | with_reducible assumption | (with_reducible refine Foot.Sub.up hF ?_; decide +kernel)
    | ((first | intro x | (lift_lets; intro x))
       first
         | (refine Keeps.cut x ?_ (fun hx => ?_); rotate_left; clear_value x; rotate_left; unfold x)
         | clear_value x
         | skip)
    | with_reducible apply State.each_keeps | with_reducible apply State.setFlag_keeps
    | with_reducible apply State.modPort_keeps | with_reducible exact Keeps.refl _ _

def State.lpiWake_foot : Foot := Foot.join [foot [.out] [.LNE_LANE_STAT], State.modPort_foot, State.modLane_foot]

theorem State.lpiWake_keeps (hs : Keeps F S s) (hF : Foot.Sub State.lpiWake_foot F) (p : Plane) (i : Nat) :
    Keeps F S (State.lpiWake s p i) := by
  unfold State.lpiWake
  repeat' first
    | with_reducible assumption | (with_reducible refine Foot.Sub.up hF ?_; decide +kernel)
    | ((first | intro x | (lift_lets; intro x))
       first
         | (refine Keeps.cut x ?_ (fun hx => ?_); rotate_left; clear_value x; rotate_left; unfold x)
         | clear_value x
         | skip)
    | with_reducible apply State.each_keeps | with_reducible apply State.emit_keeps
    | with_reducible apply State.setFlag_keeps | with_reducible apply State.modPort_keeps
    | with_reducible apply State.modLane_keeps | with_reducible apply Keeps.ite
    | with_reducible exact Keeps.refl _ _

def State.slotBlock_foot : Foot := Foot.join [foot [.out] [], State.slotAll_foot]

theorem State.slotBlock_keeps (hs : Keeps F S s) (hF : Foot.Sub State.slotBlock_foot F) (p : Plane) (i : Nat)
    (kind : Byte) (b : Bytes) :
    Keeps F S (State.slotBlock s p i kind b) := by
  unfold State.slotBlock
  repeat' first
    | with_reducible assumption | (with_reducible refine Foot.Sub.up hF ?_; decide +kernel)
    | ((first | intro x | (lift_lets; intro x))
       first
         | (refine Keeps.cut x ?_ (fun hx => ?_); rotate_left; clear_value x; rotate_left; unfold x)
         | clear_value x
         | skip)
    | with_reducible apply State.emit_keeps | with_reducible apply State.slotAll_keeps
    | with_reducible exact Keeps.refl _ _

def State.storeCfg_foot : Foot := foot [] [.LNE_PORT_CFG]

theorem State.storeCfg_keeps (hs : Keeps F S s) (hF : Foot.Sub State.storeCfg_foot F) (p : Plane) (i : Nat)
    (v : Word) :
    Keeps F S (State.storeCfg s p i v) := by
  unfold State.storeCfg
  repeat' first
    | with_reducible assumption | (with_reducible refine Foot.Sub.up hF ?_; decide +kernel)
    | with_reducible apply State.setWord_keeps | with_reducible exact Keeps.refl _ _

def State.portOn_foot : Foot := Foot.join [foot [.swc] [.LNE_PORT_STAT], State.storeCfg_foot, State.modPort_foot,
  State.enterDetect_foot]

theorem State.portOn_keeps (hs : Keeps F S s) (hF : Foot.Sub State.portOn_foot F) (p : Plane) (i : Nat)
    (v : Word) :
    Keeps F S (State.portOn s p i v) := by
  unfold State.portOn
  repeat' first
    | with_reducible assumption | (with_reducible refine Foot.Sub.up hF ?_; decide +kernel)
    | ((first | intro x | (lift_lets; intro x))
       first
         | (refine Keeps.cut x ?_ (fun hx => ?_); rotate_left; clear_value x; rotate_left; unfold x)
         | clear_value x
         | skip)
    | with_reducible apply State.setFlag_keeps | with_reducible apply State.modSwc_keeps
    | with_reducible apply State.setF_keeps | with_reducible apply State.storeCfg_keeps
    | with_reducible apply State.modPort_keeps | with_reducible apply State.enterDetect_keeps
    | with_reducible apply Keeps.ite | with_reducible exact Keeps.refl _ _

def State.portDown_foot : Foot := Foot.join [State.leaveActive_foot, State.flip_foot, State.endExchange_foot]

theorem State.portDown_keeps (hs : Keeps F S s) (hF : Foot.Sub State.portDown_foot F) (p : Plane)
    (i reason : Nat) (held : Bool) :
    Keeps F S (State.portDown s p i reason held) := by
  unfold State.portDown
  repeat' first
    | with_reducible assumption | (with_reducible refine Foot.Sub.up hF ?_; decide +kernel)
    | with_reducible apply State.leaveActive_keeps | with_reducible apply State.flip_keeps
    | with_reducible apply State.endExchange_keeps | with_reducible apply Keeps.ite
    | with_reducible exact Keeps.refl _ _

def State.portOff_foot : Foot := Foot.join [foot [.swc] [.LNE_PORT_STAT], State.portDown_foot,
  State.resetLanes_foot, State.modPort_foot, State.showSet_foot, State.setStage_foot, State.storeCfg_foot]

theorem State.portOff_keeps (hs : Keeps F S s) (hF : Foot.Sub State.portOff_foot F) (p : Plane) (i : Nat)
    (v : Word) :
    Keeps F S (State.portOff s p i v) := by
  unfold State.portOff
  repeat' first
    | with_reducible assumption | (with_reducible refine Foot.Sub.up hF ?_; decide +kernel)
    | ((first | intro x | (lift_lets; intro x))
       first
         | (refine Keeps.cut x ?_ (fun hx => ?_); rotate_left; clear_value x; rotate_left; unfold x)
         | clear_value x
         | skip)
    | with_reducible apply State.setF_keeps | with_reducible apply State.modSwc_keeps
    | with_reducible apply State.portDown_keeps | with_reducible apply State.resetLanes_keeps
    | with_reducible apply State.modPort_keeps | with_reducible apply State.showSet_keeps
    | with_reducible apply State.setStage_keeps | with_reducible apply State.storeCfg_keeps
    | with_reducible exact Keeps.refl _ _

theorem State.onLane_keeps (hs : Keeps F S s) (p : Plane) (l : Nat) (f : Nat → State → State)
    (hf : ∀ a0 s, Keeps F s (f a0 s)) :
    Keeps F S (State.onLane s p l f) := by
  unfold State.onLane
  repeat' first
    | with_reducible assumption | with_reducible refine Keeps.trans ?_ (hf ..) | with_reducible apply Keeps.ite
    | split | with_reducible exact Keeps.refl _ _

def execPortEnable_foot : Foot := State.portOn_foot

theorem execPortEnable_keeps (hF : Foot.Sub execPortEnable_foot F) (p : Plane) (i : Fin 576) (v : Word)
    (s : State) :
    ∃ t', execPortEnable p i v s = .next t' ∧ Keeps F s t' := by
  unfold execPortEnable
  refine ⟨_, rfl, ?_⟩
  repeat' first
    | with_reducible assumption | (with_reducible refine Foot.Sub.up hF ?_; decide +kernel)
    | with_reducible apply State.when_keeps | with_reducible apply State.portOn_keeps | intro x
    | with_reducible exact Keeps.refl _ _

def execPortDisable_foot : Foot := State.portOff_foot

theorem execPortDisable_keeps (hF : Foot.Sub execPortDisable_foot F) (p : Plane) (i : Fin 576) (v : Word)
    (s : State) :
    ∃ t', execPortDisable p i v s = .next t' ∧ Keeps F s t' := by
  unfold execPortDisable
  refine ⟨_, rfl, ?_⟩
  repeat' first
    | with_reducible assumption | (with_reducible refine Foot.Sub.up hF ?_; decide +kernel)
    | with_reducible apply State.when_keeps | with_reducible apply State.portOff_keeps | intro x
    | with_reducible exact Keeps.refl _ _

def State.senseIn_foot : Foot := Foot.join [foot [] [.LNE_PORT_STAT], State.modPort_foot, State.setStage_foot,
  State.startTrain_foot]

theorem State.senseIn_keeps (hs : Keeps F S s) (hF : Foot.Sub State.senseIn_foot F) (p : Plane) (i mask : Nat) :
    Keeps F S (State.senseIn s p i mask) := by
  unfold State.senseIn
  repeat' first
    | with_reducible assumption | (with_reducible refine Foot.Sub.up hF ?_; decide +kernel)
    | ((first | intro x | (lift_lets; intro x))
       first
         | (refine Keeps.cut x ?_ (fun hx => ?_); rotate_left; clear_value x; rotate_left; unfold x)
         | clear_value x
         | skip)
    | with_reducible apply State.setF_keeps | with_reducible apply State.modPort_keeps
    | with_reducible apply State.setStage_keeps | with_reducible apply State.startTrain_keeps
    | with_reducible apply Keeps.ite | split | with_reducible exact Keeps.refl _ _

def execDetectSense_foot : Foot := Foot.join [foot [] [.LNE_PORT_STAT], State.senseIn_foot]

theorem execDetectSense_keeps (hF : Foot.Sub execDetectSense_foot F) (p : Plane) (i : Fin 576)
    (mask : BitVec 16) (s : State) :
    ∃ t', execDetectSense p i mask s = .next t' ∧ Keeps F s t' := by
  unfold execDetectSense
  refine ⟨_, rfl, ?_⟩
  repeat' first
    | with_reducible assumption | (with_reducible refine Foot.Sub.up hF ?_; decide +kernel)
    | with_reducible apply State.when_keeps | with_reducible apply State.setF_keeps
    | with_reducible apply State.senseIn_keeps | intro x | with_reducible apply Keeps.ite
    | with_reducible exact Keeps.refl _ _

def execTrainTimeout_foot : Foot := Foot.join [State.enterLock_foot, State.stageFail_foot, State.restoreEnd_foot]

theorem execTrainTimeout_keeps (hF : Foot.Sub execTrainTimeout_foot F) (p : Plane) (i : Fin 576) (s : State) :
    ∃ t', execTrainTimeout p i s = .next t' ∧ Keeps F s t' := by
  unfold execTrainTimeout
  refine ⟨_, rfl, ?_⟩
  repeat' first
    | with_reducible assumption | (with_reducible refine Foot.Sub.up hF ?_; decide +kernel)
    | ((first | intro x | (lift_lets; intro x))
       first
         | (refine Keeps.cut x ?_ (fun hx => ?_); rotate_left; clear_value x; rotate_left; unfold x)
         | clear_value x
         | skip)
    | with_reducible apply State.when_keeps | with_reducible apply State.enterLock_keeps
    | with_reducible apply State.stageFail_keeps | with_reducible apply State.restoreEnd_keeps
    | with_reducible apply Keeps.ite | split | with_reducible exact Keeps.refl _ _

def execAlignmentMarker_foot : Foot := State.markerIn_foot

theorem execAlignmentMarker_keeps (hF : Foot.Sub execAlignmentMarker_foot F) (p : Plane) (lane : Fin 576)
    (bytes : Bytes) (atSpacing : Bool) (skew : BitVec 16) (s : State) :
    ∃ t', execAlignmentMarker p lane bytes atSpacing skew s = .next t' ∧ Keeps F s t' := by
  unfold execAlignmentMarker
  refine ⟨_, rfl, ?_⟩
  repeat' first
    | with_reducible assumption | (with_reducible refine Foot.Sub.up hF ?_; decide +kernel)
    | with_reducible apply State.onLane_keeps | with_reducible apply State.markerIn_keeps | intro x
    | with_reducible apply Keeps.ite | with_reducible exact Keeps.refl _ _

def execMarkerLoss_foot : Foot := Foot.join [State.laneFail_foot, State.modLane_foot]

theorem execMarkerLoss_keeps (hF : Foot.Sub execMarkerLoss_foot F) (p : Plane) (lane : Fin 576) (s : State) :
    ∃ t', execMarkerLoss p lane s = .next t' ∧ Keeps F s t' := by
  unfold execMarkerLoss
  refine ⟨_, rfl, ?_⟩
  repeat' first
    | with_reducible assumption | (with_reducible refine Foot.Sub.up hF ?_; decide +kernel)
    | with_reducible apply State.onLane_keeps | with_reducible apply State.laneFail_keeps
    | with_reducible apply State.modLane_keeps | intro x | with_reducible apply Keeps.ite
    | with_reducible exact Keeps.refl _ _

def execLockTimeout_foot : Foot := State.stageFail_foot

theorem execLockTimeout_keeps (hF : Foot.Sub execLockTimeout_foot F) (p : Plane) (i : Fin 576) (s : State) :
    ∃ t', execLockTimeout p i s = .next t' ∧ Keeps F s t' := by
  unfold execLockTimeout
  refine ⟨_, rfl, ?_⟩
  repeat' first
    | with_reducible assumption | (with_reducible refine Foot.Sub.up hF ?_; decide +kernel)
    | with_reducible apply State.when_keeps | with_reducible apply State.stageFail_keeps | intro x
    | with_reducible exact Keeps.refl _ _

def State.signalLost_foot : Foot := Foot.join [foot [] [.LNE_LANE_STAT], State.modLane_foot, State.stageFail_foot,
  State.laneFail_foot]

theorem State.signalLost_keeps (hs : Keeps F S s) (hF : Foot.Sub State.signalLost_foot F) (p : Plane)
    (i l : Nat) :
    Keeps F S (State.signalLost s p i l) := by
  unfold State.signalLost
  repeat' first
    | with_reducible assumption | (with_reducible refine Foot.Sub.up hF ?_; decide +kernel)
    | ((first | intro x | (lift_lets; intro x))
       first
         | (refine Keeps.cut x ?_ (fun hx => ?_); rotate_left; clear_value x; rotate_left; unfold x)
         | clear_value x
         | skip)
    | with_reducible apply State.setFlag_keeps | with_reducible apply State.modLane_keeps
    | with_reducible apply State.stageFail_keeps | with_reducible apply State.laneFail_keeps
    | with_reducible apply Keeps.ite | with_reducible exact Keeps.refl _ _

def execSignalDetectLoss_foot : Foot := State.signalLost_foot

theorem execSignalDetectLoss_keeps (hF : Foot.Sub execSignalDetectLoss_foot F) (p : Plane) (lane : Fin 576)
    (s : State) :
    ∃ t', execSignalDetectLoss p lane s = .next t' ∧ Keeps F s t' := by
  unfold execSignalDetectLoss
  refine ⟨_, rfl, ?_⟩
  repeat' first
    | with_reducible assumption | (with_reducible refine Foot.Sub.up hF ?_; decide +kernel)
    | with_reducible apply State.onLane_keeps | with_reducible apply State.signalLost_keeps | intro x
    | with_reducible exact Keeps.refl _ _

def execEnsignBlock_foot : Foot := State.ensignIn_foot

theorem execEnsignBlock_keeps (hF : Foot.Sub execEnsignBlock_foot F) (p : Plane) (lane : Fin 576)
    (bytes : Bytes) (s : State) :
    ∃ t', execEnsignBlock p lane bytes s = .next t' ∧ Keeps F s t' := by
  unfold execEnsignBlock
  refine ⟨_, rfl, ?_⟩
  repeat' first
    | with_reducible assumption | (with_reducible refine Foot.Sub.up hF ?_; decide +kernel)
    | with_reducible apply State.onLane_keeps | with_reducible apply State.ensignIn_keeps | intro x
    | with_reducible apply Keeps.ite | with_reducible exact Keeps.refl _ _

def execExchangeTimeout_foot : Foot := State.stageFail_foot

theorem execExchangeTimeout_keeps (hF : Foot.Sub execExchangeTimeout_foot F) (p : Plane) (i : Fin 576)
    (s : State) :
    ∃ t', execExchangeTimeout p i s = .next t' ∧ Keeps F s t' := by
  unfold execExchangeTimeout
  refine ⟨_, rfl, ?_⟩
  repeat' first
    | with_reducible assumption | (with_reducible refine Foot.Sub.up hF ?_; decide +kernel)
    | with_reducible apply State.when_keeps | with_reducible apply State.stageFail_keeps | intro x
    | with_reducible exact Keeps.refl _ _

def execEnsignTailEnd_foot : Foot := State.modPort_foot

theorem execEnsignTailEnd_keeps (hF : Foot.Sub execEnsignTailEnd_foot F) (p : Plane) (i : Fin 576) (s : State) :
    ∃ t', execEnsignTailEnd p i s = .next t' ∧ Keeps F s t' := by
  unfold execEnsignTailEnd
  refine ⟨_, rfl, ?_⟩
  repeat' first
    | with_reducible assumption | (with_reducible refine Foot.Sub.up hF ?_; decide +kernel)
    | with_reducible apply State.when_keeps | with_reducible apply State.modPort_keeps | intro x
    | with_reducible exact Keeps.refl _ _

def State.admitWrite_foot : Foot := Foot.join [State.admitFar_foot, State.modPort_foot]

theorem State.admitWrite_keeps (hs : Keeps F S s) (hF : Foot.Sub State.admitWrite_foot F) (p : Plane) (i : Nat) :
    Keeps F S (State.admitWrite s p i) := by
  unfold State.admitWrite
  repeat' first
    | with_reducible assumption | (with_reducible refine Foot.Sub.up hF ?_; decide +kernel)
    | ((first | intro x | (lift_lets; intro x))
       first
         | (refine Keeps.cut x ?_ (fun hx => ?_); rotate_left; clear_value x; rotate_left; unfold x)
         | clear_value x
         | skip)
    | with_reducible apply State.admitFar_keeps | with_reducible apply State.modPort_keeps
    | with_reducible apply Keeps.ite | split | with_reducible exact Keeps.refl _ _

def execPortAdmit_foot : Foot := State.admitWrite_foot

theorem execPortAdmit_keeps (hF : Foot.Sub execPortAdmit_foot F) (p : Plane) (i : Fin 576) (s : State) :
    ∃ t', execPortAdmit p i s = .next t' ∧ Keeps F s t' := by
  unfold execPortAdmit
  refine ⟨_, rfl, ?_⟩
  repeat' first
    | with_reducible assumption | (with_reducible refine Foot.Sub.up hF ?_; decide +kernel)
    | with_reducible apply State.when_keeps | with_reducible apply State.admitWrite_keeps | intro x
    | with_reducible exact Keeps.refl _ _

def State.retrainPort_foot : Foot := Foot.join [foot [] [.LNE_PORT_STAT], State.portDown_foot,
  State.enterDetect_foot]

theorem State.retrainPort_keeps (hs : Keeps F S s) (hF : Foot.Sub State.retrainPort_foot F) (p : Plane)
    (i : Nat) :
    Keeps F S (State.retrainPort s p i) := by
  unfold State.retrainPort
  repeat' first
    | with_reducible assumption | (with_reducible refine Foot.Sub.up hF ?_; decide +kernel)
    | ((first | intro x | (lift_lets; intro x))
       first
         | (refine Keeps.cut x ?_ (fun hx => ?_); rotate_left; clear_value x; rotate_left; unfold x)
         | clear_value x
         | skip)
    | with_reducible apply State.setF_keeps | with_reducible apply State.portDown_keeps
    | with_reducible apply State.enterDetect_keeps | with_reducible exact Keeps.refl _ _

def execRetrain_foot : Foot := State.retrainPort_foot

theorem execRetrain_keeps (hF : Foot.Sub execRetrain_foot F) (p : Plane) (i : Fin 576) (s : State) :
    ∃ t', execRetrain p i s = .next t' ∧ Keeps F s t' := by
  unfold execRetrain
  refine ⟨_, rfl, ?_⟩
  repeat' first
    | with_reducible assumption | (with_reducible refine Foot.Sub.up hF ?_; decide +kernel)
    | with_reducible apply State.when_keeps | with_reducible apply State.retrainPort_keeps | intro x
    | with_reducible exact Keeps.refl _ _

def execRestore_foot : Foot := State.startRestore_foot

theorem execRestore_keeps (hF : Foot.Sub execRestore_foot F) (p : Plane) (i : Fin 576) (s : State) :
    ∃ t', execRestore p i s = .next t' ∧ Keeps F s t' := by
  unfold execRestore
  refine ⟨_, rfl, ?_⟩
  repeat' first
    | with_reducible assumption | (with_reducible refine Foot.Sub.up hF ?_; decide +kernel)
    | with_reducible apply State.when_keeps | with_reducible apply State.startRestore_keeps | intro x
    | with_reducible exact Keeps.refl _ _

def execRestoreAutoTick_foot : Foot := State.startRestore_foot

theorem execRestoreAutoTick_keeps (hF : Foot.Sub execRestoreAutoTick_foot F) (p : Plane) (s : State) :
    ∃ t', execRestoreAutoTick p s = .next t' ∧ Keeps F s t' := by
  unfold execRestoreAutoTick
  refine ⟨_, rfl, ?_⟩
  repeat' first
    | with_reducible assumption | (with_reducible refine Foot.Sub.up hF ?_; decide +kernel)
    | with_reducible apply State.when_keeps | with_reducible apply State.each_keeps
    | with_reducible apply State.startRestore_keeps | intro x | with_reducible apply Keeps.ite
    | with_reducible exact Keeps.refl _ _

def State.wireCtl_foot : Foot := Foot.join [foot [] [.LNE_WIRE_CTL], State.modPort_foot, State.ensignCheck_foot,
  State.takePlan_foot]

theorem State.wireCtl_keeps (hs : Keeps F S s) (hF : Foot.Sub State.wireCtl_foot F) (p : Plane) (i : Nat)
    (v : Word) :
    Keeps F S (State.wireCtl s p i v) := by
  unfold State.wireCtl
  repeat' first
    | with_reducible assumption | (with_reducible refine Foot.Sub.up hF ?_; decide +kernel)
    | ((first | intro x | (lift_lets; intro x))
       first
         | (refine Keeps.cut x ?_ (fun hx => ?_); rotate_left; clear_value x; rotate_left; unfold x)
         | clear_value x
         | skip)
    | with_reducible apply State.setWord_keeps | with_reducible apply State.modPort_keeps
    | with_reducible apply State.ensignCheck_keeps | with_reducible apply State.takePlan_keeps
    | with_reducible apply Keeps.ite | with_reducible exact Keeps.refl _ _

def execWireCtlWrite_foot : Foot := State.wireCtl_foot

theorem execWireCtlWrite_keeps (hF : Foot.Sub execWireCtlWrite_foot F) (p : Plane) (i : Fin 576) (v : Word)
    (s : State) :
    ∃ t', execWireCtlWrite p i v s = .next t' ∧ Keeps F s t' := by
  unfold execWireCtlWrite
  refine ⟨_, rfl, ?_⟩
  repeat' first
    | with_reducible assumption | (with_reducible refine Foot.Sub.up hF ?_; decide +kernel)
    | with_reducible apply State.when_keeps | with_reducible apply State.wireCtl_keeps | intro x
    | with_reducible exact Keeps.refl _ _

def execNeighbourMissing_foot : Foot := Foot.join [State.raise_foot, State.modPort_foot]

theorem execNeighbourMissing_keeps (hF : Foot.Sub execNeighbourMissing_foot F) (p : Plane) (i : Fin 576)
    (s : State) :
    ∃ t', execNeighbourMissing p i s = .next t' ∧ Keeps F s t' := by
  unfold execNeighbourMissing
  refine ⟨_, rfl, ?_⟩
  repeat' first
    | with_reducible assumption | (with_reducible refine Foot.Sub.up hF ?_; decide +kernel)
    | with_reducible apply State.when_keeps | with_reducible apply State.raise_keeps
    | with_reducible apply State.modPort_keeps | intro x | with_reducible exact Keeps.refl _ _

def execAlignmentMarkerSend_foot : Foot := Foot.join [foot [.out] [], State.slotAll_foot, State.pairFill_foot,
  State.modPort_foot]

theorem execAlignmentMarkerSend_keeps (hF : Foot.Sub execAlignmentMarkerSend_foot F) (p : Plane) (i : Fin 576)
    (s : State) :
    ∃ t', execAlignmentMarkerSend p i s = .next t' ∧ Keeps F s t' := by
  unfold execAlignmentMarkerSend
  refine ⟨_, rfl, ?_⟩
  repeat' first
    | with_reducible assumption | (with_reducible refine Foot.Sub.up hF ?_; decide +kernel)
    | ((first | intro x | (lift_lets; intro x))
       first
         | (refine Keeps.cut x ?_ (fun hx => ?_); rotate_left; clear_value x; rotate_left; unfold x)
         | clear_value x
         | skip)
    | with_reducible apply State.when_keeps | with_reducible apply State.each_keeps
    | with_reducible apply State.emit_keeps | with_reducible apply State.slotAll_keeps
    | with_reducible apply State.pairFill_keeps | with_reducible apply State.modPort_keeps
    | with_reducible apply Keeps.ite | split | with_reducible exact Keeps.refl _ _

def execEnsignSend_foot : Foot := Foot.join [foot [.out] [], State.laneBlock_foot, State.roundUp_foot,
  State.modLane_foot]

theorem execEnsignSend_keeps (hF : Foot.Sub execEnsignSend_foot F) (p : Plane) (lane : Fin 576) (s : State) :
    ∃ t', execEnsignSend p lane s = .next t' ∧ Keeps F s t' := by
  unfold execEnsignSend
  refine ⟨_, rfl, ?_⟩
  repeat' first
    | with_reducible assumption | (with_reducible refine Foot.Sub.up hF ?_; decide +kernel)
    | ((first | intro x | (lift_lets; intro x))
       first
         | (refine Keeps.cut x ?_ (fun hx => ?_); rotate_left; clear_value x; rotate_left; unfold x)
         | clear_value x
         | skip)
    | with_reducible apply State.emit_keeps | with_reducible apply State.onLane_keeps
    | with_reducible apply State.laneBlock_keeps | with_reducible apply State.roundUp_keeps
    | with_reducible apply State.modLane_keeps | with_reducible apply Keeps.ite
    | with_reducible exact Keeps.refl _ _

def State.widthIn_foot : Foot := Foot.join [State.mergeFail_foot, State.modPort_foot, State.endChange_foot,
  State.moveRx_foot]

theorem State.widthIn_keeps (hs : Keeps F S s) (hF : Foot.Sub State.widthIn_foot F) (p : Plane) (i mask : Nat)
    (sw : Bool) :
    Keeps F S (State.widthIn s p i mask sw) := by
  unfold State.widthIn
  repeat' first
    | with_reducible assumption | (with_reducible refine Foot.Sub.up hF ?_; decide +kernel)
    | ((first | intro x | (lift_lets; intro x))
       first
         | (refine Keeps.cut x ?_ (fun hx => ?_); rotate_left; clear_value x; rotate_left; unfold x)
         | clear_value x
         | skip)
    | with_reducible apply State.mergeFail_keeps | with_reducible apply State.modPort_keeps
    | with_reducible apply State.endChange_keeps | with_reducible apply State.moveRx_keeps
    | with_reducible apply Keeps.ite | with_reducible exact Keeps.refl _ _

def execWidthBlock_foot : Foot := State.widthIn_foot

theorem execWidthBlock_keeps (hF : Foot.Sub execWidthBlock_foot F) (p : Plane) (i : Fin 576) (mask : BitVec 16)
    (sw : Bool) (_seq : Byte) (s : State) :
    ∃ t', execWidthBlock p i mask sw _seq s = .next t' ∧ Keeps F s t' := by
  unfold execWidthBlock
  refine ⟨_, rfl, ?_⟩
  repeat' first
    | with_reducible assumption | (with_reducible refine Foot.Sub.up hF ?_; decide +kernel)
    | with_reducible apply State.when_keeps | with_reducible apply State.widthIn_keeps | intro x
    | with_reducible exact Keeps.refl _ _

def execWidthSend_foot : Foot := Foot.join [State.slotBlock_foot, State.modPort_foot, State.endChange_foot,
  State.moveTx_foot]

theorem execWidthSend_keeps (hF : Foot.Sub execWidthSend_foot F) (p : Plane) (i : Fin 576) (s : State) :
    ∃ t', execWidthSend p i s = .next t' ∧ Keeps F s t' := by
  unfold execWidthSend
  refine ⟨_, rfl, ?_⟩
  repeat' first
    | with_reducible assumption | (with_reducible refine Foot.Sub.up hF ?_; decide +kernel)
    | ((first | intro x | (lift_lets; intro x))
       first
         | (refine Keeps.cut x ?_ (fun hx => ?_); rotate_left; clear_value x; rotate_left; unfold x)
         | clear_value x
         | skip)
    | with_reducible apply State.when_keeps | with_reducible apply State.slotBlock_keeps
    | with_reducible apply State.modPort_keeps | with_reducible apply State.endChange_keeps
    | with_reducible apply State.moveTx_keeps | with_reducible apply Keeps.ite
    | with_reducible exact Keeps.refl _ _

def execRunLimit_foot : Foot := State.slotBlock_foot

theorem execRunLimit_keeps (hF : Foot.Sub execRunLimit_foot F) (p : Plane) (lane : Fin 576) (s : State) :
    ∃ t', execRunLimit p lane s = .next t' ∧ Keeps F s t' := by
  unfold execRunLimit
  refine ⟨_, rfl, ?_⟩
  repeat' first
    | with_reducible assumption | (with_reducible refine Foot.Sub.up hF ?_; decide +kernel)
    | with_reducible apply State.onLane_keeps | with_reducible apply State.slotBlock_keeps | intro x
    | with_reducible apply Keeps.ite | with_reducible exact Keeps.refl _ _

def execLpiIdleExpiry_foot : Foot := Foot.join [State.modStream_foot, State.modPort_foot, State.slotBlock_foot]

theorem execLpiIdleExpiry_keeps (hF : Foot.Sub execLpiIdleExpiry_foot F) (p : Plane) (i : Fin 576) (s : State) :
    ∃ t', execLpiIdleExpiry p i s = .next t' ∧ Keeps F s t' := by
  unfold execLpiIdleExpiry
  refine ⟨_, rfl, ?_⟩
  repeat' first
    | with_reducible assumption | (with_reducible refine Foot.Sub.up hF ?_; decide +kernel)
    | ((first | intro x | (lift_lets; intro x))
       first
         | (refine Keeps.cut x ?_ (fun hx => ?_); rotate_left; clear_value x; rotate_left; unfold x)
         | clear_value x
         | skip)
    | with_reducible apply State.when_keeps | with_reducible apply State.modStream_keeps
    | with_reducible apply State.modPort_keeps | with_reducible apply State.slotBlock_keeps
    | with_reducible apply Keeps.ite | with_reducible exact Keeps.refl _ _

def State.lpiIn_foot : Foot := Foot.join [State.lpiEnter_foot, State.slotBlock_foot]

theorem State.lpiIn_keeps (hs : Keeps F S s) (hF : Foot.Sub State.lpiIn_foot F) (p : Plane) (i : Nat)
    (code : Byte) :
    Keeps F S (State.lpiIn s p i code) := by
  unfold State.lpiIn
  repeat' first
    | with_reducible assumption | (with_reducible refine Foot.Sub.up hF ?_; decide +kernel)
    | ((first | intro x | (lift_lets; intro x))
       first
         | (refine Keeps.cut x ?_ (fun hx => ?_); rotate_left; clear_value x; rotate_left; unfold x)
         | clear_value x
         | skip)
    | with_reducible apply State.lpiEnter_keeps | with_reducible apply State.slotBlock_keeps
    | with_reducible apply Keeps.ite | with_reducible exact Keeps.refl _ _

def execLpiBlock_foot : Foot := State.lpiIn_foot

theorem execLpiBlock_keeps (hF : Foot.Sub execLpiBlock_foot F) (p : Plane) (i : Fin 576) (code : Byte)
    (s : State) :
    ∃ t', execLpiBlock p i code s = .next t' ∧ Keeps F s t' := by
  unfold execLpiBlock
  refine ⟨_, rfl, ?_⟩
  repeat' first
    | with_reducible assumption | (with_reducible refine Foot.Sub.up hF ?_; decide +kernel)
    | with_reducible apply State.when_keeps | with_reducible apply State.lpiIn_keeps | intro x
    | with_reducible exact Keeps.refl _ _

def execLpiWake_foot : Foot := State.lpiWake_foot

theorem execLpiWake_keeps (hF : Foot.Sub execLpiWake_foot F) (p : Plane) (i : Fin 576) (_far : Bool) (s : State) :
    ∃ t', execLpiWake p i _far s = .next t' ∧ Keeps F s t' := by
  unfold execLpiWake
  refine ⟨_, rfl, ?_⟩
  repeat' first
    | with_reducible assumption | (with_reducible refine Foot.Sub.up hF ?_; decide +kernel)
    | with_reducible apply State.when_keeps | with_reducible apply State.lpiWake_keeps | intro x
    | with_reducible exact Keeps.refl _ _

def execWakeTimeout_foot : Foot := Foot.join [State.enterFailed_foot, State.leaveActive_foot,
  State.enterDetect_foot, State.modPort_foot, State.setStage_foot, State.startTrain_foot]

theorem execWakeTimeout_keeps (hF : Foot.Sub execWakeTimeout_foot F) (p : Plane) (i : Fin 576) (s : State) :
    ∃ t', execWakeTimeout p i s = .next t' ∧ Keeps F s t' := by
  unfold execWakeTimeout
  refine ⟨_, rfl, ?_⟩
  repeat' first
    | with_reducible assumption | (with_reducible refine Foot.Sub.up hF ?_; decide +kernel)
    | ((first | intro x | (lift_lets; intro x))
       first
         | (refine Keeps.cut x ?_ (fun hx => ?_); rotate_left; clear_value x; rotate_left; unfold x)
         | clear_value x
         | skip)
    | with_reducible apply State.when_keeps | with_reducible apply State.enterFailed_keeps
    | with_reducible apply State.leaveActive_keeps | with_reducible apply State.enterDetect_keeps
    | with_reducible apply State.modPort_keeps | with_reducible apply State.setStage_keeps
    | with_reducible apply State.startTrain_keeps | with_reducible apply Keeps.ite
    | with_reducible exact Keeps.refl _ _

def execLpiMaxWake_foot : Foot := Foot.join [State.lpiWake_foot, State.modPort_foot]

theorem execLpiMaxWake_keeps (hF : Foot.Sub execLpiMaxWake_foot F) (p : Plane) (i : Fin 576) (s : State) :
    ∃ t', execLpiMaxWake p i s = .next t' ∧ Keeps F s t' := by
  unfold execLpiMaxWake
  refine ⟨_, rfl, ?_⟩
  repeat' first
    | with_reducible assumption | (with_reducible refine Foot.Sub.up hF ?_; decide +kernel)
    | with_reducible apply State.when_keeps | with_reducible apply State.lpiWake_keeps
    | with_reducible apply State.modPort_keeps | intro x | with_reducible exact Keeps.refl _ _

def execLpiReentryAllowed_foot : Foot := State.modPort_foot

theorem execLpiReentryAllowed_keeps (hF : Foot.Sub execLpiReentryAllowed_foot F) (p : Plane) (i : Fin 576)
    (s : State) :
    ∃ t', execLpiReentryAllowed p i s = .next t' ∧ Keeps F s t' := by
  unfold execLpiReentryAllowed
  refine ⟨_, rfl, ?_⟩
  repeat' first
    | with_reducible assumption | (with_reducible refine Foot.Sub.up hF ?_; decide +kernel)
    | with_reducible apply State.when_keeps | with_reducible apply State.modPort_keeps | intro x
    | with_reducible exact Keeps.refl _ _

def State.laserCut_foot : Foot := Foot.join [foot [.out] [], State.modLne_foot]

theorem State.laserCut_keeps (hs : Keeps F S s) (hF : Foot.Sub State.laserCut_foot F) (p : Plane) (c : Nat) :
    Keeps F S (State.laserCut s p c) := by
  unfold State.laserCut
  repeat' first
    | with_reducible assumption | (with_reducible refine Foot.Sub.up hF ?_; decide +kernel)
    | with_reducible apply State.emit_keeps | with_reducible apply State.modLne_keeps | intro x
    | with_reducible apply Keeps.ite | with_reducible exact Keeps.refl _ _

def State.lasersOff_foot : Foot := Foot.join [foot [.out] [], State.modLne_foot]

theorem State.lasersOff_keeps (hs : Keeps F S s) (hF : Foot.Sub State.lasersOff_foot F) (p : Plane) :
    Keeps F S (State.lasersOff s p) := by
  unfold State.lasersOff
  repeat' first
    | with_reducible assumption | (with_reducible refine Foot.Sub.up hF ?_; decide +kernel)
    | with_reducible apply State.each_keeps | with_reducible apply State.emit_keeps
    | with_reducible apply State.modLne_keeps | intro x | with_reducible apply Keeps.ite
    | with_reducible exact Keeps.refl _ _

def State.squelchOn_foot : Foot := Foot.join [foot [] [.LNE_LANE_CFG], State.laserCut_foot, State.laneFail_foot]

theorem State.squelchOn_keeps (hs : Keeps F S s) (hF : Foot.Sub State.squelchOn_foot F) (p : Plane) (l : Nat) :
    Keeps F S (State.squelchOn s p l) := by
  unfold State.squelchOn
  repeat' first
    | with_reducible assumption | (with_reducible refine Foot.Sub.up hF ?_; decide +kernel)
    | ((first | intro x | (lift_lets; intro x))
       first
         | (refine Keeps.cut x ?_ (fun hx => ?_); rotate_left; clear_value x; rotate_left; unfold x)
         | clear_value x
         | skip)
    | with_reducible apply State.setFlag_keeps | with_reducible apply State.laserCut_keeps
    | with_reducible apply State.laneFail_keeps | with_reducible apply Keeps.ite | split
    | with_reducible exact Keeps.refl _ _

def execTxSquelch_foot : Foot := State.squelchOn_foot

theorem execTxSquelch_keeps (hF : Foot.Sub execTxSquelch_foot F) (p : Plane) (lane : Fin 576) (s : State) :
    ∃ t', execTxSquelch p lane s = .next t' ∧ Keeps F s t' := by
  unfold execTxSquelch
  refine ⟨_, rfl, ?_⟩
  repeat' first
    | with_reducible assumption | (with_reducible refine Foot.Sub.up hF ?_; decide +kernel)
    | with_reducible apply State.when_keeps | with_reducible apply State.squelchOn_keeps | intro x
    | with_reducible exact Keeps.refl _ _

def State.prbsClear_foot : Foot := foot [] [.LNE_PRBS_ERR]

theorem State.prbsClear_keeps (hs : Keeps F S s) (hF : Foot.Sub State.prbsClear_foot F) (p : Plane) (l : Nat) :
    Keeps F S (State.prbsClear s p l) := by
  unfold State.prbsClear
  repeat' first
    | with_reducible assumption | (with_reducible refine Foot.Sub.up hF ?_; decide +kernel)
    | with_reducible apply State.setWords_keeps | with_reducible exact Keeps.refl _ _

def execPrbsClr_foot : Foot := State.prbsClear_foot

theorem execPrbsClr_keeps (hF : Foot.Sub execPrbsClr_foot F) (p : Plane) (lane : Fin 576) (s : State) :
    ∃ t', execPrbsClr p lane s = .next t' ∧ Keeps F s t' := by
  unfold execPrbsClr
  refine ⟨_, rfl, ?_⟩
  repeat' first
    | with_reducible assumption | (with_reducible refine Foot.Sub.up hF ?_; decide +kernel)
    | with_reducible apply State.when_keeps | with_reducible apply State.prbsClear_keeps | intro x
    | with_reducible exact Keeps.refl _ _

def State.prbsLost_foot : Foot := Foot.join [foot [] [.LNE_LANE_STAT], State.modWire_foot]

theorem State.prbsLost_keeps (hs : Keeps F S s) (hF : Foot.Sub State.prbsLost_foot F) (p : Plane) (l : Nat) :
    Keeps F S (State.prbsLost s p l) := by
  unfold State.prbsLost
  repeat' first
    | with_reducible assumption | (with_reducible refine Foot.Sub.up hF ?_; decide +kernel)
    | with_reducible apply State.setFlag_keeps | with_reducible apply State.modWire_keeps | intro x
    | with_reducible exact Keeps.refl _ _

def execPrbsLockLoss_foot : Foot := State.prbsLost_foot

theorem execPrbsLockLoss_keeps (hF : Foot.Sub execPrbsLockLoss_foot F) (p : Plane) (lane : Fin 576) (s : State) :
    ∃ t', execPrbsLockLoss p lane s = .next t' ∧ Keeps F s t' := by
  unfold execPrbsLockLoss
  refine ⟨_, rfl, ?_⟩
  repeat' first
    | with_reducible assumption | (with_reducible refine Foot.Sub.up hF ?_; decide +kernel)
    | with_reducible apply State.when_keeps | with_reducible apply State.prbsLost_keeps | intro x
    | with_reducible exact Keeps.refl _ _

def State.eyeStart_foot : Foot := foot [] [.LNE_EYE_CTL, .LNE_EYE_STAT]

theorem State.eyeStart_keeps (hs : Keeps F S s) (hF : Foot.Sub State.eyeStart_foot F) (p : Plane) (l eye : Nat) :
    Keeps F S (State.eyeStart s p l eye) := by
  unfold State.eyeStart
  repeat' first
    | with_reducible assumption | (with_reducible refine Foot.Sub.up hF ?_; decide +kernel)
    | ((first | intro x | (lift_lets; intro x))
       first
         | (refine Keeps.cut x ?_ (fun hx => ?_); rotate_left; clear_value x; rotate_left; unfold x)
         | clear_value x
         | skip)
    | with_reducible apply State.setFlag_keeps | with_reducible apply State.setF_keeps
    | with_reducible exact Keeps.refl _ _

def execEyeScanStart_foot : Foot := State.eyeStart_foot

theorem execEyeScanStart_keeps (hF : Foot.Sub execEyeScanStart_foot F) (p : Plane) (lane : Fin 576)
    (eye : BitVec 2) (s : State) :
    ∃ t', execEyeScanStart p lane eye s = .next t' ∧ Keeps F s t' := by
  unfold execEyeScanStart
  refine ⟨_, rfl, ?_⟩
  repeat' first
    | with_reducible assumption | (with_reducible refine Foot.Sub.up hF ?_; decide +kernel)
    | with_reducible apply State.when_keeps | with_reducible apply State.eyeStart_keeps | intro x
    | with_reducible exact Keeps.refl _ _

def execEyeScanDone_foot : Foot := foot [] [.LNE_EYE_CTL, .LNE_EYE_STAT]

theorem execEyeScanDone_keeps (hF : Foot.Sub execEyeScanDone_foot F) (p : Plane) (lane : Fin 576) (h w : Byte)
    (s : State) :
    ∃ t', execEyeScanDone p lane h w s = .next t' ∧ Keeps F s t' := by
  unfold execEyeScanDone
  refine ⟨_, rfl, ?_⟩
  repeat' first
    | with_reducible assumption | (with_reducible refine Foot.Sub.up hF ?_; decide +kernel)
    | ((first | intro x | (lift_lets; intro x))
       first
         | (refine Keeps.cut x ?_ (fun hx => ?_); rotate_left; clear_value x; rotate_left; unfold x)
         | clear_value x
         | skip)
    | with_reducible apply State.when_keeps | with_reducible apply State.setFlag_keeps
    | with_reducible apply State.setF_keeps | with_reducible exact Keeps.refl _ _

def execLaserReady_foot : Foot := State.modLne_foot

theorem execLaserReady_keeps (hF : Foot.Sub execLaserReady_foot F) (p : Plane) (c : Fin 9) (s : State) :
    ∃ t', execLaserReady p c s = .next t' ∧ Keeps F s t' := by
  unfold execLaserReady
  refine ⟨_, rfl, ?_⟩
  repeat' first
    | with_reducible assumption | (with_reducible refine Foot.Sub.up hF ?_; decide +kernel)
    | with_reducible apply State.when_keeps | with_reducible apply State.modLne_keeps | intro x
    | with_reducible exact Keeps.refl _ _

def State.darken_foot : Foot := Foot.join [foot [.free] [.LNE_LANE_STAT], State.laneFail_foot]

theorem State.darken_keeps (hs : Keeps F S s) (hF : Foot.Sub State.darken_foot F) (p : Plane) (ls : List Nat) :
    Keeps F S (State.darken s p ls) := by
  unfold State.darken
  repeat' first
    | with_reducible assumption | (with_reducible refine Foot.Sub.up hF ?_; decide +kernel)
    | ((first | intro x | (lift_lets; intro x))
       first
         | (refine Keeps.cut x ?_ (fun hx => ?_); rotate_left; clear_value x; rotate_left; unfold x)
         | clear_value x
         | skip)
    | with_reducible apply State.takeFree_keeps | with_reducible apply State.each_keeps
    | with_reducible apply State.setFlag_keeps | with_reducible apply State.laneFail_keeps
    | with_reducible refine Keeps.snd ?_ (by assumption) | split | with_reducible exact Keeps.refl _ _

def execLaserInputFail_foot : Foot := Foot.join [State.modLne_foot, State.darken_foot]

theorem execLaserInputFail_keeps (hF : Foot.Sub execLaserInputFail_foot F) (p : Plane) (c : Fin 9) (k : Fin 8)
    (s : State) :
    ∃ t', execLaserInputFail p c k s = .next t' ∧ Keeps F s t' := by
  unfold execLaserInputFail
  refine ⟨_, rfl, ?_⟩
  repeat' first
    | with_reducible assumption | (with_reducible refine Foot.Sub.up hF ?_; decide +kernel)
    | ((first | intro x | (lift_lets; intro x))
       first
         | (refine Keeps.cut x ?_ (fun hx => ?_); rotate_left; clear_value x; rotate_left; unfold x)
         | clear_value x
         | skip)
    | with_reducible apply State.when_keeps | with_reducible apply State.modLne_keeps
    | with_reducible apply State.darken_keeps | with_reducible exact Keeps.refl _ _

end Sys2Proof.Machine
end

