-- ==== Sys2Proof/Laws/KeepWindows.lean ====
section
/-! SUPPORT. `Keeps` of the definitions of Machine/Windows.lean, each with its footprint. -/

namespace Sys2Proof.Machine

set_option Elab.async false

variable {F : Foot} {S s : State}

def State.modEp_foot : Foot := foot [.lfp] []

theorem State.modEp_keeps (hs : Keeps F S s) (hF : Foot.Sub State.modEp_foot F) (p : Plane) (key : Nat)
    (f : EpSt → EpSt) :
    Keeps F S (State.modEp s p key f) := by
  unfold State.modEp
  repeat' first
    | with_reducible assumption | (with_reducible refine Foot.Sub.up hF ?_; decide +kernel)
    | with_reducible apply State.modLfp_keeps | intro x | with_reducible exact Keeps.refl _ _

def State.modDst_foot : Foot := State.modEp_foot

theorem State.modDst_keeps (hs : Keeps F S s) (hF : Foot.Sub State.modDst_foot F) (p : Plane) (key : Nat)
    (src : EpId) (f : DstWin → DstWin) :
    Keeps F S (State.modDst s p key src f) := by
  unfold State.modDst
  repeat' first
    | with_reducible assumption | (with_reducible refine Foot.Sub.up hF ?_; decide +kernel)
    | with_reducible apply State.modEp_keeps | intro x | with_reducible exact Keeps.refl _ _

def State.modSrc_foot : Foot := State.modEp_foot

theorem State.modSrc_keeps (hs : Keeps F S s) (hF : Foot.Sub State.modSrc_foot F) (p : Plane) (key : Nat)
    (dst : EpId) (f : SrcWin → SrcWin) :
    Keeps F S (State.modSrc s p key dst f) := by
  unfold State.modSrc
  repeat' first
    | with_reducible assumption | (with_reducible refine Foot.Sub.up hF ?_; decide +kernel)
    | with_reducible apply State.modEp_keeps | intro x | with_reducible exact Keeps.refl _ _

def State.goldPump1_foot : Foot := Foot.join [State.modTst_foot, State.discard1_foot, State.portSend_foot]

theorem State.goldPump1_keeps (hs : Keeps F S s) (hF : Foot.Sub State.goldPump1_foot F) (p : Plane) (i : Nat) :
    Keeps F S (State.goldPump1 s p i) := by
  unfold State.goldPump1
  repeat' first
    | with_reducible assumption | (with_reducible refine Foot.Sub.up hF ?_; decide +kernel)
    | ((first | intro x | (lift_lets; intro x))
       first
         | (refine Keeps.cut x ?_ (fun hx => ?_); rotate_left; clear_value x; rotate_left; unfold x)
         | clear_value x
         | skip)
    | with_reducible apply State.modTst_keeps | with_reducible apply State.discard1_keeps
    | with_reducible apply State.portSend_keeps | with_reducible apply Keeps.ite | split
    | with_reducible exact Keeps.refl _ _

def State.goldPump_foot : Foot := State.goldPump1_foot

theorem State.goldPump_keeps (hs : Keeps F S s) (hF : Foot.Sub State.goldPump_foot F) (p : Plane) (i : Nat) :
    Keeps F S (State.goldPump s p i) := by
  unfold State.goldPump
  repeat' first
    | with_reducible assumption | (with_reducible refine Foot.Sub.up hF ?_; decide +kernel)
    | with_reducible apply State.each_keeps | with_reducible apply State.goldPump1_keeps | intro x
    | with_reducible exact Keeps.refl _ _

def State.epSend_foot : Foot := Foot.join [State.goldPump_foot, State.modTst_foot, State.respondOn_foot,
  State.originate_foot]

theorem State.epSend_keeps (hs : Keeps F S s) (hF : Foot.Sub State.epSend_foot F) (p : Plane) (key : Nat)
    (via : Option Nat) (k : Packet) :
    Keeps F S (State.epSend s p key via k) := by
  unfold State.epSend
  repeat' first
    | with_reducible assumption | (with_reducible refine Foot.Sub.up hF ?_; decide +kernel)
    | with_reducible apply State.goldPump_keeps | with_reducible apply State.modTst_keeps
    | with_reducible apply State.respondOn_keeps | with_reducible apply State.originate_keeps | intro x
    | with_reducible apply Keeps.ite | split | with_reducible exact Keeps.refl _ _

def State.takeEcho_foot : Foot := Foot.join [State.modDst_foot, State.modTst_foot]

theorem State.takeEcho_keeps (hs : Keeps F S s) (hF : Foot.Sub State.takeEcho_foot F) (p : Plane) (key : Nat)
    (src : EpId) :
    Keeps F S (State.takeEcho s p key src).2 := by
  unfold State.takeEcho
  repeat' first
    | with_reducible assumption | (with_reducible refine Foot.Sub.up hF ?_; decide +kernel)
    | ((first | intro x | (lift_lets; intro x))
       first
         | (refine Keeps.cut x ?_ (fun hx => ?_); rotate_left; clear_value x; rotate_left; unfold x)
         | clear_value x
         | skip)
    | with_reducible apply State.modDst_keeps | with_reducible apply State.modTst_keeps
    | with_reducible apply Keeps.ite | with_reducible apply Keeps.ite_snd | with_reducible exact Keeps.refl _ _

def State.cpl_foot : Foot := Foot.join [State.takeEcho_foot, State.epSend_foot]

theorem State.cpl_keeps (hs : Keeps F S s) (hF : Foot.Sub State.cpl_foot F) (p : Plane) (key : Nat)
    (via : Option Nat) (req : Header) (status : Byte) (payload : Bytes) :
    Keeps F S (State.cpl s p key via req status payload) := by
  unfold State.cpl
  repeat' first
    | with_reducible assumption | (with_reducible refine Foot.Sub.up hF ?_; decide +kernel)
    | ((first | intro x | (lift_lets; intro x))
       first
         | (refine Keeps.cut x ?_ (fun hx => ?_); rotate_left; clear_value x; rotate_left; unfold x)
         | clear_value x
         | skip)
    | with_reducible apply State.takeEcho_keeps | with_reducible apply State.epSend_keeps
    | with_reducible apply Keeps.ite | with_reducible refine Keeps.snd ?_ (by assumption) | split
    | with_reducible exact Keeps.refl _ _

def State.sendAck_foot : Foot := Foot.join [State.takeEcho_foot, State.modDst_foot, State.epSend_foot]

theorem State.sendAck_keeps (hs : Keeps F S s) (hF : Foot.Sub State.sendAck_foot F) (p : Plane) (key : Nat)
    (src : EpId) (vc : BitVec 4) (tc : BitVec 3) :
    Keeps F S (State.sendAck s p key src vc tc) := by
  unfold State.sendAck
  repeat' first
    | with_reducible assumption | (with_reducible refine Foot.Sub.up hF ?_; decide +kernel)
    | ((first | intro x | (lift_lets; intro x))
       first
         | (refine Keeps.cut x ?_ (fun hx => ?_); rotate_left; clear_value x; rotate_left; unfold x)
         | clear_value x
         | skip)
    | with_reducible apply State.takeEcho_keeps | with_reducible apply State.modDst_keeps
    | with_reducible apply State.epSend_keeps | with_reducible apply Keeps.ite
    | with_reducible refine Keeps.snd ?_ (by assumption) | split | with_reducible exact Keeps.refl _ _

def State.ackStride_foot : Foot := State.sendAck_foot

theorem State.ackStride_keeps (hs : Keeps F S s) (hF : Foot.Sub State.ackStride_foot F) (p : Plane) (key : Nat)
    (src : EpId) :
    Keeps F S (State.ackStride s p key src) := by
  unfold State.ackStride
  repeat' first
    | with_reducible assumption | (with_reducible refine Foot.Sub.up hF ?_; decide +kernel)
    | ((first | intro x | (lift_lets; intro x))
       first
         | (refine Keeps.cut x ?_ (fun hx => ?_); rotate_left; clear_value x; rotate_left; unfold x)
         | clear_value x
         | skip)
    | with_reducible apply State.sendAck_keeps | with_reducible apply Keeps.ite
    | with_reducible exact Keeps.refl _ _

def State.pumpHeld_foot : Foot := State.modDst_foot

theorem State.pumpHeld_keeps (hs : Keeps F S s) (hF : Foot.Sub State.pumpHeld_foot F) (perf : Perf)
    (hperf : ∀ a0 s, Keeps F s (perf a0 s)) (n : Nat) (a1 : Plane) (a2 : Nat) (a3 : EpId) :
    Keeps F S (State.pumpHeld perf n s a1 a2 a3) := by
  induction n generalizing s a1 a2 a3 with
  | zero => unfold State.pumpHeld; exact hs
  | succ n ih =>
    unfold State.pumpHeld
    repeat' first
      | with_reducible assumption | (with_reducible refine Foot.Sub.up hF ?_; decide +kernel)
      | ((first | intro x | (lift_lets; intro x))
         first
           | (refine Keeps.cut x ?_ (fun hx => ?_); rotate_left; clear_value x; rotate_left; unfold x)
           | clear_value x
           | skip)
      | with_reducible apply ih | with_reducible apply State.modDst_keeps
      | with_reducible refine Keeps.trans ?_ (hperf ..) | split | with_reducible exact Keeps.refl _ _

def State.moveBase_foot : Foot := State.modDst_foot

theorem State.moveBase_keeps (hs : Keeps F S s) (hF : Foot.Sub State.moveBase_foot F) (p : Plane) (key : Nat)
    (src : EpId) :
    Keeps F S (State.moveBase s p key src) := by
  unfold State.moveBase
  repeat' first
    | with_reducible assumption | (with_reducible refine Foot.Sub.up hF ?_; decide +kernel)
    | ((first | intro x | (lift_lets; intro x))
       first
         | (refine Keeps.cut x ?_ (fun hx => ?_); rotate_left; clear_value x; rotate_left; unfold x)
         | clear_value x
         | skip)
    | with_reducible apply State.modDst_keeps | with_reducible apply Keeps.ite
    | with_reducible refine Keeps.snd ?_ (by assumption) | split | with_reducible exact Keeps.refl _ _

def State.advance_foot : Foot := Foot.join [State.moveBase_foot, State.pumpHeld_foot, State.ackStride_foot]

theorem State.advance_keeps (hs : Keeps F S s) (hF : Foot.Sub State.advance_foot F) (perf : Perf) (p : Plane)
    (key : Nat) (src : EpId) (hperf : ∀ a0 s, Keeps F s (perf a0 s)) :
    Keeps F S (State.advance perf s p key src) := by
  unfold State.advance
  repeat' first
    | with_reducible assumption | (with_reducible refine Foot.Sub.up hF ?_; decide +kernel)
    | ((first | intro x | (lift_lets; intro x))
       first
         | (refine Keeps.cut x ?_ (fun hx => ?_); rotate_left; clear_value x; rotate_left; unfold x)
         | clear_value x
         | skip)
    | with_reducible apply State.moveBase_keeps | with_reducible apply State.pumpHeld_keeps
    | with_reducible apply State.ackStride_keeps | with_reducible refine Keeps.trans ?_ (hperf ..)
    | with_reducible exact Keeps.refl _ _

def State.failPennant_foot : Foot := Foot.join [foot [] [.LFP_PEN_FAIL], State.cpl_foot]

theorem State.failPennant_keeps (hs : Keeps F S s) (hF : Foot.Sub State.failPennant_foot F) (lost : Perf)
    (p : Plane) (key : Nat) (k : Packet) (hlost : ∀ a0 s, Keeps F s (lost a0 s)) :
    Keeps F S (State.failPennant lost s p key k) := by
  unfold State.failPennant
  repeat' first
    | with_reducible assumption | (with_reducible refine Foot.Sub.up hF ?_; decide +kernel)
    | ((first | intro x | (lift_lets; intro x))
       first
         | (refine Keeps.cut x ?_ (fun hx => ?_); rotate_left; clear_value x; rotate_left; unfold x)
         | clear_value x
         | skip)
    | with_reducible apply State.count_keeps | with_reducible apply State.cpl_keeps
    | with_reducible refine Keeps.trans ?_ (hlost ..) | with_reducible apply Keeps.ite
    | with_reducible exact Keeps.refl _ _

def State.echoIn_foot : Foot := Foot.join [State.modDst_foot, State.sendAck_foot]

theorem State.echoIn_keeps (hs : Keeps F S s) (hF : Foot.Sub State.echoIn_foot F) (p : Plane) (key : Nat)
    (k : Packet) :
    Keeps F S (State.echoIn s p key k) := by
  unfold State.echoIn
  repeat' first
    | with_reducible assumption | (with_reducible refine Foot.Sub.up hF ?_; decide +kernel)
    | ((first | intro x | (lift_lets; intro x))
       first
         | (refine Keeps.cut x ?_ (fun hx => ?_); rotate_left; clear_value x; rotate_left; unfold x)
         | clear_value x
         | skip)
    | with_reducible apply State.modDst_keeps | with_reducible apply State.sendAck_keeps
    | with_reducible apply Keeps.ite | split | with_reducible exact Keeps.refl _ _

def State.dstCrc_foot : Foot := foot [] [.LFP_STOMP_RX, .LFP_CRC_DISC]

theorem State.dstCrc_keeps (hs : Keeps F S s) (hF : Foot.Sub State.dstCrc_foot F) (p : Plane) (k : Packet)
    (f : State → State) (hf : ∀ s, Keeps F s (f s)) :
    Keeps F S (State.dstCrc s p k f) := by
  unfold State.dstCrc
  repeat' first
    | with_reducible assumption | (with_reducible refine Foot.Sub.up hF ?_; decide +kernel)
    | with_reducible apply State.count_keeps | with_reducible refine Keeps.trans ?_ (hf ..)
    | with_reducible apply Keeps.ite | with_reducible exact Keeps.refl _ _

def State.windowedIn_foot : Foot := Foot.join [foot [] [.LFP_HDR_DISC, .LFP_LATE_DISC, .LFP_OOW_DISC],
  State.cpl_foot, State.echoIn_foot, State.modDst_foot, State.moveBase_foot, State.failPennant_foot,
  State.advance_foot]

theorem State.windowedIn_keeps (hs : Keeps F S s) (hF : Foot.Sub State.windowedIn_foot F) (perf lost : Perf)
    (p : Plane) (key : Nat) (k : Packet) (hperf : ∀ a0 s, Keeps F s (perf a0 s))
    (hlost : ∀ a0 s, Keeps F s (lost a0 s)) :
    Keeps F S (State.windowedIn perf lost s p key k) := by
  unfold State.windowedIn
  repeat' first
    | with_reducible assumption | (with_reducible refine Foot.Sub.up hF ?_; decide +kernel)
    | ((first | intro x | (lift_lets; intro x))
       first
         | (refine Keeps.cut x ?_ (fun hx => ?_); rotate_left; clear_value x; rotate_left; unfold x)
         | clear_value x
         | skip)
    | with_reducible apply State.count_keeps | with_reducible apply State.cpl_keeps
    | with_reducible apply State.echoIn_keeps | with_reducible apply State.modDst_keeps
    | with_reducible apply State.moveBase_keeps | with_reducible apply State.failPennant_keeps
    | with_reducible apply State.advance_keeps | with_reducible refine Keeps.trans ?_ (hperf ..)
    | with_reducible refine Keeps.trans ?_ (hlost ..) | with_reducible apply Keeps.ite
    | with_reducible exact Keeps.refl _ _

def State.winSyncIn_foot : Foot := Foot.join [foot [] [.LFP_HDR_DISC], State.cpl_foot, State.modDst_foot]

theorem State.winSyncIn_keeps (hs : Keeps F S s) (hF : Foot.Sub State.winSyncIn_foot F) (p : Plane) (key : Nat)
    (k : Packet) :
    Keeps F S (State.winSyncIn s p key k) := by
  unfold State.winSyncIn
  repeat' first
    | with_reducible assumption | (with_reducible refine Foot.Sub.up hF ?_; decide +kernel)
    | ((first | intro x | (lift_lets; intro x))
       first
         | (refine Keeps.cut x ?_ (fun hx => ?_); rotate_left; clear_value x; rotate_left; unfold x)
         | clear_value x
         | skip)
    | with_reducible apply State.count_keeps | with_reducible apply State.each_keeps
    | with_reducible apply State.cpl_keeps | with_reducible apply State.modDst_keeps
    | with_reducible apply Keeps.ite | with_reducible exact Keeps.refl _ _

def State.holeSkip_foot : Foot := Foot.join [foot [] [.LFP_HOLE_CNT], State.modDst_foot, State.failPennant_foot,
  State.advance_foot]

theorem State.holeSkip_keeps (hs : Keeps F S s) (hF : Foot.Sub State.holeSkip_foot F) (perf lost : Perf)
    (p : Plane) (key : Nat) (src : EpId) (hperf : ∀ a0 s, Keeps F s (perf a0 s))
    (hlost : ∀ a0 s, Keeps F s (lost a0 s)) :
    Keeps F S (State.holeSkip perf lost s p key src) := by
  unfold State.holeSkip
  repeat' first
    | with_reducible assumption | (with_reducible refine Foot.Sub.up hF ?_; decide +kernel)
    | ((first | intro x | (lift_lets; intro x))
       first
         | (refine Keeps.cut x ?_ (fun hx => ?_); rotate_left; clear_value x; rotate_left; unfold x)
         | clear_value x
         | skip)
    | with_reducible apply State.countN_keeps | with_reducible apply State.each_keeps
    | with_reducible apply State.modDst_keeps | with_reducible apply State.failPennant_keeps
    | with_reducible apply State.advance_keeps | with_reducible refine Keeps.trans ?_ (hperf ..)
    | with_reducible refine Keeps.trans ?_ (hlost ..) | with_reducible apply Keeps.ite | split
    | with_reducible exact Keeps.refl _ _

def State.pennantDeadline_foot : Foot := Foot.join [State.modDst_foot, State.advance_foot, State.failPennant_foot]

theorem State.pennantDeadline_keeps (hs : Keeps F S s) (hF : Foot.Sub State.pennantDeadline_foot F)
    (perf lost : Perf) (p : Plane) (key : Nat) (src : EpId) (wseq : BitVec 16)
    (hperf : ∀ a0 s, Keeps F s (perf a0 s)) (hlost : ∀ a0 s, Keeps F s (lost a0 s)) :
    Keeps F S (State.pennantDeadline perf lost s p key src wseq) := by
  unfold State.pennantDeadline
  repeat' first
    | with_reducible assumption | (with_reducible refine Foot.Sub.up hF ?_; decide +kernel)
    | ((first | intro x | (lift_lets; intro x))
       first
         | (refine Keeps.cut x ?_ (fun hx => ?_); rotate_left; clear_value x; rotate_left; unfold x)
         | clear_value x
         | skip)
    | with_reducible apply State.modDst_keeps | with_reducible apply State.advance_keeps
    | with_reducible apply State.failPennant_keeps | with_reducible refine Keeps.trans ?_ (hperf ..)
    | with_reducible refine Keeps.trans ?_ (hlost ..) | split | with_reducible exact Keeps.refl _ _

def State.performed_foot : Foot := Foot.join [State.modDst_foot, State.pumpHeld_foot]

theorem State.performed_keeps (hs : Keeps F S s) (hF : Foot.Sub State.performed_foot F) (perf : Perf)
    (p : Plane) (key : Nat) (src : EpId) (wseq : BitVec 16) (hperf : ∀ a0 s, Keeps F s (perf a0 s)) :
    Keeps F S (State.performed perf s p key src wseq) := by
  unfold State.performed
  repeat' first
    | with_reducible assumption | (with_reducible refine Foot.Sub.up hF ?_; decide +kernel)
    | ((first | intro x | (lift_lets; intro x))
       first
         | (refine Keeps.cut x ?_ (fun hx => ?_); rotate_left; clear_value x; rotate_left; unfold x)
         | clear_value x
         | skip)
    | with_reducible apply State.modDst_keeps | with_reducible apply State.pumpHeld_keeps
    | with_reducible refine Keeps.trans ?_ (hperf ..) | with_reducible exact Keeps.refl _ _

def State.takeTag_foot : Foot := State.modEp_foot

theorem State.takeTag_keeps (hs : Keeps F S s) (hF : Foot.Sub State.takeTag_foot F) (p : Plane) (key : Nat)
    (what : ReqWhat) (dst : EpId) :
    Keeps F S (State.takeTag s p key what dst).2 := by
  unfold State.takeTag
  repeat' first
    | with_reducible assumption | (with_reducible refine Foot.Sub.up hF ?_; decide +kernel)
    | ((first | intro x | (lift_lets; intro x))
       first
         | (refine Keeps.cut x ?_ (fun hx => ?_); rotate_left; clear_value x; rotate_left; unfold x)
         | clear_value x
         | skip)
    | with_reducible apply State.modEp_keeps | with_reducible exact Keeps.refl _ _

def State.startSync_foot : Foot := Foot.join [State.takeTag_foot, State.modSrc_foot, State.epSend_foot]

theorem State.startSync_keeps (hs : Keeps F S s) (hF : Foot.Sub State.startSync_foot F) (p : Plane) (key : Nat)
    (dst : EpId) (tc : BitVec 3) :
    Keeps F S (State.startSync s p key dst tc) := by
  unfold State.startSync
  repeat' first
    | with_reducible assumption | (with_reducible refine Foot.Sub.up hF ?_; decide +kernel)
    | ((first | intro x | (lift_lets; intro x))
       first
         | (refine Keeps.cut x ?_ (fun hx => ?_); rotate_left; clear_value x; rotate_left; unfold x)
         | clear_value x
         | skip)
    | with_reducible apply State.takeTag_keeps | with_reducible apply State.modSrc_keeps
    | with_reducible apply State.epSend_keeps | with_reducible apply Keeps.ite
    | with_reducible refine Keeps.snd ?_ (by assumption) | split | with_reducible exact Keeps.refl _ _

def State.pumpSrc1_foot : Foot := Foot.join [State.modSrc_foot, State.epSend_foot]

theorem State.pumpSrc1_keeps (hs : Keeps F S s) (hF : Foot.Sub State.pumpSrc1_foot F) (p : Plane) (key : Nat)
    (dst : EpId) :
    Keeps F S (State.pumpSrc1 s p key dst) := by
  unfold State.pumpSrc1
  repeat' first
    | with_reducible assumption | (with_reducible refine Foot.Sub.up hF ?_; decide +kernel)
    | ((first | intro x | (lift_lets; intro x))
       first
         | (refine Keeps.cut x ?_ (fun hx => ?_); rotate_left; clear_value x; rotate_left; unfold x)
         | clear_value x
         | skip)
    | with_reducible apply State.modSrc_keeps | with_reducible apply State.epSend_keeps
    | with_reducible apply Keeps.ite | split | with_reducible exact Keeps.refl _ _ | dsimp only

def State.pumpSrc_foot : Foot := State.pumpSrc1_foot

theorem State.pumpSrc_keeps (hs : Keeps F S s) (hF : Foot.Sub State.pumpSrc_foot F) (p : Plane) (key : Nat)
    (dst : EpId) :
    Keeps F S (State.pumpSrc s p key dst) := by
  unfold State.pumpSrc
  repeat' first
    | with_reducible assumption | (with_reducible refine Foot.Sub.up hF ?_; decide +kernel)
    | with_reducible apply State.each_keeps | with_reducible apply State.pumpSrc1_keeps | intro x
    | with_reducible exact Keeps.refl _ _

def State.sendWindowed_foot : Foot := Foot.join [State.modSrc_foot, State.startSync_foot, State.pumpSrc_foot]

theorem State.sendWindowed_keeps (hs : Keeps F S s) (hF : Foot.Sub State.sendWindowed_foot F) (p : Plane)
    (key : Nat) (k : Packet) (fwd : Option Nat) :
    Keeps F S (State.sendWindowed s p key k fwd) := by
  unfold State.sendWindowed
  repeat' first
    | with_reducible assumption | (with_reducible refine Foot.Sub.up hF ?_; decide +kernel)
    | ((first | intro x | (lift_lets; intro x))
       first
         | (refine Keeps.cut x ?_ (fun hx => ?_); rotate_left; clear_value x; rotate_left; unfold x)
         | clear_value x
         | skip)
    | with_reducible apply State.modSrc_keeps | with_reducible apply State.startSync_keeps
    | with_reducible apply State.pumpSrc_keeps | with_reducible apply Keeps.ite | split
    | with_reducible exact Keeps.refl _ _

def State.eceIn_foot : Foot := Foot.join [State.modSrc_foot, State.raise_foot]

theorem State.eceIn_keeps (hs : Keeps F S s) (hF : Foot.Sub State.eceIn_foot F) (p : Plane) (key : Nat)
    (dst : EpId) :
    Keeps F S (State.eceIn s p key dst) := by
  unfold State.eceIn
  repeat' first
    | with_reducible assumption | (with_reducible refine Foot.Sub.up hF ?_; decide +kernel)
    | ((first | intro x | (lift_lets; intro x))
       first
         | (refine Keeps.cut x ?_ (fun hx => ?_); rotate_left; clear_value x; rotate_left; unfold x)
         | clear_value x
         | skip)
    | with_reducible apply State.modSrc_keeps | with_reducible apply State.raise_keeps
    | with_reducible apply Keeps.ite | split | with_reducible exact Keeps.refl _ _

def State.ackIn_foot : Foot := Foot.join [State.modSrc_foot, State.eceIn_foot, State.pumpSrc_foot]

theorem State.ackIn_keeps (hs : Keeps F S s) (hF : Foot.Sub State.ackIn_foot F) (p : Plane) (key : Nat)
    (k : Packet) :
    Keeps F S (State.ackIn s p key k) := by
  unfold State.ackIn
  repeat' first
    | with_reducible assumption | (with_reducible refine Foot.Sub.up hF ?_; decide +kernel)
    | ((first | intro x | (lift_lets; intro x))
       first
         | (refine Keeps.cut x ?_ (fun hx => ?_); rotate_left; clear_value x; rotate_left; unfold x)
         | clear_value x
         | skip)
    | with_reducible apply State.modSrc_keeps | with_reducible apply State.eceIn_keeps
    | with_reducible apply State.pumpSrc_keeps | with_reducible apply Keeps.ite
    | with_reducible exact Keeps.refl _ _

def State.syncFail_foot : Foot := State.modSrc_foot

theorem State.syncFail_keeps (hs : Keeps F S s) (hF : Foot.Sub State.syncFail_foot F)
    (drop : WaitPkt → State → State) (p : Plane) (key : Nat) (dst : EpId)
    (hdrop : ∀ a0 s, Keeps F s (drop a0 s)) :
    Keeps F S (State.syncFail drop s p key dst) := by
  unfold State.syncFail
  repeat' first
    | with_reducible assumption | (with_reducible refine Foot.Sub.up hF ?_; decide +kernel)
    | ((first | intro x | (lift_lets; intro x))
       first
         | (refine Keeps.cut x ?_ (fun hx => ?_); rotate_left; clear_value x; rotate_left; unfold x)
         | clear_value x
         | skip)
    | with_reducible apply State.each_keeps | with_reducible apply State.modSrc_keeps
    | with_reducible refine Keeps.trans ?_ (hdrop ..) | with_reducible exact Keeps.refl _ _

def State.loseWindow_foot : Foot := State.modSrc_foot

theorem State.loseWindow_keeps (hs : Keeps F S s) (hF : Foot.Sub State.loseWindow_foot F) (p : Plane)
    (key : Nat) (dst : EpId) :
    Keeps F S (State.loseWindow s p key dst) := by
  unfold State.loseWindow
  repeat' first
    | with_reducible assumption | (with_reducible refine Foot.Sub.up hF ?_; decide +kernel)
    | with_reducible apply State.modSrc_keeps | intro x | with_reducible apply Keeps.ite
    | with_reducible exact Keeps.refl _ _

def State.resync_foot : Foot := State.startSync_foot

theorem State.resync_keeps (hs : Keeps F S s) (hF : Foot.Sub State.resync_foot F) (p : Plane) (key : Nat)
    (dst : EpId) (tc : BitVec 3) :
    Keeps F S (State.resync s p key dst tc) := by
  unfold State.resync
  repeat' first
    | with_reducible assumption | (with_reducible refine Foot.Sub.up hF ?_; decide +kernel)
    | with_reducible apply State.startSync_keeps | with_reducible apply Keeps.ite
    | with_reducible exact Keeps.refl _ _

def State.cplIn_foot : Foot := Foot.join [foot [] [.LFP_STALE_CPL], State.resync_foot, State.loseWindow_foot,
  State.modEp_foot, State.eceIn_foot, State.pumpSrc_foot, State.modSrc_foot, State.syncFail_foot]

theorem State.cplIn_keeps (hs : Keeps F S s) (hF : Foot.Sub State.cplIn_foot F)
    (drop : Byte → WaitPkt → State → State) (done : ReqWhat → Packet → State → State) (p : Plane) (key : Nat)
    (k : Packet) (hdrop : ∀ a0 a1 s, Keeps F s (drop a0 a1 s)) (hdone : ∀ a0 a1 s, Keeps F s (done a0 a1 s)) :
    Keeps F S (State.cplIn drop done s p key k) := by
  unfold State.cplIn
  repeat' first
    | with_reducible assumption | (with_reducible refine Foot.Sub.up hF ?_; decide +kernel)
    | ((first | intro x | (lift_lets; intro x))
       first
         | (refine Keeps.cut x ?_ (fun hx => ?_); rotate_left; clear_value x; rotate_left; unfold x)
         | clear_value x
         | skip)
    | with_reducible apply State.count_keeps | with_reducible apply State.resync_keeps
    | with_reducible apply State.loseWindow_keeps | with_reducible apply State.modEp_keeps
    | with_reducible apply State.eceIn_keeps | with_reducible apply State.pumpSrc_keeps
    | with_reducible apply State.modSrc_keeps | with_reducible apply State.syncFail_keeps
    | with_reducible refine Keeps.trans ?_ (hdrop ..) | with_reducible refine Keeps.trans ?_ (hdone ..)
    | with_reducible apply Keeps.ite | split | with_reducible exact Keeps.refl _ _

def State.opTimeout_foot : Foot := Foot.join [foot [] [.LFP_OP_TMO], State.modEp_foot, State.syncFail_foot]

theorem State.opTimeout_keeps (hs : Keeps F S s) (hF : Foot.Sub State.opTimeout_foot F)
    (drop : WaitPkt → State → State) (done : ReqWhat → State → State) (p : Plane) (key : Nat) (tag : BitVec 16)
    (hdrop : ∀ a0 s, Keeps F s (drop a0 s)) (hdone : ∀ a0 s, Keeps F s (done a0 s)) :
    Keeps F S (State.opTimeout drop done s p key tag) := by
  unfold State.opTimeout
  repeat' first
    | with_reducible assumption | (with_reducible refine Foot.Sub.up hF ?_; decide +kernel)
    | ((first | intro x | (lift_lets; intro x))
       first
         | (refine Keeps.cut x ?_ (fun hx => ?_); rotate_left; clear_value x; rotate_left; unfold x)
         | clear_value x
         | skip)
    | with_reducible apply State.count_keeps | with_reducible apply State.modEp_keeps
    | with_reducible apply State.syncFail_keeps | with_reducible refine Keeps.trans ?_ (hdrop ..)
    | with_reducible refine Keeps.trans ?_ (hdone ..) | split | with_reducible exact Keeps.refl _ _

def execAckDelay_foot : Foot := State.sendAck_foot

theorem execAckDelay_keeps (hF : Foot.Sub execAckDelay_foot F) (p : Plane) (e : Endpt) (src : EpId) (s : State) :
    ∃ t', execAckDelay p e src s = .next t' ∧ Keeps F s t' := by
  unfold execAckDelay
  refine ⟨_, rfl, ?_⟩
  repeat' first
    | with_reducible assumption | (with_reducible refine Foot.Sub.up hF ?_; decide +kernel)
    | ((first | intro x | (lift_lets; intro x))
       first
         | (refine Keeps.cut x ?_ (fun hx => ?_); rotate_left; clear_value x; rotate_left; unfold x)
         | clear_value x
         | skip)
    | with_reducible apply State.when_keeps | with_reducible apply State.sendAck_keeps
    | with_reducible apply Keeps.ite | with_reducible exact Keeps.refl _ _

def execTagRelease_foot : Foot := State.modEp_foot

theorem execTagRelease_keeps (hF : Foot.Sub execTagRelease_foot F) (p : Plane) (e : Endpt) (tag : BitVec 16)
    (s : State) :
    ∃ t', execTagRelease p e tag s = .next t' ∧ Keeps F s t' := by
  unfold execTagRelease
  refine ⟨_, rfl, ?_⟩
  repeat' first
    | with_reducible assumption | (with_reducible refine Foot.Sub.up hF ?_; decide +kernel)
    | with_reducible apply State.when_keeps | with_reducible apply State.modEp_keeps | intro x
    | with_reducible exact Keeps.refl _ _

def State.cwndUp_foot : Foot := Foot.join [State.modSrc_foot, State.pumpSrc_foot]

theorem State.cwndUp_keeps (hs : Keeps F S s) (hF : Foot.Sub State.cwndUp_foot F) (p : Plane) (key : Nat)
    (dst : EpId) :
    Keeps F S (State.cwndUp s p key dst) := by
  unfold State.cwndUp
  repeat' first
    | with_reducible assumption | (with_reducible refine Foot.Sub.up hF ?_; decide +kernel)
    | ((first | intro x | (lift_lets; intro x))
       first
         | (refine Keeps.cut x ?_ (fun hx => ?_); rotate_left; clear_value x; rotate_left; unfold x)
         | clear_value x
         | skip)
    | with_reducible apply State.modSrc_keeps | with_reducible apply State.pumpSrc_keeps
    | with_reducible apply Keeps.ite | with_reducible exact Keeps.refl _ _

def execWinSync_foot : Foot := Foot.join [State.dstCrc_foot, State.winSyncIn_foot]

theorem execWinSync_keeps (hF : Foot.Sub execWinSync_foot F) (p : Plane) (e : Endpt) (pkt : Packet) (s : State) :
    ∃ t', execWinSync p e pkt s = .next t' ∧ Keeps F s t' := by
  unfold execWinSync
  refine ⟨_, rfl, ?_⟩
  repeat' first
    | with_reducible assumption | (with_reducible refine Foot.Sub.up hF ?_; decide +kernel)
    | with_reducible apply State.when_keeps | with_reducible apply State.dstCrc_keeps
    | with_reducible apply State.winSyncIn_keeps | intro x | with_reducible exact Keeps.refl _ _

end Sys2Proof.Machine
end

