-- ==== Sys2Proof/Laws/KeepCollectives.lean ====
section
/-! SUPPORT. `Keeps` of the definitions of Machine/Collectives.lean, each with its footprint. -/

namespace Sys2Proof.Machine

set_option Elab.async false

variable {F : Foot} {S s : State}

def State.modGrp_foot : Foot := foot [.col] []

theorem State.modGrp_keeps (hs : Keeps F S s) (hF : Foot.Sub State.modGrp_foot F) (p : Plane) (g : Nat)
    (f : GrpSt → GrpSt) :
    Keeps F S (State.modGrp s p g f) := by
  unfold State.modGrp
  repeat' first
    | with_reducible assumption | (with_reducible refine Foot.Sub.up hF ?_; decide +kernel)
    | with_reducible apply State.modCol_keeps | intro x | with_reducible exact Keeps.refl _ _

def State.sendCred_foot : Foot := Foot.join [State.modGrp_foot, State.epSend_foot]

theorem State.sendCred_keeps (hs : Keeps F S s) (hF : Foot.Sub State.sendCred_foot F) (p : Plane) (g : Nat) :
    Keeps F S (State.sendCred s p g) := by
  unfold State.sendCred
  repeat' first
    | with_reducible assumption | (with_reducible refine Foot.Sub.up hF ?_; decide +kernel)
    | ((first | intro x | (lift_lets; intro x))
       first
         | (refine Keeps.cut x ?_ (fun hx => ?_); rotate_left; clear_value x; rotate_left; unfold x)
         | clear_value x
         | skip)
    | with_reducible apply State.each_keeps | with_reducible apply State.modGrp_keeps
    | with_reducible apply State.epSend_keeps | with_reducible exact Keeps.refl _ _

def State.openEpoch_foot : Foot := Foot.join [foot [] [.COL_GRP_STAT, .COL_GRP_BASE, .COL_GRP_LIMIT],
  State.modGrp_foot, State.sendCred_foot]

theorem State.openEpoch_keeps (hs : Keeps F S s) (hF : Foot.Sub State.openEpoch_foot F) (p : Plane) (g e : Nat) :
    Keeps F S (State.openEpoch s p g e) := by
  unfold State.openEpoch
  repeat' first
    | with_reducible assumption | (with_reducible refine Foot.Sub.up hF ?_; decide +kernel)
    | ((first | intro x | (lift_lets; intro x))
       first
         | (refine Keeps.cut x ?_ (fun hx => ?_); rotate_left; clear_value x; rotate_left; unfold x)
         | clear_value x
         | skip)
    | with_reducible apply State.setF_keeps | with_reducible apply State.modGrp_keeps
    | with_reducible apply State.sendCred_keeps | with_reducible exact Keeps.refl _ _

def State.purgeGroup_foot : Foot := Foot.join [foot [.swc] [], State.modEp_foot, State.purgeCopy_foot]

theorem State.purgeGroup_keeps (hs : Keeps F S s) (hF : Foot.Sub State.purgeGroup_foot F) (p : Plane) (g : Nat) :
    Keeps F S (State.purgeGroup s p g) := by
  unfold State.purgeGroup
  repeat' first
    | with_reducible assumption | (with_reducible refine Foot.Sub.up hF ?_; decide +kernel)
    | ((first | intro x | (lift_lets; intro x))
       first
         | (refine Keeps.cut x ?_ (fun hx => ?_); rotate_left; clear_value x; rotate_left; unfold x)
         | clear_value x
         | skip)
    | with_reducible apply State.modSwc_keeps | with_reducible apply State.each_keeps
    | with_reducible apply State.modEp_keeps | with_reducible apply State.purgeCopy_keeps
    | with_reducible apply State.foldl_keeps | with_reducible apply State.foldl_snd
    | with_reducible apply State.foldl_snd2 | with_reducible exact Keeps.refl _ _

def State.colAbort_foot : Foot := Foot.join [foot [] [.COL_GRP_STAT], State.purgeGroup_foot, State.modGrp_foot,
  State.raise_foot, State.epSend_foot]

theorem State.colAbort_keeps (hs : Keeps F S s) (hF : Foot.Sub State.colAbort_foot F) (p : Plane) (g code : Nat)
    (origin : Bool) (peer : Option EpId) :
    Keeps F S (State.colAbort s p g code origin peer) := by
  unfold State.colAbort
  repeat' first
    | with_reducible assumption | (with_reducible refine Foot.Sub.up hF ?_; decide +kernel)
    | ((first | intro x | (lift_lets; intro x))
       first
         | (refine Keeps.cut x ?_ (fun hx => ?_); rotate_left; clear_value x; rotate_left; unfold x)
         | clear_value x
         | skip)
    | with_reducible apply State.setF_keeps | with_reducible apply State.setFlag_keeps
    | with_reducible apply State.each_keeps | with_reducible apply State.purgeGroup_keeps
    | with_reducible apply State.modGrp_keeps | with_reducible apply State.raise_keeps
    | with_reducible apply State.epSend_keeps | with_reducible apply Keeps.ite
    | with_reducible exact Keeps.refl _ _

def State.colAbortAll_foot : Foot := State.colAbort_foot

theorem State.colAbortAll_keeps (hs : Keeps F S s) (hF : Foot.Sub State.colAbortAll_foot F) (p : Plane)
    (code : Nat) (xonly : Bool) :
    Keeps F S (State.colAbortAll s p code xonly) := by
  unfold State.colAbortAll
  repeat' first
    | with_reducible assumption | (with_reducible refine Foot.Sub.up hF ?_; decide +kernel)
    | with_reducible apply State.each_keeps | with_reducible apply State.colAbort_keeps | intro x
    | with_reducible apply Keeps.ite | with_reducible exact Keeps.refl _ _

def State.colConvert_foot : Foot := foot [] [.COL_SAT_CNT]

theorem State.colConvert_keeps (hs : Keeps F S s) (hF : Foot.Sub State.colConvert_foot F) (p : Plane)
    (g chunk fmt : Nat) (vs : List Nat) :
    Keeps F S (State.colConvert s p g chunk fmt vs).2 := by
  unfold State.colConvert
  repeat' first
    | with_reducible assumption | (with_reducible refine Foot.Sub.up hF ?_; decide +kernel)
    | ((first | intro x | (lift_lets; intro x))
       first
         | (refine Keeps.cut x ?_ (fun hx => ?_); rotate_left; clear_value x; rotate_left; unfold x)
         | clear_value x
         | skip)
    | with_reducible apply State.countN_keeps | with_reducible exact Keeps.refl _ _

def State.sendResult_foot : Foot := Foot.join [State.colConvert_foot, State.epSend_foot]

theorem State.sendResult_keeps (hs : Keeps F S s) (hF : Foot.Sub State.sendResult_foot F) (p : Plane)
    (g chunk : Nat) (c : Chunk) :
    Keeps F S (State.sendResult s p g chunk c) := by
  unfold State.sendResult
  repeat' first
    | with_reducible assumption | (with_reducible refine Foot.Sub.up hF ?_; decide +kernel)
    | ((first | intro x | (lift_lets; intro x))
       first
         | (refine Keeps.cut x ?_ (fun hx => ?_); rotate_left; clear_value x; rotate_left; unfold x)
         | clear_value x
         | skip)
    | with_reducible apply State.each_keeps | with_reducible apply State.colConvert_keeps
    | with_reducible apply State.epSend_keeps | with_reducible apply Keeps.ite
    | with_reducible refine Keeps.snd ?_ (by assumption) | split | with_reducible exact Keeps.refl _ _

def State.sendPartial_foot : Foot := Foot.join [State.colConvert_foot, State.sendWindowed_foot]

theorem State.sendPartial_keeps (hs : Keeps F S s) (hF : Foot.Sub State.sendPartial_foot F) (p : Plane)
    (g chunk : Nat) (c : Chunk) :
    Keeps F S (State.sendPartial s p g chunk c) := by
  unfold State.sendPartial
  repeat' first
    | with_reducible assumption | (with_reducible refine Foot.Sub.up hF ?_; decide +kernel)
    | ((first | intro x | (lift_lets; intro x))
       first
         | (refine Keeps.cut x ?_ (fun hx => ?_); rotate_left; clear_value x; rotate_left; unfold x)
         | clear_value x
         | skip)
    | with_reducible apply State.colConvert_keeps | with_reducible apply State.sendWindowed_keeps
    | with_reducible apply Keeps.ite | with_reducible refine Keeps.snd ?_ (by assumption) | split
    | with_reducible exact Keeps.refl _ _

def State.setChunk_foot : Foot := State.modGrp_foot

theorem State.setChunk_keeps (hs : Keeps F S s) (hF : Foot.Sub State.setChunk_foot F) (p : Plane)
    (g chunk : Nat) (c : Option Chunk) :
    Keeps F S (State.setChunk s p g chunk c) := by
  unfold State.setChunk
  repeat' first
    | with_reducible assumption | (with_reducible refine Foot.Sub.up hF ?_; decide +kernel)
    | with_reducible apply State.modGrp_keeps | intro x | with_reducible exact Keeps.refl _ _

def State.chunkOutNow_foot : Foot := Foot.join [State.colAbort_foot, State.sendResult_foot, State.setChunk_foot,
  State.sendPartial_foot]

theorem State.chunkOutNow_keeps (hs : Keeps F S s) (hF : Foot.Sub State.chunkOutNow_foot F) (p : Plane)
    (g chunk : Nat) :
    Keeps F S (State.chunkOutNow s p g chunk) := by
  unfold State.chunkOutNow
  repeat' first
    | with_reducible assumption | (with_reducible refine Foot.Sub.up hF ?_; decide +kernel)
    | with_reducible apply State.colAbort_keeps | with_reducible apply State.sendResult_keeps
    | with_reducible apply State.setChunk_keeps | with_reducible apply State.sendPartial_keeps
    | with_reducible apply Keeps.ite | split | with_reducible exact Keeps.refl _ _

def State.fwdTell_foot : Foot := Foot.join [State.modGrp_foot, State.epSend_foot]

theorem State.fwdTell_keeps (hs : Keeps F S s) (hF : Foot.Sub State.fwdTell_foot F) (p : Plane) (g : Nat) :
    Keeps F S (State.fwdTell s p g) := by
  unfold State.fwdTell
  repeat' first
    | with_reducible assumption | (with_reducible refine Foot.Sub.up hF ?_; decide +kernel)
    | ((first | intro x | (lift_lets; intro x))
       first
         | (refine Keeps.cut x ?_ (fun hx => ?_); rotate_left; clear_value x; rotate_left; unfold x)
         | clear_value x
         | skip)
    | with_reducible apply State.modGrp_keeps | with_reducible apply State.epSend_keeps
    | with_reducible apply Keeps.ite | with_reducible exact Keeps.refl _ _

def State.fwdTellAll_foot : Foot := State.fwdTell_foot

theorem State.fwdTellAll_keeps (hs : Keeps F S s) (hF : Foot.Sub State.fwdTellAll_foot F) (p : Plane) :
    Keeps F S (State.fwdTellAll s p) := by
  unfold State.fwdTellAll
  repeat' first
    | with_reducible assumption | (with_reducible refine Foot.Sub.up hF ?_; decide +kernel)
    | with_reducible apply State.each_keeps | with_reducible apply State.fwdTell_keeps | intro x
    | with_reducible exact Keeps.refl _ _

def State.cacheCount_foot : Foot := foot [.free, .loose] []

theorem State.cacheCount_keeps (hs : Keeps F S s) (hF : Foot.Sub State.cacheCount_foot F) (p : Plane) :
    Keeps F S (State.cacheCount s p) := by
  unfold State.cacheCount
  repeat' first
    | with_reducible assumption | (with_reducible refine Foot.Sub.up hF ?_; decide +kernel)
    | ((first | intro x | (lift_lets; intro x))
       first
         | (refine Keeps.cut x ?_ (fun hx => ?_); rotate_left; clear_value x; rotate_left; unfold x)
         | clear_value x
         | skip)
    | with_reducible apply State.takeFree_keeps | with_reducible apply State.setFree_keeps
    | with_reducible refine Keeps.snd ?_ (by assumption) | split | with_reducible exact Keeps.refl _ _

def State.forwardContrib_foot : Foot := State.sendWindowed_foot

theorem State.forwardContrib_keeps (hs : Keeps F S s) (hF : Foot.Sub State.forwardContrib_foot F) (p : Plane)
    (g idx : Nat) (h : ColHdr) (payload : Bytes) :
    Keeps F S (State.forwardContrib s p g idx h payload) := by
  unfold State.forwardContrib
  repeat' first
    | with_reducible assumption | (with_reducible refine Foot.Sub.up hF ?_; decide +kernel)
    | ((first | intro x | (lift_lets; intro x))
       first
         | (refine Keeps.cut x ?_ (fun hx => ?_); rotate_left; clear_value x; rotate_left; unfold x)
         | clear_value x
         | skip)
    | with_reducible apply State.sendWindowed_keeps | with_reducible exact Keeps.refl _ _

def State.accept_foot : Foot := Foot.join [foot [] [.COL_FWD_CNT], State.modGrp_foot, State.setChunk_foot,
  State.cacheCount_foot, State.fwdTell_foot, State.forwardContrib_foot, State.chunkOutNow_foot]

theorem State.accept_keeps (hs : Keeps F S s) (hF : Foot.Sub State.accept_foot F) (p : Plane) (g idx : Nat)
    (h : ColHdr) (payload : Bytes) :
    Keeps F S (State.accept s p g idx h payload) := by
  unfold State.accept
  repeat' first
    | with_reducible assumption | (with_reducible refine Foot.Sub.up hF ?_; decide +kernel)
    | ((first | intro x | (lift_lets; intro x))
       first
         | (refine Keeps.cut x ?_ (fun hx => ?_); rotate_left; clear_value x; rotate_left; unfold x)
         | clear_value x
         | skip)
    | with_reducible apply State.count_keeps | with_reducible apply State.modGrp_keeps
    | with_reducible apply State.setChunk_keeps | with_reducible apply State.cacheCount_keeps
    | with_reducible apply State.fwdTell_keeps | with_reducible apply State.forwardContrib_keeps
    | with_reducible apply State.chunkOutNow_keeps | with_reducible apply Keeps.ite | split
    | with_reducible exact Keeps.refl _ _

def State.contribIn_foot : Foot := Foot.join [foot [] [.COL_GRP_DISC, .COL_ABORT_DISC, .COL_STALE_DISC,
  .COL_CRED_DISC], State.raise_foot, State.colAbort_foot, State.accept_foot]

theorem State.contribIn_keeps (hs : Keeps F S s) (hF : Foot.Sub State.contribIn_foot F) (p : Plane) (k : Packet) :
    Keeps F S (State.contribIn s p k) := by
  unfold State.contribIn
  repeat' first
    | with_reducible assumption | (with_reducible refine Foot.Sub.up hF ?_; decide +kernel)
    | ((first | intro x | (lift_lets; intro x))
       first
         | (refine Keeps.cut x ?_ (fun hx => ?_); rotate_left; clear_value x; rotate_left; unfold x)
         | clear_value x
         | skip)
    | with_reducible apply State.count_keeps | with_reducible apply State.raise_keeps
    | with_reducible apply State.colAbort_keeps | with_reducible apply State.accept_keeps
    | with_reducible apply Keeps.ite | split | with_reducible exact Keeps.refl _ _

def State.fwdReturn_foot : Foot := Foot.join [foot [] [.COL_ABORT_DISC, .COL_GRP_DISC, .COL_STALE_DISC,
  .COL_CRED_DISC], State.raise_foot, State.colAbort_foot, State.setChunk_foot, State.sendResult_foot,
  State.sendWindowed_foot]

theorem State.fwdReturn_keeps (hs : Keeps F S s) (hF : Foot.Sub State.fwdReturn_foot F) (p : Plane) (k : Packet)
    (h : ColHdr) :
    Keeps F S (State.fwdReturn s p k h) := by
  unfold State.fwdReturn
  repeat' first
    | with_reducible assumption | (with_reducible refine Foot.Sub.up hF ?_; decide +kernel)
    | ((first | intro x | (lift_lets; intro x))
       first
         | (refine Keeps.cut x ?_ (fun hx => ?_); rotate_left; clear_value x; rotate_left; unfold x)
         | clear_value x
         | skip)
    | with_reducible apply State.count_keeps | with_reducible apply State.raise_keeps
    | with_reducible apply State.colAbort_keeps | with_reducible apply State.setChunk_keeps
    | with_reducible apply State.sendResult_keeps | with_reducible apply State.sendWindowed_keeps
    | with_reducible apply Keeps.ite | split | with_reducible exact Keeps.refl _ _

def State.colPerform_foot : Foot := Foot.join [State.fwdReturn_foot, State.contribIn_foot]

theorem State.colPerform_keeps (hs : Keeps F S s) (hF : Foot.Sub State.colPerform_foot F) (p : Plane)
    (k : Packet) :
    Keeps F S (State.colPerform s p k) := by
  unfold State.colPerform
  repeat' first
    | with_reducible assumption | (with_reducible refine Foot.Sub.up hF ?_; decide +kernel)
    | with_reducible apply State.fwdReturn_keeps | with_reducible apply State.contribIn_keeps
    | with_reducible apply Keeps.ite | split | with_reducible exact Keeps.refl _ _

def State.freeChunk_foot : Foot := Foot.join [foot [] [.COL_GRP_BASE, .COL_GRP_LIMIT], State.setChunk_foot,
  State.modGrp_foot, State.openEpoch_foot, State.sendCred_foot]

theorem State.freeChunk_keeps (hs : Keeps F S s) (hF : Foot.Sub State.freeChunk_foot F) (p : Plane)
    (g chunk : Nat) :
    Keeps F S (State.freeChunk s p g chunk) := by
  unfold State.freeChunk
  repeat' first
    | with_reducible assumption | (with_reducible refine Foot.Sub.up hF ?_; decide +kernel)
    | ((first | intro x | (lift_lets; intro x))
       first
         | (refine Keeps.cut x ?_ (fun hx => ?_); rotate_left; clear_value x; rotate_left; unfold x)
         | clear_value x
         | skip)
    | with_reducible apply State.setF_keeps | with_reducible apply State.setChunk_keeps
    | with_reducible apply State.modGrp_keeps | with_reducible apply State.openEpoch_keeps
    | with_reducible apply State.sendCred_keeps | with_reducible apply Keeps.ite
    | with_reducible refine Keeps.snd ?_ (by assumption) | split | with_reducible exact Keeps.refl _ _

def State.setRej_foot : Foot := foot [] [.COL_GRP_STAT]

theorem State.setRej_keeps (hs : Keeps F S s) (hF : Foot.Sub State.setRej_foot F) (p : Plane) (g code : Nat) :
    Keeps F S (State.setRej s p g code) := by
  unfold State.setRej
  repeat' first
    | with_reducible assumption | (with_reducible refine Foot.Sub.up hF ?_; decide +kernel)
    | with_reducible apply State.setF_keeps | with_reducible apply State.setFlag_keeps
    | with_reducible exact Keeps.refl _ _

theorem State.subF_keeps (hs : Keeps F S s) (p : Plane) (f : Fld) (n : Nat) (hf : Foot.Sub f.reg.foot F) :
    Keeps F S (State.subF s p f n) := by
  unfold State.subF
  repeat' first
    | with_reducible assumption | with_reducible apply State.setF_keeps | with_reducible exact Keeps.refl _ _

theorem State.addF_keeps (hs : Keeps F S s) (p : Plane) (f : Fld) (n : Nat) (hf : Foot.Sub f.reg.foot F) :
    Keeps F S (State.addF s p f n) := by
  unfold State.addF
  repeat' first
    | with_reducible assumption | with_reducible apply State.setF_keeps | with_reducible exact Keeps.refl _ _

def State.setDeepFree_foot : Foot := foot [] [.MEM_DEEP_FREE, .DSP_OVF_FREE]

theorem State.setDeepFree_keeps (hs : Keeps F S s) (hF : Foot.Sub State.setDeepFree_foot F) (p : Plane)
    (n : Nat) :
    Keeps F S (State.setDeepFree s p n) := by
  unfold State.setDeepFree
  repeat' first
    | with_reducible assumption | (with_reducible refine Foot.Sub.up hF ?_; decide +kernel)
    | with_reducible apply State.setF_keeps | with_reducible exact Keeps.refl _ _

def State.setResv_foot : Foot := Foot.join [foot [] [.COL_SLOT_FREE, .COL_REC_FREE, .COL_SPILL_FREE],
  State.setDeepFree_foot]

theorem State.setResv_keeps (hs : Keeps F S s) (hF : Foot.Sub State.setResv_foot F) (p : Plane) (r n : Nat) :
    Keeps F S (State.setResv s p r n) := by
  unfold State.setResv
  repeat' first
    | with_reducible assumption | (with_reducible refine Foot.Sub.up hF ?_; decide +kernel)
    | with_reducible apply State.setF_keeps | with_reducible apply State.setDeepFree_keeps | split
    | with_reducible exact Keeps.refl _ _

def State.give_foot : Foot := Foot.join [foot [.mem] [], State.setResv_foot]

theorem State.give_keeps (hs : Keeps F S s) (hF : Foot.Sub State.give_foot F) (p : Plane) (r n : Nat) :
    Keeps F S (State.give s p r n) := by
  unfold State.give
  repeat' first
    | with_reducible assumption | (with_reducible refine Foot.Sub.up hF ?_; decide +kernel)
    | ((first | intro x | (lift_lets; intro x))
       first
         | (refine Keeps.cut x ?_ (fun hx => ?_); rotate_left; clear_value x; rotate_left; unfold x)
         | clear_value x
         | skip)
    | with_reducible apply State.modMem_keeps | with_reducible apply State.setResv_keeps
    | with_reducible exact Keeps.refl _ _ | exact ⟨rfl, rfl⟩

def State.withdraw_foot : Foot := Foot.join [foot [.mem] [], State.setResv_foot]

theorem State.withdraw_keeps (hs : Keeps F S s) (hF : Foot.Sub State.withdraw_foot F) (p : Plane) (r n : Nat) :
    Keeps F S (State.withdraw s p r n) := by
  unfold State.withdraw
  repeat' first
    | with_reducible assumption | (with_reducible refine Foot.Sub.up hF ?_; decide +kernel)
    | ((first | intro x | (lift_lets; intro x))
       first
         | (refine Keeps.cut x ?_ (fun hx => ?_); rotate_left; clear_value x; rotate_left; unfold x)
         | clear_value x
         | skip)
    | with_reducible apply State.modMem_keeps | with_reducible apply State.setResv_keeps
    | with_reducible exact Keeps.refl _ _ | exact ⟨rfl, rfl⟩

def State.colActivate_foot : Foot := Foot.join [foot [] [.COL_SLOT_FREE, .COL_REC_FREE, .COL_SPILL_FREE,
  .COL_ACT_CNT, .COL_GRP_STAT], State.setRej_foot, State.setDeepFree_foot, State.modGrp_foot, State.openEpoch_foot]

theorem State.colActivate_keeps (hs : Keeps F S s) (hF : Foot.Sub State.colActivate_foot F) (p : Plane)
    (g : Nat) :
    Keeps F S (State.colActivate s p g) := by
  unfold State.colActivate
  repeat' first
    | with_reducible assumption | (with_reducible refine Foot.Sub.up hF ?_; decide +kernel)
    | ((first | intro x | (lift_lets; intro x))
       first
         | (refine Keeps.cut x ?_ (fun hx => ?_); rotate_left; clear_value x; rotate_left; unfold x)
         | clear_value x
         | skip)
    | with_reducible apply State.setF_keeps | with_reducible apply State.setFlag_keeps
    | with_reducible apply State.setRej_keeps | with_reducible apply State.subF_keeps
    | with_reducible apply State.setDeepFree_keeps | with_reducible apply State.addF_keeps
    | with_reducible apply State.modGrp_keeps | with_reducible apply State.openEpoch_keeps
    | with_reducible apply Keeps.ite | with_reducible exact Keeps.refl _ _

def State.colDeactivate_foot : Foot := Foot.join [foot [] [.COL_ABORT_DISC, .COL_ACT_CNT, .COL_GRP_STAT],
  State.purgeGroup_foot, State.give_foot, State.modGrp_foot]

theorem State.colDeactivate_keeps (hs : Keeps F S s) (hF : Foot.Sub State.colDeactivate_foot F) (p : Plane)
    (g : Nat) :
    Keeps F S (State.colDeactivate s p g) := by
  unfold State.colDeactivate
  repeat' first
    | with_reducible assumption | (with_reducible refine Foot.Sub.up hF ?_; decide +kernel)
    | ((first | intro x | (lift_lets; intro x))
       first
         | (refine Keeps.cut x ?_ (fun hx => ?_); rotate_left; clear_value x; rotate_left; unfold x)
         | clear_value x
         | skip)
    | with_reducible apply State.countN_keeps | with_reducible apply State.setF_keeps
    | with_reducible apply State.purgeGroup_keeps | with_reducible apply State.give_keeps
    | with_reducible apply State.subF_keeps | with_reducible apply State.modGrp_keeps
    | with_reducible apply State.foldl_keeps | with_reducible apply State.foldl_snd
    | with_reducible apply State.foldl_snd2 | with_reducible apply Keeps.ite | with_reducible exact Keeps.refl _ _

def State.colSoftAbort_foot : Foot := State.colAbort_foot

theorem State.colSoftAbort_keeps (hs : Keeps F S s) (hF : Foot.Sub State.colSoftAbort_foot F) (p : Plane)
    (g : Nat) :
    Keeps F S (State.colSoftAbort s p g) := by
  unfold State.colSoftAbort
  repeat' first
    | with_reducible assumption | (with_reducible refine Foot.Sub.up hF ?_; decide +kernel)
    | with_reducible apply State.colAbort_keeps | with_reducible exact Keeps.refl _ _

def State.colReform_foot : Foot := Foot.join [foot [] [.COL_GRP_STAT], State.openEpoch_foot]

theorem State.colReform_keeps (hs : Keeps F S s) (hF : Foot.Sub State.colReform_foot F) (p : Plane) (g : Nat) :
    Keeps F S (State.colReform s p g) := by
  unfold State.colReform
  repeat' first
    | with_reducible assumption | (with_reducible refine Foot.Sub.up hF ?_; decide +kernel)
    | with_reducible apply State.setF_keeps | with_reducible apply State.openEpoch_keeps
    | with_reducible apply Keeps.ite | with_reducible exact Keeps.refl _ _

def State.colCtlWrite_foot : Foot := Foot.join [State.colActivate_foot, State.colDeactivate_foot,
  State.colSoftAbort_foot, State.colReform_foot, State.setRej_foot]

theorem State.colCtlWrite_keeps (hs : Keeps F S s) (hF : Foot.Sub State.colCtlWrite_foot F) (p : Plane)
    (g v : Nat) :
    Keeps F S (State.colCtlWrite s p g v) := by
  unfold State.colCtlWrite
  repeat' first
    | with_reducible assumption | (with_reducible refine Foot.Sub.up hF ?_; decide +kernel)
    | with_reducible apply State.colActivate_keeps | with_reducible apply State.colDeactivate_keeps
    | with_reducible apply State.colSoftAbort_keeps | with_reducible apply State.colReform_keeps
    | with_reducible apply State.setRej_keeps | split | with_reducible exact Keeps.refl _ _

def State.slotCredIn_foot : Foot := Foot.join [foot [] [.COL_GRP_DISC, .COL_ABORT_DISC], State.modGrp_foot,
  State.chunkOutNow_foot, State.fwdTell_foot]

theorem State.slotCredIn_keeps (hs : Keeps F S s) (hF : Foot.Sub State.slotCredIn_foot F) (p : Plane)
    (k : Packet) :
    Keeps F S (State.slotCredIn s p k) := by
  unfold State.slotCredIn
  repeat' first
    | with_reducible assumption | (with_reducible refine Foot.Sub.up hF ?_; decide +kernel)
    | ((first | intro x | (lift_lets; intro x))
       first
         | (refine Keeps.cut x ?_ (fun hx => ?_); rotate_left; clear_value x; rotate_left; unfold x)
         | clear_value x
         | skip)
    | with_reducible apply State.count_keeps | with_reducible apply State.each_keeps
    | with_reducible apply State.modGrp_keeps | with_reducible apply State.chunkOutNow_keeps
    | with_reducible apply State.fwdTell_keeps | with_reducible apply Keeps.ite | split
    | with_reducible exact Keeps.refl _ _

def State.colCtlIn_foot : Foot := Foot.join [foot [] [.COL_GRP_DISC, .COL_ABORT_DISC], State.colAbort_foot]

theorem State.colCtlIn_keeps (hs : Keeps F S s) (hF : Foot.Sub State.colCtlIn_foot F) (p : Plane) (k : Packet) :
    Keeps F S (State.colCtlIn s p k) := by
  unfold State.colCtlIn
  repeat' first
    | with_reducible assumption | (with_reducible refine Foot.Sub.up hF ?_; decide +kernel)
    | ((first | intro x | (lift_lets; intro x))
       first
         | (refine Keeps.cut x ?_ (fun hx => ?_); rotate_left; clear_value x; rotate_left; unfold x)
         | clear_value x
         | skip)
    | with_reducible apply State.count_keeps | with_reducible apply State.colAbort_keeps
    | with_reducible apply Keeps.ite | split | with_reducible exact Keeps.refl _ _

def execChunkFreed_foot : Foot := State.freeChunk_foot

theorem execChunkFreed_keeps (hF : Foot.Sub execChunkFreed_foot F) (p : Plane) (g : Fin 1024)
    (chunk : BitVec 32) (s : State) :
    ∃ t', execChunkFreed p g chunk s = .next t' ∧ Keeps F s t' := by
  unfold execChunkFreed
  refine ⟨_, rfl, ?_⟩
  repeat' first
    | with_reducible assumption | (with_reducible refine Foot.Sub.up hF ?_; decide +kernel)
    | with_reducible apply State.when_keeps | with_reducible apply State.freeChunk_keeps | intro x
    | with_reducible exact Keeps.refl _ _

def execSlotCred_foot : Foot := Foot.join [State.dstCrc_foot, State.slotCredIn_foot]

theorem execSlotCred_keeps (hF : Foot.Sub execSlotCred_foot F) (p : Plane) (pkt : Packet) (s : State) :
    ∃ t', execSlotCred p pkt s = .next t' ∧ Keeps F s t' := by
  unfold execSlotCred
  refine ⟨_, rfl, ?_⟩
  repeat' first
    | with_reducible assumption | (with_reducible refine Foot.Sub.up hF ?_; decide +kernel)
    | with_reducible apply State.when_keeps | with_reducible apply State.dstCrc_keeps
    | with_reducible apply State.slotCredIn_keeps | intro x | with_reducible exact Keeps.refl _ _

def execSlotCredDelay_foot : Foot := State.sendCred_foot

theorem execSlotCredDelay_keeps (hF : Foot.Sub execSlotCredDelay_foot F) (p : Plane) (g : Fin 1024) (s : State) :
    ∃ t', execSlotCredDelay p g s = .next t' ∧ Keeps F s t' := by
  unfold execSlotCredDelay
  refine ⟨_, rfl, ?_⟩
  repeat' first
    | with_reducible assumption | (with_reducible refine Foot.Sub.up hF ?_; decide +kernel)
    | with_reducible apply State.when_keeps | with_reducible apply State.sendCred_keeps | intro x
    | with_reducible exact Keeps.refl _ _

def execSlotCredRefresh_foot : Foot := State.sendCred_foot

theorem execSlotCredRefresh_keeps (hF : Foot.Sub execSlotCredRefresh_foot F) (p : Plane) (g : Fin 1024)
    (s : State) :
    ∃ t', execSlotCredRefresh p g s = .next t' ∧ Keeps F s t' := by
  unfold execSlotCredRefresh
  refine ⟨_, rfl, ?_⟩
  repeat' first
    | with_reducible assumption | (with_reducible refine Foot.Sub.up hF ?_; decide +kernel)
    | with_reducible apply State.when_keeps | with_reducible apply State.sendCred_keeps | intro x
    | with_reducible exact Keeps.refl _ _

def execColCtl_foot : Foot := Foot.join [State.dstCrc_foot, State.colCtlIn_foot]

theorem execColCtl_keeps (hF : Foot.Sub execColCtl_foot F) (p : Plane) (pkt : Packet) (s : State) :
    ∃ t', execColCtl p pkt s = .next t' ∧ Keeps F s t' := by
  unfold execColCtl
  refine ⟨_, rfl, ?_⟩
  repeat' first
    | with_reducible assumption | (with_reducible refine Foot.Sub.up hF ?_; decide +kernel)
    | with_reducible apply State.when_keeps | with_reducible apply State.dstCrc_keeps
    | with_reducible apply State.colCtlIn_keeps | intro x | with_reducible exact Keeps.refl _ _

def execCollectiveTimeout_foot : Foot := State.colAbort_foot

theorem execCollectiveTimeout_keeps (hF : Foot.Sub execCollectiveTimeout_foot F) (p : Plane) (g : Fin 1024)
    (s : State) :
    ∃ t', execCollectiveTimeout p g s = .next t' ∧ Keeps F s t' := by
  unfold execCollectiveTimeout
  refine ⟨_, rfl, ?_⟩
  repeat' first
    | with_reducible assumption | (with_reducible refine Foot.Sub.up hF ?_; decide +kernel)
    | with_reducible apply State.when_keeps | with_reducible apply State.colAbort_keeps | intro x
    | with_reducible exact Keeps.refl _ _

def execGroupActivate_foot : Foot := State.colCtlWrite_foot

theorem execGroupActivate_keeps (hF : Foot.Sub execGroupActivate_foot F) (p : Plane) (g : Fin 1024) (s : State) :
    ∃ t', execGroupActivate p g s = .next t' ∧ Keeps F s t' := by
  unfold execGroupActivate
  refine ⟨_, rfl, ?_⟩
  repeat' first
    | with_reducible assumption | (with_reducible refine Foot.Sub.up hF ?_; decide +kernel)
    | with_reducible apply State.when_keeps | with_reducible apply State.colCtlWrite_keeps | intro x
    | with_reducible exact Keeps.refl _ _

def execGroupDeactivate_foot : Foot := State.colCtlWrite_foot

theorem execGroupDeactivate_keeps (hF : Foot.Sub execGroupDeactivate_foot F) (p : Plane) (g : Fin 1024)
    (s : State) :
    ∃ t', execGroupDeactivate p g s = .next t' ∧ Keeps F s t' := by
  unfold execGroupDeactivate
  refine ⟨_, rfl, ?_⟩
  repeat' first
    | with_reducible assumption | (with_reducible refine Foot.Sub.up hF ?_; decide +kernel)
    | with_reducible apply State.when_keeps | with_reducible apply State.colCtlWrite_keeps | intro x
    | with_reducible exact Keeps.refl _ _

def execGroupAbort_foot : Foot := State.colCtlWrite_foot

theorem execGroupAbort_keeps (hF : Foot.Sub execGroupAbort_foot F) (p : Plane) (g : Fin 1024) (s : State) :
    ∃ t', execGroupAbort p g s = .next t' ∧ Keeps F s t' := by
  unfold execGroupAbort
  refine ⟨_, rfl, ?_⟩
  repeat' first
    | with_reducible assumption | (with_reducible refine Foot.Sub.up hF ?_; decide +kernel)
    | with_reducible apply State.when_keeps | with_reducible apply State.colCtlWrite_keeps | intro x
    | with_reducible exact Keeps.refl _ _

def execReform_foot : Foot := State.colCtlWrite_foot

theorem execReform_keeps (hF : Foot.Sub execReform_foot F) (p : Plane) (g : Fin 1024) (s : State) :
    ∃ t', execReform p g s = .next t' ∧ Keeps F s t' := by
  unfold execReform
  refine ⟨_, rfl, ?_⟩
  repeat' first
    | with_reducible assumption | (with_reducible refine Foot.Sub.up hF ?_; decide +kernel)
    | with_reducible apply State.when_keeps | with_reducible apply State.colCtlWrite_keeps | intro x
    | with_reducible exact Keeps.refl _ _

def State.engineSend_foot : Foot := foot [.col, .out] []

theorem State.engineSend_keeps (hs : Keeps F S s) (hF : Foot.Sub State.engineSend_foot F) (p : Plane) :
    Keeps F S (State.engineSend s p) := by
  unfold State.engineSend
  repeat' first
    | with_reducible assumption | (with_reducible refine Foot.Sub.up hF ?_; decide +kernel)
    | ((first | intro x | (lift_lets; intro x))
       first
         | (refine Keeps.cut x ?_ (fun hx => ?_); rotate_left; clear_value x; rotate_left; unfold x)
         | clear_value x
         | skip)
    | with_reducible apply State.modCol_keeps | with_reducible apply State.emit_keeps
    | with_reducible exact Keeps.refl _ _

def execEngineStateFlit_foot : Foot := State.colAbortAll_foot

theorem execEngineStateFlit_keeps (hF : Foot.Sub execEngineStateFlit_foot F) (p : Plane) (up : Bool) (s : State) :
    ∃ t', execEngineStateFlit p up s = .next t' ∧ Keeps F s t' := by
  unfold execEngineStateFlit
  refine ⟨_, rfl, ?_⟩
  repeat' first
    | with_reducible assumption | (with_reducible refine Foot.Sub.up hF ?_; decide +kernel)
    | with_reducible apply State.when_keeps | with_reducible apply State.colAbortAll_keeps | intro x
    | with_reducible exact Keeps.refl _ _

def execEngineStateSend_foot : Foot := State.engineSend_foot

theorem execEngineStateSend_keeps (hF : Foot.Sub execEngineStateSend_foot F) (p : Plane) (s : State) :
    ∃ t', execEngineStateSend p s = .next t' ∧ Keeps F s t' := by
  unfold execEngineStateSend
  refine ⟨_, rfl, ?_⟩
  repeat' first
    | with_reducible assumption | (with_reducible refine Foot.Sub.up hF ?_; decide +kernel)
    | with_reducible apply State.when_keeps | with_reducible apply State.engineSend_keeps | intro x
    | with_reducible exact Keeps.refl _ _

end Sys2Proof.Machine
end

