-- ==== Sys2Proof/Laws/KeepExpert.lean ====
section
/-! SUPPORT. `Keeps` of the definitions of Machine/Expert.lean, each with its footprint. -/

namespace Sys2Proof.Machine

set_option Elab.async false

variable {F : Foot} {S s : State}

def State.modLyr_foot : Foot := foot [.dsp] []

theorem State.modLyr_keeps (hs : Keeps F S s) (hF : Foot.Sub State.modLyr_foot F) (p : Plane) (l : Nat)
    (f : LyrSt → LyrSt) :
    Keeps F S (State.modLyr s p l f) := by
  unfold State.modLyr
  repeat' first
    | with_reducible assumption | (with_reducible refine Foot.Sub.up hF ?_; decide +kernel)
    | with_reducible apply State.modDsp_keeps | intro x | with_reducible exact Keeps.refl _ _

def State.modExp_foot : Foot := State.modLyr_foot

theorem State.modExp_keeps (hs : Keeps F S s) (hF : Foot.Sub State.modExp_foot F) (p : Plane) (l e : Nat)
    (f : ExpSt → ExpSt) :
    Keeps F S (State.modExp s p l e f) := by
  unfold State.modExp
  repeat' first
    | with_reducible assumption | (with_reducible refine Foot.Sub.up hF ?_; decide +kernel)
    | with_reducible apply State.modLyr_keeps | intro x | with_reducible exact Keeps.refl _ _

def State.setRec_foot : Foot := foot [.dsp] []

theorem State.setRec_keeps (hs : Keeps F S s) (hF : Foot.Sub State.setRec_foot F) (p : Plane) (t : Nat)
    (r : Option TokRec) :
    Keeps F S (State.setRec s p t r) := by
  unfold State.setRec
  repeat' first
    | with_reducible assumption | (with_reducible refine Foot.Sub.up hF ?_; decide +kernel)
    | with_reducible apply State.modDsp_keeps | intro x | with_reducible exact Keeps.refl _ _

def State.dspSend_foot : Foot := State.sendWindowed_foot

theorem State.dspSend_keeps (hs : Keeps F S s) (hF : Foot.Sub State.dspSend_foot F) (p : Plane) (l : Nat)
    (op : Byte) (dst : EpId) (pen : Bool) (h : DspHdr) (data : Bytes) :
    Keeps F S (State.dspSend s p l op dst pen h data) := by
  unfold State.dspSend
  repeat' first
    | with_reducible assumption | (with_reducible refine Foot.Sub.up hF ?_; decide +kernel)
    | ((first | intro x | (lift_lets; intro x))
       first
         | (refine Keeps.cut x ?_ (fun hx => ?_); rotate_left; clear_value x; rotate_left; unfold x)
         | clear_value x
         | skip)
    | with_reducible apply State.sendWindowed_keeps | with_reducible exact Keeps.refl _ _

def State.tokenRet_foot : Foot := State.dspSend_foot

theorem State.tokenRet_keeps (hs : Keeps F S s) (hF : Foot.Sub State.tokenRet_foot F) (p : Plane) (l : Nat)
    (dst : EpId) (epoch frag token rstat acode : Nat) :
    Keeps F S (State.tokenRet s p l dst epoch frag token rstat acode) := by
  unfold State.tokenRet
  repeat' first
    | with_reducible assumption | (with_reducible refine Foot.Sub.up hF ?_; decide +kernel)
    | with_reducible apply State.dspSend_keeps | with_reducible exact Keeps.refl _ _

def State.openLayer_foot : Foot := Foot.join [foot [.dsp] [.DSP_LYR_STAT], State.modLyr_foot, State.tokenRet_foot]

theorem State.openLayer_keeps (hs : Keeps F S s) (hF : Foot.Sub State.openLayer_foot F) (p : Plane) (l e : Nat) :
    Keeps F S (State.openLayer s p l e) := by
  unfold State.openLayer
  repeat' first
    | with_reducible assumption | (with_reducible refine Foot.Sub.up hF ?_; decide +kernel)
    | ((first | intro x | (lift_lets; intro x))
       first
         | (refine Keeps.cut x ?_ (fun hx => ?_); rotate_left; clear_value x; rotate_left; unfold x)
         | clear_value x
         | skip)
    | with_reducible apply State.modDsp_keeps | with_reducible apply State.setF_keeps
    | with_reducible apply State.each_keeps | with_reducible apply State.modLyr_keeps
    | with_reducible apply State.tokenRet_keeps | with_reducible exact Keeps.refl _ _

def State.touch_foot : Foot := State.modLyr_foot

theorem State.touch_keeps (hs : Keeps F S s) (hF : Foot.Sub State.touch_foot F) (p : Plane) (l : Nat)
    (dst : EpId) :
    Keeps F S (State.touch s p l dst) := by
  unfold State.touch
  repeat' first
    | with_reducible assumption | (with_reducible refine Foot.Sub.up hF ?_; decide +kernel)
    | with_reducible apply State.modLyr_keeps | intro x | with_reducible apply Keeps.ite
    | with_reducible exact Keeps.refl _ _

def State.sendClose_foot : Foot := Foot.join [State.touch_foot, State.dspSend_foot]

theorem State.sendClose_keeps (hs : Keeps F S s) (hF : Foot.Sub State.sendClose_foot F) (p : Plane) (l e : Nat) :
    Keeps F S (State.sendClose s p l e) := by
  unfold State.sendClose
  repeat' first
    | with_reducible assumption | (with_reducible refine Foot.Sub.up hF ?_; decide +kernel)
    | ((first | intro x | (lift_lets; intro x))
       first
         | (refine Keeps.cut x ?_ (fun hx => ?_); rotate_left; clear_value x; rotate_left; unfold x)
         | clear_value x
         | skip)
    | with_reducible apply State.touch_keeps | with_reducible apply State.dspSend_keeps
    | with_reducible exact Keeps.refl _ _

def State.closeEpoch_foot : Foot := State.openLayer_foot

theorem State.closeEpoch_keeps (hs : Keeps F S s) (hF : Foot.Sub State.closeEpoch_foot F) (p : Plane) (l : Nat) :
    Keeps F S (State.closeEpoch s p l) := by
  unfold State.closeEpoch
  repeat' first
    | with_reducible assumption | (with_reducible refine Foot.Sub.up hF ?_; decide +kernel)
    | ((first | intro x | (lift_lets; intro x))
       first
         | (refine Keeps.cut x ?_ (fun hx => ?_); rotate_left; clear_value x; rotate_left; unfold x)
         | clear_value x
         | skip)
    | with_reducible apply State.openLayer_keeps | with_reducible apply Keeps.ite
    | with_reducible exact Keeps.refl _ _

def State.closeEpochs_foot : Foot := State.closeEpoch_foot

theorem State.closeEpochs_keeps (hs : Keeps F S s) (hF : Foot.Sub State.closeEpochs_foot F) (p : Plane) :
    Keeps F S (State.closeEpochs s p) := by
  unfold State.closeEpochs
  repeat' first
    | with_reducible assumption | (with_reducible refine Foot.Sub.up hF ?_; decide +kernel)
    | with_reducible apply State.each_keeps | with_reducible apply State.closeEpoch_keeps | intro x
    | with_reducible exact Keeps.refl _ _

def State.sendCombined_foot : Foot := Foot.join [foot [.free] [.DSP_SAT_CNT], State.setRec_foot,
  State.dspSend_foot]

theorem State.sendCombined_keeps (hs : Keeps F S s) (hF : Foot.Sub State.sendCombined_foot F) (p : Plane)
    (t f : Nat) (r : TokRec) :
    Keeps F S (State.sendCombined s p t f r) := by
  unfold State.sendCombined
  repeat' first
    | with_reducible assumption | (with_reducible refine Foot.Sub.up hF ?_; decide +kernel)
    | ((first | intro x | (lift_lets; intro x))
       first
         | (refine Keeps.cut x ?_ (fun hx => ?_); rotate_left; clear_value x; rotate_left; unfold x)
         | clear_value x
         | skip)
    | with_reducible apply State.takeFree_keeps | with_reducible apply State.countN_keeps
    | with_reducible apply State.setRec_keeps | with_reducible apply State.dspSend_keeps
    | with_reducible refine Keeps.snd ?_ (by assumption) | split | with_reducible exact Keeps.refl _ _

def State.freeBytes_foot : Foot := foot [.free] []

theorem State.freeBytes_keeps (hs : Keeps F S s) (hF : Foot.Sub State.freeBytes_foot F) (n : Nat) :
    Keeps F S (State.freeBytes s n).2 := by
  unfold State.freeBytes
  repeat' first
    | with_reducible assumption | (with_reducible refine Foot.Sub.up hF ?_; decide +kernel)
    | ((first | intro x | (lift_lets; intro x))
       first
         | (refine Keeps.cut x ?_ (fun hx => ?_); rotate_left; clear_value x; rotate_left; unfold x)
         | clear_value x
         | skip)
    | with_reducible apply State.takeFree_keeps | with_reducible refine Keeps.snd ?_ (by assumption) | split
    | with_reducible exact Keeps.refl _ _

def State.sendDropped_foot : Foot := Foot.join [State.freeBytes_foot, State.setRec_foot, State.dspSend_foot]

theorem State.sendDropped_keeps (hs : Keeps F S s) (hF : Foot.Sub State.sendDropped_foot F) (p : Plane)
    (t f : Nat) (r : TokRec) (data : Option Bytes) :
    Keeps F S (State.sendDropped s p t f r data) := by
  unfold State.sendDropped
  repeat' first
    | with_reducible assumption | (with_reducible refine Foot.Sub.up hF ?_; decide +kernel)
    | ((first | intro x | (lift_lets; intro x))
       first
         | (refine Keeps.cut x ?_ (fun hx => ?_); rotate_left; clear_value x; rotate_left; unfold x)
         | clear_value x
         | skip)
    | with_reducible apply State.freeBytes_keeps | with_reducible apply State.setRec_keeps
    | with_reducible apply State.dspSend_keeps | with_reducible apply Keeps.ite
    | with_reducible refine Keeps.snd ?_ (by assumption) | split | with_reducible exact Keeps.refl _ _

def State.finishRec_foot : Foot := Foot.join [State.sendDropped_foot, State.sendCombined_foot]

theorem State.finishRec_keeps (hs : Keeps F S s) (hF : Foot.Sub State.finishRec_foot F) (p : Plane) (t : Nat)
    (data : Option Bytes) :
    Keeps F S (State.finishRec s p t data) := by
  unfold State.finishRec
  repeat' first
    | with_reducible assumption | (with_reducible refine Foot.Sub.up hF ?_; decide +kernel)
    | with_reducible apply State.each_keeps | with_reducible apply State.sendDropped_keeps
    | with_reducible apply State.sendCombined_keeps | intro x | with_reducible apply Keeps.ite | split
    | with_reducible exact Keeps.refl _ _

def State.sendExpert_foot : Foot := Foot.join [State.modLyr_foot, State.touch_foot, State.modExp_foot,
  State.dspSend_foot]

theorem State.sendExpert_keeps (hs : Keeps F S s) (hF : Foot.Sub State.sendExpert_foot F) (p : Plane)
    (t j f : Nat) (r : TokRec) (round : Nat) (host : Bool) (data : Bytes) :
    Keeps F S (State.sendExpert s p t j f r round host data) := by
  unfold State.sendExpert
  repeat' first
    | with_reducible assumption | (with_reducible refine Foot.Sub.up hF ?_; decide +kernel)
    | ((first | intro x | (lift_lets; intro x))
       first
         | (refine Keeps.cut x ?_ (fun hx => ?_); rotate_left; clear_value x; rotate_left; unfold x)
         | clear_value x
         | skip)
    | with_reducible apply State.modLyr_keeps | with_reducible apply State.touch_keeps
    | with_reducible apply State.modExp_keeps | with_reducible apply State.dspSend_keeps
    | with_reducible apply Keeps.ite | with_reducible exact Keeps.refl _ _

def State.decide1_foot : Foot := Foot.join [foot [] [.DSP_DROP_CNT, .DSP_QUEUE_CNT, .DSP_OVF_FULL, .DSP_HOST_CNT],
  State.setRec_foot, State.modExp_foot, State.raise_foot, State.modLyr_foot]

theorem State.decide1_keeps (hs : Keeps F S s) (hF : Foot.Sub State.decide1_foot F) (p : Plane) (t j : Nat) :
    Keeps F S (State.decide1 s p t j) := by
  unfold State.decide1
  repeat' first
    | with_reducible assumption | (with_reducible refine Foot.Sub.up hF ?_; decide +kernel)
    | ((first | intro x | (lift_lets; intro x))
       first
         | (refine Keeps.cut x ?_ (fun hx => ?_); rotate_left; clear_value x; rotate_left; unfold x)
         | (refine Keeps.cutF x ?_ (fun hx => ?_); rotate_left; clear_value x; rotate_left; unfold x)
         | (refine Keeps.cutG x ?_ (fun hx => ?_); rotate_left; clear_value x; rotate_left; unfold x)
         | (refine Keeps.cutH x ?_ (fun hx => ?_); rotate_left; clear_value x; rotate_left; unfold x)
         | clear_value x
         | skip)
    | with_reducible apply State.count_keeps | with_reducible apply State.setRec_keeps
    | with_reducible apply State.modExp_keeps | with_reducible apply State.raise_keeps
    | with_reducible apply State.modLyr_keeps | with_reducible refine Keeps.appF ?_ (by assumption)
    | with_reducible refine Keeps.appG ?_ (by assumption) | with_reducible refine Keeps.appH ?_ (by assumption)
    | with_reducible apply Keeps.ite | split | with_reducible exact Keeps.refl _ _

def State.acceptFrag_foot : Foot := Foot.join [State.setRec_foot, State.sendExpert_foot, State.finishRec_foot]

theorem State.acceptFrag_keeps (hs : Keeps F S s) (hF : Foot.Sub State.acceptFrag_foot F) (p : Plane)
    (t f : Nat) (data : Bytes) :
    Keeps F S (State.acceptFrag s p t f data) := by
  unfold State.acceptFrag
  repeat' first
    | with_reducible assumption | (with_reducible refine Foot.Sub.up hF ?_; decide +kernel)
    | ((first | intro x | (lift_lets; intro x))
       first
         | (refine Keeps.cut x ?_ (fun hx => ?_); rotate_left; clear_value x; rotate_left; unfold x)
         | clear_value x
         | skip)
    | with_reducible apply State.each_keeps | with_reducible apply State.setRec_keeps
    | with_reducible apply State.sendExpert_keeps | with_reducible apply State.finishRec_keeps
    | with_reducible apply Keeps.ite | split | with_reducible exact Keeps.refl _ _

def State.sendQueued_foot : Foot := Foot.join [State.sendExpert_foot, State.setRec_foot]

theorem State.sendQueued_keeps (hs : Keeps F S s) (hF : Foot.Sub State.sendQueued_foot F) (p : Plane)
    (round t j : Nat) :
    Keeps F S (State.sendQueued s p round t j) := by
  unfold State.sendQueued
  repeat' first
    | with_reducible assumption | (with_reducible refine Foot.Sub.up hF ?_; decide +kernel)
    | ((first | intro x | (lift_lets; intro x))
       first
         | (refine Keeps.cut x ?_ (fun hx => ?_); rotate_left; clear_value x; rotate_left; unfold x)
         | clear_value x
         | skip)
    | with_reducible apply State.each_keeps | with_reducible apply State.sendExpert_keeps
    | with_reducible apply State.setRec_keeps | split | with_reducible exact Keeps.refl _ _

def State.dropQueued_foot : Foot := Foot.join [foot [] [.DSP_DROP_CNT], State.setRec_foot, State.finishRec_foot]

theorem State.dropQueued_keeps (hs : Keeps F S s) (hF : Foot.Sub State.dropQueued_foot F) (p : Plane)
    (t j : Nat) :
    Keeps F S (State.dropQueued s p t j) := by
  unfold State.dropQueued
  repeat' first
    | with_reducible assumption | (with_reducible refine Foot.Sub.up hF ?_; decide +kernel)
    | ((first | intro x | (lift_lets; intro x))
       first
         | (refine Keeps.cut x ?_ (fun hx => ?_); rotate_left; clear_value x; rotate_left; unfold x)
         | clear_value x
         | skip)
    | with_reducible apply State.count_keeps | with_reducible apply State.setRec_keeps
    | with_reducible apply State.finishRec_keeps | with_reducible apply Keeps.ite | split
    | with_reducible exact Keeps.refl _ _

def State.nextRound_foot : Foot := Foot.join [State.modExp_foot, State.sendQueued_foot, State.sendClose_foot,
  State.dropQueued_foot]

theorem State.nextRound_keeps (hs : Keeps F S s) (hF : Foot.Sub State.nextRound_foot F) (p : Plane) (l e : Nat) :
    Keeps F S (State.nextRound s p l e) := by
  unfold State.nextRound
  repeat' first
    | with_reducible assumption | (with_reducible refine Foot.Sub.up hF ?_; decide +kernel)
    | ((first | intro x | (lift_lets; intro x))
       first
         | (refine Keeps.cut x ?_ (fun hx => ?_); rotate_left; clear_value x; rotate_left; unfold x)
         | clear_value x
         | skip)
    | with_reducible apply State.each_keeps | with_reducible apply State.modExp_keeps
    | with_reducible apply State.sendQueued_keeps | with_reducible apply State.sendClose_keeps
    | with_reducible apply State.dropQueued_keeps | with_reducible apply Keeps.ite
    | with_reducible exact Keeps.refl _ _

def State.closeRound0_foot : Foot := Foot.join [State.modLyr_foot, State.sendClose_foot, State.dspSend_foot]

theorem State.closeRound0_keeps (hs : Keeps F S s) (hF : Foot.Sub State.closeRound0_foot F) (p : Plane)
    (l : Nat) :
    Keeps F S (State.closeRound0 s p l) := by
  unfold State.closeRound0
  repeat' first
    | with_reducible assumption | (with_reducible refine Foot.Sub.up hF ?_; decide +kernel)
    | ((first | intro x | (lift_lets; intro x))
       first
         | (refine Keeps.cut x ?_ (fun hx => ?_); rotate_left; clear_value x; rotate_left; unfold x)
         | clear_value x
         | skip)
    | with_reducible apply State.each_keeps | with_reducible apply State.modLyr_keeps
    | with_reducible apply State.sendClose_keeps | with_reducible apply State.dspSend_keeps
    | with_reducible apply Keeps.ite | with_reducible exact Keeps.refl _ _

def State.progress_foot : Foot := Foot.join [State.closeRound0_foot, State.nextRound_foot, State.closeEpoch_foot]

theorem State.progress_keeps (hs : Keeps F S s) (hF : Foot.Sub State.progress_foot F) (p : Plane) (l : Nat) :
    Keeps F S (State.progress s p l) := by
  unfold State.progress
  repeat' first
    | with_reducible assumption | (with_reducible refine Foot.Sub.up hF ?_; decide +kernel)
    | ((first | intro x | (lift_lets; intro x))
       first
         | (refine Keeps.cut x ?_ (fun hx => ?_); rotate_left; clear_value x; rotate_left; unfold x)
         | clear_value x
         | skip)
    | with_reducible apply State.each_keeps | with_reducible apply State.closeRound0_keeps
    | with_reducible apply State.nextRound_keeps | with_reducible apply State.closeEpoch_keeps
    | with_reducible exact Keeps.refl _ _

def State.purgeLayer_foot : Foot := Foot.join [foot [.swc] [], State.modEp_foot]

theorem State.purgeLayer_keeps (hs : Keeps F S s) (hF : Foot.Sub State.purgeLayer_foot F) (p : Plane) (l : Nat) :
    Keeps F S (State.purgeLayer s p l) := by
  unfold State.purgeLayer
  repeat' first
    | with_reducible assumption | (with_reducible refine Foot.Sub.up hF ?_; decide +kernel)
    | ((first | intro x | (lift_lets; intro x))
       first
         | (refine Keeps.cut x ?_ (fun hx => ?_); rotate_left; clear_value x; rotate_left; unfold x)
         | clear_value x
         | skip)
    | with_reducible apply State.modSwc_keeps | with_reducible apply State.modEp_keeps
    | with_reducible apply State.foldl_keeps | with_reducible apply State.foldl_snd
    | with_reducible apply State.foldl_snd2 | with_reducible exact Keeps.refl _ _

def State.emptyLayer_foot : Foot := Foot.join [foot [.dsp] [], State.modLyr_foot]

theorem State.emptyLayer_keeps (hs : Keeps F S s) (hF : Foot.Sub State.emptyLayer_foot F) (p : Plane) (l : Nat) :
    Keeps F S (State.emptyLayer s p l) := by
  unfold State.emptyLayer
  repeat' first
    | with_reducible assumption | (with_reducible refine Foot.Sub.up hF ?_; decide +kernel)
    | ((first | intro x | (lift_lets; intro x))
       first
         | (refine Keeps.cut x ?_ (fun hx => ?_); rotate_left; clear_value x; rotate_left; unfold x)
         | clear_value x
         | skip)
    | with_reducible apply State.modDsp_keeps | with_reducible apply State.modLyr_keeps
    | with_reducible exact Keeps.refl _ _

def State.dspAbort_foot : Foot := Foot.join [foot [] [.DSP_LYR_STAT], State.emptyLayer_foot, State.purgeLayer_foot,
  State.raise_foot, State.tokenRet_foot, State.dspSend_foot]

theorem State.dspAbort_keeps (hs : Keeps F S s) (hF : Foot.Sub State.dspAbort_foot F) (p : Plane) (l code : Nat) :
    Keeps F S (State.dspAbort s p l code) := by
  unfold State.dspAbort
  repeat' first
    | with_reducible assumption | (with_reducible refine Foot.Sub.up hF ?_; decide +kernel)
    | ((first | intro x | (lift_lets; intro x))
       first
         | (refine Keeps.cut x ?_ (fun hx => ?_); rotate_left; clear_value x; rotate_left; unfold x)
         | clear_value x
         | skip)
    | with_reducible apply State.setF_keeps | with_reducible apply State.each_keeps
    | with_reducible apply State.emptyLayer_keeps | with_reducible apply State.purgeLayer_keeps
    | with_reducible apply State.raise_keeps | with_reducible apply State.tokenRet_keeps
    | with_reducible apply State.dspSend_keeps | with_reducible apply Keeps.ite
    | with_reducible exact Keeps.refl _ _

def State.dspAbortAll_foot : Foot := State.dspAbort_foot

theorem State.dspAbortAll_keeps (hs : Keeps F S s) (hF : Foot.Sub State.dspAbortAll_foot F) (p : Plane)
    (code : Nat) :
    Keeps F S (State.dspAbortAll s p code) := by
  unfold State.dspAbortAll
  repeat' first
    | with_reducible assumption | (with_reducible refine Foot.Sub.up hF ?_; decide +kernel)
    | with_reducible apply State.each_keeps | with_reducible apply State.dspAbort_keeps | intro x
    | with_reducible apply Keeps.ite | with_reducible exact Keeps.refl _ _

def State.tokenNow_foot : Foot := Foot.join [foot [] [.DSP_REFUSE_CNT], State.tokenRet_foot, State.acceptFrag_foot,
  State.modLyr_foot, State.raise_foot, State.setRec_foot, State.decide1_foot]

theorem State.tokenNow_keeps (hs : Keeps F S s) (hF : Foot.Sub State.tokenNow_foot F) (p : Plane) (src : EpId)
    (h : DspHdr) (b : Bytes) :
    Keeps F S (State.tokenNow s p src h b) := by
  unfold State.tokenNow
  repeat' first
    | with_reducible assumption | (with_reducible refine Foot.Sub.up hF ?_; decide +kernel)
    | ((first | intro x | (lift_lets; intro x))
       first
         | (refine Keeps.cut x ?_ (fun hx => ?_); rotate_left; clear_value x; rotate_left; unfold x)
         | clear_value x
         | skip)
    | with_reducible apply State.count_keeps | with_reducible apply State.each_keeps
    | with_reducible apply State.tokenRet_keeps | with_reducible apply State.acceptFrag_keeps
    | with_reducible apply State.modLyr_keeps | with_reducible apply State.raise_keeps
    | with_reducible apply State.setRec_keeps | with_reducible apply State.decide1_keeps
    | with_reducible apply Keeps.ite | split | with_reducible exact Keeps.refl _ _

def State.tokenIn_foot : Foot := Foot.join [foot [] [.DSP_LYR_DISC, .DSP_ABORT_DISC, .DSP_STALE_DISC],
  State.tokenRet_foot, State.tokenNow_foot, State.modLyr_foot, State.progress_foot]

theorem State.tokenIn_keeps (hs : Keeps F S s) (hF : Foot.Sub State.tokenIn_foot F) (p : Plane) (k : Packet) :
    Keeps F S (State.tokenIn s p k) := by
  unfold State.tokenIn
  repeat' first
    | with_reducible assumption | (with_reducible refine Foot.Sub.up hF ?_; decide +kernel)
    | ((first | intro x | (lift_lets; intro x))
       first
         | (refine Keeps.cut x ?_ (fun hx => ?_); rotate_left; clear_value x; rotate_left; unfold x)
         | clear_value x
         | skip)
    | with_reducible apply State.count_keeps | with_reducible apply State.tokenRet_keeps
    | with_reducible apply State.tokenNow_keeps | with_reducible apply State.modLyr_keeps
    | with_reducible apply State.progress_keeps | with_reducible apply Keeps.ite | split
    | with_reducible exact Keeps.refl _ _

def State.tokenLost_foot : Foot := State.dspAbort_foot

theorem State.tokenLost_keeps (hs : Keeps F S s) (hF : Foot.Sub State.tokenLost_foot F) (p : Plane) (k : Packet) :
    Keeps F S (State.tokenLost s p k) := by
  unfold State.tokenLost
  repeat' first
    | with_reducible assumption | (with_reducible refine Foot.Sub.up hF ?_; decide +kernel)
    | with_reducible apply State.dspAbort_keeps | with_reducible apply Keeps.ite | split
    | with_reducible exact Keeps.refl _ _

def State.outAccepted_foot : Foot := Foot.join [State.modLyr_foot, State.setRec_foot, State.finishRec_foot,
  State.progress_foot]

theorem State.outAccepted_keeps (hs : Keeps F S s) (hF : Foot.Sub State.outAccepted_foot F) (p : Plane)
    (t : Nat) (r : TokRec) (h : DspHdr) (data : Bytes) :
    Keeps F S (State.outAccepted s p t r h data) := by
  unfold State.outAccepted
  repeat' first
    | with_reducible assumption | (with_reducible refine Foot.Sub.up hF ?_; decide +kernel)
    | ((first | intro x | (lift_lets; intro x))
       first
         | (refine Keeps.cut x ?_ (fun hx => ?_); rotate_left; clear_value x; rotate_left; unfold x)
         | clear_value x
         | skip)
    | with_reducible apply State.modLyr_keeps | with_reducible apply State.setRec_keeps
    | with_reducible apply State.finishRec_keeps | with_reducible apply State.progress_keeps
    | with_reducible apply Keeps.ite | with_reducible exact Keeps.refl _ _

def State.expertOutIn_foot : Foot := Foot.join [foot [] [.DSP_OUT_DISC, .DSP_ABORT_DISC], State.outAccepted_foot]

theorem State.expertOutIn_keeps (hs : Keeps F S s) (hF : Foot.Sub State.expertOutIn_foot F) (p : Plane)
    (k : Packet) :
    Keeps F S (State.expertOutIn s p k) := by
  unfold State.expertOutIn
  repeat' first
    | with_reducible assumption | (with_reducible refine Foot.Sub.up hF ?_; decide +kernel)
    | ((first | intro x | (lift_lets; intro x))
       first
         | (refine Keeps.cut x ?_ (fun hx => ?_); rotate_left; clear_value x; rotate_left; unfold x)
         | clear_value x
         | skip)
    | with_reducible apply State.count_keeps | with_reducible apply State.outAccepted_keeps
    | with_reducible apply Keeps.ite | split | with_reducible exact Keeps.refl _ _

def State.dspRej_foot : Foot := foot [] [.DSP_LYR_STAT]

theorem State.dspRej_keeps (hs : Keeps F S s) (hF : Foot.Sub State.dspRej_foot F) (p : Plane) (l code : Nat) :
    Keeps F S (State.dspRej s p l code) := by
  unfold State.dspRej
  repeat' first
    | with_reducible assumption | (with_reducible refine Foot.Sub.up hF ?_; decide +kernel)
    | with_reducible apply State.setF_keeps | with_reducible apply State.setFlag_keeps
    | with_reducible exact Keeps.refl _ _

def State.dspActivate_foot : Foot := Foot.join [foot [] [.DSP_REC_FREE, .COL_SLOT_FREE, .DSP_ACT_CNT,
  .DSP_LYR_STAT], State.dspRej_foot, State.setDeepFree_foot, State.modLyr_foot, State.openLayer_foot]

theorem State.dspActivate_keeps (hs : Keeps F S s) (hF : Foot.Sub State.dspActivate_foot F) (p : Plane)
    (l : Nat) :
    Keeps F S (State.dspActivate s p l) := by
  unfold State.dspActivate
  repeat' first
    | with_reducible assumption | (with_reducible refine Foot.Sub.up hF ?_; decide +kernel)
    | ((first | intro x | (lift_lets; intro x))
       first
         | (refine Keeps.cut x ?_ (fun hx => ?_); rotate_left; clear_value x; rotate_left; unfold x)
         | clear_value x
         | skip)
    | with_reducible apply State.setF_keeps | with_reducible apply State.dspRej_keeps
    | with_reducible apply State.subF_keeps | with_reducible apply State.setDeepFree_keeps
    | with_reducible apply State.addF_keeps | with_reducible apply State.modLyr_keeps
    | with_reducible apply State.openLayer_keeps | with_reducible apply Keeps.ite
    | with_reducible exact Keeps.refl _ _

def State.dspDeactivate_foot : Foot := Foot.join [foot [] [.DSP_ABORT_DISC, .DSP_REC_FREE, .DSP_ACT_CNT,
  .DSP_LYR_STAT], State.emptyLayer_foot, State.purgeLayer_foot, State.give_foot, State.modLyr_foot]

theorem State.dspDeactivate_keeps (hs : Keeps F S s) (hF : Foot.Sub State.dspDeactivate_foot F) (p : Plane)
    (l : Nat) :
    Keeps F S (State.dspDeactivate s p l) := by
  unfold State.dspDeactivate
  repeat' first
    | with_reducible assumption | (with_reducible refine Foot.Sub.up hF ?_; decide +kernel)
    | ((first | intro x | (lift_lets; intro x))
       first
         | (refine Keeps.cut x ?_ (fun hx => ?_); rotate_left; clear_value x; rotate_left; unfold x)
         | clear_value x
         | skip)
    | with_reducible apply State.countN_keeps | with_reducible apply State.setF_keeps
    | with_reducible apply State.emptyLayer_keeps | with_reducible apply State.purgeLayer_keeps
    | with_reducible apply State.addF_keeps | with_reducible apply State.give_keeps
    | with_reducible apply State.subF_keeps | with_reducible apply State.modLyr_keeps
    | with_reducible apply Keeps.ite | with_reducible exact Keeps.refl _ _

def State.dspReform_foot : Foot := Foot.join [foot [] [.DSP_LYR_STAT], State.openLayer_foot]

theorem State.dspReform_keeps (hs : Keeps F S s) (hF : Foot.Sub State.dspReform_foot F) (p : Plane) (l : Nat) :
    Keeps F S (State.dspReform s p l) := by
  unfold State.dspReform
  repeat' first
    | with_reducible assumption | (with_reducible refine Foot.Sub.up hF ?_; decide +kernel)
    | with_reducible apply State.setF_keeps | with_reducible apply State.openLayer_keeps
    | with_reducible apply Keeps.ite | with_reducible exact Keeps.refl _ _

def State.dspCtlWrite_foot : Foot := Foot.join [State.dspActivate_foot, State.dspDeactivate_foot,
  State.dspAbort_foot, State.dspReform_foot, State.dspRej_foot]

theorem State.dspCtlWrite_keeps (hs : Keeps F S s) (hF : Foot.Sub State.dspCtlWrite_foot F) (p : Plane)
    (l v : Nat) :
    Keeps F S (State.dspCtlWrite s p l v) := by
  unfold State.dspCtlWrite
  repeat' first
    | with_reducible assumption | (with_reducible refine Foot.Sub.up hF ?_; decide +kernel)
    | with_reducible apply State.dspActivate_keeps | with_reducible apply State.dspDeactivate_keeps
    | with_reducible apply State.dspAbort_keeps | with_reducible apply State.dspReform_keeps
    | with_reducible apply State.dspRej_keeps | split | with_reducible exact Keeps.refl _ _

def State.dspPerform_foot : Foot := Foot.join [State.tokenIn_foot, State.expertOutIn_foot]

theorem State.dspPerform_keeps (hs : Keeps F S s) (hF : Foot.Sub State.dspPerform_foot F) (p : Plane)
    (k : Packet) :
    Keeps F S (State.dspPerform s p k) := by
  unfold State.dspPerform
  repeat' first
    | with_reducible assumption | (with_reducible refine Foot.Sub.up hF ?_; decide +kernel)
    | with_reducible apply State.tokenIn_keeps | with_reducible apply State.expertOutIn_keeps
    | with_reducible apply Keeps.ite | with_reducible exact Keeps.refl _ _

def execLayerTimeout_foot : Foot := State.dspAbort_foot

theorem execLayerTimeout_keeps (hF : Foot.Sub execLayerTimeout_foot F) (p : Plane) (l : Fin 64) (s : State) :
    ∃ t', execLayerTimeout p l s = .next t' ∧ Keeps F s t' := by
  unfold execLayerTimeout
  refine ⟨_, rfl, ?_⟩
  repeat' first
    | with_reducible assumption | (with_reducible refine Foot.Sub.up hF ?_; decide +kernel)
    | with_reducible apply State.when_keeps | with_reducible apply State.dspAbort_keeps | intro x
    | with_reducible exact Keeps.refl _ _

def execLayerActivate_foot : Foot := State.dspCtlWrite_foot

theorem execLayerActivate_keeps (hF : Foot.Sub execLayerActivate_foot F) (p : Plane) (l : Fin 64) (s : State) :
    ∃ t', execLayerActivate p l s = .next t' ∧ Keeps F s t' := by
  unfold execLayerActivate
  refine ⟨_, rfl, ?_⟩
  repeat' first
    | with_reducible assumption | (with_reducible refine Foot.Sub.up hF ?_; decide +kernel)
    | with_reducible apply State.when_keeps | with_reducible apply State.dspCtlWrite_keeps | intro x
    | with_reducible exact Keeps.refl _ _

def execLayerDeactivate_foot : Foot := State.dspCtlWrite_foot

theorem execLayerDeactivate_keeps (hF : Foot.Sub execLayerDeactivate_foot F) (p : Plane) (l : Fin 64)
    (s : State) :
    ∃ t', execLayerDeactivate p l s = .next t' ∧ Keeps F s t' := by
  unfold execLayerDeactivate
  refine ⟨_, rfl, ?_⟩
  repeat' first
    | with_reducible assumption | (with_reducible refine Foot.Sub.up hF ?_; decide +kernel)
    | with_reducible apply State.when_keeps | with_reducible apply State.dspCtlWrite_keeps | intro x
    | with_reducible exact Keeps.refl _ _

def execLayerAbort_foot : Foot := State.dspCtlWrite_foot

theorem execLayerAbort_keeps (hF : Foot.Sub execLayerAbort_foot F) (p : Plane) (l : Fin 64) (s : State) :
    ∃ t', execLayerAbort p l s = .next t' ∧ Keeps F s t' := by
  unfold execLayerAbort
  refine ⟨_, rfl, ?_⟩
  repeat' first
    | with_reducible assumption | (with_reducible refine Foot.Sub.up hF ?_; decide +kernel)
    | with_reducible apply State.when_keeps | with_reducible apply State.dspCtlWrite_keeps | intro x
    | with_reducible exact Keeps.refl _ _

def execLayerReform_foot : Foot := State.dspCtlWrite_foot

theorem execLayerReform_keeps (hF : Foot.Sub execLayerReform_foot F) (p : Plane) (l : Fin 64) (s : State) :
    ∃ t', execLayerReform p l s = .next t' ∧ Keeps F s t' := by
  unfold execLayerReform
  refine ⟨_, rfl, ?_⟩
  repeat' first
    | with_reducible assumption | (with_reducible refine Foot.Sub.up hF ?_; decide +kernel)
    | with_reducible apply State.when_keeps | with_reducible apply State.dspCtlWrite_keeps | intro x
    | with_reducible exact Keeps.refl _ _

end Sys2Proof.Machine
end

