-- ==== Sys2Proof/Laws/KeepJournal.lean ====
section
/-! SUPPORT. `Keeps` of the definitions of Machine/Journal.lean, each with its footprint. -/

namespace Sys2Proof.Machine

set_option Elab.async false

variable {F : Foot} {S s : State}

def State.setRole_foot : Foot := foot [.can] [.CAN_STAT]

theorem State.setRole_keeps (hs : Keeps F S s) (hF : Foot.Sub State.setRole_foot F) (p : Plane) (r : Role) :
    Keeps F S (State.setRole s p r) := by
  unfold State.setRole
  repeat' first
    | with_reducible assumption | (with_reducible refine Foot.Sub.up hF ?_; decide +kernel)
    | with_reducible apply State.setF_keeps | with_reducible apply State.modCan_keeps | intro x
    | with_reducible exact Keeps.refl _ _

theorem State.pkgF_keeps (hs : Keeps F S s) (p : Plane) (f : Fld) (i v : Nat) (hf : Foot.Sub f.reg.foot F) :
    Keeps F S (State.pkgF s p f i v) := by
  unfold State.pkgF
  repeat' first
    | with_reducible assumption | with_reducible apply State.setF_keeps | with_reducible apply State.both_keeps
    | intro x | with_reducible apply Keeps.ite | with_reducible exact Keeps.refl _ _

theorem State.bothF_keeps (hs : Keeps F S s) (f : Fld) (v : Nat) (hf : Foot.Sub f.reg.foot F) :
    Keeps F S (State.bothF s f v) := by
  unfold State.bothF
  repeat' first
    | with_reducible assumption | with_reducible apply State.both_keeps | with_reducible apply State.setF_keeps
    | intro x | with_reducible exact Keeps.refl _ _

def State.journalAdd_foot : Foot := Foot.join [foot [.can] [], State.halControl_foot]

theorem State.journalAdd_keeps (hs : Keeps F S s) (hF : Foot.Sub State.journalAdd_foot F) (item key : Nat)
    (data : Bytes) :
    Keeps F S (State.journalAdd s item key data) := by
  unfold State.journalAdd
  repeat' first
    | with_reducible assumption | (with_reducible refine Foot.Sub.up hF ?_; decide +kernel)
    | ((first | intro x | (lift_lets; intro x))
       first
         | (refine Keeps.cut x ?_ (fun hx => ?_); rotate_left; clear_value x; rotate_left; unfold x)
         | clear_value x
         | skip)
    | with_reducible apply State.modCan_keeps | with_reducible apply State.halControl_keeps | split
    | with_reducible exact Keeps.refl _ _

def State.invSet_foot : Foot := Foot.join [foot [.pkg] [], State.journalAdd_foot]

theorem State.invSet_keeps (hs : Keeps F S s) (hF : Foot.Sub State.invSet_foot F) (key : Nat) (data : Bytes)
    (f : Inventory → Inventory) :
    Keeps F S (State.invSet s key data f) := by
  unfold State.invSet
  repeat' first
    | with_reducible assumption | (with_reducible refine Foot.Sub.up hF ?_; decide +kernel)
    | with_reducible apply State.modPkg_keeps | with_reducible apply State.journalAdd_keeps | intro x
    | with_reducible exact Keeps.refl _ _

def State.logRead1_foot : Foot := Foot.join [State.logRp_foot, State.journalAdd_foot]

theorem State.logRead1_keeps (hs : Keeps F S s) (hF : Foot.Sub State.logRead1_foot F) (p : Plane) :
    Keeps F S (State.logRead1 s p) := by
  unfold State.logRead1
  repeat' first
    | with_reducible assumption | (with_reducible refine Foot.Sub.up hF ?_; decide +kernel)
    | ((first | intro x | (lift_lets; intro x))
       first
         | (refine Keeps.cut x ?_ (fun hx => ?_); rotate_left; clear_value x; rotate_left; unfold x)
         | clear_value x
         | skip)
    | with_reducible apply State.logRp_keeps | with_reducible apply State.journalAdd_keeps
    | with_reducible exact Keeps.refl _ _

def State.logRead_foot : Foot := State.logRead1_foot

theorem State.logRead_keeps (hs : Keeps F S s) (hF : Foot.Sub State.logRead_foot F) (p : Plane) :
    Keeps F S (State.logRead s p) := by
  unfold State.logRead
  repeat' first
    | with_reducible assumption | (with_reducible refine Foot.Sub.up hF ?_; decide +kernel)
    | with_reducible apply State.each_keeps | with_reducible apply State.logRead1_keeps | intro x
    | with_reducible apply Keeps.ite | with_reducible exact Keeps.refl _ _

def State.sideHeard_foot : Foot := foot [.pkg] []

theorem State.sideHeard_keeps (hs : Keeps F S s) (hF : Foot.Sub State.sideHeard_foot F) (side : Sys2Proof.Side) :
    Keeps F S (State.sideHeard s side) := by
  unfold State.sideHeard
  repeat' first
    | with_reducible assumption | (with_reducible refine Foot.Sub.up hF ?_; decide +kernel)
    | ((first | intro x | (lift_lets; intro x))
       first
         | (refine Keeps.cut x ?_ (fun hx => ?_); rotate_left; clear_value x; rotate_left; unfold x)
         | clear_value x
         | skip)
    | with_reducible apply State.modPkg_keeps | split | with_reducible exact Keeps.refl _ _

def State.notifyNow_foot : Foot := foot [.out, .pkg] []

theorem State.notifyNow_keeps (hs : Keeps F S s) (hF : Foot.Sub State.notifyNow_foot F) (code : BitVec 16)
    (plane : Nat) (unit : Word) (args : List Word) :
    Keeps F S (State.notifyNow s code plane unit args) := by
  unfold State.notifyNow
  repeat' first
    | with_reducible assumption | (with_reducible refine Foot.Sub.up hF ?_; decide +kernel)
    | ((first | intro x | (lift_lets; intro x))
       first
         | (refine Keeps.cut x ?_ (fun hx => ?_); rotate_left; clear_value x; rotate_left; unfold x)
         | clear_value x
         | skip)
    | with_reducible apply State.emit_keeps | with_reducible apply State.modPkg_keeps
    | with_reducible exact Keeps.refl _ _

def State.sayNow_foot : Foot := Foot.join [State.raise_foot, State.notifyNow_foot]

theorem State.sayNow_keeps (hs : Keeps F S s) (hF : Foot.Sub State.sayNow_foot F) (evt : Bool)
    (code : BitVec 16) (plane : Nat) (unit : Word) (args : List Word) :
    Keeps F S (State.sayNow s evt code plane unit args) := by
  unfold State.sayNow
  repeat' first
    | with_reducible assumption | (with_reducible refine Foot.Sub.up hF ?_; decide +kernel)
    | ((first | intro x | (lift_lets; intro x))
       first
         | (refine Keeps.cut x ?_ (fun hx => ?_); rotate_left; clear_value x; rotate_left; unfold x)
         | clear_value x
         | skip)
    | with_reducible apply State.both_keeps | with_reducible apply State.raise_keeps
    | with_reducible apply State.notifyNow_keeps | with_reducible apply Keeps.ite
    | with_reducible exact Keeps.refl _ _

def State.hold_foot : Foot := foot [.pkg] []

theorem State.hold_keeps (hs : Keeps F S s) (hF : Foot.Sub State.hold_foot F) (p : Plane) (w : HeldWhat) :
    Keeps F S (State.hold s p w) := by
  unfold State.hold
  repeat' first
    | with_reducible assumption | (with_reducible refine Foot.Sub.up hF ?_; decide +kernel)
    | with_reducible apply State.modPkg_keeps | intro x | with_reducible exact Keeps.refl _ _

def State.sendHeld_foot : Foot := Foot.join [foot [.out] [], State.sayNow_foot]

theorem State.sendHeld_keeps (hs : Keeps F S s) (hF : Foot.Sub State.sendHeld_foot F) (w : HeldWhat) :
    Keeps F S (State.sendHeld s w) := by
  unfold State.sendHeld
  repeat' first
    | with_reducible assumption | (with_reducible refine Foot.Sub.up hF ?_; decide +kernel)
    | with_reducible apply State.emit_keeps | with_reducible apply State.sayNow_keeps | split
    | with_reducible exact Keeps.refl _ _

def State.sendOut_foot : Foot := Foot.join [foot [.out] [], State.hold_foot]

theorem State.sendOut_keeps (hs : Keeps F S s) (hF : Foot.Sub State.sendOut_foot F) (o : Out) :
    Keeps F S (State.sendOut s o) := by
  unfold State.sendOut
  repeat' first
    | with_reducible assumption | (with_reducible refine Foot.Sub.up hF ?_; decide +kernel)
    | with_reducible apply State.emit_keeps | with_reducible apply State.hold_keeps
    | with_reducible apply Keeps.ite | split | with_reducible exact Keeps.refl _ _

def State.say_foot : Foot := Foot.join [State.journalAdd_foot, State.hold_foot, State.sayNow_foot]

theorem State.say_keeps (hs : Keeps F S s) (hF : Foot.Sub State.say_foot F) (evt : Bool) (code : BitVec 16)
    (unit : Word) (args : List Word) :
    Keeps F S (State.say s evt code unit args) := by
  unfold State.say
  repeat' first
    | with_reducible assumption | (with_reducible refine Foot.Sub.up hF ?_; decide +kernel)
    | ((first | intro x | (lift_lets; intro x))
       first
         | (refine Keeps.cut x ?_ (fun hx => ?_); rotate_left; clear_value x; rotate_left; unfold x)
         | clear_value x
         | skip)
    | with_reducible apply State.journalAdd_keeps | with_reducible apply State.hold_keeps
    | with_reducible apply State.sayNow_keeps | with_reducible apply Keeps.ite | split
    | with_reducible exact Keeps.refl _ _

def State.cantonEvent_foot : Foot := State.say_foot

theorem State.cantonEvent_keeps (hs : Keeps F S s) (hF : Foot.Sub State.cantonEvent_foot F) (code : BitVec 16)
    (unit : Nat) (args : List Nat) :
    Keeps F S (State.cantonEvent s code unit args) := by
  unfold State.cantonEvent
  repeat' first
    | with_reducible assumption | (with_reducible refine Foot.Sub.up hF ?_; decide +kernel)
    | with_reducible apply State.say_keeps | with_reducible exact Keeps.refl _ _

def State.notify_foot : Foot := State.say_foot

theorem State.notify_keeps (hs : Keeps F S s) (hF : Foot.Sub State.notify_foot F) (code : BitVec 16)
    (unit : Nat) (args : List Nat) :
    Keeps F S (State.notify s code unit args) := by
  unfold State.notify
  repeat' first
    | with_reducible assumption | (with_reducible refine Foot.Sub.up hF ?_; decide +kernel)
    | with_reducible apply State.say_keeps | with_reducible exact Keeps.refl _ _

def State.hwEvent_foot : Foot := Foot.join [State.cantonEvent_foot, State.raise_foot]

theorem State.hwEvent_keeps (hs : Keeps F S s) (hF : Foot.Sub State.hwEvent_foot F) (code : BitVec 16)
    (unit : Nat) (args : List Nat) :
    Keeps F S (State.hwEvent s code unit args) := by
  unfold State.hwEvent
  repeat' first
    | with_reducible assumption | (with_reducible refine Foot.Sub.up hF ?_; decide +kernel)
    | with_reducible apply State.both_keeps | with_reducible apply State.cantonEvent_keeps
    | with_reducible apply State.raise_keeps | intro x | with_reducible apply Keeps.ite
    | with_reducible exact Keeps.refl _ _

def State.releaseHeld_foot : Foot := Foot.join [foot [.pkg] [], State.sendHeld_foot]

theorem State.releaseHeld_keeps (hs : Keeps F S s) (hF : Foot.Sub State.releaseHeld_foot F) (p : Plane) :
    Keeps F S (State.releaseHeld s p) := by
  unfold State.releaseHeld
  repeat' first
    | with_reducible assumption | (with_reducible refine Foot.Sub.up hF ?_; decide +kernel)
    | ((first | intro x | (lift_lets; intro x))
       first
         | (refine Keeps.cut x ?_ (fun hx => ?_); rotate_left; clear_value x; rotate_left; unfold x)
         | clear_value x
         | skip)
    | with_reducible apply State.modPkg_keeps | with_reducible apply State.each_keeps
    | with_reducible apply State.sendHeld_keeps | with_reducible apply Keeps.ite
    | with_reducible exact Keeps.refl _ _

end Sys2Proof.Machine
end

