-- ==== Sys2Proof/Laws/KeepMemUnits.lean ====
section
/-! SUPPORT. `Keeps` of the definitions of Machine/MemUnits.lean, each with its footprint. -/

namespace Sys2Proof.Machine

set_option Elab.async false

variable {F : Foot} {S s : State}

def State.coin_foot : Foot := foot [.free] []

theorem State.coin_keeps (hs : Keeps F S s) (hF : Foot.Sub State.coin_foot F) :
    Keeps F S (State.coin s).2 := by
  unfold State.coin
  repeat' first
    | with_reducible assumption | (with_reducible refine Foot.Sub.up hF ?_; decide +kernel)
    | ((first | intro x | (lift_lets; intro x))
       first
         | (refine Keeps.cut x ?_ (fun hx => ?_); rotate_left; clear_value x; rotate_left; unfold x)
         | clear_value x
         | skip)
    | with_reducible apply State.takeFree_keeps | with_reducible refine Keeps.snd ?_ (by assumption) | split
    | with_reducible exact Keeps.refl _ _

def State.abortOwners_foot : Foot := Foot.join [State.colAbort_foot, State.coin_foot, State.dspAbort_foot]

theorem State.abortOwners_keeps (hs : Keeps F S s) (hF : Foot.Sub State.abortOwners_foot F) (p : Plane)
    (grpSure grpMay : GrpSt → Bool) (lyrSure lyrMay : LyrSt → Bool) :
    Keeps F S (State.abortOwners s p grpSure grpMay lyrSure lyrMay) := by
  unfold State.abortOwners
  repeat' first
    | with_reducible assumption | (with_reducible refine Foot.Sub.up hF ?_; decide +kernel)
    | ((first | intro x | (lift_lets; intro x))
       first
         | (refine Keeps.cut x ?_ (fun hx => ?_); rotate_left; clear_value x; rotate_left; unfold x)
         | clear_value x
         | skip)
    | with_reducible apply State.each_keeps | with_reducible apply State.colAbort_keeps
    | with_reducible apply State.coin_keeps | with_reducible apply State.dspAbort_keeps
    | with_reducible apply Keeps.ite | with_reducible refine Keeps.snd ?_ (by assumption) | split
    | with_reducible exact Keeps.refl _ _

def State.queueError_foot : Foot := Foot.join [foot [.free] [], State.dspAbort_foot, State.tokenRet_foot]

theorem State.queueError_keeps (hs : Keeps F S s) (hF : Foot.Sub State.queueError_foot F) (p : Plane) (l : Nat) :
    Keeps F S (State.queueError s p l) := by
  unfold State.queueError
  repeat' first
    | with_reducible assumption | (with_reducible refine Foot.Sub.up hF ?_; decide +kernel)
    | ((first | intro x | (lift_lets; intro x))
       first
         | (refine Keeps.cut x ?_ (fun hx => ?_); rotate_left; clear_value x; rotate_left; unfold x)
         | clear_value x
         | skip)
    | with_reducible apply State.takeFree_keeps | with_reducible apply State.dspAbort_keeps
    | with_reducible apply State.tokenRet_keeps | with_reducible apply Keeps.ite
    | with_reducible refine Keeps.snd ?_ (by assumption) | split | with_reducible exact Keeps.refl _ _

def State.abortOwner_foot : Foot := Foot.join [foot [.free, .mem] [], State.colAbort_foot, State.queueError_foot,
  State.dspAbort_foot]

theorem State.abortOwner_keeps (hs : Keeps F S s) (hF : Foot.Sub State.abortOwner_foot F) (p : Plane)
    (region addr : Nat) :
    Keeps F S (State.abortOwner s p region addr) := by
  unfold State.abortOwner
  repeat' first
    | with_reducible assumption | (with_reducible refine Foot.Sub.up hF ?_; decide +kernel)
    | ((first | intro x | (lift_lets; intro x))
       first
         | (refine Keeps.cut x ?_ (fun hx => ?_); rotate_left; clear_value x; rotate_left; unfold x)
         | clear_value x
         | skip)
    | with_reducible apply State.takeFree_keeps | with_reducible apply State.modMem_keeps
    | with_reducible apply State.colAbort_keeps | with_reducible apply State.queueError_keeps
    | with_reducible apply State.dspAbort_keeps | with_reducible apply Keeps.ite
    | with_reducible refine Keeps.snd ?_ (by assumption) | split | with_reducible exact Keeps.refl _ _
    | exact ⟨rfl, rfl⟩

def State.tileFail_foot : Foot := Foot.join [foot [] [.MEM_TILE_STAT, .TOP_UNIT_STAT], State.abortOwners_foot,
  State.withdraw_foot, State.raise_foot, State.logError_foot]

theorem State.tileFail_keeps (hs : Keeps F S s) (hF : Foot.Sub State.tileFail_foot F) (p : Plane) (t : Nat) :
    Keeps F S (State.tileFail s p t) := by
  unfold State.tileFail
  repeat' first
    | with_reducible assumption | (with_reducible refine Foot.Sub.up hF ?_; decide +kernel)
    | ((first | intro x | (lift_lets; intro x))
       first
         | (refine Keeps.cut x ?_ (fun hx => ?_); rotate_left; clear_value x; rotate_left; unfold x)
         | clear_value x
         | skip)
    | with_reducible apply State.setFlag_keeps | with_reducible apply State.setF_keeps
    | with_reducible apply State.abortOwners_keeps | with_reducible apply State.withdraw_keeps
    | with_reducible apply State.raise_keeps | with_reducible apply State.logError_keeps
    | with_reducible apply Keeps.ite | with_reducible exact Keeps.refl _ _

def State.lpFail_foot : Foot := Foot.join [foot [] [.MEM_LP_DEV], State.abortOwners_foot, State.withdraw_foot,
  State.raise_foot, State.logError_foot]

theorem State.lpFail_keeps (hs : Keeps F S s) (hF : Foot.Sub State.lpFail_foot F) (p : Plane) (m : Nat) :
    Keeps F S (State.lpFail s p m) := by
  unfold State.lpFail
  repeat' first
    | with_reducible assumption | (with_reducible refine Foot.Sub.up hF ?_; decide +kernel)
    | ((first | intro x | (lift_lets; intro x))
       first
         | (refine Keeps.cut x ?_ (fun hx => ?_); rotate_left; clear_value x; rotate_left; unfold x)
         | clear_value x
         | skip)
    | with_reducible apply State.setFlag_keeps | with_reducible apply State.abortOwners_keeps
    | with_reducible apply State.withdraw_keeps | with_reducible apply State.raise_keeps
    | with_reducible apply State.logError_keeps | with_reducible apply Keeps.ite
    | with_reducible exact Keeps.refl _ _

def State.lpRow_foot : Foot := Foot.join [foot [.free, .loose] [.MEM_LP_DEV_ROW], State.invSet_foot]

theorem State.lpRow_keeps (hs : Keeps F S s) (hF : Foot.Sub State.lpRow_foot F) (p : Plane) (m o : Nat) :
    Keeps F S (State.lpRow s p m o) := by
  unfold State.lpRow
  repeat' first
    | with_reducible assumption | (with_reducible refine Foot.Sub.up hF ?_; decide +kernel)
    | ((first | intro x | (lift_lets; intro x))
       first
         | (refine Keeps.cut x ?_ (fun hx => ?_); rotate_left; clear_value x; rotate_left; unfold x)
         | clear_value x
         | skip)
    | with_reducible apply State.takeFree_keeps | with_reducible apply State.setF_keeps
    | with_reducible apply State.setFree_keeps | with_reducible apply State.invSet_keeps
    | with_reducible apply Keeps.ite | with_reducible refine Keeps.snd ?_ (by assumption) | split
    | with_reducible exact Keeps.refl _ _

def State.memUe_foot : Foot := Foot.join [foot [.mem] [.MEM_LP_UE, .MEM_SRAM_UE, .MEM_ERR_ADDR, .MEM_ERR_INFO],
  State.lpRow_foot, State.raise_foot, State.suppressError_foot, State.logError_foot, State.lpFail_foot,
  State.tileFail_foot]

theorem State.memUe_keeps (hs : Keeps F S s) (hF : Foot.Sub State.memUe_foot F) (p : Plane)
    (region unit addr : Nat) (scrub : Bool) :
    Keeps F S (State.memUe s p region unit addr scrub) := by
  unfold State.memUe
  repeat' first
    | with_reducible assumption | (with_reducible refine Foot.Sub.up hF ?_; decide +kernel)
    | ((first | intro x | (lift_lets; intro x))
       first
         | (refine Keeps.cut x ?_ (fun hx => ?_); rotate_left; clear_value x; rotate_left; unfold x)
         | clear_value x
         | skip)
    | with_reducible apply State.count_keeps | with_reducible apply State.setF_keeps
    | with_reducible apply State.setFlag_keeps | with_reducible apply State.modMem_keeps
    | with_reducible apply State.lpRow_keeps | with_reducible apply State.raise_keeps
    | with_reducible apply State.suppressError_keeps | with_reducible apply State.logError_keeps
    | with_reducible apply State.lpFail_keeps | with_reducible apply State.tileFail_keeps
    | with_reducible apply Keeps.ite | with_reducible exact Keeps.refl _ _ | exact ⟨rfl, rfl⟩

def State.memCe_foot : Foot := foot [.mem] [.MEM_LP_CE, .MEM_TILE_CE, .MEM_SRAM_CE]

theorem State.memCe_keeps (hs : Keeps F S s) (hF : Foot.Sub State.memCe_foot F) (p : Plane) (lp : Bool)
    (unit : Nat) (col : Option Nat) :
    Keeps F S (State.memCe s p lp unit col) := by
  unfold State.memCe
  repeat' first
    | with_reducible assumption | (with_reducible refine Foot.Sub.up hF ?_; decide +kernel)
    | ((first | intro x | (lift_lets; intro x))
       first
         | (refine Keeps.cut x ?_ (fun hx => ?_); rotate_left; clear_value x; rotate_left; unfold x)
         | clear_value x
         | skip)
    | with_reducible apply State.count_keeps | with_reducible apply State.modMem_keeps
    | with_reducible apply Keeps.ite | split | with_reducible exact Keeps.refl _ _ | exact ⟨rfl, rfl⟩

def State.setPoison_foot : Foot := foot [.mem] []

theorem State.setPoison_keeps (hs : Keeps F S s) (hF : Foot.Sub State.setPoison_foot F) (p : Plane) (lp : Bool)
    (k : Nat) : Keeps F S (State.setPoison s p lp k) := by
  unfold State.setPoison
  split
  · exact hs
  · exact State.modMem_keeps hs hF p _ (fun x => by split <;> exact ⟨rfl, rfl⟩)

def State.poolUe_foot : Foot := Foot.join [State.setPoison_foot, State.memUe_foot]

theorem State.poolUe_keeps (hs : Keeps F S s) (hF : Foot.Sub State.poolUe_foot F) (p : Plane) (lp : Bool)
    (o : Nat) (scrub : Bool) :
    Keeps F S (State.poolUe s p lp o scrub) := by
  unfold State.poolUe
  repeat' first
    | with_reducible assumption | (with_reducible refine Foot.Sub.up hF ?_; decide +kernel)
    | ((first | intro x | (lift_lets; intro x))
       first
         | (refine Keeps.cut x ?_ (fun hx => ?_); rotate_left; clear_value x; rotate_left; unfold x)
         | clear_value x
         | skip)
    | with_reducible apply State.setPoison_keeps | with_reducible apply State.memUe_keeps
    | with_reducible apply Keeps.ite | with_reducible exact Keeps.refl _ _

def State.lpSettle_foot : Foot := foot [.mem, .pools] [.MEM_STAT, .MEM_LP_POOL, .COL_SPILL_FREE]

theorem State.lpSettle_keeps (hs : Keeps F S s) (hF : Foot.Sub State.lpSettle_foot F) (p : Plane) :
    Keeps F S (State.lpSettle s p) := by
  unfold State.lpSettle
  repeat' first
    | with_reducible assumption | (with_reducible refine Foot.Sub.up hF ?_; decide +kernel)
    | ((first | intro x | (lift_lets; intro x))
       first
         | (refine Keeps.cut x ?_ (fun hx => ?_); rotate_left; clear_value x; rotate_left; unfold x)
         | clear_value x
         | skip)
    | with_reducible apply State.setFlag_keeps | with_reducible apply State.setF_keeps
    | with_reducible apply State.modMem_pools | with_reducible apply Keeps.ite
    | with_reducible exact Keeps.refl _ _ | exact ⟨fun _ => rfl, fun h => h⟩ | exact ⟨fun h => h, fun _ => rfl⟩
    | exact ⟨fun _ => rfl, fun _ => rfl⟩ | exact ⟨fun h => wf_filter _ _ _ h, fun h => h⟩ | exact ⟨rfl, rfl⟩

def State.memCommitted_foot : Foot := Foot.join [foot [.mem] [.MEM_STAT, .MEM_SRAM_POOL, .MEM_LP_DEV],
  State.setDeepFree_foot, State.lpSettle_foot]

theorem State.memCommitted_keeps (hs : Keeps F S s) (hF : Foot.Sub State.memCommitted_foot F) (p : Plane)
    (old : RegFile) :
    Keeps F S (State.memCommitted s p old) := by
  unfold State.memCommitted
  repeat' first
    | with_reducible assumption | (with_reducible refine Foot.Sub.up hF ?_; decide +kernel)
    | ((first | intro x | (lift_lets; intro x))
       first
         | (refine Keeps.cut x ?_ (fun hx => ?_); rotate_left; clear_value x; rotate_left; unfold x)
         | clear_value x
         | skip)
    | with_reducible apply State.setFlag_keeps | with_reducible apply State.setF_keeps
    | with_reducible apply State.modMem_keeps | with_reducible apply State.each_keeps
    | with_reducible apply State.setDeepFree_keeps | with_reducible apply State.lpSettle_keeps
    | with_reducible apply Keeps.ite | split | with_reducible exact Keeps.refl _ _ | exact ⟨rfl, rfl⟩

def execScrubTick_foot : Foot := Foot.join [State.memCe_foot, State.poolUe_foot, State.abortOwner_foot,
  State.memUe_foot]

theorem execScrubTick_keeps (hF : Foot.Sub execScrubTick_foot F) (p : Plane) (lp : Bool) (unit : Fin 16)
    (addr : BitVec 40) (sub col : Byte) (err : BitVec 2) (s : State) :
    ∃ t', execScrubTick p lp unit addr sub col err s = .next t' ∧ Keeps F s t' := by
  unfold execScrubTick
  refine ⟨_, rfl, ?_⟩
  repeat' first
    | with_reducible assumption | (with_reducible refine Foot.Sub.up hF ?_; decide +kernel)
    | ((first | intro x | (lift_lets; intro x))
       first
         | (refine Keeps.cut x ?_ (fun hx => ?_); rotate_left; clear_value x; rotate_left; unfold x)
         | clear_value x
         | skip)
    | with_reducible apply State.when_keeps | with_reducible apply State.memCe_keeps
    | with_reducible apply State.poolUe_keeps | with_reducible apply State.abortOwner_keeps
    | with_reducible apply State.memUe_keeps | with_reducible apply Keeps.ite
    | with_reducible refine Keeps.snd ?_ (by assumption) | split | with_reducible exact Keeps.refl _ _

def execColumnRepairDone_foot : Foot := Foot.join [foot [.mem] [.MEM_REPAIR_CNT, .MEM_TILE_STAT],
  State.invSet_foot, State.raise_foot]

theorem execColumnRepairDone_keeps (hF : Foot.Sub execColumnRepairDone_foot F) (p : Plane) (t : Fin 16)
    (sub col : Byte) (s : State) :
    ∃ t', execColumnRepairDone p t sub col s = .next t' ∧ Keeps F s t' := by
  unfold execColumnRepairDone
  refine ⟨_, rfl, ?_⟩
  repeat' first
    | with_reducible assumption | (with_reducible refine Foot.Sub.up hF ?_; decide +kernel)
    | ((first | intro x | (lift_lets; intro x))
       first
         | (refine Keeps.cut x ?_ (fun hx => ?_); rotate_left; clear_value x; rotate_left; unfold x)
         | clear_value x
         | skip)
    | with_reducible apply State.when_keeps | with_reducible apply State.modMem_keeps
    | with_reducible apply State.count_keeps | with_reducible apply State.setF_keeps
    | with_reducible apply State.invSet_keeps | with_reducible apply State.raise_keeps
    | with_reducible apply Keeps.ite | with_reducible exact Keeps.refl _ _ | exact ⟨rfl, rfl⟩

def execTileFail_foot : Foot := State.tileFail_foot

theorem execTileFail_keeps (hF : Foot.Sub execTileFail_foot F) (p : Plane) (t : Fin 16) (s : State) :
    ∃ t', execTileFail p t s = .next t' ∧ Keeps F s t' := by
  unfold execTileFail
  refine ⟨_, rfl, ?_⟩
  repeat' first
    | with_reducible assumption | (with_reducible refine Foot.Sub.up hF ?_; decide +kernel)
    | with_reducible apply State.when_keeps | with_reducible apply State.tileFail_keeps | intro x
    | with_reducible exact Keeps.refl _ _

def execLpDeviceFail_foot : Foot := State.lpFail_foot

theorem execLpDeviceFail_keeps (hF : Foot.Sub execLpDeviceFail_foot F) (p : Plane) (m : Fin 16) (s : State) :
    ∃ t', execLpDeviceFail p m s = .next t' ∧ Keeps F s t' := by
  unfold execLpDeviceFail
  refine ⟨_, rfl, ?_⟩
  repeat' first
    | with_reducible assumption | (with_reducible refine Foot.Sub.up hF ?_; decide +kernel)
    | with_reducible apply State.when_keeps | with_reducible apply State.lpFail_keeps | intro x
    | with_reducible exact Keeps.refl _ _

def execSramZeroDone_foot : Foot := foot [.mem, .pools] [.MEM_STAT]

theorem execSramZeroDone_keeps (hF : Foot.Sub execSramZeroDone_foot F) (p : Plane) (s : State) :
    ∃ t', execSramZeroDone p s = .next t' ∧ Keeps F s t' := by
  unfold execSramZeroDone
  refine ⟨_, rfl, ?_⟩
  repeat' first
    | with_reducible assumption | (with_reducible refine Foot.Sub.up hF ?_; decide +kernel)
    | with_reducible apply State.when_keeps | with_reducible apply State.setFlag_keeps
    | with_reducible apply State.modMem_pools | intro x | with_reducible exact Keeps.refl _ _
    | exact ⟨fun _ => rfl, fun h => h⟩ | exact ⟨fun h => h, fun _ => rfl⟩ | exact ⟨fun _ => rfl, fun _ => rfl⟩
    | exact ⟨fun h => wf_filter _ _ _ h, fun h => h⟩ | exact ⟨rfl, rfl⟩

def State.lpIdentify_foot : Foot := Foot.join [foot [.free] [], State.invSet_foot]

theorem State.lpIdentify_keeps (hs : Keeps F S s) (hF : Foot.Sub State.lpIdentify_foot F) (p : Plane) (m : Nat) :
    Keeps F S (State.lpIdentify s p m) := by
  unfold State.lpIdentify
  repeat' first
    | with_reducible assumption | (with_reducible refine Foot.Sub.up hF ?_; decide +kernel)
    | ((first | intro x | (lift_lets; intro x))
       first
         | (refine Keeps.cut x ?_ (fun hx => ?_); rotate_left; clear_value x; rotate_left; unfold x)
         | clear_value x
         | skip)
    | with_reducible apply State.takeFree_keeps | with_reducible apply State.invSet_keeps
    | with_reducible apply Keeps.ite | with_reducible refine Keeps.snd ?_ (by assumption) | split
    | with_reducible exact Keeps.refl _ _

def execLpInitDone_foot : Foot := Foot.join [foot [.mem] [.MEM_PPR_CTL, .MEM_LP_DEV], State.lpIdentify_foot,
  State.lpFail_foot, State.lpSettle_foot]

theorem execLpInitDone_keeps (hF : Foot.Sub execLpInitDone_foot F) (p : Plane) (m : Fin 16) (ok : Bool)
    (bad : BitVec 8) (s : State) :
    ∃ t', execLpInitDone p m ok bad s = .next t' ∧ Keeps F s t' := by
  unfold execLpInitDone
  refine ⟨_, rfl, ?_⟩
  repeat' first
    | with_reducible assumption | (with_reducible refine Foot.Sub.up hF ?_; decide +kernel)
    | ((first | intro x | (lift_lets; intro x))
       first
         | (refine Keeps.cut x ?_ (fun hx => ?_); rotate_left; clear_value x; rotate_left; unfold x)
         | clear_value x
         | skip)
    | with_reducible apply State.when_keeps | with_reducible apply State.modMem_keeps
    | with_reducible apply State.setFlag_keeps | with_reducible apply State.setF_keeps
    | with_reducible apply State.lpIdentify_keeps | with_reducible apply State.lpFail_keeps
    | with_reducible apply State.lpSettle_keeps | with_reducible apply Keeps.ite
    | with_reducible exact Keeps.refl _ _ | exact ⟨rfl, rfl⟩

def execLpZeroDone_foot : Foot := foot [.mem, .pools] [.MEM_STAT]

theorem execLpZeroDone_keeps (hF : Foot.Sub execLpZeroDone_foot F) (p : Plane) (s : State) :
    ∃ t', execLpZeroDone p s = .next t' ∧ Keeps F s t' := by
  unfold execLpZeroDone
  refine ⟨_, rfl, ?_⟩
  repeat' first
    | with_reducible assumption | (with_reducible refine Foot.Sub.up hF ?_; decide +kernel)
    | with_reducible apply State.when_keeps | with_reducible apply State.setFlag_keeps
    | with_reducible apply State.modMem_pools | intro x | with_reducible exact Keeps.refl _ _
    | exact ⟨fun _ => rfl, fun h => h⟩ | exact ⟨fun h => h, fun _ => rfl⟩ | exact ⟨fun _ => rfl, fun _ => rfl⟩
    | exact ⟨fun h => wf_filter _ _ _ h, fun h => h⟩ | exact ⟨rfl, rfl⟩

def State.pprStart_foot : Foot := foot [.mem] [.MEM_PPR_CTL]

theorem State.pprStart_keeps (hs : Keeps F S s) (hF : Foot.Sub State.pprStart_foot F) (p : Plane) (m : Nat) :
    Keeps F S (State.pprStart s p m) := by
  unfold State.pprStart
  repeat' first
    | with_reducible assumption | (with_reducible refine Foot.Sub.up hF ?_; decide +kernel)
    | ((first | intro x | (lift_lets; intro x))
       first
         | (refine Keeps.cut x ?_ (fun hx => ?_); rotate_left; clear_value x; rotate_left; unfold x)
         | clear_value x
         | skip)
    | with_reducible apply State.setF_keeps | with_reducible apply State.setFlag_keeps
    | with_reducible apply State.modMem_keeps | with_reducible apply Keeps.ite
    | with_reducible exact Keeps.refl _ _ | exact ⟨rfl, rfl⟩

def execPprStart_foot : Foot := State.pprStart_foot

theorem execPprStart_keeps (hF : Foot.Sub execPprStart_foot F) (p : Plane) (m : Fin 16) (s : State) :
    ∃ t', execPprStart p m s = .next t' ∧ Keeps F s t' := by
  unfold execPprStart
  refine ⟨_, rfl, ?_⟩
  repeat' first
    | with_reducible assumption | (with_reducible refine Foot.Sub.up hF ?_; decide +kernel)
    | with_reducible apply State.when_keeps | with_reducible apply State.pprStart_keeps | intro x
    | with_reducible exact Keeps.refl _ _

end Sys2Proof.Machine
end

