-- ==== Sys2Proof/Laws/KeepEngines.lean ====
section
/-! SUPPORT. `Keeps` of the definitions of Machine/Engines.lean, each with its footprint. -/

namespace Sys2Proof.Machine

set_option Elab.async false

variable {F : Foot} {S s : State}

def State.engineHit_foot : Foot := Foot.join [foot [.free] [.MEM_LINK_CE, .MEM_LINK_UE], State.memUe_foot,
  State.memCe_foot]

theorem State.engineHit_keeps (hs : Keeps F S s) (hF : Foot.Sub State.engineHit_foot F) (p : Plane)
    (abort : State → State) (e : EccHit) (habort : ∀ s, Keeps F s (abort s)) :
    Keeps F S (State.engineHit s p abort e) := by
  unfold State.engineHit
  repeat' first
    | with_reducible assumption | (with_reducible refine Foot.Sub.up hF ?_; decide +kernel)
    | ((first | intro x | (lift_lets; intro x))
       first
         | (refine Keeps.cut x ?_ (fun hx => ?_); rotate_left; clear_value x; rotate_left; unfold x)
         | (refine Keeps.cutF x ?_ (fun hx => ?_); rotate_left; clear_value x; rotate_left; unfold x)
         | (refine Keeps.cutG x ?_ (fun hx => ?_); rotate_left; clear_value x; rotate_left; unfold x)
         | (refine Keeps.cutH x ?_ (fun hx => ?_); rotate_left; clear_value x; rotate_left; unfold x)
         | clear_value x
         | skip)
    | with_reducible apply State.takeFree_keeps | with_reducible apply State.count_keeps
    | with_reducible apply State.memUe_keeps | with_reducible apply State.memCe_keeps
    | with_reducible refine Keeps.trans ?_ (habort ..) | with_reducible refine Keeps.appF ?_ (by assumption)
    | with_reducible refine Keeps.appG ?_ (by assumption) | with_reducible refine Keeps.appH ?_ (by assumption)
    | with_reducible apply Keeps.ite | with_reducible refine Keeps.snd ?_ (by assumption) | split
    | with_reducible exact Keeps.refl _ _

def State.groupHits_foot : Foot := Foot.join [State.engineHit_foot, State.colAbort_foot]

theorem State.groupHits_keeps (hs : Keeps F S s) (hF : Foot.Sub State.groupHits_foot F) (p : Plane) (k : Packet)
    (ecc : List EccHit) :
    Keeps F S (State.groupHits s p k ecc) := by
  unfold State.groupHits
  repeat' first
    | with_reducible assumption | (with_reducible refine Foot.Sub.up hF ?_; decide +kernel)
    | with_reducible apply State.each_keeps | with_reducible apply State.engineHit_keeps
    | with_reducible apply State.colAbort_keeps | intro x | with_reducible apply Keeps.ite | split
    | with_reducible exact Keeps.refl _ _

def State.layerHits_foot : Foot := Foot.join [State.engineHit_foot, State.queueError_foot, State.dspAbort_foot]

theorem State.layerHits_keeps (hs : Keeps F S s) (hF : Foot.Sub State.layerHits_foot F) (p : Plane) (k : Packet)
    (ecc : List EccHit) :
    Keeps F S (State.layerHits s p k ecc) := by
  unfold State.layerHits
  repeat' first
    | with_reducible assumption | (with_reducible refine Foot.Sub.up hF ?_; decide +kernel)
    | with_reducible apply State.each_keeps | with_reducible apply State.engineHit_keeps
    | with_reducible apply State.queueError_keeps | with_reducible apply State.dspAbort_keeps | intro x
    | with_reducible apply Keeps.ite | split | with_reducible exact Keeps.refl _ _

def State.colServe_foot : Foot := Foot.join [State.colPerform_foot, State.groupHits_foot]

theorem State.colServe_keeps (hs : Keeps F S s) (hF : Foot.Sub State.colServe_foot F) (p : Plane) (k : Packet)
    (ecc : List EccHit) :
    Keeps F S (State.colServe s p k ecc) := by
  unfold State.colServe
  repeat' first
    | with_reducible assumption | (with_reducible refine Foot.Sub.up hF ?_; decide +kernel)
    | with_reducible apply State.colPerform_keeps | with_reducible apply State.groupHits_keeps
    | with_reducible exact Keeps.refl _ _

def State.dspServe_foot : Foot := Foot.join [State.dspPerform_foot, State.layerHits_foot]

theorem State.dspServe_keeps (hs : Keeps F S s) (hF : Foot.Sub State.dspServe_foot F) (p : Plane) (k : Packet)
    (ecc : List EccHit) :
    Keeps F S (State.dspServe s p k ecc) := by
  unfold State.dspServe
  repeat' first
    | with_reducible assumption | (with_reducible refine Foot.Sub.up hF ?_; decide +kernel)
    | with_reducible apply State.dspPerform_keeps | with_reducible apply State.layerHits_keeps
    | with_reducible exact Keeps.refl _ _

def execContrib_foot : Foot := Foot.join [State.dstCrc_foot, State.colServe_foot]

theorem execContrib_keeps (hF : Foot.Sub execContrib_foot F) (p : Plane) (pkt : Packet) (ecc : List EccHit)
    (s : State) :
    ∃ t', execContrib p pkt ecc s = .next t' ∧ Keeps F s t' := by
  unfold execContrib
  refine ⟨_, rfl, ?_⟩
  repeat' first
    | with_reducible assumption | (with_reducible refine Foot.Sub.up hF ?_; decide +kernel)
    | with_reducible apply State.when_keeps | with_reducible apply State.dstCrc_keeps
    | with_reducible apply State.colServe_keeps | intro x | with_reducible exact Keeps.refl _ _

def execPartialIn_foot : Foot := Foot.join [State.dstCrc_foot, State.colServe_foot]

theorem execPartialIn_keeps (hF : Foot.Sub execPartialIn_foot F) (p : Plane) (pkt : Packet) (ecc : List EccHit)
    (s : State) :
    ∃ t', execPartialIn p pkt ecc s = .next t' ∧ Keeps F s t' := by
  unfold execPartialIn
  refine ⟨_, rfl, ?_⟩
  repeat' first
    | with_reducible assumption | (with_reducible refine Foot.Sub.up hF ?_; decide +kernel)
    | with_reducible apply State.when_keeps | with_reducible apply State.dstCrc_keeps
    | with_reducible apply State.colServe_keeps | intro x | with_reducible exact Keeps.refl _ _

def execToken_foot : Foot := Foot.join [State.dstCrc_foot, State.tokenIn_foot, State.layerHits_foot]

theorem execToken_keeps (hF : Foot.Sub execToken_foot F) (p : Plane) (pkt : Packet) (ecc : List EccHit)
    (s : State) :
    ∃ t', execToken p pkt ecc s = .next t' ∧ Keeps F s t' := by
  unfold execToken
  refine ⟨_, rfl, ?_⟩
  repeat' first
    | with_reducible assumption | (with_reducible refine Foot.Sub.up hF ?_; decide +kernel)
    | with_reducible apply State.when_keeps | with_reducible apply State.dstCrc_keeps
    | with_reducible apply State.tokenIn_keeps | with_reducible apply State.layerHits_keeps | intro x
    | with_reducible exact Keeps.refl _ _

def execExpertOut_foot : Foot := Foot.join [State.dstCrc_foot, State.expertOutIn_foot, State.layerHits_foot]

theorem execExpertOut_keeps (hF : Foot.Sub execExpertOut_foot F) (p : Plane) (pkt : Packet) (ecc : List EccHit)
    (s : State) :
    ∃ t', execExpertOut p pkt ecc s = .next t' ∧ Keeps F s t' := by
  unfold execExpertOut
  refine ⟨_, rfl, ?_⟩
  repeat' first
    | with_reducible assumption | (with_reducible refine Foot.Sub.up hF ?_; decide +kernel)
    | with_reducible apply State.when_keeps | with_reducible apply State.dstCrc_keeps
    | with_reducible apply State.expertOutIn_keeps | with_reducible apply State.layerHits_keeps | intro x
    | with_reducible exact Keeps.refl _ _

end Sys2Proof.Machine
end

