-- ==== Sys2Proof/Laws/KeepGwm.lean ====
section
/-! SUPPORT. `Keeps` of the definitions of Machine/Gwm.lean, each with its footprint. -/

namespace Sys2Proof.Machine

set_option Elab.async false

variable {F : Foot} {S s : State}

def State.poolWrite_foot : Foot := foot [.mem, .pools] []

theorem State.poolWrite_keeps (hs : Keeps F S s) (hF : Foot.Sub State.poolWrite_foot F) (p : Plane) (x : Place)
    (b : Bytes) : Keeps F S (State.poolWrite s p x b) := by
  unfold State.poolWrite
  refine State.modMem_pools hs hF p _ (fun m => ?_)
  split
  · exact ⟨fun h => h, fun h => Memory.write_wf _ _ _ h⟩
  · exact ⟨fun h => Memory.write_wf _ _ _ h, fun h => h⟩

def State.eccHit_foot : Foot := Foot.join [foot [] [.MEM_LINK_CE, .MEM_LINK_UE], State.memCe_foot,
  State.poolUe_foot]

theorem State.eccHit_keeps (hs : Keeps F S s) (hF : Foot.Sub State.eccHit_foot F) (p : Plane) (x : Place)
    (n : Nat) (store : Bool) (e : EccHit) :
    Keeps F S (State.eccHit s p x n store e).2 := by
  unfold State.eccHit
  repeat' first
    | with_reducible assumption | (with_reducible refine Foot.Sub.up hF ?_; decide +kernel)
    | ((first | intro x | (lift_lets; intro x))
       first
         | (refine Keeps.cut x ?_ (fun hx => ?_); rotate_left; clear_value x; rotate_left; unfold x)
         | clear_value x
         | skip)
    | with_reducible apply State.count_keeps | with_reducible apply State.memCe_keeps
    | with_reducible apply State.poolUe_keeps | with_reducible apply Keeps.ite | with_reducible apply Keeps.ite_snd
    | split | with_reducible exact Keeps.refl _ _

def State.eccRead_foot : Foot := State.eccHit_foot

theorem State.eccRead_keeps (hs : Keeps F S s) (hF : Foot.Sub State.eccRead_foot F) (p : Plane) (x : Place)
    (n : Nat) (store : Bool) (ecc : List EccHit) :
    Keeps F S (State.eccRead s p x n store ecc).2 := by
  unfold State.eccRead
  refine State.foldl_snd hs _ _ (fun x e => ?_)
  dsimp only
  repeat' first
    | with_reducible assumption | (with_reducible refine Foot.Sub.up hF ?_; decide +kernel)
    | ((first | intro x | (lift_lets; intro x))
       first
         | (refine Keeps.cut x ?_ (fun hx => ?_); rotate_left; clear_value x; rotate_left; unfold x)
         | clear_value x
         | skip)
    | with_reducible apply State.eccHit_keeps | with_reducible apply State.foldl_keeps
    | with_reducible apply State.foldl_snd | with_reducible apply State.foldl_snd2
    | with_reducible exact Keeps.refl _ _

def State.memLocal_foot : Foot := Foot.join [foot [] [.GWM_MEMERR_CNT, .GWM_OPS_CNT, .GWM_SAT_CNT],
  State.eccRead_foot, State.poolWrite_foot]

theorem State.memLocal_keeps (hs : Keeps F S s) (hF : Foot.Sub State.memLocal_foot F) (p : Plane) (op : Byte)
    (b : Bytes) (x : Place) (ecc : List EccHit) :
    Keeps F S (State.memLocal s p op b x ecc).2.2 := by
  unfold State.memLocal
  repeat' first
    | with_reducible assumption | (with_reducible refine Foot.Sub.up hF ?_; decide +kernel)
    | ((first | intro x | (lift_lets; intro x))
       first
         | (refine Keeps.cut x ?_ (fun hx => ?_); rotate_left; clear_value x; rotate_left; unfold x)
         | clear_value x
         | skip)
    | with_reducible apply State.count_keeps | with_reducible apply State.countN_keeps
    | with_reducible apply State.eccRead_keeps | with_reducible apply State.poolWrite_keeps
    | with_reducible apply Keeps.ite | with_reducible apply Keeps.ite_snd
    | with_reducible refine Keeps.snd ?_ (by assumption) | split | with_reducible exact Keeps.refl _ _

def State.setProxy_foot : Foot := foot [.mem] [.GWM_FWD_USED]

theorem State.setProxy_keeps (hs : Keeps F S s) (hF : Foot.Sub State.setProxy_foot F) (p : Plane) (id : Nat)
    (x : Option Proxy) :
    Keeps F S (State.setProxy s p id x) := by
  unfold State.setProxy
  repeat' first
    | with_reducible assumption | (with_reducible refine Foot.Sub.up hF ?_; decide +kernel)
    | ((first | intro x | (lift_lets; intro x))
       first
         | (refine Keeps.cut x ?_ (fun hx => ?_); rotate_left; clear_value x; rotate_left; unfold x)
         | clear_value x
         | skip)
    | with_reducible apply State.modMem_keeps | with_reducible apply State.setF_keeps
    | with_reducible exact Keeps.refl _ _ | exact ⟨rfl, rfl⟩

def State.setCopy_foot : Foot := foot [.mem] [.GWM_COPY_ACT]

theorem State.setCopy_keeps (hs : Keeps F S s) (hF : Foot.Sub State.setCopy_foot F) (p : Plane) (id : Nat)
    (x : Option CopySt) :
    Keeps F S (State.setCopy s p id x) := by
  unfold State.setCopy
  repeat' first
    | with_reducible assumption | (with_reducible refine Foot.Sub.up hF ?_; decide +kernel)
    | ((first | intro x | (lift_lets; intro x))
       first
         | (refine Keeps.cut x ?_ (fun hx => ?_); rotate_left; clear_value x; rotate_left; unfold x)
         | clear_value x
         | skip)
    | with_reducible apply State.modMem_keeps | with_reducible apply State.setF_keeps
    | with_reducible exact Keeps.refl _ _ | exact ⟨rfl, rfl⟩

def State.forward_foot : Foot := Foot.join [foot [.mem] [.GWM_FWD_CNT], State.takeTag_foot, State.setProxy_foot,
  State.sendWindowed_foot]

theorem State.forward_keeps (hs : Keeps F S s) (hF : Foot.Sub State.forward_foot F) (p : Plane) (hdr : Header)
    (what : ProxyFor) (op : Byte) (x : Place) (b : Bytes) :
    Keeps F S (State.forward s p hdr what op x b) := by
  unfold State.forward
  repeat' first
    | with_reducible assumption | (with_reducible refine Foot.Sub.up hF ?_; decide +kernel)
    | ((first | intro x | (lift_lets; intro x))
       first
         | (refine Keeps.cut x ?_ (fun hx => ?_); rotate_left; clear_value x; rotate_left; unfold x)
         | clear_value x
         | skip)
    | with_reducible apply State.modMem_keeps | with_reducible apply State.count_keeps
    | with_reducible apply State.takeTag_keeps | with_reducible apply State.setProxy_keeps
    | with_reducible apply State.sendWindowed_keeps | with_reducible refine Keeps.snd ?_ (by assumption) | split
    | with_reducible exact Keeps.refl _ _ | exact ⟨rfl, rfl⟩

def State.opEnd_foot : Foot := State.performed_foot

theorem State.opEnd_keeps (hs : Keeps F S s) (hF : Foot.Sub State.opEnd_foot F) (perf : Perf) (p : Plane)
    (h : Header) (hperf : ∀ a0 s, Keeps F s (perf a0 s)) :
    Keeps F S (State.opEnd perf s p h) := by
  unfold State.opEnd
  repeat' first
    | with_reducible assumption | (with_reducible refine Foot.Sub.up hF ?_; decide +kernel)
    | with_reducible apply State.performed_keeps | with_reducible refine Keeps.trans ?_ (hperf ..)
    | with_reducible exact Keeps.refl _ _

def State.opHold_foot : Foot := State.modDst_foot

theorem State.opHold_keeps (hs : Keeps F S s) (hF : Foot.Sub State.opHold_foot F) (p : Plane) (h : Header) :
    Keeps F S (State.opHold s p h) := by
  unfold State.opHold
  repeat' first
    | with_reducible assumption | (with_reducible refine Foot.Sub.up hF ?_; decide +kernel)
    | with_reducible apply State.modDst_keeps | intro x | with_reducible exact Keeps.refl _ _

def State.pieceEnd_foot : Foot := State.setCopy_foot

theorem State.pieceEnd_keeps (hs : Keeps F S s) (hF : Foot.Sub State.pieceEnd_foot F) (p : Plane) (id i : Nat)
    (status : Byte) (lost : Bool) :
    Keeps F S (State.pieceEnd s p id i status lost) := by
  unfold State.pieceEnd
  repeat' first
    | with_reducible assumption | (with_reducible refine Foot.Sub.up hF ?_; decide +kernel)
    | ((first | intro x | (lift_lets; intro x))
       first
         | (refine Keeps.cut x ?_ (fun hx => ?_); rotate_left; clear_value x; rotate_left; unfold x)
         | clear_value x
         | skip)
    | with_reducible apply State.setCopy_keeps | with_reducible apply Keeps.ite | split
    | with_reducible exact Keeps.refl _ _

def State.pieceData_foot : Foot := Foot.join [foot [] [.GWM_FWD_TMO], State.setCopy_foot, State.pieceEnd_foot,
  State.forward_foot]

theorem State.pieceData_keeps (hs : Keeps F S s) (hF : Foot.Sub State.pieceData_foot F) (p : Plane) (id i : Nat)
    (b : Bytes) :
    Keeps F S (State.pieceData s p id i b) := by
  unfold State.pieceData
  repeat' first
    | with_reducible assumption | (with_reducible refine Foot.Sub.up hF ?_; decide +kernel)
    | with_reducible apply State.count_keeps | with_reducible apply State.setCopy_keeps
    | with_reducible apply State.pieceEnd_keeps | with_reducible apply State.forward_keeps
    | with_reducible apply Keeps.ite | split | with_reducible exact Keeps.refl _ _

def State.pieceStart_foot : Foot := Foot.join [foot [.free] [.GWM_MEMERR_CNT, .GWM_OPS_CNT, .GWM_FWD_TMO],
  State.setCopy_foot, State.pieceEnd_foot, State.eccRead_foot, State.pieceData_foot, State.forward_foot]

theorem State.pieceStart_keeps (hs : Keeps F S s) (hF : Foot.Sub State.pieceStart_foot F) (p : Plane) (id : Nat)
    (c : CopySt) :
    Keeps F S (State.pieceStart s p id c) := by
  unfold State.pieceStart
  repeat' first
    | with_reducible assumption | (with_reducible refine Foot.Sub.up hF ?_; decide +kernel)
    | ((first | intro x | (lift_lets; intro x))
       first
         | (refine Keeps.cut x ?_ (fun hx => ?_); rotate_left; clear_value x; rotate_left; unfold x)
         | clear_value x
         | skip)
    | with_reducible apply State.count_keeps | with_reducible apply State.takeFree_keeps
    | with_reducible apply State.setCopy_keeps | with_reducible apply State.pieceEnd_keeps
    | with_reducible apply State.eccRead_keeps | with_reducible apply State.pieceData_keeps
    | with_reducible apply State.forward_keeps | with_reducible apply Keeps.ite
    | with_reducible refine Keeps.snd ?_ (by assumption) | split | with_reducible exact Keeps.refl _ _

def State.copyPump_foot : Foot := Foot.join [State.pieceStart_foot, State.setCopy_foot, State.cpl_foot,
  State.opEnd_foot]

theorem State.copyPump_keeps (hs : Keeps F S s) (hF : Foot.Sub State.copyPump_foot F) (perf : Perf)
    (hperf : ∀ a0 s, Keeps F s (perf a0 s)) (n : Nat) (a1 : Plane) (a2 : Nat) :
    Keeps F S (State.copyPump perf n s a1 a2) := by
  induction n generalizing s a1 a2 with
  | zero => unfold State.copyPump; exact hs
  | succ n ih =>
    unfold State.copyPump
    repeat' first
      | with_reducible assumption | (with_reducible refine Foot.Sub.up hF ?_; decide +kernel)
      | ((first | intro x | (lift_lets; intro x))
         first
           | (refine Keeps.cut x ?_ (fun hx => ?_); rotate_left; clear_value x; rotate_left; unfold x)
           | clear_value x
           | skip)
      | with_reducible apply ih | with_reducible apply State.pieceStart_keeps
      | with_reducible apply State.setCopy_keeps | with_reducible apply State.cpl_keeps
      | with_reducible apply State.opEnd_keeps | with_reducible refine Keeps.trans ?_ (hperf ..)
      | with_reducible apply Keeps.ite | split | with_reducible exact Keeps.refl _ _

def State.copyPumpAll_foot : Foot := State.copyPump_foot

theorem State.copyPumpAll_keeps (hs : Keeps F S s) (hF : Foot.Sub State.copyPumpAll_foot F) (perf : Perf)
    (p : Plane) (hperf : ∀ a0 s, Keeps F s (perf a0 s)) :
    Keeps F S (State.copyPumpAll perf s p) := by
  unfold State.copyPumpAll
  repeat' first
    | with_reducible assumption | (with_reducible refine Foot.Sub.up hF ?_; decide +kernel)
    | with_reducible apply State.each_keeps | with_reducible apply State.copyPump_keeps
    | with_reducible refine Keeps.trans ?_ (hperf ..) | intro x | with_reducible exact Keeps.refl _ _

def State.memStart_foot : Foot := Foot.join [foot [.mem] [.GWM_FWD_TMO], State.cpl_foot, State.discard1_foot,
  State.setCopy_foot, State.opHold_foot, State.copyPump_foot, State.memLocal_foot, State.forward_foot]

theorem State.memStart_keeps (hs : Keeps F S s) (hF : Foot.Sub State.memStart_foot F) (perf : Perf) (p : Plane)
    (k : Packet) (ecc : List EccHit) (hperf : ∀ a0 s, Keeps F s (perf a0 s)) :
    Keeps F S (State.memStart perf s p k ecc) := by
  unfold State.memStart
  repeat' first
    | with_reducible assumption | (with_reducible refine Foot.Sub.up hF ?_; decide +kernel)
    | ((first | intro x | (lift_lets; intro x))
       first
         | (refine Keeps.cut x ?_ (fun hx => ?_); rotate_left; clear_value x; rotate_left; unfold x)
         | clear_value x
         | skip)
    | with_reducible apply State.modMem_keeps | with_reducible apply State.count_keeps
    | with_reducible apply State.cpl_keeps | with_reducible apply State.discard1_keeps
    | with_reducible apply State.setCopy_keeps | with_reducible apply State.opHold_keeps
    | with_reducible apply State.copyPump_keeps | with_reducible apply State.memLocal_keeps
    | with_reducible apply State.forward_keeps | with_reducible refine Keeps.trans ?_ (hperf ..)
    | with_reducible apply Keeps.ite | with_reducible refine Keeps.snd ?_ (by assumption) | split
    | with_reducible exact Keeps.refl _ _ | exact ⟨rfl, rfl⟩

def State.memAccept_foot : Foot := Foot.join [foot [.mem] [], State.opHold_foot, State.memStart_foot]

theorem State.memAccept_keeps (hs : Keeps F S s) (hF : Foot.Sub State.memAccept_foot F) (perf : Perf)
    (p : Plane) (k : Packet) (ecc : List EccHit) (hperf : ∀ a0 s, Keeps F s (perf a0 s)) :
    Keeps F S (State.memAccept perf s p k ecc) := by
  unfold State.memAccept
  repeat' first
    | with_reducible assumption | (with_reducible refine Foot.Sub.up hF ?_; decide +kernel)
    | with_reducible apply State.modMem_keeps | with_reducible apply State.opHold_keeps
    | with_reducible apply State.memStart_keeps | with_reducible refine Keeps.trans ?_ (hperf ..) | intro x
    | with_reducible apply Keeps.ite | with_reducible exact Keeps.refl _ _ | exact ⟨rfl, rfl⟩

def State.memPerf_foot : Foot := State.memAccept_foot

theorem State.memPerfN_keeps (n : Nat) (hs : Keeps F S s) (hF : Foot.Sub State.memPerf_foot F) (p : Plane)
    (k : Packet) : Keeps F S (State.memPerfN n p k s) := by
  induction n generalizing S s k with
  | zero => exact hs
  | succ n ih =>
    exact State.memAccept_keeps (State.takeFree_keeps hs (hF.up (by decide +kernel))) (hF.up (by decide +kernel)) _ p k _
      (fun k s => ih (Keeps.refl _ s) k)

theorem State.memPerf_keeps (hs : Keeps F S s) (hF : Foot.Sub State.memPerf_foot F) (p : Plane) (k : Packet) :
    Keeps F S (State.memPerf p k s) :=
  State.memPerfN_keeps 513 hs hF p k

def State.waitStart_foot : Foot := Foot.join [foot [.mem, .free] [], State.modDst_foot, State.memStart_foot,
  State.memPerf_foot, State.pumpHeld_foot]

theorem State.waitStart_keeps (hs : Keeps F S s) (hF : Foot.Sub State.waitStart_foot F) (p : Plane) (k : Packet) :
    Keeps F S (State.waitStart s p k) := by
  unfold State.waitStart
  repeat' first
    | with_reducible assumption | (with_reducible refine Foot.Sub.up hF ?_; decide +kernel)
    | ((first | intro x | (lift_lets; intro x))
       first
         | (refine Keeps.cut x ?_ (fun hx => ?_); rotate_left; clear_value x; rotate_left; unfold x)
         | clear_value x
         | skip)
    | with_reducible apply State.modMem_keeps | with_reducible apply State.takeFree_keeps
    | with_reducible apply State.modDst_keeps | with_reducible apply State.memStart_keeps
    | with_reducible apply State.memPerf_keeps | with_reducible apply State.pumpHeld_keeps
    | with_reducible apply Keeps.ite | with_reducible exact Keeps.refl _ _ | exact ⟨rfl, rfl⟩

def State.waitPump_foot : Foot := State.waitStart_foot

theorem State.waitPump_keeps (hs : Keeps F S s) (hF : Foot.Sub State.waitPump_foot F) (p : Plane) :
    Keeps F S (State.waitPump s p) := by
  unfold State.waitPump
  repeat' first
    | with_reducible assumption | (with_reducible refine Foot.Sub.up hF ?_; decide +kernel)
    | with_reducible apply State.each_keeps | with_reducible apply State.waitStart_keeps | intro x
    | with_reducible exact Keeps.refl _ _

def State.forwardEnd_foot : Foot := Foot.join [State.setProxy_foot, State.opEnd_foot, State.memPerf_foot,
  State.cpl_foot, State.pieceData_foot, State.pieceEnd_foot, State.waitPump_foot, State.copyPumpAll_foot]

theorem State.forwardEnd_keeps (hs : Keeps F S s) (hF : Foot.Sub State.forwardEnd_foot F) (p : Plane) (id : Nat)
    (k : Option Packet) :
    Keeps F S (State.forwardEnd s p id k) := by
  unfold State.forwardEnd
  repeat' first
    | with_reducible assumption | (with_reducible refine Foot.Sub.up hF ?_; decide +kernel)
    | ((first | intro x | (lift_lets; intro x))
       first
         | (refine Keeps.cut x ?_ (fun hx => ?_); rotate_left; clear_value x; rotate_left; unfold x)
         | clear_value x
         | skip)
    | with_reducible apply State.setProxy_keeps | with_reducible apply State.opEnd_keeps
    | with_reducible apply State.memPerf_keeps | with_reducible apply State.cpl_keeps
    | with_reducible apply State.pieceData_keeps | with_reducible apply State.pieceEnd_keeps
    | with_reducible apply State.waitPump_keeps | with_reducible apply State.copyPumpAll_keeps
    | with_reducible apply Keeps.ite | split | with_reducible exact Keeps.refl _ _

def State.forwardAgain_foot : Foot := Foot.join [foot [] [.GWM_FWD_TMO], State.forwardEnd_foot, State.takeTag_foot,
  State.sendWindowed_foot]

theorem State.forwardAgain_keeps (hs : Keeps F S s) (hF : Foot.Sub State.forwardAgain_foot F) (p : Plane)
    (id : Nat) :
    Keeps F S (State.forwardAgain s p id) := by
  unfold State.forwardAgain
  repeat' first
    | with_reducible assumption | (with_reducible refine Foot.Sub.up hF ?_; decide +kernel)
    | ((first | intro x | (lift_lets; intro x))
       first
         | (refine Keeps.cut x ?_ (fun hx => ?_); rotate_left; clear_value x; rotate_left; unfold x)
         | clear_value x
         | skip)
    | with_reducible apply State.count_keeps | with_reducible apply State.forwardEnd_keeps
    | with_reducible apply State.takeTag_keeps | with_reducible apply State.sendWindowed_keeps
    | with_reducible apply Keeps.ite | with_reducible refine Keeps.snd ?_ (by assumption) | split
    | with_reducible exact Keeps.refl _ _

def State.memDone_foot : Foot := Foot.join [State.forwardAgain_foot, State.forwardEnd_foot]

theorem State.memDone_keeps (hs : Keeps F S s) (hF : Foot.Sub State.memDone_foot F) (p : Plane) (w : ReqWhat)
    (k : Packet) :
    Keeps F S (State.memDone p w k s) := by
  unfold State.memDone
  repeat' first
    | with_reducible assumption | (with_reducible refine Foot.Sub.up hF ?_; decide +kernel)
    | with_reducible apply State.forwardAgain_keeps | with_reducible apply State.forwardEnd_keeps
    | with_reducible apply Keeps.ite | split | with_reducible exact Keeps.refl _ _

def State.memTimeout_foot : Foot := Foot.join [foot [] [.GWM_FWD_TMO, .LFP_OP_TMO], State.forwardEnd_foot]

theorem State.memTimeout_keeps (hs : Keeps F S s) (hF : Foot.Sub State.memTimeout_foot F) (p : Plane)
    (w : ReqWhat) :
    Keeps F S (State.memTimeout p w s) := by
  unfold State.memTimeout
  repeat' first
    | with_reducible assumption | (with_reducible refine Foot.Sub.up hF ?_; decide +kernel)
    | with_reducible apply State.count_keeps | with_reducible apply State.forwardEnd_keeps | split
    | with_reducible exact Keeps.refl _ _

def State.memDrop_foot : Foot := Foot.join [State.modEp_foot, State.forwardEnd_foot]

theorem State.memDrop_keeps (hs : Keeps F S s) (hF : Foot.Sub State.memDrop_foot F) (p : Plane)
    (status : Option Byte) (w : WaitPkt) :
    Keeps F S (State.memDrop p status w s) := by
  unfold State.memDrop
  repeat' first
    | with_reducible assumption | (with_reducible refine Foot.Sub.up hF ?_; decide +kernel)
    | ((first | intro x | (lift_lets; intro x))
       first
         | (refine Keeps.cut x ?_ (fun hx => ?_); rotate_left; clear_value x; rotate_left; unfold x)
         | clear_value x
         | skip)
    | with_reducible apply State.modEp_keeps | with_reducible apply State.forwardEnd_keeps | split
    | with_reducible exact Keeps.refl _ _

def State.memReset_foot : Foot := Foot.join [foot [.mem] [.GWM_COPY_ACT, .GWM_FWD_USED], State.modEp_foot]

theorem State.memReset_keeps (hs : Keeps F S s) (hF : Foot.Sub State.memReset_foot F) (p : Plane) :
    Keeps F S (State.memReset s p) := by
  unfold State.memReset
  repeat' first
    | with_reducible assumption | (with_reducible refine Foot.Sub.up hF ?_; decide +kernel)
    | ((first | intro x | (lift_lets; intro x))
       first
         | (refine Keeps.cut x ?_ (fun hx => ?_); rotate_left; clear_value x; rotate_left; unfold x)
         | clear_value x
         | skip)
    | with_reducible apply State.modMem_keeps | with_reducible apply State.setF_keeps
    | with_reducible apply State.modEp_keeps | with_reducible exact Keeps.refl _ _ | exact ⟨rfl, rfl⟩

def State.memRow_foot : Foot := Foot.join [State.dstCrc_foot, State.memAccept_foot, State.memPerf_foot]

theorem State.memRow_keeps (hs : Keeps F S s) (hF : Foot.Sub State.memRow_foot F) (p : Plane) (op : Byte)
    (k : Packet) (ecc : List EccHit) :
    Keeps F S (State.memRow s p op k ecc) := by
  unfold State.memRow
  repeat' first
    | with_reducible assumption | (with_reducible refine Foot.Sub.up hF ?_; decide +kernel)
    | with_reducible apply State.when_keeps | with_reducible apply State.dstCrc_keeps
    | with_reducible apply State.memAccept_keeps | with_reducible apply State.memPerf_keeps | intro x
    | with_reducible exact Keeps.refl _ _

def execPut_foot : Foot := State.memRow_foot

theorem execPut_keeps (hF : Foot.Sub execPut_foot F) (p : Plane) (pkt : Packet) (ecc : List EccHit) (s : State) :
    ∃ t', execPut p pkt ecc s = .next t' ∧ Keeps F s t' := by
  unfold execPut
  refine ⟨_, rfl, ?_⟩
  repeat' first
    | with_reducible assumption | (with_reducible refine Foot.Sub.up hF ?_; decide +kernel)
    | with_reducible apply State.memRow_keeps | with_reducible exact Keeps.refl _ _

def execGet_foot : Foot := State.memRow_foot

theorem execGet_keeps (hF : Foot.Sub execGet_foot F) (p : Plane) (pkt : Packet) (ecc : List EccHit) (s : State) :
    ∃ t', execGet p pkt ecc s = .next t' ∧ Keeps F s t' := by
  unfold execGet
  refine ⟨_, rfl, ?_⟩
  repeat' first
    | with_reducible assumption | (with_reducible refine Foot.Sub.up hF ?_; decide +kernel)
    | with_reducible apply State.memRow_keeps | with_reducible exact Keeps.refl _ _

def execPutRed_foot : Foot := State.memRow_foot

theorem execPutRed_keeps (hF : Foot.Sub execPutRed_foot F) (p : Plane) (pkt : Packet) (ecc : List EccHit)
    (s : State) :
    ∃ t', execPutRed p pkt ecc s = .next t' ∧ Keeps F s t' := by
  unfold execPutRed
  refine ⟨_, rfl, ?_⟩
  repeat' first
    | with_reducible assumption | (with_reducible refine Foot.Sub.up hF ?_; decide +kernel)
    | with_reducible apply State.memRow_keeps | with_reducible exact Keeps.refl _ _

def execCopy_foot : Foot := State.memRow_foot

theorem execCopy_keeps (hF : Foot.Sub execCopy_foot F) (p : Plane) (pkt : Packet) (s : State) :
    ∃ t', execCopy p pkt s = .next t' ∧ Keeps F s t' := by
  unfold execCopy
  refine ⟨_, rfl, ?_⟩
  repeat' first
    | with_reducible assumption | (with_reducible refine Foot.Sub.up hF ?_; decide +kernel)
    | with_reducible apply State.memRow_keeps | with_reducible exact Keeps.refl _ _

def execFaddI_foot : Foot := State.memRow_foot

theorem execFaddI_keeps (hF : Foot.Sub execFaddI_foot F) (p : Plane) (pkt : Packet) (ecc : List EccHit)
    (s : State) :
    ∃ t', execFaddI p pkt ecc s = .next t' ∧ Keeps F s t' := by
  unfold execFaddI
  refine ⟨_, rfl, ?_⟩
  repeat' first
    | with_reducible assumption | (with_reducible refine Foot.Sub.up hF ?_; decide +kernel)
    | with_reducible apply State.memRow_keeps | with_reducible exact Keeps.refl _ _

def execFaddF_foot : Foot := State.memRow_foot

theorem execFaddF_keeps (hF : Foot.Sub execFaddF_foot F) (p : Plane) (pkt : Packet) (ecc : List EccHit)
    (s : State) :
    ∃ t', execFaddF p pkt ecc s = .next t' ∧ Keeps F s t' := by
  unfold execFaddF
  refine ⟨_, rfl, ?_⟩
  repeat' first
    | with_reducible assumption | (with_reducible refine Foot.Sub.up hF ?_; decide +kernel)
    | with_reducible apply State.memRow_keeps | with_reducible exact Keeps.refl _ _

def execCas_foot : Foot := State.memRow_foot

theorem execCas_keeps (hF : Foot.Sub execCas_foot F) (p : Plane) (pkt : Packet) (ecc : List EccHit) (s : State) :
    ∃ t', execCas p pkt ecc s = .next t' ∧ Keeps F s t' := by
  unfold execCas
  refine ⟨_, rfl, ?_⟩
  repeat' first
    | with_reducible assumption | (with_reducible refine Foot.Sub.up hF ?_; decide +kernel)
    | with_reducible apply State.memRow_keeps | with_reducible exact Keeps.refl _ _

def execSwap_foot : Foot := State.memRow_foot

theorem execSwap_keeps (hF : Foot.Sub execSwap_foot F) (p : Plane) (pkt : Packet) (ecc : List EccHit)
    (s : State) :
    ∃ t', execSwap p pkt ecc s = .next t' ∧ Keeps F s t' := by
  unfold execSwap
  refine ⟨_, rfl, ?_⟩
  repeat' first
    | with_reducible assumption | (with_reducible refine Foot.Sub.up hF ?_; decide +kernel)
    | with_reducible apply State.memRow_keeps | with_reducible exact Keeps.refl _ _

def execAmax_foot : Foot := State.memRow_foot

theorem execAmax_keeps (hF : Foot.Sub execAmax_foot F) (p : Plane) (pkt : Packet) (ecc : List EccHit)
    (s : State) :
    ∃ t', execAmax p pkt ecc s = .next t' ∧ Keeps F s t' := by
  unfold execAmax
  refine ⟨_, rfl, ?_⟩
  repeat' first
    | with_reducible assumption | (with_reducible refine Foot.Sub.up hF ?_; decide +kernel)
    | with_reducible apply State.memRow_keeps | with_reducible exact Keeps.refl _ _

def execAmin_foot : Foot := State.memRow_foot

theorem execAmin_keeps (hF : Foot.Sub execAmin_foot F) (p : Plane) (pkt : Packet) (ecc : List EccHit)
    (s : State) :
    ∃ t', execAmin p pkt ecc s = .next t' ∧ Keeps F s t' := by
  unfold execAmin
  refine ⟨_, rfl, ?_⟩
  repeat' first
    | with_reducible assumption | (with_reducible refine Foot.Sub.up hF ?_; decide +kernel)
    | with_reducible apply State.memRow_keeps | with_reducible exact Keeps.refl _ _

def State.pieceWrite_foot : Foot := Foot.join [foot [] [.GWM_MEMERR_CNT], State.pieceEnd_foot, State.memLocal_foot,
  State.waitPump_foot, State.copyPump_foot, State.memPerf_foot]

theorem State.pieceWrite_keeps (hs : Keeps F S s) (hF : Foot.Sub State.pieceWrite_foot F) (p : Plane)
    (id i : Nat) (ecc : List EccHit) :
    Keeps F S (State.pieceWrite s p id i ecc) := by
  unfold State.pieceWrite
  repeat' first
    | with_reducible assumption | (with_reducible refine Foot.Sub.up hF ?_; decide +kernel)
    | ((first | intro x | (lift_lets; intro x))
       first
         | (refine Keeps.cut x ?_ (fun hx => ?_); rotate_left; clear_value x; rotate_left; unfold x)
         | clear_value x
         | skip)
    | with_reducible apply State.count_keeps | with_reducible apply State.pieceEnd_keeps
    | with_reducible apply State.memLocal_keeps | with_reducible apply State.waitPump_keeps
    | with_reducible apply State.copyPump_keeps | with_reducible apply State.memPerf_keeps
    | with_reducible apply Keeps.ite | with_reducible refine Keeps.snd ?_ (by assumption) | split
    | with_reducible exact Keeps.refl _ _

def execCopyPieceDone_foot : Foot := State.pieceWrite_foot

theorem execCopyPieceDone_keeps (hF : Foot.Sub execCopyPieceDone_foot F) (p : Plane) (id piece : Nat)
    (ecc : List EccHit) (s : State) :
    ∃ t', execCopyPieceDone p id piece ecc s = .next t' ∧ Keeps F s t' := by
  unfold execCopyPieceDone
  refine ⟨_, rfl, ?_⟩
  repeat' first
    | with_reducible assumption | (with_reducible refine Foot.Sub.up hF ?_; decide +kernel)
    | with_reducible apply State.when_keeps | with_reducible apply State.pieceWrite_keeps | intro x
    | with_reducible exact Keeps.refl _ _

def execFwdTimeout_foot : Foot := Foot.join [State.opTimeout_foot, State.memDrop_foot, State.memTimeout_foot]

theorem execFwdTimeout_keeps (hF : Foot.Sub execFwdTimeout_foot F) (p : Plane) (tag : BitVec 16) (s : State) :
    ∃ t', execFwdTimeout p tag s = .next t' ∧ Keeps F s t' := by
  unfold execFwdTimeout
  refine ⟨_, rfl, ?_⟩
  repeat' first
    | with_reducible assumption | (with_reducible refine Foot.Sub.up hF ?_; decide +kernel)
    | ((first | intro x | (lift_lets; intro x))
       first
         | (refine Keeps.cut x ?_ (fun hx => ?_); rotate_left; clear_value x; rotate_left; unfold x)
         | clear_value x
         | skip)
    | with_reducible apply State.when_keeps | with_reducible apply State.opTimeout_keeps
    | with_reducible apply State.memDrop_keeps | with_reducible apply State.memTimeout_keeps | split
    | with_reducible exact Keeps.refl _ _

end Sys2Proof.Machine
end

