-- ==== Sys2Proof/Laws/KeepGolden.lean ====
section
/-! SUPPORT. `Keeps` of the definitions of Machine/Golden.lean, each with its footprint. -/

namespace Sys2Proof.Machine

set_option Elab.async false

variable {F : Foot} {S s : State}

def State.onTest_foot : Foot := Foot.join [foot [] [.TST_CHK_NOFLOW, .TST_CHK_FLOW], State.raise_foot]

theorem State.onTest_keeps (hs : Keeps F S s) (hF : Foot.Sub State.onTest_foot F) (p : Plane) (g : Nat)
    (k : Packet) (rx : BitVec 64) :
    Keeps F S (State.onTest s p g k rx) := by
  unfold State.onTest
  repeat' first
    | with_reducible assumption | (with_reducible refine Foot.Sub.up hF ?_; decide +kernel)
    | ((first | intro x | (lift_lets; intro x))
       first
         | (refine Keeps.cut x ?_ (fun hx => ?_); rotate_left; clear_value x; rotate_left; unfold x)
         | clear_value x
         | skip)
    | with_reducible apply State.count_keeps | with_reducible apply State.setWords_keeps
    | with_reducible apply State.setF_keeps | with_reducible apply State.countN_keeps
    | with_reducible apply State.raise_keeps | with_reducible apply Keeps.ite | split
    | with_reducible exact Keeps.refl _ _ | dsimp only

def State.freeFlows_foot : Foot := foot [] [.TST_CHK_FLOW]

theorem State.freeFlows_keeps (hs : Keeps F S s) (hF : Foot.Sub State.freeFlows_foot F) (p : Plane) (g : Nat) :
    Keeps F S (State.freeFlows s p g) := by
  refine State.modRegs_keeps hs p _ (fun m h => keysAbove_filter _ m none h) (fun m _ _ a _ ha d => ?_)
  refine mget_filter _ a m (fun v => ?_) d
  have h0 := ha .TST_CHK_FLOW (Reg.sub_iff.mp (hF.up (by decide +kernel)))
  dsimp only
  split
  · rename_i i _ hi
    exact absurd (Reg.owns_of_at hi) h0
  · rfl

def State.goldPerf_foot : Foot := Foot.join [State.modTst_foot, State.onTest_foot, State.cpl_foot]

theorem State.goldPerf_keeps (hs : Keeps F S s) (hF : Foot.Sub State.goldPerf_foot F) (p : Plane) (i : Nat)
    (now : BitVec 64) (k : Packet) :
    Keeps F S (State.goldPerf p i now k s) := by
  unfold State.goldPerf
  repeat' first
    | with_reducible assumption | (with_reducible refine Foot.Sub.up hF ?_; decide +kernel)
    | ((first | intro x | (lift_lets; intro x))
       first
         | (refine Keeps.cut x ?_ (fun hx => ?_); rotate_left; clear_value x; rotate_left; unfold x)
         | clear_value x
         | skip)
    | with_reducible apply State.modTst_keeps | with_reducible apply State.onTest_keeps
    | with_reducible apply State.cpl_keeps | with_reducible apply Keeps.ite | with_reducible exact Keeps.refl _ _

def State.goldLost_foot : Foot := State.modTst_foot

theorem State.goldLost_keeps (hs : Keeps F S s) (hF : Foot.Sub State.goldLost_foot F) (p : Plane) (i : Nat)
    (k : Packet) :
    Keeps F S (State.goldLost p i k s) := by
  unfold State.goldLost
  repeat' first
    | with_reducible assumption | (with_reducible refine Foot.Sub.up hF ?_; decide +kernel)
    | with_reducible apply State.modTst_keeps | intro x | with_reducible exact Keeps.refl _ _

def State.goldRules_foot : Foot := Foot.join [State.pchkIf_foot, State.modTst_foot]

theorem State.goldRules_keeps (hs : Keeps F S s) (hF : Foot.Sub State.goldRules_foot F) (p : Plane) (i : Nat)
    (k : Packet) :
    Keeps F S (State.goldRules s p i k) := by
  unfold State.goldRules
  repeat' first
    | with_reducible assumption | (with_reducible refine Foot.Sub.up hF ?_; decide +kernel)
    | ((first | intro x | (lift_lets; intro x))
       first
         | (refine Keeps.cut x ?_ (fun hx => ?_); rotate_left; clear_value x; rotate_left; unfold x)
         | clear_value x
         | skip)
    | with_reducible apply State.pchkIf_keeps | with_reducible apply State.modTst_keeps | split
    | with_reducible exact Keeps.refl _ _

theorem State.genDone_keeps (hs : Keeps F S s) (_p : Plane) (_w : ReqWhat) (_k : Packet) :
    Keeps F S (State.genDone _p _w _k s) := by
  unfold State.genDone
  repeat' first | with_reducible assumption | with_reducible exact Keeps.refl _ _

theorem State.genDrop_keeps (hs : Keeps F S s) (_p : Plane) (_w : WaitPkt) :
    Keeps F S (State.genDrop _p _w s) := by
  unfold State.genDrop
  repeat' first | with_reducible assumption | with_reducible exact Keeps.refl _ _

def State.genTimeout_foot : Foot := foot [] [.LFP_OP_TMO]

theorem State.genTimeout_keeps (hs : Keeps F S s) (hF : Foot.Sub State.genTimeout_foot F) (p : Plane)
    (_w : ReqWhat) :
    Keeps F S (State.genTimeout p _w s) := by
  unfold State.genTimeout
  repeat' first
    | with_reducible assumption | (with_reducible refine Foot.Sub.up hF ?_; decide +kernel)
    | with_reducible apply State.count_keeps | with_reducible exact Keeps.refl _ _

def State.gepIn_foot : Foot := Foot.join [foot [] [.LFP_HDR_DISC, .TST_GEP_DISC], State.dstCrc_foot,
  State.goldRules_foot, State.modTst_foot, State.windowedIn_foot, State.goldPerf_foot, State.goldLost_foot,
  State.winSyncIn_foot, State.cpl_foot, State.cplIn_foot, State.ackIn_foot, State.onTest_foot]

theorem State.gepIn_keeps (hs : Keeps F S s) (hF : Foot.Sub State.gepIn_foot F) (p : Plane) (i : Nat)
    (k : Packet) (rx : BitVec 64) :
    Keeps F S (State.gepIn s p i k rx) := by
  unfold State.gepIn
  repeat' first
    | with_reducible assumption | (with_reducible refine Foot.Sub.up hF ?_; decide +kernel)
    | ((first | intro x | (lift_lets; intro x))
       first
         | (refine Keeps.cut x ?_ (fun hx => ?_); rotate_left; clear_value x; rotate_left; unfold x)
         | clear_value x
         | skip)
    | with_reducible apply State.count_keeps | with_reducible apply State.dstCrc_keeps
    | with_reducible apply State.goldRules_keeps | with_reducible apply State.modTst_keeps
    | with_reducible apply State.windowedIn_keeps | with_reducible apply State.goldPerf_keeps
    | with_reducible apply State.goldLost_keeps | with_reducible apply State.winSyncIn_keeps
    | with_reducible apply State.cpl_keeps | with_reducible apply State.cplIn_keeps
    | with_reducible apply State.genDrop_keeps | with_reducible apply State.genDone_keeps
    | with_reducible apply State.ackIn_keeps | with_reducible apply State.onTest_keeps
    | with_reducible apply Keeps.ite | with_reducible exact Keeps.refl _ _

def State.setRun_foot : Foot := foot [] [.TST_GEN_STAT]

theorem State.setRun_keeps (hs : Keeps F S s) (hF : Foot.Sub State.setRun_foot F) (p : Plane) (g st : Nat)
    (on : Bool) :
    Keeps F S (State.setRun s p g st on) := by
  unfold State.setRun
  repeat' first
    | with_reducible assumption | (with_reducible refine Foot.Sub.up hF ?_; decide +kernel)
    | with_reducible apply State.setF_keeps | with_reducible exact Keeps.refl _ _

def State.genStart1_foot : Foot := Foot.join [foot [] [.TST_GEN_STAT, .TST_GEN_SENT], State.setRun_foot]

theorem State.genStart1_keeps (hs : Keeps F S s) (hF : Foot.Sub State.genStart1_foot F) (p : Plane) (g st : Nat) :
    Keeps F S (State.genStart1 s p g st) := by
  unfold State.genStart1
  repeat' first
    | with_reducible assumption | (with_reducible refine Foot.Sub.up hF ?_; decide +kernel)
    | ((first | intro x | (lift_lets; intro x))
       first
         | (refine Keeps.cut x ?_ (fun hx => ?_); rotate_left; clear_value x; rotate_left; unfold x)
         | clear_value x
         | skip)
    | with_reducible apply State.setF_keeps | with_reducible apply State.setRun_keeps
    | with_reducible apply Keeps.ite | with_reducible exact Keeps.refl _ _

def State.genEnd_foot : Foot := Foot.join [State.raise_foot, State.setRun_foot]

theorem State.genEnd_keeps (hs : Keeps F S s) (hF : Foot.Sub State.genEnd_foot F) (p : Plane) (g st : Nat) :
    Keeps F S (State.genEnd s p g st) := by
  unfold State.genEnd
  repeat' first
    | with_reducible assumption | (with_reducible refine Foot.Sub.up hF ?_; decide +kernel)
    | with_reducible apply State.raise_keeps | with_reducible apply State.setRun_keeps
    | with_reducible apply Keeps.ite | with_reducible exact Keeps.refl _ _

def State.genStart_foot : Foot := State.genStart1_foot

theorem State.genStart_keeps (hs : Keeps F S s) (hF : Foot.Sub State.genStart_foot F) (p : Plane) (g v : Nat) :
    Keeps F S (State.genStart s p g v) := by
  unfold State.genStart
  repeat' first
    | with_reducible assumption | (with_reducible refine Foot.Sub.up hF ?_; decide +kernel)
    | with_reducible apply State.each_keeps | with_reducible apply State.genStart1_keeps | intro x
    | with_reducible exact Keeps.refl _ _

def State.genStop_foot : Foot := State.genEnd_foot

theorem State.genStop_keeps (hs : Keeps F S s) (hF : Foot.Sub State.genStop_foot F) (p : Plane) (g v : Nat) :
    Keeps F S (State.genStop s p g v) := by
  unfold State.genStop
  repeat' first
    | with_reducible assumption | (with_reducible refine Foot.Sub.up hF ?_; decide +kernel)
    | with_reducible apply State.each_keeps | with_reducible apply State.genEnd_keeps | intro x
    | with_reducible exact Keeps.refl _ _

def State.genPacket_foot : Foot := Foot.join [foot [] [.TST_GEN_SENT], State.discard1_foot, State.sideSend_foot,
  State.genEnd_foot, State.startSync_foot, State.modSrc_foot, State.takeTag_foot]

theorem State.genPacket_keeps (hs : Keeps F S s) (hF : Foot.Sub State.genPacket_foot F) (p : Plane) (g st : Nat) :
    Keeps F S (State.genPacket s p g st) := by
  unfold State.genPacket
  repeat' first
    | with_reducible assumption | (with_reducible refine Foot.Sub.up hF ?_; decide +kernel)
    | ((first | intro x | (lift_lets; intro x))
       first
         | (refine Keeps.cut x ?_ (fun hx => ?_); rotate_left; clear_value x; rotate_left; unfold x)
         | (refine Keeps.cutF x ?_ (fun hx => ?_); rotate_left; clear_value x; rotate_left; unfold x)
         | (refine Keeps.cutG x ?_ (fun hx => ?_); rotate_left; clear_value x; rotate_left; unfold x)
         | (refine Keeps.cutH x ?_ (fun hx => ?_); rotate_left; clear_value x; rotate_left; unfold x)
         | clear_value x
         | skip)
    | with_reducible apply State.setF_keeps | with_reducible apply State.discard1_keeps
    | with_reducible apply State.sideSend_keeps | with_reducible apply State.genEnd_keeps
    | with_reducible apply State.startSync_keeps | with_reducible apply State.modSrc_keeps
    | with_reducible apply State.takeTag_keeps | with_reducible refine Keeps.appF ?_ (by assumption)
    | with_reducible refine Keeps.appG ?_ (by assumption) | with_reducible refine Keeps.appH ?_ (by assumption)
    | with_reducible apply Keeps.ite | with_reducible refine Keeps.snd ?_ (by assumption) | split
    | with_reducible exact Keeps.refl _ _

def execGenStart_foot : Foot := State.genStart_foot

theorem execGenStart_keeps (hF : Foot.Sub execGenStart_foot F) (p : Plane) (g : Fin 18) (streams : BitVec 16)
    (s : State) :
    ∃ t', execGenStart p g streams s = .next t' ∧ Keeps F s t' := by
  unfold execGenStart
  refine ⟨_, rfl, ?_⟩
  repeat' first
    | with_reducible assumption | (with_reducible refine Foot.Sub.up hF ?_; decide +kernel)
    | with_reducible apply State.when_keeps | with_reducible apply State.genStart_keeps | intro x
    | with_reducible exact Keeps.refl _ _

def execGenStop_foot : Foot := State.genStop_foot

theorem execGenStop_keeps (hF : Foot.Sub execGenStop_foot F) (p : Plane) (g : Fin 18) (streams : BitVec 16)
    (s : State) :
    ∃ t', execGenStop p g streams s = .next t' ∧ Keeps F s t' := by
  unfold execGenStop
  refine ⟨_, rfl, ?_⟩
  repeat' first
    | with_reducible assumption | (with_reducible refine Foot.Sub.up hF ?_; decide +kernel)
    | with_reducible apply State.when_keeps | with_reducible apply State.genStop_keeps | intro x
    | with_reducible exact Keeps.refl _ _

def execGenPacket_foot : Foot := State.genPacket_foot

theorem execGenPacket_keeps (hF : Foot.Sub execGenPacket_foot F) (p : Plane) (g : Fin 18) (st : Fin 16)
    (s : State) :
    ∃ t', execGenPacket p g st s = .next t' ∧ Keeps F s t' := by
  unfold execGenPacket
  refine ⟨_, rfl, ?_⟩
  repeat' first
    | with_reducible assumption | (with_reducible refine Foot.Sub.up hF ?_; decide +kernel)
    | with_reducible apply State.when_keeps | with_reducible apply State.genPacket_keeps | intro x
    | with_reducible exact Keeps.refl _ _

def execGepReceive_foot : Foot := State.gepIn_foot

theorem execGepReceive_keeps (hF : Foot.Sub execGepReceive_foot F) (p : Plane) (i : Fin 576) (pkt : Packet)
    (s : State) :
    ∃ t', execGepReceive p i pkt s = .next t' ∧ Keeps F s t' := by
  unfold execGepReceive
  refine ⟨_, rfl, ?_⟩
  repeat' first
    | with_reducible assumption | (with_reducible refine Foot.Sub.up hF ?_; decide +kernel)
    | with_reducible apply State.when_keeps | with_reducible apply State.gepIn_keeps | intro x
    | with_reducible exact Keeps.refl _ _

def execChkClr_foot : Foot := State.freeFlows_foot

theorem execChkClr_keeps (hF : Foot.Sub execChkClr_foot F) (p : Plane) (g : Fin 18) (s : State) :
    ∃ t', execChkClr p g s = .next t' ∧ Keeps F s t' := by
  unfold execChkClr
  refine ⟨_, rfl, ?_⟩
  repeat' first
    | with_reducible assumption | (with_reducible refine Foot.Sub.up hF ?_; decide +kernel)
    | with_reducible apply State.when_keeps | with_reducible apply State.freeFlows_keeps | intro x
    | with_reducible exact Keeps.refl _ _

def State.endDelay_foot : Foot := Foot.join [State.sideFree_foot, State.setStg_foot]

theorem State.endDelay_keeps (hs : Keeps F S s) (hF : Foot.Sub State.endDelay_foot F) (p : Plane) (code : Nat) :
    Keeps F S (State.endDelay s p code) := by
  unfold State.endDelay
  repeat' first
    | with_reducible assumption | (with_reducible refine Foot.Sub.up hF ?_; decide +kernel)
    | ((first | intro x | (lift_lets; intro x))
       first
         | (refine Keeps.cut x ?_ (fun hx => ?_); rotate_left; clear_value x; rotate_left; unfold x)
         | clear_value x
         | skip)
    | with_reducible apply State.each_keeps | with_reducible apply State.sideFree_keeps
    | with_reducible apply State.setStg_keeps | with_reducible apply Keeps.ite | split
    | with_reducible exact Keeps.refl _ _

def execInjectDelayEnd_foot : Foot := Foot.join [State.sideFree_foot, State.setStg_foot]

theorem execInjectDelayEnd_keeps (hF : Foot.Sub execInjectDelayEnd_foot F) (p : Plane) (code : Code) (s : State) :
    ∃ t', execInjectDelayEnd p code s = .next t' ∧ Keeps F s t' := by
  unfold execInjectDelayEnd
  refine ⟨_, rfl, ?_⟩
  repeat' first
    | with_reducible assumption | (with_reducible refine Foot.Sub.up hF ?_; decide +kernel)
    | ((first | intro x | (lift_lets; intro x))
       first
         | (refine Keeps.cut x ?_ (fun hx => ?_); rotate_left; clear_value x; rotate_left; unfold x)
         | clear_value x
         | skip)
    | with_reducible apply State.when_keeps | with_reducible apply State.sideFree_keeps
    | with_reducible apply State.setStg_keeps | with_reducible apply State.foldl_keeps
    | with_reducible apply State.foldl_snd | with_reducible apply State.foldl_snd2 | with_reducible apply Keeps.ite
    | split | with_reducible exact Keeps.refl _ _

def execFecInject_foot : Foot := Foot.join [foot [] [.TST_FEC_INJ, .TST_FEC_INJ_CNT], State.modWire_foot]

theorem execFecInject_keeps (hF : Foot.Sub execFecInject_foot F) (p : Plane) (lane : Fin 576) (s : State) :
    ∃ t', execFecInject p lane s = .next t' ∧ Keeps F s t' := by
  unfold execFecInject
  refine ⟨_, rfl, ?_⟩
  repeat' first
    | with_reducible assumption | (with_reducible refine Foot.Sub.up hF ?_; decide +kernel)
    | ((first | intro x | (lift_lets; intro x))
       first
         | (refine Keeps.cut x ?_ (fun hx => ?_); rotate_left; clear_value x; rotate_left; unfold x)
         | clear_value x
         | skip)
    | with_reducible apply State.when_keeps | with_reducible apply State.setFlag_keeps
    | with_reducible apply State.count_keeps | with_reducible apply State.setF_keeps
    | with_reducible apply State.modWire_keeps | with_reducible apply Keeps.ite | split
    | with_reducible exact Keeps.refl _ _

end Sys2Proof.Machine
end

