-- ==== Sys2Proof/Laws/KeepEndpoints.lean ====
section
/-! SUPPORT. `Keeps` of the definitions of Machine/Endpoints.lean, each with its footprint. -/

namespace Sys2Proof.Machine

set_option Elab.async false

variable {F : Foot} {S s : State}

def epPerf_foot : Foot := Foot.join [foot [.free] [], State.colServe_foot, State.dspServe_foot, State.memPerf_foot,
  State.goldPerf_foot]

theorem epPerf_keeps (hs : Keeps F S s) (hF : Foot.Sub epPerf_foot F) (p : Plane) (key : Nat) (k : Packet) :
    Keeps F S (epPerf p key k s) := by
  unfold epPerf
  repeat' first
    | with_reducible assumption | (with_reducible refine Foot.Sub.up hF ?_; decide +kernel)
    | with_reducible apply State.takeFree_keeps | with_reducible apply State.colServe_keeps
    | with_reducible apply State.dspServe_keeps | with_reducible apply State.memPerf_keeps
    | with_reducible apply State.goldPerf_keeps | intro x | split | with_reducible exact Keeps.refl _ _

def epLost_foot : Foot := Foot.join [State.tokenLost_foot, State.goldLost_foot]

theorem epLost_keeps (hs : Keeps F S s) (hF : Foot.Sub epLost_foot F) (p : Plane) (key : Nat) (k : Packet) :
    Keeps F S (epLost p key k s) := by
  unfold epLost
  repeat' first
    | with_reducible assumption | (with_reducible refine Foot.Sub.up hF ?_; decide +kernel)
    | with_reducible apply State.tokenLost_keeps | with_reducible apply State.goldLost_keeps | intro x | split
    | with_reducible exact Keeps.refl _ _

def epDrop_foot : Foot := State.memDrop_foot

theorem epDrop_keeps (hs : Keeps F S s) (hF : Foot.Sub epDrop_foot F) (p : Plane) (key : Nat)
    (status : Option Byte) (w : WaitPkt) :
    Keeps F S (epDrop p key status w s) := by
  unfold epDrop
  repeat' first
    | with_reducible assumption | (with_reducible refine Foot.Sub.up hF ?_; decide +kernel)
    | with_reducible apply State.memDrop_keeps | with_reducible apply Keeps.ite
    | with_reducible exact Keeps.refl _ _

def epDone_foot : Foot := State.memDone_foot

theorem epDone_keeps (hs : Keeps F S s) (hF : Foot.Sub epDone_foot F) (p : Plane) (key : Nat) (w : ReqWhat)
    (k : Packet) :
    Keeps F S (epDone p key w k s) := by
  unfold epDone
  repeat' first
    | with_reducible assumption | (with_reducible refine Foot.Sub.up hF ?_; decide +kernel)
    | with_reducible apply State.memDone_keeps | with_reducible apply Keeps.ite
    | with_reducible exact Keeps.refl _ _

def epTimeout_foot : Foot := Foot.join [foot [] [.LFP_OP_TMO], State.memTimeout_foot]

theorem epTimeout_keeps (hs : Keeps F S s) (hF : Foot.Sub epTimeout_foot F) (p : Plane) (key : Nat)
    (w : ReqWhat) :
    Keeps F S (epTimeout p key w s) := by
  unfold epTimeout
  repeat' first
    | with_reducible assumption | (with_reducible refine Foot.Sub.up hF ?_; decide +kernel)
    | with_reducible apply State.count_keeps | with_reducible apply State.memTimeout_keeps
    | with_reducible apply Keeps.ite | with_reducible exact Keeps.refl _ _

def State.epMoved_foot : Foot := Foot.join [State.fwdTellAll_foot, State.closeEpochs_foot]

theorem State.epMoved_keeps (hs : Keeps F S s) (hF : Foot.Sub State.epMoved_foot F) (p : Plane) (key : Nat) :
    Keeps F S (State.epMoved s p key) := by
  unfold State.epMoved
  repeat' first
    | with_reducible assumption | (with_reducible refine Foot.Sub.up hF ?_; decide +kernel)
    | with_reducible apply State.fwdTellAll_keeps | with_reducible apply State.closeEpochs_keeps | split
    | with_reducible exact Keeps.refl _ _

def State.epAck_foot : Foot := Foot.join [State.epMoved_foot, State.ackIn_foot]

theorem State.epAck_keeps (hs : Keeps F S s) (hF : Foot.Sub State.epAck_foot F) (p : Plane) (key : Nat)
    (k : Packet) :
    Keeps F S (State.epAck s p key k) := by
  unfold State.epAck
  repeat' first
    | with_reducible assumption | (with_reducible refine Foot.Sub.up hF ?_; decide +kernel)
    | with_reducible apply State.epMoved_keeps | with_reducible apply State.ackIn_keeps
    | with_reducible exact Keeps.refl _ _

def State.epCpl_foot : Foot := Foot.join [State.epMoved_foot, State.cplIn_foot, epDrop_foot, epDone_foot]

theorem State.epCpl_keeps (hs : Keeps F S s) (hF : Foot.Sub State.epCpl_foot F) (p : Plane) (key : Nat)
    (k : Packet) :
    Keeps F S (State.epCpl s p key k) := by
  unfold State.epCpl
  repeat' first
    | with_reducible assumption | (with_reducible refine Foot.Sub.up hF ?_; decide +kernel)
    | with_reducible apply State.epMoved_keeps | with_reducible apply State.cplIn_keeps
    | with_reducible apply epDrop_keeps | with_reducible apply epDone_keeps | intro x
    | with_reducible exact Keeps.refl _ _

def State.engineIn_foot : Foot := Foot.join [foot [] [.LFP_HDR_DISC], State.dstCrc_foot, State.windowedIn_foot,
  epPerf_foot, epLost_foot, State.winSyncIn_foot, State.slotCredIn_foot, State.colCtlIn_foot, State.cpl_foot,
  State.epCpl_foot, State.epAck_foot]

theorem State.engineIn_keeps (hs : Keeps F S s) (hF : Foot.Sub State.engineIn_foot F) (p : Plane)
    (key via : Nat) (k : Packet) :
    Keeps F S (State.engineIn s p key via k) := by
  unfold State.engineIn
  repeat' first
    | with_reducible assumption | (with_reducible refine Foot.Sub.up hF ?_; decide +kernel)
    | ((first | intro x | (lift_lets; intro x))
       first
         | (refine Keeps.cut x ?_ (fun hx => ?_); rotate_left; clear_value x; rotate_left; unfold x)
         | clear_value x
         | skip)
    | with_reducible apply State.count_keeps | with_reducible apply State.dstCrc_keeps
    | with_reducible apply State.windowedIn_keeps | with_reducible apply epPerf_keeps
    | with_reducible apply epLost_keeps | with_reducible apply State.winSyncIn_keeps
    | with_reducible apply State.slotCredIn_keeps | with_reducible apply State.colCtlIn_keeps
    | with_reducible apply State.cpl_keeps | with_reducible apply State.epCpl_keeps
    | with_reducible apply State.epAck_keeps | with_reducible apply Keeps.ite | with_reducible exact Keeps.refl _ _

def execWindowedArrival_foot : Foot := Foot.join [State.dstCrc_foot, State.gepIn_foot, State.windowedIn_foot,
  epPerf_foot, epLost_foot]

theorem execWindowedArrival_keeps (hF : Foot.Sub execWindowedArrival_foot F) (p : Plane) (e : Endpt)
    (pkt : Packet) (s : State) :
    ∃ t', execWindowedArrival p e pkt s = .next t' ∧ Keeps F s t' := by
  unfold execWindowedArrival
  refine ⟨_, rfl, ?_⟩
  repeat' first
    | with_reducible assumption | (with_reducible refine Foot.Sub.up hF ?_; decide +kernel)
    | ((first | intro x | (lift_lets; intro x))
       first
         | (refine Keeps.cut x ?_ (fun hx => ?_); rotate_left; clear_value x; rotate_left; unfold x)
         | clear_value x
         | skip)
    | with_reducible apply State.when_keeps | with_reducible apply State.dstCrc_keeps
    | with_reducible apply State.gepIn_keeps | with_reducible apply State.windowedIn_keeps
    | with_reducible apply epPerf_keeps | with_reducible apply epLost_keeps | with_reducible apply Keeps.ite
    | with_reducible exact Keeps.refl _ _

def execHoleSkip_foot : Foot := Foot.join [State.holeSkip_foot, epPerf_foot, epLost_foot]

theorem execHoleSkip_keeps (hF : Foot.Sub execHoleSkip_foot F) (p : Plane) (e : Endpt) (src : EpId) (s : State) :
    ∃ t', execHoleSkip p e src s = .next t' ∧ Keeps F s t' := by
  unfold execHoleSkip
  refine ⟨_, rfl, ?_⟩
  repeat' first
    | with_reducible assumption | (with_reducible refine Foot.Sub.up hF ?_; decide +kernel)
    | ((first | intro x | (lift_lets; intro x))
       first
         | (refine Keeps.cut x ?_ (fun hx => ?_); rotate_left; clear_value x; rotate_left; unfold x)
         | clear_value x
         | skip)
    | with_reducible apply State.when_keeps | with_reducible apply State.holeSkip_keeps
    | with_reducible apply epPerf_keeps | with_reducible apply epLost_keeps | with_reducible exact Keeps.refl _ _

def execPennantDeadline_foot : Foot := Foot.join [State.pennantDeadline_foot, epPerf_foot, epLost_foot]

theorem execPennantDeadline_keeps (hF : Foot.Sub execPennantDeadline_foot F) (p : Plane) (e : Endpt)
    (src : EpId) (wseq : BitVec 16) (s : State) :
    ∃ t', execPennantDeadline p e src wseq s = .next t' ∧ Keeps F s t' := by
  unfold execPennantDeadline
  refine ⟨_, rfl, ?_⟩
  repeat' first
    | with_reducible assumption | (with_reducible refine Foot.Sub.up hF ?_; decide +kernel)
    | ((first | intro x | (lift_lets; intro x))
       first
         | (refine Keeps.cut x ?_ (fun hx => ?_); rotate_left; clear_value x; rotate_left; unfold x)
         | clear_value x
         | skip)
    | with_reducible apply State.when_keeps | with_reducible apply State.pennantDeadline_keeps
    | with_reducible apply epPerf_keeps | with_reducible apply epLost_keeps | with_reducible exact Keeps.refl _ _

def execAckReceived_foot : Foot := Foot.join [State.dstCrc_foot, State.epAck_foot]

theorem execAckReceived_keeps (hF : Foot.Sub execAckReceived_foot F) (p : Plane) (e : Endpt) (pkt : Packet)
    (s : State) :
    ∃ t', execAckReceived p e pkt s = .next t' ∧ Keeps F s t' := by
  unfold execAckReceived
  refine ⟨_, rfl, ?_⟩
  repeat' first
    | with_reducible assumption | (with_reducible refine Foot.Sub.up hF ?_; decide +kernel)
    | ((first | intro x | (lift_lets; intro x))
       first
         | (refine Keeps.cut x ?_ (fun hx => ?_); rotate_left; clear_value x; rotate_left; unfold x)
         | clear_value x
         | skip)
    | with_reducible apply State.when_keeps | with_reducible apply State.dstCrc_keeps
    | with_reducible apply State.epAck_keeps | with_reducible exact Keeps.refl _ _

def execCplReceived_foot : Foot := Foot.join [State.dstCrc_foot, State.epCpl_foot]

theorem execCplReceived_keeps (hF : Foot.Sub execCplReceived_foot F) (p : Plane) (e : Endpt) (pkt : Packet)
    (s : State) :
    ∃ t', execCplReceived p e pkt s = .next t' ∧ Keeps F s t' := by
  unfold execCplReceived
  refine ⟨_, rfl, ?_⟩
  repeat' first
    | with_reducible assumption | (with_reducible refine Foot.Sub.up hF ?_; decide +kernel)
    | ((first | intro x | (lift_lets; intro x))
       first
         | (refine Keeps.cut x ?_ (fun hx => ?_); rotate_left; clear_value x; rotate_left; unfold x)
         | clear_value x
         | skip)
    | with_reducible apply State.when_keeps | with_reducible apply State.dstCrc_keeps
    | with_reducible apply State.epCpl_keeps | with_reducible exact Keeps.refl _ _

def execOpTimeout_foot : Foot := Foot.join [State.opTimeout_foot, epDrop_foot, epTimeout_foot]

theorem execOpTimeout_keeps (hF : Foot.Sub execOpTimeout_foot F) (p : Plane) (e : Endpt) (tag : BitVec 16)
    (s : State) :
    ∃ t', execOpTimeout p e tag s = .next t' ∧ Keeps F s t' := by
  unfold execOpTimeout
  refine ⟨_, rfl, ?_⟩
  repeat' first
    | with_reducible assumption | (with_reducible refine Foot.Sub.up hF ?_; decide +kernel)
    | ((first | intro x | (lift_lets; intro x))
       first
         | (refine Keeps.cut x ?_ (fun hx => ?_); rotate_left; clear_value x; rotate_left; unfold x)
         | clear_value x
         | skip)
    | with_reducible apply State.when_keeps | with_reducible apply State.opTimeout_keeps
    | with_reducible apply epDrop_keeps | with_reducible apply epTimeout_keeps
    | with_reducible exact Keeps.refl _ _

def execCwndIncrease_foot : Foot := Foot.join [State.epMoved_foot, State.cwndUp_foot]

theorem execCwndIncrease_keeps (hF : Foot.Sub execCwndIncrease_foot F) (p : Plane) (e : Endpt) (dst : EpId)
    (s : State) :
    ∃ t', execCwndIncrease p e dst s = .next t' ∧ Keeps F s t' := by
  unfold execCwndIncrease
  refine ⟨_, rfl, ?_⟩
  repeat' first
    | with_reducible assumption | (with_reducible refine Foot.Sub.up hF ?_; decide +kernel)
    | ((first | intro x | (lift_lets; intro x))
       first
         | (refine Keeps.cut x ?_ (fun hx => ?_); rotate_left; clear_value x; rotate_left; unfold x)
         | clear_value x
         | skip)
    | with_reducible apply State.when_keeps | with_reducible apply State.epMoved_keeps
    | with_reducible apply State.cwndUp_keeps | with_reducible exact Keeps.refl _ _

end Sys2Proof.Machine
end

