-- ==== Sys2Proof/Laws/KeepTransmit.lean ====
section
/-! SUPPORT. `Keeps` of the definitions of Machine/Transmit.lean, each with its footprint. -/

namespace Sys2Proof.Machine

set_option Elab.async false

variable {F : Foot} {S s : State}

def State.dropHead_foot : Foot := Foot.join [State.purgeCopy_foot, State.setStg_foot]

theorem State.dropHead_keeps (hs : Keeps F S s) (hF : Foot.Sub State.dropHead_foot F) (p : Plane)
    (code vc pid : Nat) :
    Keeps F S (State.dropHead s p code vc pid) := by
  unfold State.dropHead
  repeat' first
    | with_reducible assumption | (with_reducible refine Foot.Sub.up hF ?_; decide +kernel)
    | with_reducible apply State.purgeCopy_keeps | with_reducible apply State.setStg_keeps | intro x
    | with_reducible exact Keeps.refl _ _

def State.formHead_foot : Foot := Foot.join [State.ceMark_foot, State.tap_foot, State.inject_foot,
  State.dropHead_foot, State.setStg_foot]

theorem State.formHead_keeps (hs : Keeps F S s) (hF : Foot.Sub State.formHead_foot F) (p : Plane) (code vc : Nat) (e : StageEnt) (b : BufPkt)
    (rest : List StageEnt) : Keeps F S (State.formHead s p code vc e b rest) := by
  unfold State.formHead
  have h := State.ceMark_keeps hs (hF.up (by decide +kernel)) p (s.qdepth p code vc)
  generalize s.ceMark p (s.qdepth p code vc) = x at h ⊢
  obtain ⟨mark, s1⟩ := x
  dsimp only at h ⊢
  have h2 := State.tap_keeps h (hF.up (by decide +kernel)) p 1 code (departing b.pkt vc mark)
  generalize s1.tap p 1 code (departing b.pkt vc mark) = x at h2 ⊢
  obtain ⟨c, i, s2⟩ := x
  dsimp only at h2 ⊢
  have h3 : Keeps F S (if i = 0 then (0, s2) else s2.inject p (i - 1) code).2 :=
    Keeps.ite_snd h2 (State.inject_keeps h2 (hF.up (by decide +kernel)) p (i - 1) code)
  generalize (if i = 0 then (0, s2) else s2.inject p (i - 1) code) = x at h3 ⊢
  obtain ⟨kind, s3⟩ := x
  dsimp only at h3 ⊢
  split
  · exact State.dropHead_keeps h3 (hF.up (by decide +kernel)) p code vc e.pid
  · exact State.setStg_keeps h3 (hF.up (by decide +kernel)) p code vc _

def State.stageHead_foot : Foot := Foot.join [foot [] [.LFP_OVERSIZE_DISC], State.setStg_foot,
  State.ageDiscard_foot, State.dropHead_foot, State.formHead_foot]

theorem State.stageHead_keeps (hs : Keeps F S s) (hF : Foot.Sub State.stageHead_foot F) (n : Nat) (a1 : Plane)
    (a2 : Nat) (a3 : Nat) :
    Keeps F S (State.stageHead n s a1 a2 a3) := by
  induction n generalizing s a1 a2 a3 with
  | zero => unfold State.stageHead; exact hs
  | succ n ih =>
    unfold State.stageHead
    repeat' first
      | with_reducible assumption | (with_reducible refine Foot.Sub.up hF ?_; decide +kernel)
      | with_reducible apply ih | with_reducible apply State.count_keeps | with_reducible apply State.setStg_keeps
      | with_reducible apply State.ageDiscard_keeps | with_reducible apply State.dropHead_keeps
      | with_reducible apply State.formHead_keeps | with_reducible apply Keeps.ite | split
      | with_reducible exact Keeps.refl _ _

def State.stageHeads_foot : Foot := State.stageHead_foot

theorem State.stageHeads_keeps (hs : Keeps F S s) (hF : Foot.Sub State.stageHeads_foot F) (p : Plane)
    (code : Nat) :
    Keeps F S (State.stageHeads s p code) := by
  unfold State.stageHeads
  repeat' first
    | with_reducible assumption | (with_reducible refine Foot.Sub.up hF ?_; decide +kernel)
    | with_reducible apply State.each_keeps | with_reducible apply State.stageHead_keeps | intro x
    | with_reducible exact Keeps.refl _ _

def State.drr_foot : Foot := foot [.swc] []

theorem State.drr_keeps (hs : Keeps F S s) (hF : Foot.Sub State.drr_foot F) (n : Nat) (a1 : Plane) (a2 : Nat)
    (a3 : Nat) :
    Keeps F S (State.drr n s a1 a2 a3).2 := by
  induction n generalizing s a1 a2 a3 with
  | zero => unfold State.drr; exact hs
  | succ n ih =>
    unfold State.drr
    dsimp only
    repeat' first
      | with_reducible assumption | (with_reducible refine Foot.Sub.up hF ?_; decide +kernel)
      | ((first | intro x | (lift_lets; intro x))
         first
           | (refine Keeps.cut x ?_ (fun hx => ?_); rotate_left; clear_value x; rotate_left; unfold x)
           | clear_value x
           | skip)
      | with_reducible apply ih | with_reducible apply State.modSwc_keeps | with_reducible apply Keeps.ite
      | with_reducible apply Keeps.ite_snd | split | with_reducible exact Keeps.refl _ _ | dsimp only

def State.schedule_foot : Foot := State.drr_foot

theorem State.schedule_keeps (hs : Keeps F S s) (hF : Foot.Sub State.schedule_foot F) (p : Plane) (code : Nat) :
    Keeps F S (State.schedule s p code).2 := by
  unfold State.schedule
  repeat' first
    | with_reducible assumption | (with_reducible refine Foot.Sub.up hF ?_; decide +kernel)
    | ((first | intro x | (lift_lets; intro x))
       first
         | (refine Keeps.cut x ?_ (fun hx => ?_); rotate_left; clear_value x; rotate_left; unfold x)
         | clear_value x
         | skip)
    | with_reducible apply State.drr_keeps | with_reducible apply State.foldl_keeps
    | with_reducible apply State.foldl_snd | with_reducible apply State.foldl_snd2 | with_reducible apply Keeps.ite
    | with_reducible apply Keeps.ite_snd | split | with_reducible exact Keeps.refl _ _

def State.unstage_foot : Foot := State.setStg_foot

theorem State.unstage_keeps (hs : Keeps F S s) (hF : Foot.Sub State.unstage_foot F) (p : Plane)
    (code vc pid : Nat) :
    Keeps F S (State.unstage s p code vc pid) := by
  unfold State.unstage
  repeat' first
    | with_reducible assumption | (with_reducible refine Foot.Sub.up hF ?_; decide +kernel)
    | with_reducible apply State.setStg_keeps | intro x | with_reducible exact Keeps.refl _ _

def State.whSend_foot : Foot := Foot.join [foot [] [.LFP_PORT_STAT], State.modCred_foot, State.endBadTx_foot,
  State.finishTx_foot, State.unstage_foot, State.setTx_foot]

theorem State.whSend_keeps (hs : Keeps F S s) (hF : Foot.Sub State.whSend_foot F) (p : Plane) (i : Nat)
    (t : TxProg) :
    Keeps F S (State.whSend s p i t) := by
  unfold State.whSend
  repeat' first
    | with_reducible assumption | (with_reducible refine Foot.Sub.up hF ?_; decide +kernel)
    | ((first | intro x | (lift_lets; intro x))
       first
         | (refine Keeps.cut x ?_ (fun hx => ?_); rotate_left; clear_value x; rotate_left; unfold x)
         | clear_value x
         | skip)
    | with_reducible apply State.setFlag_keeps | with_reducible apply State.modCred_keeps
    | with_reducible apply State.endBadTx_keeps | with_reducible apply State.finishTx_keeps
    | with_reducible apply State.unstage_keeps | with_reducible apply State.setTx_keeps
    | with_reducible apply Keeps.ite | with_reducible exact Keeps.refl _ _

def State.startTx_foot : Foot := Foot.join [foot [] [.LFP_PORT_STAT], State.countTx_foot, State.capture_foot,
  State.dropCopy_foot, State.unstage_foot, State.engineIn_foot, State.whSend_foot, State.setTx_foot,
  State.modCred_foot, State.finishTx_foot]

theorem State.startTx_keeps (hs : Keeps F S s) (hF : Foot.Sub State.startTx_foot F) (canton : Deliver)
    (p : Plane) (code vc : Nat) (wh : Bool) (e : StageEnt) (b : BufPkt)
    (hcanton : ∀ a0 a1 s, Keeps F s (canton a0 a1 s)) :
    Keeps F S (State.startTx canton s p code vc wh e b) := by
  unfold State.startTx
  repeat' first
    | with_reducible assumption | (with_reducible refine Foot.Sub.up hF ?_; decide +kernel)
    | ((first | intro x | (lift_lets; intro x))
       first
         | (refine Keeps.cut x ?_ (fun hx => ?_); rotate_left; clear_value x; rotate_left; unfold x)
         | clear_value x
         | skip)
    | with_reducible apply State.setFlag_keeps | with_reducible apply State.countTx_keeps
    | with_reducible apply State.capture_keeps | with_reducible apply State.dropCopy_keeps
    | with_reducible apply State.unstage_keeps | with_reducible apply State.engineIn_keeps
    | with_reducible apply State.whSend_keeps | with_reducible apply State.setTx_keeps
    | with_reducible apply State.modCred_keeps | with_reducible apply State.finishTx_keeps
    | with_reducible refine Keeps.trans ?_ (hcanton ..) | with_reducible apply Keeps.ite
    | with_reducible exact Keeps.refl _ _

def State.exchangeSend_foot : Foot := Foot.join [State.portSend_foot, State.modPort_foot]

theorem State.exchangeSend_keeps (hs : Keeps F S s) (hF : Foot.Sub State.exchangeSend_foot F) (p : Plane)
    (i : Nat) :
    Keeps F S (State.exchangeSend s p i) := by
  unfold State.exchangeSend
  repeat' first
    | with_reducible assumption | (with_reducible refine Foot.Sub.up hF ?_; decide +kernel)
    | with_reducible apply State.portSend_keeps | with_reducible apply State.modPort_keeps | intro x
    | with_reducible apply Keeps.ite | split | with_reducible exact Keeps.refl _ _

def State.markPump_foot : Foot := Foot.join [foot [.rte] [], State.sendMarker_foot]

theorem State.markPump_keeps (hs : Keeps F S s) (hF : Foot.Sub State.markPump_foot F) (p : Plane) (i : Nat) :
    Keeps F S (State.markPump s p i) := by
  unfold State.markPump
  repeat' first
    | with_reducible assumption | (with_reducible refine Foot.Sub.up hF ?_; decide +kernel)
    | with_reducible apply State.modRte_keeps | with_reducible apply State.sendMarker_keeps | intro x
    | with_reducible apply Keeps.ite | split | with_reducible exact Keeps.refl _ _

def State.transmit_foot : Foot := Foot.join [State.exchangeSend_foot, State.goldPump_foot, State.whSend_foot,
  State.stageHeads_foot, State.markPump_foot, State.sidePump_foot, State.schedule_foot, State.startTx_foot]

theorem State.transmit_keeps (hs : Keeps F S s) (hF : Foot.Sub State.transmit_foot F) (canton : Deliver)
    (p : Plane) (code : Nat) (hcanton : ∀ a0 a1 s, Keeps F s (canton a0 a1 s)) :
    Keeps F S (State.transmit canton s p code) := by
  unfold State.transmit
  repeat' first
    | with_reducible assumption | (with_reducible refine Foot.Sub.up hF ?_; decide +kernel)
    | ((first | intro x | (lift_lets; intro x))
       first
         | (refine Keeps.cut x ?_ (fun hx => ?_); rotate_left; clear_value x; rotate_left; unfold x)
         | clear_value x
         | skip)
    | with_reducible apply State.exchangeSend_keeps | with_reducible apply State.goldPump_keeps
    | with_reducible apply State.whSend_keeps | with_reducible apply State.stageHeads_keeps
    | with_reducible apply State.markPump_keeps | with_reducible apply State.sidePump_keeps
    | with_reducible apply State.schedule_keeps | with_reducible apply State.startTx_keeps
    | with_reducible refine Keeps.trans ?_ (hcanton ..) | with_reducible apply Keeps.ite
    | with_reducible refine Keeps.snd ?_ (by assumption) | split | with_reducible exact Keeps.refl _ _

def State.fallback_foot : Foot := Foot.join [State.stageHeads_foot, State.startTx_foot]

theorem State.fallback_keeps (hs : Keeps F S s) (hF : Foot.Sub State.fallback_foot F) (canton : Deliver)
    (p : Plane) (i vc : Nat) (hcanton : ∀ a0 a1 s, Keeps F s (canton a0 a1 s)) :
    Keeps F S (State.fallback canton s p i vc) := by
  unfold State.fallback
  repeat' first
    | with_reducible assumption | (with_reducible refine Foot.Sub.up hF ?_; decide +kernel)
    | ((first | intro x | (lift_lets; intro x))
       first
         | (refine Keeps.cut x ?_ (fun hx => ?_); rotate_left; clear_value x; rotate_left; unfold x)
         | clear_value x
         | skip)
    | with_reducible apply State.stageHeads_keeps | with_reducible apply State.startTx_keeps
    | with_reducible refine Keeps.trans ?_ (hcanton ..) | with_reducible apply Keeps.ite | split
    | with_reducible exact Keeps.refl _ _

def State.whTruncate_foot : Foot := Foot.join [foot [] [.LFP_WH_TRUNC], State.endBadTx_foot]

theorem State.whTruncate_keeps (hs : Keeps F S s) (hF : Foot.Sub State.whTruncate_foot F) (p : Plane) (i : Nat) :
    Keeps F S (State.whTruncate s p i) := by
  unfold State.whTruncate
  repeat' first
    | with_reducible assumption | (with_reducible refine Foot.Sub.up hF ?_; decide +kernel)
    | with_reducible apply State.count_keeps | with_reducible apply State.endBadTx_keeps
    | with_reducible apply Keeps.ite | split | with_reducible exact Keeps.refl _ _

def execWhTruncate_foot : Foot := State.whTruncate_foot

theorem execWhTruncate_keeps (hF : Foot.Sub execWhTruncate_foot F) (p : Plane) (i : Fin 576) (s : State) :
    ∃ t', execWhTruncate p i s = .next t' ∧ Keeps F s t' := by
  unfold execWhTruncate
  refine ⟨_, rfl, ?_⟩
  repeat' first
    | with_reducible assumption | (with_reducible refine Foot.Sub.up hF ?_; decide +kernel)
    | with_reducible apply State.when_keeps | with_reducible apply State.whTruncate_keeps | intro x
    | with_reducible exact Keeps.refl _ _

end Sys2Proof.Machine
end

