-- ==== Sys2Proof/Laws/KeepIngress.lean ====
section
/-! SUPPORT. `Keeps` of the definitions of Machine/Ingress.lean, each with its footprint. -/

namespace Sys2Proof.Machine

set_option Elab.async false

variable {F : Foot} {S s : State}

def State.admitPkt_foot : Foot := Foot.join [foot [] [.LFP_STOMP_RX, .LFP_CRC_DISC], State.freeUnits_foot,
  State.routeIn_foot]

theorem State.admitPkt_keeps (hs : Keeps F S s) (hF : Foot.Sub State.admitPkt_foot F) (p : Plane)
    (i vc units : Nat) (r : RxProg) (k : Packet) (bad : Bool) :
    Keeps F S (State.admitPkt s p i vc units r k bad) := by
  unfold State.admitPkt
  repeat' first
    | with_reducible assumption | (with_reducible refine Foot.Sub.up hF ?_; decide +kernel)
    | ((first | intro x | (lift_lets; intro x))
       first
         | (refine Keeps.cut x ?_ (fun hx => ?_); rotate_left; clear_value x; rotate_left; unfold x)
         | (refine Keeps.cutF x ?_ (fun hx => ?_); rotate_left; clear_value x; rotate_left; unfold x)
         | (refine Keeps.cutG x ?_ (fun hx => ?_); rotate_left; clear_value x; rotate_left; unfold x)
         | (refine Keeps.cutH x ?_ (fun hx => ?_); rotate_left; clear_value x; rotate_left; unfold x)
         | clear_value x
         | skip)
    | with_reducible apply State.count_keeps | with_reducible apply State.freeUnits_keeps
    | with_reducible apply State.routeIn_keeps | with_reducible refine Keeps.appF ?_ (by assumption)
    | with_reducible refine Keeps.appG ?_ (by assumption) | with_reducible refine Keeps.appH ?_ (by assumption)
    | with_reducible apply Keeps.ite | split | with_reducible exact Keeps.refl _ _

def State.headIn_foot : Foot := Foot.join [foot [.swc] [], State.modLink_foot, State.routeIn_foot]

theorem State.headIn_keeps (hs : Keeps F S s) (hF : Foot.Sub State.headIn_foot F) (p : Plane) (i : Nat)
    (k : Packet) (r : RxProg) (bad : Bool) :
    Keeps F S (State.headIn s p i k r bad) := by
  unfold State.headIn
  repeat' first
    | with_reducible assumption | (with_reducible refine Foot.Sub.up hF ?_; decide +kernel)
    | ((first | intro x | (lift_lets; intro x))
       first
         | (refine Keeps.cut x ?_ (fun hx => ?_); rotate_left; clear_value x; rotate_left; unfold x)
         | clear_value x
         | skip)
    | with_reducible apply State.modSwc_keeps | with_reducible apply State.modLink_keeps
    | with_reducible apply State.routeIn_keeps | with_reducible apply Keeps.ite
    | with_reducible exact Keeps.refl _ _

def State.tailIn_foot : Foot := Foot.join [foot [] [.LFP_STOMP_RX, .LFP_CRC_DISC, .LFP_STOMP_TX],
  State.endUpstream_foot, State.dropUnsent_foot, State.mapPkt_foot]

theorem State.tailIn_keeps (hs : Keeps F S s) (hF : Foot.Sub State.tailIn_foot F) (p : Plane) (r : RxProg)
    (pid : Nat) (bad : Bool) :
    Keeps F S (State.tailIn s p r pid bad) := by
  unfold State.tailIn
  repeat' first
    | with_reducible assumption | (with_reducible refine Foot.Sub.up hF ?_; decide +kernel)
    | ((first | intro x | (lift_lets; intro x))
       first
         | (refine Keeps.cut x ?_ (fun hx => ?_); rotate_left; clear_value x; rotate_left; unfold x)
         | clear_value x
         | skip)
    | with_reducible apply State.count_keeps | with_reducible apply State.endUpstream_keeps
    | with_reducible apply State.dropUnsent_keeps | with_reducible apply State.mapPkt_keeps
    | with_reducible apply Keeps.ite | split | with_reducible exact Keeps.refl _ _

def State.wholeIn_foot : Foot := Foot.join [foot [] [.LNE_QDISC_CNT], State.freeUnits_foot, State.discard1_foot,
  State.creditViolation_foot, State.gepIn_foot, State.admitPkt_foot]

theorem State.wholeIn_keeps (hs : Keeps F S s) (hF : Foot.Sub State.wholeIn_foot F) (canton : Deliver)
    (p : Plane) (i : Nat) (k : Packet) (r : RxProg) (bad : Bool)
    (hcanton : ∀ a0 a1 s, Keeps F s (canton a0 a1 s)) :
    Keeps F S (State.wholeIn canton s p i k r bad) := by
  unfold State.wholeIn
  repeat' first
    | with_reducible assumption | (with_reducible refine Foot.Sub.up hF ?_; decide +kernel)
    | ((first | intro x | (lift_lets; intro x))
       first
         | (refine Keeps.cut x ?_ (fun hx => ?_); rotate_left; clear_value x; rotate_left; unfold x)
         | (refine Keeps.cutF x ?_ (fun hx => ?_); rotate_left; clear_value x; rotate_left; unfold x)
         | (refine Keeps.cutG x ?_ (fun hx => ?_); rotate_left; clear_value x; rotate_left; unfold x)
         | (refine Keeps.cutH x ?_ (fun hx => ?_); rotate_left; clear_value x; rotate_left; unfold x)
         | clear_value x
         | skip)
    | with_reducible apply State.count_keeps | with_reducible apply State.freeUnits_keeps
    | with_reducible apply State.discard1_keeps | with_reducible apply State.creditViolation_keeps
    | with_reducible apply State.gepIn_keeps | with_reducible apply State.admitPkt_keeps
    | with_reducible refine Keeps.trans ?_ (hcanton ..) | with_reducible refine Keeps.appF ?_ (by assumption)
    | with_reducible refine Keeps.appG ?_ (by assumption) | with_reducible refine Keeps.appH ?_ (by assumption)
    | with_reducible apply Keeps.ite | split | with_reducible exact Keeps.refl _ _

def State.ingress_foot : Foot := Foot.join [foot [] [.LNE_BADBLK, .LNE_QDISC_CNT], State.rxProgress_foot,
  State.headIn_foot, State.pchkPacket_foot, State.modLink_foot, State.tailIn_foot, State.wholeIn_foot]

theorem State.ingress_keeps (hs : Keeps F S s) (hF : Foot.Sub State.ingress_foot F) (canton : Deliver)
    (p : Plane) (i : Nat) (k : Packet) (bad : Bool) (unknown got : Nat) (more : Bool)
    (hcanton : ∀ a0 a1 s, Keeps F s (canton a0 a1 s)) :
    Keeps F S (State.ingress canton s p i k bad unknown got more) := by
  unfold State.ingress
  repeat' first
    | with_reducible assumption | (with_reducible refine Foot.Sub.up hF ?_; decide +kernel)
    | ((first | intro x | (lift_lets; intro x))
       first
         | (refine Keeps.cut x ?_ (fun hx => ?_); rotate_left; clear_value x; rotate_left; unfold x)
         | clear_value x
         | skip)
    | with_reducible apply State.when_keeps | with_reducible apply State.countN_keeps
    | with_reducible apply State.count_keeps | with_reducible apply State.rxProgress_keeps
    | with_reducible apply State.headIn_keeps | with_reducible apply State.pchkPacket_keeps
    | with_reducible apply State.modLink_keeps | with_reducible apply State.tailIn_keeps
    | with_reducible apply State.wholeIn_keeps | with_reducible refine Keeps.trans ?_ (hcanton ..)
    | with_reducible apply Keeps.ite | split | with_reducible exact Keeps.refl _ _

end Sys2Proof.Machine
end

