-- ==== Sys2Proof/Laws/KeepGnoLink.lean ====
section
/-! SUPPORT. `Keeps` of the definitions of Machine/GnoLink.lean, each with its footprint. -/

namespace Sys2Proof.Machine

set_option Elab.async false

variable {F : Foot} {S s : State}

def State.modHalf_foot : Foot := foot [.hif] []

theorem State.modHalf_keeps (hs : Keeps F S s) (hF : Foot.Sub State.modHalf_foot F) (h : Plane)
    (f : GlHalf → GlHalf) :
    Keeps F S (State.modHalf s h f) := by
  unfold State.modHalf
  repeat' first
    | with_reducible assumption | (with_reducible refine Foot.Sub.up hF ?_; decide +kernel)
    | with_reducible apply State.modHif_keeps | intro x | with_reducible exact Keeps.refl _ _ | exact Nat.le_refl _

def State.setGl_foot : Foot := foot [] [.HIF_LINK_STAT]

theorem State.setGl_keeps (hs : Keeps F S s) (hF : Foot.Sub State.setGl_foot F) (h : Plane) (st : Nat) :
    Keeps F S (State.setGl s h st) := by
  unfold State.setGl
  repeat' first
    | with_reducible assumption | (with_reducible refine Foot.Sub.up hF ?_; decide +kernel)
    | with_reducible apply State.setF_keeps | with_reducible exact Keeps.refl _ _

def State.glDetect_foot : Foot := Foot.join [foot [] [.HIF_LINK_CFG], State.modHalf_foot, State.setGl_foot]

theorem State.glDetect_keeps (hs : Keeps F S s) (hF : Foot.Sub State.glDetect_foot F) (h : Plane) :
    Keeps F S (State.glDetect s h) := by
  unfold State.glDetect
  repeat' first
    | with_reducible assumption | (with_reducible refine Foot.Sub.up hF ?_; decide +kernel)
    | ((first | intro x | (lift_lets; intro x))
       first
         | (refine Keeps.cut x ?_ (fun hx => ?_); rotate_left; clear_value x; rotate_left; unfold x)
         | clear_value x
         | skip)
    | with_reducible apply State.setFlag_keeps | with_reducible apply State.modHalf_keeps
    | with_reducible apply State.setGl_keeps | with_reducible exact Keeps.refl _ _

def State.glFail_foot : Foot := Foot.join [State.modHalf_foot, State.glDetect_foot, State.setGl_foot]

theorem State.glFail_keeps (hs : Keeps F S s) (hF : Foot.Sub State.glFail_foot F) (h : Plane) (reason : Nat) :
    Keeps F S (State.glFail s h reason) := by
  unfold State.glFail
  repeat' first
    | with_reducible assumption | (with_reducible refine Foot.Sub.up hF ?_; decide +kernel)
    | ((first | intro x | (lift_lets; intro x))
       first
         | (refine Keeps.cut x ?_ (fun hx => ?_); rotate_left; clear_value x; rotate_left; unfold x)
         | clear_value x
         | skip)
    | with_reducible apply State.modHalf_keeps | with_reducible apply State.glDetect_keeps
    | with_reducible apply State.setGl_keeps | with_reducible apply Keeps.ite | with_reducible exact Keeps.refl _ _

def State.glMove_foot : Foot := foot [.hif] []

theorem State.glMove_keeps (hs : Keeps F S s) (hF : Foot.Sub State.glMove_foot F) (q lost : Plane) :
    Keeps F S (State.glMove s q lost) := by
  unfold State.glMove
  repeat' first
    | with_reducible assumption | (with_reducible refine Foot.Sub.up hF ?_; decide +kernel)
    | ((first | intro x | (lift_lets; intro x))
       first
         | (refine Keeps.cut x ?_ (fun hx => ?_); rotate_left; clear_value x; rotate_left; unfold x)
         | clear_value x
         | skip)
    | with_reducible apply State.modHif_keeps | with_reducible exact Keeps.refl _ _ | exact Nat.le_refl _

def State.bellsOff_foot : Foot := foot [.hif] []

theorem State.bellsOff_keeps (hs : Keeps F S s) (hF : Foot.Sub State.bellsOff_foot F) (q lost : Plane) :
    Keeps F S (State.bellsOff s q lost) := by
  unfold State.bellsOff
  repeat' first
    | with_reducible assumption | (with_reducible refine Foot.Sub.up hF ?_; decide +kernel)
    | with_reducible apply State.modHif_keeps | intro x | with_reducible exact Keeps.refl _ _ | exact Nat.le_refl _

def State.readCmdBell_foot : Foot := Foot.join [foot [.hif] [], State.glRequest_foot]

theorem State.readCmdBell_keeps (hs : Keeps F S s) (hF : Foot.Sub State.readCmdBell_foot F) (p : Plane) :
    Keeps F S (State.readCmdBell s p) := by
  unfold State.readCmdBell
  repeat' first
    | with_reducible assumption | (with_reducible refine Foot.Sub.up hF ?_; decide +kernel)
    | with_reducible apply State.modHif_keeps | with_reducible apply State.glRequest_keeps | intro x
    | with_reducible apply Keeps.ite | with_reducible exact Keeps.refl _ _ | exact Nat.le_refl _

def State.readCiBell_foot : Foot := Foot.join [foot [.hif] [], State.glRequest_foot]

theorem State.readCiBell_keeps (hs : Keeps F S s) (hF : Foot.Sub State.readCiBell_foot F) (p : Plane) :
    Keeps F S (State.readCiBell s p) := by
  unfold State.readCiBell
  repeat' first
    | with_reducible assumption | (with_reducible refine Foot.Sub.up hF ?_; decide +kernel)
    | with_reducible apply State.modHif_keeps | with_reducible apply State.glRequest_keeps | intro x
    | with_reducible apply Keeps.ite | with_reducible exact Keeps.refl _ _ | exact Nat.le_refl _

def State.rereadBells_foot : Foot := Foot.join [State.readCmdBell_foot, State.readCiBell_foot]

theorem State.rereadBells_keeps (hs : Keeps F S s) (hF : Foot.Sub State.rereadBells_foot F) (p : Plane) :
    Keeps F S (State.rereadBells s p) := by
  unfold State.rereadBells
  repeat' first
    | with_reducible assumption | (with_reducible refine Foot.Sub.up hF ?_; decide +kernel)
    | ((first | intro x | (lift_lets; intro x))
       first
         | (refine Keeps.cut x ?_ (fun hx => ?_); rotate_left; clear_value x; rotate_left; unfold x)
         | clear_value x
         | skip)
    | with_reducible apply State.readCmdBell_keeps | with_reducible apply State.readCiBell_keeps
    | with_reducible apply Keeps.ite | with_reducible exact Keeps.refl _ _

def State.glDown_foot : Foot := Foot.join [foot [] [.HIF_LINK_STAT], State.logError_foot, State.raise_foot,
  State.modHalf_foot, State.glDetect_foot, State.setGl_foot, State.glMove_foot, State.bellsOff_foot,
  State.rereadBells_foot, State.glPump_foot]

theorem State.glDown_keeps (hs : Keeps F S s) (hF : Foot.Sub State.glDown_foot F) (h : Plane)
    (reason next : Nat) :
    Keeps F S (State.glDown s h reason next) := by
  unfold State.glDown
  repeat' first
    | with_reducible assumption | (with_reducible refine Foot.Sub.up hF ?_; decide +kernel)
    | ((first | intro x | (lift_lets; intro x))
       first
         | (refine Keeps.cut x ?_ (fun hx => ?_); rotate_left; clear_value x; rotate_left; unfold x)
         | clear_value x
         | skip)
    | with_reducible apply State.setF_keeps | with_reducible apply State.setFlag_keeps
    | with_reducible apply State.both_keeps | with_reducible apply State.logError_keeps
    | with_reducible apply State.raise_keeps | with_reducible apply State.modHalf_keeps
    | with_reducible apply State.glDetect_keeps | with_reducible apply State.setGl_keeps
    | with_reducible apply State.glMove_keeps | with_reducible apply State.bellsOff_keeps
    | with_reducible apply State.rereadBells_keeps | with_reducible apply State.glPump_keeps
    | with_reducible exact Keeps.refl _ _

def State.glHalLost_foot : Foot := Foot.join [foot [] [.HIF_LINK_STAT], State.glMove_foot, State.bellsOff_foot,
  State.rereadBells_foot, State.glPump_foot]

theorem State.glHalLost_keeps (hs : Keeps F S s) (hF : Foot.Sub State.glHalLost_foot F) (q : Plane) :
    Keeps F S (State.glHalLost s q) := by
  unfold State.glHalLost
  repeat' first
    | with_reducible assumption | (with_reducible refine Foot.Sub.up hF ?_; decide +kernel)
    | ((first | intro x | (lift_lets; intro x))
       first
         | (refine Keeps.cut x ?_ (fun hx => ?_); rotate_left; clear_value x; rotate_left; unfold x)
         | clear_value x
         | skip)
    | with_reducible apply State.setFlag_keeps | with_reducible apply State.glMove_keeps
    | with_reducible apply State.bellsOff_keeps | with_reducible apply State.rereadBells_keeps
    | with_reducible apply State.glPump_keeps | with_reducible exact Keeps.refl _ _

def State.glHalBack_foot : Foot := Foot.join [foot [] [.HIF_LINK_STAT], State.rereadBells_foot, State.glPump_foot]

theorem State.glHalBack_keeps (hs : Keeps F S s) (hF : Foot.Sub State.glHalBack_foot F) (q : Plane) :
    Keeps F S (State.glHalBack s q) := by
  unfold State.glHalBack
  repeat' first
    | with_reducible assumption | (with_reducible refine Foot.Sub.up hF ?_; decide +kernel)
    | with_reducible apply State.setFlag_keeps | with_reducible apply State.rereadBells_keeps
    | with_reducible apply State.glPump_keeps | with_reducible apply Keeps.ite
    | with_reducible exact Keeps.refl _ _

def State.viaUpdate_foot : Foot := Foot.join [foot [] [.HIF_LINK_STAT], State.glPump_foot]

theorem State.viaUpdate_keeps (hs : Keeps F S s) (hF : Foot.Sub State.viaUpdate_foot F) (q : Plane) :
    Keeps F S (State.viaUpdate s q) := by
  unfold State.viaUpdate
  repeat' first
    | with_reducible assumption | (with_reducible refine Foot.Sub.up hF ?_; decide +kernel)
    | with_reducible apply State.setFlag_keeps | with_reducible apply State.glPump_keeps | intro x
    | with_reducible apply Keeps.ite | with_reducible exact Keeps.refl _ _

def State.glUp_foot : Foot := Foot.join [foot [.free, .loose] [.HIF_LINK_STAT], State.modHalf_foot,
  State.setGl_foot, State.raise_foot, State.viaUpdate_foot, State.rereadBells_foot, State.glPump_foot]

theorem State.glUp_keeps (hs : Keeps F S s) (hF : Foot.Sub State.glUp_foot F) (h : Plane) (req : Nat) :
    Keeps F S (State.glUp s h req) := by
  unfold State.glUp
  repeat' first
    | with_reducible assumption | (with_reducible refine Foot.Sub.up hF ?_; decide +kernel)
    | ((first | intro x | (lift_lets; intro x))
       first
         | (refine Keeps.cut x ?_ (fun hx => ?_); rotate_left; clear_value x; rotate_left; unfold x)
         | clear_value x
         | skip)
    | with_reducible apply State.takeFree_keeps | with_reducible apply State.setF_keeps
    | with_reducible apply State.setFree_keeps | with_reducible apply State.setFlag_keeps
    | with_reducible apply State.both_keeps | with_reducible apply State.modHalf_keeps
    | with_reducible apply State.setGl_keeps | with_reducible apply State.raise_keeps
    | with_reducible apply State.viaUpdate_keeps | with_reducible apply State.rereadBells_keeps
    | with_reducible apply State.glPump_keeps | with_reducible apply Keeps.ite
    | with_reducible refine Keeps.snd ?_ (by assumption) | split | with_reducible exact Keeps.refl _ _

def State.glBringup_foot : Foot := Foot.join [foot [.out] [.HIF_GL_CRC], State.modHalf_foot, State.setGl_foot,
  State.glUp_foot]

theorem State.glBringup_keeps (hs : Keeps F S s) (hF : Foot.Sub State.glBringup_foot F) (h : Plane) (f : GlFlit) :
    Keeps F S (State.glBringup s h f) := by
  unfold State.glBringup
  repeat' first
    | with_reducible assumption | (with_reducible refine Foot.Sub.up hF ?_; decide +kernel)
    | ((first | intro x | (lift_lets; intro x))
       first
         | (refine Keeps.cut x ?_ (fun hx => ?_); rotate_left; clear_value x; rotate_left; unfold x)
         | clear_value x
         | skip)
    | with_reducible apply State.count_keeps | with_reducible apply State.emit_keeps
    | with_reducible apply State.modHalf_keeps | with_reducible apply State.setGl_keeps
    | with_reducible apply State.glUp_keeps | with_reducible apply Keeps.ite | split
    | with_reducible exact Keeps.refl _ _

def State.modGlLane_foot : Foot := State.modHalf_foot

theorem State.modGlLane_keeps (hs : Keeps F S s) (hF : Foot.Sub State.modGlLane_foot F) (h : Plane) (k : Nat)
    (f : LaneSt → LaneSt) :
    Keeps F S (State.modGlLane s h k f) := by
  unfold State.modGlLane
  repeat' first
    | with_reducible assumption | (with_reducible refine Foot.Sub.up hF ?_; decide +kernel)
    | with_reducible apply State.modHalf_keeps | intro x | with_reducible exact Keeps.refl _ _

def State.glTrain_foot : Foot := Foot.join [State.setGl_foot, State.modHalf_foot]

theorem State.glTrain_keeps (hs : Keeps F S s) (hF : Foot.Sub State.glTrain_foot F) (h : Plane) :
    Keeps F S (State.glTrain s h) := by
  unfold State.glTrain
  repeat' first
    | with_reducible assumption | (with_reducible refine Foot.Sub.up hF ?_; decide +kernel)
    | with_reducible apply State.setGl_keeps | with_reducible apply State.modHalf_keeps | intro x
    | with_reducible exact Keeps.refl _ _

def State.glLaneTrained_foot : Foot := Foot.join [State.modGlLane_foot, State.setGl_foot, State.modHalf_foot]

theorem State.glLaneTrained_keeps (hs : Keeps F S s) (hF : Foot.Sub State.glLaneTrained_foot F) (h : Plane)
    (k : Nat) :
    Keeps F S (State.glLaneTrained s h k) := by
  unfold State.glLaneTrained
  repeat' first
    | with_reducible assumption | (with_reducible refine Foot.Sub.up hF ?_; decide +kernel)
    | ((first | intro x | (lift_lets; intro x))
       first
         | (refine Keeps.cut x ?_ (fun hx => ?_); rotate_left; clear_value x; rotate_left; unfold x)
         | clear_value x
         | skip)
    | with_reducible apply State.modGlLane_keeps | with_reducible apply State.setGl_keeps
    | with_reducible apply State.modHalf_keeps | with_reducible apply Keeps.ite
    | with_reducible exact Keeps.refl _ _

def State.glTrainFrame_foot : Foot := Foot.join [foot [.free] [], State.modGlLane_foot, State.glLaneTrained_foot]

theorem State.glTrainFrame_keeps (hs : Keeps F S s) (hF : Foot.Sub State.glTrainFrame_foot F) (h : Plane)
    (k : Nat) (b : Bytes) (converged : Bool) :
    Keeps F S (State.glTrainFrame s h k b converged) := by
  unfold State.glTrainFrame
  repeat' first
    | with_reducible assumption | (with_reducible refine Foot.Sub.up hF ?_; decide +kernel)
    | ((first | intro x | (lift_lets; intro x))
       first
         | (refine Keeps.cut x ?_ (fun hx => ?_); rotate_left; clear_value x; rotate_left; unfold x)
         | clear_value x
         | skip)
    | with_reducible apply State.takeFree_keeps | with_reducible apply State.modGlLane_keeps
    | with_reducible apply State.glLaneTrained_keeps | with_reducible apply Keeps.ite
    | with_reducible exact Keeps.refl _ _

def State.glSendTrain_foot : Foot := Foot.join [foot [.out] [], State.glLaneTrained_foot, State.modGlLane_foot]

theorem State.glSendTrain_keeps (hs : Keeps F S s) (hF : Foot.Sub State.glSendTrain_foot F) (h : Plane)
    (k : Nat) :
    Keeps F S (State.glSendTrain s h k) := by
  unfold State.glSendTrain
  repeat' first
    | with_reducible assumption | (with_reducible refine Foot.Sub.up hF ?_; decide +kernel)
    | ((first | intro x | (lift_lets; intro x))
       first
         | (refine Keeps.cut x ?_ (fun hx => ?_); rotate_left; clear_value x; rotate_left; unfold x)
         | clear_value x
         | skip)
    | with_reducible apply State.emit_keeps | with_reducible apply State.glLaneTrained_keeps
    | with_reducible apply State.modGlLane_keeps | with_reducible apply Keeps.ite
    | with_reducible exact Keeps.refl _ _

def State.statWrite_foot : Foot := Foot.join [foot [.hif] [], State.pushLine_foot]

theorem State.statWrite_keeps (hs : Keeps F S s) (hF : Foot.Sub State.statWrite_foot F) (p : Plane) :
    Keeps F S (State.statWrite s p) := by
  unfold State.statWrite
  repeat' first
    | with_reducible assumption | (with_reducible refine Foot.Sub.up hF ?_; decide +kernel)
    | with_reducible apply State.modHif_keeps | with_reducible apply State.pushLine_keeps | intro x
    | with_reducible exact Keeps.refl _ _ | exact Nat.le_refl _

def State.intrCheck_foot : Foot := Foot.join [foot [] [.HIF_INTR_CNT], State.modRing_foot, State.statWrite_foot,
  State.glRequest_foot]

theorem State.intrCheck_keeps (hs : Keeps F S s) (hF : Foot.Sub State.intrCheck_foot F) (p : Plane) (r : Nat)
    (now : Bool) :
    Keeps F S (State.intrCheck s p r now) := by
  unfold State.intrCheck
  repeat' first
    | with_reducible assumption | (with_reducible refine Foot.Sub.up hF ?_; decide +kernel)
    | ((first | intro x | (lift_lets; intro x))
       first
         | (refine Keeps.cut x ?_ (fun hx => ?_); rotate_left; clear_value x; rotate_left; unfold x)
         | clear_value x
         | skip)
    | with_reducible apply State.count_keeps | with_reducible apply State.modRing_keeps
    | with_reducible apply State.statWrite_keeps | with_reducible apply State.glRequest_keeps
    | with_reducible apply Keeps.ite | with_reducible exact Keeps.refl _ _

def State.intrAll_foot : Foot := State.intrCheck_foot

theorem State.intrAll_keeps (hs : Keeps F S s) (hF : Foot.Sub State.intrAll_foot F) (p : Plane) :
    Keeps F S (State.intrAll s p) := by
  unfold State.intrAll
  repeat' first
    | with_reducible assumption | (with_reducible refine Foot.Sub.up hF ?_; decide +kernel)
    | with_reducible apply State.each_keeps | with_reducible apply State.intrCheck_keeps | intro x
    | with_reducible exact Keeps.refl _ _

def State.hostActive_foot : Foot := foot [.hif] []

theorem State.hostActive_keeps (hs : Keeps F S s) (hF : Foot.Sub State.hostActive_foot F) (p : Plane) :
    Keeps F S (State.hostActive s p) := by
  unfold State.hostActive
  repeat' first
    | with_reducible assumption | (with_reducible refine Foot.Sub.up hF ?_; decide +kernel)
    | ((first | intro x | (lift_lets; intro x))
       first
         | (refine Keeps.cut x ?_ (fun hx => ?_); rotate_left; clear_value x; rotate_left; unfold x)
         | clear_value x
         | skip)
    | with_reducible apply State.modHif_keeps | with_reducible exact Keeps.refl _ _ | exact Nat.le_refl _

def State.cmdDone_foot : Foot := Foot.join [foot [.hif] [.HIF_RING_IDX, .HIF_CMD_CNT], State.modRing_foot,
  State.intrCheck_foot, State.ringWrite_foot]

theorem State.cmdDone_keeps (hs : Keeps F S s) (hF : Foot.Sub State.cmdDone_foot F) (p : Plane) (op : Nat)
    (tag : BitVec 16) (intr : Bool) (status : Nat) (sIgn : Bool) (done result : Nat) :
    Keeps F S (State.cmdDone s p op tag intr status sIgn done result) := by
  unfold State.cmdDone
  repeat' first
    | with_reducible assumption | (with_reducible refine Foot.Sub.up hF ?_; decide +kernel)
    | ((first | intro x | (lift_lets; intro x))
       first
         | (refine Keeps.cut x ?_ (fun hx => ?_); rotate_left; clear_value x; rotate_left; unfold x)
         | clear_value x
         | skip)
    | with_reducible apply State.modHif_keeps | with_reducible apply State.setWord_keeps
    | with_reducible apply State.count_keeps | with_reducible apply State.modRing_keeps
    | with_reducible apply State.intrCheck_keeps | with_reducible apply State.ringWrite_keeps
    | with_reducible exact Keeps.refl _ _ | exact Nat.le_refl _

def State.cmdFlush1_foot : Foot := Foot.join [foot [.free] [], State.cmdDone_foot]

theorem State.cmdFlush1_keeps (hs : Keeps F S s) (hF : Foot.Sub State.cmdFlush1_foot F) (p : Plane) :
    Keeps F S (State.cmdFlush1 s p) := by
  unfold State.cmdFlush1
  repeat' first
    | with_reducible assumption | (with_reducible refine Foot.Sub.up hF ?_; decide +kernel)
    | ((first | intro x | (lift_lets; intro x))
       first
         | (refine Keeps.cut x ?_ (fun hx => ?_); rotate_left; clear_value x; rotate_left; unfold x)
         | clear_value x
         | skip)
    | with_reducible apply State.takeFree_keeps | with_reducible apply State.cmdDone_keeps
    | with_reducible apply Keeps.ite | with_reducible refine Keeps.snd ?_ (by assumption) | split
    | with_reducible exact Keeps.refl _ _

def State.cmdFlush_foot : Foot := State.cmdFlush1_foot

theorem State.cmdFlush_keeps (hs : Keeps F S s) (hF : Foot.Sub State.cmdFlush_foot F) (p : Plane) :
    Keeps F S (State.cmdFlush s p) := by
  unfold State.cmdFlush
  repeat' first
    | with_reducible assumption | (with_reducible refine Foot.Sub.up hF ?_; decide +kernel)
    | with_reducible apply State.each_keeps | with_reducible apply State.cmdFlush1_keeps | intro x
    | with_reducible exact Keeps.refl _ _

def State.hostFault_foot : Foot := State.raise_foot

theorem State.hostFault_keeps (hs : Keeps F S s) (hF : Foot.Sub State.hostFault_foot F) (p : Plane)
    (r cause : Nat) (addr : Nat) :
    Keeps F S (State.hostFault s p r cause addr) := by
  unfold State.hostFault
  repeat' first
    | with_reducible assumption | (with_reducible refine Foot.Sub.up hF ?_; decide +kernel)
    | with_reducible apply State.raise_keeps | with_reducible exact Keeps.refl _ _

def State.cmdBellRead_foot : Foot := Foot.join [foot [.hif] [], State.hostFault_foot, State.modRing_foot,
  State.glRequest_foot]

theorem State.cmdBellRead_keeps (hs : Keeps F S s) (hF : Foot.Sub State.cmdBellRead_foot F) (p : Plane) :
    Keeps F S (State.cmdBellRead s p) := by
  unfold State.cmdBellRead
  repeat' first
    | with_reducible assumption | (with_reducible refine Foot.Sub.up hF ?_; decide +kernel)
    | ((first | intro x | (lift_lets; intro x))
       first
         | (refine Keeps.cut x ?_ (fun hx => ?_); rotate_left; clear_value x; rotate_left; unfold x)
         | clear_value x
         | skip)
    | with_reducible apply State.modHif_keeps | with_reducible apply State.each_keeps
    | with_reducible apply State.hostFault_keeps | with_reducible apply State.modRing_keeps
    | with_reducible apply State.glRequest_keeps | with_reducible apply Keeps.ite
    | with_reducible exact Keeps.refl _ _ | exact Nat.le_refl _

def State.ciBellRead_foot : Foot := Foot.join [foot [.hif] [], State.modRing_foot, State.hostActive_foot,
  State.intrAll_foot, State.cmdFlush_foot, State.evtPump_foot]

theorem State.ciBellRead_keeps (hs : Keeps F S s) (hF : Foot.Sub State.ciBellRead_foot F) (p : Plane) :
    Keeps F S (State.ciBellRead s p) := by
  unfold State.ciBellRead
  repeat' first
    | with_reducible assumption | (with_reducible refine Foot.Sub.up hF ?_; decide +kernel)
    | ((first | intro x | (lift_lets; intro x))
       first
         | (refine Keeps.cut x ?_ (fun hx => ?_); rotate_left; clear_value x; rotate_left; unfold x)
         | clear_value x
         | skip)
    | with_reducible apply State.each_keeps | with_reducible apply State.modHif_keeps
    | with_reducible apply State.modRing_keeps | with_reducible apply State.hostActive_keeps
    | with_reducible apply State.intrAll_keeps | with_reducible apply State.cmdFlush_keeps
    | with_reducible apply State.evtPump_keeps | with_reducible apply Keeps.ite
    | with_reducible exact Keeps.refl _ _ | exact Nat.le_refl _

def State.ringEnable_foot : Foot := Foot.join [foot [.hif] [.HIF_CTL, .HIF_RING_IDX], State.modRing_foot,
  State.evtPump_foot, State.rereadBells_foot]

theorem State.ringEnable_keeps (hs : Keeps F S s) (hF : Foot.Sub State.ringEnable_foot F) (p : Plane) (r : Nat) :
    Keeps F S (State.ringEnable s p r) := by
  unfold State.ringEnable
  repeat' first
    | with_reducible assumption | (with_reducible refine Foot.Sub.up hF ?_; decide +kernel)
    | ((first | intro x | (lift_lets; intro x))
       first
         | (refine Keeps.cut x ?_ (fun hx => ?_); rotate_left; clear_value x; rotate_left; unfold x)
         | clear_value x
         | skip)
    | with_reducible apply State.setF_keeps | with_reducible apply State.setWord_keeps
    | with_reducible apply State.modHif_keeps | with_reducible apply State.modRing_keeps
    | with_reducible apply State.evtPump_keeps | with_reducible apply State.rereadBells_keeps
    | with_reducible apply Keeps.ite | with_reducible exact Keeps.refl _ _ | exact Nat.le_refl _

def State.releaseBells_foot : Foot := Foot.join [foot [.hif] [], State.glRequest_foot]

theorem State.releaseBells_keeps (hs : Keeps F S s) (hF : Foot.Sub State.releaseBells_foot F) (p : Plane) :
    Keeps F S (State.releaseBells s p) := by
  unfold State.releaseBells
  repeat' first
    | with_reducible assumption | (with_reducible refine Foot.Sub.up hF ?_; decide +kernel)
    | ((first | intro x | (lift_lets; intro x))
       first
         | (refine Keeps.cut x ?_ (fun hx => ?_); rotate_left; clear_value x; rotate_left; unfold x)
         | clear_value x
         | skip)
    | with_reducible apply State.modHif_keeps | with_reducible apply State.glRequest_keeps
    | with_reducible apply Keeps.ite | with_reducible exact Keeps.refl _ _ | exact Nat.le_refl _

def State.ringDisable_foot : Foot := Foot.join [foot [] [.HIF_CTL], State.cmdFlush_foot, State.releaseBells_foot]

theorem State.ringDisable_keeps (hs : Keeps F S s) (hF : Foot.Sub State.ringDisable_foot F) (p : Plane)
    (r : Nat) :
    Keeps F S (State.ringDisable s p r) := by
  unfold State.ringDisable
  repeat' first
    | with_reducible assumption | (with_reducible refine Foot.Sub.up hF ?_; decide +kernel)
    | ((first | intro x | (lift_lets; intro x))
       first
         | (refine Keeps.cut x ?_ (fun hx => ?_); rotate_left; clear_value x; rotate_left; unfold x)
         | clear_value x
         | skip)
    | with_reducible apply State.setF_keeps | with_reducible apply State.cmdFlush_keeps
    | with_reducible apply State.releaseBells_keeps | with_reducible apply Keeps.ite
    | with_reducible exact Keeps.refl _ _

def State.hifCtl_foot : Foot := Foot.join [State.ringEnable_foot, State.ringDisable_foot]

theorem State.hifCtl_keeps (hs : Keeps F S s) (hF : Foot.Sub State.hifCtl_foot F) (p : Plane) (en : Nat) :
    Keeps F S (State.hifCtl s p en) := by
  unfold State.hifCtl
  repeat' first
    | with_reducible assumption | (with_reducible refine Foot.Sub.up hF ?_; decide +kernel)
    | with_reducible apply State.each_keeps | with_reducible apply State.ringEnable_keeps
    | with_reducible apply State.ringDisable_keeps | intro x | with_reducible apply Keeps.ite
    | with_reducible exact Keeps.refl _ _

def State.funcMode_foot : Foot := Foot.join [foot [] [.HIF_FUNC_MODE], State.raise_foot]

theorem State.funcMode_keeps (hs : Keeps F S s) (hF : Foot.Sub State.funcMode_foot F) (p : Plane)
    (v cause : Nat) :
    Keeps F S (State.funcMode s p v cause) := by
  unfold State.funcMode
  repeat' first
    | with_reducible assumption | (with_reducible refine Foot.Sub.up hF ?_; decide +kernel)
    | ((first | intro x | (lift_lets; intro x))
       first
         | (refine Keeps.cut x ?_ (fun hx => ?_); rotate_left; clear_value x; rotate_left; unfold x)
         | clear_value x
         | skip)
    | with_reducible apply State.setF_keeps | with_reducible apply State.each_keeps
    | with_reducible apply State.raise_keeps | with_reducible exact Keeps.refl _ _

def State.answered_foot : Foot := Foot.join [foot [.hif] [], State.viaUpdate_foot]

theorem State.answered_keeps (hs : Keeps F S s) (hF : Foot.Sub State.answered_foot F) (q : Plane) (r : GlReq) :
    Keeps F S (State.answered s q r) := by
  unfold State.answered
  repeat' first
    | with_reducible assumption | (with_reducible refine Foot.Sub.up hF ?_; decide +kernel)
    | with_reducible apply State.modHif_keeps | with_reducible apply State.viaUpdate_keeps | intro x
    | with_reducible exact Keeps.refl _ _ | exact Nat.le_refl _

def State.readFault_foot : Foot := Foot.join [foot [] [.HIF_HOST_FAULT], State.hostFault_foot]

theorem State.readFault_keeps (hs : Keeps F S s) (hF : Foot.Sub State.readFault_foot F) (q : Plane) (r : GlReq)
    (ring : Nat) :
    Keeps F S (State.readFault s q r ring) := by
  unfold State.readFault
  repeat' first
    | with_reducible assumption | (with_reducible refine Foot.Sub.up hF ?_; decide +kernel)
    | with_reducible apply State.count_keeps | with_reducible apply State.hostFault_keeps
    | with_reducible exact Keeps.refl _ _

def State.dataCmdBell_foot : Foot := Foot.join [foot [.hif] [], State.answered_foot, State.cmdBellRead_foot,
  State.releaseBells_foot, State.readFault_foot]

theorem State.dataCmdBell_keeps (hs : Keeps F S s) (hF : Foot.Sub State.dataCmdBell_foot F) (q : Plane)
    (r : GlReq) (ok : Bool) (line : Bytes) :
    Keeps F S (State.dataCmdBell s q r ok line) := by
  unfold State.dataCmdBell
  repeat' first
    | with_reducible assumption | (with_reducible refine Foot.Sub.up hF ?_; decide +kernel)
    | ((first | intro x | (lift_lets; intro x))
       first
         | (refine Keeps.cut x ?_ (fun hx => ?_); rotate_left; clear_value x; rotate_left; unfold x)
         | clear_value x
         | skip)
    | with_reducible apply State.modHif_keeps | with_reducible apply State.answered_keeps
    | with_reducible apply State.cmdBellRead_keeps | with_reducible apply State.releaseBells_keeps
    | with_reducible apply State.readFault_keeps | with_reducible apply Keeps.ite
    | with_reducible exact Keeps.refl _ _ | exact Nat.le_refl _

def State.dataCiBell_foot : Foot := Foot.join [foot [.hif] [], State.answered_foot, State.ciBellRead_foot,
  State.releaseBells_foot, State.readFault_foot]

theorem State.dataCiBell_keeps (hs : Keeps F S s) (hF : Foot.Sub State.dataCiBell_foot F) (q : Plane)
    (r : GlReq) (ok : Bool) (line : Bytes) :
    Keeps F S (State.dataCiBell s q r ok line) := by
  unfold State.dataCiBell
  repeat' first
    | with_reducible assumption | (with_reducible refine Foot.Sub.up hF ?_; decide +kernel)
    | ((first | intro x | (lift_lets; intro x))
       first
         | (refine Keeps.cut x ?_ (fun hx => ?_); rotate_left; clear_value x; rotate_left; unfold x)
         | clear_value x
         | skip)
    | with_reducible apply State.modHif_keeps | with_reducible apply State.answered_keeps
    | with_reducible apply State.ciBellRead_keeps | with_reducible apply State.releaseBells_keeps
    | with_reducible apply State.readFault_keeps | with_reducible apply Keeps.ite
    | with_reducible exact Keeps.refl _ _ | exact Nat.le_refl _

def State.dataDescr_foot : Foot := Foot.join [foot [.hif] [], State.answered_foot, State.cmdFlush_foot,
  State.readFault_foot]

theorem State.dataDescr_keeps (hs : Keeps F S s) (hF : Foot.Sub State.dataDescr_foot F) (q : Plane) (r : GlReq)
    (i : Word) (ok : Bool) (line : Bytes) :
    Keeps F S (State.dataDescr s q r i ok line) := by
  unfold State.dataDescr
  repeat' first
    | with_reducible assumption | (with_reducible refine Foot.Sub.up hF ?_; decide +kernel)
    | ((first | intro x | (lift_lets; intro x))
       first
         | (refine Keeps.cut x ?_ (fun hx => ?_); rotate_left; clear_value x; rotate_left; unfold x)
         | clear_value x
         | skip)
    | with_reducible apply State.modHif_keeps | with_reducible apply State.answered_keeps
    | with_reducible apply State.cmdFlush_keeps | with_reducible apply State.readFault_keeps
    | with_reducible apply Keeps.ite | with_reducible exact Keeps.refl _ _ | exact Nat.le_refl _

def State.lineAnswer_foot : Foot := Foot.join [foot [.hif] [], State.answered_foot, State.readFault_foot]

theorem State.lineAnswer_keeps (hs : Keeps F S s) (hF : Foot.Sub State.lineAnswer_foot F) (q : Plane)
    (r : GlReq) (ok : Bool) :
    Keeps F S (State.lineAnswer s q r ok) := by
  unfold State.lineAnswer
  repeat' first
    | with_reducible assumption | (with_reducible refine Foot.Sub.up hF ?_; decide +kernel)
    | ((first | intro x | (lift_lets; intro x))
       first
         | (refine Keeps.cut x ?_ (fun hx => ?_); rotate_left; clear_value x; rotate_left; unfold x)
         | clear_value x
         | skip)
    | with_reducible apply State.modHif_keeps | with_reducible apply State.answered_keeps
    | with_reducible apply State.readFault_keeps | with_reducible apply Keeps.ite
    | with_reducible exact Keeps.refl _ _ | exact Nat.le_refl _

def State.glData_foot : Foot := Foot.join [State.dataCmdBell_foot, State.dataCiBell_foot, State.dataDescr_foot,
  State.lineAnswer_foot]

theorem State.glData_keeps (hs : Keeps F S s) (hF : Foot.Sub State.glData_foot F) (h : Plane) (m : GlMsg) :
    Keeps F S (State.glData s h m) := by
  unfold State.glData
  generalize s.answering h m.mtag = a
  rcases a with _ | ⟨q, r⟩
  · exact hs
  · dsimp only
    generalize r.what = k
    cases k
    case cmdBell => exact State.dataCmdBell_keeps hs (hF.up (by decide +kernel)) ..
    case ciBell => exact State.dataCiBell_keeps hs (hF.up (by decide +kernel)) ..
    case descr i => exact State.dataDescr_keeps hs (hF.up (by decide +kernel)) ..
    case dataLine => exact State.lineAnswer_keeps hs (hF.up (by decide +kernel)) ..
    all_goals exact hs

def State.glCmp_foot : Foot := Foot.join [State.readFault_foot, State.answered_foot, State.ringPump_foot,
  State.modRing_foot, State.intrAll_foot, State.lineAnswer_foot]

theorem State.glCmp_keeps (hs : Keeps F S s) (hF : Foot.Sub State.glCmp_foot F) (h : Plane) (m : GlMsg) :
    Keeps F S (State.glCmp s h m) := by
  unfold State.glCmp
  repeat' first
    | with_reducible assumption | (with_reducible refine Foot.Sub.up hF ?_; decide +kernel)
    | ((first | intro x | (lift_lets; intro x))
       first
         | (refine Keeps.cut x ?_ (fun hx => ?_); rotate_left; clear_value x; rotate_left; unfold x)
         | (refine Keeps.cutF x ?_ (fun hx => ?_); rotate_left; clear_value x; rotate_left; unfold x)
         | (refine Keeps.cutG x ?_ (fun hx => ?_); rotate_left; clear_value x; rotate_left; unfold x)
         | (refine Keeps.cutH x ?_ (fun hx => ?_); rotate_left; clear_value x; rotate_left; unfold x)
         | clear_value x
         | skip)
    | with_reducible apply State.readFault_keeps | with_reducible apply State.answered_keeps
    | with_reducible apply State.ringPump_keeps | with_reducible apply State.modRing_keeps
    | with_reducible apply State.intrAll_keeps | with_reducible apply State.lineAnswer_keeps
    | with_reducible refine Keeps.appF ?_ (by assumption) | with_reducible refine Keeps.appG ?_ (by assumption)
    | with_reducible refine Keeps.appH ?_ (by assumption) | with_reducible apply Keeps.ite | split
    | with_reducible exact Keeps.refl _ _ | dsimp only

def State.snpInv_foot : Foot := Foot.join [foot [.hif] [], State.glOut_foot, State.modHalf_foot,
  State.hostActive_foot, State.glRequest_foot]

theorem State.snpInv_keeps (hs : Keeps F S s) (hF : Foot.Sub State.snpInv_foot F) (h : Plane) (m : GlMsg) :
    Keeps F S (State.snpInv s h m) := by
  unfold State.snpInv
  repeat' first
    | with_reducible assumption | (with_reducible refine Foot.Sub.up hF ?_; decide +kernel)
    | ((first | intro x | (lift_lets; intro x))
       first
         | (refine Keeps.cut x ?_ (fun hx => ?_); rotate_left; clear_value x; rotate_left; unfold x)
         | clear_value x
         | skip)
    | with_reducible apply State.both_keeps | with_reducible apply State.modHif_keeps
    | with_reducible apply State.glOut_keeps | with_reducible apply State.modHalf_keeps
    | with_reducible apply State.hostActive_keeps | with_reducible apply State.glRequest_keeps
    | with_reducible apply Keeps.ite | with_reducible exact Keeps.refl _ _ | exact Nat.le_refl _

def State.glAck_foot : Foot := Foot.join [foot [.out] [.HIF_GL_REPLAY], State.modHalf_foot, State.glDrain_foot,
  State.glDown_foot]

theorem State.glAck_keeps (hs : Keeps F S s) (hF : Foot.Sub State.glAck_foot F) (h : Plane) (ack : BitVec 12)
    (nak : Bool) :
    Keeps F S (State.glAck s h ack nak) := by
  unfold State.glAck
  repeat' first
    | with_reducible assumption | (with_reducible refine Foot.Sub.up hF ?_; decide +kernel)
    | ((first | intro x | (lift_lets; intro x))
       first
         | (refine Keeps.cut x ?_ (fun hx => ?_); rotate_left; clear_value x; rotate_left; unfold x)
         | clear_value x
         | skip)
    | with_reducible apply State.countN_keeps | with_reducible apply State.each_keeps
    | with_reducible apply State.emit_keeps | with_reducible apply State.modHalf_keeps
    | with_reducible apply State.glDrain_keeps | with_reducible apply State.glDown_keeps
    | with_reducible apply Keeps.ite | with_reducible exact Keeps.refl _ _

def execGlDetectSense_foot : Foot := Foot.join [State.modHalf_foot, State.glTrain_foot]

theorem execGlDetectSense_keeps (hF : Foot.Sub execGlDetectSense_foot F) (half : Plane) (mask : Byte)
    (s : State) :
    ∃ t', execGlDetectSense half mask s = .next t' ∧ Keeps F s t' := by
  unfold execGlDetectSense
  refine ⟨_, rfl, ?_⟩
  repeat' first
    | with_reducible assumption | (with_reducible refine Foot.Sub.up hF ?_; decide +kernel)
    | ((first | intro x | (lift_lets; intro x))
       first
         | (refine Keeps.cut x ?_ (fun hx => ?_); rotate_left; clear_value x; rotate_left; unfold x)
         | clear_value x
         | skip)
    | with_reducible apply State.when_keeps | with_reducible apply State.modHalf_keeps
    | with_reducible apply State.glTrain_keeps | with_reducible apply Keeps.ite
    | with_reducible exact Keeps.refl _ _

def execGlStageTimeout_foot : Foot := State.glFail_foot

theorem execGlStageTimeout_keeps (hF : Foot.Sub execGlStageTimeout_foot F) (half : Plane) (s : State) :
    ∃ t', execGlStageTimeout half s = .next t' ∧ Keeps F s t' := by
  unfold execGlStageTimeout
  refine ⟨_, rfl, ?_⟩
  repeat' first
    | with_reducible assumption | (with_reducible refine Foot.Sub.up hF ?_; decide +kernel)
    | ((first | intro x | (lift_lets; intro x))
       first
         | (refine Keeps.cut x ?_ (fun hx => ?_); rotate_left; clear_value x; rotate_left; unfold x)
         | clear_value x
         | skip)
    | with_reducible apply State.when_keeps | with_reducible apply State.glFail_keeps
    | with_reducible exact Keeps.refl _ _

def execGlInitFlit_foot : Foot := State.glBringup_foot

theorem execGlInitFlit_keeps (hF : Foot.Sub execGlInitFlit_foot F) (half : Plane) (f : GlFlit) (s : State) :
    ∃ t', execGlInitFlit half f s = .next t' ∧ Keeps F s t' := by
  unfold execGlInitFlit
  refine ⟨_, rfl, ?_⟩
  repeat' first
    | with_reducible assumption | (with_reducible refine Foot.Sub.up hF ?_; decide +kernel)
    | with_reducible apply State.when_keeps | with_reducible apply State.glBringup_keeps | intro x
    | with_reducible exact Keeps.refl _ _

def State.glLaneFail_foot : Foot := Foot.join [foot [] [.HIF_LINK_STAT], State.modHalf_foot, State.glDown_foot]

theorem State.glLaneFail_keeps (hs : Keeps F S s) (hF : Foot.Sub State.glLaneFail_foot F) (h : Plane)
    (lane : Nat) :
    Keeps F S (State.glLaneFail s h lane) := by
  unfold State.glLaneFail
  repeat' first
    | with_reducible assumption | (with_reducible refine Foot.Sub.up hF ?_; decide +kernel)
    | ((first | intro x | (lift_lets; intro x))
       first
         | (refine Keeps.cut x ?_ (fun hx => ?_); rotate_left; clear_value x; rotate_left; unfold x)
         | clear_value x
         | skip)
    | with_reducible apply State.setF_keeps | with_reducible apply State.modHalf_keeps
    | with_reducible apply State.glDown_keeps | with_reducible apply Keeps.ite
    | with_reducible exact Keeps.refl _ _

def execGlLaneFail_foot : Foot := State.glLaneFail_foot

theorem execGlLaneFail_keeps (hF : Foot.Sub execGlLaneFail_foot F) (half : Plane) (lane : Fin 8) (s : State) :
    ∃ t', execGlLaneFail half lane s = .next t' ∧ Keeps F s t' := by
  unfold execGlLaneFail
  refine ⟨_, rfl, ?_⟩
  repeat' first
    | with_reducible assumption | (with_reducible refine Foot.Sub.up hF ?_; decide +kernel)
    | with_reducible apply State.when_keeps | with_reducible apply State.glLaneFail_keeps | intro x
    | with_reducible exact Keeps.refl _ _

def execGlHalfDown_foot : Foot := State.glDown_foot

theorem execGlHalfDown_keeps (hF : Foot.Sub execGlHalfDown_foot F) (half : Plane) (s : State) :
    ∃ t', execGlHalfDown half s = .next t' ∧ Keeps F s t' := by
  unfold execGlHalfDown
  refine ⟨_, rfl, ?_⟩
  repeat' first
    | with_reducible assumption | (with_reducible refine Foot.Sub.up hF ?_; decide +kernel)
    | with_reducible apply State.when_keeps | with_reducible apply State.glDown_keeps | intro x
    | with_reducible exact Keeps.refl _ _

def State.glRetrain_foot : Foot := Foot.join [State.glDown_foot, State.glDetect_foot, State.modHalf_foot]

theorem State.glRetrain_keeps (hs : Keeps F S s) (hF : Foot.Sub State.glRetrain_foot F) (h : Plane) :
    Keeps F S (State.glRetrain s h) := by
  unfold State.glRetrain
  repeat' first
    | with_reducible assumption | (with_reducible refine Foot.Sub.up hF ?_; decide +kernel)
    | ((first | intro x | (lift_lets; intro x))
       first
         | (refine Keeps.cut x ?_ (fun hx => ?_); rotate_left; clear_value x; rotate_left; unfold x)
         | clear_value x
         | skip)
    | with_reducible apply State.glDown_keeps | with_reducible apply State.glDetect_keeps
    | with_reducible apply State.modHalf_keeps | with_reducible apply Keeps.ite
    | with_reducible exact Keeps.refl _ _

def execGlRetrain_foot : Foot := State.glRetrain_foot

theorem execGlRetrain_keeps (hF : Foot.Sub execGlRetrain_foot F) (half : Plane) (s : State) :
    ∃ t', execGlRetrain half s = .next t' ∧ Keeps F s t' := by
  unfold execGlRetrain
  refine ⟨_, rfl, ?_⟩
  repeat' first
    | with_reducible assumption | (with_reducible refine Foot.Sub.up hF ?_; decide +kernel)
    | with_reducible apply State.when_keeps | with_reducible apply State.glRetrain_keeps | intro x
    | with_reducible exact Keeps.refl _ _

def State.glEn_foot : Foot := Foot.join [foot [] [.HIF_LINK_CFG], State.glDown_foot, State.glDetect_foot,
  State.setGl_foot]

theorem State.glEn_keeps (hs : Keeps F S s) (hF : Foot.Sub State.glEn_foot F) (h : Plane) (en : Bool) :
    Keeps F S (State.glEn s h en) := by
  unfold State.glEn
  repeat' first
    | with_reducible assumption | (with_reducible refine Foot.Sub.up hF ?_; decide +kernel)
    | ((first | intro x | (lift_lets; intro x))
       first
         | (refine Keeps.cut x ?_ (fun hx => ?_); rotate_left; clear_value x; rotate_left; unfold x)
         | clear_value x
         | skip)
    | with_reducible apply State.setFlag_keeps | with_reducible apply State.glDown_keeps
    | with_reducible apply State.glDetect_keeps | with_reducible apply State.setGl_keeps
    | with_reducible apply Keeps.ite | with_reducible exact Keeps.refl _ _

def execTrainingFrame_foot : Foot := Foot.join [State.startRestore_foot, State.trainFrame_foot,
  State.glTrainFrame_foot]

theorem execTrainingFrame_keeps (hF : Foot.Sub execTrainingFrame_foot F) (p : Plane) (lane : Fin 584)
    (bytes : Bytes) (converged : Bool) (s : State) :
    ∃ t', execTrainingFrame p lane bytes converged s = .next t' ∧ Keeps F s t' := by
  unfold execTrainingFrame
  refine ⟨_, rfl, ?_⟩
  repeat' first
    | with_reducible assumption | (with_reducible refine Foot.Sub.up hF ?_; decide +kernel)
    | ((first | intro x | (lift_lets; intro x))
       first
         | (refine Keeps.cut x ?_ (fun hx => ?_); rotate_left; clear_value x; rotate_left; unfold x)
         | clear_value x
         | skip)
    | with_reducible apply State.when_keeps | with_reducible apply State.onLane_keeps
    | with_reducible apply State.startRestore_keeps | with_reducible apply State.trainFrame_keeps
    | with_reducible apply State.glTrainFrame_keeps | with_reducible apply Keeps.ite
    | with_reducible exact Keeps.refl _ _

def execTrainingFrameSend_foot : Foot := Foot.join [State.sendTrain_foot, State.glSendTrain_foot]

theorem execTrainingFrameSend_keeps (hF : Foot.Sub execTrainingFrameSend_foot F) (p : Plane) (lane : Fin 584)
    (s : State) :
    ∃ t', execTrainingFrameSend p lane s = .next t' ∧ Keeps F s t' := by
  unfold execTrainingFrameSend
  refine ⟨_, rfl, ?_⟩
  repeat' first
    | with_reducible assumption | (with_reducible refine Foot.Sub.up hF ?_; decide +kernel)
    | with_reducible apply State.when_keeps | with_reducible apply State.onLane_keeps
    | with_reducible apply State.sendTrain_keeps | with_reducible apply State.glSendTrain_keeps | intro x
    | with_reducible apply Keeps.ite | with_reducible exact Keeps.refl _ _

def execSnpInv_foot : Foot := State.snpInv_foot

theorem execSnpInv_keeps (hF : Foot.Sub execSnpInv_foot F) (half : Plane) (m : GlMsg) (s : State) :
    ∃ t', execSnpInv half m s = .next t' ∧ Keeps F s t' := by
  unfold execSnpInv
  refine ⟨_, rfl, ?_⟩
  repeat' first
    | with_reducible assumption | (with_reducible refine Foot.Sub.up hF ?_; decide +kernel)
    | with_reducible apply State.when_keeps | with_reducible apply State.snpInv_keeps | intro x
    | with_reducible exact Keeps.refl _ _

def execRingEnable_foot : Foot := State.ringEnable_foot

theorem execRingEnable_keeps (hF : Foot.Sub execRingEnable_foot F) (p : Plane) (r : Ring) (s : State) :
    ∃ t', execRingEnable p r s = .next t' ∧ Keeps F s t' := by
  unfold execRingEnable
  refine ⟨_, rfl, ?_⟩
  repeat' first
    | with_reducible assumption | (with_reducible refine Foot.Sub.up hF ?_; decide +kernel)
    | with_reducible apply State.when_keeps | with_reducible apply State.ringEnable_keeps | intro x
    | with_reducible exact Keeps.refl _ _

def execRingDisable_foot : Foot := State.ringDisable_foot

theorem execRingDisable_keeps (hF : Foot.Sub execRingDisable_foot F) (p : Plane) (r : Ring) (s : State) :
    ∃ t', execRingDisable p r s = .next t' ∧ Keeps F s t' := by
  unfold execRingDisable
  refine ⟨_, rfl, ?_⟩
  repeat' first
    | with_reducible assumption | (with_reducible refine Foot.Sub.up hF ?_; decide +kernel)
    | with_reducible apply State.when_keeps | with_reducible apply State.ringDisable_keeps | intro x
    | with_reducible exact Keeps.refl _ _

def execStatusLineWrite_foot : Foot := State.statWrite_foot

theorem execStatusLineWrite_keeps (hF : Foot.Sub execStatusLineWrite_foot F) (p : Plane) (s : State) :
    ∃ t', execStatusLineWrite p s = .next t' ∧ Keeps F s t' := by
  unfold execStatusLineWrite
  refine ⟨_, rfl, ?_⟩
  repeat' first
    | with_reducible assumption | (with_reducible refine Foot.Sub.up hF ?_; decide +kernel)
    | with_reducible apply State.when_keeps | with_reducible apply State.statWrite_keeps | intro x
    | with_reducible exact Keeps.refl _ _

def execIntrCoalesce_foot : Foot := State.intrCheck_foot

theorem execIntrCoalesce_keeps (hF : Foot.Sub execIntrCoalesce_foot F) (p : Plane) (r : Ring) (s : State) :
    ∃ t', execIntrCoalesce p r s = .next t' ∧ Keeps F s t' := by
  unfold execIntrCoalesce
  refine ⟨_, rfl, ?_⟩
  repeat' first
    | with_reducible assumption | (with_reducible refine Foot.Sub.up hF ?_; decide +kernel)
    | with_reducible apply State.when_keeps | with_reducible apply State.intrCheck_keeps | intro x
    | with_reducible exact Keeps.refl _ _

def execEventRaise_foot : Foot := State.raise_foot

theorem execEventRaise_keeps (hF : Foot.Sub execEventRaise_foot F) (p : Plane) (code : BitVec 16) (unit : Word)
    (args : List Word) (s : State) :
    ∃ t', execEventRaise p code unit args s = .next t' ∧ Keeps F s t' := by
  unfold execEventRaise
  refine ⟨_, rfl, ?_⟩
  repeat' first
    | with_reducible assumption | (with_reducible refine Foot.Sub.up hF ?_; decide +kernel)
    | with_reducible apply State.when_keeps | with_reducible apply State.raise_keeps | intro x
    | with_reducible exact Keeps.refl _ _

def execEvtHoldEnd_foot : Foot := Foot.join [foot [.hif] [], State.evtStore_foot]

theorem execEvtHoldEnd_keeps (hF : Foot.Sub execEvtHoldEnd_foot F) (p : Plane) (code : BitVec 16) (unit : Word)
    (s : State) :
    ∃ t', execEvtHoldEnd p code unit s = .next t' ∧ Keeps F s t' := by
  unfold execEvtHoldEnd
  refine ⟨_, rfl, ?_⟩
  repeat' first
    | with_reducible assumption | (with_reducible refine Foot.Sub.up hF ?_; decide +kernel)
    | ((first | intro x | (lift_lets; intro x))
       first
         | (refine Keeps.cut x ?_ (fun hx => ?_); rotate_left; clear_value x; rotate_left; unfold x)
         | clear_value x
         | skip)
    | with_reducible apply State.when_keeps | with_reducible apply State.modHif_keeps
    | with_reducible apply State.evtStore_keeps | with_reducible apply Keeps.ite | split
    | with_reducible exact Keeps.refl _ _ | exact Nat.le_refl _

def execFuncModeWrite_foot : Foot := State.funcMode_foot

theorem execFuncModeWrite_keeps (hF : Foot.Sub execFuncModeWrite_foot F) (p : Plane) (v : Word) (s : State) :
    ∃ t', execFuncModeWrite p v s = .next t' ∧ Keeps F s t' := by
  unfold execFuncModeWrite
  refine ⟨_, rfl, ?_⟩
  repeat' first
    | with_reducible assumption | (with_reducible refine Foot.Sub.up hF ?_; decide +kernel)
    | with_reducible apply State.when_keeps | with_reducible apply State.funcMode_keeps | intro x
    | with_reducible exact Keeps.refl _ _

end Sys2Proof.Machine
end

