-- ==== Sys2Proof/Laws/KeepCantonBase.lean ====
section
/-! SUPPORT. `Keeps` of the definitions of Machine/CantonBase.lean, each with its footprint. -/

namespace Sys2Proof.Machine

set_option Elab.async false

variable {F : Foot} {S s : State}

def State.showLevel_foot : Foot := foot [] [.TOP_CLK_STAT, .CAN_PWR_STAT]

theorem State.showLevel_keeps (hs : Keeps F S s) (hF : Foot.Sub State.showLevel_foot F) :
    Keeps F S (State.showLevel s) := by
  unfold State.showLevel
  repeat' first
    | with_reducible assumption | (with_reducible refine Foot.Sub.up hF ?_; decide +kernel)
    | ((first | intro x | (lift_lets; intro x))
       first
         | (refine Keeps.cut x ?_ (fun hx => ?_); rotate_left; clear_value x; rotate_left; unfold x)
         | clear_value x
         | skip)
    | with_reducible apply State.both_keeps | with_reducible apply State.setF_keeps
    | with_reducible apply State.bothF_keeps | with_reducible apply Keeps.ite | with_reducible exact Keeps.refl _ _

def State.unmeet_foot : Foot := Foot.join [foot [.can] [.CAN_PWR_STAT], State.showLevel_foot, State.hwEvent_foot]

theorem State.unmeet_keeps (hs : Keeps F S s) (hF : Foot.Sub State.unmeet_foot F) (p : Plane) (ps : List Plane) :
    Keeps F S (State.unmeet s p ps) := by
  unfold State.unmeet
  repeat' first
    | with_reducible assumption | (with_reducible refine Foot.Sub.up hF ?_; decide +kernel)
    | ((first | intro x | (lift_lets; intro x))
       first
         | (refine Keeps.cut x ?_ (fun hx => ?_); rotate_left; clear_value x; rotate_left; unfold x)
         | clear_value x
         | skip)
    | with_reducible apply State.each_keeps | with_reducible apply State.modCan_keeps
    | with_reducible apply State.showLevel_keeps | with_reducible apply State.pkgF_keeps
    | with_reducible apply State.hwEvent_keeps | with_reducible apply Keeps.ite
    | with_reducible exact Keeps.refl _ _

def State.setCap_foot : Foot := Foot.join [State.journalAdd_foot, State.unmeet_foot]

theorem State.setCap_keeps (hs : Keeps F S s) (hF : Foot.Sub State.setCap_foot F) (p : Plane) (f : Fld)
    (w : Nat) (hf : Foot.Sub f.reg.foot F) :
    Keeps F S (State.setCap s p f w) := by
  unfold State.setCap
  repeat' first
    | with_reducible assumption | (with_reducible refine Foot.Sub.up hF ?_; decide +kernel)
    | ((first | intro x | (lift_lets; intro x))
       first
         | (refine Keeps.cut x ?_ (fun hx => ?_); rotate_left; clear_value x; rotate_left; unfold x)
         | clear_value x
         | skip)
    | with_reducible apply State.journalAdd_keeps | with_reducible apply State.pkgF_keeps
    | with_reducible apply State.unmeet_keeps | with_reducible apply Keeps.ite
    | with_reducible exact Keeps.refl _ _

def State.pwrOff_foot : Foot := foot [.out, .pkg] []

theorem State.pwrOff_keeps (hs : Keeps F S s) (hF : Foot.Sub State.pwrOff_foot F) (on : Bool) :
    Keeps F S (State.pwrOff s on) := by
  unfold State.pwrOff
  repeat' first
    | with_reducible assumption | (with_reducible refine Foot.Sub.up hF ?_; decide +kernel)
    | with_reducible apply State.emit_keeps | with_reducible apply State.modPkg_keeps | intro x
    | with_reducible apply Keeps.ite | with_reducible exact Keeps.refl _ _

end Sys2Proof.Machine
end

