-- ==== Sys2Proof/Laws/KeepUnits.lean ====
section
/-! SUPPORT. `Keeps` of the definitions of Machine/Units.lean, each with its footprint. -/

namespace Sys2Proof.Machine

set_option Elab.async false

variable {F : Foot} {S s : State}

def State.freezePlane_foot : Foot := Foot.join [foot [.epc] [.EPC_FREEZE_STAT, .EPC_FREEZE_TIME],
  State.lasersOff_foot]

theorem State.freezePlane_keeps (hs : Keeps F S s) (hF : Foot.Sub State.freezePlane_foot F) (p : Plane)
    (source : Nat) :
    Keeps F S (State.freezePlane s p source) := by
  unfold State.freezePlane
  repeat' first
    | with_reducible assumption | (with_reducible refine Foot.Sub.up hF ?_; decide +kernel)
    | ((first | intro x | (lift_lets; intro x))
       first
         | (refine Keeps.cut x ?_ (fun hx => ?_); rotate_left; clear_value x; rotate_left; unfold x)
         | clear_value x
         | skip)
    | with_reducible apply State.setFlag_keeps | with_reducible apply State.setF_keeps
    | with_reducible apply State.setWords_keeps | with_reducible apply State.modEpc_keeps
    | with_reducible apply State.lasersOff_keeps | with_reducible apply Keeps.ite
    | with_reducible exact Keeps.refl _ _

def State.freezeCodes_foot : Foot := foot [.out] []

theorem State.freezeCodes_keeps (hs : Keeps F S s) (hF : Foot.Sub State.freezeCodes_foot F) (l : List Plane) :
    Keeps F S (State.freezeCodes s l) := by
  unfold State.freezeCodes
  repeat' first
    | with_reducible assumption | (with_reducible refine Foot.Sub.up hF ?_; decide +kernel)
    | with_reducible apply State.emit_keeps | intro x | with_reducible apply Keeps.ite
    | with_reducible exact Keeps.refl _ _

def State.freezeFrom_foot : Foot := Foot.join [State.halControl_foot, State.freezeCodes_foot,
  State.freezePlane_foot, State.notify_foot]

theorem State.freezeFrom_keeps (hs : Keeps F S s) (hF : Foot.Sub State.freezeFrom_foot F) (p : Plane)
    (source : Nat) :
    Keeps F S (State.freezeFrom s p source) := by
  unfold State.freezeFrom
  repeat' first
    | with_reducible assumption | (with_reducible refine Foot.Sub.up hF ?_; decide +kernel)
    | ((first | intro x | (lift_lets; intro x))
       first
         | (refine Keeps.cut x ?_ (fun hx => ?_); rotate_left; clear_value x; rotate_left; unfold x)
         | clear_value x
         | skip)
    | with_reducible apply State.halControl_keeps | with_reducible apply State.freezeCodes_keeps
    | with_reducible apply State.freezePlane_keeps | with_reducible apply State.notify_keeps
    | with_reducible apply Keeps.ite | with_reducible exact Keeps.refl _ _

def State.freezeAll_foot : Foot := Foot.join [State.freezeCodes_foot, State.notify_foot, State.freezePlane_foot]

theorem State.freezeAll_keeps (hs : Keeps F S s) (hF : Foot.Sub State.freezeAll_foot F) (source : Nat) :
    Keeps F S (State.freezeAll s source) := by
  unfold State.freezeAll
  repeat' first
    | with_reducible assumption | (with_reducible refine Foot.Sub.up hF ?_; decide +kernel)
    | ((first | intro x | (lift_lets; intro x))
       first
         | (refine Keeps.cut x ?_ (fun hx => ?_); rotate_left; clear_value x; rotate_left; unfold x)
         | clear_value x
         | skip)
    | with_reducible apply State.freezeCodes_keeps | with_reducible apply State.notify_keeps
    | with_reducible apply State.freezePlane_keeps | with_reducible apply Keeps.ite
    | with_reducible exact Keeps.refl _ _

def State.logFatal_foot : Foot := Foot.join [State.logError_foot, State.freezeFrom_foot]

theorem State.logFatal_keeps (hs : Keeps F S s) (hF : Foot.Sub State.logFatal_foot F) (p : Plane)
    (code unit i0 : Nat) :
    Keeps F S (State.logFatal s p code unit i0) := by
  unfold State.logFatal
  repeat' first
    | with_reducible assumption | (with_reducible refine Foot.Sub.up hF ?_; decide +kernel)
    | ((first | intro x | (lift_lets; intro x))
       first
         | (refine Keeps.cut x ?_ (fun hx => ?_); rotate_left; clear_value x; rotate_left; unfold x)
         | clear_value x
         | skip)
    | with_reducible apply State.logError_keeps | with_reducible apply State.freezeFrom_keeps
    | with_reducible apply Keeps.ite | with_reducible exact Keeps.refl _ _

def State.portsOut_foot : Foot := Foot.join [foot [] [.LNE_PORT_STAT], State.portDown_foot, State.resetLanes_foot,
  State.modPort_foot, State.showSet_foot, State.setStage_foot]

theorem State.portsOut_keeps (hs : Keeps F S s) (hF : Foot.Sub State.portsOut_foot F) (p : Plane) (l : List Nat) :
    Keeps F S (State.portsOut s p l) := by
  unfold State.portsOut
  repeat' first
    | with_reducible assumption | (with_reducible refine Foot.Sub.up hF ?_; decide +kernel)
    | ((first | intro x | (lift_lets; intro x))
       first
         | (refine Keeps.cut x ?_ (fun hx => ?_); rotate_left; clear_value x; rotate_left; unfold x)
         | clear_value x
         | skip)
    | with_reducible apply State.each_keeps | with_reducible apply State.setF_keeps
    | with_reducible apply State.portDown_keeps | with_reducible apply State.resetLanes_keeps
    | with_reducible apply State.modPort_keeps | with_reducible apply State.showSet_keeps
    | with_reducible apply State.setStage_keeps | with_reducible exact Keeps.refl _ _

def State.portsStart_foot : Foot := State.enterDetect_foot

theorem State.portsStart_keeps (hs : Keeps F S s) (hF : Foot.Sub State.portsStart_foot F) (p : Plane)
    (l : List Nat) :
    Keeps F S (State.portsStart s p l) := by
  unfold State.portsStart
  repeat' first
    | with_reducible assumption | (with_reducible refine Foot.Sub.up hF ?_; decide +kernel)
    | with_reducible apply State.each_keeps | with_reducible apply State.enterDetect_keeps | intro x
    | with_reducible apply Keeps.ite | with_reducible exact Keeps.refl _ _

theorem State.setBitF_keeps (hs : Keeps F S s) (p : Plane) (f : Fld) (k : Nat) (b : Bool)
    (hf : Foot.Sub f.reg.foot F) :
    Keeps F S (State.setBitF s p f k b) := by
  unfold State.setBitF
  repeat' first
    | with_reducible assumption | with_reducible apply State.setF_keeps | with_reducible exact Keeps.refl _ _

def State.pgFail_foot : Foot := Foot.join [foot [] [.TOP_PG_STAT], State.logError_foot, State.portsOut_foot,
  State.suppressError_foot]

theorem State.pgFail_keeps (hs : Keeps F S s) (hF : Foot.Sub State.pgFail_foot F) (p : Plane) (g : Nat) :
    Keeps F S (State.pgFail s p g) := by
  unfold State.pgFail
  repeat' first
    | with_reducible assumption | (with_reducible refine Foot.Sub.up hF ?_; decide +kernel)
    | ((first | intro x | (lift_lets; intro x))
       first
         | (refine Keeps.cut x ?_ (fun hx => ?_); rotate_left; clear_value x; rotate_left; unfold x)
         | clear_value x
         | skip)
    | with_reducible apply State.setBitF_keeps | with_reducible apply State.logError_keeps
    | with_reducible apply State.portsOut_keeps | with_reducible apply State.suppressError_keeps
    | with_reducible apply Keeps.ite | with_reducible exact Keeps.refl _ _

def State.chipletFail_foot : Foot := Foot.join [foot [] [.TOP_UNIT_STAT, .TOP_PG_STAT], State.logError_foot,
  State.portsOut_foot, State.suppressError_foot]

theorem State.chipletFail_keeps (hs : Keeps F S s) (hF : Foot.Sub State.chipletFail_foot F) (p : Plane)
    (c : Nat) :
    Keeps F S (State.chipletFail s p c) := by
  unfold State.chipletFail
  repeat' first
    | with_reducible assumption | (with_reducible refine Foot.Sub.up hF ?_; decide +kernel)
    | ((first | intro x | (lift_lets; intro x))
       first
         | (refine Keeps.cut x ?_ (fun hx => ?_); rotate_left; clear_value x; rotate_left; unfold x)
         | clear_value x
         | skip)
    | with_reducible apply State.setBitF_keeps | with_reducible apply State.logError_keeps
    | with_reducible apply State.portsOut_keeps | with_reducible apply State.suppressError_keeps
    | with_reducible apply Keeps.ite | with_reducible exact Keeps.refl _ _

def State.engAbort_foot : Foot := Foot.join [State.colAbortAll_foot, State.dspAbortAll_foot, State.memReset_foot]

theorem State.engAbort_keeps (hs : Keeps F S s) (hF : Foot.Sub State.engAbort_foot F) (p : Plane) (e : Nat) :
    Keeps F S (State.engAbort s p e) := by
  unfold State.engAbort
  repeat' first
    | with_reducible assumption | (with_reducible refine Foot.Sub.up hF ?_; decide +kernel)
    | with_reducible apply State.colAbortAll_keeps | with_reducible apply State.dspAbortAll_keeps
    | with_reducible apply State.memReset_keeps | split | with_reducible exact Keeps.refl _ _

theorem engOkFld_foot (h : Foot.Sub (foot [] [.TOP_PG_STAT]) F) (t : Nat) : Foot.Sub (engOkFld t).reg.foot F := by
  unfold engOkFld
  split <;> exact h

def State.engOut_foot : Foot := Foot.join [foot [] [.TOP_PG_STAT], State.engAbort_foot, State.flushCode_foot,
  State.engineSend_foot]

theorem State.engOut_keeps (hs : Keeps F S s) (hF : Foot.Sub State.engOut_foot F) (p : Plane) (e : Nat) :
    Keeps F S (State.engOut s p e) := by
  unfold State.engOut
  repeat' first
    | with_reducible assumption | (with_reducible refine Foot.Sub.up hF ?_; decide +kernel)
    | with_reducible apply engOkFld_foot
    | ((first | intro x | (lift_lets; intro x))
       first
         | (refine Keeps.cut x ?_ (fun hx => ?_); rotate_left; clear_value x; rotate_left; unfold x)
         | clear_value x
         | skip)
    | with_reducible apply State.setFlag_keeps | with_reducible apply State.engAbort_keeps
    | with_reducible apply State.flushCode_keeps | with_reducible apply State.engineSend_keeps
    | with_reducible apply Keeps.ite | with_reducible exact Keeps.refl _ _

def State.engFail_foot : Foot := Foot.join [foot [.epc] [], State.suppressError_foot, State.logError_foot,
  State.engOut_foot]

theorem State.engFail_keeps (hs : Keeps F S s) (hF : Foot.Sub State.engFail_foot F) (p : Plane) (e : Nat) :
    Keeps F S (State.engFail s p e) := by
  unfold State.engFail
  repeat' first
    | with_reducible assumption | (with_reducible refine Foot.Sub.up hF ?_; decide +kernel)
    | ((first | intro x | (lift_lets; intro x))
       first
         | (refine Keeps.cut x ?_ (fun hx => ?_); rotate_left; clear_value x; rotate_left; unfold x)
         | clear_value x
         | skip)
    | with_reducible apply State.modEpc_keeps | with_reducible apply State.suppressError_keeps
    | with_reducible apply State.logError_keeps | with_reducible apply State.engOut_keeps
    | with_reducible apply Keeps.ite | with_reducible exact Keeps.refl _ _

def State.planeFail_foot : Foot := Foot.join [foot [.epc] [.TOP_PG_STAT], State.suppressError_foot,
  State.portsOut_foot, State.engOut_foot, State.logFatal_foot]

theorem State.planeFail_keeps (hs : Keeps F S s) (hF : Foot.Sub State.planeFail_foot F) (p : Plane)
    (cause : Nat) :
    Keeps F S (State.planeFail s p cause) := by
  unfold State.planeFail
  repeat' first
    | with_reducible assumption | (with_reducible refine Foot.Sub.up hF ?_; decide +kernel)
    | ((first | intro x | (lift_lets; intro x))
       first
         | (refine Keeps.cut x ?_ (fun hx => ?_); rotate_left; clear_value x; rotate_left; unfold x)
         | clear_value x
         | skip)
    | with_reducible apply State.modEpc_keeps | with_reducible apply State.setFlag_keeps
    | with_reducible apply State.suppressError_keeps | with_reducible apply State.portsOut_keeps
    | with_reducible apply State.engOut_keeps | with_reducible apply State.logFatal_keeps
    | with_reducible apply Keeps.ite | with_reducible exact Keeps.refl _ _

def State.spineFail_foot : Foot := Foot.join [foot [] [.SWC_SPINE_STAT], State.raise_foot, State.logError_foot,
  State.loseCell_foot, State.landed_foot, State.planeFail_foot, State.suppressError_foot]

theorem State.spineFail_keeps (hs : Keeps F S s) (hF : Foot.Sub State.spineFail_foot F) (p : Plane) (k : Nat)
    (lost : List Cell) :
    Keeps F S (State.spineFail s p k lost) := by
  unfold State.spineFail
  repeat' first
    | with_reducible assumption | (with_reducible refine Foot.Sub.up hF ?_; decide +kernel)
    | ((first | intro x | (lift_lets; intro x))
       first
         | (refine Keeps.cut x ?_ (fun hx => ?_); rotate_left; clear_value x; rotate_left; unfold x)
         | clear_value x
         | skip)
    | with_reducible apply State.setF_keeps | with_reducible apply State.each_keeps
    | with_reducible apply State.setBitF_keeps | with_reducible apply State.raise_keeps
    | with_reducible apply State.logError_keeps | with_reducible apply State.loseCell_keeps
    | with_reducible apply State.landed_keeps | with_reducible apply State.planeFail_keeps
    | with_reducible apply State.suppressError_keeps | with_reducible apply Keeps.ite
    | with_reducible exact Keeps.refl _ _

def State.escCheck_foot : Foot := Foot.join [State.spineFail_foot, State.pgFail_foot]

theorem State.escCheck_keeps (hs : Keeps F S s) (hF : Foot.Sub State.escCheck_foot F) (p : Plane) :
    Keeps F S (State.escCheck s p) := by
  unfold State.escCheck
  repeat' first
    | with_reducible assumption | (with_reducible refine Foot.Sub.up hF ?_; decide +kernel)
    | ((first | intro x | (lift_lets; intro x))
       first
         | (refine Keeps.cut x ?_ (fun hx => ?_); rotate_left; clear_value x; rotate_left; unfold x)
         | clear_value x
         | skip)
    | with_reducible apply State.each_keeps | with_reducible apply State.spineFail_keeps
    | with_reducible apply State.pgFail_keeps | with_reducible apply Keeps.ite
    | with_reducible exact Keeps.refl _ _

def State.swcReset_foot : Foot := Foot.join [foot [.swc] [.TOP_PG_STAT, .SWC_FLUSH_DISC], State.flushCode_foot]

theorem State.swcReset_keeps (hs : Keeps F S s) (hF : Foot.Sub State.swcReset_foot F) (p : Plane) :
    Keeps F S (State.swcReset s p) := by
  unfold State.swcReset
  repeat' first
    | with_reducible assumption | (with_reducible refine Foot.Sub.up hF ?_; decide +kernel)
    | ((first | intro x | (lift_lets; intro x))
       first
         | (refine Keeps.cut x ?_ (fun hx => ?_); rotate_left; clear_value x; rotate_left; unfold x)
         | clear_value x
         | skip)
    | with_reducible apply State.setFlag_keeps | with_reducible apply State.each_keeps
    | with_reducible apply State.countN_keeps | with_reducible apply State.modSwc_keeps
    | with_reducible apply State.flushCode_keeps | split | with_reducible exact Keeps.refl _ _

def State.tstReset_foot : Foot := Foot.join [foot [] [.TST_GEN_STAT], State.modTst_foot, State.freeFlows_foot,
  State.endDelay_foot, State.modEp_foot]

theorem State.tstReset_keeps (hs : Keeps F S s) (hF : Foot.Sub State.tstReset_foot F) (p : Plane) :
    Keeps F S (State.tstReset s p) := by
  unfold State.tstReset
  repeat' first
    | with_reducible assumption | (with_reducible refine Foot.Sub.up hF ?_; decide +kernel)
    | ((first | intro x | (lift_lets; intro x))
       first
         | (refine Keeps.cut x ?_ (fun hx => ?_); rotate_left; clear_value x; rotate_left; unfold x)
         | clear_value x
         | skip)
    | with_reducible apply State.each_keeps | with_reducible apply State.setF_keeps
    | with_reducible apply State.modTst_keeps | with_reducible apply State.freeFlows_keeps
    | with_reducible apply State.endDelay_keeps | with_reducible apply State.modEp_keeps
    | with_reducible exact Keeps.refl _ _

theorem rstFld_foot (h : Foot.Sub (foot [] [.TOP_RST_CTL]) F) (b : Blk) : Foot.Sub (rstFld b).reg.foot F := by
  cases b <;> exact h

def State.blockReset_foot : Foot := Foot.join [foot [] [.TOP_RST_CTL], State.swcReset_foot, State.engOut_foot,
  State.tstReset_foot]

theorem State.blockReset_keeps (hs : Keeps F S s) (hF : Foot.Sub State.blockReset_foot F) (p : Plane) (b : Blk) :
    Keeps F S (State.blockReset s p b) := by
  unfold State.blockReset
  repeat' first
    | with_reducible assumption | (with_reducible refine Foot.Sub.up hF ?_; decide +kernel)
    | with_reducible apply rstFld_foot
    | ((first | intro x | (lift_lets; intro x))
       first
         | (refine Keeps.cut x ?_ (fun hx => ?_); rotate_left; clear_value x; rotate_left; unfold x)
         | clear_value x
         | skip)
    | with_reducible apply State.setFlag_keeps | with_reducible apply State.swcReset_keeps
    | with_reducible apply State.engOut_keeps | with_reducible apply State.tstReset_keeps
    | with_reducible apply Keeps.ite | split | with_reducible exact Keeps.refl _ _

def State.takeUcode_foot : Foot := foot [.epc] []

theorem State.takeUcode_keeps (hs : Keeps F S s) (hF : Foot.Sub State.takeUcode_foot F) (p : Plane) (unit : Nat) :
    Keeps F S (State.takeUcode s p unit) := by
  unfold State.takeUcode
  repeat' first
    | with_reducible assumption | (with_reducible refine Foot.Sub.up hF ?_; decide +kernel)
    | ((first | intro x | (lift_lets; intro x))
       first
         | (refine Keeps.cut x ?_ (fun hx => ?_); rotate_left; clear_value x; rotate_left; unfold x)
         | clear_value x
         | skip)
    | with_reducible apply State.modEpc_keeps | with_reducible exact Keeps.refl _ _

def State.engIn_foot : Foot := foot [] [.TOP_PG_STAT]

theorem State.engIn_keeps (hs : Keeps F S s) (hF : Foot.Sub State.engIn_foot F) (p : Plane) (e : Nat) :
    Keeps F S (State.engIn s p e) := by
  unfold State.engIn
  repeat' first
    | with_reducible assumption | (with_reducible refine Foot.Sub.up hF ?_; decide +kernel)
    | with_reducible apply engOkFld_foot | with_reducible apply State.setFlag_keeps
    | with_reducible apply Keeps.ite | with_reducible exact Keeps.refl _ _

def State.blockDone_foot : Foot := Foot.join [foot [] [.TOP_RST_CTL, .TOP_PG_STAT], State.engIn_foot,
  State.takeUcode_foot, State.engineSend_foot, State.modTst_foot]

theorem State.blockDone_keeps (hs : Keeps F S s) (hF : Foot.Sub State.blockDone_foot F) (p : Plane) (b : Blk) :
    Keeps F S (State.blockDone s p b) := by
  unfold State.blockDone
  repeat' first
    | with_reducible assumption | (with_reducible refine Foot.Sub.up hF ?_; decide +kernel)
    | with_reducible apply rstFld_foot
    | ((first | intro x | (lift_lets; intro x))
       first
         | (refine Keeps.cut x ?_ (fun hx => ?_); rotate_left; clear_value x; rotate_left; unfold x)
         | clear_value x
         | skip)
    | with_reducible apply State.setFlag_keeps | with_reducible apply State.engIn_keeps
    | with_reducible apply State.takeUcode_keeps | with_reducible apply State.engineSend_keeps
    | with_reducible apply State.modTst_keeps | with_reducible apply Keeps.ite | split
    | with_reducible exact Keeps.refl _ _

def State.enginesEnter_foot : Foot := Foot.join [foot [.mem, .epc] [.MEM_TILE_STAT], State.engIn_foot]

theorem State.enginesEnter_keeps (hs : Keeps F S s) (hF : Foot.Sub State.enginesEnter_foot F) (p : Plane) :
    Keeps F S (State.enginesEnter s p) := by
  unfold State.enginesEnter
  repeat' first
    | with_reducible assumption | (with_reducible refine Foot.Sub.up hF ?_; decide +kernel)
    | ((first | intro x | (lift_lets; intro x))
       first
         | (refine Keeps.cut x ?_ (fun hx => ?_); rotate_left; clear_value x; rotate_left; unfold x)
         | clear_value x
         | skip)
    | with_reducible apply State.modMem_keeps | with_reducible apply State.each_keeps
    | with_reducible apply State.setF_keeps | with_reducible apply State.modEpc_keeps
    | with_reducible apply State.engIn_keeps | with_reducible apply Keeps.ite | with_reducible exact Keeps.refl _ _
    | exact ⟨rfl, rfl⟩

def State.setQuad_foot : Foot := foot [.epc] [.EPC_GATE_STAT]

theorem State.setQuad_keeps (hs : Keeps F S s) (hF : Foot.Sub State.setQuad_foot F) (p : Plane) (q : Nat)
    (on : Bool) :
    Keeps F S (State.setQuad s p q on) := by
  unfold State.setQuad
  repeat' first
    | with_reducible assumption | (with_reducible refine Foot.Sub.up hF ?_; decide +kernel)
    | ((first | intro x | (lift_lets; intro x))
       first
         | (refine Keeps.cut x ?_ (fun hx => ?_); rotate_left; clear_value x; rotate_left; unfold x)
         | clear_value x
         | skip)
    | with_reducible apply State.modEpc_keeps | with_reducible apply State.setBitF_keeps
    | with_reducible apply Keeps.ite | with_reducible exact Keeps.refl _ _

def State.gate_foot : Foot := Foot.join [foot [] [.EPC_GATE_STAT], State.setQuad_foot]

theorem State.gate_keeps (hs : Keeps F S s) (hF : Foot.Sub State.gate_foot F) (p : Plane) (u : GateUnit) :
    Keeps F S (State.gate s p u) := by
  unfold State.gate
  repeat' first
    | with_reducible assumption | (with_reducible refine Foot.Sub.up hF ?_; decide +kernel)
    | with_reducible apply State.each_keeps | with_reducible apply State.setFlag_keeps
    | with_reducible apply State.setQuad_keeps | intro x | split | with_reducible exact Keeps.refl _ _

def State.wakeQuad_foot : Foot := Foot.join [State.takeUcode_foot, State.setQuad_foot]

theorem State.wakeQuad_keeps (hs : Keeps F S s) (hF : Foot.Sub State.wakeQuad_foot F) (p : Plane) (q : Nat) :
    Keeps F S (State.wakeQuad s p q) := by
  unfold State.wakeQuad
  repeat' first
    | with_reducible assumption | (with_reducible refine Foot.Sub.up hF ?_; decide +kernel)
    | with_reducible apply State.takeUcode_keeps | with_reducible apply State.setQuad_keeps
    | with_reducible apply Keeps.ite | with_reducible exact Keeps.refl _ _

theorem engPwrFld_foot (h : Foot.Sub (foot [] [.EPC_GATE_STAT]) F) (e : Eng) : Foot.Sub (engPwrFld e).reg.foot F := by
  cases e <;> exact h

def State.wakeEng_foot : Foot := Foot.join [foot [] [.EPC_GATE_STAT], State.takeUcode_foot]

theorem State.wakeEng_keeps (hs : Keeps F S s) (hF : Foot.Sub State.wakeEng_foot F) (p : Plane) (e : Eng) :
    Keeps F S (State.wakeEng s p e) := by
  unfold State.wakeEng
  repeat' first
    | with_reducible assumption | (with_reducible refine Foot.Sub.up hF ?_; decide +kernel)
    | with_reducible apply engPwrFld_foot | with_reducible apply State.setFlag_keeps
    | with_reducible apply State.takeUcode_keeps | with_reducible apply Keeps.ite
    | with_reducible exact Keeps.refl _ _

def State.wake_foot : Foot := Foot.join [State.wakeQuad_foot, State.wakeEng_foot]

theorem State.wake_keeps (hs : Keeps F S s) (hF : Foot.Sub State.wake_foot F) (p : Plane) (u : GateUnit) :
    Keeps F S (State.wake s p u) := by
  unfold State.wake
  repeat' first
    | with_reducible assumption | (with_reducible refine Foot.Sub.up hF ?_; decide +kernel)
    | with_reducible apply State.each_keeps | with_reducible apply State.wakeQuad_keeps
    | with_reducible apply State.wakeEng_keeps | intro x | split | with_reducible exact Keeps.refl _ _

def State.ungate_foot : Foot := Foot.join [State.wakeQuad_foot, State.wakeEng_foot]

theorem State.ungate_keeps (hs : Keeps F S s) (hF : Foot.Sub State.ungate_foot F) (p : Plane) :
    Keeps F S (State.ungate s p) := by
  unfold State.ungate
  repeat' first
    | with_reducible assumption | (with_reducible refine Foot.Sub.up hF ?_; decide +kernel)
    | ((first | intro x | (lift_lets; intro x))
       first
         | (refine Keeps.cut x ?_ (fun hx => ?_); rotate_left; clear_value x; rotate_left; unfold x)
         | clear_value x
         | skip)
    | with_reducible apply State.each_keeps | with_reducible apply State.wakeQuad_keeps
    | with_reducible apply State.wakeEng_keeps | with_reducible exact Keeps.refl _ _

def State.gateAll_foot : Foot := foot [.epc] [.EPC_GATE_STAT]

theorem State.gateAll_keeps (hs : Keeps F S s) (hF : Foot.Sub State.gateAll_foot F) (p : Plane) :
    Keeps F S (State.gateAll s p) := by
  unfold State.gateAll
  repeat' first
    | with_reducible assumption | (with_reducible refine Foot.Sub.up hF ?_; decide +kernel)
    | with_reducible apply State.setWord_keeps | with_reducible apply State.modEpc_keeps | intro x
    | with_reducible exact Keeps.refl _ _

def State.unitNamed_foot : Foot := foot [] [.EPC_UNIT_CTL]

theorem State.unitNamed_keeps (hs : Keeps F S s) (hF : Foot.Sub State.unitNamed_foot F) (p : Plane) (v : Nat) :
    Keeps F S (State.unitNamed s p v) := by
  unfold State.unitNamed
  repeat' first
    | with_reducible assumption | (with_reducible refine Foot.Sub.up hF ?_; decide +kernel)
    | with_reducible apply State.setF_keeps | with_reducible exact Keeps.refl _ _

def State.retire_foot : Foot := Foot.join [foot [] [.EPC_UNIT_STAT], State.pgFail_foot, State.chipletFail_foot,
  State.tileFail_foot, State.spineFail_foot]

theorem State.retire_keeps (hs : Keeps F S s) (hF : Foot.Sub State.retire_foot F) (p : Plane) (ty ix : Nat) :
    Keeps F S (State.retire s p ty ix) := by
  unfold State.retire
  repeat' first
    | with_reducible assumption | (with_reducible refine Foot.Sub.up hF ?_; decide +kernel)
    | with_reducible apply State.setFlag_keeps | with_reducible apply State.pgFail_keeps
    | with_reducible apply State.chipletFail_keeps | with_reducible apply State.tileFail_keeps
    | with_reducible apply State.spineFail_keeps | with_reducible apply Keeps.ite | split
    | with_reducible exact Keeps.refl _ _

def State.unitTestStart_foot : Foot := foot [.epc] [.EPC_UNIT_STAT, .EPC_UNIT_CTL]

theorem State.unitTestStart_keeps (hs : Keeps F S s) (hF : Foot.Sub State.unitTestStart_foot F) (p : Plane)
    (ty ix : Nat) :
    Keeps F S (State.unitTestStart s p ty ix) := by
  unfold State.unitTestStart
  repeat' first
    | with_reducible assumption | (with_reducible refine Foot.Sub.up hF ?_; decide +kernel)
    | ((first | intro x | (lift_lets; intro x))
       first
         | (refine Keeps.cut x ?_ (fun hx => ?_); rotate_left; clear_value x; rotate_left; unfold x)
         | clear_value x
         | skip)
    | with_reducible apply State.modEpc_keeps | with_reducible apply State.setFlag_keeps
    | with_reducible apply Keeps.ite | with_reducible exact Keeps.refl _ _

def State.tileReturn_foot : Foot := Foot.join [foot [.mem, .pools] [.TOP_UNIT_STAT, .MEM_TILE_STAT],
  State.give_foot]

theorem State.tileReturn_keeps (hs : Keeps F S s) (hF : Foot.Sub State.tileReturn_foot F) (p : Plane) (t : Nat) :
    Keeps F S (State.tileReturn s p t) := by
  unfold State.tileReturn
  repeat' first
    | with_reducible assumption | (with_reducible refine Foot.Sub.up hF ?_; decide +kernel)
    | ((first | intro x | (lift_lets; intro x))
       first
         | (refine Keeps.cut x ?_ (fun hx => ?_); rotate_left; clear_value x; rotate_left; unfold x)
         | clear_value x
         | skip)
    | with_reducible apply State.setFlag_keeps | with_reducible apply State.setBitF_keeps
    | with_reducible apply State.give_keeps | with_reducible apply State.modMem_pools
    | with_reducible exact Keeps.refl _ _ | exact ⟨fun _ => rfl, fun h => h⟩ | exact ⟨fun h => h, fun _ => rfl⟩
    | exact ⟨fun _ => rfl, fun _ => rfl⟩ | exact ⟨fun h => wf_filter _ _ _ h, fun h => h⟩ | exact ⟨rfl, rfl⟩

def State.unitTestEnd_foot : Foot := Foot.join [foot [.epc] [.EPC_UNIT_STAT, .EPC_UNIT_CTL, .TOP_PG_STAT,
  .TOP_UNIT_STAT, .SWC_SPINE_STAT], State.tileReturn_foot, State.raise_foot, State.portsStart_foot]

theorem State.unitTestEnd_keeps (hs : Keeps F S s) (hF : Foot.Sub State.unitTestEnd_foot F) (p : Plane)
    (pass : Bool) :
    Keeps F S (State.unitTestEnd s p pass) := by
  unfold State.unitTestEnd
  repeat' first
    | with_reducible assumption | (with_reducible refine Foot.Sub.up hF ?_; decide +kernel)
    | ((first | intro x | (lift_lets; intro x))
       first
         | (refine Keeps.cut x ?_ (fun hx => ?_); rotate_left; clear_value x; rotate_left; unfold x)
         | clear_value x
         | skip)
    | with_reducible apply State.modEpc_keeps | with_reducible apply State.setFlag_keeps
    | with_reducible apply State.setF_keeps | with_reducible apply State.setBitF_keeps
    | with_reducible apply State.tileReturn_keeps | with_reducible apply State.raise_keeps
    | with_reducible apply State.portsStart_keeps | with_reducible apply Keeps.ite | split
    | with_reducible exact Keeps.refl _ _

def State.chipletLanes_foot : Foot := State.laneFail_foot

theorem State.chipletLanes_keeps (hs : Keeps F S s) (hF : Foot.Sub State.chipletLanes_foot F) (p : Plane)
    (cs : List Nat) :
    Keeps F S (State.chipletLanes s p cs) := by
  unfold State.chipletLanes
  repeat' first
    | with_reducible assumption | (with_reducible refine Foot.Sub.up hF ?_; decide +kernel)
    | with_reducible apply State.each_keeps | with_reducible apply State.laneFail_keeps | intro x | split
    | with_reducible exact Keeps.refl _ _

def State.refclkLost_foot : Foot := Foot.join [foot [] [.TOP_CLK_STAT], State.chipletLanes_foot,
  State.planeFail_foot]

theorem State.refclkLost_keeps (hs : Keeps F S s) (hF : Foot.Sub State.refclkLost_foot F) (p : Plane) (k : Nat) :
    Keeps F S (State.refclkLost s p k) := by
  unfold State.refclkLost
  repeat' first
    | with_reducible assumption | (with_reducible refine Foot.Sub.up hF ?_; decide +kernel)
    | ((first | intro x | (lift_lets; intro x))
       first
         | (refine Keeps.cut x ?_ (fun hx => ?_); rotate_left; clear_value x; rotate_left; unfold x)
         | clear_value x
         | skip)
    | with_reducible apply State.setBitF_keeps | with_reducible apply State.chipletLanes_keeps
    | with_reducible apply State.planeFail_keeps | with_reducible apply Keeps.ite | split
    | with_reducible exact Keeps.refl _ _

def execPgFail_foot : Foot := State.pgFail_foot

theorem execPgFail_keeps (hF : Foot.Sub execPgFail_foot F) (p : Plane) (g : Fin 18) (s : State) :
    ∃ t', execPgFail p g s = .next t' ∧ Keeps F s t' := by
  unfold execPgFail
  refine ⟨_, rfl, ?_⟩
  repeat' first
    | with_reducible assumption | (with_reducible refine Foot.Sub.up hF ?_; decide +kernel)
    | with_reducible apply State.when_keeps | with_reducible apply State.pgFail_keeps | intro x
    | with_reducible exact Keeps.refl _ _

def execChipletFail_foot : Foot := State.chipletFail_foot

theorem execChipletFail_keeps (hF : Foot.Sub execChipletFail_foot F) (p : Plane) (c : Fin 9) (s : State) :
    ∃ t', execChipletFail p c s = .next t' ∧ Keeps F s t' := by
  unfold execChipletFail
  refine ⟨_, rfl, ?_⟩
  repeat' first
    | with_reducible assumption | (with_reducible refine Foot.Sub.up hF ?_; decide +kernel)
    | with_reducible apply State.when_keeps | with_reducible apply State.chipletFail_keeps | intro x
    | with_reducible exact Keeps.refl _ _

def execSpineFail_foot : Foot := Foot.join [State.escCheck_foot, State.spineFail_foot]

theorem execSpineFail_keeps (hF : Foot.Sub execSpineFail_foot F) (p : Plane) (elem : Fin 24)
    (lost : List CellId) (s : State) :
    ∃ t', execSpineFail p elem lost s = .next t' ∧ Keeps F s t' := by
  unfold execSpineFail
  refine ⟨_, rfl, ?_⟩
  repeat' first
    | with_reducible assumption | (with_reducible refine Foot.Sub.up hF ?_; decide +kernel)
    | with_reducible apply State.when_keeps | with_reducible apply State.escCheck_keeps
    | with_reducible apply State.spineFail_keeps | intro x | with_reducible exact Keeps.refl _ _

def execEngineFail_foot : Foot := State.engFail_foot

theorem execEngineFail_keeps (hF : Foot.Sub execEngineFail_foot F) (p : Plane) (e : Eng) (s : State) :
    ∃ t', execEngineFail p e s = .next t' ∧ Keeps F s t' := by
  unfold execEngineFail
  refine ⟨_, rfl, ?_⟩
  repeat' first
    | with_reducible assumption | (with_reducible refine Foot.Sub.up hF ?_; decide +kernel)
    | with_reducible apply State.when_keeps | with_reducible apply State.engFail_keeps | intro x
    | with_reducible exact Keeps.refl _ _

def execSwcRst_foot : Foot := State.blockReset_foot

theorem execSwcRst_keeps (hF : Foot.Sub execSwcRst_foot F) (p : Plane) (s : State) :
    ∃ t', execSwcRst p s = .next t' ∧ Keeps F s t' := by
  unfold execSwcRst
  refine ⟨_, rfl, ?_⟩
  repeat' first
    | with_reducible assumption | (with_reducible refine Foot.Sub.up hF ?_; decide +kernel)
    | with_reducible apply State.blockReset_keeps | with_reducible exact Keeps.refl _ _

def execColRst_foot : Foot := State.blockReset_foot

theorem execColRst_keeps (hF : Foot.Sub execColRst_foot F) (p : Plane) (s : State) :
    ∃ t', execColRst p s = .next t' ∧ Keeps F s t' := by
  unfold execColRst
  refine ⟨_, rfl, ?_⟩
  repeat' first
    | with_reducible assumption | (with_reducible refine Foot.Sub.up hF ?_; decide +kernel)
    | with_reducible apply State.blockReset_keeps | with_reducible exact Keeps.refl _ _

def execDspRst_foot : Foot := State.blockReset_foot

theorem execDspRst_keeps (hF : Foot.Sub execDspRst_foot F) (p : Plane) (s : State) :
    ∃ t', execDspRst p s = .next t' ∧ Keeps F s t' := by
  unfold execDspRst
  refine ⟨_, rfl, ?_⟩
  repeat' first
    | with_reducible assumption | (with_reducible refine Foot.Sub.up hF ?_; decide +kernel)
    | with_reducible apply State.blockReset_keeps | with_reducible exact Keeps.refl _ _

def execMemRst_foot : Foot := State.blockReset_foot

theorem execMemRst_keeps (hF : Foot.Sub execMemRst_foot F) (p : Plane) (s : State) :
    ∃ t', execMemRst p s = .next t' ∧ Keeps F s t' := by
  unfold execMemRst
  refine ⟨_, rfl, ?_⟩
  repeat' first
    | with_reducible assumption | (with_reducible refine Foot.Sub.up hF ?_; decide +kernel)
    | with_reducible apply State.blockReset_keeps | with_reducible exact Keeps.refl _ _

def execTstRst_foot : Foot := State.blockReset_foot

theorem execTstRst_keeps (hF : Foot.Sub execTstRst_foot F) (p : Plane) (s : State) :
    ∃ t', execTstRst p s = .next t' ∧ Keeps F s t' := by
  unfold execTstRst
  refine ⟨_, rfl, ?_⟩
  repeat' first
    | with_reducible assumption | (with_reducible refine Foot.Sub.up hF ?_; decide +kernel)
    | with_reducible apply State.blockReset_keeps | with_reducible exact Keeps.refl _ _

def execBlockResetDone_foot : Foot := State.blockDone_foot

theorem execBlockResetDone_keeps (hF : Foot.Sub execBlockResetDone_foot F) (p : Plane) (b : Blk) (s : State) :
    ∃ t', execBlockResetDone p b s = .next t' ∧ Keeps F s t' := by
  unfold execBlockResetDone
  refine ⟨_, rfl, ?_⟩
  repeat' first
    | with_reducible assumption | (with_reducible refine Foot.Sub.up hF ?_; decide +kernel)
    | with_reducible apply State.when_keeps | with_reducible apply State.blockDone_keeps | intro x
    | with_reducible exact Keeps.refl _ _

def execEngineGate_foot : Foot := State.gate_foot

theorem execEngineGate_keeps (hF : Foot.Sub execEngineGate_foot F) (p : Plane) (u : GateUnit) (s : State) :
    ∃ t', execEngineGate p u s = .next t' ∧ Keeps F s t' := by
  unfold execEngineGate
  refine ⟨_, rfl, ?_⟩
  repeat' first
    | with_reducible assumption | (with_reducible refine Foot.Sub.up hF ?_; decide +kernel)
    | with_reducible apply State.when_keeps | with_reducible apply State.gate_keeps | intro x
    | with_reducible exact Keeps.refl _ _

def execUnitWake_foot : Foot := State.wake_foot

theorem execUnitWake_keeps (hF : Foot.Sub execUnitWake_foot F) (p : Plane) (u : GateUnit) (s : State) :
    ∃ t', execUnitWake p u s = .next t' ∧ Keeps F s t' := by
  unfold execUnitWake
  refine ⟨_, rfl, ?_⟩
  repeat' first
    | with_reducible assumption | (with_reducible refine Foot.Sub.up hF ?_; decide +kernel)
    | with_reducible apply State.when_keeps | with_reducible apply State.wake_keeps | intro x
    | with_reducible exact Keeps.refl _ _

def execUnitRetire_foot : Foot := Foot.join [State.retire_foot, State.unitNamed_foot]

theorem execUnitRetire_keeps (hF : Foot.Sub execUnitRetire_foot F) (p : Plane) (v : Word) (s : State) :
    ∃ t', execUnitRetire p v s = .next t' ∧ Keeps F s t' := by
  unfold execUnitRetire
  refine ⟨_, rfl, ?_⟩
  repeat' first
    | with_reducible assumption | (with_reducible refine Foot.Sub.up hF ?_; decide +kernel)
    | with_reducible apply State.when_keeps | with_reducible apply State.retire_keeps
    | with_reducible apply State.unitNamed_keeps | intro x | with_reducible exact Keeps.refl _ _

def execUnitTest_foot : Foot := Foot.join [State.unitTestStart_foot, State.unitNamed_foot]

theorem execUnitTest_keeps (hF : Foot.Sub execUnitTest_foot F) (p : Plane) (v : Word) (s : State) :
    ∃ t', execUnitTest p v s = .next t' ∧ Keeps F s t' := by
  unfold execUnitTest
  refine ⟨_, rfl, ?_⟩
  repeat' first
    | with_reducible assumption | (with_reducible refine Foot.Sub.up hF ?_; decide +kernel)
    | with_reducible apply State.when_keeps | with_reducible apply State.unitTestStart_keeps
    | with_reducible apply State.unitNamed_keeps | intro x | with_reducible exact Keeps.refl _ _

def execUnitTestDone_foot : Foot := State.unitTestEnd_foot

theorem execUnitTestDone_keeps (hF : Foot.Sub execUnitTestDone_foot F) (p : Plane) (pass : Bool) (s : State) :
    ∃ t', execUnitTestDone p pass s = .next t' ∧ Keeps F s t' := by
  unfold execUnitTestDone
  refine ⟨_, rfl, ?_⟩
  repeat' first
    | with_reducible assumption | (with_reducible refine Foot.Sub.up hF ?_; decide +kernel)
    | with_reducible apply State.when_keeps | with_reducible apply State.unitTestEnd_keeps | intro x
    | with_reducible exact Keeps.refl _ _

def execRefclkLoss_foot : Foot := State.refclkLost_foot

theorem execRefclkLoss_keeps (hF : Foot.Sub execRefclkLoss_foot F) (p : Plane) (k : Fin 4) (s : State) :
    ∃ t', execRefclkLoss p k s = .next t' ∧ Keeps F s t' := by
  unfold execRefclkLoss
  refine ⟨_, rfl, ?_⟩
  repeat' first
    | with_reducible assumption | (with_reducible refine Foot.Sub.up hF ?_; decide +kernel)
    | with_reducible apply State.when_keeps | with_reducible apply State.refclkLost_keeps | intro x
    | with_reducible exact Keeps.refl _ _

def execRefclkReturn_foot : Foot := foot [] [.TOP_CLK_STAT]

theorem execRefclkReturn_keeps (hF : Foot.Sub execRefclkReturn_foot F) (p : Plane) (k : Fin 4) (s : State) :
    ∃ t', execRefclkReturn p k s = .next t' ∧ Keeps F s t' := by
  unfold execRefclkReturn
  refine ⟨_, rfl, ?_⟩
  repeat' first
    | with_reducible assumption | (with_reducible refine Foot.Sub.up hF ?_; decide +kernel)
    | with_reducible apply State.when_keeps | with_reducible apply State.setBitF_keeps | intro x
    | with_reducible exact Keeps.refl _ _

def execFreeze_foot : Foot := State.freezeFrom_foot

theorem execFreeze_keeps (hF : Foot.Sub execFreeze_foot F) (p : Plane) (s : State) :
    ∃ t', execFreeze p s = .next t' ∧ Keeps F s t' := by
  unfold execFreeze
  refine ⟨_, rfl, ?_⟩
  repeat' first
    | with_reducible assumption | (with_reducible refine Foot.Sub.up hF ?_; decide +kernel)
    | with_reducible apply State.freezeFrom_keeps | with_reducible exact Keeps.refl _ _

def execFreezePin_foot : Foot := Foot.join [foot [.pkg] [], State.freezeAll_foot]

theorem execFreezePin_keeps (hF : Foot.Sub execFreezePin_foot F) (casc : Option Side) (s : State) :
    ∃ t', execFreezePin casc s = .next t' ∧ Keeps F s t' := by
  unfold execFreezePin
  refine ⟨_, rfl, ?_⟩
  repeat' first
    | with_reducible assumption | (with_reducible refine Foot.Sub.up hF ?_; decide +kernel)
    | with_reducible apply State.modPkg_keeps | with_reducible apply State.freezeAll_keeps | intro x | split
    | with_reducible exact Keeps.refl _ _

def State.errorIn_foot : Foot := Foot.join [State.suppressError_foot, State.logError_foot, State.freezeFrom_foot,
  State.planeFail_foot, State.escCheck_foot]

theorem State.errorIn_keeps (hs : Keeps F S s) (hF : Foot.Sub State.errorIn_foot F) (p : Plane)
    (code unit i0 i1 i2 : Nat) :
    Keeps F S (State.errorIn s p code unit i0 i1 i2) := by
  unfold State.errorIn
  repeat' first
    | with_reducible assumption | (with_reducible refine Foot.Sub.up hF ?_; decide +kernel)
    | ((first | intro x | (lift_lets; intro x))
       first
         | (refine Keeps.cut x ?_ (fun hx => ?_); rotate_left; clear_value x; rotate_left; unfold x)
         | clear_value x
         | skip)
    | with_reducible apply State.suppressError_keeps | with_reducible apply State.logError_keeps
    | with_reducible apply State.freezeFrom_keeps | with_reducible apply State.planeFail_keeps
    | with_reducible apply State.escCheck_keeps | with_reducible apply Keeps.ite
    | with_reducible exact Keeps.refl _ _

def execErrorLogged_foot : Foot := State.errorIn_foot

theorem execErrorLogged_keeps (hF : Foot.Sub execErrorLogged_foot F) (p : Plane) (code : Byte)
    (unit info0 info1 info2 : Word) (s : State) :
    ∃ t', execErrorLogged p code unit info0 info1 info2 s = .next t' ∧ Keeps F s t' := by
  unfold execErrorLogged
  refine ⟨_, rfl, ?_⟩
  repeat' first
    | with_reducible assumption | (with_reducible refine Foot.Sub.up hF ?_; decide +kernel)
    | with_reducible apply State.when_keeps | with_reducible apply State.errorIn_keeps | intro x
    | with_reducible exact Keeps.refl _ _

end Sys2Proof.Machine
end

