-- ==== Sys2Proof/Laws/KeepHalyard.lean ====
section
/-! SUPPORT. `Keeps` of the definitions of Machine/Halyard.lean, each with its footprint. -/

namespace Sys2Proof.Machine

set_option Elab.async false

variable {F : Foot} {S s : State}

def State.viewOne_foot : Foot := Foot.join [foot [.pkg, .free] [], State.cantonEvent_foot]

theorem State.viewOne_keeps (hs : Keeps F S s) (hF : Foot.Sub State.viewOne_foot F) (p : Plane)
    (u : Nat × Option Nat × Nat) :
    Keeps F S (State.viewOne s p u) := by
  unfold State.viewOne
  repeat' first
    | with_reducible assumption | (with_reducible refine Foot.Sub.up hF ?_; decide +kernel)
    | ((first | intro x | (lift_lets; intro x))
       first
         | (refine Keeps.cut x ?_ (fun hx => ?_); rotate_left; clear_value x; rotate_left; unfold x)
         | clear_value x
         | skip)
    | with_reducible apply State.modPkg_keeps | with_reducible apply State.takeFree_keeps
    | with_reducible apply State.cantonEvent_keeps | with_reducible apply Keeps.ite
    | with_reducible refine Keeps.snd ?_ (by assumption) | split | with_reducible exact Keeps.refl _ _

def State.setSplit_foot : Foot := foot [.pkg] [.CAN_STAT]

theorem State.setSplit_keeps (hs : Keeps F S s) (hF : Foot.Sub State.setSplit_foot F) (on : Bool) :
    Keeps F S (State.setSplit s on) := by
  unfold State.setSplit
  repeat' first
    | with_reducible assumption | (with_reducible refine Foot.Sub.up hF ?_; decide +kernel)
    | ((first | intro x | (lift_lets; intro x))
       first
         | (refine Keeps.cut x ?_ (fun hx => ?_); rotate_left; clear_value x; rotate_left; unfold x)
         | clear_value x
         | skip)
    | with_reducible apply State.modPkg_keeps | with_reducible apply State.bothF_keeps
    | with_reducible apply Keeps.ite | split | with_reducible exact Keeps.refl _ _

def State.halTell_foot : Foot := Foot.join [foot [.swc] [], State.halSend_foot]

theorem State.halTell_keeps (hs : Keeps F S s) (hF : Foot.Sub State.halTell_foot F) (p : Plane) (nak : Bool) :
    Keeps F S (State.halTell s p nak) := by
  unfold State.halTell
  repeat' first
    | with_reducible assumption | (with_reducible refine Foot.Sub.up hF ?_; decide +kernel)
    | with_reducible apply State.modSwc_keeps | with_reducible apply State.halSend_keeps | intro x
    | with_reducible apply Keeps.ite | with_reducible exact Keeps.refl _ _

def State.halStart_foot : Foot := Foot.join [foot [.swc, .free, .loose] [.SWC_HAL_STAT, .TOP_PG_STAT],
  State.modCred_foot, State.modLink_foot, State.halTell_foot, State.cmapGap_foot]

theorem State.halStart_keeps (hs : Keeps F S s) (hF : Foot.Sub State.halStart_foot F) (p : Plane) :
    Keeps F S (State.halStart s p) := by
  unfold State.halStart
  repeat' first
    | with_reducible assumption | (with_reducible refine Foot.Sub.up hF ?_; decide +kernel)
    | ((first | intro x | (lift_lets; intro x))
       first
         | (refine Keeps.cut x ?_ (fun hx => ?_); rotate_left; clear_value x; rotate_left; unfold x)
         | clear_value x
         | skip)
    | with_reducible apply State.each_keeps | with_reducible apply State.modSwc_keeps
    | with_reducible apply State.setFlag_keeps | with_reducible apply State.takeFree_keeps
    | with_reducible apply State.setFree_keeps | with_reducible apply State.modCred_keeps
    | with_reducible apply State.modLink_keeps | with_reducible apply State.halTell_keeps
    | with_reducible apply State.cmapGap_keeps | with_reducible refine Keeps.snd ?_ (by assumption) | split
    | with_reducible exact Keeps.refl _ _

def State.halStop_foot : Foot := Foot.join [foot [.swc] [.SWC_HAL_STAT, .TOP_PG_STAT, .SWC_FLUSH_DISC],
  State.flushCode_foot, State.cmapGap_foot, State.flip_foot, State.cancelHold_foot, State.timeHold_foot]

theorem State.halStop_keeps (hs : Keeps F S s) (hF : Foot.Sub State.halStop_foot F) (p : Plane) :
    Keeps F S (State.halStop s p) := by
  unfold State.halStop
  repeat' first
    | with_reducible assumption | (with_reducible refine Foot.Sub.up hF ?_; decide +kernel)
    | ((first | intro x | (lift_lets; intro x))
       first
         | (refine Keeps.cut x ?_ (fun hx => ?_); rotate_left; clear_value x; rotate_left; unfold x)
         | clear_value x
         | skip)
    | with_reducible apply State.setFlag_keeps | with_reducible apply State.countN_keeps
    | with_reducible apply State.modSwc_keeps | with_reducible apply State.flushCode_keeps
    | with_reducible apply State.cmapGap_keeps | with_reducible apply State.flip_keeps
    | with_reducible apply State.cancelHold_keeps | with_reducible apply State.timeHold_keeps
    | with_reducible apply Keeps.ite | with_reducible exact Keeps.refl _ _

def State.halFail_foot : Foot := Foot.join [foot [.swc] [], State.halStop_foot, State.logError_foot,
  State.raise_foot, State.colAbortAll_foot, State.setSplit_foot, State.glHalLost_foot, State.releaseHeld_foot]

theorem State.halFail_keeps (hs : Keeps F S s) (hF : Foot.Sub State.halFail_foot F) :
    Keeps F S (State.halFail s) := by
  unfold State.halFail
  repeat' first
    | with_reducible assumption | (with_reducible refine Foot.Sub.up hF ?_; decide +kernel)
    | ((first | intro x | (lift_lets; intro x))
       first
         | (refine Keeps.cut x ?_ (fun hx => ?_); rotate_left; clear_value x; rotate_left; unfold x)
         | clear_value x
         | skip)
    | with_reducible apply State.both_keeps | with_reducible apply State.modSwc_keeps
    | with_reducible apply State.halStop_keeps | with_reducible apply State.logError_keeps
    | with_reducible apply State.raise_keeps | with_reducible apply State.colAbortAll_keeps
    | with_reducible apply State.setSplit_keeps | with_reducible apply State.glHalLost_keeps
    | with_reducible apply State.releaseHeld_keeps | with_reducible apply Keeps.ite | split
    | with_reducible exact Keeps.refl _ _

theorem capFld_foot (h : Foot.Sub (foot [] [.CAN_CAP_RM, .CAN_CAP_TRAY, .CAN_CAP_HOST, .CAN_CAP_THERM]) F) (k : Nat) :
    Foot.Sub (capFld k).reg.foot F := by
  unfold capFld
  split <;> exact h.up (by decide +kernel)

def State.lowerCap1_foot : Foot := Foot.join [foot [] [.CAN_CAP_RM, .CAN_CAP_TRAY, .CAN_CAP_HOST, .CAN_CAP_THERM],
  State.setCap_foot]

theorem State.lowerCap1_keeps (hs : Keeps F S s) (hF : Foot.Sub State.lowerCap1_foot F) (k : Nat) :
    Keeps F S (State.lowerCap1 s k) := by
  unfold State.lowerCap1
  repeat' first
    | with_reducible assumption | (with_reducible refine Foot.Sub.up hF ?_; decide +kernel)
    | with_reducible apply capFld_foot
    | ((first | intro x | (lift_lets; intro x))
       first
         | (refine Keeps.cut x ?_ (fun hx => ?_); rotate_left; clear_value x; rotate_left; unfold x)
         | clear_value x
         | skip)
    | with_reducible apply State.setCap_keeps | with_reducible apply Keeps.ite
    | with_reducible exact Keeps.refl _ _

def State.splitView_foot : Foot := Foot.join [State.cantonEvent_foot, State.viewOne_foot]

theorem State.splitView_keeps (hs : Keeps F S s) (hF : Foot.Sub State.splitView_foot F) (p : Plane) :
    Keeps F S (State.splitView s p) := by
  unfold State.splitView
  repeat' first
    | with_reducible assumption | (with_reducible refine Foot.Sub.up hF ?_; decide +kernel)
    | ((first | intro x | (lift_lets; intro x))
       first
         | (refine Keeps.cut x ?_ (fun hx => ?_); rotate_left; clear_value x; rotate_left; unfold x)
         | clear_value x
         | skip)
    | with_reducible apply State.each_keeps | with_reducible apply State.cantonEvent_keeps
    | with_reducible apply State.viewOne_keeps | with_reducible exact Keeps.refl _ _

def State.unitRecord_foot : Foot := State.halControl_foot

theorem State.unitRecord_keeps (hs : Keeps F S s) (hF : Foot.Sub State.unitRecord_foot F) (q : Plane) :
    Keeps F S (State.unitRecord s q) := by
  unfold State.unitRecord
  repeat' first
    | with_reducible assumption | (with_reducible refine Foot.Sub.up hF ?_; decide +kernel)
    | ((first | intro x | (lift_lets; intro x))
       first
         | (refine Keeps.cut x ?_ (fun hx => ?_); rotate_left; clear_value x; rotate_left; unfold x)
         | clear_value x
         | skip)
    | with_reducible apply State.halControl_keeps | with_reducible apply Keeps.ite
    | with_reducible exact Keeps.refl _ _

def State.splitEnd_foot : Foot := Foot.join [State.setSplit_foot, State.lowerCap1_foot, State.splitView_foot,
  State.unitRecord_foot]

theorem State.splitEnd_keeps (hs : Keeps F S s) (hF : Foot.Sub State.splitEnd_foot F) :
    Keeps F S (State.splitEnd s) := by
  unfold State.splitEnd
  repeat' first
    | with_reducible assumption | (with_reducible refine Foot.Sub.up hF ?_; decide +kernel)
    | ((first | intro x | (lift_lets; intro x))
       first
         | (refine Keeps.cut x ?_ (fun hx => ?_); rotate_left; clear_value x; rotate_left; unfold x)
         | clear_value x
         | skip)
    | with_reducible apply State.each_keeps | with_reducible apply State.setSplit_keeps
    | with_reducible apply State.lowerCap1_keeps | with_reducible apply State.splitView_keeps
    | with_reducible apply State.unitRecord_keeps | with_reducible apply Keeps.ite | split
    | with_reducible exact Keeps.refl _ _

def State.halReturn_foot : Foot := Foot.join [foot [.swc] [], State.halStart_foot, State.startHold_foot,
  State.splitEnd_foot, State.glHalBack_foot]

theorem State.halReturn_keeps (hs : Keeps F S s) (hF : Foot.Sub State.halReturn_foot F) :
    Keeps F S (State.halReturn s) := by
  unfold State.halReturn
  repeat' first
    | with_reducible assumption | (with_reducible refine Foot.Sub.up hF ?_; decide +kernel)
    | ((first | intro x | (lift_lets; intro x))
       first
         | (refine Keeps.cut x ?_ (fun hx => ?_); rotate_left; clear_value x; rotate_left; unfold x)
         | clear_value x
         | skip)
    | with_reducible apply State.both_keeps | with_reducible apply State.modSwc_keeps
    | with_reducible apply State.halStart_keeps | with_reducible apply State.startHold_keeps
    | with_reducible apply State.splitEnd_keeps | with_reducible apply State.glHalBack_keeps
    | with_reducible apply Keeps.ite | with_reducible exact Keeps.refl _ _

def State.halPacketIn_foot : Foot := Foot.join [State.recvUnits_foot, State.discard1_foot, State.freeUnits_foot,
  State.admitPkt_foot]

theorem State.halPacketIn_keeps (hs : Keeps F S s) (hF : Foot.Sub State.halPacketIn_foot F) (p : Plane)
    (vc : Nat) (b : Bytes) (bad : Bool) :
    Keeps F S (State.halPacketIn s p vc b bad) := by
  unfold State.halPacketIn
  repeat' first
    | with_reducible assumption | (with_reducible refine Foot.Sub.up hF ?_; decide +kernel)
    | ((first | intro x | (lift_lets; intro x))
       first
         | (refine Keeps.cut x ?_ (fun hx => ?_); rotate_left; clear_value x; rotate_left; unfold x)
         | clear_value x
         | skip)
    | with_reducible apply State.recvUnits_keeps | with_reducible apply State.discard1_keeps
    | with_reducible apply State.freeUnits_keeps | with_reducible apply State.admitPkt_keeps | split
    | with_reducible exact Keeps.refl _ _

def State.setHalRx_foot : Foot := foot [.swc] []

theorem State.setHalRx_keeps (hs : Keeps F S s) (hF : Foot.Sub State.setHalRx_foot F) (p : Plane) (vc : Nat)
    (b : Bytes) :
    Keeps F S (State.setHalRx s p vc b) := by
  unfold State.setHalRx
  repeat' first
    | with_reducible assumption | (with_reducible refine Foot.Sub.up hF ?_; decide +kernel)
    | with_reducible apply State.modSwc_keeps | intro x | with_reducible exact Keeps.refl _ _

def State.halUnit_foot : Foot := Foot.join [State.freeUnits_foot, State.recvUnits_foot, State.halPacketIn_foot,
  State.setHalRx_foot]

theorem State.halUnit_keeps (hs : Keeps F S s) (hF : Foot.Sub State.halUnit_foot F) (p : Plane) (vc : Nat)
    (start bad : Bool) (u : Bytes) :
    Keeps F S (State.halUnit s p vc start bad u) := by
  unfold State.halUnit
  repeat' first
    | with_reducible assumption | (with_reducible refine Foot.Sub.up hF ?_; decide +kernel)
    | ((first | intro x | (lift_lets; intro x))
       first
         | (refine Keeps.cut x ?_ (fun hx => ?_); rotate_left; clear_value x; rotate_left; unfold x)
         | clear_value x
         | skip)
    | with_reducible apply State.freeUnits_keeps | with_reducible apply State.recvUnits_keeps
    | with_reducible apply State.halPacketIn_keeps | with_reducible apply State.setHalRx_keeps
    | with_reducible apply Keeps.ite | with_reducible exact Keeps.refl _ _

def State.halResend_foot : Foot := Foot.join [foot [.swc, .out] [.SWC_HAL_REPLAY], State.halTold_foot]

theorem State.halResend_keeps (hs : Keeps F S s) (hF : Foot.Sub State.halResend_foot F) (p : Plane) :
    Keeps F S (State.halResend s p) := by
  unfold State.halResend
  repeat' first
    | with_reducible assumption | (with_reducible refine Foot.Sub.up hF ?_; decide +kernel)
    | ((first | intro x | (lift_lets; intro x))
       first
         | (refine Keeps.cut x ?_ (fun hx => ?_); rotate_left; clear_value x; rotate_left; unfold x)
         | clear_value x
         | skip)
    | with_reducible apply State.modSwc_keeps | with_reducible apply State.countN_keeps
    | with_reducible apply State.each_keeps | with_reducible apply State.emit_keeps
    | with_reducible apply State.halTold_keeps | split | with_reducible exact Keeps.refl _ _

def State.halPump_foot : Foot := Foot.join [foot [.swc] [], State.halSend_foot, State.halCtlOut_foot]

theorem State.halPump_keeps (hs : Keeps F S s) (hF : Foot.Sub State.halPump_foot F) (p : Plane) :
    Keeps F S (State.halPump s p) := by
  unfold State.halPump
  repeat' first
    | with_reducible assumption | (with_reducible refine Foot.Sub.up hF ?_; decide +kernel)
    | ((first | intro x | (lift_lets; intro x))
       first
         | (refine Keeps.cut x ?_ (fun hx => ?_); rotate_left; clear_value x; rotate_left; unfold x)
         | clear_value x
         | skip)
    | with_reducible apply State.modSwc_keeps | with_reducible apply State.each_keeps
    | with_reducible apply State.halSend_keeps | with_reducible apply State.halCtlOut_keeps
    | with_reducible apply Keeps.ite | with_reducible exact Keeps.refl _ _

def State.halAck_foot : Foot := Foot.join [foot [.swc] [], State.modCred_foot, State.halFail_foot,
  State.halResend_foot]

theorem State.halAck_keeps (hs : Keeps F S s) (hF : Foot.Sub State.halAck_foot F) (p : Plane) (f : HalFlit) :
    Keeps F S (State.halAck s p f) := by
  unfold State.halAck
  repeat' first
    | with_reducible assumption | (with_reducible refine Foot.Sub.up hF ?_; decide +kernel)
    | ((first | intro x | (lift_lets; intro x))
       first
         | (refine Keeps.cut x ?_ (fun hx => ?_); rotate_left; clear_value x; rotate_left; unfold x)
         | clear_value x
         | skip)
    | with_reducible apply State.modSwc_keeps | with_reducible apply State.each_keeps
    | with_reducible apply State.modCred_keeps | with_reducible apply State.halFail_keeps
    | with_reducible apply State.halResend_keeps | with_reducible apply Keeps.ite
    | with_reducible exact Keeps.refl _ _

def State.halData_foot : Foot := State.halUnit_foot

theorem State.halData_keeps (hs : Keeps F S s) (hF : Foot.Sub State.halData_foot F) (p : Plane) (f : HalFlit) :
    Keeps F S (State.halData s p f) := by
  unfold State.halData
  repeat' first
    | with_reducible assumption | (with_reducible refine Foot.Sub.up hF ?_; decide +kernel)
    | ((first | intro x | (lift_lets; intro x))
       first
         | (refine Keeps.cut x ?_ (fun hx => ?_); rotate_left; clear_value x; rotate_left; unfold x)
         | clear_value x
         | skip)
    | with_reducible apply State.each_keeps | with_reducible apply State.halUnit_keeps
    | with_reducible exact Keeps.refl _ _

def State.halFlitIn_foot : Foot := Foot.join [foot [.swc] [.SWC_HAL_CRC], State.halAck_foot, State.halData_foot,
  State.halTell_foot, State.halPump_foot]

theorem State.halFlitIn_keeps (hs : Keeps F S s) (hF : Foot.Sub State.halFlitIn_foot F) (p : Plane)
    (f : HalFlit) :
    Keeps F S (State.halFlitIn s p f) := by
  unfold State.halFlitIn
  repeat' first
    | with_reducible assumption | (with_reducible refine Foot.Sub.up hF ?_; decide +kernel)
    | ((first | intro x | (lift_lets; intro x))
       first
         | (refine Keeps.cut x ?_ (fun hx => ?_); rotate_left; clear_value x; rotate_left; unfold x)
         | clear_value x
         | skip)
    | with_reducible apply State.modSwc_keeps | with_reducible apply State.count_keeps
    | with_reducible apply State.halAck_keeps | with_reducible apply State.halData_keeps
    | with_reducible apply State.halTell_keeps | with_reducible apply State.halPump_keeps
    | with_reducible apply Keeps.ite | with_reducible exact Keeps.refl _ _

def execCreditSend_foot : Foot := Foot.join [State.halTell_foot, State.creditSend_foot]

theorem execCreditSend_keeps (hF : Foot.Sub execCreditSend_foot F) (p : Plane) (i : Fin 577) (s : State) :
    ∃ t', execCreditSend p i s = .next t' ∧ Keeps F s t' := by
  unfold execCreditSend
  refine ⟨_, rfl, ?_⟩
  repeat' first
    | with_reducible assumption | (with_reducible refine Foot.Sub.up hF ?_; decide +kernel)
    | with_reducible apply State.when_keeps | with_reducible apply State.halTell_keeps
    | with_reducible apply State.creditSend_keeps | intro x | with_reducible apply Keeps.ite
    | with_reducible exact Keeps.refl _ _

def execHalyardFlit_foot : Foot := State.halFlitIn_foot

theorem execHalyardFlit_keeps (hF : Foot.Sub execHalyardFlit_foot F) (p : Plane) (f : HalFlit) (s : State) :
    ∃ t', execHalyardFlit p f s = .next t' ∧ Keeps F s t' := by
  unfold execHalyardFlit
  refine ⟨_, rfl, ?_⟩
  repeat' first
    | with_reducible assumption | (with_reducible refine Foot.Sub.up hF ?_; decide +kernel)
    | with_reducible apply State.when_keeps | with_reducible apply State.halFlitIn_keeps | intro x
    | with_reducible exact Keeps.refl _ _

def execHalyardFail_foot : Foot := State.halFail_foot

theorem execHalyardFail_keeps (hF : Foot.Sub execHalyardFail_foot F) (s : State) :
    ∃ t', execHalyardFail s = .next t' ∧ Keeps F s t' := by
  unfold execHalyardFail
  refine ⟨_, rfl, ?_⟩
  repeat' first
    | with_reducible assumption | (with_reducible refine Foot.Sub.up hF ?_; decide +kernel)
    | with_reducible apply State.halFail_keeps | with_reducible exact Keeps.refl _ _

def execHalyardReturn_foot : Foot := State.halReturn_foot

theorem execHalyardReturn_keeps (hF : Foot.Sub execHalyardReturn_foot F) (s : State) :
    ∃ t', execHalyardReturn s = .next t' ∧ Keeps F s t' := by
  unfold execHalyardReturn
  refine ⟨_, rfl, ?_⟩
  repeat' first
    | with_reducible assumption | (with_reducible refine Foot.Sub.up hF ?_; decide +kernel)
    | with_reducible apply State.halReturn_keeps | with_reducible exact Keeps.refl _ _

def execViewCheck_foot : Foot := State.viewOne_foot

theorem execViewCheck_keeps (hF : Foot.Sub execViewCheck_foot F) (s : State) :
    ∃ t', execViewCheck s = .next t' ∧ Keeps F s t' := by
  unfold execViewCheck
  refine ⟨_, rfl, ?_⟩
  repeat' first
    | with_reducible assumption | (with_reducible refine Foot.Sub.up hF ?_; decide +kernel)
    | ((first | intro x | (lift_lets; intro x))
       first
         | (refine Keeps.cut x ?_ (fun hx => ?_); rotate_left; clear_value x; rotate_left; unfold x)
         | clear_value x
         | skip)
    | with_reducible apply State.each_keeps | with_reducible apply State.viewOne_keeps
    | with_reducible apply Keeps.ite | split | with_reducible exact Keeps.refl _ _

end Sys2Proof.Machine
end

