-- ==== Sys2Proof/Laws/KeepPower.lean ====
section
/-! SUPPORT. `Keeps` of the definitions of Machine/Power.lean, each with its footprint. -/

namespace Sys2Proof.Machine

set_option Elab.async false

variable {F : Foot} {S s : State}

def State.lasersOn_foot : Foot := Foot.join [foot [.out, .free] [], State.modLne_foot, State.invSet_foot]

theorem State.lasersOn_keeps (hs : Keeps F S s) (hF : Foot.Sub State.lasersOn_foot F) (p : Plane) :
    Keeps F S (State.lasersOn s p) := by
  unfold State.lasersOn
  repeat' first
    | with_reducible assumption | (with_reducible refine Foot.Sub.up hF ?_; decide +kernel)
    | ((first | intro x | (lift_lets; intro x))
       first
         | (refine Keeps.cut x ?_ (fun hx => ?_); rotate_left; clear_value x; rotate_left; unfold x)
         | clear_value x
         | skip)
    | with_reducible apply State.each_keeps | with_reducible apply State.emit_keeps
    | with_reducible apply State.takeFree_keeps | with_reducible apply State.modLne_keeps
    | with_reducible apply State.invSet_keeps | with_reducible apply Keeps.ite
    | with_reducible refine Keeps.snd ?_ (by assumption) | split | with_reducible exact Keeps.refl _ _

theorem State.sensF_keeps (hs : Keeps F S s) (p : Plane) (k : Nat) (f : Fld) (v : Nat)
    (hf : Foot.Sub f.reg.foot F) :
    Keeps F S (State.sensF s p k f v) := by
  unfold State.sensF
  repeat' first
    | with_reducible assumption | with_reducible apply State.setF_keeps | with_reducible apply State.both_keeps
    | intro x | with_reducible apply Keeps.ite | split | with_reducible exact Keeps.refl _ _

def State.capToFloor_foot : Foot := Foot.join [foot [] [.CAN_PWR_STAT, .CAN_CAP_THERM], State.setCap_foot]

theorem State.capToFloor_keeps (hs : Keeps F S s) (hF : Foot.Sub State.capToFloor_foot F) (p : Plane) :
    Keeps F S (State.capToFloor s p) := by
  unfold State.capToFloor
  repeat' first
    | with_reducible assumption | (with_reducible refine Foot.Sub.up hF ?_; decide +kernel)
    | ((first | intro x | (lift_lets; intro x))
       first
         | (refine Keeps.cut x ?_ (fun hx => ?_); rotate_left; clear_value x; rotate_left; unfold x)
         | clear_value x
         | skip)
    | with_reducible apply State.pkgF_keeps | with_reducible apply State.setCap_keeps
    | with_reducible apply Keeps.ite | with_reducible exact Keeps.refl _ _

def State.hotCheck_foot : Foot := Foot.join [foot [.can] [], State.showLevel_foot]

theorem State.hotCheck_keeps (hs : Keeps F S s) (hF : Foot.Sub State.hotCheck_foot F) (p : Plane) :
    Keeps F S (State.hotCheck s p) := by
  unfold State.hotCheck
  repeat' first
    | with_reducible assumption | (with_reducible refine Foot.Sub.up hF ?_; decide +kernel)
    | ((first | intro x | (lift_lets; intro x))
       first
         | (refine Keeps.cut x ?_ (fun hx => ?_); rotate_left; clear_value x; rotate_left; unfold x)
         | clear_value x
         | skip)
    | with_reducible apply State.modCan_keeps | with_reducible apply State.showLevel_keeps
    | with_reducible apply Keeps.ite | with_reducible exact Keeps.refl _ _

def State.laserAlarm_foot : Foot := Foot.join [State.laserCut_foot, State.darken_foot]

theorem State.laserAlarm_keeps (hs : Keeps F S s) (hF : Foot.Sub State.laserAlarm_foot F) (p : Plane) (c : Nat) :
    Keeps F S (State.laserAlarm s p c) := by
  unfold State.laserAlarm
  repeat' first
    | with_reducible assumption | (with_reducible refine Foot.Sub.up hF ?_; decide +kernel)
    | ((first | intro x | (lift_lets; intro x))
       first
         | (refine Keeps.cut x ?_ (fun hx => ?_); rotate_left; clear_value x; rotate_left; unfold x)
         | clear_value x
         | skip)
    | with_reducible apply State.laserCut_keeps | with_reducible apply State.darken_keeps
    | with_reducible apply Keeps.ite | with_reducible exact Keeps.refl _ _

def State.sensShow_foot : Foot := Foot.join [foot [] [.CAN_SENSOR], State.journalAdd_foot, State.hwEvent_foot,
  State.hotCheck_foot, State.laserAlarm_foot, State.capToFloor_foot]

theorem State.sensShow_keeps (hs : Keeps F S s) (hF : Foot.Sub State.sensShow_foot F) (p : Plane) (k : Nat)
    (v : Int) (fault warn crit : Bool) :
    Keeps F S (State.sensShow s p k v fault warn crit) := by
  unfold State.sensShow
  repeat' first
    | with_reducible assumption | (with_reducible refine Foot.Sub.up hF ?_; decide +kernel)
    | ((first | intro x | (lift_lets; intro x))
       first
         | (refine Keeps.cut x ?_ (fun hx => ?_); rotate_left; clear_value x; rotate_left; unfold x)
         | clear_value x
         | skip)
    | with_reducible apply State.sensF_keeps | with_reducible apply State.journalAdd_keeps
    | with_reducible apply State.hwEvent_keeps | with_reducible apply State.hotCheck_keeps
    | with_reducible apply State.laserAlarm_keeps | with_reducible apply State.capToFloor_keeps
    | with_reducible apply Keeps.ite | with_reducible refine Keeps.snd ?_ (by assumption) | split
    | with_reducible exact Keeps.refl _ _

def State.cycleCheck_foot : Foot := Foot.join [foot [.pkg] [], State.journalAdd_foot]

theorem State.cycleCheck_keeps (hs : Keeps F S s) (hF : Foot.Sub State.cycleCheck_foot F) :
    Keeps F S (State.cycleCheck s) := by
  unfold State.cycleCheck
  repeat' first
    | with_reducible assumption | (with_reducible refine Foot.Sub.up hF ?_; decide +kernel)
    | ((first | intro x | (lift_lets; intro x))
       first
         | (refine Keeps.cut x ?_ (fun hx => ?_); rotate_left; clear_value x; rotate_left; unfold x)
         | clear_value x
         | skip)
    | with_reducible apply State.modPkg_keeps | with_reducible apply State.journalAdd_keeps
    | with_reducible apply Keeps.ite | split | with_reducible exact Keeps.refl _ _

def State.flowPoll_foot : Foot := Foot.join [State.sensShow_foot, State.hwEvent_foot]

theorem State.flowPoll_keeps (hs : Keeps F S s) (hF : Foot.Sub State.flowPoll_foot F) (p q : Plane)
    (v : Option Int) (fault : Bool) :
    Keeps F S (State.flowPoll s p q v fault) := by
  unfold State.flowPoll
  dsimp only
  repeat' first
    | with_reducible assumption | (with_reducible refine Foot.Sub.up hF ?_; decide +kernel)
    | ((first | intro x | (lift_lets; intro x))
       first
         | (refine Keeps.cut x ?_ (fun hx => ?_); rotate_left; clear_value x; rotate_left; unfold x)
         | (refine Keeps.cutF x ?_ (fun hx => ?_); rotate_left; clear_value x; rotate_left; unfold x)
         | (refine Keeps.cutG x ?_ (fun hx => ?_); rotate_left; clear_value x; rotate_left; unfold x)
         | (refine Keeps.cutH x ?_ (fun hx => ?_); rotate_left; clear_value x; rotate_left; unfold x)
         | clear_value x
         | skip)
    | with_reducible apply State.sensShow_keeps | with_reducible apply State.hwEvent_keeps
    | with_reducible refine Keeps.appF ?_ (by assumption) | with_reducible refine Keeps.appG ?_ (by assumption)
    | with_reducible refine Keeps.appH ?_ (by assumption) | with_reducible apply Keeps.ite | split
    | with_reducible exact Keeps.refl _ _ | dsimp only

def State.sensorIn_foot : Foot := Foot.join [foot [.pkg, .free, .can] [.CAN_PWR_STAT], State.sensShow_foot,
  State.cycleCheck_foot, State.flowPoll_foot]

theorem State.sensorIn_keeps (hs : Keeps F S s) (hF : Foot.Sub State.sensorIn_foot F) (p : Plane) (k : Nat)
    (r : Sample) :
    Keeps F S (State.sensorIn s p k r) := by
  unfold State.sensorIn
  repeat' first
    | with_reducible assumption | (with_reducible refine Foot.Sub.up hF ?_; decide +kernel)
    | ((first | intro x | (lift_lets; intro x))
       first
         | (refine Keeps.cut x ?_ (fun hx => ?_); rotate_left; clear_value x; rotate_left; unfold x)
         | clear_value x
         | skip)
    | with_reducible apply State.modPkg_keeps | with_reducible apply State.takeFree_keeps
    | with_reducible apply State.modCan_keeps | with_reducible apply State.sensShow_keeps
    | with_reducible apply State.cycleCheck_keeps | with_reducible apply State.flowPoll_keeps
    | with_reducible apply State.bothF_keeps | with_reducible apply Keeps.ite
    | with_reducible refine Keeps.snd ?_ (by assumption) | split | with_reducible exact Keeps.refl _ _

def execSensorPoll_foot : Foot := State.sensorIn_foot

theorem execSensorPoll_keeps (hF : Foot.Sub execSensorPoll_foot F) (p : Plane) (k : Fin 119) (r : Sample)
    (s : State) :
    ∃ t', execSensorPoll p k r s = .next t' ∧ Keeps F s t' := by
  unfold execSensorPoll
  refine ⟨_, rfl, ?_⟩
  repeat' first
    | with_reducible assumption | (with_reducible refine Foot.Sub.up hF ?_; decide +kernel)
    | with_reducible apply State.when_keeps | with_reducible apply State.sensorIn_keeps | intro x
    | with_reducible exact Keeps.refl _ _

def State.thermStep_foot : Foot := Foot.join [foot [] [.CAN_PWR_STAT, .CAN_CAP_THERM], State.setCap_foot]

theorem State.thermStep_keeps (hs : Keeps F S s) (hF : Foot.Sub State.thermStep_foot F) (p : Plane) :
    Keeps F S (State.thermStep s p) := by
  unfold State.thermStep
  repeat' first
    | with_reducible assumption | (with_reducible refine Foot.Sub.up hF ?_; decide +kernel)
    | ((first | intro x | (lift_lets; intro x))
       first
         | (refine Keeps.cut x ?_ (fun hx => ?_); rotate_left; clear_value x; rotate_left; unfold x)
         | clear_value x
         | skip)
    | with_reducible apply State.pkgF_keeps | with_reducible apply State.setCap_keeps
    | with_reducible apply Keeps.ite | with_reducible exact Keeps.refl _ _

def execThermCapStep_foot : Foot := State.thermStep_foot

theorem execThermCapStep_keeps (hF : Foot.Sub execThermCapStep_foot F) (s : State) :
    ∃ t', execThermCapStep s = .next t' ∧ Keeps F s t' := by
  unfold execThermCapStep
  refine ⟨_, rfl, ?_⟩
  repeat' first
    | with_reducible assumption | (with_reducible refine Foot.Sub.up hF ?_; decide +kernel)
    | with_reducible apply State.thermStep_keeps | with_reducible apply Keeps.ite | split
    | with_reducible exact Keeps.refl _ _

def State.meetCheck_foot : Foot := Foot.join [foot [.can] [.CAN_PWR_STAT], State.showLevel_foot]

theorem State.meetCheck_keeps (hs : Keeps F S s) (hF : Foot.Sub State.meetCheck_foot F) (p : Plane) :
    Keeps F S (State.meetCheck s p) := by
  unfold State.meetCheck
  repeat' first
    | with_reducible assumption | (with_reducible refine Foot.Sub.up hF ?_; decide +kernel)
    | ((first | intro x | (lift_lets; intro x))
       first
         | (refine Keeps.cut x ?_ (fun hx => ?_); rotate_left; clear_value x; rotate_left; unfold x)
         | clear_value x
         | skip)
    | with_reducible apply State.modCan_keeps | with_reducible apply State.both_keeps
    | with_reducible apply State.pkgF_keeps | with_reducible apply State.showLevel_keeps
    | with_reducible apply Keeps.ite | with_reducible exact Keeps.refl _ _

def State.throttle_foot : Foot := Foot.join [foot [.can] [], State.meetCheck_foot, State.showLevel_foot]

theorem State.throttle_keeps (hs : Keeps F S s) (hF : Foot.Sub State.throttle_foot F) (p : Plane) :
    Keeps F S (State.throttle s p) := by
  unfold State.throttle
  repeat' first
    | with_reducible assumption | (with_reducible refine Foot.Sub.up hF ?_; decide +kernel)
    | ((first | intro x | (lift_lets; intro x))
       first
         | (refine Keeps.cut x ?_ (fun hx => ?_); rotate_left; clear_value x; rotate_left; unfold x)
         | clear_value x
         | skip)
    | with_reducible apply State.modCan_keeps | with_reducible apply State.meetCheck_keeps
    | with_reducible apply State.showLevel_keeps | with_reducible apply Keeps.ite | split
    | with_reducible exact Keeps.refl _ _

def execThrottleStep_foot : Foot := State.throttle_foot

theorem execThrottleStep_keeps (hF : Foot.Sub execThrottleStep_foot F) (p : Plane) (s : State) :
    ∃ t', execThrottleStep p s = .next t' ∧ Keeps F s t' := by
  unfold execThrottleStep
  refine ⟨_, rfl, ?_⟩
  repeat' first
    | with_reducible assumption | (with_reducible refine Foot.Sub.up hF ?_; decide +kernel)
    | with_reducible apply State.when_keeps | with_reducible apply State.throttle_keeps | intro x
    | with_reducible exact Keeps.refl _ _

def execShareUpdate_foot : Foot := foot [] [.CAN_PWR_STAT, .CAN_THR_CFG]

theorem execShareUpdate_keeps (hF : Foot.Sub execShareUpdate_foot F) (hoist fly : BitVec 16) (s : State) :
    ∃ t', execShareUpdate hoist fly s = .next t' ∧ Keeps F s t' := by
  unfold execShareUpdate
  refine ⟨_, rfl, ?_⟩
  repeat' first
    | with_reducible assumption | (with_reducible refine Foot.Sub.up hF ?_; decide +kernel)
    | ((first | intro x | (lift_lets; intro x))
       first
         | (refine Keeps.cut x ?_ (fun hx => ?_); rotate_left; clear_value x; rotate_left; unfold x)
         | clear_value x
         | skip)
    | with_reducible apply State.setF_keeps | with_reducible apply State.pkgF_keeps
    | with_reducible apply Keeps.ite | split | with_reducible exact Keeps.refl _ _

def execCapUnmeet_foot : Foot := State.unmeet_foot

theorem execCapUnmeet_keeps (hF : Foot.Sub execCapUnmeet_foot F) (p : Plane) (s : State) :
    ∃ t', execCapUnmeet p s = .next t' ∧ Keeps F s t' := by
  unfold execCapUnmeet
  refine ⟨_, rfl, ?_⟩
  repeat' first
    | with_reducible assumption | (with_reducible refine Foot.Sub.up hF ?_; decide +kernel)
    | with_reducible apply State.unmeet_keeps | with_reducible apply Keeps.ite
    | with_reducible exact Keeps.refl _ _

def State.capHost_foot : Foot := Foot.join [foot [] [.CAN_CAP_HOST], State.setCap_foot]

theorem State.capHost_keeps (hs : Keeps F S s) (hF : Foot.Sub State.capHost_foot F) (p : Plane) (v : Nat) :
    Keeps F S (State.capHost s p v) := by
  unfold State.capHost
  repeat' first
    | with_reducible assumption | (with_reducible refine Foot.Sub.up hF ?_; decide +kernel)
    | with_reducible apply State.setCap_keeps | with_reducible apply Keeps.ite
    | with_reducible exact Keeps.refl _ _

def execCapHostWrite_foot : Foot := State.capHost_foot

theorem execCapHostWrite_keeps (hF : Foot.Sub execCapHostWrite_foot F) (p : Plane) (v : Word) (s : State) :
    ∃ t', execCapHostWrite p v s = .next t' ∧ Keeps F s t' := by
  unfold execCapHostWrite
  refine ⟨_, rfl, ?_⟩
  repeat' first
    | with_reducible assumption | (with_reducible refine Foot.Sub.up hF ?_; decide +kernel)
    | with_reducible apply State.when_keeps | with_reducible apply State.capHost_keeps | intro x
    | with_reducible exact Keeps.refl _ _

def State.logicReset_foot : Foot := Foot.join [foot [.committed, .partW, .latch, .loose, .ft, .lne, .line, .lfp,
  .rte, .swc, .hif, .can, .epc, .tst, .col, .dsp, .pools, .mem] [.CAN_PWR_STATE, .CAN_LEAK, .TOP_CLK_STAT,
  .CAN_PWR_STAT], Foot.regs]

theorem State.logicReset_keeps (hs : Keeps F S s) (hF : Foot.Sub State.logicReset_foot F) :
    Keeps F S (State.logicReset s) := by
  unfold State.logicReset
  lift_lets
  intro lim epo trip leak floor aon x
  have h : Keeps F S x :=
    State.both_keeps hs _ (fun p s => State.modPl_keeps (Keeps.refl _ s) p _ (fun x =>
      PlaneSt.Stays.any (hF.up (by decide +kernel))
        (fun h => ⟨keysAbove_filter _ x.regs none h.regs, rfl, rfl, rfl, Nat.zero_le _⟩)))
  clear_value x
  intro y
  have h2 : Keeps F S y := by
    apply State.bothF_keeps
    · apply State.bothF_keeps h
      exact hF.up (by decide +kernel)
    exact hF.up (by decide +kernel)
  clear_value y
  intro z
  have h3 : Keeps F S z := by
    apply State.bothF_keeps
    · apply State.bothF_keeps h2
      exact hF.up (by decide +kernel)
    exact hF.up (by decide +kernel)
  clear_value z
  apply State.bothF_keeps
  · apply State.bothF_keeps h3
    exact hF.up (by decide +kernel)
  exact hF.up (by decide +kernel)

def State.raisePower_foot : Foot := State.raise_foot

theorem State.raisePower_keeps (hs : Keeps F S s) (hF : Foot.Sub State.raisePower_foot F) (new old : Nat) :
    Keeps F S (State.raisePower s new old) := by
  unfold State.raisePower
  repeat' first
    | with_reducible assumption | (with_reducible refine Foot.Sub.up hF ?_; decide +kernel)
    | with_reducible apply State.both_keeps | with_reducible apply State.raise_keeps | intro x
    | with_reducible apply Keeps.ite | with_reducible exact Keeps.refl _ _

def State.halDown_foot : Foot := Foot.join [State.setSplit_foot, State.releaseHeld_foot]

theorem State.halDown_keeps (hs : Keeps F S s) (hF : Foot.Sub State.halDown_foot F) :
    Keeps F S (State.halDown s) := by
  unfold State.halDown
  repeat' first
    | with_reducible assumption | (with_reducible refine Foot.Sub.up hF ?_; decide +kernel)
    | ((first | intro x | (lift_lets; intro x))
       first
         | (refine Keeps.cut x ?_ (fun hx => ?_); rotate_left; clear_value x; rotate_left; unfold x)
         | clear_value x
         | skip)
    | with_reducible apply State.setSplit_keeps | with_reducible apply State.releaseHeld_keeps
    | with_reducible apply Keeps.ite | split | with_reducible exact Keeps.refl _ _

def State.enterOff_foot : Foot := Foot.join [foot [.pkg] [], State.raisePower_foot, State.modLne_foot,
  State.logicReset_foot, State.halDown_foot]

theorem State.enterOff_keeps (hs : Keeps F S s) (hF : Foot.Sub State.enterOff_foot F) :
    Keeps F S (State.enterOff s) := by
  unfold State.enterOff
  repeat' first
    | with_reducible assumption | (with_reducible refine Foot.Sub.up hF ?_; decide +kernel)
    | ((first | intro x | (lift_lets; intro x))
       first
         | (refine Keeps.cut x ?_ (fun hx => ?_); rotate_left; clear_value x; rotate_left; unfold x)
         | clear_value x
         | skip)
    | with_reducible apply State.both_keeps | with_reducible apply State.modPkg_keeps
    | with_reducible apply State.raisePower_keeps | with_reducible apply State.modLne_keeps
    | with_reducible apply State.logicReset_keeps | with_reducible apply State.halDown_keeps
    | with_reducible apply Keeps.ite | with_reducible exact Keeps.refl _ _

def State.leaveOff_foot : Foot := Foot.join [foot [.pkg] [.CAN_PWR_STATE], State.logicReset_foot]

theorem State.leaveOff_keeps (hs : Keeps F S s) (hF : Foot.Sub State.leaveOff_foot F) :
    Keeps F S (State.leaveOff s) := by
  unfold State.leaveOff
  repeat' first
    | with_reducible assumption | (with_reducible refine Foot.Sub.up hF ?_; decide +kernel)
    | ((first | intro x | (lift_lets; intro x))
       first
         | (refine Keeps.cut x ?_ (fun hx => ?_); rotate_left; clear_value x; rotate_left; unfold x)
         | clear_value x
         | skip)
    | with_reducible apply State.modPkg_keeps | with_reducible apply State.logicReset_keeps
    | with_reducible apply State.bothF_keeps | with_reducible exact Keeps.refl _ _

def State.saveInventory_foot : Foot := foot [.pkg] []

theorem State.saveInventory_keeps (hs : Keeps F S s) (hF : Foot.Sub State.saveInventory_foot F) :
    Keeps F S (State.saveInventory s) := by
  unfold State.saveInventory
  repeat' first
    | with_reducible assumption | (with_reducible refine Foot.Sub.up hF ?_; decide +kernel)
    | with_reducible apply State.modPkg_keeps | intro x | with_reducible exact Keeps.refl _ _

def State.memDiscard_foot : Foot := Foot.join [foot [.mem] [.GWM_COPY_ACT, .GWM_FWD_USED], State.modEp_foot]

theorem State.memDiscard_keeps (hs : Keeps F S s) (hF : Foot.Sub State.memDiscard_foot F) (p : Plane) :
    Keeps F S (State.memDiscard s p) := by
  unfold State.memDiscard
  repeat' first
    | with_reducible assumption | (with_reducible refine Foot.Sub.up hF ?_; decide +kernel)
    | ((first | intro x | (lift_lets; intro x))
       first
         | (refine Keeps.cut x ?_ (fun hx => ?_); rotate_left; clear_value x; rotate_left; unfold x)
         | clear_value x
         | skip)
    | with_reducible apply State.modMem_keeps | with_reducible apply State.setF_keeps
    | with_reducible apply State.modEp_keeps | with_reducible exact Keeps.refl _ _ | exact ⟨rfl, rfl⟩

def State.leaveActive3_foot : Foot := Foot.join [State.portsOut_foot, State.dspAbortAll_foot,
  State.colAbortAll_foot, State.gateAll_foot, State.memDiscard_foot]

theorem State.leaveActive3_keeps (hs : Keeps F S s) (hF : Foot.Sub State.leaveActive3_foot F) (p : Plane) :
    Keeps F S (State.leaveActive3 s p) := by
  unfold State.leaveActive3
  repeat' first
    | with_reducible assumption | (with_reducible refine Foot.Sub.up hF ?_; decide +kernel)
    | ((first | intro x | (lift_lets; intro x))
       first
         | (refine Keeps.cut x ?_ (fun hx => ?_); rotate_left; clear_value x; rotate_left; unfold x)
         | clear_value x
         | skip)
    | with_reducible apply State.portsOut_keeps | with_reducible apply State.dspAbortAll_keeps
    | with_reducible apply State.colAbortAll_keeps | with_reducible apply State.gateAll_keeps
    | with_reducible apply State.memDiscard_keeps | with_reducible exact Keeps.refl _ _

def State.coreStop_foot : Foot := foot [] [.TOP_CLK_STAT]

theorem State.coreStop_keeps (hs : Keeps F S s) (hF : Foot.Sub State.coreStop_foot F) (p : Plane) :
    Keeps F S (State.coreStop s p) := by
  unfold State.coreStop
  repeat' first
    | with_reducible assumption | (with_reducible refine Foot.Sub.up hF ?_; decide +kernel)
    | with_reducible apply State.setF_keeps | with_reducible apply State.setFlag_keeps
    | with_reducible exact Keeps.refl _ _

def State.leaveReady_foot : Foot := Foot.join [foot [.mem, .pools] [.TOP_PG_STAT, .MEM_STAT], State.swcReset_foot,
  State.halStop_foot, State.lasersOff_foot, State.coreStop_foot]

theorem State.leaveReady_keeps (hs : Keeps F S s) (hF : Foot.Sub State.leaveReady_foot F) (p : Plane) :
    Keeps F S (State.leaveReady s p) := by
  unfold State.leaveReady
  repeat' first
    | with_reducible assumption | (with_reducible refine Foot.Sub.up hF ?_; decide +kernel)
    | ((first | intro x | (lift_lets; intro x))
       first
         | (refine Keeps.cut x ?_ (fun hx => ?_); rotate_left; clear_value x; rotate_left; unfold x)
         | clear_value x
         | skip)
    | with_reducible apply State.setF_keeps | with_reducible apply State.setFlag_keeps
    | with_reducible apply State.swcReset_keeps | with_reducible apply State.halStop_keeps
    | with_reducible apply State.lasersOff_keeps | with_reducible apply State.coreStop_keeps
    | with_reducible apply State.modMem_pools | with_reducible apply Keeps.ite
    | with_reducible exact Keeps.refl _ _ | exact ⟨fun _ => rfl, fun h => h⟩ | exact ⟨fun h => h, fun _ => rfl⟩
    | exact ⟨fun _ => rfl, fun _ => rfl⟩ | exact ⟨fun h => wf_filter _ _ _ h, fun h => h⟩ | exact ⟨rfl, rfl⟩

def State.startMove_foot : Foot := Foot.join [foot [.pkg] [], State.pwrOff_foot, State.leaveOff_foot,
  State.leaveActive3_foot, State.halDown_foot, State.saveInventory_foot, State.leaveReady_foot]

theorem State.startMove_keeps (hs : Keeps F S s) (hF : Foot.Sub State.startMove_foot F) :
    Keeps F S (State.startMove s) := by
  unfold State.startMove
  repeat' first
    | with_reducible assumption | (with_reducible refine Foot.Sub.up hF ?_; decide +kernel)
    | ((first | intro x | (lift_lets; intro x))
       first
         | (refine Keeps.cut x ?_ (fun hx => ?_); rotate_left; clear_value x; rotate_left; unfold x)
         | clear_value x
         | skip)
    | with_reducible apply State.modPkg_keeps | with_reducible apply State.both_keeps
    | with_reducible apply State.pwrOff_keeps | with_reducible apply State.leaveOff_keeps
    | with_reducible apply State.leaveActive3_keeps | with_reducible apply State.halDown_keeps
    | with_reducible apply State.saveInventory_keeps | with_reducible apply State.leaveReady_keeps
    | with_reducible apply Keeps.ite | split | with_reducible exact Keeps.refl _ _

def execPowerTransition_foot : Foot := State.startMove_foot

theorem execPowerTransition_keeps (hF : Foot.Sub execPowerTransition_foot F) (s : State) :
    ∃ t', execPowerTransition s = .next t' ∧ Keeps F s t' := by
  unfold execPowerTransition
  refine ⟨_, rfl, ?_⟩
  repeat' first
    | with_reducible assumption | (with_reducible refine Foot.Sub.up hF ?_; decide +kernel)
    | with_reducible apply State.startMove_keeps | with_reducible exact Keeps.refl _ _

def State.arrive_foot : Foot := Foot.join [foot [.pkg] [.CAN_PWR_STATE, .TOP_CLK_STAT, .MEM_STAT],
  State.enterOff_foot, State.raisePower_foot, State.portsStart_foot, State.ungate_foot, State.lasersOn_foot,
  State.halStart_foot, State.splitEnd_foot, State.showLevel_foot, State.halDown_foot, State.halStop_foot,
  State.coreStop_foot, State.startMove_foot]

theorem State.arrive_keeps (hs : Keeps F S s) (hF : Foot.Sub State.arrive_foot F) :
    Keeps F S (State.arrive s) := by
  unfold State.arrive
  repeat' first
    | with_reducible assumption | (with_reducible refine Foot.Sub.up hF ?_; decide +kernel)
    | ((first | intro x | (lift_lets; intro x))
       first
         | (refine Keeps.cut x ?_ (fun hx => ?_); rotate_left; clear_value x; rotate_left; unfold x)
         | clear_value x
         | skip)
    | with_reducible apply State.modPkg_keeps | with_reducible apply State.both_keeps
    | with_reducible apply State.setFlag_keeps | with_reducible apply State.enterOff_keeps
    | with_reducible apply State.bothF_keeps | with_reducible apply State.raisePower_keeps
    | with_reducible apply State.portsStart_keeps | with_reducible apply State.ungate_keeps
    | with_reducible apply State.lasersOn_keeps | with_reducible apply State.halStart_keeps
    | with_reducible apply State.splitEnd_keeps | with_reducible apply State.showLevel_keeps
    | with_reducible apply State.halDown_keeps | with_reducible apply State.halStop_keeps
    | with_reducible apply State.coreStop_keeps | with_reducible apply State.startMove_keeps
    | with_reducible apply Keeps.ite | split | with_reducible exact Keeps.refl _ _

def execPowerState_foot : Foot := State.arrive_foot

theorem execPowerState_keeps (hF : Foot.Sub execPowerState_foot F) (s : State) :
    ∃ t', execPowerState s = .next t' ∧ Keeps F s t' := by
  unfold execPowerState
  refine ⟨_, rfl, ?_⟩
  repeat' first
    | with_reducible assumption | (with_reducible refine Foot.Sub.up hF ?_; decide +kernel)
    | with_reducible apply State.when_keeps | with_reducible apply State.arrive_keeps | intro x
    | with_reducible exact Keeps.refl _ _

def State.hostReqWrite_foot : Foot := Foot.join [foot [] [.CAN_PWR_STATE], State.journalAdd_foot,
  State.hwEvent_foot, State.startMove_foot]

theorem State.hostReqWrite_keeps (hs : Keeps F S s) (hF : Foot.Sub State.hostReqWrite_foot F) (p : Plane)
    (v : Nat) :
    Keeps F S (State.hostReqWrite s p v) := by
  unfold State.hostReqWrite
  repeat' first
    | with_reducible assumption | (with_reducible refine Foot.Sub.up hF ?_; decide +kernel)
    | ((first | intro x | (lift_lets; intro x))
       first
         | (refine Keeps.cut x ?_ (fun hx => ?_); rotate_left; clear_value x; rotate_left; unfold x)
         | clear_value x
         | skip)
    | with_reducible apply State.pkgF_keeps | with_reducible apply State.journalAdd_keeps
    | with_reducible apply State.hwEvent_keeps | with_reducible apply State.startMove_keeps
    | with_reducible apply Keeps.ite | with_reducible exact Keeps.refl _ _

def execHostReqWrite_foot : Foot := State.hostReqWrite_foot

theorem execHostReqWrite_keeps (hF : Foot.Sub execHostReqWrite_foot F) (p : Plane) (v : Word) (s : State) :
    ∃ t', execHostReqWrite p v s = .next t' ∧ Keeps F s t' := by
  unfold execHostReqWrite
  refine ⟨_, rfl, ?_⟩
  repeat' first
    | with_reducible assumption | (with_reducible refine Foot.Sub.up hF ?_; decide +kernel)
    | with_reducible apply State.when_keeps | with_reducible apply State.hostReqWrite_keeps | intro x
    | with_reducible exact Keeps.refl _ _

def State.pwrgdLoss_foot : Foot := Foot.join [foot [.pkg] [], State.enterOff_foot, State.notify_foot]

theorem State.pwrgdLoss_keeps (hs : Keeps F S s) (hF : Foot.Sub State.pwrgdLoss_foot F) :
    Keeps F S (State.pwrgdLoss s) := by
  unfold State.pwrgdLoss
  repeat' first
    | with_reducible assumption | (with_reducible refine Foot.Sub.up hF ?_; decide +kernel)
    | ((first | intro x | (lift_lets; intro x))
       first
         | (refine Keeps.cut x ?_ (fun hx => ?_); rotate_left; clear_value x; rotate_left; unfold x)
         | clear_value x
         | skip)
    | with_reducible apply State.modPkg_keeps | with_reducible apply State.enterOff_keeps
    | with_reducible apply State.notify_keeps | with_reducible apply Keeps.ite | split
    | with_reducible exact Keeps.refl _ _

def execPwrgdLoss_foot : Foot := State.pwrgdLoss_foot

theorem execPwrgdLoss_keeps (hF : Foot.Sub execPwrgdLoss_foot F) (s : State) :
    ∃ t', execPwrgdLoss s = .next t' ∧ Keeps F s t' := by
  unfold execPwrgdLoss
  refine ⟨_, rfl, ?_⟩
  repeat' first
    | with_reducible assumption | (with_reducible refine Foot.Sub.up hF ?_; decide +kernel)
    | with_reducible apply State.when_keeps | with_reducible apply State.pwrgdLoss_keeps | intro x
    | with_reducible exact Keeps.refl _ _

def execPwrgdAssert_foot : Foot := Foot.join [foot [.pkg] [], State.leaveOff_foot]

theorem execPwrgdAssert_keeps (hF : Foot.Sub execPwrgdAssert_foot F) (s : State) :
    ∃ t', execPwrgdAssert s = .next t' ∧ Keeps F s t' := by
  unfold execPwrgdAssert
  refine ⟨_, rfl, ?_⟩
  repeat' first
    | with_reducible assumption | (with_reducible refine Foot.Sub.up hF ?_; decide +kernel)
    | ((first | intro x | (lift_lets; intro x))
       first
         | (refine Keeps.cut x ?_ (fun hx => ?_); rotate_left; clear_value x; rotate_left; unfold x)
         | clear_value x
         | skip)
    | with_reducible apply State.modPkg_keeps | with_reducible apply State.leaveOff_keeps
    | with_reducible apply Keeps.ite | with_reducible exact Keeps.refl _ _

def State.epoHold_foot : Foot := Foot.join [foot [.pkg] [], State.portsOut_foot, State.lasersOff_foot,
  State.swcReset_foot, State.engOut_foot, State.pwrOff_foot]

theorem State.epoHold_keeps (hs : Keeps F S s) (hF : Foot.Sub State.epoHold_foot F) :
    Keeps F S (State.epoHold s) := by
  unfold State.epoHold
  repeat' first
    | with_reducible assumption | (with_reducible refine Foot.Sub.up hF ?_; decide +kernel)
    | ((first | intro x | (lift_lets; intro x))
       first
         | (refine Keeps.cut x ?_ (fun hx => ?_); rotate_left; clear_value x; rotate_left; unfold x)
         | clear_value x
         | skip)
    | with_reducible apply State.both_keeps | with_reducible apply State.modPkg_keeps
    | with_reducible apply State.portsOut_keeps | with_reducible apply State.lasersOff_keeps
    | with_reducible apply State.swcReset_keeps | with_reducible apply State.engOut_keeps
    | with_reducible apply State.pwrOff_keeps | with_reducible apply Keeps.ite
    | with_reducible exact Keeps.refl _ _

def State.countEpo_foot : Foot := Foot.join [foot [.pkg] [], State.journalAdd_foot]

theorem State.countEpo_keeps (hs : Keeps F S s) (hF : Foot.Sub State.countEpo_foot F) (trip : Bool) :
    Keeps F S (State.countEpo s trip) := by
  unfold State.countEpo
  repeat' first
    | with_reducible assumption | (with_reducible refine Foot.Sub.up hF ?_; decide +kernel)
    | ((first | intro x | (lift_lets; intro x))
       first
         | (refine Keeps.cut x ?_ (fun hx => ?_); rotate_left; clear_value x; rotate_left; unfold x)
         | clear_value x
         | skip)
    | with_reducible apply State.modPkg_keeps | with_reducible apply State.journalAdd_keeps
    | with_reducible apply Keeps.ite | with_reducible exact Keeps.refl _ _

def State.epoStart_foot : Foot := Foot.join [foot [.pkg, .out] [.CAN_PWR_STATE], State.epoHold_foot,
  State.logError_foot, State.countEpo_foot, State.hwEvent_foot]

theorem State.epoStart_keeps (hs : Keeps F S s) (hF : Foot.Sub State.epoStart_foot F) (src : EpoSource) :
    Keeps F S (State.epoStart s src) := by
  unfold State.epoStart
  repeat' first
    | with_reducible assumption | (with_reducible refine Foot.Sub.up hF ?_; decide +kernel)
    | ((first | intro x | (lift_lets; intro x))
       first
         | (refine Keeps.cut x ?_ (fun hx => ?_); rotate_left; clear_value x; rotate_left; unfold x)
         | clear_value x
         | skip)
    | with_reducible apply State.modPkg_keeps | with_reducible apply State.emit_keeps
    | with_reducible apply State.both_keeps | with_reducible apply State.epoHold_keeps
    | with_reducible apply State.bothF_keeps | with_reducible apply State.logError_keeps
    | with_reducible apply State.countEpo_keeps | with_reducible apply State.hwEvent_keeps
    | with_reducible apply Keeps.ite | split | with_reducible exact Keeps.refl _ _

def execEpoAssert_foot : Foot := State.epoStart_foot

theorem execEpoAssert_keeps (hF : Foot.Sub execEpoAssert_foot F) (src : EpoSource) (s : State) :
    ∃ t', execEpoAssert src s = .next t' ∧ Keeps F s t' := by
  unfold execEpoAssert
  refine ⟨_, rfl, ?_⟩
  repeat' first
    | with_reducible assumption | (with_reducible refine Foot.Sub.up hF ?_; decide +kernel)
    | with_reducible apply State.epoStart_keeps | with_reducible exact Keeps.refl _ _

def State.epoEnd_foot : Foot := Foot.join [foot [.pkg] [.CAN_PWR_STATE], State.journalAdd_foot,
  State.enterOff_foot]

theorem State.epoEnd_keeps (hs : Keeps F S s) (hF : Foot.Sub State.epoEnd_foot F) :
    Keeps F S (State.epoEnd s) := by
  unfold State.epoEnd
  repeat' first
    | with_reducible assumption | (with_reducible refine Foot.Sub.up hF ?_; decide +kernel)
    | ((first | intro x | (lift_lets; intro x))
       first
         | (refine Keeps.cut x ?_ (fun hx => ?_); rotate_left; clear_value x; rotate_left; unfold x)
         | clear_value x
         | skip)
    | with_reducible apply State.modPkg_keeps | with_reducible apply State.bothF_keeps
    | with_reducible apply State.journalAdd_keeps | with_reducible apply State.enterOff_keeps
    | with_reducible exact Keeps.refl _ _

def execEpoRelease_foot : Foot := State.epoEnd_foot

theorem execEpoRelease_keeps (hF : Foot.Sub execEpoRelease_foot F) (s : State) :
    ∃ t', execEpoRelease s = .next t' ∧ Keeps F s t' := by
  unfold execEpoRelease
  refine ⟨_, rfl, ?_⟩
  repeat' first
    | with_reducible assumption | (with_reducible refine Foot.Sub.up hF ?_; decide +kernel)
    | with_reducible apply State.when_keeps | with_reducible apply State.epoEnd_keeps | intro x
    | with_reducible exact Keeps.refl _ _

def State.thermalTrip_foot : Foot := Foot.join [foot [] [.CAN_PWR_STATE], State.epoHold_foot,
  State.journalAdd_foot, State.countEpo_foot, State.hwEvent_foot, State.logFatal_foot]

theorem State.thermalTrip_keeps (hs : Keeps F S s) (hF : Foot.Sub State.thermalTrip_foot F) (p : Plane)
    (k : Nat) :
    Keeps F S (State.thermalTrip s p k) := by
  unfold State.thermalTrip
  repeat' first
    | with_reducible assumption | (with_reducible refine Foot.Sub.up hF ?_; decide +kernel)
    | ((first | intro x | (lift_lets; intro x))
       first
         | (refine Keeps.cut x ?_ (fun hx => ?_); rotate_left; clear_value x; rotate_left; unfold x)
         | clear_value x
         | skip)
    | with_reducible apply State.epoHold_keeps | with_reducible apply State.bothF_keeps
    | with_reducible apply State.journalAdd_keeps | with_reducible apply State.countEpo_keeps
    | with_reducible apply State.hwEvent_keeps | with_reducible apply State.logFatal_keeps
    | with_reducible apply Keeps.ite | with_reducible exact Keeps.refl _ _

def execThermalTrip_foot : Foot := State.thermalTrip_foot

theorem execThermalTrip_keeps (hF : Foot.Sub execThermalTrip_foot F) (p : Plane) (k : Fin 41) (s : State) :
    ∃ t', execThermalTrip p k s = .next t' ∧ Keeps F s t' := by
  unfold execThermalTrip
  refine ⟨_, rfl, ?_⟩
  repeat' first
    | with_reducible assumption | (with_reducible refine Foot.Sub.up hF ?_; decide +kernel)
    | with_reducible apply State.when_keeps | with_reducible apply State.thermalTrip_keeps | intro x
    | with_reducible exact Keeps.refl _ _

def State.leakWet_foot : Foot := Foot.join [foot [.pkg] [], State.hwEvent_foot, State.showLevel_foot,
  State.pwrOff_foot]

theorem State.leakWet_keeps (hs : Keeps F S s) (hF : Foot.Sub State.leakWet_foot F) (n : Nat) :
    Keeps F S (State.leakWet s n) := by
  unfold State.leakWet
  repeat' first
    | with_reducible assumption | (with_reducible refine Foot.Sub.up hF ?_; decide +kernel)
    | ((first | intro x | (lift_lets; intro x))
       first
         | (refine Keeps.cut x ?_ (fun hx => ?_); rotate_left; clear_value x; rotate_left; unfold x)
         | clear_value x
         | skip)
    | with_reducible apply State.modPkg_keeps | with_reducible apply State.hwEvent_keeps
    | with_reducible apply State.showLevel_keeps | with_reducible apply State.pwrOff_keeps
    | with_reducible apply Keeps.ite | with_reducible exact Keeps.refl _ _

def State.leakState_foot : Foot := Foot.join [foot [.pkg] [.CAN_LEAK], State.sensShow_foot, State.showLevel_foot,
  State.leakWet_foot, State.hwEvent_foot]

theorem State.leakState_keeps (hs : Keeps F S s) (hF : Foot.Sub State.leakState_foot F) (n st : Nat) :
    Keeps F S (State.leakState s n st) := by
  unfold State.leakState
  repeat' first
    | with_reducible assumption | (with_reducible refine Foot.Sub.up hF ?_; decide +kernel)
    | ((first | intro x | (lift_lets; intro x))
       first
         | (refine Keeps.cut x ?_ (fun hx => ?_); rotate_left; clear_value x; rotate_left; unfold x)
         | (refine Keeps.cutF x ?_ (fun hx => ?_); rotate_left; clear_value x; rotate_left; unfold x)
         | (refine Keeps.cutG x ?_ (fun hx => ?_); rotate_left; clear_value x; rotate_left; unfold x)
         | (refine Keeps.cutH x ?_ (fun hx => ?_); rotate_left; clear_value x; rotate_left; unfold x)
         | clear_value x
         | skip)
    | with_reducible apply State.modPkg_keeps | with_reducible apply State.bothF_keeps
    | with_reducible apply State.sensShow_keeps | with_reducible apply State.showLevel_keeps
    | with_reducible apply State.leakWet_keeps | with_reducible apply State.hwEvent_keeps
    | with_reducible refine Keeps.appF ?_ (by assumption) | with_reducible refine Keeps.appG ?_ (by assumption)
    | with_reducible refine Keeps.appH ?_ (by assumption) | with_reducible apply Keeps.ite | split
    | with_reducible exact Keeps.refl _ _

def State.leakMeasure_foot : Foot := Foot.join [foot [.pkg] [], State.leakState_foot]

theorem State.leakMeasure_keeps (hs : Keeps F S s) (hF : Foot.Sub State.leakMeasure_foot F) (n : Nat)
    (ohms : Option Nat) :
    Keeps F S (State.leakMeasure s n ohms) := by
  unfold State.leakMeasure
  repeat' first
    | with_reducible assumption | (with_reducible refine Foot.Sub.up hF ?_; decide +kernel)
    | ((first | intro x | (lift_lets; intro x))
       first
         | (refine Keeps.cut x ?_ (fun hx => ?_); rotate_left; clear_value x; rotate_left; unfold x)
         | clear_value x
         | skip)
    | with_reducible apply State.modPkg_keeps | with_reducible apply State.leakState_keeps
    | with_reducible apply Keeps.ite | with_reducible exact Keeps.refl _ _

def execLeakMeasure_foot : Foot := State.leakMeasure_foot

theorem execLeakMeasure_keeps (hF : Foot.Sub execLeakMeasure_foot F) (loop : Fin 4) (ohms : Option Nat)
    (s : State) :
    ∃ t', execLeakMeasure loop ohms s = .next t' ∧ Keeps F s t' := by
  unfold execLeakMeasure
  refine ⟨_, rfl, ?_⟩
  repeat' first
    | with_reducible assumption | (with_reducible refine Foot.Sub.up hF ?_; decide +kernel)
    | with_reducible apply State.leakMeasure_keeps | with_reducible exact Keeps.refl _ _

def execLeakPowerOff_foot : Foot := State.pwrOff_foot

theorem execLeakPowerOff_keeps (hF : Foot.Sub execLeakPowerOff_foot F) (loop : Fin 4) (s : State) :
    ∃ t', execLeakPowerOff loop s = .next t' ∧ Keeps F s t' := by
  unfold execLeakPowerOff
  refine ⟨_, rfl, ?_⟩
  repeat' first
    | with_reducible assumption | (with_reducible refine Foot.Sub.up hF ?_; decide +kernel)
    | with_reducible apply State.when_keeps | with_reducible apply State.pwrOff_keeps | intro x
    | with_reducible exact Keeps.refl _ _

def State.avsDie_foot : Foot := Foot.join [foot [.pkg, .out] [], State.journalAdd_foot]

theorem State.avsDie_keeps (hs : Keeps F S s) (hF : Foot.Sub State.avsDie_foot F) (p : Plane) :
    Keeps F S (State.avsDie s p) := by
  unfold State.avsDie
  repeat' first
    | with_reducible assumption | (with_reducible refine Foot.Sub.up hF ?_; decide +kernel)
    | ((first | intro x | (lift_lets; intro x))
       first
         | (refine Keeps.cut x ?_ (fun hx => ?_); rotate_left; clear_value x; rotate_left; unfold x)
         | clear_value x
         | skip)
    | with_reducible apply State.modPkg_keeps | with_reducible apply State.emit_keeps
    | with_reducible apply State.journalAdd_keeps | with_reducible apply Keeps.ite | split
    | with_reducible exact Keeps.refl _ _

def execAvsSet_foot : Foot := State.avsDie_foot

theorem execAvsSet_keeps (hF : Foot.Sub execAvsSet_foot F) (s : State) :
    ∃ t', execAvsSet s = .next t' ∧ Keeps F s t' := by
  unfold execAvsSet
  refine ⟨_, rfl, ?_⟩
  repeat' first
    | with_reducible assumption | (with_reducible refine Foot.Sub.up hF ?_; decide +kernel)
    | with_reducible apply State.when_keeps | with_reducible apply State.both_keeps
    | with_reducible apply State.avsDie_keeps | intro x | with_reducible exact Keeps.refl _ _

def State.coldReset_foot : Foot := Foot.join [foot [.pkg, .committed, .partW, .latch, .loose, .ft, .lne, .line,
  .lfp, .rte, .swc, .hif, .can, .epc, .tst, .col, .dsp, .pools, .mem] [.CAN_PWR_STATE, .CAN_LEAK], Foot.regs]

theorem State.coldReset_keeps (hs : Keeps F S s) (hF : Foot.Sub State.coldReset_foot F) :
    Keeps F S (State.coldReset s) := by
  unfold State.coldReset
  apply State.bothF_keeps
  · apply State.bothF_keeps
    · refine State.modPkg_keeps ?_ (hF.up (by decide +kernel)) _
      refine State.setPl_keeps (State.setPl_keeps hs _ _ ?_) _ _ ?_ <;>
      exact PlaneSt.Stays.any (hF.up (by decide +kernel)) (fun _ => ⟨rfl, rfl, rfl, rfl, Nat.zero_le _⟩)
    · exact hF.up (by decide +kernel)
  · exact hF.up (by decide +kernel)

def execResetAssert_foot : Foot := Foot.join [foot [.pkg] [], State.coldReset_foot]

theorem execResetAssert_keeps (hF : Foot.Sub execResetAssert_foot F) (s : State) :
    ∃ t', execResetAssert s = .next t' ∧ Keeps F s t' := by
  unfold execResetAssert
  refine ⟨_, rfl, ?_⟩
  repeat' first
    | with_reducible assumption | (with_reducible refine Foot.Sub.up hF ?_; decide +kernel)
    | with_reducible apply State.modPkg_keeps | with_reducible apply State.coldReset_keeps | intro x
    | with_reducible exact Keeps.refl _ _

def State.resetOff_foot : Foot := Foot.join [foot [.pkg] [.TOP_STRAP, .TOP_CLK_STAT], State.coldReset_foot]

theorem State.resetOff_keeps (hs : Keeps F S s) (hF : Foot.Sub State.resetOff_foot F) (straps : Nat) :
    Keeps F S (State.resetOff s straps) := by
  unfold State.resetOff
  repeat' first
    | with_reducible assumption | (with_reducible refine Foot.Sub.up hF ?_; decide +kernel)
    | ((first | intro x | (lift_lets; intro x))
       first
         | (refine Keeps.cut x ?_ (fun hx => ?_); rotate_left; clear_value x; rotate_left; unfold x)
         | clear_value x
         | skip)
    | with_reducible apply State.both_keeps | with_reducible apply State.setWord_keeps
    | with_reducible apply State.modPkg_keeps | with_reducible apply State.coldReset_keeps
    | with_reducible apply State.bothF_keeps | with_reducible apply Keeps.ite | with_reducible exact Keeps.refl _ _

def execResetDeassert_foot : Foot := State.resetOff_foot

theorem execResetDeassert_keeps (hF : Foot.Sub execResetDeassert_foot F) (straps : BitVec 7) (s : State) :
    ∃ t', execResetDeassert straps s = .next t' ∧ Keeps F s t' := by
  unfold execResetDeassert
  refine ⟨_, rfl, ?_⟩
  repeat' first
    | with_reducible assumption | (with_reducible refine Foot.Sub.up hF ?_; decide +kernel)
    | with_reducible apply State.when_keeps | with_reducible apply State.resetOff_keeps | intro x
    | with_reducible exact Keeps.refl _ _

def State.pllLock_foot : Foot := Foot.join [foot [] [.TOP_CLK_STAT], State.glDetect_foot, State.freezeAll_foot]

theorem State.pllLock_keeps (hs : Keeps F S s) (hF : Foot.Sub State.pllLock_foot F) :
    Keeps F S (State.pllLock s) := by
  unfold State.pllLock
  repeat' first
    | with_reducible assumption | (with_reducible refine Foot.Sub.up hF ?_; decide +kernel)
    | ((first | intro x | (lift_lets; intro x))
       first
         | (refine Keeps.cut x ?_ (fun hx => ?_); rotate_left; clear_value x; rotate_left; unfold x)
         | clear_value x
         | skip)
    | with_reducible apply State.both_keeps | with_reducible apply State.setFlag_keeps
    | with_reducible apply State.setF_keeps | with_reducible apply State.glDetect_keeps
    | with_reducible apply State.freezeAll_keeps | with_reducible apply Keeps.ite
    | with_reducible exact Keeps.refl _ _

def execCorePllLock_foot : Foot := State.pllLock_foot

theorem execCorePllLock_keeps (hF : Foot.Sub execCorePllLock_foot F) (s : State) :
    ∃ t', execCorePllLock s = .next t' ∧ Keeps F s t' := by
  unfold execCorePllLock
  refine ⟨_, rfl, ?_⟩
  repeat' first
    | with_reducible assumption | (with_reducible refine Foot.Sub.up hF ?_; decide +kernel)
    | with_reducible apply State.pllLock_keeps | with_reducible exact Keeps.refl _ _

def State.tileAbsent_foot : Foot := Foot.join [foot [] [.MEM_TILE_STAT], State.withdraw_foot, State.logError_foot,
  State.raise_foot]

theorem State.tileAbsent_keeps (hs : Keeps F S s) (hF : Foot.Sub State.tileAbsent_foot F) (p : Plane) (t : Nat) :
    Keeps F S (State.tileAbsent s p t) := by
  unfold State.tileAbsent
  repeat' first
    | with_reducible assumption | (with_reducible refine Foot.Sub.up hF ?_; decide +kernel)
    | ((first | intro x | (lift_lets; intro x))
       first
         | (refine Keeps.cut x ?_ (fun hx => ?_); rotate_left; clear_value x; rotate_left; unfold x)
         | clear_value x
         | skip)
    | with_reducible apply State.setFlag_keeps | with_reducible apply State.withdraw_keeps
    | with_reducible apply State.logError_keeps | with_reducible apply State.raise_keeps
    | with_reducible exact Keeps.refl _ _

def State.selfTest_foot : Foot := Foot.join [foot [.epc] [.TOP_UNIT_STAT, .TOP_PG_STAT, .SWC_SPINE_STAT,
  .CAN_PWR_STATE], State.tileAbsent_foot, State.halStart_foot, State.planeFail_foot, State.raisePower_foot,
  State.lasersOn_foot, State.splitEnd_foot, State.startMove_foot, State.enginesEnter_foot]

theorem State.selfTest_keeps (hs : Keeps F S s) (hF : Foot.Sub State.selfTest_foot F) (p : Plane)
    (pg chip tile elem : Nat) (hal : Bool) :
    Keeps F S (State.selfTest s p pg chip tile elem hal) := by
  unfold State.selfTest
  repeat' first
    | with_reducible assumption | (with_reducible refine Foot.Sub.up hF ?_; decide +kernel)
    | ((first | intro x | (lift_lets; intro x))
       first
         | (refine Keeps.cut x ?_ (fun hx => ?_); rotate_left; clear_value x; rotate_left; unfold x)
         | clear_value x
         | skip)
    | with_reducible apply State.modEpc_keeps | with_reducible apply State.setF_keeps
    | with_reducible apply State.each_keeps | with_reducible apply State.setFlag_keeps
    | with_reducible apply State.both_keeps | with_reducible apply State.tileAbsent_keeps
    | with_reducible apply State.halStart_keeps | with_reducible apply State.planeFail_keeps
    | with_reducible apply State.raisePower_keeps | with_reducible apply State.bothF_keeps
    | with_reducible apply State.lasersOn_keeps | with_reducible apply State.splitEnd_keeps
    | with_reducible apply State.startMove_keeps | with_reducible apply State.enginesEnter_keeps
    | with_reducible apply Keeps.ite | with_reducible exact Keeps.refl _ _

def execSelfTestDone_foot : Foot := State.selfTest_foot

theorem execSelfTestDone_keeps (hF : Foot.Sub execSelfTestDone_foot F) (p : Plane) (pg : BitVec 18)
    (chip : BitVec 9) (tile : BitVec 16) (elem : BitVec 24) (hal : Bool) (s : State) :
    ∃ t', execSelfTestDone p pg chip tile elem hal s = .next t' ∧ Keeps F s t' := by
  unfold execSelfTestDone
  refine ⟨_, rfl, ?_⟩
  repeat' first
    | with_reducible assumption | (with_reducible refine Foot.Sub.up hF ?_; decide +kernel)
    | with_reducible apply State.when_keeps | with_reducible apply State.selfTest_keeps | intro x
    | with_reducible exact Keeps.refl _ _

def execStandbySupplyLoss_foot : Foot := Foot.join [foot [.committed, .partW, .latch, .loose, .ft, .lne, .line,
  .lfp, .rte, .swc, .hif, .can, .epc, .tst, .col, .dsp, .pools, .mem, .pkg] [], Foot.regs]

theorem execStandbySupplyLoss_keeps (hF : Foot.Sub execStandbySupplyLoss_foot F) (s : State) :
    ∃ t', execStandbySupplyLoss s = .next t' ∧ Keeps F s t' := by
  refine ⟨_, rfl, ?_⟩
  have h : Keeps F s (((s.setPl .hoist {}).setPl .fly {})) :=
    State.setPl_keeps (State.setPl_keeps (Keeps.refl F s) _ _ (PlaneSt.Stays.any (hF.up (by decide +kernel))
      (fun _ => ⟨rfl, rfl, rfl, rfl, Nat.zero_le _⟩))) _ _ (PlaneSt.Stays.any (hF.up (by decide +kernel))
      (fun _ => ⟨rfl, rfl, rfl, rfl, Nat.zero_le _⟩))
  exact State.modPkg_keeps h (hF.up (by decide +kernel)) (fun _ => _)

def State.aonClk_foot : Foot := foot [.pkg] [.TOP_CLK_STAT]

theorem State.aonClk_keeps (hs : Keeps F S s) (hF : Foot.Sub State.aonClk_foot F) (ok : Bool) :
    Keeps F S (State.aonClk s ok) := by
  unfold State.aonClk
  repeat' first
    | with_reducible assumption | (with_reducible refine Foot.Sub.up hF ?_; decide +kernel)
    | with_reducible apply State.modPkg_keeps | with_reducible apply State.bothF_keeps | intro x
    | with_reducible exact Keeps.refl _ _

def execAonClkLoss_foot : Foot := State.aonClk_foot

theorem execAonClkLoss_keeps (hF : Foot.Sub execAonClkLoss_foot F) (s : State) :
    ∃ t', execAonClkLoss s = .next t' ∧ Keeps F s t' := by
  unfold execAonClkLoss
  refine ⟨_, rfl, ?_⟩
  repeat' first
    | with_reducible assumption | (with_reducible refine Foot.Sub.up hF ?_; decide +kernel)
    | with_reducible apply State.aonClk_keeps | with_reducible exact Keeps.refl _ _

def execAonClkReturn_foot : Foot := State.aonClk_foot

theorem execAonClkReturn_keeps (hF : Foot.Sub execAonClkReturn_foot F) (s : State) :
    ∃ t', execAonClkReturn s = .next t' ∧ Keeps F s t' := by
  unfold execAonClkReturn
  refine ⟨_, rfl, ?_⟩
  repeat' first
    | with_reducible assumption | (with_reducible refine Foot.Sub.up hF ?_; decide +kernel)
    | with_reducible apply State.aonClk_keeps | with_reducible exact Keeps.refl _ _

end Sys2Proof.Machine
end

