-- ==== Sys2Proof/Laws/KeepCanton.lean ====
section
/-! SUPPORT. `Keeps` of the definitions of Machine/Canton.lean, each with its footprint. -/

namespace Sys2Proof.Machine

set_option Elab.async false

variable {F : Foot} {S s : State}

def State.flashPut_foot : Foot := foot [.pkg] []

theorem State.flashPut_keeps (hs : Keeps F S s) (hF : Foot.Sub State.flashPut_foot F) (p : Plane) (i : Nat)
    (b : Byte) :
    Keeps F S (State.flashPut s p i b) := by
  unfold State.flashPut
  repeat' first
    | with_reducible assumption | (with_reducible refine Foot.Sub.up hF ?_; decide +kernel)
    | with_reducible apply State.modPkg_keeps | intro x | split | with_reducible exact Keeps.refl _ _

def State.flashWrite_foot : Foot := State.flashPut_foot

theorem State.flashWrite_keeps (hs : Keeps F S s) (hF : Foot.Sub State.flashWrite_foot F) (p : Plane) (o : Nat)
    (bs : Bytes) :
    Keeps F S (State.flashWrite s p o bs) := by
  unfold State.flashWrite
  repeat' first
    | with_reducible assumption | (with_reducible refine Foot.Sub.up hF ?_; decide +kernel)
    | with_reducible apply State.each_keeps | with_reducible apply State.flashPut_keeps | intro x
    | with_reducible exact Keeps.refl _ _

def State.setView_foot : Foot := foot [.pkg] []

theorem State.setView_keeps (hs : Keeps F S s) (hF : Foot.Sub State.setView_foot F) (p : Plane)
    (v : Option FlashView) :
    Keeps F S (State.setView s p v) := by
  unfold State.setView
  repeat' first
    | with_reducible assumption | (with_reducible refine Foot.Sub.up hF ?_; decide +kernel)
    | with_reducible apply State.modPkg_keeps | intro x | split | with_reducible exact Keeps.refl _ _

def State.setPref_foot : Foot := State.flashWrite_foot

theorem State.setPref_keeps (hs : Keeps F S s) (hF : Foot.Sub State.setPref_foot F) (p : Plane) (slot : Nat) :
    Keeps F S (State.setPref s p slot) := by
  unfold State.setPref
  repeat' first
    | with_reducible assumption | (with_reducible refine Foot.Sub.up hF ?_; decide +kernel)
    | with_reducible apply State.flashWrite_keeps | split | with_reducible exact Keeps.refl _ _

def State.canReset_foot : Foot := Foot.join [foot [.can] [.CAN_BOOT_STAT, .CAN_MBOX_CTL], State.setRole_foot]

theorem State.canReset_keeps (hs : Keeps F S s) (hF : Foot.Sub State.canReset_foot F) (p : Plane) :
    Keeps F S (State.canReset s p) := by
  unfold State.canReset
  repeat' first
    | with_reducible assumption | (with_reducible refine Foot.Sub.up hF ?_; decide +kernel)
    | ((first | intro x | (lift_lets; intro x))
       first
         | (refine Keeps.cut x ?_ (fun hx => ?_); rotate_left; clear_value x; rotate_left; unfold x)
         | clear_value x
         | skip)
    | with_reducible apply State.modCan_keeps | with_reducible apply State.setFlag_keeps
    | with_reducible apply State.setRole_keeps | with_reducible exact Keeps.refl _ _

def State.fallbacks_foot : Foot := Foot.join [foot [.can] [], State.cantonEvent_foot]

theorem State.fallbacks_keeps (hs : Keeps F S s) (hF : Foot.Sub State.fallbacks_foot F) :
    Keeps F S (State.fallbacks s) := by
  unfold State.fallbacks
  repeat' first
    | with_reducible assumption | (with_reducible refine Foot.Sub.up hF ?_; decide +kernel)
    | with_reducible apply State.both_keeps | with_reducible apply State.modCan_keeps
    | with_reducible apply State.cantonEvent_keeps | intro x | with_reducible apply Keeps.ite | split
    | with_reducible exact Keeps.refl _ _

def State.unfence_foot : Foot := foot [.can, .out] []

theorem State.unfence_keeps (hs : Keeps F S s) (hF : Foot.Sub State.unfence_foot F) (p : Plane) :
    Keeps F S (State.unfence s p) := by
  unfold State.unfence
  repeat' first
    | with_reducible assumption | (with_reducible refine Foot.Sub.up hF ?_; decide +kernel)
    | with_reducible apply State.modCan_keeps | with_reducible apply State.emit_keeps | intro x
    | with_reducible apply Keeps.ite | with_reducible exact Keeps.refl _ _

def State.takeAddrs_foot : Foot := foot [.free, .pkg] []

theorem State.takeAddrs_keeps (hs : Keeps F S s) (hF : Foot.Sub State.takeAddrs_foot F) (p : Plane) :
    Keeps F S (State.takeAddrs s p) := by
  unfold State.takeAddrs
  repeat' first
    | with_reducible assumption | (with_reducible refine Foot.Sub.up hF ?_; decide +kernel)
    | ((first | intro x | (lift_lets; intro x))
       first
         | (refine Keeps.cut x ?_ (fun hx => ?_); rotate_left; clear_value x; rotate_left; unfold x)
         | clear_value x
         | skip)
    | with_reducible apply State.takeFree_keeps | with_reducible apply State.modPkg_keeps
    | with_reducible refine Keeps.snd ?_ (by assumption) | split | with_reducible exact Keeps.refl _ _

def State.takeover_foot : Foot := Foot.join [foot [.out, .pkg, .can] [.CAN_CTL, .CAN_TAKEOVER_CNT],
  State.canReset_foot, State.setRole_foot, State.journalAdd_foot, State.sendHeld_foot, State.cantonEvent_foot,
  State.startMove_foot, State.fallbacks_foot, State.unfence_foot, State.takeAddrs_foot]

theorem State.takeover_keeps (hs : Keeps F S s) (hF : Foot.Sub State.takeover_foot F) (q : Plane) (cause : Nat) :
    Keeps F S (State.takeover s q cause) := by
  unfold State.takeover
  repeat' first
    | with_reducible assumption | (with_reducible refine Foot.Sub.up hF ?_; decide +kernel)
    | ((first | intro x | (lift_lets; intro x))
       first
         | (refine Keeps.cut x ?_ (fun hx => ?_); rotate_left; clear_value x; rotate_left; unfold x)
         | clear_value x
         | skip)
    | with_reducible apply State.emit_keeps | with_reducible apply State.modPkg_keeps
    | with_reducible apply State.modCan_keeps | with_reducible apply State.both_keeps
    | with_reducible apply State.count_keeps | with_reducible apply State.each_keeps
    | with_reducible apply State.canReset_keeps | with_reducible apply State.setRole_keeps
    | with_reducible apply State.bothF_keeps | with_reducible apply State.journalAdd_keeps
    | with_reducible apply State.sendHeld_keeps | with_reducible apply State.cantonEvent_keeps
    | with_reducible apply State.startMove_keeps | with_reducible apply State.fallbacks_keeps
    | with_reducible apply State.unfence_keeps | with_reducible apply State.takeAddrs_keeps
    | with_reducible exact Keeps.refl _ _

def State.cantonLost_foot : Foot := Foot.join [foot [.out, .can, .pkg] [], State.raise_foot, State.canReset_foot]

theorem State.cantonLost_keeps (hs : Keeps F S s) (hF : Foot.Sub State.cantonLost_foot F) (q : Plane) :
    Keeps F S (State.cantonLost s q) := by
  unfold State.cantonLost
  repeat' first
    | with_reducible assumption | (with_reducible refine Foot.Sub.up hF ?_; decide +kernel)
    | ((first | intro x | (lift_lets; intro x))
       first
         | (refine Keeps.cut x ?_ (fun hx => ?_); rotate_left; clear_value x; rotate_left; unfold x)
         | clear_value x
         | skip)
    | with_reducible apply State.both_keeps | with_reducible apply State.emit_keeps
    | with_reducible apply State.modCan_keeps | with_reducible apply State.modPkg_keeps
    | with_reducible apply State.raise_keeps | with_reducible apply State.canReset_keeps
    | with_reducible apply Keeps.ite | with_reducible exact Keeps.refl _ _

def State.standbyActs_foot : Foot := Foot.join [State.takeover_foot, State.cantonLost_foot]

theorem State.standbyActs_keeps (hs : Keeps F S s) (hF : Foot.Sub State.standbyActs_foot F) (q : Plane)
    (cause : Nat) :
    Keeps F S (State.standbyActs s q cause) := by
  unfold State.standbyActs
  repeat' first
    | with_reducible assumption | (with_reducible refine Foot.Sub.up hF ?_; decide +kernel)
    | with_reducible apply State.takeover_keeps | with_reducible apply State.cantonLost_keeps
    | with_reducible apply Keeps.ite | with_reducible exact Keeps.refl _ _

def State.heartbeatOut_foot : Foot := Foot.join [foot [.can] [], State.halControl_foot]

theorem State.heartbeatOut_keeps (hs : Keeps F S s) (hF : Foot.Sub State.heartbeatOut_foot F) (p : Plane) :
    Keeps F S (State.heartbeatOut s p) := by
  unfold State.heartbeatOut
  repeat' first
    | with_reducible assumption | (with_reducible refine Foot.Sub.up hF ?_; decide +kernel)
    | ((first | intro x | (lift_lets; intro x))
       first
         | (refine Keeps.cut x ?_ (fun hx => ?_); rotate_left; clear_value x; rotate_left; unfold x)
         | clear_value x
         | skip)
    | with_reducible apply State.modCan_keeps | with_reducible apply State.halControl_keeps
    | with_reducible exact Keeps.refl _ _

def execHeartbeatSend_foot : Foot := Foot.join [State.heartbeatOut_foot, State.logRead_foot]

theorem execHeartbeatSend_keeps (hF : Foot.Sub execHeartbeatSend_foot F) (p : Plane) (s : State) :
    ∃ t', execHeartbeatSend p s = .next t' ∧ Keeps F s t' := by
  unfold execHeartbeatSend
  refine ⟨_, rfl, ?_⟩
  repeat' first
    | with_reducible assumption | (with_reducible refine Foot.Sub.up hF ?_; decide +kernel)
    | with_reducible apply State.when_keeps | with_reducible apply State.both_keeps
    | with_reducible apply State.heartbeatOut_keeps | with_reducible apply State.logRead_keeps | intro x
    | with_reducible exact Keeps.refl _ _

def State.heartbeatIn_foot : Foot := Foot.join [foot [.can] [], State.releaseHeld_foot, State.standbyActs_foot]

theorem State.heartbeatIn_keeps (hs : Keeps F S s) (hF : Foot.Sub State.heartbeatIn_foot F) (p : Plane)
    (role : Nat) (jrn : BitVec 32) :
    Keeps F S (State.heartbeatIn s p role jrn) := by
  unfold State.heartbeatIn
  repeat' first
    | with_reducible assumption | (with_reducible refine Foot.Sub.up hF ?_; decide +kernel)
    | ((first | intro x | (lift_lets; intro x))
       first
         | (refine Keeps.cut x ?_ (fun hx => ?_); rotate_left; clear_value x; rotate_left; unfold x)
         | clear_value x
         | skip)
    | with_reducible apply State.modCan_keeps | with_reducible apply State.releaseHeld_keeps
    | with_reducible apply State.standbyActs_keeps | with_reducible apply Keeps.ite
    | with_reducible exact Keeps.refl _ _

def State.claim_foot : Foot := State.takeover_foot

theorem State.claim_keeps (hs : Keeps F S s) (hF : Foot.Sub State.claim_foot F) (p : Plane) :
    Keeps F S (State.claim s p) := by
  unfold State.claim
  repeat' first
    | with_reducible assumption | (with_reducible refine Foot.Sub.up hF ?_; decide +kernel)
    | ((first | intro x | (lift_lets; intro x))
       first
         | (refine Keeps.cut x ?_ (fun hx => ?_); rotate_left; clear_value x; rotate_left; unfold x)
         | clear_value x
         | skip)
    | with_reducible apply State.takeover_keeps | with_reducible apply Keeps.ite
    | with_reducible exact Keeps.refl _ _

def State.peerReport_foot : Foot := foot [.can] [.CAN_STAT]

theorem State.peerReport_keeps (hs : Keeps F S s) (hF : Foot.Sub State.peerReport_foot F) (p : Plane)
    (b : Bytes) :
    Keeps F S (State.peerReport s p b) := by
  unfold State.peerReport
  repeat' first
    | with_reducible assumption | (with_reducible refine Foot.Sub.up hF ?_; decide +kernel)
    | with_reducible apply State.setF_keeps | with_reducible apply State.modCan_keeps | intro x
    | with_reducible exact Keeps.refl _ _

def State.journalIn_foot : Foot := Foot.join [foot [.can] [], State.peerReport_foot]

theorem State.journalIn_keeps (hs : Keeps F S s) (hF : Foot.Sub State.journalIn_foot F) (p : Plane)
    (seq : BitVec 32) (r : JournalRec) :
    Keeps F S (State.journalIn s p seq r) := by
  unfold State.journalIn
  repeat' first
    | with_reducible assumption | (with_reducible refine Foot.Sub.up hF ?_; decide +kernel)
    | ((first | intro x | (lift_lets; intro x))
       first
         | (refine Keeps.cut x ?_ (fun hx => ?_); rotate_left; clear_value x; rotate_left; unfold x)
         | clear_value x
         | skip)
    | with_reducible apply State.modCan_keeps | with_reducible apply State.peerReport_keeps
    | with_reducible apply Keeps.ite | with_reducible exact Keeps.refl _ _

def execJournalRecord_foot : Foot := State.journalIn_foot

theorem execJournalRecord_keeps (hF : Foot.Sub execJournalRecord_foot F) (p : Plane) (seq : BitVec 32)
    (r : JournalRec) (s : State) :
    ∃ t', execJournalRecord p seq r s = .next t' ∧ Keeps F s t' := by
  unfold execJournalRecord
  refine ⟨_, rfl, ?_⟩
  repeat' first
    | with_reducible assumption | (with_reducible refine Foot.Sub.up hF ?_; decide +kernel)
    | with_reducible apply State.when_keeps | with_reducible apply State.journalIn_keeps | intro x
    | with_reducible exact Keeps.refl _ _

def State.healthReport_foot : Foot := Foot.join [foot [.can] [.CAN_HEALTH], State.journalAdd_foot,
  State.halControl_foot, State.cantonEvent_foot]

theorem State.healthReport_keeps (hs : Keeps F S s) (hF : Foot.Sub State.healthReport_foot F) (p : Plane)
    (agree flashOk : Bool) :
    Keeps F S (State.healthReport s p agree flashOk) := by
  unfold State.healthReport
  repeat' first
    | with_reducible assumption | (with_reducible refine Foot.Sub.up hF ?_; decide +kernel)
    | ((first | intro x | (lift_lets; intro x))
       first
         | (refine Keeps.cut x ?_ (fun hx => ?_); rotate_left; clear_value x; rotate_left; unfold x)
         | clear_value x
         | skip)
    | with_reducible apply State.modCan_keeps | with_reducible apply State.each_keeps
    | with_reducible apply State.setWord_keeps | with_reducible apply State.journalAdd_keeps
    | with_reducible apply State.halControl_keeps | with_reducible apply State.cantonEvent_keeps
    | with_reducible apply Keeps.ite | with_reducible exact Keeps.refl _ _

def State.selfTick_foot : Foot := foot [.can] []

theorem State.selfTick_keeps (hs : Keeps F S s) (hF : Foot.Sub State.selfTick_foot F) (p : Plane)
    (kat ok : Bool) :
    Keeps F S (State.selfTick s p kat ok) := by
  unfold State.selfTick
  repeat' first
    | with_reducible assumption | (with_reducible refine Foot.Sub.up hF ?_; decide +kernel)
    | ((first | intro x | (lift_lets; intro x))
       first
         | (refine Keeps.cut x ?_ (fun hx => ?_); rotate_left; clear_value x; rotate_left; unfold x)
         | clear_value x
         | skip)
    | with_reducible apply State.modCan_keeps | with_reducible apply Keeps.ite
    | with_reducible exact Keeps.refl _ _

def execSelfTestTick_foot : Foot := State.selfTick_foot

theorem execSelfTestTick_keeps (hF : Foot.Sub execSelfTestTick_foot F) (p : Plane) (kat ok : Bool) (s : State) :
    ∃ t', execSelfTestTick p kat ok s = .next t' ∧ Keeps F s t' := by
  unfold execSelfTestTick
  refine ⟨_, rfl, ?_⟩
  repeat' first
    | with_reducible assumption | (with_reducible refine Foot.Sub.up hF ?_; decide +kernel)
    | with_reducible apply State.when_keeps | with_reducible apply State.selfTick_keeps | intro x
    | with_reducible exact Keeps.refl _ _

def State.setMaster_foot : Foot := Foot.join [foot [.pkg] [.CAN_STAT], State.cantonEvent_foot,
  State.journalAdd_foot]

theorem State.setMaster_keeps (hs : Keeps F S s) (hF : Foot.Sub State.setMaster_foot F) (m : Option Nat) :
    Keeps F S (State.setMaster s m) := by
  unfold State.setMaster
  repeat' first
    | with_reducible assumption | (with_reducible refine Foot.Sub.up hF ?_; decide +kernel)
    | ((first | intro x | (lift_lets; intro x))
       first
         | (refine Keeps.cut x ?_ (fun hx => ?_); rotate_left; clear_value x; rotate_left; unfold x)
         | clear_value x
         | skip)
    | with_reducible apply State.modPkg_keeps | with_reducible apply State.bothF_keeps
    | with_reducible apply State.cantonEvent_keeps | with_reducible apply State.journalAdd_keeps
    | with_reducible apply Keeps.ite | with_reducible exact Keeps.refl _ _

def execCantonWatchdog_foot : Foot := State.canReset_foot

theorem execCantonWatchdog_keeps (hF : Foot.Sub execCantonWatchdog_foot F) (p : Plane) (s : State) :
    ∃ t', execCantonWatchdog p s = .next t' ∧ Keeps F s t' := by
  unfold execCantonWatchdog
  refine ⟨_, rfl, ?_⟩
  repeat' first
    | with_reducible assumption | (with_reducible refine Foot.Sub.up hF ?_; decide +kernel)
    | with_reducible apply State.when_keeps | with_reducible apply State.canReset_keeps | intro x
    | with_reducible exact Keeps.refl _ _

def State.bootFailed_foot : Foot := foot [.can, .out] []

theorem State.bootFailed_keeps (hs : Keeps F S s) (hF : Foot.Sub State.bootFailed_foot F) (p : Plane) :
    Keeps F S (State.bootFailed s p) := by
  unfold State.bootFailed
  repeat' first
    | with_reducible assumption | (with_reducible refine Foot.Sub.up hF ?_; decide +kernel)
    | ((first | intro x | (lift_lets; intro x))
       first
         | (refine Keeps.cut x ?_ (fun hx => ?_); rotate_left; clear_value x; rotate_left; unfold x)
         | clear_value x
         | skip)
    | with_reducible apply State.modCan_keeps | with_reducible apply State.emit_keeps
    | with_reducible apply Keeps.ite | with_reducible exact Keeps.refl _ _

def State.imageStarts_foot : Foot := foot [.can] [.CAN_BOOT_STAT]

theorem State.imageStarts_keeps (hs : Keeps F S s) (hF : Foot.Sub State.imageStarts_foot F) (p : Plane)
    (h : Bytes) (slot : Nat) :
    Keeps F S (State.imageStarts s p h slot) := by
  unfold State.imageStarts
  repeat' first
    | with_reducible assumption | (with_reducible refine Foot.Sub.up hF ?_; decide +kernel)
    | ((first | intro x | (lift_lets; intro x))
       first
         | (refine Keeps.cut x ?_ (fun hx => ?_); rotate_left; clear_value x; rotate_left; unfold x)
         | clear_value x
         | skip)
    | with_reducible apply State.modCan_keeps | with_reducible apply State.setF_keeps
    | with_reducible exact Keeps.refl _ _

def State.bootRom_foot : Foot := Foot.join [foot [.can] [.CAN_BOOT_STAT], State.setView_foot,
  State.bootFailed_foot, State.imageStarts_foot]

theorem State.bootRom_keeps (hs : Keeps F S s) (hF : Foot.Sub State.bootRom_foot F) (p : Plane)
    (v : Option FlashView) :
    Keeps F S (State.bootRom s p v) := by
  unfold State.bootRom
  repeat' first
    | with_reducible assumption | (with_reducible refine Foot.Sub.up hF ?_; decide +kernel)
    | ((first | intro x | (lift_lets; intro x))
       first
         | (refine Keeps.cut x ?_ (fun hx => ?_); rotate_left; clear_value x; rotate_left; unfold x)
         | clear_value x
         | skip)
    | with_reducible apply State.setF_keeps | with_reducible apply State.modCan_keeps
    | with_reducible apply State.setFlag_keeps | with_reducible apply State.setView_keeps
    | with_reducible apply State.bootFailed_keeps | with_reducible apply State.imageStarts_keeps
    | with_reducible apply Keeps.ite | split | with_reducible exact Keeps.refl _ _

def State.loadMicrocode_foot : Foot := foot [.can] []

theorem State.loadMicrocode_keeps (hs : Keeps F S s) (hF : Foot.Sub State.loadMicrocode_foot F) (p : Plane)
    (mc : Option Image) :
    Keeps F S (State.loadMicrocode s p mc) := by
  unfold State.loadMicrocode
  repeat' first
    | with_reducible assumption | (with_reducible refine Foot.Sub.up hF ?_; decide +kernel)
    | with_reducible apply State.modCan_keeps | intro x | with_reducible apply Keeps.ite | split
    | with_reducible exact Keeps.refl _ _

def State.bootEnd_foot : Foot := Foot.join [foot [.can, .pkg] [.CAN_BOOT_STAT, .CAN_PWR_STATE],
  State.loadMicrocode_foot, State.setRole_foot, State.takeAddrs_foot, State.lasersOn_foot, State.enginesEnter_foot,
  State.setMaster_foot, State.halDown_foot, State.startMove_foot, State.fallbacks_foot]

theorem State.bootEnd_keeps (hs : Keeps F S s) (hF : Foot.Sub State.bootEnd_foot F) (p : Plane)
    (mc : Option Image) :
    Keeps F S (State.bootEnd s p mc) := by
  unfold State.bootEnd
  repeat' first
    | with_reducible assumption | (with_reducible refine Foot.Sub.up hF ?_; decide +kernel)
    | ((first | intro x | (lift_lets; intro x))
       first
         | (refine Keeps.cut x ?_ (fun hx => ?_); rotate_left; clear_value x; rotate_left; unfold x)
         | clear_value x
         | skip)
    | with_reducible apply State.modCan_keeps | with_reducible apply State.setFlag_keeps
    | with_reducible apply State.modPkg_keeps | with_reducible apply State.both_keeps
    | with_reducible apply State.loadMicrocode_keeps | with_reducible apply State.setRole_keeps
    | with_reducible apply State.bothF_keeps | with_reducible apply State.takeAddrs_keeps
    | with_reducible apply State.lasersOn_keeps | with_reducible apply State.enginesEnter_keeps
    | with_reducible apply State.setMaster_keeps | with_reducible apply State.halDown_keeps
    | with_reducible apply State.startMove_keeps | with_reducible apply State.fallbacks_keeps
    | with_reducible apply Keeps.ite | with_reducible exact Keeps.refl _ _

def State.handStart_foot : Foot := Foot.join [foot [.pkg] [], State.setRole_foot]

theorem State.handStart_keeps (hs : Keeps F S s) (hF : Foot.Sub State.handStart_foot F) :
    Keeps F S (State.handStart s) := by
  unfold State.handStart
  repeat' first
    | with_reducible assumption | (with_reducible refine Foot.Sub.up hF ?_; decide +kernel)
    | with_reducible apply State.modPkg_keeps | with_reducible apply State.setRole_keeps | intro x | split
    | with_reducible exact Keeps.refl _ _

def State.handReg_foot : Foot := Foot.join [foot [] [.CAN_CTL], State.handStart_foot]

theorem State.handReg_keeps (hs : Keeps F S s) (hF : Foot.Sub State.handReg_foot F) (p : Plane) :
    Keeps F S (State.handReg s p) := by
  unfold State.handReg
  repeat' first
    | with_reducible assumption | (with_reducible refine Foot.Sub.up hF ?_; decide +kernel)
    | with_reducible apply State.setFlag_keeps | with_reducible apply State.handStart_keeps
    | with_reducible apply Keeps.ite | with_reducible exact Keeps.refl _ _

def State.notifyAck_foot : Foot := Foot.join [foot [.pkg] [], State.journalAdd_foot]

theorem State.notifyAck_keeps (hs : Keeps F S s) (hF : Foot.Sub State.notifyAck_foot F) (seq : BitVec 32) :
    Keeps F S (State.notifyAck s seq) := by
  unfold State.notifyAck
  repeat' first
    | with_reducible assumption | (with_reducible refine Foot.Sub.up hF ?_; decide +kernel)
    | with_reducible apply State.modPkg_keeps | with_reducible apply State.journalAdd_keeps | intro x
    | with_reducible exact Keeps.refl _ _

def execNotifyAck_foot : Foot := State.notifyAck_foot

theorem execNotifyAck_keeps (hF : Foot.Sub execNotifyAck_foot F) (seq : BitVec 32) (s : State) :
    ∃ t', execNotifyAck seq s = .next t' ∧ Keeps F s t' := by
  unfold execNotifyAck
  refine ⟨_, rfl, ?_⟩
  repeat' first
    | with_reducible assumption | (with_reducible refine Foot.Sub.up hF ?_; decide +kernel)
    | with_reducible apply State.when_keeps | with_reducible apply State.notifyAck_keeps | intro x
    | with_reducible exact Keeps.refl _ _

end Sys2Proof.Machine
end

