-- ==== Sys2Proof/Laws/KeepMgmt.lean ====
section
/-! SUPPORT. `Keeps` of the definitions of Machine/Mgmt.lean, each with its footprint. -/

namespace Sys2Proof.Machine

set_option Elab.async false

variable {F : Foot} {S s : State}

def State.cascTo_foot : Foot := State.sendOut_foot

theorem State.cascTo_keeps (hs : Keeps F S s) (hF : Foot.Sub State.cascTo_foot F) (slot type : Nat)
    (payload : Bytes) :
    Keeps F S (State.cascTo s slot type payload) := by
  unfold State.cascTo
  repeat' first
    | with_reducible assumption | (with_reducible refine Foot.Sub.up hF ?_; decide +kernel)
    | ((first | intro x | (lift_lets; intro x))
       first
         | (refine Keeps.cut x ?_ (fun hx => ?_); rotate_left; clear_value x; rotate_left; unfold x)
         | clear_value x
         | skip)
    | with_reducible apply State.sendOut_keeps | with_reducible apply Keeps.ite
    | with_reducible exact Keeps.refl _ _

def State.cascAll_foot : Foot := Foot.join [foot [.out] [], State.sendOut_foot]

theorem State.cascAll_keeps (hs : Keeps F S s) (hF : Foot.Sub State.cascAll_foot F) (type : Nat)
    (payload : Bytes) :
    Keeps F S (State.cascAll s type payload) := by
  unfold State.cascAll
  repeat' first
    | with_reducible assumption | (with_reducible refine Foot.Sub.up hF ?_; decide +kernel)
    | ((first | intro x | (lift_lets; intro x))
       first
         | (refine Keeps.cut x ?_ (fun hx => ?_); rotate_left; clear_value x; rotate_left; unfold x)
         | clear_value x
         | skip)
    | with_reducible apply State.emit_keeps | with_reducible apply State.sendOut_keeps
    | with_reducible apply Keeps.ite | with_reducible exact Keeps.refl _ _

def State.sendBack_foot : Foot := Foot.join [foot [] [.CAN_MBOX_RX, .CAN_MBOX_CTL], State.sendOut_foot,
  State.cascTo_foot, State.modPort_foot, State.respondOn_foot, State.originate_foot]

theorem State.sendBack_keeps (hs : Keeps F S s) (hF : Foot.Sub State.sendBack_foot F) (via : Plane)
    (t : Transport) (msg : Bytes) :
    Keeps F S (State.sendBack s via t msg) := by
  unfold State.sendBack
  repeat' first
    | with_reducible assumption | (with_reducible refine Foot.Sub.up hF ?_; decide +kernel)
    | ((first | intro x | (lift_lets; intro x))
       first
         | (refine Keeps.cut x ?_ (fun hx => ?_); rotate_left; clear_value x; rotate_left; unfold x)
         | clear_value x
         | skip)
    | with_reducible apply State.each_keeps | with_reducible apply State.setWord_keeps
    | with_reducible apply State.setFlag_keeps | with_reducible apply State.sendOut_keeps
    | with_reducible apply State.cascTo_keeps | with_reducible apply State.modPort_keeps
    | with_reducible apply State.respondOn_keeps | with_reducible apply State.originate_keeps
    | with_reducible apply Keeps.ite | split | with_reducible exact Keeps.refl _ _

def State.answer_foot : Foot := State.sendBack_foot

theorem State.answer_keeps (hs : Keeps F S s) (hF : Foot.Sub State.answer_foot F) (code : Nat) (r : MgmtReq)
    (status : Nat) (body : Bytes) :
    Keeps F S (State.answer s code r status body) := by
  unfold State.answer
  repeat' first
    | with_reducible assumption | (with_reducible refine Foot.Sub.up hF ?_; decide +kernel)
    | ((first | intro x | (lift_lets; intro x))
       first
         | (refine Keeps.cut x ?_ (fun hx => ?_); rotate_left; clear_value x; rotate_left; unfold x)
         | clear_value x
         | skip)
    | with_reducible apply State.each_keeps | with_reducible apply State.sendBack_keeps
    | with_reducible exact Keeps.refl _ _

def State.signedIn_foot : Foot := Foot.join [foot [.pkg] [], State.journalAdd_foot]

theorem State.signedIn_keeps (hs : Keeps F S s) (hF : Foot.Sub State.signedIn_foot F) (seq : BitVec 32) :
    Keeps F S (State.signedIn s seq) := by
  unfold State.signedIn
  repeat' first
    | with_reducible assumption | (with_reducible refine Foot.Sub.up hF ?_; decide +kernel)
    | with_reducible apply State.modPkg_keeps | with_reducible apply State.journalAdd_keeps | intro x
    | with_reducible exact Keeps.refl _ _

def State.serve_foot : Foot := Foot.join [foot [.pkg] [.CAN_SIG_FAIL], State.answer_foot, State.cascTo_foot,
  State.signedIn_foot]

theorem State.serve_keeps (hs : Keeps F S s) (hF : Foot.Sub State.serve_foot F) (code : Nat) (r : MgmtReq)
    (act : Plane → State → State) (hact : ∀ a0 s, Keeps F s (act a0 s)) :
    Keeps F S (State.serve s code r act) := by
  unfold State.serve
  repeat' first
    | with_reducible assumption | (with_reducible refine Foot.Sub.up hF ?_; decide +kernel)
    | ((first | intro x | (lift_lets; intro x))
       first
         | (refine Keeps.cut x ?_ (fun hx => ?_); rotate_left; clear_value x; rotate_left; unfold x)
         | clear_value x
         | skip)
    | with_reducible apply State.modPkg_keeps | with_reducible apply State.count_keeps
    | with_reducible apply State.answer_keeps | with_reducible apply State.cascTo_keeps
    | with_reducible apply State.signedIn_keeps | with_reducible refine Keeps.trans ?_ (hact ..)
    | with_reducible apply Keeps.ite | split | with_reducible exact Keeps.refl _ _

def State.okIf_foot : Foot := State.answer_foot

theorem State.okIf_keeps (hs : Keeps F S s) (hF : Foot.Sub State.okIf_foot F) (code : Nat) (r : MgmtReq)
    (b : Bool) (f : State → State) (hf : ∀ s, Keeps F s (f s)) :
    Keeps F S (State.okIf s code r b f) := by
  unfold State.okIf
  repeat' first
    | with_reducible assumption | (with_reducible refine Foot.Sub.up hF ?_; decide +kernel)
    | with_reducible apply State.answer_keeps | with_reducible refine Keeps.trans ?_ (hf ..)
    | with_reducible apply Keeps.ite | with_reducible exact Keeps.refl _ _

def State.healthGet_foot : Foot := Foot.join [State.serve_foot, State.answer_foot]

theorem State.healthGet_keeps (hs : Keeps F S s) (hF : Foot.Sub State.healthGet_foot F) (r : MgmtReq) :
    Keeps F S (State.healthGet s r) := by
  unfold State.healthGet
  repeat' first
    | with_reducible assumption | (with_reducible refine Foot.Sub.up hF ?_; decide +kernel)
    | ((first | intro x | (lift_lets; intro x))
       first
         | (refine Keeps.cut x ?_ (fun hx => ?_); rotate_left; clear_value x; rotate_left; unfold x)
         | clear_value x
         | skip)
    | with_reducible apply State.serve_keeps | with_reducible apply State.answer_keeps
    | with_reducible apply Keeps.ite | with_reducible exact Keeps.refl _ _

def State.inventoryGet_foot : Foot := Foot.join [State.serve_foot, State.answer_foot]

theorem State.inventoryGet_keeps (hs : Keeps F S s) (hF : Foot.Sub State.inventoryGet_foot F) (r : MgmtReq)
    (members : List (BitVec 4 × Bytes)) :
    Keeps F S (State.inventoryGet s r members) := by
  unfold State.inventoryGet
  repeat' first
    | with_reducible assumption | (with_reducible refine Foot.Sub.up hF ?_; decide +kernel)
    | with_reducible apply State.serve_keeps | with_reducible apply State.answer_keeps | intro x
    | with_reducible apply Keeps.ite | with_reducible exact Keeps.refl _ _

def State.sensorGet_foot : Foot := Foot.join [State.serve_foot, State.answer_foot]

theorem State.sensorGet_keeps (hs : Keeps F S s) (hF : Foot.Sub State.sensorGet_foot F) (r : MgmtReq) :
    Keeps F S (State.sensorGet s r) := by
  unfold State.sensorGet
  repeat' first
    | with_reducible assumption | (with_reducible refine Foot.Sub.up hF ?_; decide +kernel)
    | ((first | intro x | (lift_lets; intro x))
       first
         | (refine Keeps.cut x ?_ (fun hx => ?_); rotate_left; clear_value x; rotate_left; unfold x)
         | clear_value x
         | skip)
    | with_reducible apply State.serve_keeps | with_reducible apply State.answer_keeps
    | with_reducible exact Keeps.refl _ _

def State.attest_foot : Foot := Foot.join [State.serve_foot, State.answer_foot]

theorem State.attest_keeps (hs : Keeps F S s) (hF : Foot.Sub State.attest_foot F) (r : MgmtReq) :
    Keeps F S (State.attest s r) := by
  unfold State.attest
  repeat' first
    | with_reducible assumption | (with_reducible refine Foot.Sub.up hF ?_; decide +kernel)
    | with_reducible apply State.serve_keeps | with_reducible apply State.answer_keeps | intro x
    | with_reducible exact Keeps.refl _ _

def State.neighbourGet_foot : Foot := Foot.join [State.serve_foot, State.answer_foot]

theorem State.neighbourGet_keeps (hs : Keeps F S s) (hF : Foot.Sub State.neighbourGet_foot F) (r : MgmtReq) :
    Keeps F S (State.neighbourGet s r) := by
  unfold State.neighbourGet
  repeat' first
    | with_reducible assumption | (with_reducible refine Foot.Sub.up hF ?_; decide +kernel)
    | with_reducible apply State.serve_keeps | with_reducible apply State.answer_keeps | intro x
    | with_reducible exact Keeps.refl _ _

def State.capSet_foot : Foot := Foot.join [foot [.pkg] [.CAN_CAP_RM], State.serve_foot, State.okIf_foot,
  State.setCap_foot, State.journalAdd_foot]

theorem State.capSet_keeps (hs : Keeps F S s) (hF : Foot.Sub State.capSet_foot F) (r : MgmtReq) :
    Keeps F S (State.capSet s r) := by
  unfold State.capSet
  repeat' first
    | with_reducible assumption | (with_reducible refine Foot.Sub.up hF ?_; decide +kernel)
    | ((first | intro x | (lift_lets; intro x))
       first
         | (refine Keeps.cut x ?_ (fun hx => ?_); rotate_left; clear_value x; rotate_left; unfold x)
         | clear_value x
         | skip)
    | with_reducible apply State.modPkg_keeps | with_reducible apply State.serve_keeps
    | with_reducible apply State.okIf_keeps | with_reducible apply State.setCap_keeps
    | with_reducible apply State.journalAdd_keeps | with_reducible apply Keeps.ite
    | with_reducible exact Keeps.refl _ _

def State.rmPower_foot : Foot := Foot.join [foot [] [.CAN_PWR_STATE], State.journalAdd_foot, State.startMove_foot,
  State.pwrOff_foot]

theorem State.rmPower_keeps (hs : Keeps F S s) (hF : Foot.Sub State.rmPower_foot F) (p : Plane) (limit : Nat) :
    Keeps F S (State.rmPower s p limit) := by
  unfold State.rmPower
  repeat' first
    | with_reducible assumption | (with_reducible refine Foot.Sub.up hF ?_; decide +kernel)
    | ((first | intro x | (lift_lets; intro x))
       first
         | (refine Keeps.cut x ?_ (fun hx => ?_); rotate_left; clear_value x; rotate_left; unfold x)
         | clear_value x
         | skip)
    | with_reducible apply State.journalAdd_keeps | with_reducible apply State.pkgF_keeps
    | with_reducible apply State.startMove_keeps | with_reducible apply State.pwrOff_keeps
    | with_reducible apply Keeps.ite | with_reducible exact Keeps.refl _ _

def State.powerSet_foot : Foot := Foot.join [State.serve_foot, State.okIf_foot, State.rmPower_foot]

theorem State.powerSet_keeps (hs : Keeps F S s) (hF : Foot.Sub State.powerSet_foot F) (r : MgmtReq) :
    Keeps F S (State.powerSet s r) := by
  unfold State.powerSet
  repeat' first
    | with_reducible assumption | (with_reducible refine Foot.Sub.up hF ?_; decide +kernel)
    | ((first | intro x | (lift_lets; intro x))
       first
         | (refine Keeps.cut x ?_ (fun hx => ?_); rotate_left; clear_value x; rotate_left; unfold x)
         | clear_value x
         | skip)
    | with_reducible apply State.serve_keeps | with_reducible apply State.okIf_keeps
    | with_reducible apply State.rmPower_keeps | with_reducible exact Keeps.refl _ _

def State.fwPut_foot : Foot := Foot.join [State.flashWrite_foot, State.invSet_foot]

theorem State.fwPut_keeps (hs : Keeps F S s) (hF : Foot.Sub State.fwPut_foot F) (q : Plane) (off : Nat)
    (b : Bytes) :
    Keeps F S (State.fwPut s q off b) := by
  unfold State.fwPut
  repeat' first
    | with_reducible assumption | (with_reducible refine Foot.Sub.up hF ?_; decide +kernel)
    | ((first | intro x | (lift_lets; intro x))
       first
         | (refine Keeps.cut x ?_ (fun hx => ?_); rotate_left; clear_value x; rotate_left; unfold x)
         | clear_value x
         | skip)
    | with_reducible apply State.flashWrite_keeps | with_reducible apply State.invSet_keeps | split
    | with_reducible exact Keeps.refl _ _

def State.fwWrite_foot : Foot := Foot.join [State.serve_foot, State.okIf_foot, State.fwPut_foot]

theorem State.fwWrite_keeps (hs : Keeps F S s) (hF : Foot.Sub State.fwWrite_foot F) (r : MgmtReq) :
    Keeps F S (State.fwWrite s r) := by
  unfold State.fwWrite
  repeat' first
    | with_reducible assumption | (with_reducible refine Foot.Sub.up hF ?_; decide +kernel)
    | ((first | intro x | (lift_lets; intro x))
       first
         | (refine Keeps.cut x ?_ (fun hx => ?_); rotate_left; clear_value x; rotate_left; unfold x)
         | clear_value x
         | skip)
    | with_reducible apply State.both_keeps | with_reducible apply State.serve_keeps
    | with_reducible apply State.okIf_keeps | with_reducible apply State.fwPut_keeps
    | with_reducible exact Keeps.refl _ _

def State.fwActivate_foot : Foot := Foot.join [foot [.pkg] [], State.serve_foot, State.answer_foot,
  State.canReset_foot, State.setPref_foot]

theorem State.fwActivate_keeps (hs : Keeps F S s) (hF : Foot.Sub State.fwActivate_foot F) (r : MgmtReq) :
    Keeps F S (State.fwActivate s r) := by
  unfold State.fwActivate
  repeat' first
    | with_reducible assumption | (with_reducible refine Foot.Sub.up hF ?_; decide +kernel)
    | ((first | intro x | (lift_lets; intro x))
       first
         | (refine Keeps.cut x ?_ (fun hx => ?_); rotate_left; clear_value x; rotate_left; unfold x)
         | clear_value x
         | skip)
    | with_reducible apply State.modPkg_keeps | with_reducible apply State.serve_keeps
    | with_reducible apply State.answer_keeps | with_reducible apply State.canReset_keeps
    | with_reducible apply State.setPref_keeps | with_reducible apply Keeps.ite | split
    | with_reducible exact Keeps.refl _ _

def State.activateNext_foot : Foot := Foot.join [foot [.pkg] [], State.setPref_foot, State.answer_foot,
  State.handStart_foot]

theorem State.activateNext_keeps (hs : Keeps F S s) (hF : Foot.Sub State.activateNext_foot F) :
    Keeps F S (State.activateNext s) := by
  unfold State.activateNext
  repeat' first
    | with_reducible assumption | (with_reducible refine Foot.Sub.up hF ?_; decide +kernel)
    | ((first | intro x | (lift_lets; intro x))
       first
         | (refine Keeps.cut x ?_ (fun hx => ?_); rotate_left; clear_value x; rotate_left; unfold x)
         | clear_value x
         | skip)
    | with_reducible apply State.modPkg_keeps | with_reducible apply State.setPref_keeps
    | with_reducible apply State.answer_keeps | with_reducible apply State.handStart_keeps
    | with_reducible apply Keeps.ite | split | with_reducible exact Keeps.refl _ _

def State.svnCommit_foot : Foot := Foot.join [foot [.pkg] [], State.serve_foot, State.okIf_foot]

theorem State.svnCommit_keeps (hs : Keeps F S s) (hF : Foot.Sub State.svnCommit_foot F) (r : MgmtReq) :
    Keeps F S (State.svnCommit s r) := by
  unfold State.svnCommit
  repeat' first
    | with_reducible assumption | (with_reducible refine Foot.Sub.up hF ?_; decide +kernel)
    | ((first | intro x | (lift_lets; intro x))
       first
         | (refine Keeps.cut x ?_ (fun hx => ?_); rotate_left; clear_value x; rotate_left; unfold x)
         | clear_value x
         | skip)
    | with_reducible apply State.modPkg_keeps | with_reducible apply State.serve_keeps
    | with_reducible apply State.okIf_keeps | with_reducible apply Keeps.ite | with_reducible exact Keeps.refl _ _

def State.keyRevoke_foot : Foot := Foot.join [foot [.pkg] [], State.serve_foot, State.okIf_foot]

theorem State.keyRevoke_keeps (hs : Keeps F S s) (hF : Foot.Sub State.keyRevoke_foot F) (r : MgmtReq)
    (by_ : Nat → Option Nat) :
    Keeps F S (State.keyRevoke s r by_) := by
  unfold State.keyRevoke
  repeat' first
    | with_reducible assumption | (with_reducible refine Foot.Sub.up hF ?_; decide +kernel)
    | ((first | intro x | (lift_lets; intro x))
       first
         | (refine Keeps.cut x ?_ (fun hx => ?_); rotate_left; clear_value x; rotate_left; unfold x)
         | clear_value x
         | skip)
    | with_reducible apply State.modPkg_keeps | with_reducible apply State.serve_keeps
    | with_reducible apply State.okIf_keeps | split | with_reducible exact Keeps.refl _ _

def State.ownerSet_foot : Foot := Foot.join [foot [.pkg] [], State.serve_foot, State.okIf_foot]

theorem State.ownerSet_keeps (hs : Keeps F S s) (hF : Foot.Sub State.ownerSet_foot F) (r : MgmtReq) :
    Keeps F S (State.ownerSet s r) := by
  unfold State.ownerSet
  repeat' first
    | with_reducible assumption | (with_reducible refine Foot.Sub.up hF ?_; decide +kernel)
    | with_reducible apply State.modPkg_keeps | with_reducible apply State.serve_keeps
    | with_reducible apply State.okIf_keeps | intro x | with_reducible exact Keeps.refl _ _

def State.handover_foot : Foot := Foot.join [State.serve_foot, State.okIf_foot, State.handStart_foot]

theorem State.handover_keeps (hs : Keeps F S s) (hF : Foot.Sub State.handover_foot F) (r : MgmtReq) :
    Keeps F S (State.handover s r) := by
  unfold State.handover
  repeat' first
    | with_reducible assumption | (with_reducible refine Foot.Sub.up hF ?_; decide +kernel)
    | with_reducible apply State.serve_keeps | with_reducible apply State.okIf_keeps
    | with_reducible apply State.handStart_keeps | intro x | with_reducible exact Keeps.refl _ _

def State.masterHandover_foot : Foot := Foot.join [State.serve_foot, State.okIf_foot, State.setMaster_foot]

theorem State.masterHandover_keeps (hs : Keeps F S s) (hF : Foot.Sub State.masterHandover_foot F) (r : MgmtReq) :
    Keeps F S (State.masterHandover s r) := by
  unfold State.masterHandover
  repeat' first
    | with_reducible assumption | (with_reducible refine Foot.Sub.up hF ?_; decide +kernel)
    | ((first | intro x | (lift_lets; intro x))
       first
         | (refine Keeps.cut x ?_ (fun hx => ?_); rotate_left; clear_value x; rotate_left; unfold x)
         | clear_value x
         | skip)
    | with_reducible apply State.serve_keeps | with_reducible apply State.okIf_keeps
    | with_reducible apply State.setMaster_keeps | with_reducible exact Keeps.refl _ _

def State.mgmtUnknown_foot : Foot := Foot.join [State.serve_foot, State.answer_foot]

theorem State.mgmtUnknown_keeps (hs : Keeps F S s) (hF : Foot.Sub State.mgmtUnknown_foot F) (code : Nat)
    (r : MgmtReq) :
    Keeps F S (State.mgmtUnknown s code r) := by
  unfold State.mgmtUnknown
  repeat' first
    | with_reducible assumption | (with_reducible refine Foot.Sub.up hF ?_; decide +kernel)
    | with_reducible apply State.serve_keeps | with_reducible apply State.answer_keeps | intro x
    | with_reducible apply Keeps.ite | with_reducible exact Keeps.refl _ _

def State.mgmtDo_foot : Foot := Foot.join [State.healthGet_foot, State.inventoryGet_foot, State.sensorGet_foot,
  State.attest_foot, State.neighbourGet_foot, State.capSet_foot, State.powerSet_foot, State.fwWrite_foot,
  State.fwActivate_foot, State.svnCommit_foot, State.keyRevoke_foot, State.ownerSet_foot, State.handover_foot,
  State.masterHandover_foot, State.mgmtUnknown_foot]

theorem State.mgmtDo_keeps (hs : Keeps F S s) (hF : Foot.Sub State.mgmtDo_foot F) (code : Nat) (r : MgmtReq) :
    Keeps F S (State.mgmtDo s code r) := by
  unfold State.mgmtDo
  repeat' first
    | with_reducible assumption | (with_reducible refine Foot.Sub.up hF ?_; decide +kernel)
    | with_reducible apply State.healthGet_keeps | with_reducible apply State.inventoryGet_keeps
    | with_reducible apply State.sensorGet_keeps | with_reducible apply State.attest_keeps
    | with_reducible apply State.neighbourGet_keeps | with_reducible apply State.capSet_keeps
    | with_reducible apply State.powerSet_keeps | with_reducible apply State.fwWrite_keeps
    | with_reducible apply State.fwActivate_keeps | with_reducible apply State.svnCommit_keeps
    | with_reducible apply State.keyRevoke_keeps | with_reducible apply State.ownerSet_keeps
    | with_reducible apply State.handover_keeps | with_reducible apply State.masterHandover_keeps
    | with_reducible apply State.mgmtUnknown_keeps | intro x | split | with_reducible exact Keeps.refl _ _

def State.cantonTakes_foot : Foot := State.mgmtDo_foot

theorem State.cantonTakes_keeps (hs : Keeps F S s) (hF : Foot.Sub State.cantonTakes_foot F) (p : Plane)
    (src : Nat) (k : Packet) :
    Keeps F S (State.cantonTakes p src k s) := by
  unfold State.cantonTakes
  repeat' first
    | with_reducible assumption | (with_reducible refine Foot.Sub.up hF ?_; decide +kernel)
    | ((first | intro x | (lift_lets; intro x))
       first
         | (refine Keeps.cut x ?_ (fun hx => ?_); rotate_left; clear_value x; rotate_left; unfold x)
         | clear_value x
         | skip)
    | with_reducible apply State.mgmtDo_keeps | with_reducible apply Keeps.ite
    | with_reducible exact Keeps.refl _ _

def State.romWrite_foot : Foot := Foot.join [foot [.pkg, .can] [.CAN_SIG_FAIL, .CAN_BOOT_STAT], State.answer_foot,
  State.okIf_foot, State.imageStarts_foot]

theorem State.romWrite_keeps (hs : Keeps F S s) (hF : Foot.Sub State.romWrite_foot F) (p : Plane) (r : MgmtReq) :
    Keeps F S (State.romWrite s p r) := by
  unfold State.romWrite
  repeat' first
    | with_reducible assumption | (with_reducible refine Foot.Sub.up hF ?_; decide +kernel)
    | ((first | intro x | (lift_lets; intro x))
       first
         | (refine Keeps.cut x ?_ (fun hx => ?_); rotate_left; clear_value x; rotate_left; unfold x)
         | clear_value x
         | skip)
    | with_reducible apply State.count_keeps | with_reducible apply State.modPkg_keeps
    | with_reducible apply State.modCan_keeps | with_reducible apply State.setF_keeps
    | with_reducible apply State.answer_keeps | with_reducible apply State.okIf_keeps
    | with_reducible apply State.imageStarts_keeps | with_reducible apply State.foldl_keeps
    | with_reducible apply State.foldl_snd | with_reducible apply State.foldl_snd2 | with_reducible apply Keeps.ite
    | split | with_reducible exact Keeps.refl _ _

def State.mboxServe_foot : Foot := Foot.join [foot [] [.CAN_MBOX_CTL], State.romWrite_foot, State.mgmtDo_foot,
  State.answer_foot]

theorem State.mboxServe_keeps (hs : Keeps F S s) (hF : Foot.Sub State.mboxServe_foot F) (p : Plane) :
    Keeps F S (State.mboxServe s p) := by
  unfold State.mboxServe
  repeat' first
    | with_reducible assumption | (with_reducible refine Foot.Sub.up hF ?_; decide +kernel)
    | ((first | intro x | (lift_lets; intro x))
       first
         | (refine Keeps.cut x ?_ (fun hx => ?_); rotate_left; clear_value x; rotate_left; unfold x)
         | clear_value x
         | skip)
    | with_reducible apply State.setFlag_keeps | with_reducible apply State.romWrite_keeps
    | with_reducible apply State.mgmtDo_keeps | with_reducible apply State.answer_keeps
    | with_reducible apply Keeps.ite | with_reducible exact Keeps.refl _ _

def State.mboxTake_foot : Foot := State.mboxServe_foot

theorem State.mboxTake_keeps (hs : Keeps F S s) (hF : Foot.Sub State.mboxTake_foot F) :
    Keeps F S (State.mboxTake s) := by
  unfold State.mboxTake
  repeat' first
    | with_reducible assumption | (with_reducible refine Foot.Sub.up hF ?_; decide +kernel)
    | with_reducible apply State.both_keeps | with_reducible apply State.mboxServe_keeps | intro x
    | with_reducible apply Keeps.ite | with_reducible exact Keeps.refl _ _

def State.mboxSend_foot : Foot := Foot.join [foot [] [.CAN_MBOX_CTL], State.mboxTake_foot]

theorem State.mboxSend_keeps (hs : Keeps F S s) (hF : Foot.Sub State.mboxSend_foot F) (p : Plane) :
    Keeps F S (State.mboxSend s p) := by
  unfold State.mboxSend
  repeat' first
    | with_reducible assumption | (with_reducible refine Foot.Sub.up hF ?_; decide +kernel)
    | with_reducible apply State.setFlag_keeps | with_reducible apply State.mboxTake_keeps
    | with_reducible apply Keeps.ite | with_reducible exact Keeps.refl _ _

def State.relayBack_foot : Foot := Foot.join [foot [.pkg] [], State.sendBack_foot]

theorem State.relayBack_keeps (hs : Keeps F S s) (hF : Foot.Sub State.relayBack_foot F) (src : Nat) (b : Bytes) :
    Keeps F S (State.relayBack s src b) := by
  unfold State.relayBack
  repeat' first
    | with_reducible assumption | (with_reducible refine Foot.Sub.up hF ?_; decide +kernel)
    | ((first | intro x | (lift_lets; intro x))
       first
         | (refine Keeps.cut x ?_ (fun hx => ?_); rotate_left; clear_value x; rotate_left; unfold x)
         | clear_value x
         | skip)
    | with_reducible apply State.modPkg_keeps | with_reducible apply State.sendBack_keeps
    | with_reducible apply Keeps.ite | split | with_reducible exact Keeps.refl _ _

def State.cascDeliver_foot : Foot := Foot.join [foot [.out] [], State.relayBack_foot, State.mgmtDo_foot]

theorem State.cascDeliver_keeps (hs : Keeps F S s) (hF : Foot.Sub State.cascDeliver_foot F) (p : Plane)
    (f : CascFrame) :
    Keeps F S (State.cascDeliver s p f) := by
  unfold State.cascDeliver
  repeat' first
    | with_reducible assumption | (with_reducible refine Foot.Sub.up hF ?_; decide +kernel)
    | ((first | intro x | (lift_lets; intro x))
       first
         | (refine Keeps.cut x ?_ (fun hx => ?_); rotate_left; clear_value x; rotate_left; unfold x)
         | clear_value x
         | skip)
    | with_reducible apply State.emit_keeps | with_reducible apply State.relayBack_keeps
    | with_reducible apply State.mgmtDo_keeps | with_reducible apply Keeps.ite
    | with_reducible exact Keeps.refl _ _

def State.cascIn_foot : Foot := Foot.join [foot [.out] [], State.sideHeard_foot, State.cascDeliver_foot]

theorem State.cascIn_keeps (hs : Keeps F S s) (hF : Foot.Sub State.cascIn_foot F) (p : Plane)
    (side : Sys2Proof.Side) (f : CascFrame) :
    Keeps F S (State.cascIn s p side f) := by
  unfold State.cascIn
  repeat' first
    | with_reducible assumption | (with_reducible refine Foot.Sub.up hF ?_; decide +kernel)
    | ((first | intro x | (lift_lets; intro x))
       first
         | (refine Keeps.cut x ?_ (fun hx => ?_); rotate_left; clear_value x; rotate_left; unfold x)
         | clear_value x
         | skip)
    | with_reducible apply State.emit_keeps | with_reducible apply State.sideHeard_keeps
    | with_reducible apply State.cascDeliver_keeps | with_reducible apply Keeps.ite
    | with_reducible exact Keeps.refl _ _

def State.splitReport_foot : Foot := Foot.join [State.coin_foot, State.cantonEvent_foot]

theorem State.splitReport_keeps (hs : Keeps F S s) (hF : Foot.Sub State.splitReport_foot F) :
    Keeps F S (State.splitReport s) := by
  unfold State.splitReport
  repeat' first
    | with_reducible assumption | (with_reducible refine Foot.Sub.up hF ?_; decide +kernel)
    | ((first | intro x | (lift_lets; intro x))
       first
         | (refine Keeps.cut x ?_ (fun hx => ?_); rotate_left; clear_value x; rotate_left; unfold x)
         | clear_value x
         | skip)
    | with_reducible apply State.coin_keeps | with_reducible apply State.cantonEvent_keeps
    | with_reducible apply Keeps.ite | with_reducible refine Keeps.snd ?_ (by assumption) | split
    | with_reducible exact Keeps.refl _ _

def State.elect_foot : Foot := Foot.join [foot [.pkg] [], State.setMaster_foot, State.splitReport_foot]

theorem State.elect_keeps (hs : Keeps F S s) (hF : Foot.Sub State.elect_foot F) (missing : Bool) :
    Keeps F S (State.elect s missing) := by
  unfold State.elect
  repeat' first
    | with_reducible assumption | (with_reducible refine Foot.Sub.up hF ?_; decide +kernel)
    | ((first | intro x | (lift_lets; intro x))
       first
         | (refine Keeps.cut x ?_ (fun hx => ?_); rotate_left; clear_value x; rotate_left; unfold x)
         | clear_value x
         | skip)
    | with_reducible apply State.modPkg_keeps | with_reducible apply State.setMaster_keeps
    | with_reducible apply State.splitReport_keeps | with_reducible apply Keeps.ite | split
    | with_reducible exact Keeps.refl _ _ | dsimp +zetaDelta only

def State.election_foot : Foot := State.elect_foot

theorem State.election_keeps (hs : Keeps F S s) (hF : Foot.Sub State.election_foot F) :
    Keeps F S (State.election s) := by
  unfold State.election
  repeat' first
    | with_reducible assumption | (with_reducible refine Foot.Sub.up hF ?_; decide +kernel)
    | with_reducible apply State.elect_keeps | with_reducible apply Keeps.ite | split
    | with_reducible exact Keeps.refl _ _

def State.announceOut_foot : Foot := State.cascAll_foot

theorem State.announceOut_keeps (hs : Keeps F S s) (hF : Foot.Sub State.announceOut_foot F) :
    Keeps F S (State.announceOut s) := by
  unfold State.announceOut
  repeat' first
    | with_reducible assumption | (with_reducible refine Foot.Sub.up hF ?_; decide +kernel)
    | with_reducible apply State.cascAll_keeps | with_reducible exact Keeps.refl _ _

def State.announceIn_foot : Foot := Foot.join [foot [.pkg] [], State.cantonEvent_foot, State.elect_foot,
  State.setMaster_foot]

theorem State.announceIn_keeps (hs : Keeps F S s) (hF : Foot.Sub State.announceIn_foot F) (slot : Nat)
    (serial : BitVec 64) (eligible master : Bool) :
    Keeps F S (State.announceIn s slot serial eligible master) := by
  unfold State.announceIn
  repeat' first
    | with_reducible assumption | (with_reducible refine Foot.Sub.up hF ?_; decide +kernel)
    | ((first | intro x | (lift_lets; intro x))
       first
         | (refine Keeps.cut x ?_ (fun hx => ?_); rotate_left; clear_value x; rotate_left; unfold x)
         | clear_value x
         | skip)
    | with_reducible apply State.modPkg_keeps | with_reducible apply State.cantonEvent_keeps
    | with_reducible apply State.elect_keeps | with_reducible apply State.setMaster_keeps
    | with_reducible apply Keeps.ite | with_reducible exact Keeps.refl _ _

def State.memberLost_foot : Foot := Foot.join [foot [.pkg] [], State.splitReport_foot, State.cantonEvent_foot]

theorem State.memberLost_keeps (hs : Keeps F S s) (hF : Foot.Sub State.memberLost_foot F) (slot : Nat) :
    Keeps F S (State.memberLost s slot) := by
  unfold State.memberLost
  repeat' first
    | with_reducible assumption | (with_reducible refine Foot.Sub.up hF ?_; decide +kernel)
    | with_reducible apply State.modPkg_keeps | with_reducible apply State.splitReport_keeps
    | with_reducible apply State.cantonEvent_keeps | intro x | with_reducible exact Keeps.refl _ _

def State.setTray_foot : Foot := foot [.pkg] []

theorem State.setTray_keeps (hs : Keeps F S s) (hF : Foot.Sub State.setTray_foot F) (t : Int) :
    Keeps F S (State.setTray s t) := by
  unfold State.setTray
  repeat' first
    | with_reducible assumption | (with_reducible refine Foot.Sub.up hF ?_; decide +kernel)
    | ((first | intro x | (lift_lets; intro x))
       first
         | (refine Keeps.cut x ?_ (fun hx => ?_); rotate_left; clear_value x; rotate_left; unfold x)
         | clear_value x
         | skip)
    | with_reducible apply State.modPkg_keeps | with_reducible exact Keeps.refl _ _

def State.trayFrame_foot : Foot := Foot.join [foot [.out, .pkg] [.CAN_STAT], State.setTray_foot]

theorem State.trayFrame_keeps (hs : Keeps F S s) (hF : Foot.Sub State.trayFrame_foot F) (side : Sys2Proof.Side)
    (kind : Nat) (lock : Bool) (t rx : Nat) :
    Keeps F S (State.trayFrame s side kind lock t rx) := by
  unfold State.trayFrame
  repeat' first
    | with_reducible assumption | (with_reducible refine Foot.Sub.up hF ?_; decide +kernel)
    | ((first | intro x | (lift_lets; intro x))
       first
         | (refine Keeps.cut x ?_ (fun hx => ?_); rotate_left; clear_value x; rotate_left; unfold x)
         | clear_value x
         | skip)
    | with_reducible apply State.emit_keeps | with_reducible apply State.modPkg_keeps
    | with_reducible apply State.bothF_keeps | with_reducible apply State.setTray_keeps
    | with_reducible apply Keeps.ite | split | with_reducible exact Keeps.refl _ _

def State.traySend_foot : Foot := State.cascAll_foot

theorem State.traySend_keeps (hs : Keeps F S s) (hF : Foot.Sub State.traySend_foot F) (ask : Bool) :
    Keeps F S (State.traySend s ask) := by
  unfold State.traySend
  repeat' first
    | with_reducible assumption | (with_reducible refine Foot.Sub.up hF ?_; decide +kernel)
    | with_reducible apply State.cascAll_keeps | with_reducible apply Keeps.ite
    | with_reducible exact Keeps.refl _ _

def State.ptpSync_foot : Foot := Foot.join [foot [.pkg, .out] [], State.setTray_foot]

theorem State.ptpSync_keeps (hs : Keeps F S s) (hF : Foot.Sub State.ptpSync_foot F) (ms : Int) :
    Keeps F S (State.ptpSync s ms) := by
  unfold State.ptpSync
  repeat' first
    | with_reducible assumption | (with_reducible refine Foot.Sub.up hF ?_; decide +kernel)
    | ((first | intro x | (lift_lets; intro x))
       first
         | (refine Keeps.cut x ?_ (fun hx => ?_); rotate_left; clear_value x; rotate_left; unfold x)
         | clear_value x
         | skip)
    | with_reducible apply State.modPkg_keeps | with_reducible apply State.emit_keeps
    | with_reducible apply State.setTray_keeps | with_reducible apply Keeps.ite
    | with_reducible exact Keeps.refl _ _

def State.ptpIn_foot : Foot := Foot.join [foot [.pkg] [.CAN_STAT], State.ptpSync_foot, State.setTray_foot]

theorem State.ptpIn_keeps (hs : Keeps F S s) (hF : Foot.Sub State.ptpIn_foot F) (kind t rx : Nat) :
    Keeps F S (State.ptpIn s kind t rx) := by
  unfold State.ptpIn
  repeat' first
    | with_reducible assumption | (with_reducible refine Foot.Sub.up hF ?_; decide +kernel)
    | ((first | intro x | (lift_lets; intro x))
       first
         | (refine Keeps.cut x ?_ (fun hx => ?_); rotate_left; clear_value x; rotate_left; unfold x)
         | clear_value x
         | skip)
    | with_reducible apply State.modPkg_keeps | with_reducible apply State.ptpSync_keeps
    | with_reducible apply State.bothF_keeps | with_reducible apply State.setTray_keeps
    | with_reducible apply Keeps.ite | split | with_reducible exact Keeps.refl _ _

def State.trayShare_foot : Foot := Foot.join [foot [] [.CAN_CAP_TRAY], State.setCap_foot]

theorem State.trayShare_keeps (hs : Keeps F S s) (hF : Foot.Sub State.trayShare_foot F) (p : Plane) (w : Nat) :
    Keeps F S (State.trayShare s p w) := by
  unfold State.trayShare
  repeat' first
    | with_reducible assumption | (with_reducible refine Foot.Sub.up hF ?_; decide +kernel)
    | with_reducible apply State.setCap_keeps | with_reducible exact Keeps.refl _ _

def State.capSplit_foot : Foot := Foot.join [State.trayShare_foot, State.cascTo_foot]

theorem State.capSplit_keeps (hs : Keeps F S s) (hF : Foot.Sub State.capSplit_foot F) (p : Plane)
    (l : List (Nat × Nat × Nat)) :
    Keeps F S (State.capSplit s p l) := by
  unfold State.capSplit
  repeat' first
    | with_reducible assumption | (with_reducible refine Foot.Sub.up hF ?_; decide +kernel)
    | ((first | intro x | (lift_lets; intro x))
       first
         | (refine Keeps.cut x ?_ (fun hx => ?_); rotate_left; clear_value x; rotate_left; unfold x)
         | clear_value x
         | skip)
    | with_reducible apply State.each_keeps | with_reducible apply State.trayShare_keeps
    | with_reducible apply State.cascTo_keeps | with_reducible apply Keeps.ite
    | with_reducible exact Keeps.refl _ _

def State.minute_foot : Foot := State.invSet_foot

theorem State.minute_keeps (hs : Keeps F S s) (hF : Foot.Sub State.minute_foot F) :
    Keeps F S (State.minute s) := by
  unfold State.minute
  repeat' first
    | with_reducible assumption | (with_reducible refine Foot.Sub.up hF ?_; decide +kernel)
    | ((first | intro x | (lift_lets; intro x))
       first
         | (refine Keeps.cut x ?_ (fun hx => ?_); rotate_left; clear_value x; rotate_left; unfold x)
         | clear_value x
         | skip)
    | with_reducible apply State.each_keeps | with_reducible apply State.invSet_keeps
    | with_reducible apply Keeps.ite | with_reducible exact Keeps.refl _ _

def State.neighbourLost_foot : Foot := Foot.join [foot [.pkg] [], State.cantonEvent_foot]

theorem State.neighbourLost_keeps (hs : Keeps F S s) (hF : Foot.Sub State.neighbourLost_foot F) :
    Keeps F S (State.neighbourLost s) := by
  unfold State.neighbourLost
  repeat' first
    | with_reducible assumption | (with_reducible refine Foot.Sub.up hF ?_; decide +kernel)
    | ((first | intro x | (lift_lets; intro x))
       first
         | (refine Keeps.cut x ?_ (fun hx => ?_); rotate_left; clear_value x; rotate_left; unfold x)
         | clear_value x
         | skip)
    | with_reducible apply State.modPkg_keeps | with_reducible apply State.each_keeps
    | with_reducible apply State.cantonEvent_keeps | with_reducible exact Keeps.refl _ _

def State.neighbourNotify_foot : Foot := Foot.join [foot [.pkg] [], State.notify_foot, State.journalAdd_foot]

theorem State.neighbourNotify_keeps (hs : Keeps F S s) (hF : Foot.Sub State.neighbourNotify_foot F) :
    Keeps F S (State.neighbourNotify s) := by
  unfold State.neighbourNotify
  repeat' first
    | with_reducible assumption | (with_reducible refine Foot.Sub.up hF ?_; decide +kernel)
    | ((first | intro x | (lift_lets; intro x))
       first
         | (refine Keeps.cut x ?_ (fun hx => ?_); rotate_left; clear_value x; rotate_left; unfold x)
         | clear_value x
         | skip)
    | with_reducible apply State.modPkg_keeps | with_reducible apply State.notify_keeps
    | with_reducible apply State.journalAdd_keeps | with_reducible apply State.foldl_keeps
    | with_reducible apply State.foldl_snd | with_reducible apply State.foldl_snd2 | with_reducible apply Keeps.ite
    | with_reducible exact Keeps.refl _ _

theorem State.reqIn_keeps (s : State) (f : State → State) (hf : ∀ s, Keeps F s (f s)) (t : State) (ht : t = s) :
    ∃ t', s.reqIn f = .next t' ∧ Keeps F t t' := by
  subst ht
  exact ⟨_, rfl, State.when_keeps (Keeps.refl _ _) _ f hf⟩

def execHealthGet_foot : Foot := State.healthGet_foot

theorem execHealthGet_keeps (hF : Foot.Sub execHealthGet_foot F) (req : MgmtReq) (s : State) :
    ∃ t', execHealthGet req s = .next t' ∧ Keeps F s t' := by
  refine State.reqIn_keeps (F := F) _ _ ?_ _ rfl
  repeat' first
    | with_reducible assumption | (with_reducible refine Foot.Sub.up hF ?_; decide +kernel)
    | with_reducible apply State.healthGet_keeps | intro x | with_reducible exact Keeps.refl _ _

def execInventoryGet_foot : Foot := State.inventoryGet_foot

theorem execInventoryGet_keeps (hF : Foot.Sub execInventoryGet_foot F) (req : MgmtReq)
    (members : List (BitVec 4 × Bytes)) (s : State) :
    ∃ t', execInventoryGet req members s = .next t' ∧ Keeps F s t' := by
  refine State.reqIn_keeps (F := F) _ _ ?_ _ rfl
  repeat' first
    | with_reducible assumption | (with_reducible refine Foot.Sub.up hF ?_; decide +kernel)
    | with_reducible apply State.inventoryGet_keeps | intro x | with_reducible exact Keeps.refl _ _

def execSensorGet_foot : Foot := State.sensorGet_foot

theorem execSensorGet_keeps (hF : Foot.Sub execSensorGet_foot F) (req : MgmtReq) (s : State) :
    ∃ t', execSensorGet req s = .next t' ∧ Keeps F s t' := by
  refine State.reqIn_keeps (F := F) _ _ ?_ _ rfl
  repeat' first
    | with_reducible assumption | (with_reducible refine Foot.Sub.up hF ?_; decide +kernel)
    | with_reducible apply State.sensorGet_keeps | intro x | with_reducible exact Keeps.refl _ _

def execAttest_foot : Foot := State.attest_foot

theorem execAttest_keeps (hF : Foot.Sub execAttest_foot F) (req : MgmtReq) (s : State) :
    ∃ t', execAttest req s = .next t' ∧ Keeps F s t' := by
  refine State.reqIn_keeps (F := F) _ _ ?_ _ rfl
  repeat' first
    | with_reducible assumption | (with_reducible refine Foot.Sub.up hF ?_; decide +kernel)
    | with_reducible apply State.attest_keeps | intro x | with_reducible exact Keeps.refl _ _

def execNeighbourGet_foot : Foot := State.neighbourGet_foot

theorem execNeighbourGet_keeps (hF : Foot.Sub execNeighbourGet_foot F) (req : MgmtReq) (s : State) :
    ∃ t', execNeighbourGet req s = .next t' ∧ Keeps F s t' := by
  refine State.reqIn_keeps (F := F) _ _ ?_ _ rfl
  repeat' first
    | with_reducible assumption | (with_reducible refine Foot.Sub.up hF ?_; decide +kernel)
    | with_reducible apply State.neighbourGet_keeps | intro x | with_reducible exact Keeps.refl _ _

def execCapSet_foot : Foot := State.capSet_foot

theorem execCapSet_keeps (hF : Foot.Sub execCapSet_foot F) (req : MgmtReq) (s : State) :
    ∃ t', execCapSet req s = .next t' ∧ Keeps F s t' := by
  refine State.reqIn_keeps (F := F) _ _ ?_ _ rfl
  repeat' first
    | with_reducible assumption | (with_reducible refine Foot.Sub.up hF ?_; decide +kernel)
    | with_reducible apply State.capSet_keeps | intro x | with_reducible exact Keeps.refl _ _

def execPowerSet_foot : Foot := State.powerSet_foot

theorem execPowerSet_keeps (hF : Foot.Sub execPowerSet_foot F) (req : MgmtReq) (s : State) :
    ∃ t', execPowerSet req s = .next t' ∧ Keeps F s t' := by
  refine State.reqIn_keeps (F := F) _ _ ?_ _ rfl
  repeat' first
    | with_reducible assumption | (with_reducible refine Foot.Sub.up hF ?_; decide +kernel)
    | with_reducible apply State.powerSet_keeps | intro x | with_reducible exact Keeps.refl _ _

def execFwWrite_foot : Foot := State.fwWrite_foot

theorem execFwWrite_keeps (hF : Foot.Sub execFwWrite_foot F) (req : MgmtReq) (s : State) :
    ∃ t', execFwWrite req s = .next t' ∧ Keeps F s t' := by
  refine State.reqIn_keeps (F := F) _ _ ?_ _ rfl
  repeat' first
    | with_reducible assumption | (with_reducible refine Foot.Sub.up hF ?_; decide +kernel)
    | with_reducible apply State.fwWrite_keeps | intro x | with_reducible exact Keeps.refl _ _

def execFwActivate_foot : Foot := State.fwActivate_foot

theorem execFwActivate_keeps (hF : Foot.Sub execFwActivate_foot F) (req : MgmtReq) (s : State) :
    ∃ t', execFwActivate req s = .next t' ∧ Keeps F s t' := by
  refine State.reqIn_keeps (F := F) _ _ ?_ _ rfl
  repeat' first
    | with_reducible assumption | (with_reducible refine Foot.Sub.up hF ?_; decide +kernel)
    | with_reducible apply State.fwActivate_keeps | intro x | with_reducible exact Keeps.refl _ _

def execSvnCommit_foot : Foot := State.svnCommit_foot

theorem execSvnCommit_keeps (hF : Foot.Sub execSvnCommit_foot F) (req : MgmtReq) (s : State) :
    ∃ t', execSvnCommit req s = .next t' ∧ Keeps F s t' := by
  refine State.reqIn_keeps (F := F) _ _ ?_ _ rfl
  repeat' first
    | with_reducible assumption | (with_reducible refine Foot.Sub.up hF ?_; decide +kernel)
    | with_reducible apply State.svnCommit_keeps | intro x | with_reducible exact Keeps.refl _ _

def execKeyRevoke_foot : Foot := State.keyRevoke_foot

theorem execKeyRevoke_keeps (hF : Foot.Sub execKeyRevoke_foot F) (req : MgmtReq) (signer : Option (Fin 4))
    (s : State) :
    ∃ t', execKeyRevoke req signer s = .next t' ∧ Keeps F s t' := by
  refine State.reqIn_keeps (F := F) _ _ ?_ _ rfl
  repeat' first
    | with_reducible assumption | (with_reducible refine Foot.Sub.up hF ?_; decide +kernel)
    | with_reducible apply State.keyRevoke_keeps | intro x | with_reducible exact Keeps.refl _ _

def execOwnerSet_foot : Foot := State.ownerSet_foot

theorem execOwnerSet_keeps (hF : Foot.Sub execOwnerSet_foot F) (req : MgmtReq) (s : State) :
    ∃ t', execOwnerSet req s = .next t' ∧ Keeps F s t' := by
  refine State.reqIn_keeps (F := F) _ _ ?_ _ rfl
  repeat' first
    | with_reducible assumption | (with_reducible refine Foot.Sub.up hF ?_; decide +kernel)
    | with_reducible apply State.ownerSet_keeps | intro x | with_reducible exact Keeps.refl _ _

def execMasterHandover_foot : Foot := State.masterHandover_foot

theorem execMasterHandover_keeps (hF : Foot.Sub execMasterHandover_foot F) (req : MgmtReq) (s : State) :
    ∃ t', execMasterHandover req s = .next t' ∧ Keeps F s t' := by
  refine State.reqIn_keeps (F := F) _ _ ?_ _ rfl
  repeat' first
    | with_reducible assumption | (with_reducible refine Foot.Sub.up hF ?_; decide +kernel)
    | with_reducible apply State.masterHandover_keeps | intro x | with_reducible exact Keeps.refl _ _

def execHandover_foot : Foot := Foot.join [State.handover_foot, State.handReg_foot]

theorem execHandover_keeps (hF : Foot.Sub execHandover_foot F) (p : Plane) (req : Option MgmtReq) (s : State) :
    ∃ t', execHandover p req s = .next t' ∧ Keeps F s t' := by
  refine State.reqIn_keeps (F := F) _ _ ?_ _ rfl
  repeat' first
    | with_reducible assumption | (with_reducible refine Foot.Sub.up hF ?_; decide +kernel)
    | with_reducible apply State.handover_keeps | with_reducible apply State.handReg_keeps | intro x
    | with_reducible apply Keeps.ite | split | with_reducible exact Keeps.refl _ _

def execMgmtUnknown_foot : Foot := State.mgmtDo_foot

theorem execMgmtUnknown_keeps (hF : Foot.Sub execMgmtUnknown_foot F) (req : MgmtReq) (code : Byte) (s : State) :
    ∃ t', execMgmtUnknown req code s = .next t' ∧ Keeps F s t' := by
  refine State.reqIn_keeps (F := F) _ _ ?_ _ rfl
  repeat' first
    | with_reducible assumption | (with_reducible refine Foot.Sub.up hF ?_; decide +kernel)
    | with_reducible apply State.mgmtDo_keeps | intro x | with_reducible exact Keeps.refl _ _

def execMboxSend_foot : Foot := State.mboxSend_foot

theorem execMboxSend_keeps (hF : Foot.Sub execMboxSend_foot F) (p : Plane) (s : State) :
    ∃ t', execMboxSend p s = .next t' ∧ Keeps F s t' := by
  unfold execMboxSend
  refine ⟨_, rfl, ?_⟩
  repeat' first
    | with_reducible assumption | (with_reducible refine Foot.Sub.up hF ?_; decide +kernel)
    | with_reducible apply State.when_keeps | with_reducible apply State.mboxSend_keeps | intro x
    | with_reducible exact Keeps.refl _ _

theorem State.trayIn_keeps (s : State) (f : Plane → State → State) (hf : ∀ p s, Keeps F s (f p s)) (t : State)
    (ht : t = s) : ∃ t', s.trayIn f = .next t' ∧ Keeps F t t' := by
  subst ht
  refine ⟨_, rfl, ?_⟩
  repeat' first | exact Keeps.refl _ _ | with_reducible apply Keeps.ite | split | exact hf _ _

def execCascadeMsg_foot : Foot := State.cascIn_foot

theorem execCascadeMsg_keeps (hF : Foot.Sub execCascadeMsg_foot F) (side : Sys2Proof.Side) (f : CascFrame)
    (s : State) :
    ∃ t', execCascadeMsg side f s = .next t' ∧ Keeps F s t' := by
  refine State.trayIn_keeps (F := F) _ _ ?_ _ rfl
  repeat' first
    | with_reducible assumption | (with_reducible refine Foot.Sub.up hF ?_; decide +kernel)
    | with_reducible apply State.cascIn_keeps | intro x | with_reducible exact Keeps.refl _ _

def execAnnounceSend_foot : Foot := State.announceOut_foot

theorem execAnnounceSend_keeps (hF : Foot.Sub execAnnounceSend_foot F) (s : State) :
    ∃ t', execAnnounceSend s = .next t' ∧ Keeps F s t' := by
  refine State.trayIn_keeps (F := F) _ _ ?_ _ rfl
  repeat' first
    | with_reducible assumption | (with_reducible refine Foot.Sub.up hF ?_; decide +kernel)
    | with_reducible apply State.announceOut_keeps | intro x | with_reducible exact Keeps.refl _ _

def execAnnounce_foot : Foot := State.announceIn_foot

theorem execAnnounce_keeps (hF : Foot.Sub execAnnounce_foot F) (slot : BitVec 3) (serial : BitVec 64)
    (eligible master : Bool) (s : State) :
    ∃ t', execAnnounce slot serial eligible master s = .next t' ∧ Keeps F s t' := by
  refine State.trayIn_keeps (F := F) _ _ ?_ _ rfl
  repeat' first
    | with_reducible assumption | (with_reducible refine Foot.Sub.up hF ?_; decide +kernel)
    | with_reducible apply State.announceIn_keeps | intro x | with_reducible exact Keeps.refl _ _

def execMasterElection_foot : Foot := Foot.join [State.election_foot, State.setMaster_foot]

theorem execMasterElection_keeps (hF : Foot.Sub execMasterElection_foot F) (s : State) :
    ∃ t', execMasterElection s = .next t' ∧ Keeps F s t' := by
  unfold execMasterElection
  refine ⟨_, rfl, ?_⟩
  repeat' first
    | with_reducible assumption | (with_reducible refine Foot.Sub.up hF ?_; decide +kernel)
    | with_reducible apply State.election_keeps | with_reducible apply State.setMaster_keeps
    | with_reducible apply Keeps.ite | with_reducible exact Keeps.refl _ _

def execMemberLost_foot : Foot := State.memberLost_foot

theorem execMemberLost_keeps (hF : Foot.Sub execMemberLost_foot F) (slot : BitVec 3) (s : State) :
    ∃ t', execMemberLost slot s = .next t' ∧ Keeps F s t' := by
  refine State.trayIn_keeps (F := F) _ _ ?_ _ rfl
  repeat' first
    | with_reducible assumption | (with_reducible refine Foot.Sub.up hF ?_; decide +kernel)
    | with_reducible apply State.memberLost_keeps | intro x | with_reducible apply Keeps.ite
    | with_reducible exact Keeps.refl _ _

def execMgmtEthLinkChange_foot : Foot := Foot.join [foot [] [.CAN_STAT], State.elect_foot]

theorem execMgmtEthLinkChange_keeps (hF : Foot.Sub execMgmtEthLinkChange_foot F) (up : Bool) (s : State) :
    ∃ t', execMgmtEthLinkChange up s = .next t' ∧ Keeps F s t' := by
  refine State.reqIn_keeps (F := F) _ _ ?_ _ rfl
  repeat' first
    | with_reducible assumption | (with_reducible refine Foot.Sub.up hF ?_; decide +kernel)
    | ((first | intro x | (lift_lets; intro x))
       first
         | (refine Keeps.cut x ?_ (fun hx => ?_); rotate_left; clear_value x; rotate_left; unfold x)
         | clear_value x
         | skip)
    | with_reducible apply State.bothF_keeps | with_reducible apply State.elect_keeps
    | with_reducible apply Keeps.ite | with_reducible exact Keeps.refl _ _

def execTrayTimeFrame_foot : Foot := Foot.join [State.trayFrame_foot, State.sideHeard_foot]

theorem execTrayTimeFrame_keeps (hF : Foot.Sub execTrayTimeFrame_foot F) (side : Sys2Proof.Side) (kind : Fin 3)
    (lock : Bool) (t rx : BitVec 64) (s : State) :
    ∃ t', execTrayTimeFrame side kind lock t rx s = .next t' ∧ Keeps F s t' := by
  refine State.trayIn_keeps (F := F) _ _ ?_ _ rfl
  repeat' first
    | with_reducible assumption | (with_reducible refine Foot.Sub.up hF ?_; decide +kernel)
    | with_reducible apply State.trayFrame_keeps | with_reducible apply State.sideHeard_keeps | intro x
    | with_reducible exact Keeps.refl _ _

def execTrayTimeSend_foot : Foot := State.traySend_foot

theorem execTrayTimeSend_keeps (hF : Foot.Sub execTrayTimeSend_foot F) (ask : Bool) (s : State) :
    ∃ t', execTrayTimeSend ask s = .next t' ∧ Keeps F s t' := by
  refine State.trayIn_keeps (F := F) _ _ ?_ _ rfl
  repeat' first
    | with_reducible assumption | (with_reducible refine Foot.Sub.up hF ?_; decide +kernel)
    | with_reducible apply State.traySend_keeps | intro x | with_reducible exact Keeps.refl _ _

def execPtpMessage_foot : Foot := State.ptpIn_foot

theorem execPtpMessage_keeps (hF : Foot.Sub execPtpMessage_foot F) (kind : Byte) (t rx : BitVec 64) (s : State) :
    ∃ t', execPtpMessage kind t rx s = .next t' ∧ Keeps F s t' := by
  unfold execPtpMessage
  refine ⟨_, rfl, ?_⟩
  repeat' first
    | with_reducible assumption | (with_reducible refine Foot.Sub.up hF ?_; decide +kernel)
    | with_reducible apply State.when_keeps | with_reducible apply State.ptpIn_keeps | intro x
    | with_reducible exact Keeps.refl _ _

def execTrayCapSplit_foot : Foot := State.capSplit_foot

theorem execTrayCapSplit_keeps (hF : Foot.Sub execTrayCapSplit_foot F)
    (members : List (BitVec 3 × BitVec 16 × BitVec 16)) (s : State) :
    ∃ t', execTrayCapSplit members s = .next t' ∧ Keeps F s t' := by
  unfold execTrayCapSplit
  refine ⟨_, rfl, ?_⟩
  repeat' first
    | with_reducible assumption | (with_reducible refine Foot.Sub.up hF ?_; decide +kernel)
    | with_reducible apply State.capSplit_keeps | intro x | with_reducible apply Keeps.ite | split
    | with_reducible exact Keeps.refl _ _

def execPowerFrame_foot : Foot := State.trayShare_foot

theorem execPowerFrame_keeps (hF : Foot.Sub execPowerFrame_foot F) (share : BitVec 16) (s : State) :
    ∃ t', execPowerFrame share s = .next t' ∧ Keeps F s t' := by
  refine State.trayIn_keeps (F := F) _ _ ?_ _ rfl
  repeat' first
    | with_reducible assumption | (with_reducible refine Foot.Sub.up hF ?_; decide +kernel)
    | with_reducible apply State.trayShare_keeps | intro x | with_reducible apply Keeps.ite
    | with_reducible exact Keeps.refl _ _

def execInventorySave_foot : Foot := State.saveInventory_foot

theorem execInventorySave_keeps (hF : Foot.Sub execInventorySave_foot F) (s : State) :
    ∃ t', execInventorySave s = .next t' ∧ Keeps F s t' := by
  unfold execInventorySave
  refine ⟨_, rfl, ?_⟩
  repeat' first
    | with_reducible assumption | (with_reducible refine Foot.Sub.up hF ?_; decide +kernel)
    | with_reducible apply State.when_keeps | with_reducible apply State.saveInventory_keeps | intro x
    | with_reducible exact Keeps.refl _ _

def execInventoryMinuteCount_foot : Foot := State.minute_foot

theorem execInventoryMinuteCount_keeps (hF : Foot.Sub execInventoryMinuteCount_foot F) (s : State) :
    ∃ t', execInventoryMinuteCount s = .next t' ∧ Keeps F s t' := by
  unfold execInventoryMinuteCount
  refine ⟨_, rfl, ?_⟩
  repeat' first
    | with_reducible assumption | (with_reducible refine Foot.Sub.up hF ?_; decide +kernel)
    | with_reducible apply State.minute_keeps | with_reducible exact Keeps.refl _ _

def execNeighbourLost_foot : Foot := State.neighbourLost_foot

theorem execNeighbourLost_keeps (hF : Foot.Sub execNeighbourLost_foot F) (s : State) :
    ∃ t', execNeighbourLost s = .next t' ∧ Keeps F s t' := by
  unfold execNeighbourLost
  refine ⟨_, rfl, ?_⟩
  repeat' first
    | with_reducible assumption | (with_reducible refine Foot.Sub.up hF ?_; decide +kernel)
    | with_reducible apply State.when_keeps | with_reducible apply State.neighbourLost_keeps | intro x
    | with_reducible exact Keeps.refl _ _

def execNeighbourNotify_foot : Foot := State.neighbourNotify_foot

theorem execNeighbourNotify_keeps (hF : Foot.Sub execNeighbourNotify_foot F) (s : State) :
    ∃ t', execNeighbourNotify s = .next t' ∧ Keeps F s t' := by
  unfold execNeighbourNotify
  refine ⟨_, rfl, ?_⟩
  repeat' first
    | with_reducible assumption | (with_reducible refine Foot.Sub.up hF ?_; decide +kernel)
    | with_reducible apply State.when_keeps | with_reducible apply State.neighbourNotify_keeps | intro x
    | with_reducible exact Keeps.refl _ _

def State.afterRole_foot : Foot := Foot.join [State.mboxTake_foot, State.activateNext_foot]

theorem State.afterRole_keeps (hs : Keeps F S s) (hF : Foot.Sub State.afterRole_foot F) :
    Keeps F S (State.afterRole s) := by
  unfold State.afterRole
  repeat' first
    | with_reducible assumption | (with_reducible refine Foot.Sub.up hF ?_; decide +kernel)
    | with_reducible apply State.mboxTake_keeps | with_reducible apply State.activateNext_keeps
    | with_reducible exact Keeps.refl _ _

def execHeartbeat_foot : Foot := Foot.join [State.afterRole_foot, State.heartbeatIn_foot]

theorem execHeartbeat_keeps (hF : Foot.Sub execHeartbeat_foot F) (p : Plane) (role : BitVec 2)
    (_seq : BitVec 16) (jrn : BitVec 32) (_time : BitVec 64) (_health : BitVec 16) (s : State) :
    ∃ t', execHeartbeat p role _seq jrn _time _health s = .next t' ∧ Keeps F s t' := by
  unfold execHeartbeat
  refine ⟨_, rfl, ?_⟩
  repeat' first
    | with_reducible assumption | (with_reducible refine Foot.Sub.up hF ?_; decide +kernel)
    | with_reducible apply State.when_keeps | with_reducible apply State.afterRole_keeps
    | with_reducible apply State.heartbeatIn_keeps | intro x | with_reducible exact Keeps.refl _ _

def execHeartbeatMiss_foot : Foot := Foot.join [State.afterRole_foot, State.standbyActs_foot]

theorem execHeartbeatMiss_keeps (hF : Foot.Sub execHeartbeatMiss_foot F) (p : Plane) (s : State) :
    ∃ t', execHeartbeatMiss p s = .next t' ∧ Keeps F s t' := by
  unfold execHeartbeatMiss
  refine ⟨_, rfl, ?_⟩
  repeat' first
    | with_reducible assumption | (with_reducible refine Foot.Sub.up hF ?_; decide +kernel)
    | with_reducible apply State.afterRole_keeps | with_reducible apply State.standbyActs_keeps
    | with_reducible exact Keeps.refl _ _

def execCantonClaim_foot : Foot := Foot.join [State.afterRole_foot, State.claim_foot]

theorem execCantonClaim_keeps (hF : Foot.Sub execCantonClaim_foot F) (p : Plane) (s : State) :
    ∃ t', execCantonClaim p s = .next t' ∧ Keeps F s t' := by
  unfold execCantonClaim
  refine ⟨_, rfl, ?_⟩
  repeat' first
    | with_reducible assumption | (with_reducible refine Foot.Sub.up hF ?_; decide +kernel)
    | with_reducible apply State.when_keeps | with_reducible apply State.afterRole_keeps
    | with_reducible apply State.claim_keeps | intro x | with_reducible exact Keeps.refl _ _

def execHealthReport_foot : Foot := Foot.join [State.afterRole_foot, State.healthReport_foot]

theorem execHealthReport_keeps (hF : Foot.Sub execHealthReport_foot F) (p : Plane) (agree flashOk : Bool)
    (s : State) :
    ∃ t', execHealthReport p agree flashOk s = .next t' ∧ Keeps F s t' := by
  unfold execHealthReport
  refine ⟨_, rfl, ?_⟩
  repeat' first
    | with_reducible assumption | (with_reducible refine Foot.Sub.up hF ?_; decide +kernel)
    | with_reducible apply State.when_keeps | with_reducible apply State.afterRole_keeps
    | with_reducible apply State.healthReport_keeps | intro x | with_reducible exact Keeps.refl _ _

def execCantonBoot_foot : Foot := Foot.join [State.afterRole_foot, State.bootRom_foot]

theorem execCantonBoot_keeps (hF : Foot.Sub execCantonBoot_foot F) (p : Plane) (flash : Option FlashView)
    (s : State) :
    ∃ t', execCantonBoot p flash s = .next t' ∧ Keeps F s t' := by
  unfold execCantonBoot
  refine ⟨_, rfl, ?_⟩
  repeat' first
    | with_reducible assumption | (with_reducible refine Foot.Sub.up hF ?_; decide +kernel)
    | with_reducible apply State.when_keeps | with_reducible apply State.afterRole_keeps
    | with_reducible apply State.bootRom_keeps | intro x | with_reducible exact Keeps.refl _ _

def execCantonBootDone_foot : Foot := Foot.join [foot [.can] [], State.afterRole_foot, State.bootEnd_foot,
  State.bootFailed_foot]

theorem execCantonBootDone_keeps (hF : Foot.Sub execCantonBootDone_foot F) (p : Plane) (ok : Bool)
    (mc : Option Image) (s : State) :
    ∃ t', execCantonBootDone p ok mc s = .next t' ∧ Keeps F s t' := by
  unfold execCantonBootDone
  refine ⟨_, rfl, ?_⟩
  repeat' first
    | with_reducible assumption | (with_reducible refine Foot.Sub.up hF ?_; decide +kernel)
    | with_reducible apply State.when_keeps | with_reducible apply State.modCan_keeps
    | with_reducible apply State.afterRole_keeps | with_reducible apply State.bootEnd_keeps
    | with_reducible apply State.bootFailed_keeps | intro x | with_reducible apply Keeps.ite
    | with_reducible exact Keeps.refl _ _

def execHandoverAck_foot : Foot := Foot.join [State.afterRole_foot, State.takeover_foot]

theorem execHandoverAck_keeps (hF : Foot.Sub execHandoverAck_foot F) (p : Plane) (s : State) :
    ∃ t', execHandoverAck p s = .next t' ∧ Keeps F s t' := by
  unfold execHandoverAck
  refine ⟨_, rfl, ?_⟩
  repeat' first
    | with_reducible assumption | (with_reducible refine Foot.Sub.up hF ?_; decide +kernel)
    | with_reducible apply State.when_keeps | with_reducible apply State.afterRole_keeps
    | with_reducible apply State.takeover_keeps | intro x | with_reducible exact Keeps.refl _ _

end Sys2Proof.Machine
end

