-- ==== Sys2Proof/Laws/KeepEpoch.lean ====
section
/-! SUPPORT. `Keeps` of the definitions of Machine/Epoch.lean, each with its footprint. -/

namespace Sys2Proof.Machine

set_option Elab.async false

variable {F : Foot} {S s : State}

def State.commitPlane_foot : Foot := foot [.committed] []

theorem keysAbove_committedOf (m : RegFile) (h : keysAbove none m = true) : keysAbove none (committedOf m) = true := by
  refine keysAbove_filterMap _ ?_ m none h
  intro e y hy
  rw [Option.bind_eq_some_iff] at hy
  obtain ⟨a, -, hy⟩ := hy
  dsimp only at hy
  split at hy
  · cases hy
  · cases hy
    rfl

theorem State.commitPlane_keeps (hs : Keeps F S s) (hF : Foot.Sub State.commitPlane_foot F) (p : Plane) :
    Keeps F S (State.commitPlane s p) :=
  State.modPl_keeps hs p _ (fun x => PlaneSt.Stays.part .committed hF
    (fun h => ⟨h.regs, keysAbove_committedOf x.regs h.regs, h.sram, h.lp, h.events⟩) rfl
    (fun b hb => by cases b <;> first | exact absurd rfl hb | exact rfl | exact ⟨rfl, rfl⟩ | trivial))

def State.discardPlane_foot : Foot := Foot.regs

theorem State.discardPlane_keeps (hs : Keeps F S s) (hF : Foot.Sub State.discardPlane_foot F) (p : Plane) :
    Keeps F S (State.discardPlane s p) := by
  unfold State.discardPlane
  repeat' first
    | with_reducible assumption | (with_reducible refine Foot.Sub.up hF ?_; decide +kernel)
    | (with_reducible refine Reg.sub_up hF ?_; decide +kernel) | with_reducible apply State.each_keeps
    | with_reducible apply State.setWord_keeps | intro x | split | with_reducible exact Keeps.refl _ _

def State.commitStart_foot : Foot := foot [.pkg] [.EPC_COMMIT_STAT]

theorem State.commitStart_keeps (hs : Keeps F S s) (hF : Foot.Sub State.commitStart_foot F) (p : Plane) :
    Keeps F S (State.commitStart s p) := by
  unfold State.commitStart
  repeat' first
    | with_reducible assumption | (with_reducible refine Foot.Sub.up hF ?_; decide +kernel)
    | ((first | intro x | (lift_lets; intro x))
       first
         | (refine Keeps.cut x ?_ (fun hx => ?_); rotate_left; clear_value x; rotate_left; unfold x)
         | clear_value x
         | skip)
    | with_reducible apply State.setFlag_keeps | with_reducible apply State.each_keeps
    | with_reducible apply State.modPkg_keeps | with_reducible apply Keeps.ite
    | with_reducible exact Keeps.refl _ _

def State.endCommit_foot : Foot := foot [.pkg] []

theorem State.endCommit_keeps (hs : Keeps F S s) (hF : Foot.Sub State.endCommit_foot F) (c : Commit) :
    Keeps F S (State.endCommit s c) := by
  unfold State.endCommit
  repeat' first
    | with_reducible assumption | (with_reducible refine Foot.Sub.up hF ?_; decide +kernel)
    | with_reducible apply State.modPkg_keeps | intro x | with_reducible exact Keeps.refl _ _

def State.commitFails_foot : Foot := Foot.join [foot [] [.EPC_COMMIT_STAT, .EPC_FAIL_ADDR], State.raise_foot,
  State.endCommit_foot]

theorem State.commitFails_keeps (hs : Keeps F S s) (hF : Foot.Sub State.commitFails_foot F) (c : Commit)
    (block addr : Nat) :
    Keeps F S (State.commitFails s c block addr) := by
  unfold State.commitFails
  repeat' first
    | with_reducible assumption | (with_reducible refine Foot.Sub.up hF ?_; decide +kernel)
    | ((first | intro x | (lift_lets; intro x))
       first
         | (refine Keeps.cut x ?_ (fun hx => ?_); rotate_left; clear_value x; rotate_left; unfold x)
         | clear_value x
         | skip)
    | with_reducible apply State.each_keeps | with_reducible apply State.setF_keeps
    | with_reducible apply State.setFlag_keeps | with_reducible apply State.raise_keeps
    | with_reducible apply State.endCommit_keeps | with_reducible exact Keeps.refl _ _

def State.commitDecide_foot : Foot := Foot.join [foot [.pkg] [], State.commitPlane_foot, State.commitFails_foot,
  State.halControl_foot]

theorem State.commitDecide_keeps (hs : Keeps F S s) (hF : Foot.Sub State.commitDecide_foot F) :
    Keeps F S (State.commitDecide s) := by
  unfold State.commitDecide
  repeat' first
    | with_reducible assumption | (with_reducible refine Foot.Sub.up hF ?_; decide +kernel)
    | ((first | intro x | (lift_lets; intro x))
       first
         | (refine Keeps.cut x ?_ (fun hx => ?_); rotate_left; clear_value x; rotate_left; unfold x)
         | clear_value x
         | skip)
    | with_reducible apply State.each_keeps | with_reducible apply State.modPkg_keeps
    | with_reducible apply State.commitPlane_keeps | with_reducible apply State.commitFails_keeps
    | with_reducible apply State.halControl_keeps | with_reducible apply Keeps.ite | split
    | with_reducible exact Keeps.refl _ _

def State.readvertise_foot : Foot := State.modCred_foot

theorem State.readvertise_keeps (hs : Keeps F S s) (hF : Foot.Sub State.readvertise_foot F) (p : Plane) :
    Keeps F S (State.readvertise s p) := by
  unfold State.readvertise
  repeat' first
    | with_reducible assumption | (with_reducible refine Foot.Sub.up hF ?_; decide +kernel)
    | ((first | intro x | (lift_lets; intro x))
       first
         | (refine Keeps.cut x ?_ (fun hx => ?_); rotate_left; clear_value x; rotate_left; unfold x)
         | clear_value x
         | skip)
    | with_reducible apply State.each_keeps | with_reducible apply State.modCred_keeps
    | with_reducible apply Keeps.ite | with_reducible exact Keeps.refl _ _

def State.reguar_foot : Foot := foot [.swc] [.SWC_BUF_STAT]

theorem State.reguar_keeps (hs : Keeps F S s) (hF : Foot.Sub State.reguar_foot F) (p : Plane) :
    Keeps F S (State.reguar s p) := by
  unfold State.reguar
  repeat' first
    | with_reducible assumption | (with_reducible refine Foot.Sub.up hF ?_; decide +kernel)
    | ((first | intro x | (lift_lets; intro x))
       first
         | (refine Keeps.cut x ?_ (fun hx => ?_); rotate_left; clear_value x; rotate_left; unfold x)
         | clear_value x
         | skip)
    | with_reducible apply State.modSwc_keeps | with_reducible apply State.setF_keeps
    | with_reducible exact Keeps.refl _ _

def State.aliasGone_foot : Foot := Foot.join [foot [] [.GWM_FWD_TMO], State.modSrc_foot, State.memDrop_foot]

theorem State.aliasGone_keeps (hs : Keeps F S s) (hF : Foot.Sub State.aliasGone_foot F) (p : Plane) (key : Nat) :
    Keeps F S (State.aliasGone s p key) := by
  unfold State.aliasGone
  repeat' first
    | with_reducible assumption | (with_reducible refine Foot.Sub.up hF ?_; decide +kernel)
    | ((first | intro x | (lift_lets; intro x))
       first
         | (refine Keeps.cut x ?_ (fun hx => ?_); rotate_left; clear_value x; rotate_left; unfold x)
         | clear_value x
         | skip)
    | with_reducible apply State.each_keeps | with_reducible apply State.count_keeps
    | with_reducible apply State.modSrc_keeps | with_reducible apply State.memDrop_keeps
    | with_reducible apply Keeps.ite | with_reducible exact Keeps.refl _ _

def State.commitActs_foot : Foot := Foot.join [foot [.epc] [], State.memCommitted_foot, State.reguar_foot,
  State.readvertise_foot, State.commitPlane_foot, State.aliasGone_foot]

theorem State.commitActs_keeps (hs : Keeps F S s) (hF : Foot.Sub State.commitActs_foot F) (p : Plane) :
    Keeps F S (State.commitActs s p) := by
  unfold State.commitActs
  repeat' first
    | with_reducible assumption | (with_reducible refine Foot.Sub.up hF ?_; decide +kernel)
    | ((first | intro x | (lift_lets; intro x))
       first
         | (refine Keeps.cut x ?_ (fun hx => ?_); rotate_left; clear_value x; rotate_left; unfold x)
         | clear_value x
         | skip)
    | with_reducible apply State.modEpc_keeps | with_reducible apply State.memCommitted_keeps
    | with_reducible apply State.reguar_keeps | with_reducible apply State.readvertise_keeps
    | with_reducible apply State.commitPlane_keeps | with_reducible apply State.aliasGone_keeps
    | with_reducible exact Keeps.refl _ _

def State.commitEnds_foot : Foot := Foot.join [foot [] [.EPC_COMMIT_SEQ, .EPC_COMMIT_STAT], State.raise_foot]

theorem State.commitEnds_keeps (hs : Keeps F S s) (hF : Foot.Sub State.commitEnds_foot F) (p : Plane) :
    Keeps F S (State.commitEnds s p) := by
  unfold State.commitEnds
  repeat' first
    | with_reducible assumption | (with_reducible refine Foot.Sub.up hF ?_; decide +kernel)
    | ((first | intro x | (lift_lets; intro x))
       first
         | (refine Keeps.cut x ?_ (fun hx => ?_); rotate_left; clear_value x; rotate_left; unfold x)
         | clear_value x
         | skip)
    | with_reducible apply State.setWord_keeps | with_reducible apply State.setFlag_keeps
    | with_reducible apply State.raise_keeps | with_reducible exact Keeps.refl _ _

def State.commitNow_foot : Foot := Foot.join [foot [.pkg] [], State.commitActs_foot, State.commitEnds_foot,
  State.endCommit_foot]

theorem State.commitNow_keeps (hs : Keeps F S s) (hF : Foot.Sub State.commitNow_foot F) :
    Keeps F S (State.commitNow s) := by
  unfold State.commitNow
  repeat' first
    | with_reducible assumption | (with_reducible refine Foot.Sub.up hF ?_; decide +kernel)
    | ((first | intro x | (lift_lets; intro x))
       first
         | (refine Keeps.cut x ?_ (fun hx => ?_); rotate_left; clear_value x; rotate_left; unfold x)
         | clear_value x
         | skip)
    | with_reducible apply State.each_keeps | with_reducible apply State.modPkg_keeps
    | with_reducible apply State.commitActs_keeps | with_reducible apply State.commitEnds_keeps
    | with_reducible apply State.endCommit_keeps | split | with_reducible exact Keeps.refl _ _

def State.discard_foot : Foot := Foot.join [foot [] [.EPC_COMMIT_STAT], State.discardPlane_foot]

theorem State.discard_keeps (hs : Keeps F S s) (hF : Foot.Sub State.discard_foot F) (p : Plane) :
    Keeps F S (State.discard s p) := by
  unfold State.discard
  repeat' first
    | with_reducible assumption | (with_reducible refine Foot.Sub.up hF ?_; decide +kernel)
    | ((first | intro x | (lift_lets; intro x))
       first
         | (refine Keeps.cut x ?_ (fun hx => ?_); rotate_left; clear_value x; rotate_left; unfold x)
         | clear_value x
         | skip)
    | with_reducible apply State.setFlag_keeps | with_reducible apply State.each_keeps
    | with_reducible apply State.discardPlane_keeps | with_reducible apply Keeps.ite
    | with_reducible exact Keeps.refl _ _

def execCommit_foot : Foot := State.commitStart_foot

theorem execCommit_keeps (hF : Foot.Sub execCommit_foot F) (p : Plane) (s : State) :
    ∃ t', execCommit p s = .next t' ∧ Keeps F s t' := by
  unfold execCommit
  refine ⟨_, rfl, ?_⟩
  repeat' first
    | with_reducible assumption | (with_reducible refine Foot.Sub.up hF ?_; decide +kernel)
    | with_reducible apply State.when_keeps | with_reducible apply State.commitStart_keeps | intro x
    | with_reducible exact Keeps.refl _ _

def execCommitDecision_foot : Foot := State.commitDecide_foot

theorem execCommitDecision_keeps (hF : Foot.Sub execCommitDecision_foot F) (s : State) :
    ∃ t', execCommitDecision s = .next t' ∧ Keeps F s t' := by
  unfold execCommitDecision
  refine ⟨_, rfl, ?_⟩
  repeat' first
    | with_reducible assumption | (with_reducible refine Foot.Sub.up hF ?_; decide +kernel)
    | with_reducible apply State.commitDecide_keeps | with_reducible exact Keeps.refl _ _

def execCommitInstant_foot : Foot := State.commitNow_foot

theorem execCommitInstant_keeps (hF : Foot.Sub execCommitInstant_foot F) (s : State) :
    ∃ t', execCommitInstant s = .next t' ∧ Keeps F s t' := by
  unfold execCommitInstant
  refine ⟨_, rfl, ?_⟩
  repeat' first
    | with_reducible assumption | (with_reducible refine Foot.Sub.up hF ?_; decide +kernel)
    | with_reducible apply State.commitNow_keeps | with_reducible exact Keeps.refl _ _

def execDiscard_foot : Foot := State.discard_foot

theorem execDiscard_keeps (hF : Foot.Sub execDiscard_foot F) (p : Plane) (s : State) :
    ∃ t', execDiscard p s = .next t' ∧ Keeps F s t' := by
  unfold execDiscard
  refine ⟨_, rfl, ?_⟩
  repeat' first
    | with_reducible assumption | (with_reducible refine Foot.Sub.up hF ?_; decide +kernel)
    | with_reducible apply State.when_keeps | with_reducible apply State.discard_keeps | intro x
    | with_reducible exact Keeps.refl _ _

def State.measure_foot : Foot := foot [.pkg] []

theorem State.measure_keeps (hs : Keeps F S s) (hF : Foot.Sub State.measure_foot F) (p : Plane) :
    Keeps F S (State.measure s p) := by
  unfold State.measure
  repeat' first
    | with_reducible assumption | (with_reducible refine Foot.Sub.up hF ?_; decide +kernel)
    | ((first | intro x | (lift_lets; intro x))
       first
         | (refine Keeps.cut x ?_ (fun hx => ?_); rotate_left; clear_value x; rotate_left; unfold x)
         | clear_value x
         | skip)
    | with_reducible apply State.modPkg_keeps | with_reducible exact Keeps.refl _ _

def execCfgMeasDone_foot : Foot := State.measure_foot

theorem execCfgMeasDone_keeps (hF : Foot.Sub execCfgMeasDone_foot F) (s : State) :
    ∃ t', execCfgMeasDone s = .next t' ∧ Keeps F s t' := by
  unfold execCfgMeasDone
  refine ⟨_, rfl, ?_⟩
  repeat' first
    | with_reducible assumption | (with_reducible refine Foot.Sub.up hF ?_; decide +kernel)
    | with_reducible apply State.measure_keeps | split | with_reducible exact Keeps.refl _ _

def execLogRpWrite_foot : Foot := State.logRp_foot

theorem execLogRpWrite_keeps (hF : Foot.Sub execLogRpWrite_foot F) (p : Plane) (v : Word) (s : State) :
    ∃ t', execLogRpWrite p v s = .next t' ∧ Keeps F s t' := by
  unfold execLogRpWrite
  refine ⟨_, rfl, ?_⟩
  repeat' first
    | with_reducible assumption | (with_reducible refine Foot.Sub.up hF ?_; decide +kernel)
    | with_reducible apply State.when_keeps | with_reducible apply State.logRp_keeps | intro x
    | with_reducible exact Keeps.refl _ _

def State.cfgInvalid_foot : Foot := Foot.join [foot [.rte] [], State.colAbort_foot, State.dspAbort_foot]

theorem State.cfgInvalid_keeps (hs : Keeps F S s) (hF : Foot.Sub State.cfgInvalid_foot F) (p : Plane) (r : Reg)
    (i : Nat) :
    Keeps F S (State.cfgInvalid s p r i) := by
  unfold State.cfgInvalid
  repeat' first
    | with_reducible assumption | (with_reducible refine Foot.Sub.up hF ?_; decide +kernel)
    | with_reducible apply State.modRte_keeps | with_reducible apply State.colAbort_keeps
    | with_reducible apply State.dspAbort_keeps | intro x | split | with_reducible exact Keeps.refl _ _

def State.cfgEcc_foot : Foot := Foot.join [Foot.regs, State.cfgInvalid_foot, State.errorIn_foot]

theorem State.cfgEcc_keeps (hs : Keeps F S s) (hF : Foot.Sub State.cfgEcc_foot F) (p : Plane) (off : Nat) :
    Keeps F S (State.cfgEcc s p off) := by
  unfold State.cfgEcc
  repeat' first
    | with_reducible assumption | (with_reducible refine Foot.Sub.up hF ?_; decide +kernel)
    | (with_reducible refine Reg.sub_up hF ?_; decide +kernel) | with_reducible apply State.cfgInvalid_keeps
    | with_reducible apply State.errorIn_keeps | intro x | with_reducible apply Keeps.ite | split
    | with_reducible exact Keeps.refl _ _

def execConfigEccError_foot : Foot := State.cfgEcc_foot

theorem execConfigEccError_keeps (hF : Foot.Sub execConfigEccError_foot F) (p : Plane) (off : BitVec 26)
    (s : State) :
    ∃ t', execConfigEccError p off s = .next t' ∧ Keeps F s t' := by
  unfold execConfigEccError
  refine ⟨_, rfl, ?_⟩
  repeat' first
    | with_reducible assumption | (with_reducible refine Foot.Sub.up hF ?_; decide +kernel)
    | with_reducible apply State.when_keeps | with_reducible apply State.cfgEcc_keeps | intro x
    | with_reducible exact Keeps.refl _ _

end Sys2Proof.Machine
end

