-- ==== Sys2Proof/Laws/KeepRegWrite.lean ====
section
/-! SUPPORT. `Keeps` of the definitions of Machine/RegWrite.lean, each with its footprint. -/

namespace Sys2Proof.Machine

set_option Elab.async false

variable {F : Foot} {S s : State}

def State.clearRc_foot : Foot := Foot.join [foot [.loose] [], Foot.regs]

theorem State.clearRc_keeps (hs : Keeps F S s) (hF : Foot.Sub State.clearRc_foot F) (p : Plane) (r : Reg)
    (i w : Nat) :
    Keeps F S (State.clearRc s p r i w) := by
  unfold State.clearRc
  repeat' first
    | with_reducible assumption | (with_reducible refine Foot.Sub.up hF ?_; decide +kernel)
    | (with_reducible refine Reg.sub_up hF ?_; decide +kernel) | with_reducible apply State.each_keeps
    | with_reducible apply State.endFree_keeps | with_reducible apply State.setF_keeps | intro x
    | with_reducible exact Keeps.refl _ _

def State.latchUpper_foot : Foot := foot [.latch] []

theorem State.latchUpper_keeps (hs : Keeps F S s) (hF : Foot.Sub State.latchUpper_foot F) (p : Plane) (r : Reg)
    (i : Nat) (g : Nat × Nat) :
    Keeps F S (State.latchUpper s p r i g) := by
  unfold State.latchUpper
  repeat' first
    | with_reducible assumption | (with_reducible refine Foot.Sub.up hF ?_; decide +kernel)
    | ((first | intro x | (lift_lets; intro x))
       first
         | (refine Keeps.cut x ?_ (fun hx => ?_); rotate_left; clear_value x; rotate_left; unfold x)
         | clear_value x
         | skip)
    | with_reducible apply State.each_keeps | with_reducible apply State.modPl_keeps
    | with_reducible exact Keeps.refl _ _
    | exact PlaneSt.Stays.part .latch (hF.up (by decide +kernel)) (fun h => ⟨h.regs, h.committed, h.sram, h.lp, h.events⟩) rfl (fun b hb => by cases b <;> first | exact absurd rfl hb | exact rfl | exact ⟨rfl, rfl⟩ | trivial)

def State.readReg_foot : Foot := Foot.join [Foot.regs, State.clearRc_foot, State.latchUpper_foot]

theorem State.readReg_keeps (hs : Keeps F S s) (hF : Foot.Sub State.readReg_foot F) (p : Plane) (off : Nat) :
    Keeps F S (State.readReg s p off).2 := by
  unfold State.readReg
  repeat' first
    | with_reducible assumption | (with_reducible refine Foot.Sub.up hF ?_; decide +kernel)
    | (with_reducible refine Reg.sub_up hF ?_; decide +kernel)
    | ((first | intro x | (lift_lets; intro x))
       first
         | (refine Keeps.cut x ?_ (fun hx => ?_); rotate_left; clear_value x; rotate_left; unfold x)
         | clear_value x
         | skip)
    | with_reducible apply State.clearRc_keeps | with_reducible apply State.latchUpper_keeps
    | with_reducible apply Keeps.ite | with_reducible apply Keeps.ite_snd | split
    | with_reducible exact Keeps.refl _ _

def State.flagWrite_foot : Foot := Foot.join [foot [] [.EPC_S_IGN_CNT, .EPC_S_IGN_ADDR], State.raise_foot]

theorem State.flagWrite_keeps (hs : Keeps F S s) (hF : Foot.Sub State.flagWrite_foot F) (p : Plane) (off : Nat) :
    Keeps F S (State.flagWrite s p off) := by
  unfold State.flagWrite
  repeat' first
    | with_reducible assumption | (with_reducible refine Foot.Sub.up hF ?_; decide +kernel)
    | ((first | intro x | (lift_lets; intro x))
       first
         | (refine Keeps.cut x ?_ (fun hx => ?_); rotate_left; clear_value x; rotate_left; unfold x)
         | clear_value x
         | skip)
    | with_reducible apply State.count_keeps | with_reducible apply State.setF_keeps
    | with_reducible apply State.setFlag_keeps | with_reducible apply State.raise_keeps
    | with_reducible apply Keeps.ite | with_reducible exact Keeps.refl _ _

theorem State.ifBit_keeps (hs : Keeps F S s) (k : Nat) (v : Word) (f : State → State)
    (hf : ∀ s, Keeps F s (f s)) :
    Keeps F S (State.ifBit s k v f) := by
  unfold State.ifBit
  repeat' first
    | with_reducible assumption | with_reducible refine Keeps.trans ?_ (hf ..) | with_reducible apply Keeps.ite
    | with_reducible exact Keeps.refl _ _

def State.regAct_foot : Foot := Foot.join [foot [.rte] [], State.blockReset_foot, State.prbsCfg_foot,
  State.prbsClear_foot, State.squelchOn_foot, State.eyeStart_foot, State.retrainPort_foot, State.admitWrite_foot,
  State.startRestore_foot, State.wireCtl_foot, State.drainStart_foot, State.drainAbort_foot, State.endHold_foot,
  State.colCtlWrite_foot, State.dspCtlWrite_foot, State.pprStart_foot, State.glEn_foot, State.glRetrain_foot,
  State.hifCtl_foot, State.funcMode_foot, State.handReg_foot, State.capHost_foot, State.hostReqWrite_foot,
  State.mboxSend_foot, State.discard_foot, State.commitStart_foot, State.retire_foot, State.unitTestStart_foot,
  State.freezeFrom_foot, State.logRp_foot, State.ftCfgWrite_foot, State.ftSet_foot, State.genStart_foot,
  State.genStop_foot, State.freeFlows_foot]

theorem State.regAct_keeps (hs : Keeps F S s) (hF : Foot.Sub State.regAct_foot F) (p : Plane) (r : Reg)
    (i w : Nat) (old v : Word) :
    Keeps F S (State.regAct s p r i w old v) := by
  unfold State.regAct
  repeat' first
    | with_reducible assumption | (with_reducible refine Foot.Sub.up hF ?_; decide +kernel)
    | ((first | intro x | (lift_lets; intro x))
       first
         | (refine Keeps.cut x ?_ (fun hx => ?_); rotate_left; clear_value x; rotate_left; unfold x)
         | clear_value x
         | skip)
    | with_reducible apply State.when_keeps | with_reducible apply State.modRte_keeps
    | with_reducible apply State.ifBit_keeps | with_reducible apply State.blockReset_keeps
    | with_reducible apply State.prbsCfg_keeps | with_reducible apply State.prbsClear_keeps
    | with_reducible apply State.squelchOn_keeps | with_reducible apply State.eyeStart_keeps
    | with_reducible apply State.retrainPort_keeps | with_reducible apply State.admitWrite_keeps
    | with_reducible apply State.startRestore_keeps | with_reducible apply State.wireCtl_keeps
    | with_reducible apply State.drainStart_keeps | with_reducible apply State.drainAbort_keeps
    | with_reducible apply State.endHold_keeps | with_reducible apply State.colCtlWrite_keeps
    | with_reducible apply State.dspCtlWrite_keeps | with_reducible apply State.pprStart_keeps
    | with_reducible apply State.glEn_keeps | with_reducible apply State.glRetrain_keeps
    | with_reducible apply State.hifCtl_keeps | with_reducible apply State.funcMode_keeps
    | with_reducible apply State.handReg_keeps | with_reducible apply State.capHost_keeps
    | with_reducible apply State.hostReqWrite_keeps | with_reducible apply State.mboxSend_keeps
    | with_reducible apply State.discard_keeps | with_reducible apply State.commitStart_keeps
    | with_reducible apply State.retire_keeps | with_reducible apply State.unitTestStart_keeps
    | with_reducible apply State.freezeFrom_keeps | with_reducible apply State.logRp_keeps
    | with_reducible apply State.ftCfgWrite_keeps | with_reducible apply State.ftSet_keeps
    | with_reducible apply State.genStart_keeps | with_reducible apply State.genStop_keeps
    | with_reducible apply State.freeFlows_keeps | with_reducible apply Keeps.ite | split
    | with_reducible exact Keeps.refl _ _

theorem State.putReg_keeps (hs : Keeps F S s) (p : Plane) (r : Reg) (i w : Nat) (v : Word)
    (hr : Foot.Sub r.foot F) :
    Keeps F S (State.putReg s p r i w v) := by
  unfold State.putReg
  repeat' first
    | with_reducible assumption | with_reducible apply State.both_keeps | with_reducible apply State.setWord_keeps
    | intro x | with_reducible apply Keeps.ite | with_reducible exact Keeps.refl _ _

def State.portCfgWrite_foot : Foot := Foot.join [foot [] [.LNE_PORT_CFG], State.portOn_foot, State.portOff_foot,
  State.lpiWake_foot]

theorem State.portCfgWrite_keeps (hs : Keeps F S s) (hF : Foot.Sub State.portCfgWrite_foot F) (p : Plane)
    (i : Nat) (v : Word) :
    Keeps F S (State.portCfgWrite s p i v).2 := by
  unfold State.portCfgWrite
  repeat' first
    | with_reducible assumption | (with_reducible refine Foot.Sub.up hF ?_; decide +kernel)
    | ((first | intro x | (lift_lets; intro x))
       first
         | (refine Keeps.cut x ?_ (fun hx => ?_); rotate_left; clear_value x; rotate_left; unfold x)
         | clear_value x
         | skip)
    | with_reducible apply State.setWord_keeps | with_reducible apply State.portOn_keeps
    | with_reducible apply State.portOff_keeps | with_reducible apply State.lpiWake_keeps
    | with_reducible apply Keeps.ite | with_reducible apply Keeps.ite_snd | split
    | with_reducible exact Keeps.refl _ _

def State.wordStore_foot : Foot := Foot.join [foot [] [.MEM_LP_CFG], State.portCfgWrite_foot]

theorem State.wordStore_keeps (hs : Keeps F S s) (hF : Foot.Sub State.wordStore_foot F) (p : Plane) (r : Reg)
    (i w : Nat) (v : Word) (hr : Foot.Sub r.foot F) :
    Keeps F S (State.wordStore s p r i w v).2 := by
  unfold State.wordStore
  repeat' first
    | with_reducible assumption | (with_reducible refine Foot.Sub.up hF ?_; decide +kernel)
    | ((first | intro x | (lift_lets; intro x))
       first
         | (refine Keeps.cut x ?_ (fun hx => ?_); rotate_left; clear_value x; rotate_left; unfold x)
         | clear_value x
         | skip)
    | with_reducible apply State.setFlag_keeps | with_reducible apply State.portCfgWrite_keeps
    | with_reducible apply State.putReg_keeps | with_reducible apply Keeps.ite | with_reducible apply Keeps.ite_snd
    | with_reducible exact Keeps.refl _ _

def State.valueStore_foot : Foot := State.wordStore_foot

theorem State.valueStore_keeps (hs : Keeps F S s) (hF : Foot.Sub State.valueStore_foot F) (p : Plane) (r : Reg)
    (i : Nat) (g : Nat × Nat) (v : Word) (hr : Foot.Sub r.foot F) :
    Keeps F S (State.valueStore s p r i g v).2 := by
  unfold State.valueStore
  refine State.foldl_snd hs _ _ (fun x e => ?_)
  dsimp only
  repeat' first
    | with_reducible assumption | (with_reducible refine Foot.Sub.up hF ?_; decide +kernel)
    | ((first | intro x | (lift_lets; intro x))
       first
         | (refine Keeps.cut x ?_ (fun hx => ?_); rotate_left; clear_value x; rotate_left; unfold x)
         | clear_value x
         | skip)
    | with_reducible apply State.wordStore_keeps | with_reducible apply State.foldl_keeps
    | with_reducible apply State.foldl_snd | with_reducible apply State.foldl_snd2 | with_reducible apply Keeps.ite
    | with_reducible apply Keeps.ite_snd | with_reducible exact Keeps.refl _ _

def State.writeReg_foot : Foot := Foot.join [foot [.partW] [], Foot.regs, State.flagWrite_foot, State.regAct_foot,
  State.valueStore_foot, State.wordStore_foot]

theorem State.writeReg_keeps (hs : Keeps F S s) (hF : Foot.Sub State.writeReg_foot F) (p : Plane) (off : Nat)
    (v : Word) : Keeps F S (State.writeReg s p off v).2 := by
  unfold State.writeReg
  split
  · exact hs
  · rename_i r i w _
    have hr : Foot.Sub r.foot F := Reg.sub_up hF (by decide +kernel)
    have act : ∀ y : Bool × State, Keeps F S y.2 →
        Keeps F S ((if y.1 then y.2.flagWrite p off else y.2).regAct p r i w (s.word p r i w) v) := by
      intro y h
      refine State.regAct_keeps (Keeps.ite (State.flagWrite_keeps h ?_ p off) h) ?_ p r i w _ v
      · exact hF.up (by decide +kernel)
      · exact hF.up (by decide +kernel)
    dsimp only
    split
    · refine Keeps.ite_snd ?_ ?_
      · dsimp only
        exact State.modPl_keeps hs p _ (fun x => PlaneSt.Stays.part .partW (hF.up (by decide +kernel))
          (fun h => ⟨h.regs, h.committed, h.sram, h.lp, h.events⟩) rfl
          (fun b hb => by cases b <;> first | exact absurd rfl hb | exact rfl | exact ⟨rfl, rfl⟩ | trivial))
      · apply act
        apply State.valueStore_keeps hs _ p r i _ v hr
        exact hF.up (by decide +kernel)
    · apply act
      apply State.wordStore_keeps hs _ p r i w v hr
      exact hF.up (by decide +kernel)

def execRegisterWrite_foot : Foot := State.writeReg_foot

theorem execRegisterWrite_keeps (hF : Foot.Sub execRegisterWrite_foot F) (addr : BitVec 27) (v : Word)
    (s : State) :
    ∃ t', execRegisterWrite addr v s = .next t' ∧ Keeps F s t' := by
  unfold execRegisterWrite
  refine ⟨_, rfl, ?_⟩
  repeat' first
    | with_reducible assumption | (with_reducible refine Foot.Sub.up hF ?_; decide +kernel)
    | ((first | intro x | (lift_lets; intro x))
       first
         | (refine Keeps.cut x ?_ (fun hx => ?_); rotate_left; clear_value x; rotate_left; unfold x)
         | clear_value x
         | skip)
    | with_reducible apply State.when_keeps | with_reducible apply State.writeReg_keeps
    | with_reducible exact Keeps.refl _ _

end Sys2Proof.Machine
end

