-- ==== Sys2Proof/Laws/KeepCommands.lean ====
section
/-! SUPPORT. `Keeps` of the definitions of Machine/Commands.lean, each with its footprint. -/

namespace Sys2Proof.Machine

set_option Elab.async false

variable {F : Foot} {S s : State}

def State.mmioRsp_foot : Foot := State.glOut_foot

theorem State.mmioRsp_keeps (hs : Keeps F S s) (hF : Foot.Sub State.mmioRsp_foot F) (h : Plane) (m : GlMsg)
    (status : Byte) (v : Word) :
    Keeps F S (State.mmioRsp s h m status v) := by
  unfold State.mmioRsp
  repeat' first
    | with_reducible assumption | (with_reducible refine Foot.Sub.up hF ?_; decide +kernel)
    | with_reducible apply State.glOut_keeps | with_reducible apply Keeps.ite | with_reducible exact Keeps.refl _ _

def State.mmioLost_foot : Foot := Foot.join [foot [.free] [], State.mmioRsp_foot]

theorem State.mmioLost_keeps (hs : Keeps F S s) (hF : Foot.Sub State.mmioLost_foot F) (h : Plane) (m : GlMsg) :
    Keeps F S (State.mmioLost s h m) := by
  unfold State.mmioLost
  repeat' first
    | with_reducible assumption | (with_reducible refine Foot.Sub.up hF ?_; decide +kernel)
    | ((first | intro x | (lift_lets; intro x))
       first
         | (refine Keeps.cut x ?_ (fun hx => ?_); rotate_left; clear_value x; rotate_left; unfold x)
         | clear_value x
         | skip)
    | with_reducible apply State.takeFree_keeps | with_reducible apply State.mmioRsp_keeps
    | with_reducible refine Keeps.snd ?_ (by assumption) | split | with_reducible exact Keeps.refl _ _

def State.mmioRead_foot : Foot := Foot.join [State.modHalf_foot, State.mmioRsp_foot, State.hostActive_foot,
  State.readReg_foot, State.mmioLost_foot]

theorem State.mmioRead_keeps (hs : Keeps F S s) (hF : Foot.Sub State.mmioRead_foot F) (h : Plane) (m : GlMsg) :
    Keeps F S (State.mmioRead s h m) := by
  unfold State.mmioRead
  repeat' first
    | with_reducible assumption | (with_reducible refine Foot.Sub.up hF ?_; decide +kernel)
    | ((first | intro x | (lift_lets; intro x))
       first
         | (refine Keeps.cut x ?_ (fun hx => ?_); rotate_left; clear_value x; rotate_left; unfold x)
         | clear_value x
         | skip)
    | with_reducible apply State.modHalf_keeps | with_reducible apply State.mmioRsp_keeps
    | with_reducible apply State.hostActive_keeps | with_reducible apply State.readReg_keeps
    | with_reducible apply State.mmioLost_keeps | with_reducible apply Keeps.ite
    | with_reducible refine Keeps.snd ?_ (by assumption) | split | with_reducible exact Keeps.refl _ _

def State.mmioWrite_foot : Foot := Foot.join [State.modHalf_foot, State.mmioRsp_foot, State.hostActive_foot,
  State.writeReg_foot, State.mmioLost_foot]

theorem State.mmioWrite_keeps (hs : Keeps F S s) (hF : Foot.Sub State.mmioWrite_foot F) (h : Plane) (m : GlMsg) :
    Keeps F S (State.mmioWrite s h m) := by
  unfold State.mmioWrite
  repeat' first
    | with_reducible assumption | (with_reducible refine Foot.Sub.up hF ?_; decide +kernel)
    | ((first | intro x | (lift_lets; intro x))
       first
         | (refine Keeps.cut x ?_ (fun hx => ?_); rotate_left; clear_value x; rotate_left; unfold x)
         | clear_value x
         | skip)
    | with_reducible apply State.modHalf_keeps | with_reducible apply State.mmioRsp_keeps
    | with_reducible apply State.hostActive_keeps | with_reducible apply State.writeReg_keeps
    | with_reducible apply State.mmioLost_keeps | with_reducible apply Keeps.ite
    | with_reducible exact Keeps.refl _ _

def execMmioRd_foot : Foot := State.mmioRead_foot

theorem execMmioRd_keeps (hF : Foot.Sub execMmioRd_foot F) (half : Plane) (m : GlMsg) (s : State) :
    ∃ t', execMmioRd half m s = .next t' ∧ Keeps F s t' := by
  unfold execMmioRd
  refine ⟨_, rfl, ?_⟩
  repeat' first
    | with_reducible assumption | (with_reducible refine Foot.Sub.up hF ?_; decide +kernel)
    | with_reducible apply State.when_keeps | with_reducible apply State.mmioRead_keeps | intro x
    | with_reducible exact Keeps.refl _ _

def execMmioWr_foot : Foot := State.mmioWrite_foot

theorem execMmioWr_keeps (hF : Foot.Sub execMmioWr_foot F) (half : Plane) (m : GlMsg) (s : State) :
    ∃ t', execMmioWr half m s = .next t' ∧ Keeps F s t' := by
  unfold execMmioWr
  refine ⟨_, rfl, ?_⟩
  repeat' first
    | with_reducible assumption | (with_reducible refine Foot.Sub.up hF ?_; decide +kernel)
    | with_reducible apply State.when_keeps | with_reducible apply State.mmioWrite_keeps | intro x
    | with_reducible exact Keeps.refl _ _

def State.cmdTake_foot : Foot := foot [.hif] []

theorem State.cmdTake_keeps (hs : Keeps F S s) (hF : Foot.Sub State.cmdTake_foot F) (p : Plane) :
    Keeps F S (State.cmdTake s p) := by
  unfold State.cmdTake
  repeat' first
    | with_reducible assumption | (with_reducible refine Foot.Sub.up hF ?_; decide +kernel)
    | with_reducible apply State.modHif_keeps | intro x | with_reducible exact Keeps.refl _ _ | exact Nat.le_refl _

def State.cmdEnd_foot : Foot := Foot.join [State.cmdFlush_foot, State.cmdDone_foot]

theorem State.cmdEnd_keeps (hs : Keeps F S s) (hF : Foot.Sub State.cmdEnd_foot F) (p : Plane) (op : Nat)
    (h : CmdHead) (status : Nat) (sIgn : Bool) (done result : Nat) :
    Keeps F S (State.cmdEnd s p op h status sIgn done result) := by
  unfold State.cmdEnd
  repeat' first
    | with_reducible assumption | (with_reducible refine Foot.Sub.up hF ?_; decide +kernel)
    | with_reducible apply State.cmdFlush_keeps | with_reducible apply State.cmdDone_keeps
    | with_reducible exact Keeps.refl _ _

def State.cmd_foot : Foot := State.cmdTake_foot

theorem State.cmd_keeps (hs : Keeps F S s) (hF : Foot.Sub State.cmd_foot F) (p : Plane) (op : Nat) (h : CmdHead)
    (ops : Bytes) (f : State → State) (hf : ∀ s, Keeps F s (f s)) :
    Keeps F S (State.cmd s p op h ops f) := by
  unfold State.cmd
  repeat' first
    | with_reducible assumption | (with_reducible refine Foot.Sub.up hF ?_; decide +kernel)
    | with_reducible apply State.when_keeps | with_reducible apply State.cmdTake_keeps
    | with_reducible refine Keeps.trans ?_ (hf ..) | intro x | with_reducible exact Keeps.refl _ _

def State.cmdHold_foot : Foot := foot [.hif] []

theorem State.cmdHold_keeps (hs : Keeps F S s) (hF : Foot.Sub State.cmdHold_foot F) (p : Plane) (e : CmdEnd) :
    Keeps F S (State.cmdHold s p e) := by
  unfold State.cmdHold
  repeat' first
    | with_reducible assumption | (with_reducible refine Foot.Sub.up hF ?_; decide +kernel)
    | with_reducible apply State.modHif_keeps | intro x | with_reducible exact Keeps.refl _ _ | exact Nat.le_refl _

def execNop_foot : Foot := Foot.join [State.cmd_foot, State.cmdEnd_foot]

theorem execNop_keeps (hF : Foot.Sub execNop_foot F) (p : Plane) (h : CmdHead) (s : State) :
    ∃ t', execNop p h s = .next t' ∧ Keeps F s t' := by
  unfold execNop
  refine ⟨_, rfl, ?_⟩
  repeat' first
    | with_reducible assumption | (with_reducible refine Foot.Sub.up hF ?_; decide +kernel)
    | with_reducible apply State.cmd_keeps | with_reducible apply State.cmdEnd_keeps | intro x
    | with_reducible exact Keeps.refl _ _

def State.writePairs_foot : Foot := State.writeReg_foot

theorem State.writePairs_keeps (hs : Keeps F S s) (hF : Foot.Sub State.writePairs_foot F) (p : Plane)
    (l : List (Word × Word)) :
    Keeps F S (State.writePairs s p l).2 := by
  unfold State.writePairs
  refine State.foldl_snd hs _ _ (fun x e => ?_)
  dsimp only
  repeat' first
    | with_reducible assumption | (with_reducible refine Foot.Sub.up hF ?_; decide +kernel)
    | ((first | intro x | (lift_lets; intro x))
       first
         | (refine Keeps.cut x ?_ (fun hx => ?_); rotate_left; clear_value x; rotate_left; unfold x)
         | clear_value x
         | skip)
    | with_reducible apply State.writeReg_keeps | with_reducible apply State.foldl_keeps
    | with_reducible apply State.foldl_snd | with_reducible apply State.foldl_snd2
    | with_reducible exact Keeps.refl _ _

def State.regWr_foot : Foot := Foot.join [State.cmdEnd_foot, State.writePairs_foot]

theorem State.regWr_keeps (hs : Keeps F S s) (hF : Foot.Sub State.regWr_foot F) (p : Plane) (h : CmdHead)
    (pairs : List (Word × Word)) :
    Keeps F S (State.regWr s p h pairs) := by
  unfold State.regWr
  repeat' first
    | with_reducible assumption | (with_reducible refine Foot.Sub.up hF ?_; decide +kernel)
    | ((first | intro x | (lift_lets; intro x))
       first
         | (refine Keeps.cut x ?_ (fun hx => ?_); rotate_left; clear_value x; rotate_left; unfold x)
         | clear_value x
         | skip)
    | with_reducible apply State.cmdEnd_keeps | with_reducible apply State.writePairs_keeps
    | with_reducible apply Keeps.ite | with_reducible refine Keeps.snd ?_ (by assumption) | split
    | with_reducible exact Keeps.refl _ _

def execRegWr_foot : Foot := Foot.join [State.cmd_foot, State.regWr_foot]

theorem execRegWr_keeps (hF : Foot.Sub execRegWr_foot F) (p : Plane) (h : CmdHead) (pairs : List (Word × Word))
    (s : State) :
    ∃ t', execRegWr p h pairs s = .next t' ∧ Keeps F s t' := by
  unfold execRegWr
  refine ⟨_, rfl, ?_⟩
  repeat' first
    | with_reducible assumption | (with_reducible refine Foot.Sub.up hF ?_; decide +kernel)
    | with_reducible apply State.cmd_keeps | with_reducible apply State.regWr_keeps | intro x
    | with_reducible exact Keeps.refl _ _

def State.readRun_foot : Foot := State.readReg_foot

theorem State.readRun_keeps (hs : Keeps F S s) (hF : Foot.Sub State.readRun_foot F) (p : Plane) (off n : Nat) :
    Keeps F S (State.readRun s p off n).2 := by
  unfold State.readRun
  refine State.foldl_snd hs _ _ (fun x e => ?_)
  dsimp only
  repeat' first
    | with_reducible assumption | (with_reducible refine Foot.Sub.up hF ?_; decide +kernel)
    | ((first | intro x | (lift_lets; intro x))
       first
         | (refine Keeps.cut x ?_ (fun hx => ?_); rotate_left; clear_value x; rotate_left; unfold x)
         | clear_value x
         | skip)
    | with_reducible apply State.readReg_keeps | with_reducible apply State.foldl_keeps
    | with_reducible apply State.foldl_snd | with_reducible apply State.foldl_snd2
    | with_reducible exact Keeps.refl _ _

def State.writeRun_foot : Foot := State.writeReg_foot

theorem State.writeRun_keeps (hs : Keeps F S s) (hF : Foot.Sub State.writeRun_foot F) (p : Plane) (off : Nat)
    (l : List Word) :
    Keeps F S (State.writeRun s p off l).2 := by
  unfold State.writeRun
  refine State.foldl_snd hs _ _ (fun x e => ?_)
  dsimp only
  repeat' first
    | with_reducible assumption | (with_reducible refine Foot.Sub.up hF ?_; decide +kernel)
    | ((first | intro x | (lift_lets; intro x))
       first
         | (refine Keeps.cut x ?_ (fun hx => ?_); rotate_left; clear_value x; rotate_left; unfold x)
         | clear_value x
         | skip)
    | with_reducible apply State.writeReg_keeps | with_reducible apply State.foldl_keeps
    | with_reducible apply State.foldl_snd | with_reducible apply State.foldl_snd2
    | with_reducible exact Keeps.refl _ _

def State.cmdSettle_foot : Foot := Foot.join [foot [.hif] [], State.writeRun_foot, State.cmdEnd_foot]

theorem State.cmdSettle_keeps (hs : Keeps F S s) (hF : Foot.Sub State.cmdSettle_foot F) (p : Plane) :
    Keeps F S (State.cmdSettle s p) := by
  unfold State.cmdSettle
  repeat' first
    | with_reducible assumption | (with_reducible refine Foot.Sub.up hF ?_; decide +kernel)
    | ((first | intro x | (lift_lets; intro x))
       first
         | (refine Keeps.cut x ?_ (fun hx => ?_); rotate_left; clear_value x; rotate_left; unfold x)
         | clear_value x
         | skip)
    | with_reducible apply State.modHif_keeps | with_reducible apply State.writeRun_keeps
    | with_reducible apply State.cmdEnd_keeps | with_reducible apply Keeps.ite
    | with_reducible refine Keeps.snd ?_ (by assumption) | split | with_reducible exact Keeps.refl _ _
    | exact Nat.le_refl _

def execGlData_foot : Foot := Foot.join [State.glData_foot, State.cmdSettle_foot]

theorem execGlData_keeps (hF : Foot.Sub execGlData_foot F) (half : Plane) (m : GlMsg) (s : State) :
    ∃ t', execGlData half m s = .next t' ∧ Keeps F s t' := by
  unfold execGlData
  refine ⟨_, rfl, ?_⟩
  repeat' first
    | with_reducible assumption | (with_reducible refine Foot.Sub.up hF ?_; decide +kernel)
    | with_reducible apply State.when_keeps | with_reducible apply State.both_keeps
    | with_reducible apply State.glData_keeps | with_reducible apply State.cmdSettle_keeps | intro x
    | with_reducible exact Keeps.refl _ _

def execGlCmp_foot : Foot := Foot.join [State.glCmp_foot, State.cmdSettle_foot]

theorem execGlCmp_keeps (hF : Foot.Sub execGlCmp_foot F) (half : Plane) (m : GlMsg) (s : State) :
    ∃ t', execGlCmp half m s = .next t' ∧ Keeps F s t' := by
  unfold execGlCmp
  refine ⟨_, rfl, ?_⟩
  repeat' first
    | with_reducible assumption | (with_reducible refine Foot.Sub.up hF ?_; decide +kernel)
    | with_reducible apply State.when_keeps | with_reducible apply State.both_keeps
    | with_reducible apply State.glCmp_keeps | with_reducible apply State.cmdSettle_keeps | intro x
    | with_reducible exact Keeps.refl _ _

def State.regRd_foot : Foot := Foot.join [State.cmdEnd_foot, State.readRun_foot, State.pushLine_foot,
  State.cmdHold_foot]

theorem State.regRd_keeps (hs : Keeps F S s) (hF : Foot.Sub State.regRd_foot F) (p : Plane) (h : CmdHead)
    (off words haddr : Nat) (fault : Option Nat) :
    Keeps F S (State.regRd s p h off words haddr fault) := by
  unfold State.regRd
  repeat' first
    | with_reducible assumption | (with_reducible refine Foot.Sub.up hF ?_; decide +kernel)
    | ((first | intro x | (lift_lets; intro x))
       first
         | (refine Keeps.cut x ?_ (fun hx => ?_); rotate_left; clear_value x; rotate_left; unfold x)
         | clear_value x
         | skip)
    | with_reducible apply State.each_keeps | with_reducible apply State.cmdEnd_keeps
    | with_reducible apply State.readRun_keeps | with_reducible apply State.pushLine_keeps
    | with_reducible apply State.cmdHold_keeps | with_reducible apply Keeps.ite
    | with_reducible refine Keeps.snd ?_ (by assumption) | split | with_reducible exact Keeps.refl _ _

def execRegRd_foot : Foot := Foot.join [State.cmd_foot, State.regRd_foot]

theorem execRegRd_keeps (hF : Foot.Sub execRegRd_foot F) (p : Plane) (h : CmdHead) (off words : Word)
    (haddr : BitVec 64) (fault : Option Nat) (s : State) :
    ∃ t', execRegRd p h off words haddr fault s = .next t' ∧ Keeps F s t' := by
  unfold execRegRd
  refine ⟨_, rfl, ?_⟩
  repeat' first
    | with_reducible assumption | (with_reducible refine Foot.Sub.up hF ?_; decide +kernel)
    | with_reducible apply State.cmd_keeps | with_reducible apply State.regRd_keeps | intro x
    | with_reducible exact Keeps.refl _ _

def State.bulkWr_foot : Foot := Foot.join [State.cmdEnd_foot, State.glRequest_foot, State.cmdHold_foot]

theorem State.bulkWr_keeps (hs : Keeps F S s) (hF : Foot.Sub State.bulkWr_foot F) (p : Plane) (h : CmdHead)
    (off words haddr : Nat) (data : List Word) (fault : Bool) :
    Keeps F S (State.bulkWr s p h off words haddr data fault) := by
  unfold State.bulkWr
  repeat' first
    | with_reducible assumption | (with_reducible refine Foot.Sub.up hF ?_; decide +kernel)
    | ((first | intro x | (lift_lets; intro x))
       first
         | (refine Keeps.cut x ?_ (fun hx => ?_); rotate_left; clear_value x; rotate_left; unfold x)
         | clear_value x
         | skip)
    | with_reducible apply State.each_keeps | with_reducible apply State.cmdEnd_keeps
    | with_reducible apply State.glRequest_keeps | with_reducible apply State.cmdHold_keeps
    | with_reducible apply Keeps.ite | with_reducible exact Keeps.refl _ _

def execBulkWr_foot : Foot := Foot.join [State.cmd_foot, State.bulkWr_foot]

theorem execBulkWr_keeps (hF : Foot.Sub execBulkWr_foot F) (p : Plane) (h : CmdHead) (off words : Word)
    (haddr : BitVec 64) (data : List Word) (fault : Bool) (s : State) :
    ∃ t', execBulkWr p h off words haddr data fault s = .next t' ∧ Keeps F s t' := by
  unfold execBulkWr
  refine ⟨_, rfl, ?_⟩
  repeat' first
    | with_reducible assumption | (with_reducible refine Foot.Sub.up hF ?_; decide +kernel)
    | with_reducible apply State.cmd_keeps | with_reducible apply State.bulkWr_keeps | intro x
    | with_reducible exact Keeps.refl _ _

def State.modeSet_foot : Foot := Foot.join [State.cmdEnd_foot, State.funcMode_foot]

theorem State.modeSet_keeps (hs : Keeps F S s) (hF : Foot.Sub State.modeSet_foot F) (p : Plane) (h : CmdHead)
    (func mode : Nat) :
    Keeps F S (State.modeSet s p h func mode) := by
  unfold State.modeSet
  repeat' first
    | with_reducible assumption | (with_reducible refine Foot.Sub.up hF ?_; decide +kernel)
    | with_reducible apply State.cmdEnd_keeps | with_reducible apply State.funcMode_keeps
    | with_reducible apply Keeps.ite | with_reducible exact Keeps.refl _ _

def execModeSet_foot : Foot := Foot.join [State.cmd_foot, State.modeSet_foot]

theorem execModeSet_keeps (hF : Foot.Sub execModeSet_foot F) (p : Plane) (h : CmdHead) (func mode : Byte)
    (s : State) :
    ∃ t', execModeSet p h func mode s = .next t' ∧ Keeps F s t' := by
  unfold execModeSet
  refine ⟨_, rfl, ?_⟩
  repeat' first
    | with_reducible assumption | (with_reducible refine Foot.Sub.up hF ?_; decide +kernel)
    | with_reducible apply State.cmd_keeps | with_reducible apply State.modeSet_keeps | intro x
    | with_reducible exact Keeps.refl _ _

def State.cwndSet_foot : Foot := Foot.join [State.cmdEnd_foot, State.epMoved_foot, State.pumpSrc_foot,
  State.modSrc_foot]

theorem State.cwndSet_keeps (hs : Keeps F S s) (hF : Foot.Sub State.cwndSet_foot F) (p : Plane) (h : CmdHead)
    (dst : EpId) (cwnd : Nat) :
    Keeps F S (State.cwndSet s p h dst cwnd) := by
  unfold State.cwndSet
  repeat' first
    | with_reducible assumption | (with_reducible refine Foot.Sub.up hF ?_; decide +kernel)
    | ((first | intro x | (lift_lets; intro x))
       first
         | (refine Keeps.cut x ?_ (fun hx => ?_); rotate_left; clear_value x; rotate_left; unfold x)
         | clear_value x
         | skip)
    | with_reducible apply State.each_keeps | with_reducible apply State.cmdEnd_keeps
    | with_reducible apply State.epMoved_keeps | with_reducible apply State.pumpSrc_keeps
    | with_reducible apply State.modSrc_keeps | with_reducible apply Keeps.ite
    | with_reducible exact Keeps.refl _ _

def execCwndSet_foot : Foot := Foot.join [State.cmd_foot, State.cwndSet_foot]

theorem execCwndSet_keeps (hF : Foot.Sub execCwndSet_foot F) (p : Plane) (h : CmdHead) (dst : EpId)
    (cwnd : BitVec 16) (s : State) :
    ∃ t', execCwndSet p h dst cwnd s = .next t' ∧ Keeps F s t' := by
  unfold execCwndSet
  refine ⟨_, rfl, ?_⟩
  repeat' first
    | with_reducible assumption | (with_reducible refine Foot.Sub.up hF ?_; decide +kernel)
    | with_reducible apply State.cmd_keeps | with_reducible apply State.cwndSet_keeps | intro x
    | with_reducible exact Keeps.refl _ _

def State.adaptStart_foot : Foot := Foot.join [foot [.hif] [], State.modLane_foot, State.cmdEnd_foot]

theorem State.adaptStart_keeps (hs : Keeps F S s) (hF : Foot.Sub State.adaptStart_foot F) (p : Plane)
    (h : CmdHead) (lane : Nat) (a b ctl : Byte) :
    Keeps F S (State.adaptStart s p h lane a b ctl) := by
  unfold State.adaptStart
  repeat' first
    | with_reducible assumption | (with_reducible refine Foot.Sub.up hF ?_; decide +kernel)
    | ((first | intro x | (lift_lets; intro x))
       first
         | (refine Keeps.cut x ?_ (fun hx => ?_); rotate_left; clear_value x; rotate_left; unfold x)
         | clear_value x
         | skip)
    | with_reducible apply State.modHif_keeps | with_reducible apply State.modLane_keeps
    | with_reducible apply State.cmdEnd_keeps | with_reducible apply Keeps.ite
    | with_reducible exact Keeps.refl _ _ | exact Nat.le_refl _

def execAdapt_foot : Foot := Foot.join [State.cmd_foot, State.adaptStart_foot]

theorem execAdapt_keeps (hF : Foot.Sub execAdapt_foot F) (p : Plane) (h : CmdHead) (lane : BitVec 16)
    (reqA reqB ctl : Byte) (s : State) :
    ∃ t', execAdapt p h lane reqA reqB ctl s = .next t' ∧ Keeps F s t' := by
  unfold execAdapt
  refine ⟨_, rfl, ?_⟩
  repeat' first
    | with_reducible assumption | (with_reducible refine Foot.Sub.up hF ?_; decide +kernel)
    | with_reducible apply State.cmd_keeps | with_reducible apply State.adaptStart_keeps | intro x
    | with_reducible exact Keeps.refl _ _

def State.adaptEnd_foot : Foot := Foot.join [foot [.hif] [], State.cmdEnd_foot]

theorem State.adaptEnd_keeps (hs : Keeps F S s) (hF : Foot.Sub State.adaptEnd_foot F) (p : Plane)
    (report : Option (BitVec 32)) :
    Keeps F S (State.adaptEnd s p report) := by
  unfold State.adaptEnd
  repeat' first
    | with_reducible assumption | (with_reducible refine Foot.Sub.up hF ?_; decide +kernel)
    | ((first | intro x | (lift_lets; intro x))
       first
         | (refine Keeps.cut x ?_ (fun hx => ?_); rotate_left; clear_value x; rotate_left; unfold x)
         | clear_value x
         | skip)
    | with_reducible apply State.modHif_keeps | with_reducible apply State.cmdEnd_keeps | split
    | with_reducible exact Keeps.refl _ _ | exact Nat.le_refl _

def execAdaptDone_foot : Foot := State.adaptEnd_foot

theorem execAdaptDone_keeps (hF : Foot.Sub execAdaptDone_foot F) (p : Plane) (report : Option (BitVec 32))
    (s : State) :
    ∃ t', execAdaptDone p report s = .next t' ∧ Keeps F s t' := by
  unfold execAdaptDone
  refine ⟨_, rfl, ?_⟩
  repeat' first
    | with_reducible assumption | (with_reducible refine Foot.Sub.up hF ?_; decide +kernel)
    | with_reducible apply State.when_keeps | with_reducible apply State.adaptEnd_keeps | intro x
    | with_reducible exact Keeps.refl _ _

def execBadOp_foot : Foot := Foot.join [State.cmd_foot, State.cmdEnd_foot]

theorem execBadOp_keeps (hF : Foot.Sub execBadOp_foot F) (p : Plane) (h : CmdHead) (op : Byte) (s : State) :
    ∃ t', execBadOp p h op s = .next t' ∧ Keeps F s t' := by
  unfold execBadOp
  refine ⟨_, rfl, ?_⟩
  repeat' first
    | with_reducible assumption | (with_reducible refine Foot.Sub.up hF ?_; decide +kernel)
    | with_reducible apply State.cmd_keeps | with_reducible apply State.cmdEnd_keeps | intro x
    | with_reducible exact Keeps.refl _ _

def State.hostGone_foot : Foot := Foot.join [foot [.hif] [], State.funcMode_foot, State.raise_foot,
  State.cantonEvent_foot]

theorem State.hostGone_keeps (hs : Keeps F S s) (hF : Foot.Sub State.hostGone_foot F) (p : Plane) (cause : Nat) :
    Keeps F S (State.hostGone s p cause) := by
  unfold State.hostGone
  repeat' first
    | with_reducible assumption | (with_reducible refine Foot.Sub.up hF ?_; decide +kernel)
    | ((first | intro x | (lift_lets; intro x))
       first
         | (refine Keeps.cut x ?_ (fun hx => ?_); rotate_left; clear_value x; rotate_left; unfold x)
         | clear_value x
         | skip)
    | with_reducible apply State.modHif_keeps | with_reducible apply State.funcMode_keeps
    | with_reducible apply State.raise_keeps | with_reducible apply State.cantonEvent_keeps
    | with_reducible apply Keeps.ite | with_reducible exact Keeps.refl _ _ | exact Nat.le_refl _

def execHostWatchdog_foot : Foot := State.hostGone_foot

theorem execHostWatchdog_keeps (hF : Foot.Sub execHostWatchdog_foot F) (p : Plane) (s : State) :
    ∃ t', execHostWatchdog p s = .next t' ∧ Keeps F s t' := by
  unfold execHostWatchdog
  refine ⟨_, rfl, ?_⟩
  repeat' first
    | with_reducible assumption | (with_reducible refine Foot.Sub.up hF ?_; decide +kernel)
    | with_reducible apply State.when_keeps | with_reducible apply State.hostGone_keeps | intro x
    | with_reducible exact Keeps.refl _ _

def execHostLinkLost_foot : Foot := State.hostGone_foot

theorem execHostLinkLost_keeps (hF : Foot.Sub execHostLinkLost_foot F) (p : Plane) (s : State) :
    ∃ t', execHostLinkLost p s = .next t' ∧ Keeps F s t' := by
  unfold execHostLinkLost
  refine ⟨_, rfl, ?_⟩
  repeat' first
    | with_reducible assumption | (with_reducible refine Foot.Sub.up hF ?_; decide +kernel)
    | with_reducible apply State.when_keeps | with_reducible apply State.hostGone_keeps | intro x
    | with_reducible exact Keeps.refl _ _

def execHostBack_foot : Foot := Foot.join [foot [.hif] [], State.cantonEvent_foot]

theorem execHostBack_keeps (hF : Foot.Sub execHostBack_foot F) (p : Plane) (s : State) :
    ∃ t', execHostBack p s = .next t' ∧ Keeps F s t' := by
  unfold execHostBack
  refine ⟨_, rfl, ?_⟩
  repeat' first
    | with_reducible assumption | (with_reducible refine Foot.Sub.up hF ?_; decide +kernel)
    | ((first | intro x | (lift_lets; intro x))
       first
         | (refine Keeps.cut x ?_ (fun hx => ?_); rotate_left; clear_value x; rotate_left; unfold x)
         | clear_value x
         | skip)
    | with_reducible apply State.when_keeps | with_reducible apply State.modHif_keeps
    | with_reducible apply State.cantonEvent_keeps | with_reducible apply Keeps.ite
    | with_reducible exact Keeps.refl _ _ | exact Nat.le_refl _

end Sys2Proof.Machine
end

