-- ==== Sys2Proof/Laws/KeepLate.lean ====
section
/-! SUPPORT. `Keeps` of the definitions of Machine/Late.lean, each with its footprint. -/

namespace Sys2Proof.Machine

set_option Elab.async false

variable {F : Foot} {S s : State}

def State.glMessage_foot : Foot := Foot.join [foot [] [.HIF_GL_CRC], State.glData_foot, State.glCmp_foot,
  State.snpInv_foot, State.mmioRead_foot, State.mmioWrite_foot]

theorem State.glMessage_keeps (hs : Keeps F S s) (hF : Foot.Sub State.glMessage_foot F) (h : Plane) (m : GlMsg) :
    Keeps F S (State.glMessage s h m) := by
  unfold State.glMessage
  repeat' first
    | with_reducible assumption | (with_reducible refine Foot.Sub.up hF ?_; decide +kernel)
    | with_reducible apply State.count_keeps | with_reducible apply State.glData_keeps
    | with_reducible apply State.glCmp_keeps | with_reducible apply State.snpInv_keeps
    | with_reducible apply State.mmioRead_keeps | with_reducible apply State.mmioWrite_keeps
    | with_reducible apply Keeps.ite | split | with_reducible exact Keeps.refl _ _

def State.glCredit_foot : Foot := State.modHalf_foot

theorem State.glCredit_keeps (hs : Keeps F S s) (hF : Foot.Sub State.glCredit_foot F) (h : Plane) (f : GlFlit) :
    Keeps F S (State.glCredit s h f) := by
  unfold State.glCredit
  repeat' first
    | with_reducible assumption | (with_reducible refine Foot.Sub.up hF ?_; decide +kernel)
    | with_reducible apply State.modHalf_keeps | intro x | with_reducible exact Keeps.refl _ _

def State.glTell_foot : Foot := State.glFlitOut_foot

theorem State.glTell_keeps (hs : Keeps F S s) (hF : Foot.Sub State.glTell_foot F) (h : Plane) (nak : Bool) :
    Keeps F S (State.glTell s h nak) := by
  unfold State.glTell
  repeat' first
    | with_reducible assumption | (with_reducible refine Foot.Sub.up hF ?_; decide +kernel)
    | with_reducible apply State.when_keeps | with_reducible apply State.glFlitOut_keeps | intro x
    | with_reducible exact Keeps.refl _ _

def State.glFlitIn_foot : Foot := Foot.join [foot [] [.HIF_GL_CRC], State.glAck_foot, State.glCredit_foot,
  State.modHalf_foot, State.glMessage_foot, State.glTell_foot, State.cmdSettle_foot, State.glPump_foot]

theorem State.glFlitIn_keeps (hs : Keeps F S s) (hF : Foot.Sub State.glFlitIn_foot F) (h : Plane) (f : GlFlit) :
    Keeps F S (State.glFlitIn s h f) := by
  unfold State.glFlitIn
  repeat' first
    | with_reducible assumption | (with_reducible refine Foot.Sub.up hF ?_; decide +kernel)
    | ((first | intro x | (lift_lets; intro x))
       first
         | (refine Keeps.cut x ?_ (fun hx => ?_); rotate_left; clear_value x; rotate_left; unfold x)
         | clear_value x
         | skip)
    | with_reducible apply State.each_keeps | with_reducible apply State.both_keeps
    | with_reducible apply State.count_keeps | with_reducible apply State.glAck_keeps
    | with_reducible apply State.glCredit_keeps | with_reducible apply State.modHalf_keeps
    | with_reducible apply State.glMessage_keeps | with_reducible apply State.glTell_keeps
    | with_reducible apply State.cmdSettle_keeps | with_reducible apply State.glPump_keeps
    | with_reducible apply Keeps.ite | with_reducible exact Keeps.refl _ _

def execGlFlit_foot : Foot := Foot.join [State.glFlitIn_foot, State.glBringup_foot]

theorem execGlFlit_keeps (hF : Foot.Sub execGlFlit_foot F) (half : Plane) (f : GlFlit) (s : State) :
    ∃ t', execGlFlit half f s = .next t' ∧ Keeps F s t' := by
  unfold execGlFlit
  refine ⟨_, rfl, ?_⟩
  repeat' first
    | with_reducible assumption | (with_reducible refine Foot.Sub.up hF ?_; decide +kernel)
    | with_reducible apply State.when_keeps | with_reducible apply State.glFlitIn_keeps
    | with_reducible apply State.glBringup_keeps | intro x | with_reducible apply Keeps.ite
    | with_reducible exact Keeps.refl _ _

def execPacketIngress_foot : Foot := Foot.join [State.escCheck_foot, State.ingress_foot, State.cantonTakes_foot]

theorem execPacketIngress_keeps (hF : Foot.Sub execPacketIngress_foot F) (p : Plane) (i : Fin 576)
    (pkt : Packet) (bad : Bool) (unknown got : Nat) (more : Bool) (s : State) :
    ∃ t', execPacketIngress p i pkt bad unknown got more s = .next t' ∧ Keeps F s t' := by
  unfold execPacketIngress
  refine ⟨_, rfl, ?_⟩
  repeat' first
    | with_reducible assumption | (with_reducible refine Foot.Sub.up hF ?_; decide +kernel)
    | with_reducible apply State.when_keeps | with_reducible apply State.escCheck_keeps
    | with_reducible apply State.ingress_keeps | with_reducible apply State.cantonTakes_keeps | intro x
    | with_reducible exact Keeps.refl _ _

def execPacketTransmit_foot : Foot := Foot.join [State.escCheck_foot, State.transmit_foot, State.cantonTakes_foot]

theorem execPacketTransmit_keeps (hF : Foot.Sub execPacketTransmit_foot F) (p : Plane) (code : Code) (s : State) :
    ∃ t', execPacketTransmit p code s = .next t' ∧ Keeps F s t' := by
  unfold execPacketTransmit
  refine ⟨_, rfl, ?_⟩
  repeat' first
    | with_reducible assumption | (with_reducible refine Foot.Sub.up hF ?_; decide +kernel)
    | with_reducible apply State.when_keeps | with_reducible apply State.escCheck_keeps
    | with_reducible apply State.transmit_keeps | with_reducible apply State.cantonTakes_keeps | intro x
    | with_reducible exact Keeps.refl _ _

def execWhFallback_foot : Foot := Foot.join [State.fallback_foot, State.cantonTakes_foot]

theorem execWhFallback_keeps (hF : Foot.Sub execWhFallback_foot F) (p : Plane) (i : Fin 576) (vc : Fin 9)
    (s : State) :
    ∃ t', execWhFallback p i vc s = .next t' ∧ Keeps F s t' := by
  unfold execWhFallback
  refine ⟨_, rfl, ?_⟩
  repeat' first
    | with_reducible assumption | (with_reducible refine Foot.Sub.up hF ?_; decide +kernel)
    | with_reducible apply State.when_keeps | with_reducible apply State.fallback_keeps
    | with_reducible apply State.cantonTakes_keeps | intro x | with_reducible exact Keeps.refl _ _

def execSentBlock_foot : Foot := Foot.join [State.escCheck_foot, State.sentIn_foot]

theorem execSentBlock_keeps (hF : Foot.Sub execSentBlock_foot F) (p : Plane) (i : Fin 576)
    (counts : List (BitVec 16)) (rsv : Bool) (s : State) :
    ∃ t', execSentBlock p i counts rsv s = .next t' ∧ Keeps F s t' := by
  unfold execSentBlock
  refine ⟨_, rfl, ?_⟩
  repeat' first
    | with_reducible assumption | (with_reducible refine Foot.Sub.up hF ?_; decide +kernel)
    | with_reducible apply State.when_keeps | with_reducible apply State.escCheck_keeps
    | with_reducible apply State.sentIn_keeps | intro x | with_reducible exact Keeps.refl _ _

def execCellArrival_foot : Foot := Foot.join [State.escCheck_foot, State.cellIn_foot]

theorem execCellArrival_keeps (hF : Foot.Sub execCellArrival_foot F) (p : Plane) (src dst : Fin 46)
    (pseq : BitVec 12) (hec : Bool) (s : State) :
    ∃ t', execCellArrival p src dst pseq hec s = .next t' ∧ Keeps F s t' := by
  unfold execCellArrival
  refine ⟨_, rfl, ?_⟩
  repeat' first
    | with_reducible assumption | (with_reducible refine Foot.Sub.up hF ?_; decide +kernel)
    | with_reducible apply State.when_keeps | with_reducible apply State.escCheck_keeps
    | with_reducible apply State.cellIn_keeps | intro x | with_reducible exact Keeps.refl _ _

def execReseqLoss_foot : Foot := Foot.join [State.escCheck_foot, State.reseqLoss_foot]

theorem execReseqLoss_keeps (hF : Foot.Sub execReseqLoss_foot F) (p : Plane) (src dst : Fin 46) (s : State) :
    ∃ t', execReseqLoss p src dst s = .next t' ∧ Keeps F s t' := by
  unfold execReseqLoss
  refine ⟨_, rfl, ?_⟩
  repeat' first
    | with_reducible assumption | (with_reducible refine Foot.Sub.up hF ?_; decide +kernel)
    | with_reducible apply State.when_keeps | with_reducible apply State.escCheck_keeps
    | with_reducible apply State.reseqLoss_keeps | intro x | with_reducible exact Keeps.refl _ _

end Sys2Proof.Machine
end

