-- ==== Sys2Proof/Laws/KeepLineIn.lean ====
section
/-! SUPPORT. `Keeps` of the definitions of Machine/LineIn.lean, each with its footprint. -/

namespace Sys2Proof.Machine

set_option Elab.async false

variable {F : Foot} {S s : State}

def State.linkIn_foot : Foot := Foot.join [State.creditIn_foot, State.sentIn_foot, State.syncIn_foot,
  State.dreqIn_foot, State.drespIn_foot]

theorem State.linkIn_keeps (hs : Keeps F S s) (hF : Foot.Sub State.linkIn_foot F) (p : Plane) (i : Nat)
    (b : Bytes) :
    Keeps F S (State.linkIn s p i b) := by
  unfold State.linkIn
  repeat' first
    | with_reducible assumption | (with_reducible refine Foot.Sub.up hF ?_; decide +kernel)
    | ((first | intro x | (lift_lets; intro x))
       first
         | (refine Keeps.cut x ?_ (fun hx => ?_); rotate_left; clear_value x; rotate_left; unfold x)
         | clear_value x
         | skip)
    | with_reducible apply State.creditIn_keeps | with_reducible apply State.sentIn_keeps
    | with_reducible apply State.syncIn_keeps | with_reducible apply State.dreqIn_keeps
    | with_reducible apply State.drespIn_keeps | with_reducible apply Keeps.ite
    | with_reducible exact Keeps.refl _ _

def State.asmEnd_foot : Foot := Foot.join [State.ingress_foot, State.cantonTakes_foot, State.modStream_foot]

theorem State.asmEnd_keeps (hs : Keeps F S s) (hF : Foot.Sub State.asmEnd_foot F) (p : Plane) (i : Nat)
    (b : Bytes) (bad : Bool) (unknown : Nat) :
    Keeps F S (State.asmEnd s p i b bad unknown) := by
  unfold State.asmEnd
  repeat' first
    | with_reducible assumption | (with_reducible refine Foot.Sub.up hF ?_; decide +kernel)
    | with_reducible apply State.ingress_keeps | with_reducible apply State.cantonTakes_keeps
    | with_reducible apply State.modStream_keeps | intro x | with_reducible exact Keeps.refl _ _

def State.badBlock_foot : Foot := Foot.join [foot [] [.LNE_BADBLK], State.asmEnd_foot]

theorem State.badBlock_keeps (hs : Keeps F S s) (hF : Foot.Sub State.badBlock_foot F) (p : Plane)
    (i unknown : Nat) :
    Keeps F S (State.badBlock s p i unknown) := by
  unfold State.badBlock
  repeat' first
    | with_reducible assumption | (with_reducible refine Foot.Sub.up hF ?_; decide +kernel)
    | with_reducible apply State.countN_keeps | with_reducible apply State.asmEnd_keeps | split
    | with_reducible exact Keeps.refl _ _

def State.dataIn_foot : Foot := Foot.join [State.asmEnd_foot, State.modStream_foot]

theorem State.dataIn_keeps (hs : Keeps F S s) (hF : Foot.Sub State.dataIn_foot F) (p : Plane) (i : Nat)
    (d : Bytes) :
    Keeps F S (State.dataIn s p i d) := by
  unfold State.dataIn
  repeat' first
    | with_reducible assumption | (with_reducible refine Foot.Sub.up hF ?_; decide +kernel)
    | ((first | intro x | (lift_lets; intro x))
       first
         | (refine Keeps.cut x ?_ (fun hx => ?_); rotate_left; clear_value x; rotate_left; unfold x)
         | clear_value x
         | skip)
    | with_reducible apply State.asmEnd_keeps | with_reducible apply State.modStream_keeps
    | with_reducible apply Keeps.ite | split | with_reducible exact Keeps.refl _ _

def State.portBlockIn_foot : Foot := Foot.join [State.badBlock_foot, State.dataIn_foot, State.modStream_foot,
  State.sopIn_foot, State.linkIn_foot]

theorem State.portBlockIn_keeps (hs : Keeps F S s) (hF : Foot.Sub State.portBlockIn_foot F) (p : Plane)
    (i : Nat) (x : Option Block) :
    Keeps F S (State.portBlockIn s p i x) := by
  unfold State.portBlockIn
  repeat' first
    | with_reducible assumption | (with_reducible refine Foot.Sub.up hF ?_; decide +kernel)
    | ((first | intro x | (lift_lets; intro x))
       first
         | (refine Keeps.cut x ?_ (fun hx => ?_); rotate_left; clear_value x; rotate_left; unfold x)
         | clear_value x
         | skip)
    | with_reducible apply State.badBlock_keeps | with_reducible apply State.dataIn_keeps
    | with_reducible apply State.modStream_keeps | with_reducible apply State.sopIn_keeps
    | with_reducible apply State.linkIn_keeps | with_reducible apply Keeps.ite | split
    | with_reducible exact Keeps.refl _ _

def State.slotIn_foot : Foot := Foot.join [State.widthIn_foot, State.lpiIn_foot]

theorem State.slotIn_keeps (hs : Keeps F S s) (hF : Foot.Sub State.slotIn_foot F) (p : Plane) (i : Nat)
    (b : Block) :
    Keeps F S (State.slotIn s p i b) := by
  unfold State.slotIn
  repeat' first
    | with_reducible assumption | (with_reducible refine Foot.Sub.up hF ?_; decide +kernel)
    | ((first | intro x | (lift_lets; intro x))
       first
         | (refine Keeps.cut x ?_ (fun hx => ?_); rotate_left; clear_value x; rotate_left; unfold x)
         | clear_value x
         | skip)
    | with_reducible apply State.widthIn_keeps | with_reducible apply State.lpiIn_keeps
    | with_reducible apply Keeps.ite | with_reducible exact Keeps.refl _ _

def State.popItem_foot : Foot := State.modWire_foot

theorem State.popItem_keeps (hs : Keeps F S s) (hF : Foot.Sub State.popItem_foot F) (p : Plane) (l : Nat) :
    Keeps F S (State.popItem s p l) := by
  unfold State.popItem
  repeat' first
    | with_reducible assumption | (with_reducible refine Foot.Sub.up hF ?_; decide +kernel)
    | with_reducible apply State.modWire_keeps | intro x | with_reducible exact Keeps.refl _ _

def State.rowIn_foot : Foot := Foot.join [State.popItem_foot, State.slotIn_foot, State.portBlockIn_foot]

theorem State.rowIn_keeps (hs : Keeps F S s) (hF : Foot.Sub State.rowIn_foot F) (p : Plane) (i : Nat)
    (lanes live : List Nat) :
    Keeps F S (State.rowIn s p i lanes live) := by
  unfold State.rowIn
  repeat' first
    | with_reducible assumption | (with_reducible refine Foot.Sub.up hF ?_; decide +kernel)
    | ((first | intro x | (lift_lets; intro x))
       first
         | (refine Keeps.cut x ?_ (fun hx => ?_); rotate_left; clear_value x; rotate_left; unfold x)
         | (refine Keeps.cutF x ?_ (fun hx => ?_); rotate_left; clear_value x; rotate_left; unfold x)
         | (refine Keeps.cutG x ?_ (fun hx => ?_); rotate_left; clear_value x; rotate_left; unfold x)
         | (refine Keeps.cutH x ?_ (fun hx => ?_); rotate_left; clear_value x; rotate_left; unfold x)
         | clear_value x
         | skip)
    | with_reducible apply State.each_keeps | with_reducible apply State.popItem_keeps
    | with_reducible apply State.slotIn_keeps | with_reducible apply State.portBlockIn_keeps
    | with_reducible apply State.foldl_keeps | with_reducible apply State.foldl_snd
    | with_reducible apply State.foldl_snd2 | with_reducible refine Keeps.appF ?_ (by assumption)
    | with_reducible refine Keeps.appG ?_ (by assumption) | with_reducible refine Keeps.appH ?_ (by assumption)
    | with_reducible apply Keeps.ite | split | with_reducible exact Keeps.refl _ _

def State.rowsIn_foot : Foot := State.rowIn_foot

theorem State.rowsIn_keeps (hs : Keeps F S s) (hF : Foot.Sub State.rowsIn_foot F) (n : Nat) (a1 : Plane)
    (a2 : Nat) :
    Keeps F S (State.rowsIn n s a1 a2) := by
  induction n generalizing s a1 a2 with
  | zero => unfold State.rowsIn; exact hs
  | succ n ih =>
    unfold State.rowsIn
    repeat' first
      | with_reducible assumption | (with_reducible refine Foot.Sub.up hF ?_; decide +kernel)
      | ((first | intro x | (lift_lets; intro x))
         first
           | (refine Keeps.cut x ?_ (fun hx => ?_); rotate_left; clear_value x; rotate_left; unfold x)
           | clear_value x
           | skip)
      | with_reducible apply ih | with_reducible apply State.rowIn_keeps | with_reducible apply Keeps.ite | split
      | with_reducible exact Keeps.refl _ _

def State.codewordIn_foot : Foot := foot [] [.LNE_FEC_UNCORR, .LNE_FEC_SYMERR, .LNE_FEC_CORR]

theorem State.codewordIn_keeps (hs : Keeps F S s) (hF : Foot.Sub State.codewordIn_foot F) (p : Plane) (l : Nat)
    (c : Option Nat) :
    Keeps F S (State.codewordIn s p l c) := by
  unfold State.codewordIn
  repeat' first
    | with_reducible assumption | (with_reducible refine Foot.Sub.up hF ?_; decide +kernel)
    | with_reducible apply State.count_keeps | with_reducible apply State.countN_keeps | split
    | with_reducible exact Keeps.refl _ _

def State.pairOutcome_foot : Foot := Foot.join [State.codewordIn_foot, State.modLane_foot, State.laneFail_foot]

theorem State.pairOutcome_keeps (hs : Keeps F S s) (hF : Foot.Sub State.pairOutcome_foot F) (p : Plane)
    (i l : Nat) (a b : Option Nat) :
    Keeps F S (State.pairOutcome s p i l a b) := by
  unfold State.pairOutcome
  repeat' first
    | with_reducible assumption | (with_reducible refine Foot.Sub.up hF ?_; decide +kernel)
    | ((first | intro x | (lift_lets; intro x))
       first
         | (refine Keeps.cut x ?_ (fun hx => ?_); rotate_left; clear_value x; rotate_left; unfold x)
         | clear_value x
         | skip)
    | with_reducible apply State.codewordIn_keeps | with_reducible apply State.modLane_keeps
    | with_reducible apply State.laneFail_keeps | with_reducible apply Keeps.ite
    | with_reducible exact Keeps.refl _ _

def State.blockAt_foot : Foot := Foot.join [State.modWire_foot, State.markerIn_foot, State.ensignIn_foot]

theorem State.blockAt_keeps (hs : Keeps F S s) (hF : Foot.Sub State.blockAt_foot F) (p : Plane) (i l : Nat)
    (e : Block × Nat) (skew : Nat) :
    Keeps F S (State.blockAt s p i l e skew) := by
  unfold State.blockAt
  repeat' first
    | with_reducible assumption | (with_reducible refine Foot.Sub.up hF ?_; decide +kernel)
    | ((first | intro x | (lift_lets; intro x))
       first
         | (refine Keeps.cut x ?_ (fun hx => ?_); rotate_left; clear_value x; rotate_left; unfold x)
         | (refine Keeps.cutF x ?_ (fun hx => ?_); rotate_left; clear_value x; rotate_left; unfold x)
         | (refine Keeps.cutG x ?_ (fun hx => ?_); rotate_left; clear_value x; rotate_left; unfold x)
         | (refine Keeps.cutH x ?_ (fun hx => ?_); rotate_left; clear_value x; rotate_left; unfold x)
         | clear_value x
         | skip)
    | with_reducible apply State.modWire_keeps | with_reducible apply State.markerIn_keeps
    | with_reducible apply State.ensignIn_keeps | with_reducible refine Keeps.appF ?_ (by assumption)
    | with_reducible refine Keeps.appG ?_ (by assumption) | with_reducible refine Keeps.appH ?_ (by assumption)
    | with_reducible apply Keeps.ite | with_reducible refine Keeps.snd ?_ (by assumption) | split
    | with_reducible exact Keeps.refl _ _

def State.pairLevels_foot : Foot := Foot.join [State.modWire_foot, State.pairOutcome_foot, State.blockAt_foot,
  State.rowsIn_foot]

theorem State.pairLevels_keeps (hs : Keeps F S s) (hF : Foot.Sub State.pairLevels_foot F) (p : Plane)
    (i l : Nat) (levels : List Nat) (skew : Nat) :
    Keeps F S (State.pairLevels s p i l levels skew) := by
  unfold State.pairLevels
  repeat' first
    | with_reducible assumption | (with_reducible refine Foot.Sub.up hF ?_; decide +kernel)
    | ((first | intro x | (lift_lets; intro x))
       first
         | (refine Keeps.cut x ?_ (fun hx => ?_); rotate_left; clear_value x; rotate_left; unfold x)
         | clear_value x
         | skip)
    | with_reducible apply State.each_keeps | with_reducible apply State.modWire_keeps
    | with_reducible apply State.pairOutcome_keeps | with_reducible apply State.blockAt_keeps
    | with_reducible apply State.rowsIn_keeps | with_reducible apply Keeps.ite | split
    | with_reducible exact Keeps.refl _ _

def State.pairOnly_foot : Foot := Foot.join [State.pairOutcome_foot, State.modLink_foot, State.modStream_foot]

theorem State.pairOnly_keeps (hs : Keeps F S s) (hF : Foot.Sub State.pairOnly_foot F) (p : Plane) (i l : Nat)
    (a b : Option Nat) :
    Keeps F S (State.pairOnly s p i l a b) := by
  unfold State.pairOnly
  repeat' first
    | with_reducible assumption | (with_reducible refine Foot.Sub.up hF ?_; decide +kernel)
    | ((first | intro x | (lift_lets; intro x))
       first
         | (refine Keeps.cut x ?_ (fun hx => ?_); rotate_left; clear_value x; rotate_left; unfold x)
         | clear_value x
         | skip)
    | with_reducible apply State.pairOutcome_keeps | with_reducible apply State.modLink_keeps
    | with_reducible apply State.modStream_keeps | with_reducible apply Keeps.ite
    | with_reducible exact Keeps.refl _ _

def State.checkIn_foot : Foot := Foot.join [foot [] [.LNE_PRBS_ERR, .LNE_LANE_STAT], State.modWire_foot]

theorem State.checkIn_keeps (hs : Keeps F S s) (hF : Foot.Sub State.checkIn_foot F) (p : Plane) (l : Nat)
    (levels : List Nat) :
    Keeps F S (State.checkIn s p l levels) := by
  unfold State.checkIn
  repeat' first
    | with_reducible assumption | (with_reducible refine Foot.Sub.up hF ?_; decide +kernel)
    | ((first | intro x | (lift_lets; intro x))
       first
         | (refine Keeps.cut x ?_ (fun hx => ?_); rotate_left; clear_value x; rotate_left; unfold x)
         | clear_value x
         | skip)
    | with_reducible apply State.setWords_keeps | with_reducible apply State.setFlag_keeps
    | with_reducible apply State.modWire_keeps | with_reducible apply State.foldl_keeps
    | with_reducible apply State.foldl_snd | with_reducible apply State.foldl_snd2 | split
    | with_reducible exact Keeps.refl _ _

def State.levelsIn_foot : Foot := Foot.join [State.modWire_foot, State.drive_foot]

theorem State.levelsIn_keeps (hs : Keeps F S s) (hF : Foot.Sub State.levelsIn_foot F) (p : Plane) (l : Nat)
    (levels : List Nat) :
    Keeps F S (State.levelsIn s p l levels).2 := by
  unfold State.levelsIn
  repeat' first
    | with_reducible assumption | (with_reducible refine Foot.Sub.up hF ?_; decide +kernel)
    | ((first | intro x | (lift_lets; intro x))
       first
         | (refine Keeps.cut x ?_ (fun hx => ?_); rotate_left; clear_value x; rotate_left; unfold x)
         | clear_value x
         | skip)
    | with_reducible apply State.modWire_keeps | with_reducible apply State.drive_keeps
    | with_reducible apply Keeps.ite | with_reducible apply Keeps.ite_snd | split
    | with_reducible exact Keeps.refl _ _

def State.laneIn_foot : Foot := Foot.join [State.levelsIn_foot, State.pairLevels_foot, State.checkIn_foot]

theorem State.laneIn_keeps (hs : Keeps F S s) (hF : Foot.Sub State.laneIn_foot F) (p : Plane) (l : Nat)
    (levels : List Nat) (skew : Nat) :
    Keeps F S (State.laneIn s p l levels skew) := by
  unfold State.laneIn
  repeat' first
    | with_reducible assumption | (with_reducible refine Foot.Sub.up hF ?_; decide +kernel)
    | ((first | intro x | (lift_lets; intro x))
       first
         | (refine Keeps.cut x ?_ (fun hx => ?_); rotate_left; clear_value x; rotate_left; unfold x)
         | clear_value x
         | skip)
    | with_reducible apply State.levelsIn_keeps | with_reducible apply State.pairLevels_keeps
    | with_reducible apply State.checkIn_keeps | with_reducible apply Keeps.ite
    | with_reducible refine Keeps.snd ?_ (by assumption) | split | with_reducible exact Keeps.refl _ _

def execCodewordPair_foot : Foot := Foot.join [State.pairOnly_foot, State.escCheck_foot, State.laneIn_foot]

theorem execCodewordPair_keeps (hF : Foot.Sub execCodewordPair_foot F) (p : Plane) (lane : Fin 576) (r : PairRx)
    (s : State) :
    ∃ t', execCodewordPair p lane r s = .next t' ∧ Keeps F s t' := by
  unfold execCodewordPair
  refine ⟨_, rfl, ?_⟩
  repeat' first
    | with_reducible assumption | (with_reducible refine Foot.Sub.up hF ?_; decide +kernel)
    | with_reducible apply State.when_keeps | with_reducible apply State.onLane_keeps
    | with_reducible apply State.pairOnly_keeps | with_reducible apply State.escCheck_keeps
    | with_reducible apply State.laneIn_keeps | intro x | split | with_reducible exact Keeps.refl _ _

end Sys2Proof.Machine
end

