-- ==== Sys2Proof/Laws/KeepTap.lean ====
section
/-! SUPPORT. `Keeps` of the definitions of Machine/Tap.lean, each with its footprint. -/

namespace Sys2Proof.Machine

set_option Elab.async false

variable {F : Foot} {S s : State}

def State.tapLoad_foot : Foot := foot [.pkg] []

theorem State.tapLoad_keeps (hs : Keeps F S s) (hF : Foot.Sub State.tapLoad_foot F) (code : Byte)
    (out : List Bool) :
    Keeps F S (State.tapLoad s code out) := by
  unfold State.tapLoad
  repeat' first
    | with_reducible assumption | (with_reducible refine Foot.Sub.up hF ?_; decide +kernel)
    | with_reducible apply State.modPkg_keeps | intro x | with_reducible exact Keeps.refl _ _

def State.tapBypass_foot : Foot := State.tapLoad_foot

theorem State.tapBypass_keeps (hs : Keeps F S s) (hF : Foot.Sub State.tapBypass_foot F) (code : Byte) :
    Keeps F S (State.tapBypass s code) := by
  unfold State.tapBypass
  repeat' first
    | with_reducible assumption | (with_reducible refine Foot.Sub.up hF ?_; decide +kernel)
    | with_reducible apply State.tapLoad_keeps | with_reducible exact Keeps.refl _ _

def State.pinLevels_foot : Foot := foot [.free] []

theorem State.pinLevels_keeps (hs : Keeps F S s) (hF : Foot.Sub State.pinLevels_foot F) (n : Nat) :
    Keeps F S (State.pinLevels s n).2 := by
  unfold State.pinLevels
  repeat' first
    | with_reducible assumption | (with_reducible refine Foot.Sub.up hF ?_; decide +kernel)
    | ((first | intro x | (lift_lets; intro x))
       first
         | (refine Keeps.cut x ?_ (fun hx => ?_); rotate_left; clear_value x; rotate_left; unfold x)
         | clear_value x
         | skip)
    | with_reducible apply State.takeFree_keeps | with_reducible refine Keeps.snd ?_ (by assumption) | split
    | with_reducible exact Keeps.refl _ _

def State.extest_foot : Foot := Foot.join [State.tapBypass_foot, State.pinLevels_foot, State.tapLoad_foot]

theorem State.extest_keeps (hs : Keeps F S s) (hF : Foot.Sub State.extest_foot F) (code : Byte) :
    Keeps F S (State.extest s code) := by
  unfold State.extest
  repeat' first
    | with_reducible assumption | (with_reducible refine Foot.Sub.up hF ?_; decide +kernel)
    | ((first | intro x | (lift_lets; intro x))
       first
         | (refine Keeps.cut x ?_ (fun hx => ?_); rotate_left; clear_value x; rotate_left; unfold x)
         | clear_value x
         | skip)
    | with_reducible apply State.tapBypass_keeps | with_reducible apply State.pinLevels_keeps
    | with_reducible apply State.tapLoad_keeps | with_reducible apply Keeps.ite
    | with_reducible refine Keeps.snd ?_ (by assumption) | split | with_reducible exact Keeps.refl _ _

def execExtest_foot : Foot := State.extest_foot

theorem execExtest_keeps (hF : Foot.Sub execExtest_foot F) (s : State) :
    ∃ t', execExtest s = .next t' ∧ Keeps F s t' := by
  unfold execExtest
  refine ⟨_, rfl, ?_⟩
  repeat' first
    | with_reducible assumption | (with_reducible refine Foot.Sub.up hF ?_; decide +kernel)
    | with_reducible apply State.extest_keeps | with_reducible exact Keeps.refl _ _

def State.samplePreload_foot : Foot := Foot.join [foot [.pkg] [], State.pinLevels_foot, State.tapLoad_foot]

theorem State.samplePreload_keeps (hs : Keeps F S s) (hF : Foot.Sub State.samplePreload_foot F)
    (cells : List Bool) :
    Keeps F S (State.samplePreload s cells) := by
  unfold State.samplePreload
  repeat' first
    | with_reducible assumption | (with_reducible refine Foot.Sub.up hF ?_; decide +kernel)
    | ((first | intro x | (lift_lets; intro x))
       first
         | (refine Keeps.cut x ?_ (fun hx => ?_); rotate_left; clear_value x; rotate_left; unfold x)
         | clear_value x
         | skip)
    | with_reducible apply State.modPkg_keeps | with_reducible apply State.pinLevels_keeps
    | with_reducible apply State.tapLoad_keeps | with_reducible refine Keeps.snd ?_ (by assumption) | split
    | with_reducible exact Keeps.refl _ _

def execSamplePreload_foot : Foot := State.samplePreload_foot

theorem execSamplePreload_keeps (hF : Foot.Sub execSamplePreload_foot F) (cells : List Bool) (s : State) :
    ∃ t', execSamplePreload cells s = .next t' ∧ Keeps F s t' := by
  unfold execSamplePreload
  refine ⟨_, rfl, ?_⟩
  repeat' first
    | with_reducible assumption | (with_reducible refine Foot.Sub.up hF ?_; decide +kernel)
    | with_reducible apply State.samplePreload_keeps | with_reducible exact Keeps.refl _ _

def execIdcode_foot : Foot := State.tapLoad_foot

theorem execIdcode_keeps (hF : Foot.Sub execIdcode_foot F) (s : State) :
    ∃ t', execIdcode s = .next t' ∧ Keeps F s t' := by
  unfold execIdcode
  refine ⟨_, rfl, ?_⟩
  repeat' first
    | with_reducible assumption | (with_reducible refine Foot.Sub.up hF ?_; decide +kernel)
    | with_reducible apply State.tapLoad_keeps | with_reducible exact Keeps.refl _ _

def execClamp_foot : Foot := State.tapBypass_foot

theorem execClamp_keeps (hF : Foot.Sub execClamp_foot F) (s : State) :
    ∃ t', execClamp s = .next t' ∧ Keeps F s t' := by
  unfold execClamp
  refine ⟨_, rfl, ?_⟩
  repeat' first
    | with_reducible assumption | (with_reducible refine Foot.Sub.up hF ?_; decide +kernel)
    | with_reducible apply State.tapBypass_keeps | with_reducible exact Keeps.refl _ _

def execHighz_foot : Foot := State.tapBypass_foot

theorem execHighz_keeps (hF : Foot.Sub execHighz_foot F) (s : State) :
    ∃ t', execHighz s = .next t' ∧ Keeps F s t' := by
  unfold execHighz
  refine ⟨_, rfl, ?_⟩
  repeat' first
    | with_reducible assumption | (with_reducible refine Foot.Sub.up hF ?_; decide +kernel)
    | with_reducible apply State.tapBypass_keeps | with_reducible exact Keeps.refl _ _

def execExtestPulse_foot : Foot := State.extest_foot

theorem execExtestPulse_keeps (hF : Foot.Sub execExtestPulse_foot F) (s : State) :
    ∃ t', execExtestPulse s = .next t' ∧ Keeps F s t' := by
  unfold execExtestPulse
  refine ⟨_, rfl, ?_⟩
  repeat' first
    | with_reducible assumption | (with_reducible refine Foot.Sub.up hF ?_; decide +kernel)
    | with_reducible apply State.extest_keeps | with_reducible exact Keeps.refl _ _

def execExtestTrain_foot : Foot := State.extest_foot

theorem execExtestTrain_keeps (hF : Foot.Sub execExtestTrain_foot F) (s : State) :
    ∃ t', execExtestTrain s = .next t' ∧ Keeps F s t' := by
  unfold execExtestTrain
  refine ⟨_, rfl, ?_⟩
  repeat' first
    | with_reducible assumption | (with_reducible refine Foot.Sub.up hF ?_; decide +kernel)
    | with_reducible apply State.extest_keeps | with_reducible exact Keeps.refl _ _

def execBypass_foot : Foot := State.tapBypass_foot

theorem execBypass_keeps (hF : Foot.Sub execBypass_foot F) (s : State) :
    ∃ t', execBypass s = .next t' ∧ Keeps F s t' := by
  unfold execBypass
  refine ⟨_, rfl, ?_⟩
  repeat' first
    | with_reducible assumption | (with_reducible refine Foot.Sub.up hF ?_; decide +kernel)
    | with_reducible apply State.tapBypass_keeps | with_reducible exact Keeps.refl _ _

def State.readOut_foot : Foot := State.tapBypass_foot

theorem State.readOut_keeps (hs : Keeps F S s) (hF : Foot.Sub State.readOut_foot F) (code : Byte)
    (f : State → State) (hf : ∀ s, Keeps F s (f s)) :
    Keeps F S (State.readOut s code f) := by
  unfold State.readOut
  repeat' first
    | with_reducible assumption | (with_reducible refine Foot.Sub.up hF ?_; decide +kernel)
    | with_reducible apply State.tapBypass_keeps | with_reducible refine Keeps.trans ?_ (hf ..)
    | with_reducible apply Keeps.ite | with_reducible exact Keeps.refl _ _

def execFrzStatus_foot : Foot := Foot.join [State.readOut_foot, State.tapLoad_foot]

theorem execFrzStatus_keeps (hF : Foot.Sub execFrzStatus_foot F) (s : State) :
    ∃ t', execFrzStatus s = .next t' ∧ Keeps F s t' := by
  unfold execFrzStatus
  refine ⟨_, rfl, ?_⟩
  repeat' first
    | with_reducible assumption | (with_reducible refine Foot.Sub.up hF ?_; decide +kernel)
    | with_reducible apply State.readOut_keeps | with_reducible apply State.tapLoad_keeps | intro x
    | with_reducible exact Keeps.refl _ _

def State.frzDir_foot : Foot := Foot.join [foot [.free] [], State.tapLoad_foot]

theorem State.frzDir_keeps (hs : Keeps F S s) (hF : Foot.Sub State.frzDir_foot F) :
    Keeps F S (State.frzDir s) := by
  unfold State.frzDir
  repeat' first
    | with_reducible assumption | (with_reducible refine Foot.Sub.up hF ?_; decide +kernel)
    | ((first | intro x | (lift_lets; intro x))
       first
         | (refine Keeps.cut x ?_ (fun hx => ?_); rotate_left; clear_value x; rotate_left; unfold x)
         | clear_value x
         | skip)
    | with_reducible apply State.takeFree_keeps | with_reducible apply State.tapLoad_keeps
    | with_reducible refine Keeps.snd ?_ (by assumption) | split | with_reducible exact Keeps.refl _ _

def execFrzDir_foot : Foot := Foot.join [State.readOut_foot, State.frzDir_foot]

theorem execFrzDir_keeps (hF : Foot.Sub execFrzDir_foot F) (s : State) :
    ∃ t', execFrzDir s = .next t' ∧ Keeps F s t' := by
  unfold execFrzDir
  refine ⟨_, rfl, ?_⟩
  repeat' first
    | with_reducible assumption | (with_reducible refine Foot.Sub.up hF ?_; decide +kernel)
    | with_reducible apply State.readOut_keeps | with_reducible apply State.frzDir_keeps | intro x
    | with_reducible exact Keeps.refl _ _

def State.frzChain_foot : Foot := Foot.join [foot [.free] [], State.tapLoad_foot]

theorem State.frzChain_keeps (hs : Keeps F S s) (hF : Foot.Sub State.frzChain_foot F) (sel : Nat) :
    Keeps F S (State.frzChain s sel) := by
  unfold State.frzChain
  repeat' first
    | with_reducible assumption | (with_reducible refine Foot.Sub.up hF ?_; decide +kernel)
    | ((first | intro x | (lift_lets; intro x))
       first
         | (refine Keeps.cut x ?_ (fun hx => ?_); rotate_left; clear_value x; rotate_left; unfold x)
         | clear_value x
         | skip)
    | with_reducible apply State.takeFree_keeps | with_reducible apply State.tapLoad_keeps
    | with_reducible apply Keeps.ite | with_reducible refine Keeps.snd ?_ (by assumption) | split
    | with_reducible exact Keeps.refl _ _

def execFrzChain_foot : Foot := Foot.join [State.readOut_foot, State.frzChain_foot]

theorem execFrzChain_keeps (hF : Foot.Sub execFrzChain_foot F) (sel : BitVec 17) (s : State) :
    ∃ t', execFrzChain sel s = .next t' ∧ Keeps F s t' := by
  unfold execFrzChain
  refine ⟨_, rfl, ?_⟩
  repeat' first
    | with_reducible assumption | (with_reducible refine Foot.Sub.up hF ?_; decide +kernel)
    | with_reducible apply State.readOut_keeps | with_reducible apply State.frzChain_keeps | intro x
    | with_reducible exact Keeps.refl _ _

def State.frzMem_foot : Foot := Foot.join [foot [.free] [], State.tapLoad_foot]

theorem State.frzMem_keeps (hs : Keeps F S s) (hF : Foot.Sub State.frzMem_foot F) (sel : Nat) :
    Keeps F S (State.frzMem s sel) := by
  unfold State.frzMem
  repeat' first
    | with_reducible assumption | (with_reducible refine Foot.Sub.up hF ?_; decide +kernel)
    | ((first | intro x | (lift_lets; intro x))
       first
         | (refine Keeps.cut x ?_ (fun hx => ?_); rotate_left; clear_value x; rotate_left; unfold x)
         | clear_value x
         | skip)
    | with_reducible apply State.takeFree_keeps | with_reducible apply State.tapLoad_keeps
    | with_reducible apply Keeps.ite | with_reducible refine Keeps.snd ?_ (by assumption) | split
    | with_reducible exact Keeps.refl _ _

def execFrzMem_foot : Foot := Foot.join [State.readOut_foot, State.frzMem_foot]

theorem execFrzMem_keeps (hF : Foot.Sub execFrzMem_foot F) (sel : BitVec 64) (s : State) :
    ∃ t', execFrzMem sel s = .next t' ∧ Keeps F s t' := by
  unfold execFrzMem
  refine ⟨_, rfl, ?_⟩
  repeat' first
    | with_reducible assumption | (with_reducible refine Foot.Sub.up hF ?_; decide +kernel)
    | with_reducible apply State.readOut_keeps | with_reducible apply State.frzMem_keeps | intro x
    | with_reducible exact Keeps.refl _ _

def execFrzReg_foot : Foot := Foot.join [State.readOut_foot, State.tapLoad_foot]

theorem execFrzReg_keeps (hF : Foot.Sub execFrzReg_foot F) (addr : BitVec 27) (s : State) :
    ∃ t', execFrzReg addr s = .next t' ∧ Keeps F s t' := by
  unfold execFrzReg
  refine ⟨_, rfl, ?_⟩
  repeat' first
    | with_reducible assumption | (with_reducible refine Foot.Sub.up hF ?_; decide +kernel)
    | with_reducible apply State.readOut_keeps | with_reducible apply State.tapLoad_keeps | intro x
    | with_reducible exact Keeps.refl _ _

end Sys2Proof.Machine
end

