-- ==== Sys2Proof/Laws/State.lean ====
section
/-! SUPPORT. What each update of the state leaves in each field: one lemma per field per update. -/

namespace Sys2Proof.Machine

variable (s : State) (p q : Plane)

theorem Plane.other_ne : p.other ≠ p := by cases p <;> decide

@[simp] theorem pl_setPl (x : PlaneSt) : (s.setPl p x).pl p = x := by cases p <;> rfl
theorem pl_setPl_ne (x : PlaneSt) (h : q ≠ p) : (s.setPl p x).pl q = s.pl q := by
  cases p <;> cases q <;> first | rfl | exact absurd rfl h
@[simp] theorem pl_setPl_other (x : PlaneSt) : (s.setPl p x).pl p.other = s.pl p.other := by cases p <;> rfl
@[simp] theorem pending_setPl (x : PlaneSt) : (s.setPl p x).pending = s.pending := by cases p <;> rfl
@[simp] theorem pkg_setPl (x : PlaneSt) : (s.setPl p x).pkg = s.pkg := by cases p <;> rfl
@[simp] theorem ticks_setPl (x : PlaneSt) : (s.setPl p x).ticks = s.ticks := by cases p <;> rfl
@[simp] theorem free_setPl (x : PlaneSt) : (s.setPl p x).free = s.free := by cases p <;> rfl
@[simp] theorem out_setPl (x : PlaneSt) : (s.setPl p x).out = s.out := by cases p <;> rfl

@[simp] theorem pl_modPl (f : PlaneSt → PlaneSt) : (s.modPl p f).pl p = f (s.pl p) := by cases p <;> rfl
theorem pl_modPl_ne (f : PlaneSt → PlaneSt) (h : q ≠ p) : (s.modPl p f).pl q = s.pl q := pl_setPl_ne s p q _ h
@[simp] theorem pl_modPl_other (f : PlaneSt → PlaneSt) : (s.modPl p f).pl p.other = s.pl p.other := by cases p <;> rfl
@[simp] theorem pending_modPl (f : PlaneSt → PlaneSt) : (s.modPl p f).pending = s.pending := by cases p <;> rfl
@[simp] theorem pkg_modPl (f : PlaneSt → PlaneSt) : (s.modPl p f).pkg = s.pkg := by cases p <;> rfl
@[simp] theorem ticks_modPl (f : PlaneSt → PlaneSt) : (s.modPl p f).ticks = s.ticks := by cases p <;> rfl
@[simp] theorem free_modPl (f : PlaneSt → PlaneSt) : (s.modPl p f).free = s.free := by cases p <;> rfl
@[simp] theorem out_modPl (f : PlaneSt → PlaneSt) : (s.modPl p f).out = s.out := by cases p <;> rfl

@[simp] theorem pending_modPkg (f : Pkg → Pkg) : (s.modPkg f).pending = s.pending := rfl
@[simp] theorem ticks_modPkg (f : Pkg → Pkg) : (s.modPkg f).ticks = s.ticks := rfl
@[simp] theorem free_modPkg (f : Pkg → Pkg) : (s.modPkg f).free = s.free := rfl
@[simp] theorem out_modPkg (f : Pkg → Pkg) : (s.modPkg f).out = s.out := rfl
@[simp] theorem pkg_modPkg (f : Pkg → Pkg) : (s.modPkg f).pkg = f s.pkg := rfl
@[simp] theorem pl_modPkg (f : Pkg → Pkg) : (s.modPkg f).pl p = s.pl p := by cases p <;> rfl
@[simp] theorem pending_emit (o : Out) : (s.emit o).pending = s.pending := rfl
@[simp] theorem pkg_emit (o : Out) : (s.emit o).pkg = s.pkg := rfl
@[simp] theorem ticks_emit (o : Out) : (s.emit o).ticks = s.ticks := rfl
@[simp] theorem free_emit (o : Out) : (s.emit o).free = s.free := rfl
@[simp] theorem out_emit (o : Out) : (s.emit o).out = o :: s.out := rfl
@[simp] theorem pl_emit (o : Out) : (s.emit o).pl p = s.pl p := by cases p <;> rfl
@[simp] theorem pending_takeFree : s.takeFree.2.pending = s.pending := rfl
@[simp] theorem pkg_takeFree : s.takeFree.2.pkg = s.pkg := rfl
@[simp] theorem ticks_takeFree : s.takeFree.2.ticks = s.ticks := rfl
@[simp] theorem out_takeFree : s.takeFree.2.out = s.out := rfl
@[simp] theorem free_takeFree : s.takeFree.2.free = s.free + 1 := rfl
@[simp] theorem pl_takeFree : s.takeFree.2.pl p = s.pl p := by cases p <;> rfl

@[simp] theorem hif_modHif (f : HifSt → HifSt) : ((s.modHif p f).pl p).hif = f (s.pl p).hif := by cases p <;> rfl
@[simp] theorem hif_modHif_other (f : HifSt → HifSt) : ((s.modHif p f).pl p.other) = s.pl p.other := by cases p <;> rfl
theorem hif_modHif_ne (f : HifSt → HifSt) (h : q ≠ p) : (s.modHif p f).pl q = s.pl q := pl_setPl_ne s p q _ h
@[simp] theorem regs_modHif (f : HifSt → HifSt) : ((s.modHif p f).pl q).regs = (s.pl q).regs := by cases p <;> cases q <;> rfl
@[simp] theorem committed_modHif (f : HifSt → HifSt) : ((s.modHif p f).pl q).committed = (s.pl q).committed := by cases p <;> cases q <;> rfl
@[simp] theorem partW_modHif (f : HifSt → HifSt) : ((s.modHif p f).pl q).partW = (s.pl q).partW := by cases p <;> cases q <;> rfl
@[simp] theorem latch_modHif (f : HifSt → HifSt) : ((s.modHif p f).pl q).latch = (s.pl q).latch := by cases p <;> cases q <;> rfl
@[simp] theorem loose_modHif (f : HifSt → HifSt) : ((s.modHif p f).pl q).loose = (s.pl q).loose := by cases p <;> cases q <;> rfl
@[simp] theorem ft_modHif (f : HifSt → HifSt) : ((s.modHif p f).pl q).ft = (s.pl q).ft := by cases p <;> cases q <;> rfl
@[simp] theorem ftRem_modHif (f : HifSt → HifSt) : ((s.modHif p f).pl q).ftRem = (s.pl q).ftRem := by cases p <;> cases q <;> rfl
@[simp] theorem lne_modHif (f : HifSt → HifSt) : ((s.modHif p f).pl q).lne = (s.pl q).lne := by cases p <;> cases q <;> rfl
@[simp] theorem line_modHif (f : HifSt → HifSt) : ((s.modHif p f).pl q).line = (s.pl q).line := by cases p <;> cases q <;> rfl
@[simp] theorem lfp_modHif (f : HifSt → HifSt) : ((s.modHif p f).pl q).lfp = (s.pl q).lfp := by cases p <;> cases q <;> rfl
@[simp] theorem rte_modHif (f : HifSt → HifSt) : ((s.modHif p f).pl q).rte = (s.pl q).rte := by cases p <;> cases q <;> rfl
@[simp] theorem swc_modHif (f : HifSt → HifSt) : ((s.modHif p f).pl q).swc = (s.pl q).swc := by cases p <;> cases q <;> rfl
@[simp] theorem can_modHif (f : HifSt → HifSt) : ((s.modHif p f).pl q).can = (s.pl q).can := by cases p <;> cases q <;> rfl
@[simp] theorem epc_modHif (f : HifSt → HifSt) : ((s.modHif p f).pl q).epc = (s.pl q).epc := by cases p <;> cases q <;> rfl
@[simp] theorem tst_modHif (f : HifSt → HifSt) : ((s.modHif p f).pl q).tst = (s.pl q).tst := by cases p <;> cases q <;> rfl
@[simp] theorem col_modHif (f : HifSt → HifSt) : ((s.modHif p f).pl q).col = (s.pl q).col := by cases p <;> cases q <;> rfl
@[simp] theorem dsp_modHif (f : HifSt → HifSt) : ((s.modHif p f).pl q).dsp = (s.pl q).dsp := by cases p <;> cases q <;> rfl
@[simp] theorem mem_modHif (f : HifSt → HifSt) : ((s.modHif p f).pl q).mem = (s.pl q).mem := by cases p <;> cases q <;> rfl
@[simp] theorem pending_modHif (f : HifSt → HifSt) : (s.modHif p f).pending = s.pending := by cases p <;> rfl
@[simp] theorem pkg_modHif (f : HifSt → HifSt) : (s.modHif p f).pkg = s.pkg := by cases p <;> rfl
@[simp] theorem ticks_modHif (f : HifSt → HifSt) : (s.modHif p f).ticks = s.ticks := by cases p <;> rfl
@[simp] theorem free_modHif (f : HifSt → HifSt) : (s.modHif p f).free = s.free := by cases p <;> rfl
@[simp] theorem out_modHif (f : HifSt → HifSt) : (s.modHif p f).out = s.out := by cases p <;> rfl
@[simp] theorem fld_modHif (f : HifSt → HifSt) (g : Fld) (j : Nat) : (s.modHif p f).fld q g j = s.fld q g j := by cases p <;> cases q <;> rfl
@[simp] theorem flag_modHif (f : HifSt → HifSt) (g : Fld) (j : Nat) : (s.modHif p f).flag q g j = s.flag q g j := by cases p <;> cases q <;> rfl
@[simp] theorem staged_modHif (f : HifSt → HifSt) (g : Fld) (j : Nat) : (s.modHif p f).staged q g j = s.staged q g j := by
  cases p <;> cases q <;> rfl
@[simp] theorem live_modHif (f : HifSt → HifSt) : (s.modHif p f).live q = s.live q := by cases p <;> cases q <;> rfl

@[simp] theorem swc_modSwc (f : SwcSt → SwcSt) : ((s.modSwc p f).pl p).swc = f (s.pl p).swc := by cases p <;> rfl
@[simp] theorem swc_modSwc_other (f : SwcSt → SwcSt) : ((s.modSwc p f).pl p.other) = s.pl p.other := by cases p <;> rfl
theorem swc_modSwc_ne (f : SwcSt → SwcSt) (h : q ≠ p) : (s.modSwc p f).pl q = s.pl q := pl_setPl_ne s p q _ h
@[simp] theorem regs_modSwc (f : SwcSt → SwcSt) : ((s.modSwc p f).pl q).regs = (s.pl q).regs := by cases p <;> cases q <;> rfl
@[simp] theorem committed_modSwc (f : SwcSt → SwcSt) : ((s.modSwc p f).pl q).committed = (s.pl q).committed := by cases p <;> cases q <;> rfl
@[simp] theorem partW_modSwc (f : SwcSt → SwcSt) : ((s.modSwc p f).pl q).partW = (s.pl q).partW := by cases p <;> cases q <;> rfl
@[simp] theorem latch_modSwc (f : SwcSt → SwcSt) : ((s.modSwc p f).pl q).latch = (s.pl q).latch := by cases p <;> cases q <;> rfl
@[simp] theorem loose_modSwc (f : SwcSt → SwcSt) : ((s.modSwc p f).pl q).loose = (s.pl q).loose := by cases p <;> cases q <;> rfl
@[simp] theorem ft_modSwc (f : SwcSt → SwcSt) : ((s.modSwc p f).pl q).ft = (s.pl q).ft := by cases p <;> cases q <;> rfl
@[simp] theorem ftRem_modSwc (f : SwcSt → SwcSt) : ((s.modSwc p f).pl q).ftRem = (s.pl q).ftRem := by cases p <;> cases q <;> rfl
@[simp] theorem lne_modSwc (f : SwcSt → SwcSt) : ((s.modSwc p f).pl q).lne = (s.pl q).lne := by cases p <;> cases q <;> rfl
@[simp] theorem line_modSwc (f : SwcSt → SwcSt) : ((s.modSwc p f).pl q).line = (s.pl q).line := by cases p <;> cases q <;> rfl
@[simp] theorem lfp_modSwc (f : SwcSt → SwcSt) : ((s.modSwc p f).pl q).lfp = (s.pl q).lfp := by cases p <;> cases q <;> rfl
@[simp] theorem rte_modSwc (f : SwcSt → SwcSt) : ((s.modSwc p f).pl q).rte = (s.pl q).rte := by cases p <;> cases q <;> rfl
@[simp] theorem hif_modSwc (f : SwcSt → SwcSt) : ((s.modSwc p f).pl q).hif = (s.pl q).hif := by cases p <;> cases q <;> rfl
@[simp] theorem can_modSwc (f : SwcSt → SwcSt) : ((s.modSwc p f).pl q).can = (s.pl q).can := by cases p <;> cases q <;> rfl
@[simp] theorem epc_modSwc (f : SwcSt → SwcSt) : ((s.modSwc p f).pl q).epc = (s.pl q).epc := by cases p <;> cases q <;> rfl
@[simp] theorem tst_modSwc (f : SwcSt → SwcSt) : ((s.modSwc p f).pl q).tst = (s.pl q).tst := by cases p <;> cases q <;> rfl
@[simp] theorem col_modSwc (f : SwcSt → SwcSt) : ((s.modSwc p f).pl q).col = (s.pl q).col := by cases p <;> cases q <;> rfl
@[simp] theorem dsp_modSwc (f : SwcSt → SwcSt) : ((s.modSwc p f).pl q).dsp = (s.pl q).dsp := by cases p <;> cases q <;> rfl
@[simp] theorem mem_modSwc (f : SwcSt → SwcSt) : ((s.modSwc p f).pl q).mem = (s.pl q).mem := by cases p <;> cases q <;> rfl
@[simp] theorem pending_modSwc (f : SwcSt → SwcSt) : (s.modSwc p f).pending = s.pending := by cases p <;> rfl
@[simp] theorem pkg_modSwc (f : SwcSt → SwcSt) : (s.modSwc p f).pkg = s.pkg := by cases p <;> rfl
@[simp] theorem ticks_modSwc (f : SwcSt → SwcSt) : (s.modSwc p f).ticks = s.ticks := by cases p <;> rfl
@[simp] theorem free_modSwc (f : SwcSt → SwcSt) : (s.modSwc p f).free = s.free := by cases p <;> rfl
@[simp] theorem out_modSwc (f : SwcSt → SwcSt) : (s.modSwc p f).out = s.out := by cases p <;> rfl
@[simp] theorem fld_modSwc (f : SwcSt → SwcSt) (g : Fld) (j : Nat) : (s.modSwc p f).fld q g j = s.fld q g j := by cases p <;> cases q <;> rfl
@[simp] theorem flag_modSwc (f : SwcSt → SwcSt) (g : Fld) (j : Nat) : (s.modSwc p f).flag q g j = s.flag q g j := by cases p <;> cases q <;> rfl
@[simp] theorem staged_modSwc (f : SwcSt → SwcSt) (g : Fld) (j : Nat) : (s.modSwc p f).staged q g j = s.staged q g j := by
  cases p <;> cases q <;> rfl
@[simp] theorem live_modSwc (f : SwcSt → SwcSt) : (s.modSwc p f).live q = s.live q := by cases p <;> cases q <;> rfl

@[simp] theorem lfp_modLfp (f : LfpSt → LfpSt) : ((s.modLfp p f).pl p).lfp = f (s.pl p).lfp := by cases p <;> rfl
@[simp] theorem lfp_modLfp_other (f : LfpSt → LfpSt) : ((s.modLfp p f).pl p.other) = s.pl p.other := by cases p <;> rfl
theorem lfp_modLfp_ne (f : LfpSt → LfpSt) (h : q ≠ p) : (s.modLfp p f).pl q = s.pl q := pl_setPl_ne s p q _ h
@[simp] theorem regs_modLfp (f : LfpSt → LfpSt) : ((s.modLfp p f).pl q).regs = (s.pl q).regs := by cases p <;> cases q <;> rfl
@[simp] theorem committed_modLfp (f : LfpSt → LfpSt) : ((s.modLfp p f).pl q).committed = (s.pl q).committed := by cases p <;> cases q <;> rfl
@[simp] theorem partW_modLfp (f : LfpSt → LfpSt) : ((s.modLfp p f).pl q).partW = (s.pl q).partW := by cases p <;> cases q <;> rfl
@[simp] theorem latch_modLfp (f : LfpSt → LfpSt) : ((s.modLfp p f).pl q).latch = (s.pl q).latch := by cases p <;> cases q <;> rfl
@[simp] theorem loose_modLfp (f : LfpSt → LfpSt) : ((s.modLfp p f).pl q).loose = (s.pl q).loose := by cases p <;> cases q <;> rfl
@[simp] theorem ft_modLfp (f : LfpSt → LfpSt) : ((s.modLfp p f).pl q).ft = (s.pl q).ft := by cases p <;> cases q <;> rfl
@[simp] theorem ftRem_modLfp (f : LfpSt → LfpSt) : ((s.modLfp p f).pl q).ftRem = (s.pl q).ftRem := by cases p <;> cases q <;> rfl
@[simp] theorem lne_modLfp (f : LfpSt → LfpSt) : ((s.modLfp p f).pl q).lne = (s.pl q).lne := by cases p <;> cases q <;> rfl
@[simp] theorem line_modLfp (f : LfpSt → LfpSt) : ((s.modLfp p f).pl q).line = (s.pl q).line := by cases p <;> cases q <;> rfl
@[simp] theorem rte_modLfp (f : LfpSt → LfpSt) : ((s.modLfp p f).pl q).rte = (s.pl q).rte := by cases p <;> cases q <;> rfl
@[simp] theorem swc_modLfp (f : LfpSt → LfpSt) : ((s.modLfp p f).pl q).swc = (s.pl q).swc := by cases p <;> cases q <;> rfl
@[simp] theorem hif_modLfp (f : LfpSt → LfpSt) : ((s.modLfp p f).pl q).hif = (s.pl q).hif := by cases p <;> cases q <;> rfl
@[simp] theorem can_modLfp (f : LfpSt → LfpSt) : ((s.modLfp p f).pl q).can = (s.pl q).can := by cases p <;> cases q <;> rfl
@[simp] theorem epc_modLfp (f : LfpSt → LfpSt) : ((s.modLfp p f).pl q).epc = (s.pl q).epc := by cases p <;> cases q <;> rfl
@[simp] theorem tst_modLfp (f : LfpSt → LfpSt) : ((s.modLfp p f).pl q).tst = (s.pl q).tst := by cases p <;> cases q <;> rfl
@[simp] theorem col_modLfp (f : LfpSt → LfpSt) : ((s.modLfp p f).pl q).col = (s.pl q).col := by cases p <;> cases q <;> rfl
@[simp] theorem dsp_modLfp (f : LfpSt → LfpSt) : ((s.modLfp p f).pl q).dsp = (s.pl q).dsp := by cases p <;> cases q <;> rfl
@[simp] theorem mem_modLfp (f : LfpSt → LfpSt) : ((s.modLfp p f).pl q).mem = (s.pl q).mem := by cases p <;> cases q <;> rfl
@[simp] theorem pending_modLfp (f : LfpSt → LfpSt) : (s.modLfp p f).pending = s.pending := by cases p <;> rfl
@[simp] theorem pkg_modLfp (f : LfpSt → LfpSt) : (s.modLfp p f).pkg = s.pkg := by cases p <;> rfl
@[simp] theorem ticks_modLfp (f : LfpSt → LfpSt) : (s.modLfp p f).ticks = s.ticks := by cases p <;> rfl
@[simp] theorem free_modLfp (f : LfpSt → LfpSt) : (s.modLfp p f).free = s.free := by cases p <;> rfl
@[simp] theorem out_modLfp (f : LfpSt → LfpSt) : (s.modLfp p f).out = s.out := by cases p <;> rfl
@[simp] theorem fld_modLfp (f : LfpSt → LfpSt) (g : Fld) (j : Nat) : (s.modLfp p f).fld q g j = s.fld q g j := by cases p <;> cases q <;> rfl
@[simp] theorem flag_modLfp (f : LfpSt → LfpSt) (g : Fld) (j : Nat) : (s.modLfp p f).flag q g j = s.flag q g j := by cases p <;> cases q <;> rfl
@[simp] theorem staged_modLfp (f : LfpSt → LfpSt) (g : Fld) (j : Nat) : (s.modLfp p f).staged q g j = s.staged q g j := by
  cases p <;> cases q <;> rfl
@[simp] theorem live_modLfp (f : LfpSt → LfpSt) : (s.modLfp p f).live q = s.live q := by cases p <;> cases q <;> rfl

@[simp] theorem rte_modRte (f : RteSt → RteSt) : ((s.modRte p f).pl p).rte = f (s.pl p).rte := by cases p <;> rfl
@[simp] theorem rte_modRte_other (f : RteSt → RteSt) : ((s.modRte p f).pl p.other) = s.pl p.other := by cases p <;> rfl
theorem rte_modRte_ne (f : RteSt → RteSt) (h : q ≠ p) : (s.modRte p f).pl q = s.pl q := pl_setPl_ne s p q _ h
@[simp] theorem regs_modRte (f : RteSt → RteSt) : ((s.modRte p f).pl q).regs = (s.pl q).regs := by cases p <;> cases q <;> rfl
@[simp] theorem committed_modRte (f : RteSt → RteSt) : ((s.modRte p f).pl q).committed = (s.pl q).committed := by cases p <;> cases q <;> rfl
@[simp] theorem partW_modRte (f : RteSt → RteSt) : ((s.modRte p f).pl q).partW = (s.pl q).partW := by cases p <;> cases q <;> rfl
@[simp] theorem latch_modRte (f : RteSt → RteSt) : ((s.modRte p f).pl q).latch = (s.pl q).latch := by cases p <;> cases q <;> rfl
@[simp] theorem loose_modRte (f : RteSt → RteSt) : ((s.modRte p f).pl q).loose = (s.pl q).loose := by cases p <;> cases q <;> rfl
@[simp] theorem ft_modRte (f : RteSt → RteSt) : ((s.modRte p f).pl q).ft = (s.pl q).ft := by cases p <;> cases q <;> rfl
@[simp] theorem ftRem_modRte (f : RteSt → RteSt) : ((s.modRte p f).pl q).ftRem = (s.pl q).ftRem := by cases p <;> cases q <;> rfl
@[simp] theorem lne_modRte (f : RteSt → RteSt) : ((s.modRte p f).pl q).lne = (s.pl q).lne := by cases p <;> cases q <;> rfl
@[simp] theorem line_modRte (f : RteSt → RteSt) : ((s.modRte p f).pl q).line = (s.pl q).line := by cases p <;> cases q <;> rfl
@[simp] theorem lfp_modRte (f : RteSt → RteSt) : ((s.modRte p f).pl q).lfp = (s.pl q).lfp := by cases p <;> cases q <;> rfl
@[simp] theorem swc_modRte (f : RteSt → RteSt) : ((s.modRte p f).pl q).swc = (s.pl q).swc := by cases p <;> cases q <;> rfl
@[simp] theorem hif_modRte (f : RteSt → RteSt) : ((s.modRte p f).pl q).hif = (s.pl q).hif := by cases p <;> cases q <;> rfl
@[simp] theorem can_modRte (f : RteSt → RteSt) : ((s.modRte p f).pl q).can = (s.pl q).can := by cases p <;> cases q <;> rfl
@[simp] theorem epc_modRte (f : RteSt → RteSt) : ((s.modRte p f).pl q).epc = (s.pl q).epc := by cases p <;> cases q <;> rfl
@[simp] theorem tst_modRte (f : RteSt → RteSt) : ((s.modRte p f).pl q).tst = (s.pl q).tst := by cases p <;> cases q <;> rfl
@[simp] theorem col_modRte (f : RteSt → RteSt) : ((s.modRte p f).pl q).col = (s.pl q).col := by cases p <;> cases q <;> rfl
@[simp] theorem dsp_modRte (f : RteSt → RteSt) : ((s.modRte p f).pl q).dsp = (s.pl q).dsp := by cases p <;> cases q <;> rfl
@[simp] theorem mem_modRte (f : RteSt → RteSt) : ((s.modRte p f).pl q).mem = (s.pl q).mem := by cases p <;> cases q <;> rfl
@[simp] theorem pending_modRte (f : RteSt → RteSt) : (s.modRte p f).pending = s.pending := by cases p <;> rfl
@[simp] theorem pkg_modRte (f : RteSt → RteSt) : (s.modRte p f).pkg = s.pkg := by cases p <;> rfl
@[simp] theorem ticks_modRte (f : RteSt → RteSt) : (s.modRte p f).ticks = s.ticks := by cases p <;> rfl
@[simp] theorem free_modRte (f : RteSt → RteSt) : (s.modRte p f).free = s.free := by cases p <;> rfl
@[simp] theorem out_modRte (f : RteSt → RteSt) : (s.modRte p f).out = s.out := by cases p <;> rfl
@[simp] theorem fld_modRte (f : RteSt → RteSt) (g : Fld) (j : Nat) : (s.modRte p f).fld q g j = s.fld q g j := by cases p <;> cases q <;> rfl
@[simp] theorem flag_modRte (f : RteSt → RteSt) (g : Fld) (j : Nat) : (s.modRte p f).flag q g j = s.flag q g j := by cases p <;> cases q <;> rfl
@[simp] theorem staged_modRte (f : RteSt → RteSt) (g : Fld) (j : Nat) : (s.modRte p f).staged q g j = s.staged q g j := by
  cases p <;> cases q <;> rfl
@[simp] theorem live_modRte (f : RteSt → RteSt) : (s.modRte p f).live q = s.live q := by cases p <;> cases q <;> rfl

@[simp] theorem can_modCan (f : CanSt → CanSt) : ((s.modCan p f).pl p).can = f (s.pl p).can := by cases p <;> rfl
@[simp] theorem can_modCan_other (f : CanSt → CanSt) : ((s.modCan p f).pl p.other) = s.pl p.other := by cases p <;> rfl
theorem can_modCan_ne (f : CanSt → CanSt) (h : q ≠ p) : (s.modCan p f).pl q = s.pl q := pl_setPl_ne s p q _ h
@[simp] theorem regs_modCan (f : CanSt → CanSt) : ((s.modCan p f).pl q).regs = (s.pl q).regs := by cases p <;> cases q <;> rfl
@[simp] theorem committed_modCan (f : CanSt → CanSt) : ((s.modCan p f).pl q).committed = (s.pl q).committed := by cases p <;> cases q <;> rfl
@[simp] theorem partW_modCan (f : CanSt → CanSt) : ((s.modCan p f).pl q).partW = (s.pl q).partW := by cases p <;> cases q <;> rfl
@[simp] theorem latch_modCan (f : CanSt → CanSt) : ((s.modCan p f).pl q).latch = (s.pl q).latch := by cases p <;> cases q <;> rfl
@[simp] theorem loose_modCan (f : CanSt → CanSt) : ((s.modCan p f).pl q).loose = (s.pl q).loose := by cases p <;> cases q <;> rfl
@[simp] theorem ft_modCan (f : CanSt → CanSt) : ((s.modCan p f).pl q).ft = (s.pl q).ft := by cases p <;> cases q <;> rfl
@[simp] theorem ftRem_modCan (f : CanSt → CanSt) : ((s.modCan p f).pl q).ftRem = (s.pl q).ftRem := by cases p <;> cases q <;> rfl
@[simp] theorem lne_modCan (f : CanSt → CanSt) : ((s.modCan p f).pl q).lne = (s.pl q).lne := by cases p <;> cases q <;> rfl
@[simp] theorem line_modCan (f : CanSt → CanSt) : ((s.modCan p f).pl q).line = (s.pl q).line := by cases p <;> cases q <;> rfl
@[simp] theorem lfp_modCan (f : CanSt → CanSt) : ((s.modCan p f).pl q).lfp = (s.pl q).lfp := by cases p <;> cases q <;> rfl
@[simp] theorem rte_modCan (f : CanSt → CanSt) : ((s.modCan p f).pl q).rte = (s.pl q).rte := by cases p <;> cases q <;> rfl
@[simp] theorem swc_modCan (f : CanSt → CanSt) : ((s.modCan p f).pl q).swc = (s.pl q).swc := by cases p <;> cases q <;> rfl
@[simp] theorem hif_modCan (f : CanSt → CanSt) : ((s.modCan p f).pl q).hif = (s.pl q).hif := by cases p <;> cases q <;> rfl
@[simp] theorem epc_modCan (f : CanSt → CanSt) : ((s.modCan p f).pl q).epc = (s.pl q).epc := by cases p <;> cases q <;> rfl
@[simp] theorem tst_modCan (f : CanSt → CanSt) : ((s.modCan p f).pl q).tst = (s.pl q).tst := by cases p <;> cases q <;> rfl
@[simp] theorem col_modCan (f : CanSt → CanSt) : ((s.modCan p f).pl q).col = (s.pl q).col := by cases p <;> cases q <;> rfl
@[simp] theorem dsp_modCan (f : CanSt → CanSt) : ((s.modCan p f).pl q).dsp = (s.pl q).dsp := by cases p <;> cases q <;> rfl
@[simp] theorem mem_modCan (f : CanSt → CanSt) : ((s.modCan p f).pl q).mem = (s.pl q).mem := by cases p <;> cases q <;> rfl
@[simp] theorem pending_modCan (f : CanSt → CanSt) : (s.modCan p f).pending = s.pending := by cases p <;> rfl
@[simp] theorem pkg_modCan (f : CanSt → CanSt) : (s.modCan p f).pkg = s.pkg := by cases p <;> rfl
@[simp] theorem ticks_modCan (f : CanSt → CanSt) : (s.modCan p f).ticks = s.ticks := by cases p <;> rfl
@[simp] theorem free_modCan (f : CanSt → CanSt) : (s.modCan p f).free = s.free := by cases p <;> rfl
@[simp] theorem out_modCan (f : CanSt → CanSt) : (s.modCan p f).out = s.out := by cases p <;> rfl
@[simp] theorem fld_modCan (f : CanSt → CanSt) (g : Fld) (j : Nat) : (s.modCan p f).fld q g j = s.fld q g j := by cases p <;> cases q <;> rfl
@[simp] theorem flag_modCan (f : CanSt → CanSt) (g : Fld) (j : Nat) : (s.modCan p f).flag q g j = s.flag q g j := by cases p <;> cases q <;> rfl
@[simp] theorem staged_modCan (f : CanSt → CanSt) (g : Fld) (j : Nat) : (s.modCan p f).staged q g j = s.staged q g j := by
  cases p <;> cases q <;> rfl
@[simp] theorem live_modCan (f : CanSt → CanSt) : (s.modCan p f).live q = s.live q := by cases p <;> cases q <;> rfl

@[simp] theorem col_modCol (f : ColSt → ColSt) : ((s.modCol p f).pl p).col = f (s.pl p).col := by cases p <;> rfl
@[simp] theorem col_modCol_other (f : ColSt → ColSt) : ((s.modCol p f).pl p.other) = s.pl p.other := by cases p <;> rfl
theorem col_modCol_ne (f : ColSt → ColSt) (h : q ≠ p) : (s.modCol p f).pl q = s.pl q := pl_setPl_ne s p q _ h
@[simp] theorem regs_modCol (f : ColSt → ColSt) : ((s.modCol p f).pl q).regs = (s.pl q).regs := by cases p <;> cases q <;> rfl
@[simp] theorem committed_modCol (f : ColSt → ColSt) : ((s.modCol p f).pl q).committed = (s.pl q).committed := by cases p <;> cases q <;> rfl
@[simp] theorem partW_modCol (f : ColSt → ColSt) : ((s.modCol p f).pl q).partW = (s.pl q).partW := by cases p <;> cases q <;> rfl
@[simp] theorem latch_modCol (f : ColSt → ColSt) : ((s.modCol p f).pl q).latch = (s.pl q).latch := by cases p <;> cases q <;> rfl
@[simp] theorem loose_modCol (f : ColSt → ColSt) : ((s.modCol p f).pl q).loose = (s.pl q).loose := by cases p <;> cases q <;> rfl
@[simp] theorem ft_modCol (f : ColSt → ColSt) : ((s.modCol p f).pl q).ft = (s.pl q).ft := by cases p <;> cases q <;> rfl
@[simp] theorem ftRem_modCol (f : ColSt → ColSt) : ((s.modCol p f).pl q).ftRem = (s.pl q).ftRem := by cases p <;> cases q <;> rfl
@[simp] theorem lne_modCol (f : ColSt → ColSt) : ((s.modCol p f).pl q).lne = (s.pl q).lne := by cases p <;> cases q <;> rfl
@[simp] theorem line_modCol (f : ColSt → ColSt) : ((s.modCol p f).pl q).line = (s.pl q).line := by cases p <;> cases q <;> rfl
@[simp] theorem lfp_modCol (f : ColSt → ColSt) : ((s.modCol p f).pl q).lfp = (s.pl q).lfp := by cases p <;> cases q <;> rfl
@[simp] theorem rte_modCol (f : ColSt → ColSt) : ((s.modCol p f).pl q).rte = (s.pl q).rte := by cases p <;> cases q <;> rfl
@[simp] theorem swc_modCol (f : ColSt → ColSt) : ((s.modCol p f).pl q).swc = (s.pl q).swc := by cases p <;> cases q <;> rfl
@[simp] theorem hif_modCol (f : ColSt → ColSt) : ((s.modCol p f).pl q).hif = (s.pl q).hif := by cases p <;> cases q <;> rfl
@[simp] theorem can_modCol (f : ColSt → ColSt) : ((s.modCol p f).pl q).can = (s.pl q).can := by cases p <;> cases q <;> rfl
@[simp] theorem epc_modCol (f : ColSt → ColSt) : ((s.modCol p f).pl q).epc = (s.pl q).epc := by cases p <;> cases q <;> rfl
@[simp] theorem tst_modCol (f : ColSt → ColSt) : ((s.modCol p f).pl q).tst = (s.pl q).tst := by cases p <;> cases q <;> rfl
@[simp] theorem dsp_modCol (f : ColSt → ColSt) : ((s.modCol p f).pl q).dsp = (s.pl q).dsp := by cases p <;> cases q <;> rfl
@[simp] theorem mem_modCol (f : ColSt → ColSt) : ((s.modCol p f).pl q).mem = (s.pl q).mem := by cases p <;> cases q <;> rfl
@[simp] theorem pending_modCol (f : ColSt → ColSt) : (s.modCol p f).pending = s.pending := by cases p <;> rfl
@[simp] theorem pkg_modCol (f : ColSt → ColSt) : (s.modCol p f).pkg = s.pkg := by cases p <;> rfl
@[simp] theorem ticks_modCol (f : ColSt → ColSt) : (s.modCol p f).ticks = s.ticks := by cases p <;> rfl
@[simp] theorem free_modCol (f : ColSt → ColSt) : (s.modCol p f).free = s.free := by cases p <;> rfl
@[simp] theorem out_modCol (f : ColSt → ColSt) : (s.modCol p f).out = s.out := by cases p <;> rfl
@[simp] theorem fld_modCol (f : ColSt → ColSt) (g : Fld) (j : Nat) : (s.modCol p f).fld q g j = s.fld q g j := by cases p <;> cases q <;> rfl
@[simp] theorem flag_modCol (f : ColSt → ColSt) (g : Fld) (j : Nat) : (s.modCol p f).flag q g j = s.flag q g j := by cases p <;> cases q <;> rfl
@[simp] theorem staged_modCol (f : ColSt → ColSt) (g : Fld) (j : Nat) : (s.modCol p f).staged q g j = s.staged q g j := by
  cases p <;> cases q <;> rfl
@[simp] theorem live_modCol (f : ColSt → ColSt) : (s.modCol p f).live q = s.live q := by cases p <;> cases q <;> rfl

@[simp] theorem dsp_modDsp (f : DspSt → DspSt) : ((s.modDsp p f).pl p).dsp = f (s.pl p).dsp := by cases p <;> rfl
@[simp] theorem dsp_modDsp_other (f : DspSt → DspSt) : ((s.modDsp p f).pl p.other) = s.pl p.other := by cases p <;> rfl
theorem dsp_modDsp_ne (f : DspSt → DspSt) (h : q ≠ p) : (s.modDsp p f).pl q = s.pl q := pl_setPl_ne s p q _ h
@[simp] theorem regs_modDsp (f : DspSt → DspSt) : ((s.modDsp p f).pl q).regs = (s.pl q).regs := by cases p <;> cases q <;> rfl
@[simp] theorem committed_modDsp (f : DspSt → DspSt) : ((s.modDsp p f).pl q).committed = (s.pl q).committed := by cases p <;> cases q <;> rfl
@[simp] theorem partW_modDsp (f : DspSt → DspSt) : ((s.modDsp p f).pl q).partW = (s.pl q).partW := by cases p <;> cases q <;> rfl
@[simp] theorem latch_modDsp (f : DspSt → DspSt) : ((s.modDsp p f).pl q).latch = (s.pl q).latch := by cases p <;> cases q <;> rfl
@[simp] theorem loose_modDsp (f : DspSt → DspSt) : ((s.modDsp p f).pl q).loose = (s.pl q).loose := by cases p <;> cases q <;> rfl
@[simp] theorem ft_modDsp (f : DspSt → DspSt) : ((s.modDsp p f).pl q).ft = (s.pl q).ft := by cases p <;> cases q <;> rfl
@[simp] theorem ftRem_modDsp (f : DspSt → DspSt) : ((s.modDsp p f).pl q).ftRem = (s.pl q).ftRem := by cases p <;> cases q <;> rfl
@[simp] theorem lne_modDsp (f : DspSt → DspSt) : ((s.modDsp p f).pl q).lne = (s.pl q).lne := by cases p <;> cases q <;> rfl
@[simp] theorem line_modDsp (f : DspSt → DspSt) : ((s.modDsp p f).pl q).line = (s.pl q).line := by cases p <;> cases q <;> rfl
@[simp] theorem lfp_modDsp (f : DspSt → DspSt) : ((s.modDsp p f).pl q).lfp = (s.pl q).lfp := by cases p <;> cases q <;> rfl
@[simp] theorem rte_modDsp (f : DspSt → DspSt) : ((s.modDsp p f).pl q).rte = (s.pl q).rte := by cases p <;> cases q <;> rfl
@[simp] theorem swc_modDsp (f : DspSt → DspSt) : ((s.modDsp p f).pl q).swc = (s.pl q).swc := by cases p <;> cases q <;> rfl
@[simp] theorem hif_modDsp (f : DspSt → DspSt) : ((s.modDsp p f).pl q).hif = (s.pl q).hif := by cases p <;> cases q <;> rfl
@[simp] theorem can_modDsp (f : DspSt → DspSt) : ((s.modDsp p f).pl q).can = (s.pl q).can := by cases p <;> cases q <;> rfl
@[simp] theorem epc_modDsp (f : DspSt → DspSt) : ((s.modDsp p f).pl q).epc = (s.pl q).epc := by cases p <;> cases q <;> rfl
@[simp] theorem tst_modDsp (f : DspSt → DspSt) : ((s.modDsp p f).pl q).tst = (s.pl q).tst := by cases p <;> cases q <;> rfl
@[simp] theorem col_modDsp (f : DspSt → DspSt) : ((s.modDsp p f).pl q).col = (s.pl q).col := by cases p <;> cases q <;> rfl
@[simp] theorem mem_modDsp (f : DspSt → DspSt) : ((s.modDsp p f).pl q).mem = (s.pl q).mem := by cases p <;> cases q <;> rfl
@[simp] theorem pending_modDsp (f : DspSt → DspSt) : (s.modDsp p f).pending = s.pending := by cases p <;> rfl
@[simp] theorem pkg_modDsp (f : DspSt → DspSt) : (s.modDsp p f).pkg = s.pkg := by cases p <;> rfl
@[simp] theorem ticks_modDsp (f : DspSt → DspSt) : (s.modDsp p f).ticks = s.ticks := by cases p <;> rfl
@[simp] theorem free_modDsp (f : DspSt → DspSt) : (s.modDsp p f).free = s.free := by cases p <;> rfl
@[simp] theorem out_modDsp (f : DspSt → DspSt) : (s.modDsp p f).out = s.out := by cases p <;> rfl
@[simp] theorem fld_modDsp (f : DspSt → DspSt) (g : Fld) (j : Nat) : (s.modDsp p f).fld q g j = s.fld q g j := by cases p <;> cases q <;> rfl
@[simp] theorem flag_modDsp (f : DspSt → DspSt) (g : Fld) (j : Nat) : (s.modDsp p f).flag q g j = s.flag q g j := by cases p <;> cases q <;> rfl
@[simp] theorem staged_modDsp (f : DspSt → DspSt) (g : Fld) (j : Nat) : (s.modDsp p f).staged q g j = s.staged q g j := by
  cases p <;> cases q <;> rfl
@[simp] theorem live_modDsp (f : DspSt → DspSt) : (s.modDsp p f).live q = s.live q := by cases p <;> cases q <;> rfl

@[simp] theorem mem_modMem (f : MemSt → MemSt) : ((s.modMem p f).pl p).mem = f (s.pl p).mem := by cases p <;> rfl
@[simp] theorem mem_modMem_other (f : MemSt → MemSt) : ((s.modMem p f).pl p.other) = s.pl p.other := by cases p <;> rfl
theorem mem_modMem_ne (f : MemSt → MemSt) (h : q ≠ p) : (s.modMem p f).pl q = s.pl q := pl_setPl_ne s p q _ h
@[simp] theorem regs_modMem (f : MemSt → MemSt) : ((s.modMem p f).pl q).regs = (s.pl q).regs := by cases p <;> cases q <;> rfl
@[simp] theorem committed_modMem (f : MemSt → MemSt) : ((s.modMem p f).pl q).committed = (s.pl q).committed := by cases p <;> cases q <;> rfl
@[simp] theorem partW_modMem (f : MemSt → MemSt) : ((s.modMem p f).pl q).partW = (s.pl q).partW := by cases p <;> cases q <;> rfl
@[simp] theorem latch_modMem (f : MemSt → MemSt) : ((s.modMem p f).pl q).latch = (s.pl q).latch := by cases p <;> cases q <;> rfl
@[simp] theorem loose_modMem (f : MemSt → MemSt) : ((s.modMem p f).pl q).loose = (s.pl q).loose := by cases p <;> cases q <;> rfl
@[simp] theorem ft_modMem (f : MemSt → MemSt) : ((s.modMem p f).pl q).ft = (s.pl q).ft := by cases p <;> cases q <;> rfl
@[simp] theorem ftRem_modMem (f : MemSt → MemSt) : ((s.modMem p f).pl q).ftRem = (s.pl q).ftRem := by cases p <;> cases q <;> rfl
@[simp] theorem lne_modMem (f : MemSt → MemSt) : ((s.modMem p f).pl q).lne = (s.pl q).lne := by cases p <;> cases q <;> rfl
@[simp] theorem line_modMem (f : MemSt → MemSt) : ((s.modMem p f).pl q).line = (s.pl q).line := by cases p <;> cases q <;> rfl
@[simp] theorem lfp_modMem (f : MemSt → MemSt) : ((s.modMem p f).pl q).lfp = (s.pl q).lfp := by cases p <;> cases q <;> rfl
@[simp] theorem rte_modMem (f : MemSt → MemSt) : ((s.modMem p f).pl q).rte = (s.pl q).rte := by cases p <;> cases q <;> rfl
@[simp] theorem swc_modMem (f : MemSt → MemSt) : ((s.modMem p f).pl q).swc = (s.pl q).swc := by cases p <;> cases q <;> rfl
@[simp] theorem hif_modMem (f : MemSt → MemSt) : ((s.modMem p f).pl q).hif = (s.pl q).hif := by cases p <;> cases q <;> rfl
@[simp] theorem can_modMem (f : MemSt → MemSt) : ((s.modMem p f).pl q).can = (s.pl q).can := by cases p <;> cases q <;> rfl
@[simp] theorem epc_modMem (f : MemSt → MemSt) : ((s.modMem p f).pl q).epc = (s.pl q).epc := by cases p <;> cases q <;> rfl
@[simp] theorem tst_modMem (f : MemSt → MemSt) : ((s.modMem p f).pl q).tst = (s.pl q).tst := by cases p <;> cases q <;> rfl
@[simp] theorem col_modMem (f : MemSt → MemSt) : ((s.modMem p f).pl q).col = (s.pl q).col := by cases p <;> cases q <;> rfl
@[simp] theorem dsp_modMem (f : MemSt → MemSt) : ((s.modMem p f).pl q).dsp = (s.pl q).dsp := by cases p <;> cases q <;> rfl
@[simp] theorem pending_modMem (f : MemSt → MemSt) : (s.modMem p f).pending = s.pending := by cases p <;> rfl
@[simp] theorem pkg_modMem (f : MemSt → MemSt) : (s.modMem p f).pkg = s.pkg := by cases p <;> rfl
@[simp] theorem ticks_modMem (f : MemSt → MemSt) : (s.modMem p f).ticks = s.ticks := by cases p <;> rfl
@[simp] theorem free_modMem (f : MemSt → MemSt) : (s.modMem p f).free = s.free := by cases p <;> rfl
@[simp] theorem out_modMem (f : MemSt → MemSt) : (s.modMem p f).out = s.out := by cases p <;> rfl
@[simp] theorem fld_modMem (f : MemSt → MemSt) (g : Fld) (j : Nat) : (s.modMem p f).fld q g j = s.fld q g j := by cases p <;> cases q <;> rfl
@[simp] theorem flag_modMem (f : MemSt → MemSt) (g : Fld) (j : Nat) : (s.modMem p f).flag q g j = s.flag q g j := by cases p <;> cases q <;> rfl
@[simp] theorem staged_modMem (f : MemSt → MemSt) (g : Fld) (j : Nat) : (s.modMem p f).staged q g j = s.staged q g j := by
  cases p <;> cases q <;> rfl
@[simp] theorem live_modMem (f : MemSt → MemSt) : (s.modMem p f).live q = s.live q := by cases p <;> cases q <;> rfl

@[simp] theorem epc_modEpc (f : EpcSt → EpcSt) : ((s.modEpc p f).pl p).epc = f (s.pl p).epc := by cases p <;> rfl
@[simp] theorem epc_modEpc_other (f : EpcSt → EpcSt) : ((s.modEpc p f).pl p.other) = s.pl p.other := by cases p <;> rfl
theorem epc_modEpc_ne (f : EpcSt → EpcSt) (h : q ≠ p) : (s.modEpc p f).pl q = s.pl q := pl_setPl_ne s p q _ h
@[simp] theorem regs_modEpc (f : EpcSt → EpcSt) : ((s.modEpc p f).pl q).regs = (s.pl q).regs := by cases p <;> cases q <;> rfl
@[simp] theorem committed_modEpc (f : EpcSt → EpcSt) : ((s.modEpc p f).pl q).committed = (s.pl q).committed := by cases p <;> cases q <;> rfl
@[simp] theorem partW_modEpc (f : EpcSt → EpcSt) : ((s.modEpc p f).pl q).partW = (s.pl q).partW := by cases p <;> cases q <;> rfl
@[simp] theorem latch_modEpc (f : EpcSt → EpcSt) : ((s.modEpc p f).pl q).latch = (s.pl q).latch := by cases p <;> cases q <;> rfl
@[simp] theorem loose_modEpc (f : EpcSt → EpcSt) : ((s.modEpc p f).pl q).loose = (s.pl q).loose := by cases p <;> cases q <;> rfl
@[simp] theorem ft_modEpc (f : EpcSt → EpcSt) : ((s.modEpc p f).pl q).ft = (s.pl q).ft := by cases p <;> cases q <;> rfl
@[simp] theorem ftRem_modEpc (f : EpcSt → EpcSt) : ((s.modEpc p f).pl q).ftRem = (s.pl q).ftRem := by cases p <;> cases q <;> rfl
@[simp] theorem lne_modEpc (f : EpcSt → EpcSt) : ((s.modEpc p f).pl q).lne = (s.pl q).lne := by cases p <;> cases q <;> rfl
@[simp] theorem line_modEpc (f : EpcSt → EpcSt) : ((s.modEpc p f).pl q).line = (s.pl q).line := by cases p <;> cases q <;> rfl
@[simp] theorem lfp_modEpc (f : EpcSt → EpcSt) : ((s.modEpc p f).pl q).lfp = (s.pl q).lfp := by cases p <;> cases q <;> rfl
@[simp] theorem rte_modEpc (f : EpcSt → EpcSt) : ((s.modEpc p f).pl q).rte = (s.pl q).rte := by cases p <;> cases q <;> rfl
@[simp] theorem swc_modEpc (f : EpcSt → EpcSt) : ((s.modEpc p f).pl q).swc = (s.pl q).swc := by cases p <;> cases q <;> rfl
@[simp] theorem hif_modEpc (f : EpcSt → EpcSt) : ((s.modEpc p f).pl q).hif = (s.pl q).hif := by cases p <;> cases q <;> rfl
@[simp] theorem can_modEpc (f : EpcSt → EpcSt) : ((s.modEpc p f).pl q).can = (s.pl q).can := by cases p <;> cases q <;> rfl
@[simp] theorem tst_modEpc (f : EpcSt → EpcSt) : ((s.modEpc p f).pl q).tst = (s.pl q).tst := by cases p <;> cases q <;> rfl
@[simp] theorem col_modEpc (f : EpcSt → EpcSt) : ((s.modEpc p f).pl q).col = (s.pl q).col := by cases p <;> cases q <;> rfl
@[simp] theorem dsp_modEpc (f : EpcSt → EpcSt) : ((s.modEpc p f).pl q).dsp = (s.pl q).dsp := by cases p <;> cases q <;> rfl
@[simp] theorem mem_modEpc (f : EpcSt → EpcSt) : ((s.modEpc p f).pl q).mem = (s.pl q).mem := by cases p <;> cases q <;> rfl
@[simp] theorem pending_modEpc (f : EpcSt → EpcSt) : (s.modEpc p f).pending = s.pending := by cases p <;> rfl
@[simp] theorem pkg_modEpc (f : EpcSt → EpcSt) : (s.modEpc p f).pkg = s.pkg := by cases p <;> rfl
@[simp] theorem ticks_modEpc (f : EpcSt → EpcSt) : (s.modEpc p f).ticks = s.ticks := by cases p <;> rfl
@[simp] theorem free_modEpc (f : EpcSt → EpcSt) : (s.modEpc p f).free = s.free := by cases p <;> rfl
@[simp] theorem out_modEpc (f : EpcSt → EpcSt) : (s.modEpc p f).out = s.out := by cases p <;> rfl
@[simp] theorem fld_modEpc (f : EpcSt → EpcSt) (g : Fld) (j : Nat) : (s.modEpc p f).fld q g j = s.fld q g j := by cases p <;> cases q <;> rfl
@[simp] theorem flag_modEpc (f : EpcSt → EpcSt) (g : Fld) (j : Nat) : (s.modEpc p f).flag q g j = s.flag q g j := by cases p <;> cases q <;> rfl
@[simp] theorem staged_modEpc (f : EpcSt → EpcSt) (g : Fld) (j : Nat) : (s.modEpc p f).staged q g j = s.staged q g j := by
  cases p <;> cases q <;> rfl

@[simp] theorem lne_modLne (f : LneSt → LneSt) : ((s.modLne p f).pl p).lne = f (s.pl p).lne := by cases p <;> rfl
@[simp] theorem lne_modLne_other (f : LneSt → LneSt) : ((s.modLne p f).pl p.other) = s.pl p.other := by cases p <;> rfl
theorem lne_modLne_ne (f : LneSt → LneSt) (h : q ≠ p) : (s.modLne p f).pl q = s.pl q := pl_setPl_ne s p q _ h
@[simp] theorem regs_modLne (f : LneSt → LneSt) : ((s.modLne p f).pl q).regs = (s.pl q).regs := by cases p <;> cases q <;> rfl
@[simp] theorem committed_modLne (f : LneSt → LneSt) : ((s.modLne p f).pl q).committed = (s.pl q).committed := by cases p <;> cases q <;> rfl
@[simp] theorem partW_modLne (f : LneSt → LneSt) : ((s.modLne p f).pl q).partW = (s.pl q).partW := by cases p <;> cases q <;> rfl
@[simp] theorem latch_modLne (f : LneSt → LneSt) : ((s.modLne p f).pl q).latch = (s.pl q).latch := by cases p <;> cases q <;> rfl
@[simp] theorem loose_modLne (f : LneSt → LneSt) : ((s.modLne p f).pl q).loose = (s.pl q).loose := by cases p <;> cases q <;> rfl
@[simp] theorem ft_modLne (f : LneSt → LneSt) : ((s.modLne p f).pl q).ft = (s.pl q).ft := by cases p <;> cases q <;> rfl
@[simp] theorem ftRem_modLne (f : LneSt → LneSt) : ((s.modLne p f).pl q).ftRem = (s.pl q).ftRem := by cases p <;> cases q <;> rfl
@[simp] theorem line_modLne (f : LneSt → LneSt) : ((s.modLne p f).pl q).line = (s.pl q).line := by cases p <;> cases q <;> rfl
@[simp] theorem lfp_modLne (f : LneSt → LneSt) : ((s.modLne p f).pl q).lfp = (s.pl q).lfp := by cases p <;> cases q <;> rfl
@[simp] theorem rte_modLne (f : LneSt → LneSt) : ((s.modLne p f).pl q).rte = (s.pl q).rte := by cases p <;> cases q <;> rfl
@[simp] theorem swc_modLne (f : LneSt → LneSt) : ((s.modLne p f).pl q).swc = (s.pl q).swc := by cases p <;> cases q <;> rfl
@[simp] theorem hif_modLne (f : LneSt → LneSt) : ((s.modLne p f).pl q).hif = (s.pl q).hif := by cases p <;> cases q <;> rfl
@[simp] theorem can_modLne (f : LneSt → LneSt) : ((s.modLne p f).pl q).can = (s.pl q).can := by cases p <;> cases q <;> rfl
@[simp] theorem epc_modLne (f : LneSt → LneSt) : ((s.modLne p f).pl q).epc = (s.pl q).epc := by cases p <;> cases q <;> rfl
@[simp] theorem tst_modLne (f : LneSt → LneSt) : ((s.modLne p f).pl q).tst = (s.pl q).tst := by cases p <;> cases q <;> rfl
@[simp] theorem col_modLne (f : LneSt → LneSt) : ((s.modLne p f).pl q).col = (s.pl q).col := by cases p <;> cases q <;> rfl
@[simp] theorem dsp_modLne (f : LneSt → LneSt) : ((s.modLne p f).pl q).dsp = (s.pl q).dsp := by cases p <;> cases q <;> rfl
@[simp] theorem mem_modLne (f : LneSt → LneSt) : ((s.modLne p f).pl q).mem = (s.pl q).mem := by cases p <;> cases q <;> rfl
@[simp] theorem pending_modLne (f : LneSt → LneSt) : (s.modLne p f).pending = s.pending := by cases p <;> rfl
@[simp] theorem pkg_modLne (f : LneSt → LneSt) : (s.modLne p f).pkg = s.pkg := by cases p <;> rfl
@[simp] theorem ticks_modLne (f : LneSt → LneSt) : (s.modLne p f).ticks = s.ticks := by cases p <;> rfl
@[simp] theorem free_modLne (f : LneSt → LneSt) : (s.modLne p f).free = s.free := by cases p <;> rfl
@[simp] theorem out_modLne (f : LneSt → LneSt) : (s.modLne p f).out = s.out := by cases p <;> rfl
@[simp] theorem fld_modLne (f : LneSt → LneSt) (g : Fld) (j : Nat) : (s.modLne p f).fld q g j = s.fld q g j := by cases p <;> cases q <;> rfl
@[simp] theorem flag_modLne (f : LneSt → LneSt) (g : Fld) (j : Nat) : (s.modLne p f).flag q g j = s.flag q g j := by cases p <;> cases q <;> rfl
@[simp] theorem staged_modLne (f : LneSt → LneSt) (g : Fld) (j : Nat) : (s.modLne p f).staged q g j = s.staged q g j := by
  cases p <;> cases q <;> rfl
@[simp] theorem live_modLne (f : LneSt → LneSt) : (s.modLne p f).live q = s.live q := by cases p <;> cases q <;> rfl

@[simp] theorem line_modLine (f : LineSt → LineSt) : ((s.modLine p f).pl p).line = f (s.pl p).line := by cases p <;> rfl
@[simp] theorem line_modLine_other (f : LineSt → LineSt) : ((s.modLine p f).pl p.other) = s.pl p.other := by cases p <;> rfl
theorem line_modLine_ne (f : LineSt → LineSt) (h : q ≠ p) : (s.modLine p f).pl q = s.pl q := pl_setPl_ne s p q _ h
@[simp] theorem regs_modLine (f : LineSt → LineSt) : ((s.modLine p f).pl q).regs = (s.pl q).regs := by cases p <;> cases q <;> rfl
@[simp] theorem committed_modLine (f : LineSt → LineSt) : ((s.modLine p f).pl q).committed = (s.pl q).committed := by cases p <;> cases q <;> rfl
@[simp] theorem partW_modLine (f : LineSt → LineSt) : ((s.modLine p f).pl q).partW = (s.pl q).partW := by cases p <;> cases q <;> rfl
@[simp] theorem latch_modLine (f : LineSt → LineSt) : ((s.modLine p f).pl q).latch = (s.pl q).latch := by cases p <;> cases q <;> rfl
@[simp] theorem loose_modLine (f : LineSt → LineSt) : ((s.modLine p f).pl q).loose = (s.pl q).loose := by cases p <;> cases q <;> rfl
@[simp] theorem ft_modLine (f : LineSt → LineSt) : ((s.modLine p f).pl q).ft = (s.pl q).ft := by cases p <;> cases q <;> rfl
@[simp] theorem ftRem_modLine (f : LineSt → LineSt) : ((s.modLine p f).pl q).ftRem = (s.pl q).ftRem := by cases p <;> cases q <;> rfl
@[simp] theorem lne_modLine (f : LineSt → LineSt) : ((s.modLine p f).pl q).lne = (s.pl q).lne := by cases p <;> cases q <;> rfl
@[simp] theorem lfp_modLine (f : LineSt → LineSt) : ((s.modLine p f).pl q).lfp = (s.pl q).lfp := by cases p <;> cases q <;> rfl
@[simp] theorem rte_modLine (f : LineSt → LineSt) : ((s.modLine p f).pl q).rte = (s.pl q).rte := by cases p <;> cases q <;> rfl
@[simp] theorem swc_modLine (f : LineSt → LineSt) : ((s.modLine p f).pl q).swc = (s.pl q).swc := by cases p <;> cases q <;> rfl
@[simp] theorem hif_modLine (f : LineSt → LineSt) : ((s.modLine p f).pl q).hif = (s.pl q).hif := by cases p <;> cases q <;> rfl
@[simp] theorem can_modLine (f : LineSt → LineSt) : ((s.modLine p f).pl q).can = (s.pl q).can := by cases p <;> cases q <;> rfl
@[simp] theorem epc_modLine (f : LineSt → LineSt) : ((s.modLine p f).pl q).epc = (s.pl q).epc := by cases p <;> cases q <;> rfl
@[simp] theorem tst_modLine (f : LineSt → LineSt) : ((s.modLine p f).pl q).tst = (s.pl q).tst := by cases p <;> cases q <;> rfl
@[simp] theorem col_modLine (f : LineSt → LineSt) : ((s.modLine p f).pl q).col = (s.pl q).col := by cases p <;> cases q <;> rfl
@[simp] theorem dsp_modLine (f : LineSt → LineSt) : ((s.modLine p f).pl q).dsp = (s.pl q).dsp := by cases p <;> cases q <;> rfl
@[simp] theorem mem_modLine (f : LineSt → LineSt) : ((s.modLine p f).pl q).mem = (s.pl q).mem := by cases p <;> cases q <;> rfl
@[simp] theorem pending_modLine (f : LineSt → LineSt) : (s.modLine p f).pending = s.pending := by cases p <;> rfl
@[simp] theorem pkg_modLine (f : LineSt → LineSt) : (s.modLine p f).pkg = s.pkg := by cases p <;> rfl
@[simp] theorem ticks_modLine (f : LineSt → LineSt) : (s.modLine p f).ticks = s.ticks := by cases p <;> rfl
@[simp] theorem free_modLine (f : LineSt → LineSt) : (s.modLine p f).free = s.free := by cases p <;> rfl
@[simp] theorem out_modLine (f : LineSt → LineSt) : (s.modLine p f).out = s.out := by cases p <;> rfl
@[simp] theorem fld_modLine (f : LineSt → LineSt) (g : Fld) (j : Nat) : (s.modLine p f).fld q g j = s.fld q g j := by cases p <;> cases q <;> rfl
@[simp] theorem flag_modLine (f : LineSt → LineSt) (g : Fld) (j : Nat) : (s.modLine p f).flag q g j = s.flag q g j := by cases p <;> cases q <;> rfl
@[simp] theorem staged_modLine (f : LineSt → LineSt) (g : Fld) (j : Nat) : (s.modLine p f).staged q g j = s.staged q g j := by
  cases p <;> cases q <;> rfl
@[simp] theorem live_modLine (f : LineSt → LineSt) : (s.modLine p f).live q = s.live q := by cases p <;> cases q <;> rfl

@[simp] theorem tst_modTst (f : TstSt → TstSt) : ((s.modTst p f).pl p).tst = f (s.pl p).tst := by cases p <;> rfl
@[simp] theorem tst_modTst_other (f : TstSt → TstSt) : ((s.modTst p f).pl p.other) = s.pl p.other := by cases p <;> rfl
theorem tst_modTst_ne (f : TstSt → TstSt) (h : q ≠ p) : (s.modTst p f).pl q = s.pl q := pl_setPl_ne s p q _ h
@[simp] theorem regs_modTst (f : TstSt → TstSt) : ((s.modTst p f).pl q).regs = (s.pl q).regs := by cases p <;> cases q <;> rfl
@[simp] theorem committed_modTst (f : TstSt → TstSt) : ((s.modTst p f).pl q).committed = (s.pl q).committed := by cases p <;> cases q <;> rfl
@[simp] theorem partW_modTst (f : TstSt → TstSt) : ((s.modTst p f).pl q).partW = (s.pl q).partW := by cases p <;> cases q <;> rfl
@[simp] theorem latch_modTst (f : TstSt → TstSt) : ((s.modTst p f).pl q).latch = (s.pl q).latch := by cases p <;> cases q <;> rfl
@[simp] theorem loose_modTst (f : TstSt → TstSt) : ((s.modTst p f).pl q).loose = (s.pl q).loose := by cases p <;> cases q <;> rfl
@[simp] theorem ft_modTst (f : TstSt → TstSt) : ((s.modTst p f).pl q).ft = (s.pl q).ft := by cases p <;> cases q <;> rfl
@[simp] theorem ftRem_modTst (f : TstSt → TstSt) : ((s.modTst p f).pl q).ftRem = (s.pl q).ftRem := by cases p <;> cases q <;> rfl
@[simp] theorem lne_modTst (f : TstSt → TstSt) : ((s.modTst p f).pl q).lne = (s.pl q).lne := by cases p <;> cases q <;> rfl
@[simp] theorem line_modTst (f : TstSt → TstSt) : ((s.modTst p f).pl q).line = (s.pl q).line := by cases p <;> cases q <;> rfl
@[simp] theorem lfp_modTst (f : TstSt → TstSt) : ((s.modTst p f).pl q).lfp = (s.pl q).lfp := by cases p <;> cases q <;> rfl
@[simp] theorem rte_modTst (f : TstSt → TstSt) : ((s.modTst p f).pl q).rte = (s.pl q).rte := by cases p <;> cases q <;> rfl
@[simp] theorem swc_modTst (f : TstSt → TstSt) : ((s.modTst p f).pl q).swc = (s.pl q).swc := by cases p <;> cases q <;> rfl
@[simp] theorem hif_modTst (f : TstSt → TstSt) : ((s.modTst p f).pl q).hif = (s.pl q).hif := by cases p <;> cases q <;> rfl
@[simp] theorem can_modTst (f : TstSt → TstSt) : ((s.modTst p f).pl q).can = (s.pl q).can := by cases p <;> cases q <;> rfl
@[simp] theorem epc_modTst (f : TstSt → TstSt) : ((s.modTst p f).pl q).epc = (s.pl q).epc := by cases p <;> cases q <;> rfl
@[simp] theorem col_modTst (f : TstSt → TstSt) : ((s.modTst p f).pl q).col = (s.pl q).col := by cases p <;> cases q <;> rfl
@[simp] theorem dsp_modTst (f : TstSt → TstSt) : ((s.modTst p f).pl q).dsp = (s.pl q).dsp := by cases p <;> cases q <;> rfl
@[simp] theorem mem_modTst (f : TstSt → TstSt) : ((s.modTst p f).pl q).mem = (s.pl q).mem := by cases p <;> cases q <;> rfl
@[simp] theorem pending_modTst (f : TstSt → TstSt) : (s.modTst p f).pending = s.pending := by cases p <;> rfl
@[simp] theorem pkg_modTst (f : TstSt → TstSt) : (s.modTst p f).pkg = s.pkg := by cases p <;> rfl
@[simp] theorem ticks_modTst (f : TstSt → TstSt) : (s.modTst p f).ticks = s.ticks := by cases p <;> rfl
@[simp] theorem free_modTst (f : TstSt → TstSt) : (s.modTst p f).free = s.free := by cases p <;> rfl
@[simp] theorem out_modTst (f : TstSt → TstSt) : (s.modTst p f).out = s.out := by cases p <;> rfl
@[simp] theorem fld_modTst (f : TstSt → TstSt) (g : Fld) (j : Nat) : (s.modTst p f).fld q g j = s.fld q g j := by cases p <;> cases q <;> rfl
@[simp] theorem flag_modTst (f : TstSt → TstSt) (g : Fld) (j : Nat) : (s.modTst p f).flag q g j = s.flag q g j := by cases p <;> cases q <;> rfl
@[simp] theorem staged_modTst (f : TstSt → TstSt) (g : Fld) (j : Nat) : (s.modTst p f).staged q g j = s.staged q g j := by
  cases p <;> cases q <;> rfl
@[simp] theorem live_modTst (f : TstSt → TstSt) : (s.modTst p f).live q = s.live q := by cases p <;> cases q <;> rfl

@[simp] theorem regs_setF (f : Fld) (i v : Nat) : ((s.setF p f i v).pl p).regs = f.set i v (s.pl p).regs := by cases p <;> rfl
@[simp] theorem regs_setF_other (f : Fld) (i v : Nat) : ((s.setF p f i v).pl p.other) = s.pl p.other := by cases p <;> rfl
theorem regs_setF_ne (f : Fld) (i v : Nat) (h : q ≠ p) : (s.setF p f i v).pl q = s.pl q := pl_setPl_ne s p q _ h
@[simp] theorem committed_setF (f : Fld) (i v : Nat) : ((s.setF p f i v).pl q).committed = (s.pl q).committed := by cases p <;> cases q <;> rfl
@[simp] theorem partW_setF (f : Fld) (i v : Nat) : ((s.setF p f i v).pl q).partW = (s.pl q).partW := by cases p <;> cases q <;> rfl
@[simp] theorem latch_setF (f : Fld) (i v : Nat) : ((s.setF p f i v).pl q).latch = (s.pl q).latch := by cases p <;> cases q <;> rfl
@[simp] theorem loose_setF (f : Fld) (i v : Nat) : ((s.setF p f i v).pl q).loose = (s.pl q).loose := by cases p <;> cases q <;> rfl
@[simp] theorem ft_setF (f : Fld) (i v : Nat) : ((s.setF p f i v).pl q).ft = (s.pl q).ft := by cases p <;> cases q <;> rfl
@[simp] theorem ftRem_setF (f : Fld) (i v : Nat) : ((s.setF p f i v).pl q).ftRem = (s.pl q).ftRem := by cases p <;> cases q <;> rfl
@[simp] theorem lne_setF (f : Fld) (i v : Nat) : ((s.setF p f i v).pl q).lne = (s.pl q).lne := by cases p <;> cases q <;> rfl
@[simp] theorem line_setF (f : Fld) (i v : Nat) : ((s.setF p f i v).pl q).line = (s.pl q).line := by cases p <;> cases q <;> rfl
@[simp] theorem lfp_setF (f : Fld) (i v : Nat) : ((s.setF p f i v).pl q).lfp = (s.pl q).lfp := by cases p <;> cases q <;> rfl
@[simp] theorem rte_setF (f : Fld) (i v : Nat) : ((s.setF p f i v).pl q).rte = (s.pl q).rte := by cases p <;> cases q <;> rfl
@[simp] theorem swc_setF (f : Fld) (i v : Nat) : ((s.setF p f i v).pl q).swc = (s.pl q).swc := by cases p <;> cases q <;> rfl
@[simp] theorem hif_setF (f : Fld) (i v : Nat) : ((s.setF p f i v).pl q).hif = (s.pl q).hif := by cases p <;> cases q <;> rfl
@[simp] theorem can_setF (f : Fld) (i v : Nat) : ((s.setF p f i v).pl q).can = (s.pl q).can := by cases p <;> cases q <;> rfl
@[simp] theorem epc_setF (f : Fld) (i v : Nat) : ((s.setF p f i v).pl q).epc = (s.pl q).epc := by cases p <;> cases q <;> rfl
@[simp] theorem tst_setF (f : Fld) (i v : Nat) : ((s.setF p f i v).pl q).tst = (s.pl q).tst := by cases p <;> cases q <;> rfl
@[simp] theorem col_setF (f : Fld) (i v : Nat) : ((s.setF p f i v).pl q).col = (s.pl q).col := by cases p <;> cases q <;> rfl
@[simp] theorem dsp_setF (f : Fld) (i v : Nat) : ((s.setF p f i v).pl q).dsp = (s.pl q).dsp := by cases p <;> cases q <;> rfl
@[simp] theorem mem_setF (f : Fld) (i v : Nat) : ((s.setF p f i v).pl q).mem = (s.pl q).mem := by cases p <;> cases q <;> rfl
@[simp] theorem pending_setF (f : Fld) (i v : Nat) : (s.setF p f i v).pending = s.pending := by cases p <;> rfl
@[simp] theorem pkg_setF (f : Fld) (i v : Nat) : (s.setF p f i v).pkg = s.pkg := by cases p <;> rfl
@[simp] theorem ticks_setF (f : Fld) (i v : Nat) : (s.setF p f i v).ticks = s.ticks := by cases p <;> rfl
@[simp] theorem free_setF (f : Fld) (i v : Nat) : (s.setF p f i v).free = s.free := by cases p <;> rfl
@[simp] theorem out_setF (f : Fld) (i v : Nat) : (s.setF p f i v).out = s.out := by cases p <;> rfl
@[simp] theorem live_setF (f : Fld) (i v : Nat) : (s.setF p f i v).live q = s.live q := by cases p <;> cases q <;> rfl

@[simp] theorem regs_setFlag (f : Fld) (i : Nat) (b : Bool) : ((s.setFlag p f i b).pl p).regs = f.set i (b2n b) (s.pl p).regs := by cases p <;> rfl
@[simp] theorem regs_setFlag_other (f : Fld) (i : Nat) (b : Bool) : ((s.setFlag p f i b).pl p.other) = s.pl p.other := by cases p <;> rfl
theorem regs_setFlag_ne (f : Fld) (i : Nat) (b : Bool) (h : q ≠ p) : (s.setFlag p f i b).pl q = s.pl q := pl_setPl_ne s p q _ h
@[simp] theorem committed_setFlag (f : Fld) (i : Nat) (b : Bool) : ((s.setFlag p f i b).pl q).committed = (s.pl q).committed := by cases p <;> cases q <;> rfl
@[simp] theorem partW_setFlag (f : Fld) (i : Nat) (b : Bool) : ((s.setFlag p f i b).pl q).partW = (s.pl q).partW := by cases p <;> cases q <;> rfl
@[simp] theorem latch_setFlag (f : Fld) (i : Nat) (b : Bool) : ((s.setFlag p f i b).pl q).latch = (s.pl q).latch := by cases p <;> cases q <;> rfl
@[simp] theorem loose_setFlag (f : Fld) (i : Nat) (b : Bool) : ((s.setFlag p f i b).pl q).loose = (s.pl q).loose := by cases p <;> cases q <;> rfl
@[simp] theorem ft_setFlag (f : Fld) (i : Nat) (b : Bool) : ((s.setFlag p f i b).pl q).ft = (s.pl q).ft := by cases p <;> cases q <;> rfl
@[simp] theorem ftRem_setFlag (f : Fld) (i : Nat) (b : Bool) : ((s.setFlag p f i b).pl q).ftRem = (s.pl q).ftRem := by cases p <;> cases q <;> rfl
@[simp] theorem lne_setFlag (f : Fld) (i : Nat) (b : Bool) : ((s.setFlag p f i b).pl q).lne = (s.pl q).lne := by cases p <;> cases q <;> rfl
@[simp] theorem line_setFlag (f : Fld) (i : Nat) (b : Bool) : ((s.setFlag p f i b).pl q).line = (s.pl q).line := by cases p <;> cases q <;> rfl
@[simp] theorem lfp_setFlag (f : Fld) (i : Nat) (b : Bool) : ((s.setFlag p f i b).pl q).lfp = (s.pl q).lfp := by cases p <;> cases q <;> rfl
@[simp] theorem rte_setFlag (f : Fld) (i : Nat) (b : Bool) : ((s.setFlag p f i b).pl q).rte = (s.pl q).rte := by cases p <;> cases q <;> rfl
@[simp] theorem swc_setFlag (f : Fld) (i : Nat) (b : Bool) : ((s.setFlag p f i b).pl q).swc = (s.pl q).swc := by cases p <;> cases q <;> rfl
@[simp] theorem hif_setFlag (f : Fld) (i : Nat) (b : Bool) : ((s.setFlag p f i b).pl q).hif = (s.pl q).hif := by cases p <;> cases q <;> rfl
@[simp] theorem can_setFlag (f : Fld) (i : Nat) (b : Bool) : ((s.setFlag p f i b).pl q).can = (s.pl q).can := by cases p <;> cases q <;> rfl
@[simp] theorem epc_setFlag (f : Fld) (i : Nat) (b : Bool) : ((s.setFlag p f i b).pl q).epc = (s.pl q).epc := by cases p <;> cases q <;> rfl
@[simp] theorem tst_setFlag (f : Fld) (i : Nat) (b : Bool) : ((s.setFlag p f i b).pl q).tst = (s.pl q).tst := by cases p <;> cases q <;> rfl
@[simp] theorem col_setFlag (f : Fld) (i : Nat) (b : Bool) : ((s.setFlag p f i b).pl q).col = (s.pl q).col := by cases p <;> cases q <;> rfl
@[simp] theorem dsp_setFlag (f : Fld) (i : Nat) (b : Bool) : ((s.setFlag p f i b).pl q).dsp = (s.pl q).dsp := by cases p <;> cases q <;> rfl
@[simp] theorem mem_setFlag (f : Fld) (i : Nat) (b : Bool) : ((s.setFlag p f i b).pl q).mem = (s.pl q).mem := by cases p <;> cases q <;> rfl
@[simp] theorem pending_setFlag (f : Fld) (i : Nat) (b : Bool) : (s.setFlag p f i b).pending = s.pending := by cases p <;> rfl
@[simp] theorem pkg_setFlag (f : Fld) (i : Nat) (b : Bool) : (s.setFlag p f i b).pkg = s.pkg := by cases p <;> rfl
@[simp] theorem ticks_setFlag (f : Fld) (i : Nat) (b : Bool) : (s.setFlag p f i b).ticks = s.ticks := by cases p <;> rfl
@[simp] theorem free_setFlag (f : Fld) (i : Nat) (b : Bool) : (s.setFlag p f i b).free = s.free := by cases p <;> rfl
@[simp] theorem out_setFlag (f : Fld) (i : Nat) (b : Bool) : (s.setFlag p f i b).out = s.out := by cases p <;> rfl
@[simp] theorem live_setFlag (f : Fld) (i : Nat) (b : Bool) : (s.setFlag p f i b).live q = s.live q := by cases p <;> cases q <;> rfl

@[simp] theorem regs_count (f : Fld) (i : Nat) : ((s.count p f i).pl p).regs = f.set i (satInc f.width (s.staged p f i)) (s.pl p).regs := by cases p <;> rfl
@[simp] theorem regs_count_other (f : Fld) (i : Nat) : ((s.count p f i).pl p.other) = s.pl p.other := by cases p <;> rfl
theorem regs_count_ne (f : Fld) (i : Nat) (h : q ≠ p) : (s.count p f i).pl q = s.pl q := pl_setPl_ne s p q _ h
@[simp] theorem committed_count (f : Fld) (i : Nat) : ((s.count p f i).pl q).committed = (s.pl q).committed := by cases p <;> cases q <;> rfl
@[simp] theorem partW_count (f : Fld) (i : Nat) : ((s.count p f i).pl q).partW = (s.pl q).partW := by cases p <;> cases q <;> rfl
@[simp] theorem latch_count (f : Fld) (i : Nat) : ((s.count p f i).pl q).latch = (s.pl q).latch := by cases p <;> cases q <;> rfl
@[simp] theorem loose_count (f : Fld) (i : Nat) : ((s.count p f i).pl q).loose = (s.pl q).loose := by cases p <;> cases q <;> rfl
@[simp] theorem ft_count (f : Fld) (i : Nat) : ((s.count p f i).pl q).ft = (s.pl q).ft := by cases p <;> cases q <;> rfl
@[simp] theorem ftRem_count (f : Fld) (i : Nat) : ((s.count p f i).pl q).ftRem = (s.pl q).ftRem := by cases p <;> cases q <;> rfl
@[simp] theorem lne_count (f : Fld) (i : Nat) : ((s.count p f i).pl q).lne = (s.pl q).lne := by cases p <;> cases q <;> rfl
@[simp] theorem line_count (f : Fld) (i : Nat) : ((s.count p f i).pl q).line = (s.pl q).line := by cases p <;> cases q <;> rfl
@[simp] theorem lfp_count (f : Fld) (i : Nat) : ((s.count p f i).pl q).lfp = (s.pl q).lfp := by cases p <;> cases q <;> rfl
@[simp] theorem rte_count (f : Fld) (i : Nat) : ((s.count p f i).pl q).rte = (s.pl q).rte := by cases p <;> cases q <;> rfl
@[simp] theorem swc_count (f : Fld) (i : Nat) : ((s.count p f i).pl q).swc = (s.pl q).swc := by cases p <;> cases q <;> rfl
@[simp] theorem hif_count (f : Fld) (i : Nat) : ((s.count p f i).pl q).hif = (s.pl q).hif := by cases p <;> cases q <;> rfl
@[simp] theorem can_count (f : Fld) (i : Nat) : ((s.count p f i).pl q).can = (s.pl q).can := by cases p <;> cases q <;> rfl
@[simp] theorem epc_count (f : Fld) (i : Nat) : ((s.count p f i).pl q).epc = (s.pl q).epc := by cases p <;> cases q <;> rfl
@[simp] theorem tst_count (f : Fld) (i : Nat) : ((s.count p f i).pl q).tst = (s.pl q).tst := by cases p <;> cases q <;> rfl
@[simp] theorem col_count (f : Fld) (i : Nat) : ((s.count p f i).pl q).col = (s.pl q).col := by cases p <;> cases q <;> rfl
@[simp] theorem dsp_count (f : Fld) (i : Nat) : ((s.count p f i).pl q).dsp = (s.pl q).dsp := by cases p <;> cases q <;> rfl
@[simp] theorem mem_count (f : Fld) (i : Nat) : ((s.count p f i).pl q).mem = (s.pl q).mem := by cases p <;> cases q <;> rfl
@[simp] theorem pending_count (f : Fld) (i : Nat) : (s.count p f i).pending = s.pending := by cases p <;> rfl
@[simp] theorem pkg_count (f : Fld) (i : Nat) : (s.count p f i).pkg = s.pkg := by cases p <;> rfl
@[simp] theorem ticks_count (f : Fld) (i : Nat) : (s.count p f i).ticks = s.ticks := by cases p <;> rfl
@[simp] theorem free_count (f : Fld) (i : Nat) : (s.count p f i).free = s.free := by cases p <;> rfl
@[simp] theorem out_count (f : Fld) (i : Nat) : (s.count p f i).out = s.out := by cases p <;> rfl
@[simp] theorem live_count (f : Fld) (i : Nat) : (s.count p f i).live q = s.live q := by cases p <;> cases q <;> rfl

@[simp] theorem regs_countN (f : Fld) (i n : Nat) : ((s.countN p f i n).pl p).regs = f.set i (satAdd f.width (s.staged p f i) n) (s.pl p).regs := by cases p <;> rfl
@[simp] theorem regs_countN_other (f : Fld) (i n : Nat) : ((s.countN p f i n).pl p.other) = s.pl p.other := by cases p <;> rfl
theorem regs_countN_ne (f : Fld) (i n : Nat) (h : q ≠ p) : (s.countN p f i n).pl q = s.pl q := pl_setPl_ne s p q _ h
@[simp] theorem committed_countN (f : Fld) (i n : Nat) : ((s.countN p f i n).pl q).committed = (s.pl q).committed := by cases p <;> cases q <;> rfl
@[simp] theorem partW_countN (f : Fld) (i n : Nat) : ((s.countN p f i n).pl q).partW = (s.pl q).partW := by cases p <;> cases q <;> rfl
@[simp] theorem latch_countN (f : Fld) (i n : Nat) : ((s.countN p f i n).pl q).latch = (s.pl q).latch := by cases p <;> cases q <;> rfl
@[simp] theorem loose_countN (f : Fld) (i n : Nat) : ((s.countN p f i n).pl q).loose = (s.pl q).loose := by cases p <;> cases q <;> rfl
@[simp] theorem ft_countN (f : Fld) (i n : Nat) : ((s.countN p f i n).pl q).ft = (s.pl q).ft := by cases p <;> cases q <;> rfl
@[simp] theorem ftRem_countN (f : Fld) (i n : Nat) : ((s.countN p f i n).pl q).ftRem = (s.pl q).ftRem := by cases p <;> cases q <;> rfl
@[simp] theorem lne_countN (f : Fld) (i n : Nat) : ((s.countN p f i n).pl q).lne = (s.pl q).lne := by cases p <;> cases q <;> rfl
@[simp] theorem line_countN (f : Fld) (i n : Nat) : ((s.countN p f i n).pl q).line = (s.pl q).line := by cases p <;> cases q <;> rfl
@[simp] theorem lfp_countN (f : Fld) (i n : Nat) : ((s.countN p f i n).pl q).lfp = (s.pl q).lfp := by cases p <;> cases q <;> rfl
@[simp] theorem rte_countN (f : Fld) (i n : Nat) : ((s.countN p f i n).pl q).rte = (s.pl q).rte := by cases p <;> cases q <;> rfl
@[simp] theorem swc_countN (f : Fld) (i n : Nat) : ((s.countN p f i n).pl q).swc = (s.pl q).swc := by cases p <;> cases q <;> rfl
@[simp] theorem hif_countN (f : Fld) (i n : Nat) : ((s.countN p f i n).pl q).hif = (s.pl q).hif := by cases p <;> cases q <;> rfl
@[simp] theorem can_countN (f : Fld) (i n : Nat) : ((s.countN p f i n).pl q).can = (s.pl q).can := by cases p <;> cases q <;> rfl
@[simp] theorem epc_countN (f : Fld) (i n : Nat) : ((s.countN p f i n).pl q).epc = (s.pl q).epc := by cases p <;> cases q <;> rfl
@[simp] theorem tst_countN (f : Fld) (i n : Nat) : ((s.countN p f i n).pl q).tst = (s.pl q).tst := by cases p <;> cases q <;> rfl
@[simp] theorem col_countN (f : Fld) (i n : Nat) : ((s.countN p f i n).pl q).col = (s.pl q).col := by cases p <;> cases q <;> rfl
@[simp] theorem dsp_countN (f : Fld) (i n : Nat) : ((s.countN p f i n).pl q).dsp = (s.pl q).dsp := by cases p <;> cases q <;> rfl
@[simp] theorem mem_countN (f : Fld) (i n : Nat) : ((s.countN p f i n).pl q).mem = (s.pl q).mem := by cases p <;> cases q <;> rfl
@[simp] theorem pending_countN (f : Fld) (i n : Nat) : (s.countN p f i n).pending = s.pending := by cases p <;> rfl
@[simp] theorem pkg_countN (f : Fld) (i n : Nat) : (s.countN p f i n).pkg = s.pkg := by cases p <;> rfl
@[simp] theorem ticks_countN (f : Fld) (i n : Nat) : (s.countN p f i n).ticks = s.ticks := by cases p <;> rfl
@[simp] theorem free_countN (f : Fld) (i n : Nat) : (s.countN p f i n).free = s.free := by cases p <;> rfl
@[simp] theorem out_countN (f : Fld) (i n : Nat) : (s.countN p f i n).out = s.out := by cases p <;> rfl
@[simp] theorem live_countN (f : Fld) (i n : Nat) : (s.countN p f i n).live q = s.live q := by cases p <;> cases q <;> rfl

@[simp] theorem regs_setWord (r : Reg) (i k : Nat) (v : Word) : ((s.setWord p r i k v).pl p).regs = putWord r i k v (s.pl p).regs := by cases p <;> rfl
@[simp] theorem regs_setWord_other (r : Reg) (i k : Nat) (v : Word) : ((s.setWord p r i k v).pl p.other) = s.pl p.other := by cases p <;> rfl
theorem regs_setWord_ne (r : Reg) (i k : Nat) (v : Word) (h : q ≠ p) : (s.setWord p r i k v).pl q = s.pl q := pl_setPl_ne s p q _ h
@[simp] theorem committed_setWord (r : Reg) (i k : Nat) (v : Word) : ((s.setWord p r i k v).pl q).committed = (s.pl q).committed := by cases p <;> cases q <;> rfl
@[simp] theorem partW_setWord (r : Reg) (i k : Nat) (v : Word) : ((s.setWord p r i k v).pl q).partW = (s.pl q).partW := by cases p <;> cases q <;> rfl
@[simp] theorem latch_setWord (r : Reg) (i k : Nat) (v : Word) : ((s.setWord p r i k v).pl q).latch = (s.pl q).latch := by cases p <;> cases q <;> rfl
@[simp] theorem loose_setWord (r : Reg) (i k : Nat) (v : Word) : ((s.setWord p r i k v).pl q).loose = (s.pl q).loose := by cases p <;> cases q <;> rfl
@[simp] theorem ft_setWord (r : Reg) (i k : Nat) (v : Word) : ((s.setWord p r i k v).pl q).ft = (s.pl q).ft := by cases p <;> cases q <;> rfl
@[simp] theorem ftRem_setWord (r : Reg) (i k : Nat) (v : Word) : ((s.setWord p r i k v).pl q).ftRem = (s.pl q).ftRem := by cases p <;> cases q <;> rfl
@[simp] theorem lne_setWord (r : Reg) (i k : Nat) (v : Word) : ((s.setWord p r i k v).pl q).lne = (s.pl q).lne := by cases p <;> cases q <;> rfl
@[simp] theorem line_setWord (r : Reg) (i k : Nat) (v : Word) : ((s.setWord p r i k v).pl q).line = (s.pl q).line := by cases p <;> cases q <;> rfl
@[simp] theorem lfp_setWord (r : Reg) (i k : Nat) (v : Word) : ((s.setWord p r i k v).pl q).lfp = (s.pl q).lfp := by cases p <;> cases q <;> rfl
@[simp] theorem rte_setWord (r : Reg) (i k : Nat) (v : Word) : ((s.setWord p r i k v).pl q).rte = (s.pl q).rte := by cases p <;> cases q <;> rfl
@[simp] theorem swc_setWord (r : Reg) (i k : Nat) (v : Word) : ((s.setWord p r i k v).pl q).swc = (s.pl q).swc := by cases p <;> cases q <;> rfl
@[simp] theorem hif_setWord (r : Reg) (i k : Nat) (v : Word) : ((s.setWord p r i k v).pl q).hif = (s.pl q).hif := by cases p <;> cases q <;> rfl
@[simp] theorem can_setWord (r : Reg) (i k : Nat) (v : Word) : ((s.setWord p r i k v).pl q).can = (s.pl q).can := by cases p <;> cases q <;> rfl
@[simp] theorem epc_setWord (r : Reg) (i k : Nat) (v : Word) : ((s.setWord p r i k v).pl q).epc = (s.pl q).epc := by cases p <;> cases q <;> rfl
@[simp] theorem tst_setWord (r : Reg) (i k : Nat) (v : Word) : ((s.setWord p r i k v).pl q).tst = (s.pl q).tst := by cases p <;> cases q <;> rfl
@[simp] theorem col_setWord (r : Reg) (i k : Nat) (v : Word) : ((s.setWord p r i k v).pl q).col = (s.pl q).col := by cases p <;> cases q <;> rfl
@[simp] theorem dsp_setWord (r : Reg) (i k : Nat) (v : Word) : ((s.setWord p r i k v).pl q).dsp = (s.pl q).dsp := by cases p <;> cases q <;> rfl
@[simp] theorem mem_setWord (r : Reg) (i k : Nat) (v : Word) : ((s.setWord p r i k v).pl q).mem = (s.pl q).mem := by cases p <;> cases q <;> rfl
@[simp] theorem pending_setWord (r : Reg) (i k : Nat) (v : Word) : (s.setWord p r i k v).pending = s.pending := by cases p <;> rfl
@[simp] theorem pkg_setWord (r : Reg) (i k : Nat) (v : Word) : (s.setWord p r i k v).pkg = s.pkg := by cases p <;> rfl
@[simp] theorem ticks_setWord (r : Reg) (i k : Nat) (v : Word) : (s.setWord p r i k v).ticks = s.ticks := by cases p <;> rfl
@[simp] theorem free_setWord (r : Reg) (i k : Nat) (v : Word) : (s.setWord p r i k v).free = s.free := by cases p <;> rfl
@[simp] theorem out_setWord (r : Reg) (i k : Nat) (v : Word) : (s.setWord p r i k v).out = s.out := by cases p <;> rfl
@[simp] theorem live_setWord (r : Reg) (i k : Nat) (v : Word) : (s.setWord p r i k v).live q = s.live q := by cases p <;> cases q <;> rfl

@[simp] theorem loose_setFree (f : Fld) (i v : Nat) : ((s.setFree p f i v).pl p).loose = mset none (f.key i) (some v) (s.pl p).loose := by cases p <;> rfl
@[simp] theorem loose_setFree_other (f : Fld) (i v : Nat) : ((s.setFree p f i v).pl p.other) = s.pl p.other := by cases p <;> rfl
theorem loose_setFree_ne (f : Fld) (i v : Nat) (h : q ≠ p) : (s.setFree p f i v).pl q = s.pl q := pl_setPl_ne s p q _ h
@[simp] theorem regs_setFree (f : Fld) (i v : Nat) : ((s.setFree p f i v).pl q).regs = (s.pl q).regs := by cases p <;> cases q <;> rfl
@[simp] theorem committed_setFree (f : Fld) (i v : Nat) : ((s.setFree p f i v).pl q).committed = (s.pl q).committed := by cases p <;> cases q <;> rfl
@[simp] theorem partW_setFree (f : Fld) (i v : Nat) : ((s.setFree p f i v).pl q).partW = (s.pl q).partW := by cases p <;> cases q <;> rfl
@[simp] theorem latch_setFree (f : Fld) (i v : Nat) : ((s.setFree p f i v).pl q).latch = (s.pl q).latch := by cases p <;> cases q <;> rfl
@[simp] theorem ft_setFree (f : Fld) (i v : Nat) : ((s.setFree p f i v).pl q).ft = (s.pl q).ft := by cases p <;> cases q <;> rfl
@[simp] theorem ftRem_setFree (f : Fld) (i v : Nat) : ((s.setFree p f i v).pl q).ftRem = (s.pl q).ftRem := by cases p <;> cases q <;> rfl
@[simp] theorem lne_setFree (f : Fld) (i v : Nat) : ((s.setFree p f i v).pl q).lne = (s.pl q).lne := by cases p <;> cases q <;> rfl
@[simp] theorem line_setFree (f : Fld) (i v : Nat) : ((s.setFree p f i v).pl q).line = (s.pl q).line := by cases p <;> cases q <;> rfl
@[simp] theorem lfp_setFree (f : Fld) (i v : Nat) : ((s.setFree p f i v).pl q).lfp = (s.pl q).lfp := by cases p <;> cases q <;> rfl
@[simp] theorem rte_setFree (f : Fld) (i v : Nat) : ((s.setFree p f i v).pl q).rte = (s.pl q).rte := by cases p <;> cases q <;> rfl
@[simp] theorem swc_setFree (f : Fld) (i v : Nat) : ((s.setFree p f i v).pl q).swc = (s.pl q).swc := by cases p <;> cases q <;> rfl
@[simp] theorem hif_setFree (f : Fld) (i v : Nat) : ((s.setFree p f i v).pl q).hif = (s.pl q).hif := by cases p <;> cases q <;> rfl
@[simp] theorem can_setFree (f : Fld) (i v : Nat) : ((s.setFree p f i v).pl q).can = (s.pl q).can := by cases p <;> cases q <;> rfl
@[simp] theorem epc_setFree (f : Fld) (i v : Nat) : ((s.setFree p f i v).pl q).epc = (s.pl q).epc := by cases p <;> cases q <;> rfl
@[simp] theorem tst_setFree (f : Fld) (i v : Nat) : ((s.setFree p f i v).pl q).tst = (s.pl q).tst := by cases p <;> cases q <;> rfl
@[simp] theorem col_setFree (f : Fld) (i v : Nat) : ((s.setFree p f i v).pl q).col = (s.pl q).col := by cases p <;> cases q <;> rfl
@[simp] theorem dsp_setFree (f : Fld) (i v : Nat) : ((s.setFree p f i v).pl q).dsp = (s.pl q).dsp := by cases p <;> cases q <;> rfl
@[simp] theorem mem_setFree (f : Fld) (i v : Nat) : ((s.setFree p f i v).pl q).mem = (s.pl q).mem := by cases p <;> cases q <;> rfl
@[simp] theorem pending_setFree (f : Fld) (i v : Nat) : (s.setFree p f i v).pending = s.pending := by cases p <;> rfl
@[simp] theorem pkg_setFree (f : Fld) (i v : Nat) : (s.setFree p f i v).pkg = s.pkg := by cases p <;> rfl
@[simp] theorem ticks_setFree (f : Fld) (i v : Nat) : (s.setFree p f i v).ticks = s.ticks := by cases p <;> rfl
@[simp] theorem free_setFree (f : Fld) (i v : Nat) : (s.setFree p f i v).free = s.free := by cases p <;> rfl
@[simp] theorem out_setFree (f : Fld) (i v : Nat) : (s.setFree p f i v).out = s.out := by cases p <;> rfl
@[simp] theorem fld_setFree (f : Fld) (i v : Nat) (g : Fld) (j : Nat) : (s.setFree p f i v).fld q g j = s.fld q g j := by cases p <;> cases q <;> rfl
@[simp] theorem flag_setFree (f : Fld) (i v : Nat) (g : Fld) (j : Nat) : (s.setFree p f i v).flag q g j = s.flag q g j := by cases p <;> cases q <;> rfl
@[simp] theorem staged_setFree (f : Fld) (i v : Nat) (g : Fld) (j : Nat) : (s.setFree p f i v).staged q g j = s.staged q g j := by
  cases p <;> cases q <;> rfl
@[simp] theorem live_setFree (f : Fld) (i v : Nat) : (s.setFree p f i v).live q = s.live q := by cases p <;> cases q <;> rfl

@[simp] theorem loose_endFree (f : Fld) (i : Nat) : ((s.endFree p f i).pl p).loose = mset none (f.key i) none (s.pl p).loose := by cases p <;> rfl
@[simp] theorem loose_endFree_other (f : Fld) (i : Nat) : ((s.endFree p f i).pl p.other) = s.pl p.other := by cases p <;> rfl
theorem loose_endFree_ne (f : Fld) (i : Nat) (h : q ≠ p) : (s.endFree p f i).pl q = s.pl q := pl_setPl_ne s p q _ h
@[simp] theorem regs_endFree (f : Fld) (i : Nat) : ((s.endFree p f i).pl q).regs = (s.pl q).regs := by cases p <;> cases q <;> rfl
@[simp] theorem committed_endFree (f : Fld) (i : Nat) : ((s.endFree p f i).pl q).committed = (s.pl q).committed := by cases p <;> cases q <;> rfl
@[simp] theorem partW_endFree (f : Fld) (i : Nat) : ((s.endFree p f i).pl q).partW = (s.pl q).partW := by cases p <;> cases q <;> rfl
@[simp] theorem latch_endFree (f : Fld) (i : Nat) : ((s.endFree p f i).pl q).latch = (s.pl q).latch := by cases p <;> cases q <;> rfl
@[simp] theorem ft_endFree (f : Fld) (i : Nat) : ((s.endFree p f i).pl q).ft = (s.pl q).ft := by cases p <;> cases q <;> rfl
@[simp] theorem ftRem_endFree (f : Fld) (i : Nat) : ((s.endFree p f i).pl q).ftRem = (s.pl q).ftRem := by cases p <;> cases q <;> rfl
@[simp] theorem lne_endFree (f : Fld) (i : Nat) : ((s.endFree p f i).pl q).lne = (s.pl q).lne := by cases p <;> cases q <;> rfl
@[simp] theorem line_endFree (f : Fld) (i : Nat) : ((s.endFree p f i).pl q).line = (s.pl q).line := by cases p <;> cases q <;> rfl
@[simp] theorem lfp_endFree (f : Fld) (i : Nat) : ((s.endFree p f i).pl q).lfp = (s.pl q).lfp := by cases p <;> cases q <;> rfl
@[simp] theorem rte_endFree (f : Fld) (i : Nat) : ((s.endFree p f i).pl q).rte = (s.pl q).rte := by cases p <;> cases q <;> rfl
@[simp] theorem swc_endFree (f : Fld) (i : Nat) : ((s.endFree p f i).pl q).swc = (s.pl q).swc := by cases p <;> cases q <;> rfl
@[simp] theorem hif_endFree (f : Fld) (i : Nat) : ((s.endFree p f i).pl q).hif = (s.pl q).hif := by cases p <;> cases q <;> rfl
@[simp] theorem can_endFree (f : Fld) (i : Nat) : ((s.endFree p f i).pl q).can = (s.pl q).can := by cases p <;> cases q <;> rfl
@[simp] theorem epc_endFree (f : Fld) (i : Nat) : ((s.endFree p f i).pl q).epc = (s.pl q).epc := by cases p <;> cases q <;> rfl
@[simp] theorem tst_endFree (f : Fld) (i : Nat) : ((s.endFree p f i).pl q).tst = (s.pl q).tst := by cases p <;> cases q <;> rfl
@[simp] theorem col_endFree (f : Fld) (i : Nat) : ((s.endFree p f i).pl q).col = (s.pl q).col := by cases p <;> cases q <;> rfl
@[simp] theorem dsp_endFree (f : Fld) (i : Nat) : ((s.endFree p f i).pl q).dsp = (s.pl q).dsp := by cases p <;> cases q <;> rfl
@[simp] theorem mem_endFree (f : Fld) (i : Nat) : ((s.endFree p f i).pl q).mem = (s.pl q).mem := by cases p <;> cases q <;> rfl
@[simp] theorem pending_endFree (f : Fld) (i : Nat) : (s.endFree p f i).pending = s.pending := by cases p <;> rfl
@[simp] theorem pkg_endFree (f : Fld) (i : Nat) : (s.endFree p f i).pkg = s.pkg := by cases p <;> rfl
@[simp] theorem ticks_endFree (f : Fld) (i : Nat) : (s.endFree p f i).ticks = s.ticks := by cases p <;> rfl
@[simp] theorem free_endFree (f : Fld) (i : Nat) : (s.endFree p f i).free = s.free := by cases p <;> rfl
@[simp] theorem out_endFree (f : Fld) (i : Nat) : (s.endFree p f i).out = s.out := by cases p <;> rfl
@[simp] theorem fld_endFree (f : Fld) (i : Nat) (g : Fld) (j : Nat) : (s.endFree p f i).fld q g j = s.fld q g j := by cases p <;> cases q <;> rfl
@[simp] theorem flag_endFree (f : Fld) (i : Nat) (g : Fld) (j : Nat) : (s.endFree p f i).flag q g j = s.flag q g j := by cases p <;> cases q <;> rfl
@[simp] theorem staged_endFree (f : Fld) (i : Nat) (g : Fld) (j : Nat) : (s.endFree p f i).staged q g j = s.staged q g j := by
  cases p <;> cases q <;> rfl
@[simp] theorem live_endFree (f : Fld) (i : Nat) : (s.endFree p f i).live q = s.live q := by cases p <;> cases q <;> rfl

@[simp] theorem flag_emit (o : Out) (g : Fld) (j : Nat) : (s.emit o).flag q g j = s.flag q g j := by cases q <;> rfl
@[simp] theorem flag_modPkg (f : Pkg → Pkg) (g : Fld) (j : Nat) : (s.modPkg f).flag q g j = s.flag q g j := by cases q <;> rfl
@[simp] theorem flag_takeFree (g : Fld) (j : Nat) : s.takeFree.2.flag q g j = s.flag q g j := by cases q <;> rfl
@[simp] theorem fld_emit (o : Out) (g : Fld) (j : Nat) : (s.emit o).fld q g j = s.fld q g j := by cases q <;> rfl
@[simp] theorem staged_emit (o : Out) (g : Fld) (j : Nat) : (s.emit o).staged q g j = s.staged q g j := by cases q <;> rfl
@[simp] theorem live_emit (o : Out) : (s.emit o).live q = s.live q := by cases q <;> rfl
@[simp] theorem fld_modPkg (f : Pkg → Pkg) (g : Fld) (j : Nat) : (s.modPkg f).fld q g j = s.fld q g j := by cases q <;> rfl
@[simp] theorem staged_modPkg (f : Pkg → Pkg) (g : Fld) (j : Nat) : (s.modPkg f).staged q g j = s.staged q g j := by
  cases q <;> rfl
@[simp] theorem fld_takeFree (g : Fld) (j : Nat) : s.takeFree.2.fld q g j = s.fld q g j := by cases q <;> rfl

/-! ## Fields after a write of a field -/

variable {s : State} {p q : Plane}

theorem staged_setF {f : Fld} (hf : f.Ok) {i : Nat} (h : f.reg.Has i f.word) (v : Nat) :
    (s.setF p f i v).staged p f i = v % 2 ^ f.width := by
  unfold State.staged
  rw [regs_setF]
  exact Fld.get_set f hf h v _

theorem fld_setF {f : Fld} (hf : f.Ok) (hc : f.cls ≠ .g) {i : Nat} (h : f.reg.Has i f.word) (v : Nat) :
    (s.setF p f i v).fld p f i = v % 2 ^ f.width := by
  unfold State.fld
  split
  · exact absurd ‹_› hc
  · exact staged_setF hf h v

/-- A field of another register, index or word reads as before. -/
theorem staged_setF_apart {f g : Fld} {i j : Nat} (k : g.reg.Has j g.word)
    (ne : ¬ (g.reg = f.reg ∧ j = i ∧ g.word = f.word)) (v : Nat) :
    (s.setF p f i v).staged q g j = s.staged q g j := by
  unfold State.staged
  by_cases e : q = p
  · subst e
    rw [regs_setF]
    exact Fld.get_set_apart f g k ne v _
  · rw [regs_setF_ne s p q f i v e]

theorem fld_setF_apart {f g : Fld} {i j : Nat} (k : g.reg.Has j g.word)
    (ne : ¬ (g.reg = f.reg ∧ j = i ∧ g.word = f.word)) (v : Nat) :
    (s.setF p f i v).fld q g j = s.fld q g j := by
  unfold State.fld
  split
  · rw [committed_setF]
  · exact staged_setF_apart k ne v

/-- Another field of the same word reads as before. -/
theorem staged_setF_beside {f g : Fld} (hf : f.Ok) (hg : g.Ok) (e : g.reg = f.reg ∧ g.word = f.word)
    (d : f.hi < g.lo ∨ g.hi < f.lo) {i : Nat} (h : f.reg.Has i f.word) (v : Nat) :
    (s.setF p f i v).staged p g i = s.staged p g i := by
  unfold State.staged
  rw [regs_setF]
  exact Fld.get_set_beside f g hf hg e d h v _

theorem fld_setF_beside {f g : Fld} (hf : f.Ok) (hg : g.Ok) (e : g.reg = f.reg ∧ g.word = f.word)
    (d : f.hi < g.lo ∨ g.hi < f.lo) {i : Nat} (h : f.reg.Has i f.word) (v : Nat) :
    (s.setF p f i v).fld p g i = s.fld p g i := by
  unfold State.fld
  split
  · rw [committed_setF]
  · exact staged_setF_beside hf hg e d h v

theorem flag_setFlag {f : Fld} (hf : f.Ok) (hc : f.cls ≠ .g) {i : Nat} (h : f.reg.Has i f.word) (b : Bool) :
    (s.setFlag p f i b).flag p f i = b := by
  unfold State.flag State.setFlag
  rw [fld_setF hf hc h]
  have hw : 2 ≤ 2 ^ f.width := by
    have : 1 ≤ f.width := by
      unfold Fld.width
      have := hf.1
      omega
    exact Nat.pow_le_pow_right (show 0 < 2 by decide) this
  cases b
  · simp [b2n]
  · simp only [b2n, if_true, Nat.mod_eq_of_lt (show 1 < 2 ^ f.width by omega), BEq.rfl]

theorem flag_setF_apart {f g : Fld} {i j : Nat} (k : g.reg.Has j g.word)
    (ne : ¬ (g.reg = f.reg ∧ j = i ∧ g.word = f.word)) (v : Nat) :
    (s.setF p f i v).flag q g j = s.flag q g j := by
  unfold State.flag
  rw [fld_setF_apart k ne]

theorem flag_setF_beside {f g : Fld} (hf : f.Ok) (hg : g.Ok) (e : g.reg = f.reg ∧ g.word = f.word)
    (d : f.hi < g.lo ∨ g.hi < f.lo) {i : Nat} (h : f.reg.Has i f.word) (v : Nat) :
    (s.setF p f i v).flag p g i = s.flag p g i := by
  unfold State.flag
  rw [fld_setF_beside hf hg e d h]

/-- A counter that counts (R12). -/
theorem staged_count {f : Fld} (hf : f.Ok) {i : Nat} (h : f.reg.Has i f.word) :
    (s.count p f i).staged p f i = satInc f.width (s.staged p f i) := by
  unfold State.count
  rw [staged_setF hf h, Nat.mod_eq_of_lt]
  unfold satInc
  have := Nat.two_pow_pos f.width
  split <;> omega

/-- The invariant after writes. -/
theorem State.Inv.setF (h : s.Inv) (p : Plane) (f : Fld) (i v : Nat) : (s.setF p f i v).Inv := by
  intro q
  exact (State.setF_keeps (F := Nat.lor f.reg.foot 0) (Keeps.refl _ s) p f (fun k hk => by
    change (f.reg.foot ||| 0).testBit k = true
    rw [Nat.testBit_or, hk, Bool.true_or]) i v).inv q (h q)

theorem State.Inv.modPkg (h : s.Inv) (f : Pkg → Pkg) : (s.modPkg f).Inv := fun q => (pl_modPkg s q f).symm ▸ h q
theorem State.Inv.emit (h : s.Inv) (o : Out) : (s.emit o).Inv := fun q => (pl_emit s q o).symm ▸ h q
theorem State.Inv.takeFree (h : s.Inv) : s.takeFree.2.Inv := fun q => (pl_takeFree s q).symm ▸ h q

theorem State.Inv.modSwc (h : s.Inv) (p : Plane) (f : SwcSt → SwcSt) : (s.modSwc p f).Inv := fun q =>
  ⟨by simpa using (h q).regs, by simpa using (h q).committed, by simpa using (h q).sram, by simpa using (h q).lp,
    by simpa using (h q).events⟩
theorem State.Inv.modLfp (h : s.Inv) (p : Plane) (f : LfpSt → LfpSt) : (s.modLfp p f).Inv := fun q =>
  ⟨by simpa using (h q).regs, by simpa using (h q).committed, by simpa using (h q).sram, by simpa using (h q).lp,
    by simpa using (h q).events⟩
theorem State.Inv.modRte (h : s.Inv) (p : Plane) (f : RteSt → RteSt) : (s.modRte p f).Inv := fun q =>
  ⟨by simpa using (h q).regs, by simpa using (h q).committed, by simpa using (h q).sram, by simpa using (h q).lp,
    by simpa using (h q).events⟩
theorem State.Inv.modCan (h : s.Inv) (p : Plane) (f : CanSt → CanSt) : (s.modCan p f).Inv := fun q =>
  ⟨by simpa using (h q).regs, by simpa using (h q).committed, by simpa using (h q).sram, by simpa using (h q).lp,
    by simpa using (h q).events⟩
theorem State.Inv.modCol (h : s.Inv) (p : Plane) (f : ColSt → ColSt) : (s.modCol p f).Inv := fun q =>
  ⟨by simpa using (h q).regs, by simpa using (h q).committed, by simpa using (h q).sram, by simpa using (h q).lp,
    by simpa using (h q).events⟩
theorem State.Inv.modDsp (h : s.Inv) (p : Plane) (f : DspSt → DspSt) : (s.modDsp p f).Inv := fun q =>
  ⟨by simpa using (h q).regs, by simpa using (h q).committed, by simpa using (h q).sram, by simpa using (h q).lp,
    by simpa using (h q).events⟩
theorem State.Inv.modEpc (h : s.Inv) (p : Plane) (f : EpcSt → EpcSt) : (s.modEpc p f).Inv := fun q =>
  ⟨by simpa using (h q).regs, by simpa using (h q).committed, by simpa using (h q).sram, by simpa using (h q).lp,
    by simpa using (h q).events⟩
theorem State.Inv.modLne (h : s.Inv) (p : Plane) (f : LneSt → LneSt) : (s.modLne p f).Inv := fun q =>
  ⟨by simpa using (h q).regs, by simpa using (h q).committed, by simpa using (h q).sram, by simpa using (h q).lp,
    by simpa using (h q).events⟩
theorem State.Inv.modLine (h : s.Inv) (p : Plane) (f : LineSt → LineSt) : (s.modLine p f).Inv := fun q =>
  ⟨by simpa using (h q).regs, by simpa using (h q).committed, by simpa using (h q).sram, by simpa using (h q).lp,
    by simpa using (h q).events⟩
theorem State.Inv.modTst (h : s.Inv) (p : Plane) (f : TstSt → TstSt) : (s.modTst p f).Inv := fun q =>
  ⟨by simpa using (h q).regs, by simpa using (h q).committed, by simpa using (h q).sram, by simpa using (h q).lp,
    by simpa using (h q).events⟩

/-- The value in force of a flag outside a footprint is as before. -/
theorem Keeps.flag_eq {F : Foot} {t : State} (h : Keeps F s t) (p : Plane) {f : Fld}
    (hr : F.testBit f.reg.num = false) (hc : F.testBit Part.committed.num = false) {i : Nat}
    (k : f.reg.Has i f.word) : t.flag p f i = s.flag p f i := by
  unfold State.flag
  rw [h.fld_eq p hr hc k]

theorem flag_setF_bit {f : Fld} (hf : f.Ok) (hc : f.cls ≠ .g) {i : Nat} (h : f.reg.Has i f.word) (b : Bool) :
    (s.setF p f i (b2n b)).flag p f i = b := flag_setFlag hf hc h b

theorem word_setWord {r : Reg} {i w : Nat} (h : r.Has i w) (v : Word) : (s.setWord p r i w v).word p r i w = v := by
  unfold State.word
  rw [regs_setWord]
  exact wordAt_putWord h v _

theorem word_setWord_apart {r g : Reg} {i w j x : Nat} (k : g.Has j x) (ne : ¬ (g = r ∧ j = i ∧ x = w)) (v : Word) :
    (s.setWord p r i w v).word q g j x = s.word q g j x := by
  unfold State.word
  by_cases e : q = p
  · subst e
    rw [regs_setWord]
    exact wordAt_putWord_other k ne v _
  · rw [regs_setWord_ne s p q r i w v e]

/-- What holds of the whole device outside a footprint. -/
theorem Keeps.isActive_eq {F : Foot} {t : State} (h : Keeps F s t) (a : F.testBit Reg.CAN_PWR_STATE.num = false)
    (b : F.testBit Part.committed.num = false) (c : F.testBit Part.pkg.num = false) : t.isActive = s.isActive := by
  have e : t.pkg = s.pkg := h.parts .pkg c
  unfold State.isActive State.power
  rw [h.fld_eq .hoist a b (Reg.has (show 0 < 1 from Nat.zero_lt_one) _ _ (by decide)), e]

theorem Keeps.live_eq {F : Foot} {t : State} (h : Keeps F s t) (a : F.testBit Part.epc.num = false)
    (c : F.testBit Part.pkg.num = false) : t.live q = s.live q := by
  have e : t.pkg = s.pkg := h.parts .pkg c
  have k : (t.pl q).epc = (s.pl q).epc := h.parts .epc a q
  unfold State.live
  rw [e, k]

theorem Keeps.inv_all {F : Foot} {t : State} (h : Keeps F s t) (hi : s.Inv) : t.Inv := fun p => h.inv p (hi p)

end Sys2Proof.Machine
end

