-- ==== Sys2Proof/Laws/Tables.lean ====
section
/-! SUPPORT. Tables of the state: what an entry reads as after an update of it or of another, and outside a footprint. -/

namespace Sys2Proof.Machine

variable {F : Foot} {s t : State} (p q : Plane)

@[simp] theorem lane_modLane (l : Nat) (f : LaneSt → LaneSt) : (s.modLane p l f).lane p l = f (s.lane p l) := by
  unfold State.lane State.modLane 
  simp
theorem lane_modLane_ne (l j : Nat) (f : LaneSt → LaneSt) (h : j ≠ l) : (s.modLane p l f).lane p j = s.lane p j := by
  unfold State.lane State.modLane
  simp only [lne_modLne]
  exact mget_mmod_ne _ _ _ _ _ h
theorem Keeps.lane_eq (h : Keeps F s t) (e : F.testBit Part.lne.num = false) (l : Nat) : t.lane p l = s.lane p l := by
  unfold State.lane
  rw [show (t.pl p).lne = (s.pl p).lne from h.parts .lne e p]

@[simp] theorem port_modPort (i : Nat) (f : PortSt → PortSt) : (s.modPort p i f).port p i = f (s.port p i) := by
  unfold State.port State.modPort 
  simp
theorem port_modPort_ne (i j : Nat) (f : PortSt → PortSt) (h : j ≠ i) : (s.modPort p i f).port p j = s.port p j := by
  unfold State.port State.modPort
  simp only [lne_modLne]
  exact mget_mmod_ne _ _ _ _ _ h
theorem Keeps.port_eq (h : Keeps F s t) (e : F.testBit Part.lne.num = false) (i : Nat) : t.port p i = s.port p i := by
  unfold State.port
  rw [show (t.pl p).lne = (s.pl p).lne from h.parts .lne e p]

@[simp] theorem link_modLink (i : Nat) (f : LinkSt → LinkSt) : (s.modLink p i f).link p i = f (s.link p i) := by
  unfold State.link State.modLink 
  simp
theorem link_modLink_ne (i j : Nat) (f : LinkSt → LinkSt) (h : j ≠ i) : (s.modLink p i f).link p j = s.link p j := by
  unfold State.link State.modLink
  simp only [lfp_modLfp]
  exact mget_mmod_ne _ _ _ _ _ h
theorem Keeps.link_eq (h : Keeps F s t) (e : F.testBit Part.lfp.num = false) (i : Nat) : t.link p i = s.link p i := by
  unfold State.link
  rw [show (t.pl p).lfp = (s.pl p).lfp from h.parts .lfp e p]

@[simp] theorem ep_modEp (k : Nat) (f : EpSt → EpSt) : (s.modEp p k f).ep p k = f (s.ep p k) := by
  unfold State.ep State.modEp 
  simp
theorem ep_modEp_ne (k j : Nat) (f : EpSt → EpSt) (h : j ≠ k) : (s.modEp p k f).ep p j = s.ep p j := by
  unfold State.ep State.modEp
  simp only [lfp_modLfp]
  exact mget_mmod_ne _ _ _ _ _ h
theorem Keeps.ep_eq (h : Keeps F s t) (e : F.testBit Part.lfp.num = false) (k : Nat) : t.ep p k = s.ep p k := by
  unfold State.ep
  rw [show (t.pl p).lfp = (s.pl p).lfp from h.parts .lfp e p]

@[simp] theorem grp_modGrp (g : Nat) (f : GrpSt → GrpSt) : (s.modGrp p g f).grp p g = f (s.grp p g) := by
  unfold State.grp State.modGrp 
  simp
theorem grp_modGrp_ne (g j : Nat) (f : GrpSt → GrpSt) (h : j ≠ g) : (s.modGrp p g f).grp p j = s.grp p j := by
  unfold State.grp State.modGrp
  simp only [col_modCol]
  exact mget_mmod_ne _ _ _ _ _ h
theorem Keeps.grp_eq (h : Keeps F s t) (e : F.testBit Part.col.num = false) (g : Nat) : t.grp p g = s.grp p g := by
  unfold State.grp
  rw [show (t.pl p).col = (s.pl p).col from h.parts .col e p]

@[simp] theorem lyr_modLyr (l : Nat) (f : LyrSt → LyrSt) : (s.modLyr p l f).lyr p l = f (s.lyr p l) := by
  unfold State.lyr State.modLyr 
  simp
theorem lyr_modLyr_ne (l j : Nat) (f : LyrSt → LyrSt) (h : j ≠ l) : (s.modLyr p l f).lyr p j = s.lyr p j := by
  unfold State.lyr State.modLyr
  simp only [dsp_modDsp]
  exact mget_mmod_ne _ _ _ _ _ h
theorem Keeps.lyr_eq (h : Keeps F s t) (e : F.testBit Part.dsp.num = false) (l : Nat) : t.lyr p l = s.lyr p l := by
  unfold State.lyr
  rw [show (t.pl p).dsp = (s.pl p).dsp from h.parts .dsp e p]

@[simp] theorem ring_modRing (r : Nat) (f : RingSt → RingSt) : (s.modRing p r f).ring p r = f (s.ring p r) := by
  unfold State.ring State.modRing 
  simp
theorem ring_modRing_ne (r j : Nat) (f : RingSt → RingSt) (h : j ≠ r) : (s.modRing p r f).ring p j = s.ring p j := by
  unfold State.ring State.modRing
  simp only [hif_modHif]
  exact mget_mmod_ne _ _ _ _ _ h
theorem Keeps.ring_eq (h : Keeps F s t) (e : F.testBit Part.hif.num = false) (r : Nat) : t.ring p r = s.ring p r := by
  unfold State.ring
  rw [show (t.pl p).hif = (s.pl p).hif from h.parts .hif e p]

theorem credKey_inj {i vc j v : Nat} (h : vc < 16) (k : v < 16) (e : credKey i vc = credKey j v) : i = j ∧ vc = v := by
  unfold credKey at e
  omega

@[simp] theorem cred_modCred (i vc : Nat) (f : Credit → Credit) : (s.modCred p i vc f).cred p i vc = f (s.cred p i vc) := by
  unfold State.cred State.modCred
  simp
theorem cred_modCred_ne (i vc j v : Nat) (f : Credit → Credit) (h : credKey j v ≠ credKey i vc) :
    (s.modCred p i vc f).cred p j v = s.cred p j v := by
  unfold State.cred State.modCred
  simp only [lfp_modLfp]
  exact mget_mmod_ne _ _ _ _ _ h
theorem Keeps.cred_eq (h : Keeps F s t) (e : F.testBit Part.lfp.num = false) (i vc : Nat) : t.cred p i vc = s.cred p i vc := by
  unfold State.cred
  rw [show (t.pl p).lfp = (s.pl p).lfp from h.parts .lfp e p]

@[simp] theorem dstWin_modDst (k : Nat) (src : EpId) (f : DstWin → DstWin) :
    (s.modDst p k src f).dstWin p k src = f (s.dstWin p k src) := by
  unfold State.dstWin State.modDst
  simp
@[simp] theorem srcWin_modSrc (k : Nat) (dst : EpId) (f : SrcWin → SrcWin) :
    (s.modSrc p k dst f).srcWin p k dst = f (s.srcWin p k dst) := by
  unfold State.srcWin State.modSrc
  simp
@[simp] theorem stg_setStg (code vc : Nat) (l : List StageEnt) : (s.setStg p code vc l).stg p code vc = l := by
  unfold State.stg State.setStg
  simp
@[simp] theorem pkt_setPkt (pid : Nat) (b : Option BufPkt) : (s.setPkt p pid b).pkt? p pid = b := by
  unfold State.pkt? State.setPkt
  simp
@[simp] theorem tx_setTx (code : Nat) (b : Option TxProg) : (s.setTx p code b).tx? p code = b := by
  unfold State.tx? State.setTx
  simp
@[simp] theorem voq_setVoq (k : Nat) (l : List VoqEnt) : (s.setVoq p k l).voq p k = l := by
  unfold State.voq State.setVoq
  simp
@[simp] theorem timePort_modTimePort (i : Nat) (f : TimePort → TimePort) :
    (s.modTimePort p i f).timePort p i = f (s.timePort p i) := by
  unfold State.timePort State.modTimePort State.time State.modTime
  simp
@[simp] theorem time_modTime (f : TimeSt → TimeSt) : (s.modTime p f).time p = f (s.time p) := by
  unfold State.time State.modTime
  simp
@[simp] theorem half_modHalf (f : GlHalf → GlHalf) : (s.modHalf p f).half p = f (s.half p) := by
  unfold State.half State.modHalf
  simp

end Sys2Proof.Machine
end

