-- ==== Sys2Proof/Laws/LineSends.lean ====
section
/-! SUPPORT. What a block that leaves on a port does: the record of what was sent gains the block, the lanes' line code
moves on, and the ports, the lanes and the queues of the switch core stay as they are. -/

namespace Sys2Proof.Machine

variable (s : State) (p q : Plane) (i : Nat)

@[simp] theorem port_modLine (f : LineSt → LineSt) (j : Nat) : (s.modLine p f).port q j = s.port q j := by
  cases p <;> cases q <;> rfl
@[simp] theorem lane_modLine (f : LineSt → LineSt) (l : Nat) : (s.modLine p f).lane q l = s.lane q l := by
  cases p <;> cases q <;> rfl
@[simp] theorem port_modStream (f : PortLine → PortLine) (j : Nat) : (s.modStream p i f).port q j = s.port q j := by
  cases p <;> cases q <;> rfl
@[simp] theorem lane_modStream (f : PortLine → PortLine) (l : Nat) : (s.modStream p i f).lane q l = s.lane q l := by
  cases p <;> cases q <;> rfl
@[simp] theorem port_modWire (f : LaneLine → LaneLine) (l j : Nat) : (s.modWire p l f).port q j = s.port q j := by
  cases p <;> cases q <;> rfl
@[simp] theorem out_modStream (f : PortLine → PortLine) : (s.modStream p i f).out = s.out := by cases p <;> rfl
@[simp] theorem out_modWire (l : Nat) (f : LaneLine → LaneLine) : (s.modWire p l f).out = s.out := by cases p <;> rfl
@[simp] theorem stream_modStream (f : PortLine → PortLine) : (s.modStream p i f).stream p i = f (s.stream p i) := by
  cases p <;> exact mget_mmod_same ..

theorem deal_keeps_self (b : Block) : Keeps State.deal_foot s (s.deal p i b) :=
  State.deal_keeps (Keeps.refl _ _) (Foot.Sub.refl _) p i b
theorem dealAll_keeps_self (bs : List Block) : Keeps State.dealAll_foot s (s.dealAll p i bs) :=
  State.dealAll_keeps (Keeps.refl _ _) (Foot.Sub.refl _) p i bs
theorem slotAll_keeps_self (ls : List Nat) (f : Nat → Block) : Keeps State.slotAll_foot s (s.slotAll p i ls f) :=
  State.slotAll_keeps (Keeps.refl _ _) (Foot.Sub.refl _) p i ls f

@[simp] theorem out_deal (b : Block) : (s.deal p i b).out = s.out := (deal_keeps_self ..).parts .out (by decide +kernel)
@[simp] theorem out_dealAll (bs : List Block) : (s.dealAll p i bs).out = s.out :=
  (dealAll_keeps_self ..).parts .out (by decide +kernel)
@[simp] theorem out_slotAll (ls : List Nat) (f : Nat → Block) : (s.slotAll p i ls f).out = s.out :=
  (slotAll_keeps_self ..).parts .out (by decide +kernel)
@[simp] theorem port_deal (b : Block) (j : Nat) : (s.deal p i b).port q j = s.port q j :=
  (deal_keeps_self ..).port_eq q (by decide +kernel) j
@[simp] theorem port_dealAll (bs : List Block) (j : Nat) : (s.dealAll p i bs).port q j = s.port q j :=
  (dealAll_keeps_self ..).port_eq q (by decide +kernel) j
@[simp] theorem port_slotAll (ls : List Nat) (f : Nat → Block) (j : Nat) : (s.slotAll p i ls f).port q j = s.port q j :=
  (slotAll_keeps_self ..).port_eq q (by decide +kernel) j

@[simp] theorem out_slotBlock (k : Byte) (b : Bytes) :
    (s.slotBlock p i k b).out = .block p i k (slice 0 31 b) :: s.out := by
  unfold State.slotBlock
  simp
@[simp] theorem port_slotBlock (k : Byte) (b : Bytes) (j : Nat) : (s.slotBlock p i k b).port q j = s.port q j := by
  unfold State.slotBlock
  dsimp only
  rw [show ∀ (x : State) (o : Out), (x.emit o).port q j = x.port q j from fun x o => by cases q <;> rfl, port_slotAll]
@[simp] theorem out_linkBlock (b : Bytes) : (s.linkBlock p i b).out = .block p i 0x78 (slice 0 31 b) :: s.out := by
  unfold State.linkBlock
  simp
@[simp] theorem port_linkBlock (b : Bytes) (j : Nat) : (s.linkBlock p i b).port q j = s.port q j := by
  unfold State.linkBlock
  rw [show ∀ (x : State) (o : Out), (x.emit o).port q j = x.port q j from fun x o => by cases q <;> rfl, port_deal]

end Sys2Proof.Machine
end

