-- ==== Sys2Proof/Laws/Sends.lean ====
section
/-! SUPPORT. A packet that an endpoint sends leaves the windows of every endpoint as they are: what the switch core does with
it touches credits and queues only. -/

namespace Sys2Proof.Machine

variable {F : Foot} {s t : State} (p q : Plane)

theorem Keeps.eps_eq (h : Keeps F s t) (e : F.testBit Part.lfp.num = false) : (t.pl q).lfp.eps = (s.pl q).lfp.eps := by
  rw [show (t.pl q).lfp = (s.pl q).lfp from h.parts .lfp e q]

@[simp] theorem modCred_eps (i vc : Nat) (f : Credit → Credit) : ((s.modCred p i vc f).pl q).lfp.eps = (s.pl q).lfp.eps := by
  cases p <;> cases q <;> rfl

@[simp] theorem freeCredit_eps (src vc u sess : Nat) :
    ((s.freeCredit p src vc u sess).pl q).lfp.eps = (s.pl q).lfp.eps := by
  unfold State.freeCredit
  split <;> simp

theorem each_eps {α : Type} (l : List α) (f : α → State → State)
    (h : ∀ a x, ((f a x).pl q).lfp.eps = (x.pl q).lfp.eps) : ((s.each l f).pl q).lfp.eps = (s.pl q).lfp.eps := by
  unfold State.each
  induction l generalizing s with
  | nil => rfl
  | cons a l ih => exact ih.trans (h a s)

theorem count_eps (f : Fld) (i : Nat) : ((s.count p f i).pl q).lfp.eps = (s.pl q).lfp.eps := by
  cases p <;> cases q <;> rfl

theorem overflow_eps (b : BufPkt) : ((s.overflow p b).pl q).lfp.eps = (s.pl q).lfp.eps := by
  unfold State.overflow
  dsimp only
  rw [Keeps.eps_eq q (State.logError_keeps (Keeps.refl State.logError_foot _) (Foot.Sub.refl _) p 0x11 b.src 0 0 0)
    (by decide +kernel),
    Keeps.eps_eq q (State.raise_keeps (Keeps.refl State.raise_foot _) (Foot.Sub.refl _) p _ _ _) (by decide +kernel),
    count_eps, freeCredit_eps]

theorem enqueue_eps (b : BufPkt) : ((s.enqueue p b).pl q).lfp.eps = (s.pl q).lfp.eps := by
  have h : ∀ (x : State) (pid : Nat) (b : BufPkt), ((x.enterVoqs p pid b).pl q).lfp.eps = (x.pl q).lfp.eps := fun x pid b =>
    Keeps.eps_eq q (State.enterVoqs_keeps (Keeps.refl State.enterVoqs_foot _) (Foot.Sub.refl _) p pid b) (by decide +kernel)
  have m : ∀ (x : State) (f : SwcSt → SwcSt), ((x.modSwc p f).pl q).lfp.eps = (x.pl q).lfp.eps := fun x f => by
    cases p <;> cases q <;> rfl
  unfold State.enqueue
  split
  · exact overflow_eps p q b
  · dsimp only
    split
    · rw [freeCredit_eps, h, m]
    · split
      · exact m _ _
      · rw [h, m]

theorem ingressTap_eps (k : Packet) (stamp : BitVec 64) (code vc : Nat) (disc bad : Bool) :
    ((s.ingressTap p k stamp code vc disc bad).pl q).lfp.eps = (s.pl q).lfp.eps :=
  Keeps.eps_eq q (State.ingressTap_keeps (Keeps.refl State.ingressTap_foot _) (Foot.Sub.refl _) p k stamp code vc disc bad)
    (by decide +kernel)

theorem routeIn_eps (src vc units : Nat) (k : Packet) (arr : Nat) (stamp : BitVec 64) (sess : Nat) (c : Come) :
    ((s.routeIn p src vc units k arr stamp sess c).pl q).lfp.eps = (s.pl q).lfp.eps := by
  unfold State.routeIn
  split
  · rw [count_eps, freeCredit_eps]
  · dsimp only
    split
    · unfold State.discard1
      rw [count_eps, freeCredit_eps, ingressTap_eps]
    · rw [Keeps.eps_eq q (State.markRx_keeps (Keeps.refl State.markRx_foot _) (Foot.Sub.refl _) p src _)
        (by decide +kernel), freeCredit_eps, ingressTap_eps]
    · rw [enqueue_eps]
      split
      · rw [count_eps, ingressTap_eps]
      · rw [ingressTap_eps]
    · rw [enqueue_eps, ingressTap_eps]

theorem sideOut_eps (i vc : Nat) (e : SideEnt) : ((s.sideOut p i vc e).pl q).lfp.eps = (s.pl q).lfp.eps := by
  have h : ∀ (x : State) (o : Out), ((x.emit o).pl q).lfp.eps = (x.pl q).lfp.eps := fun x o => by cases q <;> rfl
  unfold State.sideOut
  dsimp only
  rw [h, Keeps.eps_eq q (State.linePacket_keeps (Keeps.refl State.linePacket_foot _) (Foot.Sub.refl _) p i false _ _)
      (by decide +kernel)]
  have m : ∀ (c : Prop) [Decidable c] (x : State), ((if c then x.countTx p i false else x).pl q).lfp.eps = (x.pl q).lfp.eps :=
    fun c _ x => by
      split
      · exact Keeps.eps_eq q (State.countTx_keeps (Keeps.refl State.countTx_foot _) (Foot.Sub.refl _) p i false)
          (by decide +kernel)
      · rfl
  rw [← m (e.what = .mark) s]
  generalize (if e.what = .mark then s.countTx p i false else s) = y
  split
  · rw [Keeps.eps_eq q (State.capture_keeps (Keeps.refl State.capture_foot _) (Foot.Sub.refl _) p _ _ _ _ _ _ _ _ _)
      (by decide +kernel), modCred_eps]
  · rw [modCred_eps]

theorem sideSend_eps (i : Nat) (w : SideWhat) (k : Packet) :
    ((s.sideSend p i w k).pl q).lfp.eps = (s.pl q).lfp.eps := by
  have ht := Keeps.eps_eq q (State.tap_keeps (Keeps.refl State.tap_foot s) (Foot.Sub.refl _) p 1 i k) (by decide +kernel)
  have hi : ∀ (x : State) (r : Nat), ((x.inject p r i).2.pl q).lfp.eps = (x.pl q).lfp.eps := fun x r =>
    Keeps.eps_eq q (State.inject_keeps (Keeps.refl State.inject_foot x) (Foot.Sub.refl _) p r i) (by decide +kernel)
  unfold State.sideSend
  generalize s.tap p 1 i k = z at ht ⊢
  obtain ⟨c, r, x⟩ := z
  dsimp only at ht ⊢
  have hz : ((if r = 0 then ((0 : Nat), x) else x.inject p (r - 1) i).2.pl q).lfp.eps = (x.pl q).lfp.eps := by
    split
    · rfl
    · exact hi x _
  generalize (if r = 0 then ((0 : Nat), x) else x.inject p (r - 1) i) = y at hz ⊢
  obtain ⟨kind, y⟩ := y
  dsimp only at hz ⊢
  split
  · rw [hz, ht]
  · split
    · rw [show ((y.setSide p i k.hdr.vc.toNat _).pl q).lfp.eps = (y.pl q).lfp.eps by cases p <;> cases q <;> rfl, hz, ht]
    · rw [sideOut_eps, hz, ht]

theorem portSend_eps (i : Nat) (k : Packet) : ((s.portSend p i k).pl q).lfp.eps = (s.pl q).lfp.eps := sideSend_eps p q i .plain k

theorem goldPump_eps (i : Nat) : ((s.goldPump p i).pl q).lfp.eps = (s.pl q).lfp.eps := by
  unfold State.goldPump
  apply each_eps
  intro _ x
  unfold State.goldPump1
  have h : ∀ (x : State) (f : TstSt → TstSt), ((x.modTst p f).pl q).lfp.eps = (x.pl q).lfp.eps := fun x f => by
    cases p <;> cases q <;> rfl
  dsimp only
  split
  · split
    · split
      · unfold State.discard1
        rw [count_eps, h]
      · rw [portSend_eps, h]
    · rfl
  · rfl

/-- A packet that an endpoint sends leaves every endpoint's windows and requests as they are. -/
theorem epSend_eps (key : Nat) (via : Option Nat) (k : Packet) :
    ((s.epSend p key via k).pl q).lfp.eps = (s.pl q).lfp.eps := by
  unfold State.epSend State.respondOn State.originate
  split
  · rw [goldPump_eps]
    cases p <;> cases q <;> rfl
  · split
    · split
      · dsimp only
        split
        · exact count_eps p q _ _
        · split
          · exact enqueue_eps p q _
          · exact count_eps p q _ _
      · exact routeIn_eps p q _ _ _ _ _ _ _ _
    · exact routeIn_eps p q _ _ _ _ _ _ _ _

theorem epSend_ep (key k' : Nat) (via : Option Nat) (k : Packet) : (s.epSend p key via k).ep q k' = s.ep q k' := by
  unfold State.ep
  rw [epSend_eps]

end Sys2Proof.Machine
end

