-- ==== Sys2Proof/WellFormed.lean ====
section
/-! DEFINITION. Which commands are well formed: the lengths of their operands are those their formats give. A malformed
command is one no sender can send; its meaning is total all the same. -/

namespace Sys2Proof

/-- A packet's payload is as long as LEN says (R34, Table 3.2). -/
def Packet.wf (k : Packet) : Bool := k.payload.length == k.hdr.len.toNat

/-- A codeword pair has 5,440 levels (R36). -/
def PairRx.wf : PairRx → Bool
  | .outcome .. => true
  | .symbols l _ => l.length == 5440

/-- A Halyard flit carries 256 bytes of data and nine counts (Table 5.6). -/
def HalFlit.wf (f : HalFlit) : Bool := f.data.length == 256 && f.counts.length == 9

/-- A Gnotric Link message has no line or one of 64 bytes (R267). -/
def GlMsg.wf (m : GlMsg) : Bool := m.line.length == 0 || m.line.length == 64

/-- A Gnotric Link flit has 15 slots (R264): as many messages as have their first slot in it. -/
def GlFlit.wf (f : GlFlit) : Bool := decide (f.msgs.length ≤ 15) && f.msgs.all (·.wf)

/-- A management message's LEN is 16 bits wide, and a signature has 114 bytes (Table 10.7, R309). -/
def MgmtReq.wf (r : MgmtReq) : Bool := decide (r.body.length < 65536) && (r.sig.length == if r.signed then 114 else 0) &&
  r.fp.length == 32

/-- The times of a TIME block have 64 bits of nanoseconds and 16 of fraction (Table 12.2). -/
def TimeBlock.wf (b : TimeBlock) : Bool := decide (b.t < 2 ^ 80) && decide (b.t3 < 2 ^ 80)

/-- A command is well formed. -/
def Instr.wf : Instr → Bool
  | .trainingFrame _ _ b _ => b.length == 16
  | .alignmentMarker _ _ b _ _ => b.length == 31
  | .ensignBlock _ _ b => b.length == 31
  | .codewordPair _ _ r => r.wf
  | .packetIngress _ _ k _ _ _ _ => k.wf
  | .creditBlock _ _ c _ | .sentBlock _ _ c _ => c.length == 9
  | .halyardFlit _ f => f.wf
  | .windowedArrival _ _ k | .winSync _ _ k | .ackReceived _ _ k | .cplReceived _ _ k | .gepReceive _ _ k => k.wf
  | .slotCred _ k | .colCtl _ k | .copy _ k => k.wf
  | .put _ k _ | .get _ k _ | .putRed _ k _ | .faddI _ k _ | .faddF _ k _ | .cas _ k _ | .swap _ k _ | .amax _ k _
  | .amin _ k _ | .contrib _ k _ | .partialIn _ k _ | .token _ k _ | .expertOut _ k _ => k.wf
  | .glInitFlit _ f | .glFlit _ f => f.wf
  | .glData _ m | .glCmp _ m | .snpInv _ m | .mmioRd _ m | .mmioWr _ m => m.wf
  | .eventRaise _ _ _ args => decide (args.length ≤ 4)
  | .handover _ r => r.all (·.wf)
  | .healthGet r | .sensorGet r | .attest r | .neighbourGet r | .capSet r | .powerSet r | .fwWrite r
  | .svnCommit r | .keyRevoke r _ | .ownerSet r | .masterHandover r => r.wf
  | .inventoryGet r _ => r.wf
  | .fwActivate r => r.wf
  | .mgmtUnknown r _ => r.wf
  | .sync _ _ b | .dreq _ _ b | .dresp _ _ b => b.wf
  | .timeFlit _ b => b.wf
  | .registerWrite .. | .resetDeassert .. | .selfTestDone .. | .swcRst .. | .colRst .. | .dspRst .. | .memRst ..
  | .tstRst .. | .blockResetDone .. | .portEnable .. | .portDisable .. | .detectSense .. | .trainTimeout ..
  | .markerLoss .. | .lockTimeout .. | .signalDetectLoss .. | .exchangeTimeout .. | .ensignTailEnd ..
  | .portAdmit .. | .retrain .. | .restore .. | .restoreAutoTick .. | .wireCtlWrite .. | .neighbourMissing ..
  | .widthBlock .. | .widthSend .. | .runLimit .. | .lpiIdleExpiry .. | .lpiBlock .. | .lpiWake .. | .wakeTimeout ..
  | .lpiMaxWake .. | .lpiReentryAllowed .. | .txSquelch .. | .prbsClr .. | .prbsLockLoss .. | .eyeScanStart ..
  | .eyeScanDone .. | .laserReady .. | .laserInputFail .. | .sopBlock .. | .pchkLinkSilence .. | .creditSend ..
  | .sentSend .. | .packetTransmit .. | .whFallback .. | .whTruncate .. | .escapeMove .. | .cellTime .. | .cellArrival ..
  | .reseqLoss .. | .spineFail .. | .pgFail .. | .chipletFail .. | .engineFail .. | .holdDownEnd .. | .hdClr ..
  | .halyardFail | .halyardReturn | .mirrorRecord .. | .holeSkip .. | .pennantDeadline .. | .ackDelay .. | .opTimeout ..
  | .tagRelease .. | .cwndIncrease .. | .drainStart .. | .drainAbort .. | .drainMarker .. | .routeDrained ..
  | .cmapSample .. | .cmapInterval .. | .chunkFreed .. | .slotCredDelay .. | .slotCredRefresh .. | .collectiveTimeout ..
  | .groupActivate .. | .groupDeactivate .. | .groupAbort .. | .reform .. | .engineStateFlit .. | .engineStateSend ..
  | .layerTimeout .. | .layerActivate .. | .layerDeactivate .. | .layerAbort .. | .layerReform .. | .copyPieceDone ..
  | .fwdTimeout .. | .scrubTick .. | .columnRepairDone .. | .tileFail .. | .lpDeviceFail .. | .sramZeroDone ..
  | .lpInitDone .. | .lpZeroDone .. | .pprStart .. | .glDetectSense .. | .glStageTimeout .. | .glLaneFail ..
  | .glHalfDown .. | .glRetrain .. | .nop .. | .regWr .. | .regRd .. | .bulkWr .. | .modeSet .. | .cwndSet .. | .adapt ..
  | .adaptDone .. | .ringEnable .. | .ringDisable .. | .statusLineWrite .. | .intrCoalesce .. | .evtHoldEnd ..
  | .funcModeWrite .. | .hostWatchdog .. | .hostLinkLost .. | .hostBack .. | .heartbeatSend .. | .heartbeat ..
  | .heartbeatMiss .. | .cantonClaim .. | .journalRecord .. | .healthReport .. | .selfTestTick .. | .cantonWatchdog ..
  | .cantonBoot .. | .cantonBootDone .. | .handoverAck .. | .mboxSend .. | .cascadeMsg .. | .announceSend | .announce ..
  | .masterElection | .memberLost .. | .trayTimeFrame .. | .trayTimeSend .. | .ptpMessage .. | .trayCapSplit ..
  | .powerFrame .. | .inventorySave | .sensorPoll .. | .thermCapStep | .leakMeasure .. | .leakPowerOff ..
  | .throttleStep .. | .shareUpdate .. | .capUnmeet .. | .capHostWrite .. | .hostReqWrite .. | .epoAssert ..
  | .epoRelease | .thermalTrip .. | .neighbourLost | .neighbourNotify | .viewCheck | .avsSet | .commit ..
  | .commitDecision | .commitInstant | .discard .. | .cfgMeasDone | .unitRetire .. | .unitTest .. | .unitTestDone ..
  | .powerTransition | .powerState | .pwrgdLoss | .pwrgdAssert | .engineGate .. | .unitWake .. | .freeze .. | .freezePin ..
  | .errorLogged .. | .logRpWrite .. | .configEccError .. | .ftCfgWrite .. | .ftSet .. | .syncSend .. | .dreqSend ..
  | .timeSourceLost .. | .timeSourceReturn .. | .timeFlitSend .. | .ppsInEdge .. | .ppsMissing .. | .ppsOut ..
  | .genStart .. | .genStop .. | .genPacket .. | .chkClr .. | .injectDelayEnd .. | .fecInject .. | .refclkLoss ..
  | .refclkReturn .. | .aonClkLoss | .extest | .samplePreload .. | .idcode | .clamp | .highz | .extestPulse
  | .extestTrain | .bypass | .frzStatus | .frzDir | .frzChain .. | .frzMem .. | .frzReg .. | .resetAssert
  | .standbySupplyLoss | .corePllLock | .aonClkReturn | .notifyAck .. | .inventoryMinuteCount | .mgmtEthLinkChange ..
  | .alignmentMarkerSend .. | .ensignSend .. | .trainingFrameSend .. | .badOp .. => true

end Sys2Proof
end

