-- ==== Sys2Proof/Tests/Slice0.lean ====
section
/-! SUPPORT. Tests: ill-formed operands, numbers the spec states, and for every clause of the obligations an input that
meets all its conditions together. -/

set_option maxRecDepth 100000
set_option Elab.async false
set_option linter.unusedVariables false

namespace Sys2Proof.Tests
open Machine
/-- The state after reset with fields of plane Hoist set, those of class G in both copies. -/
def withF (l : List (Fld × Nat × Nat)) : State :=
  l.foldl (fun s x => s.modPl .hoist (fun y =>
    { y with
      regs := x.1.set x.2.1 x.2.2 y.regs
      committed := if x.1.cls = .g then x.1.set x.2.1 x.2.2 y.committed else y.committed })) State.reset
/-- A training control field with its CRC. -/
def trainingField : Bytes := [0xA5, 0, 0, 0, 0, 0, 0, 0, 0, 0, 0, 0, 0, 0] ++ leBytes 2 (crcMsb 16 0x1021 0xFFFF [0xA5, 0, 0, 0, 0, 0, 0, 0, 0, 0, 0, 0, 0, 0])
theorem forall_some {α : Type} (o : Option α) (P : α → Prop) [DecidablePred P] :
    (∀ x, o = some x → P x) ↔ (o.map (fun x => decide (P x))).getD true = true := by
  cases o <;> simp
/-- A request without payload. -/
def req (op : Byte) (dst src : EpId) : Packet := mkPkt tREQ op dst src 0 0 0 0 false false []
/-- A packet in the buffer that came on port 0 for one code. -/
def held (k : Packet) (code : Nat) : BufPkt := ⟨k, unitsOf k, 0, 0, 0, 0, 0, false, false, [code], .guar, code, 0, none, false, false, 0, 0, 0⟩
/-- An optical device with ports 136 to 143 of one lane each, whose lanes have failed. -/
def laserState : State :=
  (([136, 137, 138, 139, 140, 141, 142, 143].foldl (fun s k => (s.setF .hoist Fld.LNE_PORT_CFG.PORT_EN k 1).setF .hoist
    Fld.LNE_LANE_STAT.LANE_FAIL k 1) (withF [(Fld.EPC_ERR_CFG.ESC_U, 0, 0)])).modPkg (fun x => { x with optical := true }))

/-! ## Ill-formed operands are refused by the check of their kind -/

/-- A packet whose header says one byte and whose payload has none. -/
def shortPacket : Packet := { req 0x10 0 0 with hdr := { (req 0x10 0 0).hdr with len := 1 } }
/-- A management request of the host with an empty body. -/
def bareReq : MgmtReq := ⟨.hoist, .mailbox, false, 0, 0, [], [], List.replicate 32 0, false⟩
/-- A Gnotric Link message without a line. -/
def bareMsg : GlMsg := ⟨0, 0, 0, 0, 0, []⟩
/-- A Gnotric Link flit with no message. -/
def bareFlit : GlFlit := ⟨[], 0, 0, 0, false, 0, 0, 0, true⟩

theorem test_wf_frame : (Instr.trainingFrame .hoist 0 [] true).wf = false := by decide
theorem test_wf_marker : (Instr.alignmentMarker .hoist 0 [] true 0).wf = false := by decide
theorem test_wf_ensign : (Instr.ensignBlock .hoist 0 []).wf = false := by decide
theorem test_wf_packet : (Instr.packetIngress .hoist 0 shortPacket false 0 0 false).wf = false := by decide
theorem test_wf_packet_ok : (Instr.packetIngress .hoist 0 (req 0x10 0 0) false 0 0 false).wf = true := by decide
theorem test_wf_credits : (Instr.creditBlock .hoist 0 [] false).wf = false := by decide
theorem test_wf_sent : (Instr.sentBlock .hoist 0 [] false).wf = false := by decide
theorem test_wf_halyard : (Instr.halyardFlit .hoist ⟨[], 0, 0, 0, false, 0, 0, 0, false, [], true⟩).wf = false := by decide
theorem test_wf_window : (Instr.windowedArrival .hoist (.eng .mem) shortPacket).wf = false := by decide
theorem test_wf_contrib : (Instr.contrib .hoist shortPacket []).wf = false := by decide
theorem test_wf_put : (Instr.put .hoist shortPacket []).wf = false := by decide
theorem test_wf_glFlit : (Instr.glFlit .hoist { bareFlit with msgs := List.replicate 16 bareMsg }).wf = false := by decide
theorem test_wf_glMsg : (Instr.glData .hoist { bareMsg with line := [0] }).wf = false := by decide
theorem test_wf_event : (Instr.eventRaise .hoist 0 0 [0, 0, 0, 0, 0]).wf = false := by decide
theorem test_wf_signature : (Instr.handover .hoist (some { bareReq with signed := true })).wf = false := by decide
theorem test_wf_fingerprint : (Instr.healthGet { bareReq with fp := [] }).wf = false := by decide
theorem test_wf_unsigned : (Instr.inventoryGet { bareReq with sig := [0] } []).wf = false := by decide
theorem test_wf_request_ok : (Instr.healthGet bareReq).wf = true := by decide
theorem test_wf_time : (Instr.timeFlit .hoist ⟨0, 0, 0, 2 ^ 80, 0, 0⟩).wf = false := by decide
theorem test_wf_sync : (Instr.sync .hoist 0 ⟨0, 0, 0, 0, 2 ^ 80, 0⟩).wf = false := by decide

/-! ## Small checks of the spec's own numbers -/

/-- IDCODE is 0x1115_2593 (R396): bit 0 leaves first. -/
theorem test_idcode : (match exec .idcode State.reset with
    | .next t => t.pkg.tdo.take 8
    | _ => []) = [true, true, false, false, true, false, false, true] := by decide +kernel
/-- Lane 576 is the first of Fly, so its port 0 has ID 576 (R2). -/
theorem test_port_id : portId .fly 0 = 576 := by decide
/-- A counter of 32 bits stays at all ones (R12). -/
theorem test_saturate : satInc 32 0xFFFFFFFF = 0xFFFFFFFF ∧ satInc 32 7 = 8 := by decide
/-- With lane 2 of a 4-lane port out, the widest aligned set is its lanes 0 and 1 (R54). -/
theorem test_widest : widestSet 2 0b1011 = some (1, 0b0011) := by decide
/-- An unaligned address has no register (R7). -/
theorem test_unaligned : regAt 2 = none ∧ regAt 0 = some (.TOP_CHIP_ID, 0, 0) := by decide +kernel

/-! ## Inputs that meet the hypotheses of the whole-machine statements -/

theorem wit_idle : ∃ s : State, s.pending = [] := ⟨State.reset, rfl⟩
theorem wit_inv : ∃ s t : State, s.Inv ∧ step s = .next t :=
  ⟨State.reset, _, fun p => by cases p <;> exact ⟨rfl, rfl, rfl, rfl, by decide⟩, rfl⟩
theorem wit_regHas : ∃ (r : Reg) (i w : Nat), r.Has i w ∧ regAt (r.off i w) = some (r, i, w) :=
  ⟨.TST_CHK_FLOW, 4607, 0, ⟨by decide, by decide, by decide⟩, by decide +kernel⟩
theorem base_aligned (r : Reg) : r.info.base % 4 = 0 ∧ r.info.stride % 4 = 0 := by cases r <;> decide
theorem wit_noReg : ∃ a : Nat, ∀ r : Reg, ¬ r.Owns a :=
  ⟨2, fun r ⟨i, w, _, e⟩ => by
    have h := base_aligned r
    have k := congrArg (· % 4) e
    simp [Reg.off, Nat.add_mod, Nat.mul_mod, h.1, h.2] at k⟩
theorem wit_width : ∃ w : Nat, w ≤ 4 := ⟨4, by decide⟩

/-! ## Inputs that meet the conditions of each clause -/

theorem wit_portEnable_rej : ∃ (s : State) (p : Plane) (i : Fin 576) (v : Word), s.live p = true ∧ s.portEn p i =
    false ∧ bit 31 v.toNat = true ∧ s.cfgBad p i v = true :=
  ⟨(withF [(Fld.EPC_ERR_CFG.ESC_U, 0, 0)]), .hoist, 0, 0x80000005,
    by decide +kernel⟩
theorem wit_portEnable : ∃ (s : State) (p : Plane) (i : Fin 576) (v : Word), s.live p = true ∧ s.isActive = true ∧
    s.portEn p i = false ∧ bit 31 v.toNat = true ∧ s.cfgBad p i v = false :=
  ⟨(withF [(Fld.EPC_ERR_CFG.ESC_U, 0, 0), (Fld.CAN_PWR_STATE.STATE, 0, 3), (Fld.TOP_PG_STAT.PG_OK, 0, 262143),
    (Fld.TOP_UNIT_STAT.CHIPLET_OK, 0, 511)]), .hoist, 0, 0x80000000,
    by decide +kernel⟩
theorem wit_portDisable : ∃ (s : State) (p : Plane) (i : Fin 576) (v : Word), s.live p = true ∧ s.portEn p i = true
    ∧ bit 31 v.toNat = false :=
  ⟨(withF [(Fld.EPC_ERR_CFG.ESC_U, 0, 0), (Fld.LNE_PORT_CFG.PORT_EN, 0, 1)]), .hoist, 0, 0,
    by decide +kernel⟩
theorem wit_detectSense : ∃ (s : State) (p : Plane) (i : Fin 576) (mask : BitVec 16), s.live p = true ∧ s.portEn p i
    = true ∧ s.stage p i = 1 ∧ bit (i.val / 32) (s.fld p Fld.EPC_GATE_STAT.PG_PWR 0) = true ∧ s.laserOk p i = true ∧
    s.usableSet p i (Nat.land (Nat.land (s.port p i).sensed mask.toNat) (s.fullMask p i)) ≠ none :=
  ⟨(State.modPort (withF [(Fld.EPC_ERR_CFG.ESC_U, 0, 0), (Fld.LNE_PORT_CFG.PORT_EN, 0, 1), (Fld.LNE_PORT_STAT.STAGE,
    0, 1), (Fld.EPC_GATE_STAT.PG_PWR, 0, 1)]) .hoist 0 (fun x => { x with sensed := 1 })), .hoist, 0, 1,
    by decide +kernel⟩
theorem wit_trainTimeout : ∃ (s : State) (p : Plane) (i : Fin 576) (c m : Nat), s.live p = true ∧ s.portEn p i =
    true ∧ s.stage p i = 2 ∧ s.usableSet p i (maskOf 16 (fun k => bit k (s.port p i).det && (s.lane p (i +
    k)).trained)) = some (c, m) :=
  ⟨(State.modLane (State.modPort (withF [(Fld.EPC_ERR_CFG.ESC_U, 0, 0), (Fld.LNE_PORT_CFG.PORT_EN, 0, 1),
    (Fld.LNE_PORT_STAT.STAGE, 0, 2)]) .hoist 0 (fun x => { x with det := 1 })) .hoist 0 (fun x =>
    { x with trained := true })), .hoist, 0, 0, 1,
    by decide +kernel⟩
theorem wit_trainTimeout_fail : ∃ (s : State) (p : Plane) (i : Fin 576), s.live p = true ∧ s.portEn p i = true ∧
    s.stage p i = 2 ∧ s.usableSet p i (maskOf 16 (fun k => bit k (s.port p i).det && (s.lane p (i + k)).trained)) =
    none :=
  ⟨(State.modPort (withF [(Fld.EPC_ERR_CFG.ESC_U, 0, 0), (Fld.LNE_PORT_CFG.PORT_EN, 0, 1), (Fld.LNE_PORT_STAT.STAGE,
    0, 2)]) .hoist 0 (fun x => { x with det := 1 })), .hoist, 0,
    by decide +kernel⟩
theorem wit_lockTimeout : ∃ (s : State) (p : Plane) (i : Fin 576), s.live p = true ∧ s.portEn p i = true ∧ s.stage p
    i = 3 :=
  ⟨(withF [(Fld.EPC_ERR_CFG.ESC_U, 0, 0), (Fld.LNE_PORT_CFG.PORT_EN, 0, 1), (Fld.LNE_PORT_STAT.STAGE, 0, 3)]),
    .hoist, 0,
    by decide +kernel⟩
theorem wit_exchangeTimeout : ∃ (s : State) (p : Plane) (i : Fin 576), s.live p = true ∧ s.portEn p i = true ∧
    s.stage p i = 4 ∧ s.recsIn p i = false :=
  ⟨(State.modPort (withF [(Fld.EPC_ERR_CFG.ESC_U, 0, 0), (Fld.LNE_PORT_CFG.PORT_EN, 0, 1), (Fld.LNE_PORT_STAT.STAGE,
    0, 4)]) .hoist 0 (fun x => { x with set := 1 })), .hoist, 0,
    by decide +kernel⟩
theorem wit_trainingFrame : ∃ (s : State) (p : Plane) (l : Fin 584) (i : Fin 576) (b : Bytes) (c : Bool), s.live p =
    true ∧ s.portOf p l = some i.val ∧ l.val < 576 ∧ s.stage p i = 2 ∧ bit (l - i) (s.port p i).det = true ∧ bits 7
    0 (leNat (slice 0 16 b)) = 0xA5 ∧ bits 127 112 (leNat (slice 0 16 b)) = crcMsb 16 0x1021 0xFFFF (slice 0 14 b)
    :=
  ⟨(State.modPort (withF [(Fld.EPC_ERR_CFG.ESC_U, 0, 0), (Fld.LNE_PORT_CFG.PORT_EN, 0, 1), (Fld.LNE_PORT_STAT.STAGE,
    0, 2)]) .hoist 0 (fun x => { x with det := 1 })), .hoist, 0, 0, trainingField, true,
    by decide +kernel⟩
theorem wit_alignmentMarker : ∃ (s : State) (p : Plane) (l i : Fin 576) (b : Bytes) (at_ : Bool) (k : BitVec 16),
    s.live p = true ∧ s.portOf p l = some i.val ∧ s.stage p i = 3 ∧ bit (l - i) (s.port p i).set = true ∧ s.flag p
    Fld.LNE_LANE_STAT.AM_LOCK l = false ∧ (s.lane p l).amRun = 0 :=
  ⟨(State.modPort (withF [(Fld.EPC_ERR_CFG.ESC_U, 0, 0), (Fld.LNE_PORT_CFG.PORT_EN, 0, 1), (Fld.LNE_PORT_STAT.STAGE,
    0, 3)]) .hoist 0 (fun x => { x with set := 1 })), .hoist, 0, 0, [], true, 0,
    by decide +kernel⟩
theorem wit_markerLoss : ∃ (s : State) (p : Plane) (l i : Fin 576), s.live p = true ∧ s.portOf p l = some i.val ∧
    (s.stage p i = 3 ∨ s.stage p i = 4) ∧ s.flag p Fld.LNE_LANE_STAT.AM_LOCK l = true ∧ s.flag p
    Fld.LNE_LANE_STAT.LANE_FAIL l = false :=
  ⟨(withF [(Fld.EPC_ERR_CFG.ESC_U, 0, 0), (Fld.LNE_PORT_CFG.PORT_EN, 0, 1), (Fld.LNE_PORT_STAT.STAGE, 0, 3),
    (Fld.LNE_LANE_STAT.AM_LOCK, 0, 1)]), .hoist, 0, 0,
    by decide +kernel⟩
theorem wit_signalDetectLoss : ∃ (s : State) (p : Plane) (l i : Fin 576), s.live p = true ∧ s.portOf p l = some
    i.val ∧ s.stage p i = 2 :=
  ⟨(withF [(Fld.EPC_ERR_CFG.ESC_U, 0, 0), (Fld.LNE_PORT_CFG.PORT_EN, 0, 1), (Fld.LNE_PORT_STAT.STAGE, 0, 2)]),
    .hoist, 0, 0,
    by decide +kernel⟩
theorem wit_codewordPair_bad : ∃ (s : State) (p : Plane) (l i : Fin 576), s.live p = true ∧ s.portOf p l = some
    i.val ∧ bit (l - i) (s.port p i).set = true ∧ s.stage p i = 5 ∧ (s.lane p l).uncorr + 1 < max 1 (s.fld p
    Fld.LNE_GLB_CFG.UNCORR_FAIL 0) :=
  ⟨(State.modPort (withF [(Fld.EPC_ERR_CFG.ESC_U, 0, 0), (Fld.LNE_PORT_CFG.PORT_EN, 0, 1), (Fld.LNE_PORT_STAT.STAGE,
    0, 5), (Fld.LNE_GLB_CFG.UNCORR_FAIL, 0, 4)]) .hoist 0 (fun x => { x with set := 1 })), .hoist, 0, 0,
    by decide +kernel⟩
theorem wit_codewordPair : ∃ (s : State) (p : Plane) (l i : Fin 576) (k : Fin 16), s.live p = true ∧ s.portOf p l =
    some i.val ∧ k.val ≠ 0 :=
  ⟨(withF [(Fld.EPC_ERR_CFG.ESC_U, 0, 0), (Fld.LNE_PORT_CFG.PORT_EN, 0, 1), (Fld.LNE_PORT_STAT.STAGE, 0, 5)]),
    .hoist, 0, 0, 3,
    by decide +kernel⟩
theorem wit_ensignBlock : ∃ (s : State) (p : Plane) (l i : Fin 576) (b : Bytes), s.live p = true ∧ s.portOf p l =
    some i.val ∧ s.stage p i = 5 ∧ bit (l - i) (s.port p i).set = true :=
  ⟨(State.modPort (withF [(Fld.EPC_ERR_CFG.ESC_U, 0, 0), (Fld.LNE_PORT_CFG.PORT_EN, 0, 1), (Fld.LNE_PORT_STAT.STAGE,
    0, 5)]) .hoist 0 (fun x => { x with set := 1 })), .hoist, 0, 0, [],
    by decide +kernel⟩
theorem wit_ensignTailEnd : ∃ (s : State) (p : Plane) (i : Fin 576), s.live p = true ∧ s.portActive p i = true :=
  ⟨(withF [(Fld.EPC_ERR_CFG.ESC_U, 0, 0), (Fld.LNE_PORT_CFG.PORT_EN, 0, 1), (Fld.LNE_PORT_STAT.STAGE, 0, 5)]),
    .hoist, 0,
    by decide +kernel⟩
theorem wit_portAdmit : ∃ (s : State) (p : Plane) (i : Fin 576) (r : Bytes), s.live p = true ∧ s.portEn p i = true ∧
    s.stage p i = 6 ∧ s.fld p Fld.LNE_PORT_STAT.REASON i ≠ 7 ∧ s.fld p Fld.LNE_PORT_STAT.REASON i ≠ 8 ∧ s.farRec p i
    = some r ∧ (s.port p i).farFlag = false :=
  ⟨(State.modLane (State.modPort (withF [(Fld.EPC_ERR_CFG.ESC_U, 0, 0), (Fld.LNE_PORT_CFG.PORT_EN, 0, 1),
    (Fld.LNE_PORT_STAT.STAGE, 0, 6)]) .hoist 0 (fun x => { x with set := 1 })) .hoist 0 (fun x =>
    { x with rec_ := some [] })), .hoist, 0, [],
    by decide +kernel⟩
theorem wit_retrain : ∃ (s : State) (p : Plane) (i : Fin 576), s.live p = true ∧ s.portEn p i = true ∧ s.isActive =
    true ∧ s.unitOk p i = true :=
  ⟨(withF [(Fld.EPC_ERR_CFG.ESC_U, 0, 0), (Fld.LNE_PORT_CFG.PORT_EN, 0, 1), (Fld.LNE_PORT_STAT.STAGE, 0, 5),
    (Fld.CAN_PWR_STATE.STATE, 0, 3), (Fld.TOP_PG_STAT.PG_OK, 0, 262143), (Fld.TOP_UNIT_STAT.CHIPLET_OK, 0, 511)]),
    .hoist, 0,
    by decide +kernel⟩
theorem wit_restore : ∃ (s : State) (p : Plane) (i : Fin 576), s.live p = true ∧ s.portEn p i = true ∧ s.stage p i =
    5 ∧ s.idleMask p i ≠ 0 ∧ (s.port p i).restoring = false :=
  ⟨(State.modPort (withF [(Fld.EPC_ERR_CFG.ESC_U, 0, 0), (Fld.LNE_PORT_CFG.PORT_EN, 0, 1), (Fld.LNE_PORT_STAT.STAGE,
    0, 5)]) .hoist 0 (fun x => { x with fail := 1 })), .hoist, 0,
    by decide +kernel⟩
theorem wit_restoreAutoTick : ∃ (s : State) (p : Plane) (i : Fin 576), s.live p = true ∧ s.hostRecovery p = false ∧
    s.activePorts p = [i.val] ∧ s.flag p Fld.LNE_PORT_CFG.RESTORE_AUTO i = true ∧ s.stage p i = 5 ∧ s.idleMask p i ≠
    0 ∧ (s.port p i).restoring = false :=
  ⟨(State.modPort (withF [(Fld.EPC_ERR_CFG.ESC_U, 0, 0), (Fld.LNE_PORT_CFG.PORT_EN, 0, 1), (Fld.LNE_PORT_STAT.STAGE,
    0, 5), (Fld.LNE_PORT_CFG.RESTORE_AUTO, 0, 1)]) .hoist 0 (fun x => { x with fail := 1 })), .hoist, 0,
    by decide +kernel⟩
theorem wit_wireCtlWrite : ∃ (s : State) (p : Plane) (i : Fin 576) (v : Word), s.live p = true ∧ s.stage p i ≠ 6 :=
  ⟨(withF [(Fld.EPC_ERR_CFG.ESC_U, 0, 0), (Fld.LNE_PORT_CFG.PORT_EN, 0, 1), (Fld.LNE_PORT_STAT.STAGE, 0, 1)]),
    .hoist, 0, 0,
    by decide +kernel⟩
theorem wit_neighbourMissing : ∃ (s : State) (p : Plane) (i : Fin 576), s.live p = true ∧ s.portEn p i = true ∧
    s.stage p i = 1 ∧ s.flag p Fld.LNE_WIRE_CTL.VALID i = true ∧ (s.port p i).told = false ∧ s.evtMasked p 0x0106 =
    false ∧ s.ringOn p 2 = false ∧ (s.pl p).hif.events.length < 256 :=
  ⟨(withF [(Fld.EPC_ERR_CFG.ESC_U, 0, 0), (Fld.LNE_PORT_CFG.PORT_EN, 0, 1), (Fld.LNE_PORT_STAT.STAGE, 0, 1),
    (Fld.LNE_WIRE_CTL.VALID, 0, 1)]), .hoist, 0,
    by decide +kernel⟩
theorem wit_trainingFrameSend : ∃ (s : State) (p : Plane) (l : Fin 584) (i : Fin 576), s.live p = true ∧ s.portOf p
    l = some i.val ∧ l.val < 576 ∧ s.trains p i l = true :=
  ⟨(State.modPort (withF [(Fld.EPC_ERR_CFG.ESC_U, 0, 0), (Fld.LNE_PORT_CFG.PORT_EN, 0, 1), (Fld.LNE_PORT_STAT.STAGE,
    0, 2)]) .hoist 0 (fun x => { x with det := 1 })), .hoist, 0, 0,
    by decide +kernel⟩
theorem wit_alignmentMarkerSend : ∃ (s : State) (p : Plane) (i : Fin 576), s.live p = true ∧ s.portEn p i = true ∧ 3
    ≤ s.stage p i ∧ s.stage p i ≤ 6 ∧ (s.port p i).lpi ≠ .asleep :=
  ⟨(withF [(Fld.EPC_ERR_CFG.ESC_U, 0, 0), (Fld.LNE_PORT_CFG.PORT_EN, 0, 1), (Fld.LNE_PORT_STAT.STAGE, 0, 4)]),
    .hoist, 0,
    by decide +kernel⟩
theorem wit_ensignSend : ∃ (s : State) (p : Plane) (l i : Fin 576), s.live p = true ∧ s.portOf p l = some i.val ∧
    bit (l - i) (s.port p i).set = true ∧ s.stage p i = 4 :=
  ⟨(State.modPort (withF [(Fld.EPC_ERR_CFG.ESC_U, 0, 0), (Fld.LNE_PORT_CFG.PORT_EN, 0, 1), (Fld.LNE_PORT_STAT.STAGE,
    0, 4)]) .hoist 0 (fun x => { x with set := 1 })), .hoist, 0, 0,
    by decide +kernel⟩
theorem wit_widthBlock : ∃ (s : State) (p : Plane) (i : Fin 576) (mask : BitVec 16) (sw : Bool) (seq : Byte), s.live
    p = true ∧ s.portActive p i = true ∧ (s.port p i).changing = true ∧ (s.port p i).swTx = false ∧ Nat.land
    mask.toNat (s.fullMask p i) = (s.port p i).mask ∧ Nat.land (s.port p i).mask (s.port p i).fail = (s.port p
    i).mask :=
  ⟨(State.modPort (withF [(Fld.EPC_ERR_CFG.ESC_U, 0, 0), (Fld.LNE_PORT_CFG.PORT_EN, 0, 1), (Fld.LNE_PORT_STAT.STAGE,
    0, 5), (Fld.LNE_PORT_CFG.WIDTH, 0, 1)]) .hoist 0 (fun x => { x with changing := true, fail := 1 })), .hoist, 0,
    1, true, 0,
    by decide +kernel⟩
theorem wit_widthSend : ∃ (s : State) (p : Plane) (i : Fin 576), s.live p = true ∧ s.portActive p i = true ∧ (s.port
    p i).changing = true ∧ (s.port p i).swRx = false :=
  ⟨(State.modPort (withF [(Fld.EPC_ERR_CFG.ESC_U, 0, 0), (Fld.LNE_PORT_CFG.PORT_EN, 0, 1), (Fld.LNE_PORT_STAT.STAGE,
    0, 5)]) .hoist 0 (fun x => { x with changing := true })), .hoist, 0,
    by decide +kernel⟩
theorem wit_runLimit : ∃ (s : State) (p : Plane) (l i : Fin 576), s.live p = true ∧ s.portOf p l = some i.val ∧ 3 ≤
    s.stage p i ∧ s.stage p i ≤ 6 :=
  ⟨(withF [(Fld.EPC_ERR_CFG.ESC_U, 0, 0), (Fld.LNE_PORT_CFG.PORT_EN, 0, 1), (Fld.LNE_PORT_STAT.STAGE, 0, 5)]),
    .hoist, 0, 0,
    by decide +kernel⟩
theorem wit_lpiIdleExpiry : ∃ (s : State) (p : Plane) (i : Fin 576), s.live p = true ∧ s.portActive p i = true ∧
    s.lpiOn p i = true ∧ s.txQuiet p i = true ∧ s.rxQuiet p i = true ∧ (s.port p i).lpi = .awake ∧ (s.port p
    i).lpiReady = true :=
  ⟨(State.modPort (withF [(Fld.EPC_ERR_CFG.ESC_U, 0, 0), (Fld.LNE_PORT_CFG.PORT_EN, 0, 1), (Fld.LNE_PORT_STAT.STAGE,
    0, 5), (Fld.LNE_PORT_CFG.LPI_EN, 0, 1)]) .hoist 0 (fun x => { x with lpiReady := true })), .hoist, 0,
    by decide +kernel⟩
theorem wit_lpiBlock : ∃ (s : State) (p : Plane) (i : Fin 576), s.live p = true ∧ s.portActive p i = true ∧ (s.port
    p i).lpi = .asked :=
  ⟨(State.modPort (withF [(Fld.EPC_ERR_CFG.ESC_U, 0, 0), (Fld.LNE_PORT_CFG.PORT_EN, 0, 1), (Fld.LNE_PORT_STAT.STAGE,
    0, 5)]) .hoist 0 (fun x => { x with lpi := .asked })), .hoist, 0,
    by decide +kernel⟩
theorem wit_lpiWake : ∃ (s : State) (p : Plane) (i : Fin 576) (far : Bool), s.live p = true ∧ s.portActive p i =
    true ∧ (s.port p i).lpi = .asleep :=
  ⟨(State.modPort (withF [(Fld.EPC_ERR_CFG.ESC_U, 0, 0), (Fld.LNE_PORT_CFG.PORT_EN, 0, 1), (Fld.LNE_PORT_STAT.STAGE,
    0, 5)]) .hoist 0 (fun x => { x with lpi := .asleep })), .hoist, 0, true,
    by decide +kernel⟩
theorem wit_wakeTimeout : ∃ (s : State) (p : Plane) (i : Fin 576), s.live p = true ∧ s.portActive p i = true ∧
    (s.port p i).lpi = .waking ∧ s.hostRecovery p = false :=
  ⟨(State.modPort (withF [(Fld.EPC_ERR_CFG.ESC_U, 0, 0), (Fld.LNE_PORT_CFG.PORT_EN, 0, 1), (Fld.LNE_PORT_STAT.STAGE,
    0, 5)]) .hoist 0 (fun x => { x with lpi := .waking })), .hoist, 0,
    by decide +kernel⟩
theorem wit_lpiMaxWake : ∃ (s : State) (p : Plane) (i : Fin 576), s.live p = true ∧ s.portActive p i = true ∧
    (s.port p i).lpi = .asleep :=
  ⟨(State.modPort (withF [(Fld.EPC_ERR_CFG.ESC_U, 0, 0), (Fld.LNE_PORT_CFG.PORT_EN, 0, 1), (Fld.LNE_PORT_STAT.STAGE,
    0, 5)]) .hoist 0 (fun x => { x with lpi := .asleep })), .hoist, 0,
    by decide +kernel⟩
theorem wit_lpiReentryAllowed : ∃ (s : State) (p : Plane) (i : Fin 576), s.live p = true ∧ s.portActive p i = true
    :=
  ⟨(withF [(Fld.EPC_ERR_CFG.ESC_U, 0, 0), (Fld.LNE_PORT_CFG.PORT_EN, 0, 1), (Fld.LNE_PORT_STAT.STAGE, 0, 5)]),
    .hoist, 0,
    by decide +kernel⟩
theorem wit_txSquelch : ∃ (s : State) (p : Plane) (l : Fin 576), s.live p = true :=
  ⟨(withF [(Fld.EPC_ERR_CFG.ESC_U, 0, 0)]), .hoist, 3,
    by decide +kernel⟩
theorem wit_prbsClr : ∃ (s : State) (p : Plane) (l : Fin 576), s.live p = true :=
  ⟨(withF [(Fld.EPC_ERR_CFG.ESC_U, 0, 0)]), .hoist, 3,
    by decide +kernel⟩
theorem wit_prbsLockLoss : ∃ (s : State) (p : Plane) (l : Fin 576), s.live p = true :=
  ⟨(withF [(Fld.EPC_ERR_CFG.ESC_U, 0, 0)]), .hoist, 3,
    by decide +kernel⟩
theorem wit_eyeScanStart : ∃ (s : State) (p : Plane) (l : Fin 576) (e : BitVec 2), s.live p = true :=
  ⟨(withF [(Fld.EPC_ERR_CFG.ESC_U, 0, 0)]), .hoist, 3, 1,
    by decide +kernel⟩
theorem wit_eyeScanDone : ∃ (s : State) (p : Plane) (l : Fin 576) (h w : Byte), s.live p = true ∧ s.flag p
    Fld.LNE_EYE_CTL.START l = true :=
  ⟨(withF [(Fld.EPC_ERR_CFG.ESC_U, 0, 0), (Fld.LNE_EYE_CTL.START, 0, 1)]), .hoist, 0, 5, 7,
    by decide +kernel⟩
theorem wit_laserReady : ∃ (s : State) (p : Plane) (c : Fin 9), s.live p = true ∧ s.pkg.optical = true ∧ mget false
    c.val (s.pl p).lne.enabled = true :=
  ⟨(State.modPl (State.modPkg State.reset (fun x => { x with optical := true })) .hoist (fun x =>
    { x with lne := { x.lne with enabled := [(2, true)] } })), .hoist, 2,
    by decide +kernel⟩
theorem wit_laserInputFail : ∃ (s : State) (p : Plane) (c : Fin 9) (k : Fin 8), s.live p = true ∧ s.pkg.optical =
    true ∧ (∀ j, j < 8 → ∃ i, s.portOf p (64 * c.val + 8 * k.val + j) = some i ∧ s.flag p
    Fld.LNE_LANE_STAT.LANE_FAIL (64 * c.val + 8 * k.val + j) = true) :=
  ⟨laserState, .hoist, 2, 1, by decide +kernel, by decide +kernel, fun j hj =>
      ⟨136 + j, (by decide +kernel : ∀ j, j < 8 → laserState.portOf .hoist (64 * (2 : Fin 9).val + 8 * (1 : Fin 8).val + j) = some (136 + j) ∧
        laserState.flag .hoist Fld.LNE_LANE_STAT.LANE_FAIL (64 * (2 : Fin 9).val + 8 * (1 : Fin 8).val + j) = true) j hj⟩⟩
theorem wit_sopBlock : ∃ (s : State) (p : Plane) (i : Fin 576) (b : SopBlock) (got : BitVec 16), s.live p = true ∧
    s.counting p i = true ∧ b.rsv = false ∧ b.abort = false ∧ b.wh = false ∧ (s.link p i).rx = none ∧ b.vc.toNat ≤ 8
    ∧ b.units.toNat ≤ (s.cred p i b.vc.toNat).rxAvail :=
  ⟨(State.modCred (State.modLink (withF [(Fld.EPC_ERR_CFG.ESC_U, 0, 0), (Fld.LNE_PORT_CFG.PORT_EN, 0, 1),
    (Fld.LNE_PORT_STAT.STAGE, 0, 5)]) .hoist 0 (fun x => { x with counting := true })) .hoist 0 0 (fun c =>
    { c with adv := 4 })), .hoist, 0, ⟨false, false, 0, 1, false⟩, 0,
    by decide +kernel⟩
theorem wit_sopBlock_abort : ∃ (s : State) (p : Plane) (i : Fin 576) (b : SopBlock) (got : BitVec 16), s.live p =
    true ∧ s.counting p i = true ∧ b.abort = true ∧ (∀ r, (s.link p i).rx = some r → r.pid = none) :=
  ⟨(State.modLink (withF [(Fld.EPC_ERR_CFG.ESC_U, 0, 0), (Fld.LNE_PORT_CFG.PORT_EN, 0, 1), (Fld.LNE_PORT_STAT.STAGE,
    0, 5)]) .hoist 0 (fun x => { x with counting := true })), .hoist, 0, ⟨true, false, 0, 1, false⟩, 0,
    by decide +kernel⟩
theorem wit_creditBlock : ∃ (s : State) (p : Plane) (i : Fin 576) (n : List (BitVec 16)) (r : Bool), s.live p = true
    ∧ s.counting p i = true :=
  ⟨(State.modLink (withF [(Fld.EPC_ERR_CFG.ESC_U, 0, 0), (Fld.LNE_PORT_CFG.PORT_EN, 0, 1), (Fld.LNE_PORT_STAT.STAGE,
    0, 5)]) .hoist 0 (fun x => { x with counting := true })), .hoist, 0, [], false,
    by decide +kernel⟩
theorem wit_creditSend : ∃ (s : State) (p : Plane) (i : Fin 577), s.live p = true ∧ i.val < 576 ∧ s.canSend p i =
    true :=
  ⟨(State.modLink (withF [(Fld.EPC_ERR_CFG.ESC_U, 0, 0), (Fld.LNE_PORT_CFG.PORT_EN, 0, 1), (Fld.LNE_PORT_STAT.STAGE,
    0, 5)]) .hoist 0 (fun x => { x with counting := true })), .hoist, 0,
    by decide +kernel⟩
theorem wit_sentSend : ∃ (s : State) (p : Plane) (i : Fin 576), s.live p = true ∧ s.canSend p i = true :=
  ⟨(State.modLink (withF [(Fld.EPC_ERR_CFG.ESC_U, 0, 0), (Fld.LNE_PORT_CFG.PORT_EN, 0, 1), (Fld.LNE_PORT_STAT.STAGE,
    0, 5)]) .hoist 0 (fun x => { x with counting := true })), .hoist, 0,
    by decide +kernel⟩
theorem wit_sentBlock : ∃ (s : State) (p : Plane) (i : Fin 576) (n : List (BitVec 16)) (r : Bool), s.live p = true ∧
    s.counting p i = true ∧ s.fld p Fld.EPC_ERR_CFG.ESC_U 0 = 0 :=
  ⟨(State.modLink (withF [(Fld.EPC_ERR_CFG.ESC_U, 0, 0), (Fld.LNE_PORT_CFG.PORT_EN, 0, 1), (Fld.LNE_PORT_STAT.STAGE,
    0, 5)]) .hoist 0 (fun x => { x with counting := true })), .hoist, 0, [], false,
    by decide +kernel⟩
theorem wit_pchkLinkSilence : ∃ (s : State) (p : Plane) (i : Fin 576) (sent : Bool), s.live p = true ∧ s.portActive
    p i = true ∧ bit (if sent then 8 else 7) (s.fld p Fld.TST_PCHK_EN.EN 0) = true :=
  ⟨(withF [(Fld.EPC_ERR_CFG.ESC_U, 0, 0), (Fld.LNE_PORT_CFG.PORT_EN, 0, 1), (Fld.LNE_PORT_STAT.STAGE, 0, 5),
    (Fld.TST_PCHK_EN.EN, 0, 256)]), .hoist, 0, true,
    by decide +kernel⟩
theorem wit_packetIngress_notCounting : ∃ (s : State) (p : Plane) (i : Fin 576) (k : Packet) (bad : Bool) (got :
    Nat), s.live p = true ∧ s.portEn p i = true ∧ s.counting p i = false ∧ s.fld p Fld.EPC_ERR_CFG.ESC_U 0 = 0 :=
  ⟨(withF [(Fld.EPC_ERR_CFG.ESC_U, 0, 0), (Fld.LNE_PORT_CFG.PORT_EN, 0, 1), (Fld.LNE_PORT_STAT.STAGE, 0, 1)]),
    .hoist, 0, (req 0x10 5 6), false, 0,
    by decide +kernel⟩
theorem wit_packetIngress_header : ∃ (s : State) (p : Plane) (i : Fin 576) (k : Packet) (got : Nat) (r : RxProg) (d
    : Disc), s.live p = true ∧ s.counting p i = true ∧ (s.link p i).rx = some r ∧ r.wh = false ∧ r.pid = none ∧
    s.stage p i = 5 ∧ s.headerCheck p (some i.val) k = some d ∧ s.fld p Fld.EPC_ERR_CFG.ESC_U 0 = 0 :=
  ⟨(State.modLink (withF [(Fld.EPC_ERR_CFG.ESC_U, 0, 0), (Fld.LNE_PORT_CFG.PORT_EN, 0, 1), (Fld.LNE_PORT_STAT.STAGE,
    0, 5)]) .hoist 0 (fun x => { x with rx := some ⟨0, 1, false, false, 0, 0, 0, none, false⟩, counting := true })),
    .hoist, 0, { req 0x10 5 6 with hdr := { (req 0x10 5 6).hdr with hcrc := 0 } }, 0, ⟨0, 1, false, false, 0, 0, 0,
    none, false⟩, .hcrc,
    by decide +kernel⟩
theorem wit_packetIngress : ∃ (s : State) (p : Plane) (i : Fin 576) (k : Packet) (got : Nat) (r : RxProg) (code q :
    Nat) (esc : Option Nat) (a : Acct), s.live p = true ∧ s.counting p i = true ∧ (s.link p i).rx = some r ∧ r.wh =
    false ∧ r.pid = none ∧ r.bad = false ∧ r.viol = false ∧ s.stage p i = 5 ∧ s.golden p i = false ∧ s.headerCheck p
    (some i.val) k = none ∧ crcOk k = true ∧ s.fld p Fld.EPC_ERR_CFG.ESC_U 0 = 0 ∧ s.fld p Fld.TST_PCHK_EN.EN 0 = 0
    ∧ (∀ n, n < 32 → s.flag p Fld.TST_MATCH.VALID n = false) ∧ s.coreUp p = true ∧ s.routeOf p i r.vc.toNat k = .one
    code q esc false ∧ sumUnits ((s.bufPkts p).filter (fun x => !x.left)) + r.units ≤ 4194304 ∧ s.account p false
    code q r.units = some a :=
  ⟨(State.modLink (withF [(Fld.EPC_ERR_CFG.ESC_U, 0, 0), (Fld.LNE_PORT_CFG.PORT_EN, 0, 1), (Fld.LNE_PORT_STAT.STAGE,
    0, 5), (Fld.TOP_PG_STAT.PLANE_OK, 0, 1), (Fld.TOP_PG_STAT.MEM_OK, 0, 1), (Fld.TST_PCHK_EN.EN, 0, 0)]) .hoist 0
    (fun x => { x with rx := some ⟨0, 1, false, false, 0, 0, 0, none, false⟩, counting := true })), .hoist, 0, (req
    0x10 0xFF02 6), 0, ⟨0, 1, false, false, 0, 0, 0, none, false⟩, 579, 0, none, .guar,
    by decide +kernel⟩
theorem wit_holdDownEnd : ∃ (s : State) (p : Plane) (c : Code), s.live p = true ∧ s.inHold p c.toNat = true ∧
    c.toNat ≤ 576 :=
  ⟨(State.modSwc (withF [(Fld.EPC_ERR_CFG.ESC_U, 0, 0), (Fld.LNE_PORT_CFG.PORT_EN, 0, 1), (Fld.LNE_PORT_STAT.STAGE,
    0, 5)]) .hoist (fun x => { x with hold := [(0, some 5)] })), .hoist, 0,
    by decide +kernel⟩
theorem wit_hdClr : ∃ (s : State) (p : Plane) (c : Code), s.live p = true ∧ s.inHold p c.toNat = true ∧ c.toNat ≤
    576 :=
  ⟨(State.modSwc (withF [(Fld.EPC_ERR_CFG.ESC_U, 0, 0), (Fld.LNE_PORT_CFG.PORT_EN, 0, 1), (Fld.LNE_PORT_STAT.STAGE,
    0, 5)]) .hoist (fun x => { x with hold := [(0, some 5)] })), .hoist, 0,
    by decide +kernel⟩
theorem wit_packetTransmit : ∃ (s : State) (p : Plane) (c : Code) (e : StageEnt) (b : BufPkt), s.runs p = true ∧
    c.toNat < 576 ∧ s.portActive p c.toNat = true ∧ s.canSend p c.toNat = true ∧ s.golden p c.toNat = false ∧
    (s.port p c.toNat).mgmtTx = [] ∧ (s.pl p).rte.markDue = [] ∧ s.tx? p c.toNat = none ∧ (∀ v, v < 9 → ∀ x, (s.stg
    p c.toNat v).head? = some x → x.head = true ∧ ∃ b, s.pkt? p x.pid = some b ∧ ¬ (s.flowMode p c.toNat = 0 ∧
    s.oversize p c.toNat v b.units = true)) ∧ s.mayStart p c.toNat 8 = some (e, b) ∧ s.headCredit p c.toNat 8 b =
    true ∧ s.headWh p c.toNat 8 b = false ∧ b.units ≤ e.have_ ∧ e.cap = 0 ∧ (∀ v, v < 9 → s.side p c.toNat v = none)
    :=
  ⟨(State.modSwc (State.modCred (State.modLink (withF [(Fld.EPC_ERR_CFG.ESC_U, 0, 0), (Fld.LNE_PORT_CFG.PORT_EN, 0,
    1), (Fld.LNE_PORT_STAT.STAGE, 0, 5)]) .hoist 0 (fun x => { x with counting := true })) .hoist 0 8 (fun c =>
    { c with limRx := 4 })) .hoist (fun x =>
    { x with stages := [(8, [⟨1, 1, true, 0, true, 0, none, 0, req 0x10 5 6⟩])], pkts := [(1, some (held (req 0x10 5 6) 0))] })),
    .hoist, 0, ⟨1, 1, true, 0, true, 0, none, 0, req 0x10 5 6⟩, (held (req 0x10 5 6) 0),
    by simp only [forall_some]; decide +kernel⟩
theorem wit_whFallback : ∃ (s : State) (p : Plane) (i : Fin 576) (v : Fin 9) (e : StageEnt) (l : List StageEnt) (b :
    BufPkt), s.runs p = true ∧ s.codeSends p i = true ∧ s.tx? p i = none ∧ (∀ v, v < 9 → ∀ x, (s.stg p i v).head? =
    some x → x.head = true ∧ ∃ b, s.pkt? p x.pid = some b ∧ ¬ (s.flowMode p i = 0 ∧ s.oversize p i v b.units =
    true)) ∧ s.stg p i v = e :: l ∧ s.pkt? p e.pid = some b ∧ s.flowMode p i = 2 ∧ e.head = true ∧ e.until_ = none ∧
    e.sop = true ∧ 1 ≤ e.have_ ∧ s.narrower p b.src i = true → b.units ≤ e.have_ ∧ b.bad = false ∧ s.headCredit p i
    v b = false ∧ (s.cred p i v).avail < unitsOf (injected e.inj e.pkt) ∧ e.cap = 0 ∧ s.side p i v = none :=
  ⟨(State.modSwc (State.modCred (State.modLink (withF [(Fld.EPC_ERR_CFG.ESC_U, 0, 0), (Fld.LNE_PORT_CFG.PORT_EN, 0,
    1), (Fld.LNE_PORT_STAT.STAGE, 0, 5), (Fld.LFP_PORT_STAT.FAR_WH, 0, 1), (Fld.LFP_PORT_CFG.FLOW_MODE, 0, 2),
    (Fld.LNE_PORT_STAT.ACT_WIDTH, 0, 0)]) .hoist 0 (fun x => { x with counting := true })) .hoist 0 0 (fun c =>
    { c with limRx := 0 })) .hoist (fun x =>
    { x with stages := [(0, [⟨1, 1, true, 0, true, 0, none, 0, req 0x10 5 6⟩])], pkts := [(1, some (held (req 0x10 5 6) 0))] })),
    .hoist, 0, 0, ⟨1, 1, true, 0, true, 0, none, 0, req 0x10 5 6⟩, [], (held (req 0x10 5 6) 0),
    by simp only [forall_some]; decide +kernel⟩
theorem wit_whTruncate : ∃ (s : State) (p : Plane) (i : Fin 576) (x : TxProg), s.runs p = true ∧ s.portActive p i =
    true ∧ s.tx? p i = some x ∧ x.wh = true :=
  ⟨(State.modSwc (withF [(Fld.EPC_ERR_CFG.ESC_U, 0, 0), (Fld.LNE_PORT_CFG.PORT_EN, 0, 1), (Fld.LNE_PORT_STAT.STAGE,
    0, 5)]) .hoist (fun x => { x with txing := [(0, some ⟨1, 0, true, 1, req 0x10 5 6⟩)] })), .hoist, 0, ⟨1, 0,
    true, 1, req 0x10 5 6⟩,
    by decide +kernel⟩
theorem wit_cellTime : ∃ (s : State) (p : Plane) (key : Nat) (e : VoqEnt) (b : BufPkt), s.runs p = true ∧ (s.pl
    p).swc.kept = [] ∧ (s.pl p).swc.voqs = [(key, [e])] ∧ e.head = none ∧ s.pkt? p e.pid = some b ∧ b.mc = false ∧
    s.aged p b.arr = true ∧ voqTarget key < 1000 :=
  ⟨{ (State.modSwc State.reset .hoist (fun x => { x with voqs := [(16, [⟨1, 0, none⟩])], pkts := [(1, some (held (req 0x10 5 6) 1))] })) with ticks := 2000000000000 },
    .hoist, 16, ⟨1, 0, none⟩, (held (req 0x10 5 6) 1),
    by decide +kernel⟩
theorem wit_cellArrival : ∃ (s : State) (p : Plane) (i e : Fin 46) (q : BitVec 12) (c : Cell), s.runs p = true ∧
    s.flying p i.val e.val q = some c :=
  ⟨(State.modSwc State.reset .hoist (fun x =>
    { x with flight := [⟨1, 2, 0, 0, false, [0], [], 0, 0, false, false⟩] })), .hoist, 1, 2, 0, ⟨1, 2, 0, 0, false,
    [0], [], 0, 0, false, false⟩,
    by decide +kernel⟩
theorem wit_reseqLoss : ∃ (s : State) (p : Plane) (i e : Fin 46) (c : Cell), s.runs p = true ∧ mget [] (64 * i.val +
    e.val) (s.pl p).swc.reseq ≠ [] ∧ s.flying p i.val e.val (mget 0 (64 * i.val + e.val) (s.pl p).swc.pseqRx) = some
    c :=
  ⟨(State.modSwc State.reset .hoist (fun x =>
    { x with flight := [⟨1, 2, 0, 0, false, [0], [], 0, 0, false, false⟩], reseq := [(66, [⟨1, none⟩])] })), .hoist,
    1, 2, ⟨1, 2, 0, 0, false, [0], [], 0, 0, false, false⟩,
    by decide +kernel⟩
theorem wit_escapeMove : ∃ (s : State) (p : Plane) (m : Fin 46) (c : Code) (v : Fin 9) (e : VoqEnt) (l : List
    VoqEnt) (b : BufPkt) (d : Nat), s.runs p = true ∧ s.voq p (voqKey m.val c.toNat v.val) = e :: l ∧ s.pkt? p e.pid
    = some b ∧ b.esc = some d ∧ v.val < 8 ∧ e.gone = 0 ∧ s.flag p Fld.RTE_GLB_CFG.ESC_EN 0 = true ∧ s.usable p b.src
    d = true ∧ s.escOk p b.src d = true :=
  ⟨(State.modSwc (withF [(Fld.EPC_ERR_CFG.ESC_U, 0, 0), (Fld.RTE_GLB_CFG.ESC_EN, 0, 1), (Fld.TOP_PG_STAT.MEM_OK, 0,
    1)]) .hoist (fun x =>
    { x with voqs := [(0, [⟨1, 0, none⟩])], pkts := [(1, some { held (req 0x10 5 6) 0 with esc := some 579 })] })),
    .hoist, 0, 0, 0, ⟨1, 0, none⟩, [], { held (req 0x10 5 6) 0 with esc := some 579 }, 579,
    by decide +kernel⟩
theorem wit_drainStart : ∃ (s : State) (p : Plane) (id : BitVec 16), s.live p = true ∧ s.flag p
    Fld.RTE_DRAIN_STAT.BUSY 0 = false :=
  ⟨(withF [(Fld.EPC_ERR_CFG.ESC_U, 0, 0)]), .hoist, 7,
    by decide +kernel⟩
theorem wit_drainAbort : ∃ (s : State) (p : Plane), s.live p = true ∧ s.flag p Fld.RTE_DRAIN_STAT.BUSY 0 = true :=
  ⟨(withF [(Fld.EPC_ERR_CFG.ESC_U, 0, 0), (Fld.RTE_DRAIN_STAT.BUSY, 0, 1)]), .hoist,
    by decide +kernel⟩
theorem wit_drainMarker : ∃ (s : State) (p : Plane) (i : Fin 576) (id : BitVec 16), s.live p = true :=
  ⟨(withF [(Fld.EPC_ERR_CFG.ESC_U, 0, 0)]), .hoist, 0, 5,
    by decide +kernel⟩
theorem wit_routeDrained : ∃ (s : State) (p : Plane), s.live p = true ∧ s.flag p Fld.RTE_DRAIN_STAT.BUSY 0 = true ∧
    (s.pl p).rte.waiting = [] ∧ s.oldCount p = 0 :=
  ⟨(withF [(Fld.EPC_ERR_CFG.ESC_U, 0, 0), (Fld.RTE_DRAIN_STAT.BUSY, 0, 1)]), .hoist,
    by decide +kernel⟩
theorem wit_cmapSample : ∃ (s : State) (p : Plane), s.live p = true :=
  ⟨(withF [(Fld.EPC_ERR_CFG.ESC_U, 0, 0)]), .hoist,
    by decide +kernel⟩
theorem wit_cmapInterval : ∃ (s : State) (p : Plane), s.live p = true :=
  ⟨(withF [(Fld.EPC_ERR_CFG.ESC_U, 0, 0)]), .hoist,
    by decide +kernel⟩
theorem wit_mirrorRecord : ∃ (s : State) (p : Plane) (ty : Nat) (tm : BitVec 64) (b : Bytes) (l : List (Nat × BitVec
    64 × Bytes)), s.live p = true ∧ (s.pl p).swc.mirror = (ty, tm, b) :: l ∧ s.ringRoom p 3 = true :=
  ⟨(State.modSwc (withF [(Fld.EPC_ERR_CFG.ESC_U, 0, 0), (Fld.HIF_CTL.EN, 0, 8)]) .hoist (fun x =>
    { x with mirror := [(1, 2, [3])] })), .hoist, 1, 2, [3], [],
    by decide +kernel⟩
theorem wit_ackDelay : ∃ (s : State) (p : Plane) (e : Endpt) (a : EpId), s.runs p = true ∧ (s.dstWin p (epKey e)
    a).base ≠ (s.dstWin p (epKey e) a).acked :=
  ⟨(State.modDst (withF [(Fld.EPC_ERR_CFG.ESC_U, 0, 0), (Fld.TOP_PG_STAT.MEM_OK, 0, 1)]) .hoist 2 6 (fun x =>
    { x with base := 1 })), .hoist, (.eng .mem), 6,
    by decide +kernel⟩
theorem wit_winSync : ∃ (s : State) (p : Plane) (e : Endpt) (k : Packet), s.runs p = true ∧ crcOk k = true ∧
    k.hdr.src.toNat < 0xFF00 ∧ (s.dstWin p (epKey e) k.hdr.src).held = [] :=
  ⟨(withF [(Fld.EPC_ERR_CFG.ESC_U, 0, 0), (Fld.TOP_PG_STAT.MEM_OK, 0, 1)]), .hoist, (.eng .mem), (req 0x03 0xFF02
    6),
    by decide +kernel⟩
theorem wit_windowedArrival_late : ∃ (s : State) (p : Plane) (x : Eng) (k : Packet), s.epOn p (epKey (.eng x)) =
    true ∧ windowed k.hdr = true ∧ crcOk k = true ∧ k.hdr.src.toNat < 0xFF00 ∧ (s.ep p (epKey (.eng x))).gen ≤
    (s.dstWin p (epKey (.eng x)) k.hdr.src).gen ∧ 65024 ≤ (k.hdr.wseq - (s.dstWin p (epKey (.eng x))
    k.hdr.src).base).toNat :=
  ⟨(withF [(Fld.EPC_ERR_CFG.ESC_U, 0, 0), (Fld.TOP_PG_STAT.MEM_OK, 0, 1)]), .hoist, .mem, (mkPkt tREQ 0x10 0xFF02 6
    0 0 0 65535 false false []),
    by decide +kernel⟩
theorem wit_windowedArrival : ∃ (s : State) (p : Plane) (x : Eng) (k : Packet), s.epOn p (epKey (.eng x)) = true ∧
    windowed k.hdr = true ∧ crcOk k = true ∧ k.hdr.src.toNat < 0xFF00 ∧ (s.ep p (epKey (.eng x))).gen ≤ (s.dstWin p
    (epKey (.eng x)) k.hdr.src).gen ∧ 0 < (k.hdr.wseq - (s.dstWin p (epKey (.eng x)) k.hdr.src).base).toNat ∧
    (k.hdr.wseq - (s.dstWin p (epKey (.eng x)) k.hdr.src).base).toNat < 512 ∧ (k.hdr.wseq - (s.dstWin p (epKey (.eng
    x)) k.hdr.src).base).toNat ∉ (s.dstWin p (epKey (.eng x)) k.hdr.src).seen ∧ 0 ∉ (s.dstWin p (epKey (.eng x))
    k.hdr.src).seen ∧ opDone (epKey (.eng x)) k.hdr.op = true ∧ k.hdr.pen = true ∧ (s.dstWin p (epKey (.eng x))
    k.hdr.src).lostOk = false ∧ k.hdr.ce = false ∧ (s.dstWin p (epKey (.eng x)) k.hdr.src).held = [] ∧ (s.dstWin p
    (epKey (.eng x)) k.hdr.src).base = (s.dstWin p (epKey (.eng x)) k.hdr.src).acked :=
  ⟨(withF [(Fld.EPC_ERR_CFG.ESC_U, 0, 0), (Fld.TOP_PG_STAT.MEM_OK, 0, 1)]), .hoist, .mem, (mkPkt tREQ 0x10 0xFF02 6
    0 0 0 3 true false []),
    by decide +kernel⟩
theorem wit_holeSkip : ∃ (s : State) (p : Plane) (e : Endpt) (a : EpId) (n m : Nat), s.epOn p (epKey e) = true ∧
    (s.dstWin p (epKey e) a).stall = some n ∧ (s.dstWin p (epKey e) a).seen.min? = some m ∧ m ≠ 0 :=
  ⟨(State.modDst (withF [(Fld.EPC_ERR_CFG.ESC_U, 0, 0), (Fld.TOP_PG_STAT.MEM_OK, 0, 1)]) .hoist 2 6 (fun x =>
    { x with stall := some 0, seen := [2] })), .hoist, (.eng .mem), 6, 0, 2,
    by decide +kernel⟩
theorem wit_pennantDeadline : ∃ (s : State) (p : Plane) (e : Endpt) (a : EpId) (w : BitVec 16) (g : Pennant), s.epOn
    p (epKey e) = true ∧ (s.dstWin p (epKey e) a).held.find? (fun g => g.pkt.hdr.wseq == w) = some g :=
  ⟨(State.modDst (withF [(Fld.EPC_ERR_CFG.ESC_U, 0, 0), (Fld.TOP_PG_STAT.MEM_OK, 0, 1)]) .hoist 2 6 (fun x =>
    { x with held := [⟨(mkPkt tREQ 0x10 0xFF02 6 0 0 0 3 true false [])⟩] })), .hoist, (.eng .mem), 6, 3, ⟨(mkPkt
    tREQ 0x10 0xFF02 6 0 0 0 3 true false [])⟩,
    by decide +kernel⟩
theorem wit_cwndIncrease : ∃ (s : State) (p : Plane) (e : Endpt) (d : EpId), s.epOn p (epKey e) = true ∧ s.hostCc p
    = false ∧ e ≠ .eng .col ∧ e ≠ .eng .dsp ∧ s.cwnd p (s.srcWin p (epKey e) d) < s.wSrc p :=
  ⟨(State.modEp (withF [(Fld.EPC_ERR_CFG.ESC_U, 0, 0), (Fld.TOP_PG_STAT.MEM_OK, 0, 1)]) .hoist 2 (fun x =>
    { x with src := [(9, { cwnd := 3 })] })), .hoist, (.eng .mem), 9,
    by decide +kernel⟩
theorem wit_ackReceived : ∃ (s : State) (p : Plane) (e : Endpt) (k : Packet), s.epOn p (epKey e) = true ∧ crcOk k =
    true ∧ e ≠ .eng .col ∧ e ≠ .eng .dsp ∧ (s.srcWin p (epKey e) k.hdr.src).sync = .done ∧ (k.hdr.wseq - (s.srcWin p
    (epKey e) k.hdr.src).base).toNat ≤ ((s.srcWin p (epKey e) k.hdr.src).next - (s.srcWin p (epKey e)
    k.hdr.src).base).toNat ∧ k.hdr.ece = false :=
  ⟨(State.modEp (withF [(Fld.EPC_ERR_CFG.ESC_U, 0, 0), (Fld.TOP_PG_STAT.MEM_OK, 0, 1)]) .hoist 2 (fun x =>
    { x with src := [(6, { sync := .done, next := 5 })] })), .hoist, (.eng .mem), (mkPkt tACK 0 0xFF02 6 0 0 0 1
    false false []),
    by decide +kernel⟩
theorem wit_cplReceived : ∃ (s : State) (p : Plane) (e : Endpt) (k : Packet) (d : EpId), s.epOn p (epKey e) = true ∧
    crcOk k = true ∧ e ≠ .eng .col ∧ e ≠ .eng .dsp ∧ mget none k.hdr.tag.toNat (s.ep p (epKey e)).reqs = some
    ⟨.winSync d, d⟩ ∧ k.hdr.ece = false ∧ k.hdr.op = stOK :=
  ⟨(State.modEp (withF [(Fld.EPC_ERR_CFG.ESC_U, 0, 0), (Fld.TOP_PG_STAT.MEM_OK, 0, 1)]) .hoist 2 (fun x =>
    { x with reqs := [(7, some ⟨.winSync 6, 6⟩)] })), .hoist, (.eng .mem), (mkPkt tCPL 0 0xFF02 6 0 0 7 0 false
    false []), 6,
    by decide +kernel⟩
theorem wit_cplReceived_stale : ∃ (s : State) (p : Plane) (e : Endpt) (k : Packet), s.epOn p (epKey e) = true ∧
    crcOk k = true ∧ mget none k.hdr.tag.toNat (s.ep p (epKey e)).reqs = none ∧ cplStatus k.hdr.op ≠ stRESYNC :=
  ⟨(withF [(Fld.EPC_ERR_CFG.ESC_U, 0, 0), (Fld.TOP_PG_STAT.MEM_OK, 0, 1)]), .hoist, (.eng .mem), (mkPkt tCPL 0
    0xFF02 6 0 0 7 0 false false []),
    by decide +kernel⟩
theorem wit_opTimeout : ∃ (s : State) (p : Plane) (e : Endpt) (g : BitVec 16) (d : EpId), s.epOn p (epKey e) = true
    ∧ mget none g.toNat (s.ep p (epKey e)).reqs = some ⟨.winSync d, d⟩ :=
  ⟨(State.modEp (withF [(Fld.EPC_ERR_CFG.ESC_U, 0, 0), (Fld.TOP_PG_STAT.MEM_OK, 0, 1)]) .hoist 2 (fun x =>
    { x with reqs := [(7, some ⟨.winSync 6, 6⟩)] })), .hoist, (.eng .mem), 7, 6,
    by decide +kernel⟩
theorem wit_tagRelease : ∃ (s : State) (p : Plane) (e : Endpt) (g : BitVec 16), s.live p = true :=
  ⟨(withF [(Fld.EPC_ERR_CFG.ESC_U, 0, 0)]), .hoist, (.eng .mem), 7,
    by decide +kernel⟩
theorem wit_genStart : ∃ (s : State) (p : Plane) (g : Fin 18) (k : Fin 16), s.live p = true ∧ s.genRun p g k = false
    ∧ s.golden p (32 * g.val) = true ∧ s.portEn p (s.genPort p g k) = true ∧ s.flag p Fld.TST_GEP_ID.VALID
    (s.genPort p g k) = true ∧ s.genMode p g k ≠ 1 :=
  ⟨(withF [(Fld.EPC_ERR_CFG.ESC_U, 0, 0), (Fld.TST_PG_CFG.GOLDEN, 0, 1), (Fld.LNE_PORT_CFG.PORT_EN, 0, 1),
    (Fld.TST_GEP_ID.VALID, 0, 1)]), .hoist, 0, 0,
    by decide +kernel⟩
theorem wit_genStop : ∃ (s : State) (p : Plane) (g : Fin 18) (k : Fin 16), s.live p = true ∧ s.genRun p g k = true
    :=
  ⟨(withF [(Fld.EPC_ERR_CFG.ESC_U, 0, 0), (Fld.TST_PG_CFG.GOLDEN, 0, 1), (Fld.LNE_PORT_CFG.PORT_EN, 0, 1),
    (Fld.TST_GEP_ID.VALID, 0, 1), (Fld.TST_GEN_STAT.RUN, 0, 1)]), .hoist, 0, 0,
    by decide +kernel⟩
theorem wit_chkClr : ∃ (s : State) (p : Plane) (g : Fin 18) (f : Fin 256), s.live p = true :=
  ⟨(withF [(Fld.EPC_ERR_CFG.ESC_U, 0, 0)]), .hoist, 0, 3,
    by decide +kernel⟩
theorem wit_fecInject : ∃ (s : State) (p : Plane) (l i : Fin 576), s.live p = true ∧ s.portOf p l = some i.val ∧
    s.portActive p i = true ∧ s.flag p Fld.TST_FEC_INJ.EN l = true ∧ s.fld p Fld.TST_FEC_INJ.LEFT l ≠ 0 ∧ s.fld p
    Fld.TST_FEC_INJ.LEFT l ≠ 0xFFFF :=
  ⟨(withF [(Fld.EPC_ERR_CFG.ESC_U, 0, 0), (Fld.LNE_PORT_CFG.PORT_EN, 0, 1), (Fld.LNE_PORT_STAT.STAGE, 0, 5),
    (Fld.TST_FEC_INJ.EN, 0, 1), (Fld.TST_FEC_INJ.LEFT, 0, 5)]), .hoist, 0, 0,
    by decide +kernel⟩
theorem wit_injectDelayEnd : ∃ (s : State) (p : Plane) (c : Code) (v : Fin 9) (e : StageEnt) (l : List StageEnt) (u
    : Nat), s.runs p = true ∧ s.stg p c.toNat v = e :: l ∧ e.until_ = some u ∧ (∀ w, w < 9 → w ≠ v.val → ∀ x, (s.stg
    p c.toNat w).head? = some x → x.until_ = none) ∧ (∀ w, w < 9 → s.side p c.toNat w = none) :=
  ⟨(State.modSwc State.reset .hoist (fun x =>
    { x with stages := [(0, [⟨1, 1, true, 0, true, 2, some 9, 0, req 0x10 5 6⟩])] })), .hoist, 0, 0, ⟨1, 1, true, 0,
    true, 2, some 9, 0, req 0x10 5 6⟩, [], 9,
    by simp only [forall_some]; decide +kernel⟩
theorem wit_injectDelayEnd_beside : ∃ (s : State) (p : Plane) (c : Code) (v : Fin 9) (e : SideEnt) (u : Nat), s.runs
    p = true ∧ s.side p c.toNat v = some e ∧ e.until_ = some u ∧ (∀ w, w < 9 → w ≠ v.val → s.side p c.toNat w = none
    ∧ ∀ x, (s.stg p c.toNat w).head? = some x → x.until_ = none) ∧ s.tx? p c.toNat = none :=
  ⟨(State.modSwc State.reset .hoist (fun x => { x with side := [(0, some ⟨.plain, req 0x10 5 6, 0, 0, some 9⟩)] })),
    .hoist, 0, 0, ⟨.plain, req 0x10 5 6, 0, 0, some 9⟩, 9,
    by simp only [forall_some]; decide +kernel⟩
theorem wit_genPacket : ∃ (s : State) (p : Plane) (g : Fin 18) (k : Fin 16), s.runs p = true ∧ (s.pl p).tst.inReset
    = false ∧ s.genRun p g k = true ∧ s.portActive p (s.genPort p g k) = true ∧ s.fld p Fld.TST_GEN_STR.RATE (strIdx
    g k) ≠ 0 ∧ mget [] (s.genPort p g k) (s.pl p).tst.resp = [] ∧ unitsOf (s.genForm p g k (s.fld p
    Fld.TST_GEN_SENT.N (sentIdx g k)) 0 0) ≤ s.sideAvail p (s.genPort p g k) (s.genForm p g k (s.fld p
    Fld.TST_GEN_SENT.N (sentIdx g k)) 0 0).hdr.vc.toNat ∧ s.genMode p g k ≠ 1 ∧ s.fld p Fld.TST_GEN_STR.COUNT
    (strIdx g k) = 0 ∧ noId (s.genForm p g k (s.fld p Fld.TST_GEN_SENT.N (sentIdx g k)) 0 0).hdr = false ∧ (s.tap p
    1 (s.genPort p g k) (s.genForm p g k (s.fld p Fld.TST_GEN_SENT.N (sentIdx g k)) 0 0)).2.1 = 0 :=
  ⟨(State.modCred (withF [(Fld.EPC_ERR_CFG.ESC_U, 0, 0), (Fld.TST_PG_CFG.GOLDEN, 0, 1), (Fld.LNE_PORT_CFG.PORT_EN,
    0, 1), (Fld.TST_GEP_ID.VALID, 0, 1), (Fld.LNE_PORT_STAT.STAGE, 0, 5), (Fld.TST_GEN_STAT.RUN, 0, 1),
    (Fld.TST_GEN_STR.RATE, 0, 5)]) .hoist 0 0 (fun c => { c with limRx := 100 })), .hoist, 0, 0,
    by decide +kernel⟩
theorem wit_gepReceive : ∃ (s : State) (p : Plane) (i : Fin 576) (k : Packet), s.runs p = true ∧ s.golden p i = true
    ∧ s.portEn p i = true ∧ (s.pl p).tst.inReset = false ∧ crcOk k = true ∧ k.hdr.type = tREQ ∧ k.hdr.op = 0x03 ∧
    k.hdr.src.toNat < 0xFF00 ∧ (s.dstWin p (16 + i.val) k.hdr.src).held = [] :=
  ⟨(withF [(Fld.EPC_ERR_CFG.ESC_U, 0, 0), (Fld.TST_PG_CFG.GOLDEN, 0, 1), (Fld.LNE_PORT_CFG.PORT_EN, 0, 1),
    (Fld.TST_GEP_ID.VALID, 0, 1), (Fld.LNE_PORT_STAT.STAGE, 0, 5)]), .hoist, 0, (req 0x03 5 6),
    by decide +kernel⟩
theorem wit_gepReceive_other : ∃ (s : State) (p : Plane) (i : Fin 576) (k : Packet), s.runs p = true ∧ s.golden p i
    = true ∧ s.portEn p i = true ∧ (s.pl p).tst.inReset = false ∧ crcOk k = true ∧ k.hdr.type ≠ tREQ ∧ k.hdr.type ≠
    tCPL ∧ k.hdr.type ≠ tACK ∧ k.hdr.type ≠ tTEST :=
  ⟨(withF [(Fld.EPC_ERR_CFG.ESC_U, 0, 0), (Fld.TST_PG_CFG.GOLDEN, 0, 1), (Fld.LNE_PORT_CFG.PORT_EN, 0, 1),
    (Fld.TST_GEP_ID.VALID, 0, 1), (Fld.LNE_PORT_STAT.STAGE, 0, 5)]), .hoist, 0, (mkPkt tMARK 0 5 6 0 0 0 0 false
    false []),
    by decide +kernel⟩
theorem wit_ftCfgWrite : ∃ (s : State) (p : Plane) (v : Word), s.live p = true :=
  ⟨(withF [(Fld.EPC_ERR_CFG.ESC_U, 0, 0)]), .hoist, 1,
    by decide +kernel⟩
theorem wit_ftCfgWrite_take : ∃ (s : State) (p : Plane) (v : Word), s.live p = true ∧ (s.time p).taken = none :=
  ⟨(withF [(Fld.EPC_ERR_CFG.ESC_U, 0, 0)]), .hoist, 1,
    by decide +kernel⟩
theorem wit_ftSet : ∃ (s : State) (p : Plane) (v : BitVec 64), s.live p = true ∧ (s.time p).taken = some 0 :=
  ⟨(State.modTime State.reset .hoist (fun x => { x with taken := some 0 })), .hoist, 9,
    by decide +kernel⟩
theorem wit_syncSend : ∃ (s : State) (p : Plane) (i : Fin 576), s.live p = true ∧ s.portActive p i = true ∧
    s.timeRole p i = 1 :=
  ⟨(withF [(Fld.EPC_ERR_CFG.ESC_U, 0, 0), (Fld.LNE_PORT_CFG.PORT_EN, 0, 1), (Fld.LNE_PORT_STAT.STAGE, 0, 5),
    (Fld.TST_PORT_TIME.ROLE, 0, 1)]), .hoist, 0,
    by decide +kernel⟩
theorem wit_dreqSend : ∃ (s : State) (p : Plane) (i : Fin 576), s.live p = true ∧ s.portActive p i = true ∧
    s.timeRole p i = 2 :=
  ⟨(withF [(Fld.EPC_ERR_CFG.ESC_U, 0, 0), (Fld.LNE_PORT_CFG.PORT_EN, 0, 1), (Fld.LNE_PORT_STAT.STAGE, 0, 5),
    (Fld.TST_PORT_TIME.ROLE, 0, 2)]), .hoist, 0,
    by decide +kernel⟩
theorem wit_sync : ∃ (s : State) (p : Plane) (i : Fin 576) (b : TimeBlock), s.live p = true ∧ s.portActive p i =
    true ∧ s.timeRole p i = 2 ∧ b.state.toNat < 2 :=
  ⟨(withF [(Fld.EPC_ERR_CFG.ESC_U, 0, 0), (Fld.LNE_PORT_CFG.PORT_EN, 0, 1), (Fld.LNE_PORT_STAT.STAGE, 0, 5),
    (Fld.TST_PORT_TIME.ROLE, 0, 2)]), .hoist, 0, ⟨1, 3, 1, 5, 6, 7⟩,
    by decide +kernel⟩
theorem wit_sync_ok : ∃ (s : State) (p : Plane) (i : Fin 576) (b : TimeBlock), s.live p = true ∧ s.portActive p i =
    true ∧ s.timeRole p i = 2 ∧ 2 ≤ b.state.toNat ∧ b.stratum.toNat ≤ 14 ∧ (s.timePort p i).delays ≠ [] ∧ (s.time
    p).taken ≠ some 1 :=
  ⟨(State.modTime (withF [(Fld.EPC_ERR_CFG.ESC_U, 0, 0), (Fld.LNE_PORT_CFG.PORT_EN, 0, 1), (Fld.LNE_PORT_STAT.STAGE,
    0, 5), (Fld.TST_PORT_TIME.ROLE, 0, 2)]) .hoist (fun x => { x with ports := [(0, { delays := [4] })] })), .hoist,
    0, ⟨2, 3, 1, 5, 6, 7⟩,
    by decide +kernel⟩
theorem wit_dreq : ∃ (s : State) (p : Plane) (i : Fin 576) (b : TimeBlock), s.live p = true ∧ s.portActive p i =
    true ∧ s.timeRole p i = 1 :=
  ⟨(withF [(Fld.EPC_ERR_CFG.ESC_U, 0, 0), (Fld.LNE_PORT_CFG.PORT_EN, 0, 1), (Fld.LNE_PORT_STAT.STAGE, 0, 5),
    (Fld.TST_PORT_TIME.ROLE, 0, 1)]), .hoist, 0, ⟨2, 3, 1, 5, 6, 7⟩,
    by decide +kernel⟩
theorem wit_dresp : ∃ (s : State) (p : Plane) (i : Fin 576) (b : TimeBlock) (t1 : Nat), s.live p = true ∧
    s.portActive p i = true ∧ s.timeRole p i = 2 ∧ (s.timePort p i).t1 = some t1 ∧ b.seq + 1 = (s.timePort p
    i).dreqSeq :=
  ⟨(State.modTime (withF [(Fld.EPC_ERR_CFG.ESC_U, 0, 0), (Fld.LNE_PORT_CFG.PORT_EN, 0, 1), (Fld.LNE_PORT_STAT.STAGE,
    0, 5), (Fld.TST_PORT_TIME.ROLE, 0, 2)]) .hoist (fun x =>
    { x with ports := [(0, { t1 := some 4, dreqSeq := 2 })] })), .hoist, 0, ⟨2, 3, 1, 5, 6, 7⟩, 4,
    by decide +kernel⟩
theorem wit_timeSourceLost : ∃ (s : State) (p : Plane), s.live p = true ∧ (s.time p).taken = some 1 ∧ s.fld p
    Fld.TST_FT_STAT.USING 0 = 2 :=
  ⟨(State.modTime (withF [(Fld.EPC_ERR_CFG.ESC_U, 0, 0), (Fld.TST_FT_STAT.USING, 0, 2)]) .hoist (fun x =>
    { x with taken := some 1 })), .hoist,
    by decide +kernel⟩
theorem wit_timeSourceReturn : ∃ (s : State) (p : Plane), s.live p = true ∧ (s.time p).taken = some 1 ∧ (s.timePort
    p (s.fld p Fld.TST_FT_CFG.TIME_PORT 0)).okAt ≠ none ∧ s.portActive p (s.fld p Fld.TST_FT_CFG.TIME_PORT 0) = true
    :=
  ⟨(State.modTime (withF [(Fld.EPC_ERR_CFG.ESC_U, 0, 0), (Fld.LNE_PORT_CFG.PORT_EN, 0, 1), (Fld.LNE_PORT_STAT.STAGE,
    0, 5), (Fld.TST_FT_CFG.TIME_PORT, 0, 0)]) .hoist (fun x =>
    { x with taken := some 1, ports := [(0, { okAt := some 1 })] })), .hoist,
    by decide +kernel⟩
theorem wit_timeFlitSend : ∃ (s : State) (p : Plane), s.live p = true ∧ s.halUp p = true ∧ s.halRoom p = true :=
  ⟨(withF [(Fld.EPC_ERR_CFG.ESC_U, 0, 0), (Fld.TOP_PG_STAT.HALYARD_OK, 0, 1)]), .hoist,
    by decide +kernel⟩
theorem wit_timeFlit : ∃ (s : State) (p : Plane) (b : TimeBlock), s.live p = true ∧ s.halUp p = true ∧ (s.time
    p).taken = some 2 ∧ 2 ≤ b.state.toNat ∧ b.stratum.toNat ≤ 14 ∧ b.state.toNat = 3 :=
  ⟨(State.modTime (withF [(Fld.EPC_ERR_CFG.ESC_U, 0, 0), (Fld.TOP_PG_STAT.HALYARD_OK, 0, 1)]) .hoist (fun x =>
    { x with taken := some 2 })), .hoist, ⟨3, 3, 1, 5, 6, 7⟩,
    by decide +kernel⟩
theorem wit_ppsInEdge : ∃ (s : State) (p : Plane), s.live p = true ∧ (s.time p).taken ≠ some 3 :=
  ⟨State.reset, .hoist,
    by decide +kernel⟩
theorem wit_ppsInEdge_first : ∃ (s : State) (p : Plane), s.live p = true ∧ (s.time p).taken = some 3 ∧ (s.time
    p).edge = false :=
  ⟨(State.modTime State.reset .hoist (fun x => { x with taken := some 3 })), .hoist,
    by decide +kernel⟩
theorem wit_ppsMissing : ∃ (s : State) (p : Plane), s.live p = true ∧ (s.time p).taken = some 3 :=
  ⟨(State.modTime State.reset .hoist (fun x => { x with taken := some 3 })), .hoist,
    by decide +kernel⟩
theorem wit_ppsOut : ∃ (s : State) (p : Plane), s.live p = true ∧ s.flag p Fld.TST_FT_CFG.PPS_OUT_EN 0 = true ∧ (p =
    .hoist ∨ s.flag .hoist Fld.TST_FT_CFG.PPS_OUT_EN 0 = false) :=
  ⟨(withF [(Fld.EPC_ERR_CFG.ESC_U, 0, 0), (Fld.TST_FT_CFG.PPS_OUT_EN, 0, 1)]), .hoist,
    by decide +kernel⟩
theorem wit_pgFail : ∃ (s : State) (p : Plane) (g : Fin 18), s.live p = true ∧ s.pgOk p g = true :=
  ⟨(withF [(Fld.EPC_ERR_CFG.ESC_U, 0, 0), (Fld.TOP_PG_STAT.PG_OK, 0, 262143)]), .hoist, 3,
    by decide +kernel⟩
theorem wit_chipletFail : ∃ (s : State) (p : Plane) (c : Fin 9), s.live p = true ∧ bit c (s.fld p
    Fld.TOP_UNIT_STAT.CHIPLET_OK 0) = true :=
  ⟨(withF [(Fld.EPC_ERR_CFG.ESC_U, 0, 0), (Fld.TOP_UNIT_STAT.CHIPLET_OK, 0, 511)]), .hoist, 3,
    by decide +kernel⟩
theorem wit_spineFail : ∃ (s : State) (p : Plane) (k : Fin 24) (lost : List CellId), s.live p = true ∧ bit k (s.fld
    p Fld.SWC_SPINE_STAT.ELEM_OK 0) = true ∧ 19 ≤ s.spineN p ∧ s.fld p Fld.EPC_ERR_CFG.ESC_U 0 = 0 :=
  ⟨(withF [(Fld.EPC_ERR_CFG.ESC_U, 0, 0), (Fld.SWC_SPINE_STAT.ELEM_OK, 0, 16777215), (Fld.SWC_SPINE_STAT.N, 0,
    24)]), .hoist, 3, [],
    by decide +kernel⟩
theorem wit_engineFail : ∃ (s : State) (p : Plane) (e : Eng), s.live p = true ∧ (s.pl p).epc.engFailed.contains
    (engNum e) = false :=
  ⟨(withF [(Fld.EPC_ERR_CFG.ESC_U, 0, 0)]), .hoist, .mem,
    by decide +kernel⟩
theorem wit_errorLogged : ∃ (s : State) (p : Plane) (code : Byte) (unit info0 info1 info2 : Word), s.live p = true ∧
    1 ≤ code.toNat ∧ code.toNat ≤ 0x12 ∧ s.unitOut p code.toNat unit.toNat = false ∧ (s.pl p).epc.recent = [] ∧
    s.logFill p < 256 ∧ s.fld p Fld.EPC_ERR_CFG.ESC_U 0 = 0 :=
  ⟨(withF [(Fld.EPC_ERR_CFG.ESC_U, 0, 0)]), .hoist, 1, 0, 0, 0, 0,
    by decide +kernel⟩
theorem wit_freeze : ∃ (s : State) (p : Plane), s.live p = true ∧ s.flag p Fld.TOP_CLK_STAT.CORE_LOCK 0 = true :=
  ⟨(withF [(Fld.EPC_ERR_CFG.ESC_U, 0, 0), (Fld.TOP_CLK_STAT.CORE_LOCK, 0, 1)]), .hoist,
    by decide +kernel⟩
theorem wit_freezePin : ∃ (s : State) (p : Plane) (casc : Option Side), s.live p = true ∧ s.flag p
    Fld.TOP_CLK_STAT.CORE_LOCK 0 = true :=
  ⟨(withF [(Fld.EPC_ERR_CFG.ESC_U, 0, 0), (Fld.TOP_CLK_STAT.CORE_LOCK, 0, 1)]), .hoist, none,
    by decide +kernel⟩
theorem wit_unitRetire : ∃ (s : State) (p : Plane) (v : Word), s.live p = true ∧ bits 27 24 v.toNat = 0 ∧ bits 4 0
    v.toNat < 18 ∧ s.pgOk p (bits 4 0 v.toNat) = true ∧ s.enabledIn p [bits 4 0 v.toNat] = [] :=
  ⟨(withF [(Fld.EPC_ERR_CFG.ESC_U, 0, 0), (Fld.TOP_PG_STAT.PG_OK, 0, 262143)]), .hoist, 3,
    by decide +kernel⟩
theorem wit_unitTest : ∃ (s : State) (p : Plane) (v : Word), s.live p = true ∧ unitThere (bits 27 24 v.toNat) (bits
    4 0 v.toNat) = true ∧ s.unitIn p (bits 27 24 v.toNat) (bits 4 0 v.toNat) = false ∧ s.flag p
    Fld.EPC_UNIT_STAT.BUSY 0 = false :=
  ⟨(withF [(Fld.EPC_ERR_CFG.ESC_U, 0, 0)]), .hoist, 3,
    by decide +kernel⟩
theorem wit_unitTestDone : ∃ (s : State) (p : Plane) (ty ix : Nat) (pass : Bool), s.live p = true ∧ (s.pl
    p).epc.testing = some (ty, ix) :=
  ⟨(State.modEpc State.reset .hoist (fun x => { x with testing := some (0, 3) })), .hoist, 0, 3, true,
    by decide +kernel⟩
theorem wit_refclkLoss : ∃ (s : State) (p : Plane) (k : Fin 4), s.live p = true ∧ (k.val ≠ 2 ∨ bit 3 (s.fld p
    Fld.TOP_CLK_STAT.REFCLK_OK 0) = true) :=
  ⟨(withF [(Fld.EPC_ERR_CFG.ESC_U, 0, 0)]), .hoist, 1,
    by decide +kernel⟩
theorem wit_refclkReturn : ∃ (s : State) (p : Plane) (k : Fin 4), s.live p = true ∧ s.flag p
    Fld.TOP_CLK_STAT.CORE_LOCK 0 = true :=
  ⟨(withF [(Fld.EPC_ERR_CFG.ESC_U, 0, 0), (Fld.TOP_CLK_STAT.CORE_LOCK, 0, 1)]), .hoist, 1,
    by decide +kernel⟩
theorem wit_engineGate : ∃ (s : State) (p : Plane) (u : GateUnit), s.live p = true ∧ s.isActive = true ∧ s.needed p
    u = false :=
  ⟨(withF [(Fld.EPC_ERR_CFG.ESC_U, 0, 0), (Fld.CAN_PWR_STATE.STATE, 0, 3)]), .hoist, (.eng .mem),
    by decide +kernel⟩
theorem wit_unitWake : ∃ (s : State) (p : Plane) (u : GateUnit), s.live p = true ∧ s.isActive = true ∧ (∀ g, u ≠ .pg
    g) :=
  ⟨(withF [(Fld.EPC_ERR_CFG.ESC_U, 0, 0), (Fld.CAN_PWR_STATE.STATE, 0, 3)]), .hoist, (.eng .mem),
    by decide +kernel⟩
theorem wit_unitWake_pg : ∃ (s : State) (p : Plane) (g : Fin 18) (q : Nat), s.live p = true ∧ s.isActive = true ∧ q
    ∈ s.quadsNeeded p ∧ q / 8 = g.val :=
  ⟨(withF [(Fld.EPC_ERR_CFG.ESC_U, 0, 0), (Fld.CAN_PWR_STATE.STATE, 0, 3), (Fld.LNE_PORT_CFG.PORT_EN, 100, 1)]),
    .hoist, 3, 25,
    by decide +kernel⟩
theorem wit_swcRst : ∃ (s : State) (p : Plane), s.runs p = true ∧ s.flag p Fld.TOP_RST_CTL.SWC_RST 0 = false :=
  ⟨(withF [(Fld.EPC_ERR_CFG.ESC_U, 0, 0)]), .hoist,
    by decide +kernel⟩
theorem wit_colRst : ∃ (s : State) (p : Plane), s.runs p = true ∧ s.flag p Fld.TOP_RST_CTL.COL_RST 0 = false :=
  ⟨(withF [(Fld.EPC_ERR_CFG.ESC_U, 0, 0)]), .hoist,
    by decide +kernel⟩
theorem wit_dspRst : ∃ (s : State) (p : Plane), s.runs p = true ∧ s.flag p Fld.TOP_RST_CTL.DSP_RST 0 = false :=
  ⟨(withF [(Fld.EPC_ERR_CFG.ESC_U, 0, 0)]), .hoist,
    by decide +kernel⟩
theorem wit_memRst : ∃ (s : State) (p : Plane), s.runs p = true ∧ s.flag p Fld.TOP_RST_CTL.MEM_RST 0 = false :=
  ⟨(withF [(Fld.EPC_ERR_CFG.ESC_U, 0, 0)]), .hoist,
    by decide +kernel⟩
theorem wit_tstRst : ∃ (s : State) (p : Plane), s.runs p = true ∧ s.flag p Fld.TOP_RST_CTL.TST_RST 0 = false :=
  ⟨(withF [(Fld.EPC_ERR_CFG.ESC_U, 0, 0)]), .hoist,
    by decide +kernel⟩
theorem wit_blockResetDone : ∃ (s : State) (p : Plane) (b : Blk), s.runs p = true ∧ s.flag p (rstFld b) 0 = true :=
  ⟨(withF [(Fld.EPC_ERR_CFG.ESC_U, 0, 0), (Fld.TOP_RST_CTL.SWC_RST, 0, 1)]), .hoist, .swc,
    by decide +kernel⟩
theorem wit_halyardFlit_crc : ∃ (s : State) (p : Plane) (f : HalFlit), s.live p = true ∧ s.halUp p = true ∧
    f.vc.toNat ≤ 8 ∧ f.crcOk = false ∧ s.halRoom p = true :=
  ⟨(withF [(Fld.EPC_ERR_CFG.ESC_U, 0, 0), (Fld.TOP_PG_STAT.HALYARD_OK, 0, 1)]), .hoist,
    { data := [], txSeq := 1, vc := 0, ackSeq := 0, nak := false, kind := 1, sopm := 0, nu := 0, bad := false, counts := [], crcOk := false },
    by decide +kernel⟩
theorem wit_halyardFlit : ∃ (s : State) (p : Plane) (f : HalFlit), s.live p = true ∧ s.halUp p = true ∧ f.vc.toNat ≤
    8 ∧ f.crcOk = true ∧ f.kind = 0 ∧ f.nak = false ∧ f.txSeq = (s.pl p).swc.hal.rxSeq + 1 ∧ (s.pl p).swc.hal.nakDue
    = false ∧ (s.pl p).swc.hal.ctl = [] ∧ f.nu = 0 ∧ f.bad = false ∧ s.halRx p f.vc.toNat ≠ [] ∧ bit 0 f.sopm.toNat
    = false ∧ (s.halRx p f.vc.toNat ++ slice 0 64 f.data).length ≠ 64 ∧ (s.halRx p f.vc.toNat ++ slice 0 64
    f.data).length / 64 < unitsWanted (s.halRx p f.vc.toNat ++ slice 0 64 f.data) :=
  ⟨(State.modSwc (withF [(Fld.EPC_ERR_CFG.ESC_U, 0, 0), (Fld.TOP_PG_STAT.HALYARD_OK, 0, 1)]) .hoist (fun x =>
    { x with hal := { x.hal with rx := [(0, [0, 0, 0, 0, 0, 0, 255, 0, 0, 0, 0, 0, 0, 0, 0, 0] ++ List.replicate 48 0)] } })),
    .hoist,
    { data := List.replicate 64 0, txSeq := 0, vc := 0, ackSeq := 0, nak := false, kind := 0, sopm := 0, nu := 0, bad := false, counts := [], crcOk := true },
    by decide +kernel⟩
theorem wit_halyardFlit_limits : ∃ (s : State) (p : Plane) (f : HalFlit), s.live p = true ∧ s.halUp p = true ∧
    f.vc.toNat ≤ 8 ∧ f.crcOk = true ∧ f.kind = 2 ∧ f.nak = false ∧ f.txSeq = (s.pl p).swc.hal.rxSeq + 1 ∧ (s.pl
    p).swc.hal.nakDue = false ∧ (s.pl p).swc.hal.ctl = [] :=
  ⟨(withF [(Fld.EPC_ERR_CFG.ESC_U, 0, 0), (Fld.TOP_PG_STAT.HALYARD_OK, 0, 1)]), .hoist,
    { data := List.replicate 64 0, txSeq := 0, vc := 0, ackSeq := 0, nak := false, kind := 2, sopm := 0, nu := 0, bad := false, counts := [1, 2, 3, 4, 5, 6, 7, 8, 9], crcOk := true },
    by decide +kernel⟩
theorem wit_halyardFail : ∃ (s : State), s.halUp .hoist = true :=
  ⟨(withF [(Fld.EPC_ERR_CFG.ESC_U, 0, 0), (Fld.TOP_PG_STAT.HALYARD_OK, 0, 1)]),
    by decide +kernel⟩
theorem wit_halyardReturn : ∃ (s : State), s.halUp .hoist = false ∧ s.live .hoist = true ∧ s.live .fly = true ∧ 2 ≤
    s.power :=
  ⟨(withF [(Fld.EPC_ERR_CFG.ESC_U, 0, 0), (Fld.CAN_PWR_STATE.STATE, 0, 3)]),
    by decide +kernel⟩
theorem wit_viewCheck : ∃ (s : State) (p : Plane), s.mgr = some p ∧ s.pkg.split = true :=
  ⟨((State.modCan State.reset .hoist (fun x => { x with role := .active })).modPkg (fun x =>
    { x with split := true })), .hoist,
    by decide +kernel⟩
theorem wit_contrib : ∃ (s : State) (p : Plane) (k : Packet) (g : Fin 1024) (h : ColHdr) (ch : Child), s.colOn p =
    true ∧ crcOk k = true ∧ colHdr? k.payload = some h ∧ h.group = g.val ∧ s.gState p g = 1 ∧ (s.children p g).find?
    (fun c => c.id == k.hdr.src && c.eng == (k.hdr.op == opPARTIAL)) = some ch ∧ h.epoch = s.gEpoch p g ∧ s.gBase p
    g ≤ h.chunk ∧ h.chunk < s.gLimit p g ∧ (s.grp p g).freed.contains h.chunk = false ∧ mget none h.chunk (s.grp p
    g).chunks = none ∧ s.colFormatOk p g ch.eng h k.payload.length = true ∧ s.gRelay p g = false ∧ (s.children p
    g).all (fun c => decide (c.idx = ch.idx)) = false ∧ k.hdr.op = opCONTRIB :=
  ⟨(State.modCol (withF [(Fld.EPC_ERR_CFG.ESC_U, 0, 0), (Fld.TOP_PG_STAT.COL_OK, 0, 1), (Fld.COL_GRP_STAT.STATE, 0,
    1), (Fld.COL_GRP.CHILD_COUNT, 0, 2), (Fld.COL_ID.VALID, 0, 1), (Fld.COL_ID.ID, 0, 6), (Fld.COL_ID.VALID, 1, 1),
    (Fld.COL_ID.ID, 1, 7), (Fld.COL_GRP_LIMIT.N, 0, 4)]) .hoist (fun x =>
    { x with grps := [(0, { kids := [⟨0, 6, false⟩, ⟨1, 7, false⟩] })] })), .hoist, (mkPkt tREQ 0x20 0xFF00 6 0 0 0
    0 false false (colHdrBytes ⟨0, 0, true, false, 0, 0, 1, 0⟩ ++ List.replicate 4 0)), 0, ⟨0, 0, true, false, 0, 0,
    1, 0⟩, ⟨0, 6, false⟩,
    by decide +kernel⟩
theorem wit_partialIn : ∃ (s : State) (p : Plane) (k : Packet) (g : Fin 1024) (h : ColHdr) (ch : Child), s.colOn p =
    true ∧ crcOk k = true ∧ colHdr? k.payload = some h ∧ h.group = g.val ∧ s.gState p g = 1 ∧ (s.children p g).find?
    (fun c => c.id == k.hdr.src && c.eng == (k.hdr.op == opPARTIAL)) = some ch ∧ h.epoch = s.gEpoch p g ∧ s.gBase p
    g ≤ h.chunk ∧ h.chunk < s.gLimit p g ∧ (s.grp p g).freed.contains h.chunk = false ∧ mget none h.chunk (s.grp p
    g).chunks = none ∧ s.colFormatOk p g ch.eng h k.payload.length = true ∧ s.gRelay p g = false ∧ (s.children p
    g).all (fun c => decide (c.idx = ch.idx)) = false ∧ h.fwd = false :=
  ⟨(State.modCol (withF [(Fld.EPC_ERR_CFG.ESC_U, 0, 0), (Fld.TOP_PG_STAT.COL_OK, 0, 1), (Fld.COL_GRP_STAT.STATE, 0,
    1), (Fld.COL_GRP.CHILD_COUNT, 0, 2), (Fld.COL_ID.VALID, 0, 1), (Fld.COL_ID.ID, 0, 6), (Fld.COL_ID.VALID, 1, 1),
    (Fld.COL_ID.ID, 1, 7), (Fld.COL_GRP_LIMIT.N, 0, 4)]) .hoist (fun x =>
    { x with grps := [(0, { kids := [⟨0, 6, true⟩, ⟨1, 7, false⟩] })] })), .hoist, (mkPkt tREQ 0x21 0xFF00 6 0 0 0 0
    false false (colHdrBytes ⟨0, 0, true, false, 0, 0, 1, 0⟩ ++ List.replicate 4 0)), 0, ⟨0, 0, true, false, 0, 0,
    1, 0⟩, ⟨0, 6, true⟩,
    by decide +kernel⟩
theorem wit_chunkFreed : ∃ (s : State) (p : Plane) (g : Fin 1024) (n : BitVec 32) (c : Chunk), s.colOn p = true ∧
    s.gState p g = 1 ∧ mget none n.toNat (s.grp p g).chunks = some c ∧ c.sent = true ∧ s.chunkPending p g n.toNat =
    false ∧ n.toNat = s.gBase p g ∧ (s.grp p g).freed = [] ∧ (s.grp p g).lastIdx = none ∧ s.gKind p g ≠ 3 ∧ n.toNat
    + 1 < 2 ^ 32 :=
  ⟨(State.modCol (withF [(Fld.EPC_ERR_CFG.ESC_U, 0, 0), (Fld.TOP_PG_STAT.COL_OK, 0, 1), (Fld.COL_GRP_STAT.STATE, 0,
    1)]) .hoist (fun x =>
    { x with grps := [(0, { chunks := [(0, some ⟨[], 0, 0, false, [], [], .sram, true, true, 0⟩)] })] })), .hoist,
    0, 0, ⟨[], 0, 0, false, [], [], .sram, true, true, 0⟩,
    by decide +kernel⟩
theorem wit_slotCred : ∃ (s : State) (p : Plane) (k : Packet) (g : Fin 1024) (h : ColHdr), s.colOn p = true ∧ crcOk
    k = true ∧ colHdr? k.payload = some h ∧ h.group = g.val ∧ s.gState p g = 1 ∧ s.gRoot p g = false ∧ k.hdr.src =
    s.gParent p g ∧ h.epoch = s.gEpoch p g ∧ (s.grp p g).parent < h.chunk :=
  ⟨(withF [(Fld.EPC_ERR_CFG.ESC_U, 0, 0), (Fld.TOP_PG_STAT.COL_OK, 0, 1), (Fld.COL_GRP_STAT.STATE, 0, 1),
    (Fld.COL_GRP.PARENT_ID, 0, 6)]), .hoist, (mkPkt tREQ 0x24 0xFF00 6 0 0 0 0 false false (colHdrBytes ⟨0, 0, true,
    false, 0, 3, 1, 0⟩)), 0, ⟨0, 0, true, false, 0, 3, 1, 0⟩,
    by decide +kernel⟩
theorem wit_slotCredDelay : ∃ (s : State) (p : Plane) (g : Fin 1024), s.colOn p = true ∧ s.gState p g = 1 ∧ (s.grp p
    g).told < s.gLimit p g :=
  ⟨(withF [(Fld.EPC_ERR_CFG.ESC_U, 0, 0), (Fld.TOP_PG_STAT.COL_OK, 0, 1), (Fld.COL_GRP_STAT.STATE, 0, 1),
    (Fld.COL_GRP_LIMIT.N, 0, 4)]), .hoist, 0,
    by decide +kernel⟩
theorem wit_slotCredRefresh : ∃ (s : State) (p : Plane) (g : Fin 1024), s.colOn p = true ∧ s.gState p g = 1 :=
  ⟨(withF [(Fld.EPC_ERR_CFG.ESC_U, 0, 0), (Fld.TOP_PG_STAT.COL_OK, 0, 1), (Fld.COL_GRP_STAT.STATE, 0, 1)]), .hoist,
    0,
    by decide +kernel⟩
theorem wit_colCtl : ∃ (s : State) (p : Plane) (k : Packet) (g : Fin 1024) (h : ColHdr), s.colOn p = true ∧ crcOk k
    = true ∧ colHdr? k.payload = some h ∧ h.group = g.val ∧ s.gState p g = 1 ∧ h.elems = 1 ∧ s.gRoot p g = false ∧
    k.hdr.src = s.gParent p g :=
  ⟨(withF [(Fld.EPC_ERR_CFG.ESC_U, 0, 0), (Fld.TOP_PG_STAT.COL_OK, 0, 1), (Fld.COL_GRP_STAT.STATE, 0, 1),
    (Fld.COL_GRP.PARENT_ID, 0, 6)]), .hoist, (mkPkt tREQ 0x25 0xFF00 6 0 0 0 0 false false (colHdrBytes ⟨0, 0, true,
    false, 0, 3, 1, 0⟩)), 0, ⟨0, 0, true, false, 0, 3, 1, 0⟩,
    by decide +kernel⟩
theorem wit_collectiveTimeout : ∃ (s : State) (p : Plane) (g : Fin 1024), s.colOn p = true ∧ s.gState p g = 1 ∧
    s.openWork p g = true :=
  ⟨(State.modCol (withF [(Fld.EPC_ERR_CFG.ESC_U, 0, 0), (Fld.TOP_PG_STAT.COL_OK, 0, 1), (Fld.COL_GRP_STAT.STATE, 0,
    1)]) .hoist (fun x =>
    { x with grps := [(0, { chunks := [(0, some ⟨[], 0, 0, false, [], [], .sram, true, false, 0⟩)] })] })), .hoist,
    0,
    by decide +kernel⟩
theorem wit_groupActivate : ∃ (s : State) (p : Plane) (g : Fin 1024), s.colOn p = true ∧ s.flag p Fld.COL_GRP.VALID
    g = true ∧ s.gState p g = 0 ∧ s.fld p Fld.COL_ACT_CNT.N 0 < 64 ∧ s.fld p Fld.COL_GRP.ALLOC_CHUNKS g * s.gSlots p
    g ≤ s.fld p Fld.COL_SLOT_FREE.N 0 ∧ s.fld p Fld.COL_GRP.ALLOC_CHUNKS g ≤ s.fld p Fld.COL_REC_FREE.N 0 ∧
    s.gExhaust p g = 0 :=
  ⟨(withF [(Fld.EPC_ERR_CFG.ESC_U, 0, 0), (Fld.TOP_PG_STAT.COL_OK, 0, 1), (Fld.COL_GRP.VALID, 0, 1)]), .hoist, 0,
    by decide +kernel⟩
theorem wit_groupDeactivate : ∃ (s : State) (p : Plane) (g : Fin 1024), s.colOn p = true ∧ (s.gState p g = 1 ∨
    s.gState p g = 2) :=
  ⟨(withF [(Fld.EPC_ERR_CFG.ESC_U, 0, 0), (Fld.TOP_PG_STAT.COL_OK, 0, 1), (Fld.COL_GRP_STAT.STATE, 0, 1)]), .hoist,
    0,
    by decide +kernel⟩
theorem wit_groupAbort : ∃ (s : State) (p : Plane) (g : Fin 1024), s.colOn p = true ∧ s.gState p g = 1 :=
  ⟨(withF [(Fld.EPC_ERR_CFG.ESC_U, 0, 0), (Fld.TOP_PG_STAT.COL_OK, 0, 1), (Fld.COL_GRP_STAT.STATE, 0, 1)]), .hoist,
    0,
    by decide +kernel⟩
theorem wit_reform : ∃ (s : State) (p : Plane) (g : Fin 1024), s.colOn p = true ∧ s.gState p g = 2 :=
  ⟨(withF [(Fld.EPC_ERR_CFG.ESC_U, 0, 0), (Fld.TOP_PG_STAT.COL_OK, 0, 1), (Fld.COL_GRP_STAT.STATE, 0, 2)]), .hoist,
    0,
    by decide +kernel⟩
theorem wit_engineStateFlit : ∃ (s : State) (p : Plane) (g : Fin 1024), s.live p = true ∧ s.halUp p = true ∧
    s.gState p g = 1 ∧ s.flag p Fld.COL_GRP.XPLANE g = true :=
  ⟨(withF [(Fld.EPC_ERR_CFG.ESC_U, 0, 0), (Fld.TOP_PG_STAT.COL_OK, 0, 1), (Fld.COL_GRP_STAT.STATE, 0, 1),
    (Fld.TOP_PG_STAT.HALYARD_OK, 0, 1), (Fld.COL_GRP.XPLANE, 0, 1)]), .hoist, 0,
    by decide +kernel⟩
theorem wit_engineStateSend : ∃ (s : State) (p : Plane), s.live p = true ∧ s.halUp p = true :=
  ⟨(withF [(Fld.EPC_ERR_CFG.ESC_U, 0, 0), (Fld.TOP_PG_STAT.HALYARD_OK, 0, 1)]), .hoist,
    by decide +kernel⟩
theorem wit_token : ∃ (s : State) (p : Plane) (k : Packet) (l : Fin 64) (h : DspHdr), s.dspOn p = true ∧ crcOk k =
    true ∧ dspHdr? k.payload = some h ∧ h.layer = l.val ∧ s.flag p Fld.DSP_LYR.VALID l = true ∧ (s.origins p
    l).contains k.hdr.src = true ∧ s.lState p l = 1 ∧ h.epoch = s.lEpoch p l ∧ bit 7 h.flags = false ∧ (s.layerRecs
    p l).find? (fun e => e.2.origin == k.hdr.src && e.2.token == h.token) = none ∧ s.tokenOk p h k.hdr.src k.payload
    none = true ∧ ((s.layerRecs p l).filter (fun e => e.2.origin == k.hdr.src)).length < s.fld p Fld.DSP_LYR.TOK_MAX
    l ∧ (s.lyr p l).closed = false ∧ (s.origins p l).all (fun o => (s.lyr p l).lastBy.contains o) = false :=
  ⟨(State.modLyr (withF [(Fld.EPC_ERR_CFG.ESC_U, 0, 0), (Fld.TOP_PG_STAT.DSP_OK, 0, 1), (Fld.DSP_LYR_STAT.STATE, 0,
    1), (Fld.DSP_LYR.VALID, 0, 1), (Fld.DSP_LYR.ORIG_COUNT, 0, 1), (Fld.DSP_ORIG.VALID, 0, 1), (Fld.DSP_ORIG.ID, 0,
    6), (Fld.DSP_LYR.TOK_MAX, 0, 4), (Fld.DSP_LYR.KMAX, 0, 1), (Fld.DSP_LYR.EXP_COUNT, 0, 4),
    (Fld.DSP_LYR.TOK_BYTES, 0, 0)]) .hoist 0 (fun x => { x with orig := [6] })), .hoist, (mkPkt tREQ 0x30 0xFF01 6 0
    0 0 0 false false (List.replicate 48 0)), 0, {},
    by decide +kernel⟩
theorem wit_expertOut : ∃ (s : State) (p : Plane) (k : Packet) (l : Fin 64) (h : DspHdr) (r : TokRec) (rd : Nat),
    s.dspOn p = true ∧ crcOk k = true ∧ dspHdr? k.payload = some h ∧ h.layer = l.val ∧ s.lState p l = 1 ∧ s.rec? p
    h.tref = some r ∧ r.fate.getD h.j .dropped = .sent rd ∧ rd = h.round ∧ k.hdr.src = (s.lyr p l).mapEp (expertOf
    (r.route.getD h.j 0)) ∧ h.epoch = s.lEpoch p l ∧ r.layer = l ∧ s.recDone p r = false ∧ r.arrived.contains h.frag
    = true ∧ r.outs.contains (h.j, h.frag) = false ∧ (k.payload.length = if bit 4 h.flags then 16 else 16 +
    wireBytes (s.fld p Fld.DSP_LYR.Y_FMT l) 64 (s.lE p l)) ∧ (s.lyr p l).closed = false ∧ (s.origins p l).all (fun o
    => (s.lyr p l).lastBy.contains o) = false :=
  ⟨(State.modLyr (State.setRec (withF [(Fld.EPC_ERR_CFG.ESC_U, 0, 0), (Fld.TOP_PG_STAT.DSP_OK, 0, 1),
    (Fld.DSP_LYR_STAT.STATE, 0, 1), (Fld.DSP_LYR.VALID, 0, 1), (Fld.DSP_LYR.ORIG_COUNT, 0, 1), (Fld.DSP_ORIG.VALID,
    0, 1), (Fld.DSP_ORIG.ID, 0, 6), (Fld.DSP_LYR.TOK_MAX, 0, 4), (Fld.DSP_LYR.KMAX, 0, 1), (Fld.DSP_LYR.EXP_COUNT,
    0, 4)]) .hoist 0 (some ⟨0, 6, 0, [0], [.sent 0], [], [0], [], [], [], []⟩)) .hoist 0 (fun x =>
    { x with emap := [], orig := [6] })), .hoist, (mkPkt tREQ 0x32 0xFF01 (LyrSt.mapEp {} 0) 0 0 0 0 false false
    (List.replicate 16 0)), 0, {}, ⟨0, 6, 0, [0], [.sent 0], [], [0], [], [], [], []⟩, 0,
    by decide +kernel⟩
theorem wit_layerTimeout : ∃ (s : State) (p : Plane) (l : Fin 64), s.dspOn p = true ∧ (s.lyr p l).used = true ∧
    s.lState p l = 1 :=
  ⟨(State.modLyr (withF [(Fld.EPC_ERR_CFG.ESC_U, 0, 0), (Fld.TOP_PG_STAT.DSP_OK, 0, 1), (Fld.DSP_LYR_STAT.STATE, 0,
    1)]) .hoist 0 (fun x => { x with used := true })), .hoist, 0,
    by decide +kernel⟩
theorem wit_layerActivate : ∃ (s : State) (p : Plane) (l : Fin 64), s.dspOn p = true ∧ s.flag p Fld.DSP_LYR.VALID l
    = true ∧ s.lState p l = 0 ∧ s.fld p Fld.DSP_ACT_CNT.N 0 < 16 ∧ s.fld p Fld.DSP_LYR.ORIG_COUNT l * s.fld p
    Fld.DSP_LYR.TOK_MAX l ≤ s.fld p Fld.DSP_REC_FREE.N 0 ∧ s.fld p Fld.DSP_LYR.ORIG_COUNT l * s.fld p
    Fld.DSP_LYR.TOK_MAX l * (s.lFrags p l * ((s.lE p l + 63) / 64)) ≤ s.fld p Fld.COL_SLOT_FREE.N 0 ∧ s.lPolicy p l
    ≠ 1 :=
  ⟨(withF [(Fld.EPC_ERR_CFG.ESC_U, 0, 0), (Fld.TOP_PG_STAT.DSP_OK, 0, 1), (Fld.DSP_LYR.VALID, 0, 1)]), .hoist, 0,
    by decide +kernel⟩
theorem wit_layerDeactivate : ∃ (s : State) (p : Plane) (l : Fin 64), s.dspOn p = true ∧ (s.lState p l = 1 ∨
    s.lState p l = 2) :=
  ⟨(withF [(Fld.EPC_ERR_CFG.ESC_U, 0, 0), (Fld.TOP_PG_STAT.DSP_OK, 0, 1), (Fld.DSP_LYR_STAT.STATE, 0, 1)]), .hoist,
    0,
    by decide +kernel⟩
theorem wit_layerAbort : ∃ (s : State) (p : Plane) (l : Fin 64), s.dspOn p = true ∧ s.lState p l = 1 :=
  ⟨(withF [(Fld.EPC_ERR_CFG.ESC_U, 0, 0), (Fld.TOP_PG_STAT.DSP_OK, 0, 1), (Fld.DSP_LYR_STAT.STATE, 0, 1)]), .hoist,
    0,
    by decide +kernel⟩
theorem wit_layerReform : ∃ (s : State) (p : Plane) (l : Fin 64), s.dspOn p = true ∧ s.lState p l = 2 :=
  ⟨(withF [(Fld.EPC_ERR_CFG.ESC_U, 0, 0), (Fld.TOP_PG_STAT.DSP_OK, 0, 1), (Fld.DSP_LYR_STAT.STATE, 0, 2)]), .hoist,
    0,
    by decide +kernel⟩
theorem wit_put : ∃ (s : State) (p : Plane) (k : Packet) (x y : Place), s.memOn p = true ∧ k.hdr.op = 0x10 ∧ crcOk k
    = true ∧ s.memCheck p 0x10 k.payload = .ok x y ∧ x.local = true :=
  ⟨(withF [(Fld.EPC_ERR_CFG.ESC_U, 0, 0), (Fld.TOP_PG_STAT.MEM_OK, 0, 1), (Fld.GWM_WIN.VALID, 0, 1),
    (Fld.GWM_WIN.KIND, 0, 1), (Fld.GWM_WIN.LIMIT_LO, 0, 15), (Fld.GWM_WIN.PR, 0, 1), (Fld.GWM_WIN.PW, 0, 1),
    (Fld.GWM_WIN.PX, 0, 1), (Fld.GWM_WIN.PA, 0, 1)]), .hoist, (mkPkt tREQ 0x10 0xFF02 6 0 0 0 0 false false (leBytes
    8 0 ++ leBytes 4 4 ++ [0, 0, 0, 0] ++ [1, 2, 3, 4])), ⟨1, 0, 0xFFFF⟩, ⟨1, 0, 0xFFFF⟩,
    by decide +kernel⟩
theorem wit_get : ∃ (s : State) (p : Plane) (k : Packet) (x y : Place), s.memOn p = true ∧ k.hdr.op = 0x11 ∧ crcOk k
    = true ∧ s.memCheck p 0x11 k.payload = .ok x y ∧ x.local = true :=
  ⟨(withF [(Fld.EPC_ERR_CFG.ESC_U, 0, 0), (Fld.TOP_PG_STAT.MEM_OK, 0, 1), (Fld.GWM_WIN.VALID, 0, 1),
    (Fld.GWM_WIN.KIND, 0, 1), (Fld.GWM_WIN.LIMIT_LO, 0, 15), (Fld.GWM_WIN.PR, 0, 1), (Fld.GWM_WIN.PW, 0, 1),
    (Fld.GWM_WIN.PX, 0, 1), (Fld.GWM_WIN.PA, 0, 1)]), .hoist, (mkPkt tREQ 0x11 0xFF02 6 0 0 0 0 false false (leBytes
    8 0 ++ leBytes 4 4 ++ [0, 0, 0, 0] ++ [])), ⟨1, 0, 0xFFFF⟩, ⟨1, 0, 0xFFFF⟩,
    by decide +kernel⟩
theorem wit_putRed : ∃ (s : State) (p : Plane) (k : Packet) (x y : Place), s.memOn p = true ∧ k.hdr.op = 0x12 ∧
    crcOk k = true ∧ s.memCheck p 0x12 k.payload = .ok x y ∧ x.local = true :=
  ⟨(withF [(Fld.EPC_ERR_CFG.ESC_U, 0, 0), (Fld.TOP_PG_STAT.MEM_OK, 0, 1), (Fld.GWM_WIN.VALID, 0, 1),
    (Fld.GWM_WIN.KIND, 0, 1), (Fld.GWM_WIN.LIMIT_LO, 0, 15), (Fld.GWM_WIN.PR, 0, 1), (Fld.GWM_WIN.PW, 0, 1),
    (Fld.GWM_WIN.PX, 0, 1), (Fld.GWM_WIN.PA, 0, 1)]), .hoist, (mkPkt tREQ 0x12 0xFF02 6 0 0 0 0 false false (leBytes
    8 0 ++ leBytes 4 4 ++ [0x00, 0, 0, 0] ++ [1, 2, 3, 4])), ⟨1, 0, 0xFFFF⟩, ⟨1, 0, 0xFFFF⟩,
    by decide +kernel⟩
theorem wit_faddI : ∃ (s : State) (p : Plane) (k : Packet) (x y : Place), s.memOn p = true ∧ k.hdr.op = 0x18 ∧ crcOk
    k = true ∧ s.memCheck p 0x18 k.payload = .ok x y ∧ x.local = true :=
  ⟨(withF [(Fld.EPC_ERR_CFG.ESC_U, 0, 0), (Fld.TOP_PG_STAT.MEM_OK, 0, 1), (Fld.GWM_WIN.VALID, 0, 1),
    (Fld.GWM_WIN.KIND, 0, 1), (Fld.GWM_WIN.LIMIT_LO, 0, 15), (Fld.GWM_WIN.PR, 0, 1), (Fld.GWM_WIN.PW, 0, 1),
    (Fld.GWM_WIN.PX, 0, 1), (Fld.GWM_WIN.PA, 0, 1)]), .hoist, (mkPkt tREQ 0x18 0xFF02 6 0 0 0 0 false false (leBytes
    8 0 ++ leBytes 4 0 ++ [0, 0, 0, 0] ++ [1, 2, 3, 4, 0, 0, 0, 0])), ⟨1, 0, 0xFFFF⟩, ⟨1, 0, 0xFFFF⟩,
    by decide +kernel⟩
theorem wit_faddF : ∃ (s : State) (p : Plane) (k : Packet) (x y : Place), s.memOn p = true ∧ k.hdr.op = 0x19 ∧ crcOk
    k = true ∧ s.memCheck p 0x19 k.payload = .ok x y ∧ x.local = true :=
  ⟨(withF [(Fld.EPC_ERR_CFG.ESC_U, 0, 0), (Fld.TOP_PG_STAT.MEM_OK, 0, 1), (Fld.GWM_WIN.VALID, 0, 1),
    (Fld.GWM_WIN.KIND, 0, 1), (Fld.GWM_WIN.LIMIT_LO, 0, 15), (Fld.GWM_WIN.PR, 0, 1), (Fld.GWM_WIN.PW, 0, 1),
    (Fld.GWM_WIN.PX, 0, 1), (Fld.GWM_WIN.PA, 0, 1)]), .hoist, (mkPkt tREQ 0x19 0xFF02 6 0 0 0 0 false false (leBytes
    8 0 ++ leBytes 4 0 ++ [0, 0, 0, 0] ++ [1, 2, 3, 4, 0, 0, 0, 0])), ⟨1, 0, 0xFFFF⟩, ⟨1, 0, 0xFFFF⟩,
    by decide +kernel⟩
theorem wit_cas : ∃ (s : State) (p : Plane) (k : Packet) (x y : Place), s.memOn p = true ∧ k.hdr.op = 0x1A ∧ crcOk k
    = true ∧ s.memCheck p 0x1A k.payload = .ok x y ∧ x.local = true :=
  ⟨(withF [(Fld.EPC_ERR_CFG.ESC_U, 0, 0), (Fld.TOP_PG_STAT.MEM_OK, 0, 1), (Fld.GWM_WIN.VALID, 0, 1),
    (Fld.GWM_WIN.KIND, 0, 1), (Fld.GWM_WIN.LIMIT_LO, 0, 15), (Fld.GWM_WIN.PR, 0, 1), (Fld.GWM_WIN.PW, 0, 1),
    (Fld.GWM_WIN.PX, 0, 1), (Fld.GWM_WIN.PA, 0, 1)]), .hoist, (mkPkt tREQ 0x1A 0xFF02 6 0 0 0 0 false false (leBytes
    8 0 ++ leBytes 4 0 ++ [0, 0, 0, 0] ++ [1, 2, 3, 4, 0, 0, 0, 0, 1, 2, 3, 4, 0, 0, 0, 0])), ⟨1, 0, 0xFFFF⟩, ⟨1, 0,
    0xFFFF⟩,
    by decide +kernel⟩
theorem wit_swap : ∃ (s : State) (p : Plane) (k : Packet) (x y : Place), s.memOn p = true ∧ k.hdr.op = 0x1B ∧ crcOk
    k = true ∧ s.memCheck p 0x1B k.payload = .ok x y ∧ x.local = true :=
  ⟨(withF [(Fld.EPC_ERR_CFG.ESC_U, 0, 0), (Fld.TOP_PG_STAT.MEM_OK, 0, 1), (Fld.GWM_WIN.VALID, 0, 1),
    (Fld.GWM_WIN.KIND, 0, 1), (Fld.GWM_WIN.LIMIT_LO, 0, 15), (Fld.GWM_WIN.PR, 0, 1), (Fld.GWM_WIN.PW, 0, 1),
    (Fld.GWM_WIN.PX, 0, 1), (Fld.GWM_WIN.PA, 0, 1)]), .hoist, (mkPkt tREQ 0x1B 0xFF02 6 0 0 0 0 false false (leBytes
    8 0 ++ leBytes 4 0 ++ [0, 0, 0, 0] ++ [1, 2, 3, 4, 0, 0, 0, 0])), ⟨1, 0, 0xFFFF⟩, ⟨1, 0, 0xFFFF⟩,
    by decide +kernel⟩
theorem wit_amax : ∃ (s : State) (p : Plane) (k : Packet) (x y : Place), s.memOn p = true ∧ k.hdr.op = 0x1C ∧ crcOk
    k = true ∧ s.memCheck p 0x1C k.payload = .ok x y ∧ x.local = true :=
  ⟨(withF [(Fld.EPC_ERR_CFG.ESC_U, 0, 0), (Fld.TOP_PG_STAT.MEM_OK, 0, 1), (Fld.GWM_WIN.VALID, 0, 1),
    (Fld.GWM_WIN.KIND, 0, 1), (Fld.GWM_WIN.LIMIT_LO, 0, 15), (Fld.GWM_WIN.PR, 0, 1), (Fld.GWM_WIN.PW, 0, 1),
    (Fld.GWM_WIN.PX, 0, 1), (Fld.GWM_WIN.PA, 0, 1)]), .hoist, (mkPkt tREQ 0x1C 0xFF02 6 0 0 0 0 false false (leBytes
    8 0 ++ leBytes 4 0 ++ [0, 0, 0, 0] ++ [1, 2, 3, 4, 0, 0, 0, 0])), ⟨1, 0, 0xFFFF⟩, ⟨1, 0, 0xFFFF⟩,
    by decide +kernel⟩
theorem wit_amin : ∃ (s : State) (p : Plane) (k : Packet) (x y : Place), s.memOn p = true ∧ k.hdr.op = 0x1D ∧ crcOk
    k = true ∧ s.memCheck p 0x1D k.payload = .ok x y ∧ x.local = true :=
  ⟨(withF [(Fld.EPC_ERR_CFG.ESC_U, 0, 0), (Fld.TOP_PG_STAT.MEM_OK, 0, 1), (Fld.GWM_WIN.VALID, 0, 1),
    (Fld.GWM_WIN.KIND, 0, 1), (Fld.GWM_WIN.LIMIT_LO, 0, 15), (Fld.GWM_WIN.PR, 0, 1), (Fld.GWM_WIN.PW, 0, 1),
    (Fld.GWM_WIN.PX, 0, 1), (Fld.GWM_WIN.PA, 0, 1)]), .hoist, (mkPkt tREQ 0x1D 0xFF02 6 0 0 0 0 false false (leBytes
    8 0 ++ leBytes 4 0 ++ [0, 0, 0, 0] ++ [1, 2, 3, 4, 0, 0, 0, 0])), ⟨1, 0, 0xFFFF⟩, ⟨1, 0, 0xFFFF⟩,
    by decide +kernel⟩
theorem wit_copy : ∃ (s : State) (p : Plane) (k : Packet) (x y : Place), s.memOn p = true ∧ k.hdr.op = 0x13 ∧ crcOk
    k = true ∧ s.memCheck p 0x13 k.payload = .ok x y ∧ x.local = true ∧ y.local = true ∧ s.copyUsed p < s.copyMax p
    ∧ (memHdr k.payload).size ≤ 4096 - wordOf 16 8 k.payload % 4096 ∧ 1 ≤ (memHdr k.payload).size ∧ s.rangeBad p x
    (memHdr k.payload).size false = false ∧ (∀ m ∈ (s.pl p).mem.lpDevs, m < 16) :=
  ⟨(withF [(Fld.EPC_ERR_CFG.ESC_U, 0, 0), (Fld.TOP_PG_STAT.MEM_OK, 0, 1), (Fld.GWM_WIN.VALID, 0, 1),
    (Fld.GWM_WIN.KIND, 0, 1), (Fld.GWM_WIN.LIMIT_LO, 0, 15), (Fld.GWM_WIN.PR, 0, 1), (Fld.GWM_WIN.PW, 0, 1),
    (Fld.GWM_WIN.PX, 0, 1), (Fld.GWM_WIN.PA, 0, 1)]), .hoist, (mkPkt tREQ 0x13 0xFF02 6 0 0 0 0 false false (leBytes
    8 0 ++ leBytes 4 4 ++ [0, 0, 0, 0] ++ leBytes 8 4096 ++ leBytes 8 0)), ⟨1, 0, 0xFFFF⟩, ⟨1, 4096, 0xFFFF⟩,
    by decide +kernel⟩
theorem wit_copy_remote : ∃ (s : State) (p : Plane) (k : Packet) (x y : Place), s.memOn p = true ∧ k.hdr.op = 0x13 ∧
    crcOk k = true ∧ s.memCheck p 0x13 k.payload = .ok x y ∧ x.local = false ∧ s.copyUsed p < s.copyMax p ∧
    s.proxyUsed p < 16384 ∧ s.epWindowed p 2 = true ∧ (memHdr k.payload).size ≤ 4096 - wordOf 16 8 k.payload % 4096
    ∧ 1 ≤ (memHdr k.payload).size :=
  ⟨(withF [(Fld.EPC_ERR_CFG.ESC_U, 0, 0), (Fld.TOP_PG_STAT.MEM_OK, 0, 1), (Fld.GWM_WIN.VALID, 0, 1),
    (Fld.GWM_WIN.KIND, 0, 0), (Fld.GWM_WIN.LIMIT_LO, 0, 15), (Fld.GWM_WIN.PR, 0, 1), (Fld.GWM_WIN.PW, 0, 1),
    (Fld.GWM_WIN.PX, 0, 1), (Fld.GWM_WIN.PA, 0, 1), (Fld.GWM_WIN.TGT_ID, 0, 9), (Fld.RTE_ALIAS.VALID, 2, 1),
    (Fld.RTE_ALIAS.ID, 2, 30)]), .hoist, (mkPkt tREQ 0x13 0xFF02 6 0 0 0 0 false false (leBytes 8 0 ++ leBytes 4 4
    ++ [0, 0, 0, 0] ++ leBytes 8 4096 ++ leBytes 8 0)), ⟨0, 0, 9⟩, ⟨0, 4096, 9⟩,
    by decide +kernel⟩
theorem wit_copyPieceDone : ∃ (s : State) (p : Plane) (id i : Nat) (c : CopySt), s.memOn p = true ∧ s.copy? p id =
    some c ∧ c.prog.contains i = true ∧ c.dst.local = true ∧ mget [] i c.data ≠ [] ∧ s.rangeBad p (c.dst.plus
    (pieceOff c.daddr i)) (mget [] i c.data).length true = false ∧ c.prog.filter (· ≠ i) ≠ [] ∧ c.size ≤ pieceOff
    c.daddr c.next ∧ c.status = stOK ∧ c.lost = false ∧ (s.pl p).mem.waits = [] :=
  ⟨(State.modMem (withF [(Fld.EPC_ERR_CFG.ESC_U, 0, 0), (Fld.TOP_PG_STAT.MEM_OK, 0, 1)]) .hoist (fun x =>
    { x with copies := [(3, some ⟨(req 0x13 0xFF02 6).hdr, ⟨1, 0, 0⟩, ⟨1, 8192, 0⟩, 0, 8192, 2, [0, 1], [(0, [7])], stOK, false⟩)] })),
    .hoist, 3, 0, ⟨(req 0x13 0xFF02 6).hdr, ⟨1, 0, 0⟩, ⟨1, 8192, 0⟩, 0, 8192, 2, [0, 1], [(0, [7])], stOK, false⟩,
    by decide +kernel⟩
theorem wit_fwdTimeout : ∃ (s : State) (p : Plane) (tag : BitVec 16) (id : Nat) (d : EpId) (q : Proxy), s.memOn p =
    true ∧ mget none tag.toNat (s.ep p 2).reqs = some ⟨.forward id, d⟩ ∧ mget none id (s.pl p).mem.proxies = some q
    ∧ q.what = .op ∧ (s.dstWin p 2 q.hdr.src).held = [] ∧ (s.pl p).mem.copies = [] ∧ (s.pl p).mem.waits = [] :=
  ⟨(State.modMem (State.modEp (withF [(Fld.EPC_ERR_CFG.ESC_U, 0, 0), (Fld.TOP_PG_STAT.MEM_OK, 0, 1)]) .hoist 2 (fun
    x => { x with reqs := [(7, some ⟨.forward 1, 6⟩)] })) .hoist (fun x =>
    { x with proxies := [(1, some ⟨(req 0x10 5 6).hdr, .op, req 0x10 5 6⟩)] })), .hoist, 7, 1, 6, ⟨(req 0x10 5
    6).hdr, .op, req 0x10 5 6⟩,
    by decide +kernel⟩
theorem wit_scrubTick : ∃ (s : State) (p : Plane) (u : Fin 16) (a : BitVec 40) (sub col : Byte), s.live p = true ∧
    s.flag p Fld.TOP_PG_STAT.MEM_OK 0 = true ∧ s.fld p Fld.MEM_SCRUB_CFG.SRAM_SCRUB 0 ≠ 0 ∧ a.toNat < 64 * blk ∧
    s.tileFailed p u = false :=
  ⟨(withF [(Fld.EPC_ERR_CFG.ESC_U, 0, 0), (Fld.TOP_PG_STAT.MEM_OK, 0, 1), (Fld.MEM_SCRUB_CFG.SRAM_SCRUB, 0, 1)]),
    .hoist, 3, 0, 0, 0,
    by decide +kernel⟩
theorem wit_columnRepairDone : ∃ (s : State) (p : Plane) (u : Fin 16) (sub col : Byte), s.live p = true ∧
    s.tileFailed p u = false ∧ s.fld p Fld.MEM_ECC_CFG.REPAIR_CE 0 ≠ 0 ∧ s.fld p Fld.MEM_ECC_CFG.REPAIR_CE 0 ≤ mget
    0 (colKey u sub.toNat col.toNat) (s.pl p).mem.colCe ∧ mget 0 (256 * u.val + sub.toNat) (s.pl p).mem.spares < 2
    :=
  ⟨(State.modMem (withF [(Fld.EPC_ERR_CFG.ESC_U, 0, 0), (Fld.MEM_ECC_CFG.REPAIR_CE, 0, 1)]) .hoist (fun x =>
    { x with colCe := [(colKey 3 1 2, 1)] })), .hoist, 3, 1, 2,
    by decide +kernel⟩
theorem wit_tileFail : ∃ (s : State) (p : Plane) (u : Fin 16), s.live p = true ∧ s.tileFailed p u = false :=
  ⟨(withF [(Fld.EPC_ERR_CFG.ESC_U, 0, 0)]), .hoist, 3,
    by decide +kernel⟩
theorem wit_lpDeviceFail : ∃ (s : State) (p : Plane) (m : Fin 16), s.live p = true ∧ s.flag p Fld.MEM_LP_DEV.INIT_OK
    m = true ∧ s.flag p Fld.MEM_LP_DEV.FAIL m = false :=
  ⟨(withF [(Fld.EPC_ERR_CFG.ESC_U, 0, 0), (Fld.MEM_LP_DEV.INIT_OK, 3, 1)]), .hoist, 3,
    by decide +kernel⟩
theorem wit_sramZeroDone : ∃ (s : State) (p : Plane), s.live p = true ∧ s.flag p Fld.MEM_STAT.SRAM_ZERO 0 = false :=
  ⟨(withF [(Fld.EPC_ERR_CFG.ESC_U, 0, 0)]), .hoist,
    by decide +kernel⟩
theorem wit_lpInitDone : ∃ (s : State) (p : Plane) (m : Fin 16) (bad : BitVec 8), s.live p = true ∧ (s.pl
    p).mem.lpBusy.contains m.val = true :=
  ⟨(State.modMem State.reset .hoist (fun x => { x with lpBusy := [3] })), .hoist, 3, 0,
    by decide +kernel⟩
theorem wit_lpZeroDone : ∃ (s : State) (p : Plane), s.live p = true ∧ s.flag p Fld.MEM_STAT.LP_OK 0 = true ∧ s.flag
    p Fld.MEM_STAT.LP_ZERO 0 = false :=
  ⟨(withF [(Fld.EPC_ERR_CFG.ESC_U, 0, 0), (Fld.MEM_STAT.LP_OK, 0, 1)]), .hoist,
    by decide +kernel⟩
theorem wit_pprStart : ∃ (s : State) (p : Plane) (m : Fin 16), s.live p = true ∧ s.flag p Fld.MEM_LP_DEV.INIT_OK m =
    false :=
  ⟨(withF [(Fld.EPC_ERR_CFG.ESC_U, 0, 0)]), .hoist, 3,
    by decide +kernel⟩
theorem wit_extest : ∃ (s : State), s.pkg.resetN = false :=
  ⟨(State.modPkg State.reset (fun x => { x with resetN := false })),
    by decide +kernel⟩
theorem wit_extest_bypass : ∃ (s : State), s.pkg.resetN = true :=
  ⟨(State.modPkg State.reset (fun x => { x with resetN := true })),
    by decide +kernel⟩
theorem wit_extestPulse : ∃ (s : State), s.pkg.resetN = false :=
  ⟨(State.modPkg State.reset (fun x => { x with resetN := false })),
    by decide +kernel⟩
theorem wit_extestPulse_bypass : ∃ (s : State), s.pkg.resetN = true :=
  ⟨(State.modPkg State.reset (fun x => { x with resetN := true })),
    by decide +kernel⟩
theorem wit_extestTrain : ∃ (s : State), s.pkg.resetN = false :=
  ⟨(State.modPkg State.reset (fun x => { x with resetN := false })),
    by decide +kernel⟩
theorem wit_extestTrain_bypass : ∃ (s : State), s.pkg.resetN = true :=
  ⟨(State.modPkg State.reset (fun x => { x with resetN := true })),
    by decide +kernel⟩
theorem wit_frzStatus : ∃ (s : State), (s.hoist.epc.frozen || s.fly.epc.frozen) = true :=
  ⟨(State.modEpc State.reset .hoist (fun x => { x with frozen := true })),
    by decide +kernel⟩
theorem wit_frzDir : ∃ (s : State), (s.hoist.epc.frozen || s.fly.epc.frozen) = true :=
  ⟨(State.modEpc State.reset .hoist (fun x => { x with frozen := true })),
    by decide +kernel⟩
theorem wit_frzChain : ∃ (s : State) (sel : BitVec 17), (s.hoist.epc.frozen || s.fly.epc.frozen) = true :=
  ⟨(State.modEpc State.reset .hoist (fun x => { x with frozen := true })), 1,
    by decide +kernel⟩
theorem wit_frzMem : ∃ (s : State) (sel : BitVec 64) (n : Nat), (s.hoist.epc.frozen || s.fly.epc.frozen) = true ∧ 2
    ≤ bits 62 56 sel.toNat ∧ bits 62 56 sel.toNat ≤ 17 ∧ s.tileRegion (if bit 63 sel.toNat then .fly else .hoist)
    (bits 62 56 sel.toNat - 2) (4 * bits 37 0 sel.toNat) = (3, n) :=
  ⟨(State.modEpc State.reset .hoist (fun x => { x with frozen := true })), (BitVec.ofNat 64 (2 ^ 57 + 25 *
    1048576)), 0,
    by decide +kernel⟩
theorem wit_frzReg : ∃ (s : State) (addr : BitVec 27), (s.hoist.epc.frozen || s.fly.epc.frozen) = true :=
  ⟨(State.modEpc State.reset .hoist (fun x => { x with frozen := true })), 4,
    by decide +kernel⟩
theorem wit_powerTransition : ∃ (s : State) (p : Plane), s.mgr = some p ∧ s.pkg.fwRan = true ∧ s.pkg.moving = none ∧
    s.epoOn = false ∧ s.pkg.epoHold = false ∧ s.hoist.epc.frozen = false ∧ s.fly.epc.frozen = false ∧ 0 < s.power ∧
    s.power < s.target p :=
  ⟨(State.modPkg (State.modCan (withF [(Fld.EPC_ERR_CFG.ESC_U, 0, 0), (Fld.CAN_PWR_STATE.STATE, 0, 1),
    (Fld.CAN_PWR_STATE.RM_LIMIT, 0, 3), (Fld.CAN_PWR_STATE.HOST_REQ, 0, 3)]) .hoist (fun x =>
    { x with role := .active })) (fun x => { x with fwRan := true })), .hoist,
    by decide +kernel⟩
theorem wit_powerState : ∃ (s : State), s.pkg.epoHold = false ∧ s.live .hoist = true ∧ s.live .fly = true ∧
    s.pkg.moving = some 3 ∧ s.pkg.off = false :=
  ⟨(State.modPkg State.reset (fun x => { x with moving := some 3 })),
    by decide +kernel⟩
theorem wit_powerStateOff : ∃ (s : State), s.pkg.epoHold = false ∧ s.live .hoist = true ∧ s.live .fly = true ∧
    s.pkg.moving = some 0 ∧ s.pkg.off = false :=
  ⟨(State.modPkg State.reset (fun x => { x with moving := some 0 })),
    by decide +kernel⟩
theorem wit_pwrgdLoss : ∃ (s : State), s.pkg.pwrgd = true :=
  ⟨(State.modPkg State.reset (fun x => { x with resetN := true })),
    by decide +kernel⟩
theorem wit_pwrgdAssert : ∃ (s : State), s.pkg.off = true ∧ s.pkg.resetN = true ∧ s.rmLimit .hoist ≠ 0 ∧ s.epoOn =
    false :=
  ⟨(State.modPkg (withF [(Fld.EPC_ERR_CFG.ESC_U, 0, 0), (Fld.CAN_PWR_STATE.RM_LIMIT, 0, 3)]) (fun x =>
    { x with off := true, resetN := true })),
    by decide +kernel⟩
theorem wit_hostReqWrite : ∃ (s : State) (p : Plane) (v : Word), s.live p = true ∧ s.noOrders = false :=
  ⟨(withF [(Fld.EPC_ERR_CFG.ESC_U, 0, 0)]), .hoist, 0,
    by decide +kernel⟩
theorem wit_resetDeassert : ∃ (s : State) (straps : BitVec 7), s.pkg.resetN = false :=
  ⟨(State.modPkg State.reset (fun x => { x with resetN := false })), 5,
    by decide +kernel⟩
theorem wit_epoAssert : ∃ (s : State) (src : EpoSource), s.epoOn = false :=
  ⟨(withF [(Fld.EPC_ERR_CFG.ESC_U, 0, 0)]), .pin,
    by decide +kernel⟩
theorem wit_epoRelease : ∃ (s : State), s.epoOn = true :=
  ⟨(State.modPkg State.reset (fun x => { x with epoPin := true })),
    by decide +kernel⟩
theorem wit_thermalTrip : ∃ (s : State) (p : Plane) (k : Fin 41), s.flag p Fld.CAN_PWR_STATE.TRIP 0 = false ∧ 11000
    ≤ toInt 24 (s.fld p Fld.CAN_SENSOR.VALUE k) :=
  ⟨(withF [(Fld.EPC_ERR_CFG.ESC_U, 0, 0), (Fld.CAN_SENSOR.VALUE, 0, 11000)]), .hoist, 0,
    by decide +kernel⟩
theorem wit_leakMeasure : ∃ (s : State) (n : Fin 4) (r : Nat), (mget {} n.val s.pkg.loops).cand = 1 ∧ (mget {} n.val
    s.pkg.loops).agree = 2 ∧ r < 8000 ∧ bits (2 * n.val + 1) (2 * n.val) (s.fld .hoist Fld.CAN_LEAK.STATE 0) ≠ 1 :=
  ⟨(State.modPkg State.reset (fun x => { x with loops := [(0, { cand := 1, agree := 2 })] })), 0, 5000,
    by decide +kernel⟩
theorem wit_leakPowerOff : ∃ (s : State) (n : Fin 4), (mget {} n.val s.pkg.loops).wetAt.isSome = true ∧ s.fld .hoist
    Fld.CAN_LEAK.LEAK_OFF_S 0 ≠ 255 :=
  ⟨(State.modPkg (withF [(Fld.EPC_ERR_CFG.ESC_U, 0, 0), (Fld.CAN_LEAK.LEAK_OFF_S, 0, 5)]) (fun x =>
    { x with loops := [(0, { wetAt := some 1 })] })), 0,
    by decide +kernel⟩
theorem wit_avsSet : ∃ (s : State) (a b : Int), s.managed = true ∧ s.pkg.pwrgd = true ∧ s.pkg.off = false ∧
    s.hottest .hoist = some a ∧ 3500 ≤ a ∧ s.hottest .fly = some b ∧ 3500 ≤ b :=
  ⟨((State.setF (State.modCan (withF [(Fld.EPC_ERR_CFG.ESC_U, 0, 0), (Fld.CAN_SENSOR.FITTED, 0, 1),
    (Fld.CAN_SENSOR.VALUE, 0, 4000)]) .hoist (fun x => { x with role := .active })) .fly Fld.CAN_SENSOR.FITTED 0
    1).setF .fly Fld.CAN_SENSOR.VALUE 0 4000), 4000, 4000,
    by decide +kernel⟩
theorem wit_corePllLock : ∃ (s : State), s.live .hoist = true ∧ s.live .fly = true ∧ s.pkg.freezeN = false :=
  ⟨State.reset,
    by decide +kernel⟩
theorem wit_selfTestDone : ∃ (s : State) (p : Plane) (pg : BitVec 18) (chip : BitVec 9) (tile : BitVec 16) (elem :
    BitVec 24) (hal : Bool), s.runs p = true ∧ s.flag p Fld.TOP_CLK_STAT.CORE_LOCK 0 = true ∧ (s.pl p).epc.tested =
    false ∧ 18 ≤ popcount 24 elem.toNat ∧ s.pkg.fwRan = false ∧ s.halUp p.other = false :=
  ⟨(withF [(Fld.EPC_ERR_CFG.ESC_U, 0, 0), (Fld.TOP_CLK_STAT.CORE_LOCK, 0, 1)]), .hoist, 0x3FFFF, 0x1FF, 0xFFFF,
    0xFFFFFF, true,
    by decide +kernel⟩
theorem wit_sensorPoll : ∃ (s : State) (p : Plane) (k : Fin 119) (v : BitVec 24) (r : Sample), s.pkg.resetN = true ∧
    16 ≤ k.val ∧ k.val ≤ 40 ∧ r.a = some v ∧ r.oorA = false :=
  ⟨State.reset, .hoist, 20, 5000, ⟨some 5000, none, false, false, false, false⟩,
    by decide +kernel⟩
theorem wit_thermCapStep : ∃ (s : State) (p : Plane), s.mgr = some p ∧ s.pkg.sensHost = false ∧ s.anyWarn = false ∧
    s.fld p Fld.CAN_CAP_THERM.CAP 0 ≠ 0 :=
  ⟨(State.modCan (withF [(Fld.EPC_ERR_CFG.ESC_U, 0, 0), (Fld.CAN_CAP_THERM.CAP, 0, 1000)]) .hoist (fun x =>
    { x with role := .active })), .hoist,
    by decide +kernel⟩
theorem wit_throttleStep : ∃ (s : State) (p : Plane), s.live p = true ∧ s.lastFour p ≠ [] ∧ s.overCap p = true :=
  ⟨(State.modCan (withF [(Fld.EPC_ERR_CFG.ESC_U, 0, 0), (Fld.CAN_THR_CFG.SHARE, 0, 128)]) .hoist (fun x =>
    { x with pw := [(0, 3000)] })), .hoist,
    by decide +kernel⟩
theorem wit_shareUpdate : ∃ (s : State) (p : Plane) (a b : BitVec 16), s.mgr = some p ∧ s.pkg.split = false ∧ 0 <
    a.toNat + b.toNat :=
  ⟨(State.modCan (withF [(Fld.EPC_ERR_CFG.ESC_U, 0, 0)]) .hoist (fun x => { x with role := .active })), .hoist, 3,
    5,
    by decide +kernel⟩
theorem wit_capUnmeet : ∃ (s : State) (p : Plane), s.live p = true ∧ s.effCap p < s.floor p :=
  ⟨(withF [(Fld.EPC_ERR_CFG.ESC_U, 0, 0), (Fld.CAN_PWR_STAT.FLOOR, 0, 200), (Fld.CAN_CAP_HOST.CAP, 0, 100)]),
    .hoist,
    by decide +kernel⟩
theorem wit_capHostWrite : ∃ (s : State) (p : Plane) (v : Word), s.live p = true ∧ s.noOrders = false :=
  ⟨(withF [(Fld.EPC_ERR_CFG.ESC_U, 0, 0)]), .hoist, 500,
    by decide +kernel⟩
theorem wit_registerWrite : ∃ (s : State) (addr : BitVec 27) (v : Word) (i : Nat), s.live (planeAt addr.toNat) =
    true ∧ regAt (addr.toNat % 0x4000000) = some (.LNE_WIRE_FAB, i, 0) ∧ i < 576 :=
  ⟨(withF [(Fld.EPC_ERR_CFG.ESC_U, 0, 0)]), (BitVec.ofNat 27 (Reg.off .LNE_WIRE_FAB 3 0)), 7, 3,
    by decide +kernel⟩
theorem wit_registerWrite_staged : ∃ (s : State) (addr : BitVec 27) (v : Word), s.live (planeAt addr.toNat) = true ∧
    regAt (addr.toNat % 0x4000000) = some (.LFP_GLB_CFG, 0, 0) ∧ s.flag (planeAt addr.toNat)
    Fld.EPC_COMMIT_STAT.BUSY 0 = false :=
  ⟨(withF [(Fld.EPC_ERR_CFG.ESC_U, 0, 0)]), (BitVec.ofNat 27 (Reg.off .LFP_GLB_CFG 0 0)), 0x1234,
    by decide +kernel⟩
theorem wit_registerWrite_busy : ∃ (s : State) (addr : BitVec 27) (v : Word), s.live (planeAt addr.toNat) = true ∧
    regAt (addr.toNat % 0x4000000) = some (.LFP_GLB_CFG, 0, 0) ∧ s.flag (planeAt addr.toNat)
    Fld.EPC_COMMIT_STAT.BUSY 0 = true ∧ bits 12 8 v.toNat ≠ s.staged (planeAt addr.toNat) Fld.LFP_GLB_CFG.HOP_LIMIT
    0 :=
  ⟨(withF [(Fld.EPC_ERR_CFG.ESC_U, 0, 0), (Fld.EPC_COMMIT_STAT.BUSY, 0, 1)]), (BitVec.ofNat 27 (Reg.off .LFP_GLB_CFG
    0 0)), 0x1F00,
    by decide +kernel⟩
theorem wit_registerWrite_ro : ∃ (s : State) (addr : BitVec 27) (v : Word), s.live (planeAt addr.toNat) = true ∧
    regAt (addr.toNat % 0x4000000) = some (.TOP_CHIP_ID, 0, 0) :=
  ⟨(withF [(Fld.EPC_ERR_CFG.ESC_U, 0, 0)]), (BitVec.ofNat 27 (Reg.off .TOP_CHIP_ID 0 0)), 5,
    by decide +kernel⟩
theorem wit_registerWrite_rc : ∃ (s : State) (addr : BitVec 27) (v : Word), s.live (planeAt addr.toNat) = true ∧
    regAt (addr.toNat % 0x4000000) = some (.LFP_AGE_DISC, 0, 0) :=
  ⟨(withF [(Fld.EPC_ERR_CFG.ESC_U, 0, 0)]), (BitVec.ofNat 27 (Reg.off .LFP_AGE_DISC 0 0)), 5,
    by decide +kernel⟩
theorem wit_commit : ∃ (s : State) (p : Plane), s.live p = true ∧ s.commitSame p = false ∧ s.commitBusy (s.involved
    p) = false :=
  ⟨(withF [(Fld.EPC_ERR_CFG.ESC_U, 0, 0)]), .hoist,
    by decide +kernel⟩
theorem wit_commit_rej : ∃ (s : State) (p : Plane), s.live p = true ∧ s.commitSame p = false ∧ s.commitBusy
    (s.involved p) = true :=
  ⟨(withF [(Fld.EPC_ERR_CFG.ESC_U, 0, 0), (Fld.EPC_COMMIT_STAT.BUSY, 0, 1)]), .hoist,
    by decide +kernel⟩
theorem wit_commitDecision : ∃ (s : State) (c : Commit), s.undecided = some c ∧ firstFail (c.planes.flatMap
    (planeFails s (s.each c.planes (fun q s => s.commitPlane q)))) = none :=
  ⟨(State.modPkg (withF [(Fld.EPC_ERR_CFG.ESC_U, 0, 0)]) (fun x =>
    { x with commits := [⟨.hoist, false, none, 0⟩] })), ⟨.hoist, false, none, 0⟩,
    by decide +kernel⟩
theorem wit_commitDecision_fail : ∃ (s : State) (c : Commit) (e : Nat × Nat), s.undecided = some c ∧ firstFail
    (c.planes.flatMap (planeFails s (s.each c.planes (fun q s => s.commitPlane q)))) = some e :=
  ⟨(State.modPkg (withF [(Fld.EPC_ERR_CFG.ESC_U, 0, 0), (Fld.RTE_ALIAS.VALID, 0, 1), (Fld.RTE_ALIAS.ID, 0, 0xFF10)])
    (fun x => { x with commits := [⟨.hoist, false, none, 0⟩] })), ⟨.hoist, false, none, 0⟩, (3, 0x4000000 * 0 +
    Reg.off .RTE_ALIAS 0 0),
    by decide +kernel⟩
theorem wit_commitInstant : ∃ (s : State) (c : Commit), s.decided = some c :=
  ⟨(State.modPkg (withF [(Fld.EPC_ERR_CFG.ESC_U, 0, 0)]) (fun x =>
    { x with commits := [⟨.hoist, false, some 5, 0⟩] })), ⟨.hoist, false, some 5, 0⟩,
    by decide +kernel⟩
theorem wit_discard : ∃ (s : State) (p : Plane), s.live p = true ∧ s.commitBusy (s.involved p) = false :=
  ⟨(withF [(Fld.EPC_ERR_CFG.ESC_U, 0, 0)]), .hoist,
    by decide +kernel⟩
theorem wit_cfgMeasDone : ∃ (s : State) (p : Plane), s.mgr = some p :=
  ⟨(State.modCan (withF [(Fld.EPC_ERR_CFG.ESC_U, 0, 0)]) .hoist (fun x => { x with role := .active })), .hoist,
    by decide +kernel⟩
theorem wit_logRpWrite : ∃ (s : State) (p : Plane) (v : Word), s.live p = true ∧ (s.word p .EPC_LOG_WP 0 0 -
    v).toNat ≤ 256 :=
  ⟨(withF [(Fld.EPC_ERR_CFG.ESC_U, 0, 0)]), .hoist, 0,
    by decide +kernel⟩
theorem wit_configEccError : ∃ (s : State) (p : Plane) (off : BitVec 26) (r : Reg) (i w : Nat), s.live p = true ∧
    regAt off.toNat = some (r, i, w) ∧ (r.fieldsOf w).any (fun f => f.acc == .rw) = true ∧ (r = .RTE_ENTRY ∨ r =
    .RTE_SET ∨ r = .GWM_WIN) :=
  ⟨(withF [(Fld.EPC_ERR_CFG.ESC_U, 0, 0)]), .hoist, (BitVec.ofNat 26 (Reg.off .RTE_ENTRY 3 0)), .RTE_ENTRY, 3, 0,
    by decide +kernel⟩
theorem wit_glDetectSense : ∃ (s : State) (p : Plane) (mask : Byte), s.glOn p = true ∧ s.glStage p = 1 :=
  ⟨(State.modHalf (withF [(Fld.EPC_ERR_CFG.ESC_U, 0, 0), (Fld.HIF_LINK_CFG.EN, 0, 1), (Fld.HIF_LINK_STAT.STAGE, 0,
    1)]) .hoist (fun x => { x with sensed := 255 })), .hoist, 15,
    by decide +kernel⟩
theorem wit_glStageTimeout : ∃ (s : State) (p : Plane), s.glOn p = true ∧ 2 ≤ s.glStage p ∧ s.glStage p ≤ 4 ∧
    s.hostRecovery p = false ∧ (s.half p).retries + 1 < max 1 (s.fld p Fld.HIF_LINK_CFG.RETRY_MAX 0) :=
  ⟨(withF [(Fld.EPC_ERR_CFG.ESC_U, 0, 0), (Fld.HIF_LINK_CFG.EN, 0, 1), (Fld.HIF_LINK_STAT.STAGE, 0, 2),
    (Fld.HIF_LINK_CFG.RETRY_MAX, 0, 3)]), .hoist,
    by decide +kernel⟩
theorem wit_glStageTimeout_failed : ∃ (s : State) (p : Plane), s.glOn p = true ∧ 2 ≤ s.glStage p ∧ s.glStage p ≤ 4 ∧
    max 1 (s.fld p Fld.HIF_LINK_CFG.RETRY_MAX 0) ≤ (s.half p).retries + 1 :=
  ⟨(State.modHalf (withF [(Fld.EPC_ERR_CFG.ESC_U, 0, 0), (Fld.HIF_LINK_CFG.EN, 0, 1), (Fld.HIF_LINK_STAT.STAGE, 0,
    3), (Fld.HIF_LINK_CFG.RETRY_MAX, 0, 3)]) .hoist (fun x => { x with retries := 2 })), .hoist,
    by decide +kernel⟩
theorem wit_glInitFlit : ∃ (s : State) (p : Plane) (f : GlFlit), s.glOn p = true ∧ s.glStage p = 3 ∧ f.crcOk = true
    :=
  ⟨(withF [(Fld.EPC_ERR_CFG.ESC_U, 0, 0), (Fld.HIF_LINK_CFG.EN, 0, 1), (Fld.HIF_LINK_STAT.STAGE, 0, 3)]), .hoist,
    { msgs := [], txSeq := 0, kind := 0, ackSeq := 0, nak := false, crReq := 3, crSnp := 0, crMmio := 0, crcOk := true },
    by decide +kernel⟩
theorem wit_glInitFlit_up : ∃ (s : State) (p : Plane) (f : GlFlit) (i : GlMsg) (l : List GlMsg), s.glOn p = true ∧
    s.glStage p = 4 ∧ f.crcOk = true ∧ f.kind = 1 ∧ f.msgs = i :: l ∧ i.code = 0x47 ∧ i.status = 0x4C ∧ i.mtag.toNat
    / 256 = 1 ∧ 7 ≤ (s.half p).initRx ∧ 7 ≤ (s.half p).initTx :=
  ⟨(State.modHalf (withF [(Fld.EPC_ERR_CFG.ESC_U, 0, 0), (Fld.HIF_LINK_CFG.EN, 0, 1), (Fld.HIF_LINK_STAT.STAGE, 0,
    4)]) .hoist (fun x => { x with initRx := 7, initTx := 7 })), .hoist,
    { msgs := [⟨0x47, 0x4C, 256, 0, 0, []⟩], txSeq := 0, kind := 1, ackSeq := 0, nak := false, crReq := 3, crSnp := 0, crMmio := 0, crcOk := true },
    ⟨0x47, 0x4C, 256, 0, 0, []⟩, [],
    by decide +kernel⟩
theorem wit_glLaneFail : ∃ (s : State) (p : Plane) (lane : Fin 8), s.glOn p = true ∧ s.glStage p = 5 ∧ bit lane
    (s.half p).act = true ∧ glSet ((s.half p).det - Nat.land (s.half p).det (Nat.lor (s.half p).failed (2 ^
    lane.val))) ≠ 0 :=
  ⟨(State.modHalf (withF [(Fld.EPC_ERR_CFG.ESC_U, 0, 0), (Fld.HIF_LINK_CFG.EN, 0, 1), (Fld.HIF_LINK_STAT.STAGE, 0,
    5)]) .hoist (fun x => { x with det := 255, act := 255 })), .hoist, 6,
    by decide +kernel⟩
theorem wit_glHalfDown : ∃ (s : State) (p : Plane), s.glOn p = true ∧ s.glStage p = 5 :=
  ⟨(withF [(Fld.EPC_ERR_CFG.ESC_U, 0, 0), (Fld.HIF_LINK_CFG.EN, 0, 1), (Fld.HIF_LINK_STAT.STAGE, 0, 5)]), .hoist,
    by decide +kernel⟩
theorem wit_glRetrain : ∃ (s : State) (p : Plane), s.live p = true ∧ s.flag p Fld.HIF_LINK_CFG.EN 0 = true ∧
    s.glStage p ≠ 5 :=
  ⟨(withF [(Fld.EPC_ERR_CFG.ESC_U, 0, 0), (Fld.HIF_LINK_CFG.EN, 0, 1), (Fld.HIF_LINK_STAT.STAGE, 0, 6)]), .hoist,
    by decide +kernel⟩
theorem wit_glFlit : ∃ (s : State) (p : Plane) (f : GlFlit), s.glOn p = true ∧ s.glStage p = 5 ∧ f.crcOk = true ∧
    f.kind = 2 ∧ f.nak = false ∧ f.txSeq = (s.half p).rxSeq + 1 ∧ (s.half p).txq = [] ∧ (∀ q, (s.pl q).hif.waiting =
    [] ∧ (s.pl q).hif.ending = none) :=
  ⟨(withF [(Fld.EPC_ERR_CFG.ESC_U, 0, 0), (Fld.HIF_LINK_CFG.EN, 0, 1), (Fld.HIF_LINK_STAT.STAGE, 0, 5)]), .hoist,
    { msgs := [], txSeq := 0, kind := 2, ackSeq := 0, nak := false, crReq := 3, crSnp := 0, crMmio := 0, crcOk := true },
    by refine ⟨by decide +kernel, by decide +kernel, rfl, rfl, rfl, by decide +kernel, rfl, fun q => by cases q <;> exact ⟨rfl, rfl⟩⟩⟩
theorem wit_glFlit_crc : ∃ (s : State) (p : Plane) (f : GlFlit), s.glOn p = true ∧ s.glStage p = 5 ∧ f.crcOk = false
    :=
  ⟨(withF [(Fld.EPC_ERR_CFG.ESC_U, 0, 0), (Fld.HIF_LINK_CFG.EN, 0, 1), (Fld.HIF_LINK_STAT.STAGE, 0, 5)]), .hoist,
    { msgs := [], txSeq := 0, kind := 2, ackSeq := 0, nak := false, crReq := 3, crSnp := 0, crMmio := 0, crcOk := false },
    by decide +kernel⟩
theorem wit_glData : ∃ (s : State) (p : Plane) (m : GlMsg) (q : Plane) (r : GlReq) (i : Word), s.glOn p = true ∧
    s.glStage p = 5 ∧ s.answering p m.mtag = some (q, r) ∧ r.what = .descr i ∧ m.status = 0 ∧ m.line ≠ [] ∧ s.ringOn
    q 0 = true ∧ (∀ f ∈ (s.pl q).hif.fetched, f.2 ≠ []) ∧ (∀ o, (s.pl o).hif.ending = none) :=
  ⟨(State.modHif (withF [(Fld.EPC_ERR_CFG.ESC_U, 0, 0), (Fld.HIF_LINK_CFG.EN, 0, 1), (Fld.HIF_LINK_STAT.STAGE, 0,
    5), (Fld.HIF_CTL.EN, 0, 1)]) .hoist (fun x => { x with outst := [⟨⟨1, 0, 5, 0, 0, []⟩, .descr 2, .hoist⟩] })),
    .hoist, ⟨0x10, 0, 5, 0, 0, [1, 2, 3]⟩, .hoist, ⟨⟨1, 0, 5, 0, 0, []⟩, .descr 2, .hoist⟩, 2,
    by refine ⟨by decide +kernel, by decide +kernel, by decide +kernel, by decide +kernel, by decide +kernel, by decide +kernel, by decide +kernel, by decide +kernel, fun q => by cases q <;> rfl⟩⟩
theorem wit_glCmp : ∃ (s : State) (p : Plane) (m : GlMsg) (q : Plane) (r : GlReq) (k : Nat) (i : Word) (l : Nat),
    s.glOn p = true ∧ s.glStage p = 5 ∧ s.answering p m.mtag = some (q, r) ∧ r.what = .entry k i l ∧ m.status = 0 ∧
    (s.answered q r).entryOut q k = false ∧ (∀ o, (s.pl o).hif.ending = none) :=
  ⟨(State.modHif (withF [(Fld.EPC_ERR_CFG.ESC_U, 0, 0), (Fld.HIF_LINK_CFG.EN, 0, 1), (Fld.HIF_LINK_STAT.STAGE, 0,
    5), (Fld.HIF_CTL.EN, 0, 2)]) .hoist (fun x =>
    { x with outst := [⟨⟨3, 0, 5, 0, 0, []⟩, .entry 1 4 0, .hoist⟩] })), .hoist, ⟨0x11, 0, 5, 0, 0, []⟩, .hoist,
    ⟨⟨3, 0, 5, 0, 0, []⟩, .entry 1 4 0, .hoist⟩, 1, 4, 0,
    by refine ⟨by decide +kernel, by decide +kernel, by decide +kernel, by decide +kernel, by decide +kernel, by decide +kernel, fun q => by cases q <;> rfl⟩⟩
theorem wit_snpInv : ∃ (s : State) (p : Plane) (m : GlMsg), s.glOn p = true ∧ s.glStage p = 5 ∧ s.glRoom p = true ∧
    s.cmdUsed p = true ∧ s.ciUsed p = false ∧ s.cmdUsed p.other = false ∧ s.ciUsed p.other = false ∧ s.lineAddr p
    .HIF_DB_ADDR = m.addr.toNat / 64 * 64 :=
  ⟨(withF [(Fld.EPC_ERR_CFG.ESC_U, 0, 0), (Fld.HIF_LINK_CFG.EN, 0, 1), (Fld.HIF_LINK_STAT.STAGE, 0, 5),
    (Fld.HIF_CTL.EN, 0, 1)]), .hoist, ⟨0x05, 0, 9, 0, 0, []⟩,
    by decide +kernel⟩
theorem wit_mmioRd : ∃ (s : State) (p : Plane) (m : GlMsg) (r : Reg) (i w : Nat), s.glOn p = true ∧ s.glStage p = 5
    ∧ s.glRoom p = true ∧ m.addr.toNat < 0x8000000 ∧ m.addr.toNat % 4 = 0 ∧ s.mmioReach p (planeAt m.addr.toNat) =
    true ∧ regAt (m.addr.toNat % 0x4000000) = some (r, i, w) ∧ (∀ g, r.wideAt w = some g → w = g.1) :=
  ⟨(withF [(Fld.EPC_ERR_CFG.ESC_U, 0, 0), (Fld.HIF_LINK_CFG.EN, 0, 1), (Fld.HIF_LINK_STAT.STAGE, 0, 5)]), .hoist,
    ⟨0x08, 0, 9, 0, BitVec.ofNat 64 (Reg.off .TOP_CHIP_ID 0 0), []⟩, .TOP_CHIP_ID, 0, 0,
    by refine ⟨by decide +kernel, by decide +kernel, by decide +kernel, by decide +kernel, by decide +kernel, by decide +kernel, by decide +kernel, fun g h => by cases h⟩⟩
theorem wit_mmioWr : ∃ (s : State) (p : Plane) (m : GlMsg) (i : Nat), s.glOn p = true ∧ s.glStage p = 5 ∧ s.glRoom p
    = true ∧ m.addr.toNat < 0x8000000 ∧ m.addr.toNat % 4 = 0 ∧ s.mmioReach p (planeAt m.addr.toNat) = true ∧ regAt
    (m.addr.toNat % 0x4000000) = some (.LNE_WIRE_FAB, i, 0) ∧ i < 576 :=
  ⟨(withF [(Fld.EPC_ERR_CFG.ESC_U, 0, 0), (Fld.HIF_LINK_CFG.EN, 0, 1), (Fld.HIF_LINK_STAT.STAGE, 0, 5)]), .hoist,
    ⟨0x08, 0, 9, 0, BitVec.ofNat 64 (Reg.off .LNE_WIRE_FAB 3 0), []⟩, 3,
    by decide +kernel⟩
theorem wit_nop : ∃ (s : State) (p : Plane) (h : CmdHead), s.cmdMay p 0 h [] = true ∧ (∀ f ∈ (s.pl p).hif.fetched,
    f.2 ≠ []) :=
  ⟨(State.modHif (withF [(Fld.EPC_ERR_CFG.ESC_U, 0, 0), (Fld.HIF_CTL.EN, 0, 3), (Fld.HIF_RING_CFG.SIZE, 1, 3)])
    .hoist (fun x => { x with fetched := [(0, [0, 0, 7, 0, 0, 0, 0, 0] ++ [])] })), .hoist, ⟨false, 7⟩,
    by decide +kernel⟩
theorem wit_badOp : ∃ (s : State) (p : Plane) (h : CmdHead) (op : Byte), s.cmdMay p op.toNat h [] = true ∧ (∀ f ∈
    (s.pl p).hif.fetched, f.2 ≠ []) :=
  ⟨(State.modHif (withF [(Fld.EPC_ERR_CFG.ESC_U, 0, 0), (Fld.HIF_CTL.EN, 0, 3), (Fld.HIF_RING_CFG.SIZE, 1, 3)])
    .hoist (fun x => { x with fetched := [(0, [9, 0, 7, 0, 0, 0, 0, 0] ++ [])] })), .hoist, ⟨false, 7⟩, 9,
    by decide +kernel⟩
theorem wit_regWr : ∃ (s : State) (p : Plane) (h : CmdHead) (off v : Word) (i : Nat), s.cmdMay p 1 h (leBytes 4
    off.toNat ++ leBytes 4 v.toNat) = true ∧ (∀ f ∈ (s.pl p).hif.fetched, f.2 ≠ []) ∧ regAt off.toNat = some
    (.LNE_WIRE_FAB, i, 0) ∧ i < 576 ∧ rangeOk off.toNat 1 = true :=
  ⟨(State.modHif (withF [(Fld.EPC_ERR_CFG.ESC_U, 0, 0), (Fld.HIF_CTL.EN, 0, 3), (Fld.HIF_RING_CFG.SIZE, 1, 3)])
    .hoist (fun x =>
    { x with fetched := [(0, [1, 0, 7, 0, 0, 0, 0, 0] ++ (leBytes 4 (Reg.off .LNE_WIRE_FAB 3 0) ++ leBytes 4 9))] })),
    .hoist, ⟨false, 7⟩, (BitVec.ofNat 32 (Reg.off .LNE_WIRE_FAB 3 0)), 9, 3,
    by decide +kernel⟩
theorem wit_regRd : ∃ (s : State) (p : Plane) (h : CmdHead) (off words : Word) (haddr : BitVec 64), s.cmdMay p 2 h
    (leBytes 4 off.toNat ++ leBytes 4 words.toNat ++ leBytes 8 haddr.toNat) = true ∧ 1 ≤ words.toNat ∧ words.toNat ≤
    65536 ∧ haddr.toNat % 64 = 0 ∧ rangeOk off.toNat words.toNat = true :=
  ⟨(State.modHif (withF [(Fld.EPC_ERR_CFG.ESC_U, 0, 0), (Fld.HIF_CTL.EN, 0, 3), (Fld.HIF_RING_CFG.SIZE, 1, 3)])
    .hoist (fun x =>
    { x with fetched := [(0, [2, 0, 7, 0, 0, 0, 0, 0] ++ (leBytes 4 16 ++ leBytes 4 2 ++ leBytes 8 64))] })),
    .hoist, ⟨false, 7⟩, 16, 2, 64,
    by decide +kernel⟩
theorem wit_bulkWr : ∃ (s : State) (p : Plane) (h : CmdHead) (off words : Word) (haddr : BitVec 64) (data : List
    Word), s.cmdMay p 3 h (leBytes 4 off.toNat ++ leBytes 4 words.toNat ++ leBytes 8 haddr.toNat) = true ∧ 1 ≤
    words.toNat ∧ words.toNat ≤ 65536 ∧ haddr.toNat % 64 = 0 ∧ rangeOk off.toNat words.toNat = true ∧ data.length =
    words.toNat :=
  ⟨(State.modHif (withF [(Fld.EPC_ERR_CFG.ESC_U, 0, 0), (Fld.HIF_CTL.EN, 0, 3), (Fld.HIF_RING_CFG.SIZE, 1, 3)])
    .hoist (fun x =>
    { x with fetched := [(0, [3, 0, 7, 0, 0, 0, 0, 0] ++ (leBytes 4 16 ++ leBytes 4 2 ++ leBytes 8 64))] })),
    .hoist, ⟨false, 7⟩, 16, 2, 64, [1, 2],
    by decide +kernel⟩
theorem wit_modeSet : ∃ (s : State) (p : Plane) (h : CmdHead) (func mode : Byte), s.cmdMay p 4 h [func, mode] = true
    ∧ (∀ f ∈ (s.pl p).hif.fetched, f.2 ≠ []) ∧ func.toNat ≤ 6 ∧ mode.toNat ≤ 1 :=
  ⟨(State.modHif (withF [(Fld.EPC_ERR_CFG.ESC_U, 0, 0), (Fld.HIF_CTL.EN, 0, 3), (Fld.HIF_RING_CFG.SIZE, 1, 3)])
    .hoist (fun x => { x with fetched := [(0, [4, 0, 7, 0, 0, 0, 0, 0] ++ [3, 1])] })), .hoist, ⟨false, 7⟩, 3, 1,
    by decide +kernel⟩
theorem wit_cwndSet : ∃ (s : State) (p : Plane) (h : CmdHead) (dst : EpId) (cwnd : BitVec 16), s.cmdMay p 5 h
    (leBytes 2 dst.toNat ++ leBytes 2 cwnd.toNat) = true ∧ (∀ f ∈ (s.pl p).hif.fetched, f.2 ≠ []) ∧ s.hostCc p =
    true ∧ 1 ≤ cwnd.toNat ∧ cwnd.toNat ≤ 512 ∧ (∀ k, k < 3 → (s.srcWin p k dst).waiting = []) ∧ (s.pl p).col.grps =
    [] ∧ (s.pl p).dsp.lyrs = [] ∧ s.cwndKeys p dst = [0, 1, 2] :=
  ⟨(State.modHif (withF [(Fld.EPC_ERR_CFG.ESC_U, 0, 0), (Fld.HIF_CTL.EN, 0, 3), (Fld.HIF_RING_CFG.SIZE, 1, 3),
    (Fld.HIF_FUNC_MODE.MODE, 0, 4)]) .hoist (fun x =>
    { x with fetched := [(0, [5, 0, 7, 0, 0, 0, 0, 0] ++ (leBytes 2 6 ++ leBytes 2 9))] })), .hoist, ⟨false, 7⟩, 6,
    9,
    by decide +kernel⟩
theorem wit_adapt : ∃ (s : State) (p : Plane) (h : CmdHead) (lane : BitVec 16) (a b ctl : Byte) (l : Fin 576),
    s.cmdMay p 6 h (leBytes 2 lane.toNat ++ [a, b, ctl]) = true ∧ bit 0 (s.fld p Fld.HIF_FUNC_MODE.MODE 0) = true ∧
    s.inTrain p lane.toNat = true ∧ lane.toNat % 576 = l.val :=
  ⟨(State.modHif (State.modPort (withF [(Fld.EPC_ERR_CFG.ESC_U, 0, 0), (Fld.HIF_CTL.EN, 0, 3),
    (Fld.HIF_FUNC_MODE.MODE, 0, 1), (Fld.LNE_PORT_CFG.PORT_EN, 0, 1), (Fld.LNE_PORT_STAT.STAGE, 0, 2)]) .hoist 0
    (fun x => { x with det := 1 })) .hoist (fun x =>
    { x with fetched := [(0, [6, 0, 7, 0, 0, 0, 0, 0] ++ (leBytes 2 0 ++ [1, 2, 3]))] })), .hoist, ⟨false, 7⟩, 0, 1,
    2, 3, 0,
    by decide +kernel⟩
theorem wit_adaptDone : ∃ (s : State) (p : Plane) (r : BitVec 32) (a : AdaptWait), s.live p = true ∧ s.ringOn p 0 =
    true ∧ (s.pl p).hif.adapt = some a ∧ (∀ f ∈ (s.pl p).hif.fetched, f.2 ≠ []) :=
  ⟨(State.modHif (withF [(Fld.EPC_ERR_CFG.ESC_U, 0, 0), (Fld.HIF_CTL.EN, 0, 3)]) .hoist (fun x =>
    { x with adapt := some ⟨0, ⟨false, 7⟩, 0⟩ })), .hoist, 5, ⟨0, ⟨false, 7⟩, 0⟩,
    by decide +kernel⟩
theorem wit_ringEnable : ∃ (s : State) (p : Plane) (r : Ring), s.live p = true ∧ s.ringOn p r.num = false ∧ (s.pl
    p).hif.events = [] :=
  ⟨(withF [(Fld.EPC_ERR_CFG.ESC_U, 0, 0)]), .hoist, .cplq,
    by decide +kernel⟩
theorem wit_ringDisable : ∃ (s : State) (p : Plane) (r : Ring), s.live p = true ∧ s.ringOn p r.num = true :=
  ⟨(withF [(Fld.EPC_ERR_CFG.ESC_U, 0, 0), (Fld.HIF_CTL.EN, 0, 2)]), .hoist, .cplq,
    by decide +kernel⟩
theorem wit_statusLineWrite : ∃ (s : State) (p : Plane), s.live p = true ∧ (s.pl p).hif.statDue = true ∧ s.reportOut
    p = false :=
  ⟨(State.modHif (withF [(Fld.EPC_ERR_CFG.ESC_U, 0, 0)]) .hoist (fun x => { x with statDue := true })), .hoist,
    by decide +kernel⟩
theorem wit_intrCoalesce : ∃ (s : State) (p : Plane) (r : Ring), s.live p = true ∧ r ≠ .cmdq ∧ s.ringOn p r.num =
    true ∧ (s.ring p r.num).armed = true ∧ 0 < (s.ring p r.num).unsig ∧ s.reportOut p = false :=
  ⟨(State.modHif (withF [(Fld.EPC_ERR_CFG.ESC_U, 0, 0), (Fld.HIF_CTL.EN, 0, 2)]) .hoist (fun x =>
    { x with rings := [(1, { arm := 1, unsig := 3 })] })), .hoist, .cplq,
    by decide +kernel⟩
theorem wit_eventRaise : ∃ (s : State) (p : Plane) (code : BitVec 16) (unit : Word) (args : List Word), s.live p =
    true ∧ s.evtMasked p code = false ∧ (heldCodes.contains code = false ∨ s.fld p Fld.HIF_EVT_CFG.EVT_HOLD 0 = 0) ∧
    s.ringOn p 2 = false ∧ (s.pl p).hif.events.length < 256 :=
  ⟨(withF [(Fld.EPC_ERR_CFG.ESC_U, 0, 0)]), .hoist, 0x0901, 0, [],
    by decide +kernel⟩
theorem wit_evtHoldEnd : ∃ (s : State) (p : Plane) (code : BitVec 16) (unit : Word) (tr : Tracker), s.live p = true
    ∧ (s.pl p).hif.trackers.find? (fun x => x.code == code && x.unit == unit) = some tr ∧ tr.held ≠ 0 ∧ s.evtMasked
    p code = false ∧ s.ringOn p 2 = false ∧ (s.pl p).hif.events.length < 256 :=
  ⟨(State.modHif (withF [(Fld.EPC_ERR_CFG.ESC_U, 0, 0)]) .hoist (fun x =>
    { x with trackers := [⟨0x0B05, 0, 5, 3, ⟨0x0B05, 0, 0, 0, []⟩⟩] })), .hoist, 0x0B05, 0, ⟨0x0B05, 0, 5, 3,
    ⟨0x0B05, 0, 0, 0, []⟩⟩,
    by decide +kernel⟩
theorem wit_funcModeWrite : ∃ (s : State) (p : Plane) (v : Word), s.live p = true :=
  ⟨(withF [(Fld.EPC_ERR_CFG.ESC_U, 0, 0)]), .hoist, 5,
    by decide +kernel⟩
theorem wit_hostWatchdog : ∃ (s : State) (p : Plane), s.live p = true ∧ s.fld p Fld.HIF_FUNC_MODE.MODE 0 ≠ 0 ∧ s.fld
    p Fld.HIF_WDT_CFG.HOST_WDT 0 ≠ 0 :=
  ⟨(withF [(Fld.EPC_ERR_CFG.ESC_U, 0, 0), (Fld.HIF_FUNC_MODE.MODE, 0, 4), (Fld.HIF_WDT_CFG.HOST_WDT, 0, 4)]),
    .hoist,
    by decide +kernel⟩
theorem wit_hostLinkLost : ∃ (s : State) (p : Plane), s.live p = true ∧ s.glStage .hoist ≠ 5 ∧ s.glStage .fly ≠ 5 :=
  ⟨(withF [(Fld.EPC_ERR_CFG.ESC_U, 0, 0)]), .hoist,
    by decide +kernel⟩
theorem wit_hostBack : ∃ (s : State) (p : Plane), s.live p = true ∧ (s.pl p).hif.hostLost = true ∧ (s.glStage .hoist
    = 5 ∨ s.glStage .fly = 5) :=
  ⟨(State.modHif (withF [(Fld.EPC_ERR_CFG.ESC_U, 0, 0), (Fld.HIF_LINK_STAT.STAGE, 0, 5)]) .hoist (fun x =>
    { x with hostLost := true })), .hoist,
    by decide +kernel⟩
theorem wit_heartbeatSend : ∃ (s : State) (p : Plane), s.canUp p = true :=
  ⟨(withF [(Fld.EPC_ERR_CFG.ESC_U, 0, 0)]), .hoist,
    by decide +kernel⟩
theorem wit_heartbeat : ∃ (s : State) (p : Plane) (role : BitVec 2) (seq : BitVec 16) (jrn : BitVec 32) (time :
    BitVec 64) (health : BitVec 16), s.canUp p = true ∧ s.halUp p = true ∧ (s.mgr = some p ∨ role.toNat ≠ 0) ∧
    s.pkg.activating = none ∧ (∀ q, s.flag q Fld.CAN_MBOX_CTL.SEND 0 = false) :=
  ⟨(State.modCan (withF [(Fld.EPC_ERR_CFG.ESC_U, 0, 0), (Fld.TOP_PG_STAT.HALYARD_OK, 0, 1)]) .hoist (fun x =>
    { x with role := .active })), .hoist, 1, 2, 3, 4, 5,
    by refine ⟨by decide +kernel, by decide +kernel, by decide +kernel, by decide +kernel, fun q => by cases q <;> decide +kernel⟩⟩
theorem wit_heartbeatMiss : ∃ (s : State) (p : Plane), s.canEligible p = true ∧ s.pkg.active = some p.other ∧
    s.halUp p = true ∧ s.pkg.split = false ∧ s.power ≠ 0 ∧ s.power = s.target p ∧ (∀ q, s.flag q
    Fld.CAN_MBOX_CTL.SEND 0 = false) :=
  ⟨(State.modPkg (State.modCan (withF [(Fld.EPC_ERR_CFG.ESC_U, 0, 0), (Fld.TOP_PG_STAT.HALYARD_OK, 0, 1),
    (Fld.CAN_PWR_STATE.STATE, 0, 3), (Fld.CAN_PWR_STATE.RM_LIMIT, 0, 3), (Fld.CAN_PWR_STATE.HOST_REQ, 0, 3)]) .hoist
    (fun x => { x with role := .standby, health := List.replicate 16 0 ++ [3] })) (fun x =>
    { x with active := some .fly })), .hoist,
    by refine ⟨by decide +kernel, by decide +kernel, by decide +kernel, by decide +kernel, by decide +kernel, by decide +kernel, fun q => by cases q <;> decide +kernel⟩⟩
theorem wit_heartbeatMiss_lost : ∃ (s : State) (p : Plane), s.canUp p = true ∧ (s.pl p).can.role = .standby ∧
    s.canEligible p = false ∧ s.pkg.active = some p.other ∧ s.halUp p = true ∧ s.pkg.split = false ∧ (∀ q, s.flag q
    Fld.CAN_MBOX_CTL.SEND 0 = false) :=
  ⟨(State.modPkg (State.modCan (withF [(Fld.EPC_ERR_CFG.ESC_U, 0, 0), (Fld.TOP_PG_STAT.HALYARD_OK, 0, 1)]) .hoist
    (fun x => { x with role := .standby })) (fun x => { x with active := some .fly })), .hoist,
    by refine ⟨by decide +kernel, by decide +kernel, by decide +kernel, by decide +kernel, by decide +kernel, by decide +kernel, fun q => by cases q <;> decide +kernel⟩⟩
theorem wit_cantonClaim : ∃ (s : State) (p : Plane) (q : Plane), s.pkg.active = none ∧ s.claims p = true ∧ q = (if
    s.claims p.other = true then (if s.flag p Fld.TOP_STRAP.CANTON_SEL 0 = true then Plane.fly else Plane.hoist)
    else p) ∧ s.power ≠ 0 ∧ s.power = s.target q ∧ (∀ q, s.flag q Fld.CAN_MBOX_CTL.SEND 0 = false) :=
  ⟨(State.modPkg (State.modCan (withF [(Fld.EPC_ERR_CFG.ESC_U, 0, 0), (Fld.CAN_PWR_STATE.STATE, 0, 3),
    (Fld.CAN_PWR_STATE.RM_LIMIT, 0, 3), (Fld.CAN_PWR_STATE.HOST_REQ, 0, 3)]) .hoist (fun x =>
    { x with role := .standby, health := List.replicate 16 0 ++ [3] })) (fun x => { x with active := none })),
    .hoist, .hoist,
    by refine ⟨by decide +kernel, by decide +kernel, by decide +kernel, by decide +kernel, by decide +kernel, fun q => by cases q <;> decide +kernel⟩⟩
theorem wit_handover : ∃ (s : State) (p : Plane), s.pkg.resetN = true ∧ s.live p = true ∧ s.mgr = some p ∧ s.canHand
    = true :=
  ⟨(State.modCan (State.modCan (withF [(Fld.EPC_ERR_CFG.ESC_U, 0, 0)]) .hoist (fun x => { x with role := .active }))
    .fly (fun x => { x with role := .standby, health := List.replicate 16 0 ++ [3] })), .hoist,
    by decide +kernel⟩
theorem wit_handoverAck : ∃ (s : State) (p : Plane), s.pkg.handing = true ∧ s.canHand = true ∧ s.mgr = some p.other
    ∧ s.power ≠ 0 ∧ s.power = s.target p ∧ (∀ q, s.flag q Fld.CAN_MBOX_CTL.SEND 0 = false) :=
  ⟨(State.modPkg (State.modCan (State.modCan (withF [(Fld.EPC_ERR_CFG.ESC_U, 0, 0), (Fld.CAN_PWR_STATE.STATE, 0, 3),
    (Fld.CAN_PWR_STATE.RM_LIMIT, 0, 3), (Fld.CAN_PWR_STATE.HOST_REQ, 0, 3)]) .fly (fun x =>
    { x with role := .handing })) .hoist (fun x =>
    { x with role := .standby, health := List.replicate 16 0 ++ [3] })) (fun x =>
    { x with active := some .fly, handing := true })), .hoist,
    by refine ⟨by decide +kernel, by decide +kernel, by decide +kernel, by decide +kernel, by decide +kernel, fun q => by cases q <;> decide +kernel⟩⟩
theorem wit_journalRecord : ∃ (s : State) (p : Plane) (seq : BitVec 32) (r : JournalRec), s.canUp p = true ∧ s.halUp
    p = true ∧ (s.pl p).can.role ≠ .booting ∧ s.pkg.active ≠ some p :=
  ⟨(State.modPkg (State.modCan (withF [(Fld.EPC_ERR_CFG.ESC_U, 0, 0), (Fld.TOP_PG_STAT.HALYARD_OK, 0, 1)]) .hoist
    (fun x => { x with role := .standby })) (fun x => { x with active := some .fly })), .hoist, 1, ⟨0, 3, [1]⟩,
    by decide +kernel⟩
theorem wit_healthReport : ∃ (s : State) (p : Plane) (agree flashOk : Bool), s.canUp p = true ∧ (s.pl p).can.role ≠
    .booting ∧ s.pkg.activating = none ∧ (∀ q, s.flag q Fld.CAN_MBOX_CTL.SEND 0 = false) :=
  ⟨(State.modCan (withF [(Fld.EPC_ERR_CFG.ESC_U, 0, 0)]) .hoist (fun x => { x with role := .active })), .hoist,
    true, true,
    by refine ⟨by decide +kernel, by decide +kernel, by decide +kernel, fun q => by cases q <;> decide +kernel⟩⟩
theorem wit_selfTestTick : ∃ (s : State) (p : Plane) (kat ok : Bool), s.canUp p = true ∧ (s.pl p).can.role =
    .standby :=
  ⟨(State.modCan (withF [(Fld.EPC_ERR_CFG.ESC_U, 0, 0)]) .hoist (fun x => { x with role := .standby })), .hoist,
    true, false,
    by decide +kernel⟩
theorem wit_cantonWatchdog : ∃ (s : State) (p : Plane), s.canUp p = true ∧ (s.pl p).can.role ≠ .booting ∧ s.fld p
    Fld.CAN_HB_CFG.WDT_MS 0 ≠ 0 :=
  ⟨(State.modCan (withF [(Fld.EPC_ERR_CFG.ESC_U, 0, 0), (Fld.CAN_HB_CFG.WDT_MS, 0, 4)]) .hoist (fun x =>
    { x with role := .standby })), .hoist,
    by decide +kernel⟩
theorem wit_cantonBoot : ∃ (s : State) (p : Plane) (v : FlashView) (c : Nat) (d : FlashDir), s.canUp p = true ∧
    (s.pl p).can.role = .booting ∧ (s.pl p).can.imgRuns = false ∧ (s.setView p (some v)).flashDir p = some (c, d) ∧
    d.pref ≤ 1 ∧ imageCode 1 s.pkg.svnFw s.pkg.revoked ((s.setView p (some v)).slotHdr p d d.pref) ((s.setView p
    (some v)).slotProof p d d.pref) = 0 ∧ s.pkg.activating = none ∧ (∀ q, s.flag q Fld.CAN_MBOX_CTL.SEND 0 = false)
    :=
  ⟨(withF [(Fld.EPC_ERR_CFG.ESC_U, 0, 0)]), .hoist, ⟨some ⟨1, 0, 0x10000, 0x100000⟩, none, [], ⟨false, none, none,
    []⟩, ([0x01, 0x0B, 0xA5, 0xC4, 1, 1, 0, 0, 0, 0, 0, 0, 0, 0, 0, 0, 1] ++ List.replicate 495 0), ([0x01, 0x0B,
    0xA5, 0xC4, 1, 1, 0, 0, 0, 0, 0, 0, 0, 0, 0, 0, 1] ++ List.replicate 495 0), ⟨true, true, true⟩, ⟨true, true,
    true⟩⟩, 0, ⟨1, 0, 0x10000, 0x100000⟩,
    by refine ⟨by decide +kernel, by decide +kernel, by decide +kernel, by decide +kernel, by decide +kernel, by decide +kernel, by decide +kernel, fun q => by cases q <;> decide +kernel⟩⟩
theorem wit_cantonBootDone : ∃ (s : State) (p : Plane) (mc : Option Image), s.canUp p = true ∧ (s.pl p).can.role =
    .booting ∧ (s.pl p).can.imgRuns = true ∧ s.pkg.active ≠ some p ∧ s.halUp .hoist = true ∧ s.halUp .fly = true ∧
    s.power ≠ 0 ∧ s.power = s.target p.other ∧ s.pkg.activating = none ∧ (∀ q, s.flag q Fld.CAN_MBOX_CTL.SEND 0 =
    false) :=
  ⟨(State.setF (State.modCan ((State.setF (withF [(Fld.EPC_ERR_CFG.ESC_U, 0, 0), (Fld.TOP_PG_STAT.HALYARD_OK, 0, 1),
    (Fld.CAN_PWR_STATE.STATE, 0, 3), (Fld.CAN_PWR_STATE.RM_LIMIT, 0, 3), (Fld.CAN_PWR_STATE.HOST_REQ, 0, 3)]) .fly
    Fld.CAN_PWR_STATE.RM_LIMIT 0 3).setF .fly Fld.CAN_PWR_STATE.HOST_REQ 0 3) .fly (fun x =>
    { x with imgRuns := true })) .fly Fld.TOP_PG_STAT.HALYARD_OK 0 1), .fly, none,
    by refine ⟨by decide +kernel, by decide +kernel, by decide +kernel, by decide +kernel, by decide +kernel, by decide +kernel, by decide +kernel, by decide +kernel, by decide +kernel, fun q => by cases q <;> decide +kernel⟩⟩
theorem wit_cantonBootDone_fail : ∃ (s : State) (p : Plane) (mc : Option Image), s.canUp p = true ∧ (s.pl
    p).can.role = .booting ∧ (s.pl p).can.imgRuns = true ∧ s.pkg.activating = none ∧ (∀ q, s.flag q
    Fld.CAN_MBOX_CTL.SEND 0 = false) :=
  ⟨(State.modCan (withF [(Fld.EPC_ERR_CFG.ESC_U, 0, 0)]) .hoist (fun x => { x with imgRuns := true })), .hoist,
    none,
    by refine ⟨by decide +kernel, by decide +kernel, by decide +kernel, by decide +kernel, fun q => by cases q <;> decide +kernel⟩⟩
theorem wit_healthGet : ∃ (s : State) (p : Plane) (req : MgmtReq), s.pkg.resetN = true ∧ s.mgr = some p ∧
    s.pkg.split = false ∧ s.waits p = false ∧ req.transport = .ethernet ∧ ((req.target = 0xFF ∨ req.target.toNat =
    s.slot)) :=
  ⟨(State.modCan (withF [(Fld.EPC_ERR_CFG.ESC_U, 0, 0)]) .hoist (fun x => { x with role := .active })), .hoist,
    ⟨.hoist, .ethernet, false, 9, 0xFF, [], [], List.replicate 32 7, false⟩,
    by decide +kernel⟩
theorem wit_inventoryGet : ∃ (s : State) (p : Plane) (req : MgmtReq) (members : List (BitVec 4 × Bytes)),
    s.pkg.resetN = true ∧ s.mgr = some p ∧ s.pkg.split = false ∧ s.waits p = false ∧ req.transport = .ethernet ∧
    ((req.target = 0xFF ∨ req.target.toNat = s.slot)) :=
  ⟨(State.modCan (withF [(Fld.EPC_ERR_CFG.ESC_U, 0, 0)]) .hoist (fun x => { x with role := .active })), .hoist,
    ⟨.hoist, .ethernet, false, 9, 0xFF, [], [], List.replicate 32 7, false⟩, [],
    by decide +kernel⟩
theorem wit_sensorGet : ∃ (s : State) (p : Plane) (req : MgmtReq), s.pkg.resetN = true ∧ s.mgr = some p ∧
    s.pkg.split = false ∧ s.waits p = false ∧ req.transport = .ethernet ∧ ((req.target = 0xFF ∨ req.target.toNat =
    s.slot)) :=
  ⟨(State.modCan (withF [(Fld.EPC_ERR_CFG.ESC_U, 0, 0)]) .hoist (fun x => { x with role := .active })), .hoist,
    ⟨.hoist, .ethernet, false, 9, 0xFF, [], [], List.replicate 32 7, false⟩,
    by decide +kernel⟩
theorem wit_attest : ∃ (s : State) (p : Plane) (req : MgmtReq), s.pkg.resetN = true ∧ s.mgr = some p ∧ s.pkg.split =
    false ∧ s.waits p = false ∧ req.transport = .ethernet ∧ ((req.target = 0xFF ∨ req.target.toNat = s.slot)) :=
  ⟨(State.modCan (withF [(Fld.EPC_ERR_CFG.ESC_U, 0, 0)]) .hoist (fun x => { x with role := .active })), .hoist,
    ⟨.hoist, .ethernet, false, 9, 0xFF, [], [], List.replicate 32 7, false⟩,
    by decide +kernel⟩
theorem wit_neighbourGet : ∃ (s : State) (p : Plane) (req : MgmtReq), s.pkg.resetN = true ∧ s.mgr = some p ∧
    s.pkg.split = false ∧ s.waits p = false ∧ req.transport = .ethernet ∧ ((req.target = 0xFF ∨ req.target.toNat =
    s.slot)) :=
  ⟨(State.modCan (withF [(Fld.EPC_ERR_CFG.ESC_U, 0, 0)]) .hoist (fun x => { x with role := .active })), .hoist,
    ⟨.hoist, .ethernet, false, 9, 0xFF, [], [], List.replicate 32 7, false⟩,
    by decide +kernel⟩
theorem wit_mgmtUnknown : ∃ (s : State) (p : Plane) (req : MgmtReq) (code : Byte), s.pkg.resetN = true ∧ s.mgr =
    some p ∧ s.pkg.split = false ∧ s.waits p = false ∧ req.transport = .ethernet ∧ ((req.target = 0xFF ∨
    req.target.toNat = s.slot)) ∧ mgmtCodes.contains code.toNat = false :=
  ⟨(State.modCan (withF [(Fld.EPC_ERR_CFG.ESC_U, 0, 0)]) .hoist (fun x => { x with role := .active })), .hoist,
    ⟨.hoist, .ethernet, false, 9, 0xFF, [], [], List.replicate 32 7, false⟩, 0x7F,
    by decide +kernel⟩
theorem wit_svnCommit : ∃ (s : State) (p : Plane) (req : MgmtReq), s.pkg.resetN = true ∧ s.mgr = some p ∧
    s.pkg.split = false ∧ s.waits p = false ∧ req.transport = .ethernet ∧ ((req.target = 0xFF ∨ req.target.toNat =
    s.slot)) ∧ s.sigStatus 0x22 req = 0 ∧ (mgmtArgs req).length = 1 ∧ 1 ≤ leNat (slice 0 1 (mgmtArgs req)) ∧ leNat
    (slice 0 1 (mgmtArgs req)) ≤ 2 :=
  ⟨(State.modPkg (State.modCan (withF [(Fld.EPC_ERR_CFG.ESC_U, 0, 0)]) .hoist (fun x => { x with role := .active }))
    (fun x => { x with ownerFp := some (List.replicate 32 7) })), .hoist, ⟨.hoist, .ethernet, true, 9, 0xFF, ([1] ++
    List.replicate 57 0), [], List.replicate 32 7, true⟩,
    by decide +kernel⟩
theorem wit_keyRevoke : ∃ (s : State) (p : Plane) (req : MgmtReq) (signer : Option (Fin 4)) (j : Fin 4),
    s.pkg.resetN = true ∧ s.mgr = some p ∧ s.pkg.split = false ∧ s.waits p = false ∧ req.transport = .ethernet ∧
    ((req.target = 0xFF ∨ req.target.toNat = s.slot)) ∧ s.sigStatus 0x23 req = 0 ∧ 1 ≤ (mgmtArgs req).length ∧ leNat
    (slice 0 1 (mgmtArgs req)) < 4 ∧ signer = some j ∧ j.val ≠ leNat (slice 0 1 (mgmtArgs req)) ∧
    s.pkg.revoked.getLsbD j.val = false ∧ (List.range 4).filter (fun x => decide (x < 4) && !s.pkg.revoked.getLsbD
    x) ≠ [leNat (slice 0 1 (mgmtArgs req))] :=
  ⟨(State.modPkg (State.modCan (withF [(Fld.EPC_ERR_CFG.ESC_U, 0, 0)]) .hoist (fun x => { x with role := .active }))
    (fun x => { x with ownerFp := some (List.replicate 32 7) })), .hoist, ⟨.hoist, .ethernet, true, 9, 0xFF, ([1] ++
    List.replicate 57 0), [], List.replicate 32 7, true⟩, (some 2), 2,
    by decide +kernel⟩
theorem wit_ownerSet : ∃ (s : State) (p : Plane) (req : MgmtReq), s.pkg.resetN = true ∧ s.mgr = some p ∧ s.pkg.split
    = false ∧ s.waits p = false ∧ req.transport = .ethernet ∧ ((req.target = 0xFF ∨ req.target.toNat = s.slot)) ∧
    s.sigStatus 0x24 req = 0 ∧ s.pkg.ownerFp = none :=
  ⟨(State.modCan (withF [(Fld.EPC_ERR_CFG.ESC_U, 0, 0)]) .hoist (fun x => { x with role := .active })), .hoist,
    ⟨.hoist, .ethernet, true, 9, 0xFF, ([] ++ List.replicate 57 0), [], List.replicate 32 7, true⟩,
    by decide +kernel⟩
theorem wit_capSet : ∃ (s : State) (p : Plane) (req : MgmtReq), s.pkg.resetN = true ∧ s.mgr = some p ∧ s.pkg.split =
    false ∧ s.waits p = false ∧ req.transport = .ethernet ∧ ((req.target = 0xFF ∨ req.target.toNat = s.slot)) ∧
    s.sigStatus 0x10 req = 0 ∧ (mgmtArgs req).length = 3 ∧ s.noOrders = false ∧ leNat (slice 0 1 (mgmtArgs req)) = 0
    :=
  ⟨(State.modPkg (State.modCan (withF [(Fld.EPC_ERR_CFG.ESC_U, 0, 0)]) .hoist (fun x => { x with role := .active }))
    (fun x => { x with ownerFp := some (List.replicate 32 7) })), .hoist, ⟨.hoist, .ethernet, true, 9, 0xFF, ([0, 5,
    0] ++ List.replicate 57 0), [], List.replicate 32 7, true⟩,
    by decide +kernel⟩
theorem wit_fwWrite : ∃ (s : State) (p : Plane) (req : MgmtReq) (c : Plane → Nat) (d : Plane → FlashDir),
    s.pkg.resetN = true ∧ s.mgr = some p ∧ s.pkg.split = false ∧ s.waits p = false ∧ req.transport = .ethernet ∧
    ((req.target = 0xFF ∨ req.target.toNat = s.slot)) ∧ s.sigStatus 0x20 req = 0 ∧ 4 ≤ (mgmtArgs req).length ∧
    (mgmtArgs req).length ≤ 1028 ∧ leNat (slice 0 4 (mgmtArgs req)) + ((mgmtArgs req).length - 4) ≤ 1048576 ∧ (∀ q,
    s.flashDir q = some (c q, d q)) :=
  ⟨(State.modPkg (State.modPkg (State.modCan (withF [(Fld.EPC_ERR_CFG.ESC_U, 0, 0)]) .hoist (fun x =>
    { x with role := .active })) (fun x => { x with ownerFp := some (List.replicate 32 7) })) (fun x =>
    { x with view0 := some ⟨some ⟨1, 0, 0x10000, 0x100000⟩, none, [], ⟨false, none, none, []⟩, ([0x01, 0x0B, 0xA5, 0xC4, 1, 1, 0, 0, 0, 0, 0, 0, 0, 0, 0, 0, 1] ++ List.replicate 495 0), ([0x01, 0x0B, 0xA5, 0xC4, 1, 1, 0, 0, 0, 0, 0, 0, 0, 0, 0, 0, 1] ++ List.replicate 495 0), ⟨true, true, true⟩, ⟨true, true, true⟩⟩, view1 := some ⟨some ⟨1, 0, 0x10000, 0x100000⟩, none, [], ⟨false, none, none, []⟩, ([0x01, 0x0B, 0xA5, 0xC4, 1, 1, 0, 0, 0, 0, 0, 0, 0, 0, 0, 0, 1] ++ List.replicate 495 0), ([0x01, 0x0B, 0xA5, 0xC4, 1, 1, 0, 0, 0, 0, 0, 0, 0, 0, 0, 0, 1] ++ List.replicate 495 0), ⟨true, true, true⟩, ⟨true, true, true⟩⟩ })),
    .hoist, ⟨.hoist, .ethernet, true, 9, 0xFF, ([0, 0, 0, 0, 9] ++ List.replicate 57 0), [], List.replicate 32 7,
    true⟩, (fun _ => 0), (fun _ => ⟨1, 0, 0x10000, 0x100000⟩),
    by refine ⟨by decide +kernel, by decide +kernel, by decide +kernel, by decide +kernel, by decide +kernel, by decide +kernel, by decide +kernel, by decide +kernel, by decide +kernel, by decide +kernel, fun q => by cases q <;> decide +kernel⟩⟩
theorem wit_fwActivate : ∃ (s : State) (p : Plane) (req : MgmtReq) (c : Plane → Nat) (d : Plane → FlashDir),
    s.pkg.resetN = true ∧ s.mgr = some p ∧ s.pkg.split = false ∧ s.waits p = false ∧ req.transport = .ethernet ∧
    ((req.target = 0xFF ∨ req.target.toNat = s.slot)) ∧ s.sigStatus 0x21 req = 0 ∧ (∀ q, s.flashDir q = some (c q, d
    q)) ∧ s.noOrders = false ∧ s.pkg.handing = false ∧ s.pkg.activating = none ∧ (s.pl p.other).can.fenced = false
    :=
  ⟨(State.modPkg (State.modPkg (State.modCan (withF [(Fld.EPC_ERR_CFG.ESC_U, 0, 0)]) .hoist (fun x =>
    { x with role := .active })) (fun x => { x with ownerFp := some (List.replicate 32 7) })) (fun x =>
    { x with view0 := some ⟨some ⟨1, 0, 0x10000, 0x100000⟩, none, [], ⟨false, none, none, []⟩, ([0x01, 0x0B, 0xA5, 0xC4, 1, 1, 0, 0, 0, 0, 0, 0, 0, 0, 0, 0, 1] ++ List.replicate 495 0), ([0x01, 0x0B, 0xA5, 0xC4, 1, 1, 0, 0, 0, 0, 0, 0, 0, 0, 0, 0, 1] ++ List.replicate 495 0), ⟨true, true, true⟩, ⟨true, true, true⟩⟩, view1 := some ⟨some ⟨1, 0, 0x10000, 0x100000⟩, none, [], ⟨false, none, none, []⟩, ([0x01, 0x0B, 0xA5, 0xC4, 1, 1, 0, 0, 0, 0, 0, 0, 0, 0, 0, 0, 1] ++ List.replicate 495 0), ([0x01, 0x0B, 0xA5, 0xC4, 1, 1, 0, 0, 0, 0, 0, 0, 0, 0, 0, 0, 1] ++ List.replicate 495 0), ⟨true, true, true⟩, ⟨true, true, true⟩⟩ })),
    .hoist, ⟨.hoist, .ethernet, true, 9, 0xFF, ([] ++ List.replicate 57 0), [], List.replicate 32 7, true⟩, (fun _
    => 0), (fun _ => ⟨1, 0, 0x10000, 0x100000⟩),
    by refine ⟨by decide +kernel, by decide +kernel, by decide +kernel, by decide +kernel, by decide +kernel, by decide +kernel, by decide +kernel, fun q => by cases q <;> decide +kernel, by decide +kernel, by decide +kernel, by decide +kernel, by decide +kernel⟩⟩
theorem wit_masterHandover : ∃ (s : State) (p : Plane) (req : MgmtReq), s.pkg.resetN = true ∧ s.mgr = some p ∧
    s.pkg.split = false ∧ s.waits p = false ∧ req.transport = .ethernet ∧ ((req.target = 0xFF ∨ req.target.toNat =
    s.slot)) ∧ s.sigStatus 0x31 req = 0 ∧ (mgmtArgs req).length = 1 ∧ leNat (slice 0 1 (mgmtArgs req)) < 8 ∧
    s.isMaster = true ∧ s.heardOk (leNat (slice 0 1 (mgmtArgs req))) = true ∧ (s.pkg.master.map (fun v =>
    v.toNat)).getD 15 ≠ leNat (slice 0 1 (mgmtArgs req)) :=
  ⟨(State.setF (State.modPkg (State.modPkg (State.modCan (withF [(Fld.EPC_ERR_CFG.ESC_U, 0, 0)]) .hoist (fun x =>
    { x with role := .active })) (fun x => { x with ownerFp := some (List.replicate 32 7) })) (fun x =>
    { x with heard := [(3, some ⟨5, true, false, 0⟩)] })) .hoist Fld.CAN_STAT.MASTER 0 1), .hoist, ⟨.hoist,
    .ethernet, true, 9, 0xFF, ([3] ++ List.replicate 57 0), [], List.replicate 32 7, true⟩,
    by decide +kernel⟩
theorem wit_handover_request : ∃ (s : State) (p : Plane) (req : MgmtReq), s.pkg.resetN = true ∧ s.mgr = some p ∧
    s.pkg.split = false ∧ s.waits p = false ∧ req.transport = .ethernet ∧ ((req.target = 0xFF ∨ req.target.toNat =
    s.slot)) ∧ s.sigStatus 0x30 req = 0 ∧ s.canHand = true :=
  ⟨(State.modCan (State.modPkg (State.modCan (withF [(Fld.EPC_ERR_CFG.ESC_U, 0, 0)]) .hoist (fun x =>
    { x with role := .active })) (fun x => { x with ownerFp := some (List.replicate 32 7) })) .fly (fun x =>
    { x with role := .standby, health := List.replicate 16 0 ++ [3] })), .hoist, ⟨.hoist, .ethernet, true, 9, 0xFF,
    ([] ++ List.replicate 57 0), [], List.replicate 32 7, true⟩,
    by decide +kernel⟩
theorem wit_powerSet : ∃ (s : State) (p : Plane) (req : MgmtReq), s.pkg.resetN = true ∧ s.mgr = some p ∧ s.pkg.split
    = false ∧ s.waits p = false ∧ req.transport = .ethernet ∧ ((req.target = 0xFF ∨ req.target.toNat = s.slot)) ∧
    s.sigStatus 0x11 req = 0 ∧ (mgmtArgs req).length = 1 ∧ leNat (slice 0 1 (mgmtArgs req)) ≤ 3 ∧ s.noOrders = false
    ∧ s.power ≠ 0 ∧ s.power ≤ min (leNat (slice 0 1 (mgmtArgs req))) (s.hostReq p) :=
  ⟨(State.modPkg (State.modCan (withF [(Fld.EPC_ERR_CFG.ESC_U, 0, 0), (Fld.CAN_PWR_STATE.STATE, 0, 1),
    (Fld.CAN_PWR_STATE.RM_LIMIT, 0, 3), (Fld.CAN_PWR_STATE.HOST_REQ, 0, 3)]) .hoist (fun x =>
    { x with role := .active })) (fun x => { x with ownerFp := some (List.replicate 32 7) })), .hoist, ⟨.hoist,
    .ethernet, true, 9, 0xFF, ([2] ++ List.replicate 57 0), [], List.replicate 32 7, true⟩,
    by decide +kernel⟩
theorem wit_mboxSend : ∃ (s : State) (p : Plane) (r : Plane) (b : Bytes), s.live p = true ∧ s.flag p
    Fld.CAN_MBOX_CTL.BUSY 0 = false ∧ s.flag p.other Fld.CAN_MBOX_CTL.SEND 0 = false ∧ s.mgr = some r ∧ s.pkg.split
    = false ∧ (s.pl p).can.inRom = false ∧ b = slice 0 (min 1280 (s.fld p Fld.CAN_MBOX_CTL.LEN 0)) ((List.range
    320).flatMap (fun w => leBytes 4 (s.word p .CAN_MBOX_TX w 0).toNat)) ∧ (parseReq p .mailbox b).1 = 1 ∧ (parseReq
    p .mailbox b).2.target = 0xFF :=
  ⟨((State.setWord (State.setWord (State.modCan (withF [(Fld.EPC_ERR_CFG.ESC_U, 0, 0), (Fld.CAN_MBOX_CTL.LEN, 0,
    16)]) .hoist (fun x => { x with role := .active })) .hoist .CAN_MBOX_TX 0 0 0x101) .hoist .CAN_MBOX_TX 2 0
    0xFF)), .hoist, .hoist, [1, 1, 0, 0, 0, 0, 0, 0, 0xFF, 0, 0, 0, 0, 0, 0, 0],
    by decide +kernel⟩
theorem wit_cascadeMsg : ∃ (s : State) (p : Plane) (side : Sys2Proof.Side) (f : CascFrame), s.cascEn = true ∧ s.mgr
    = some p ∧ f.crcOk = true ∧ f.src.toNat ≠ s.slot ∧ f.dst.toNat ≠ s.slot ∧ f.dst ≠ 0xF :=
  ⟨(State.modCan (withF [(Fld.EPC_ERR_CFG.ESC_U, 0, 0), (Fld.TOP_STRAP.CASC_EN, 0, 1)]) .hoist (fun x =>
    { x with role := .active })), .hoist, .prev, ⟨3, 4, 1, [], true⟩,
    by decide +kernel⟩
theorem wit_cascadeMsg_notice : ∃ (s : State) (p : Plane) (side : Sys2Proof.Side) (f : CascFrame), s.cascEn = true ∧
    s.mgr = some p ∧ f.crcOk = true ∧ f.src.toNat ≠ s.slot ∧ f.dst.toNat = s.slot ∧ f.type = 2 ∧ 16 ≤
    f.payload.length ∧ bit 0 (leNat (slice 2 1 f.payload)) = false ∧ bit 2 (leNat (slice 2 1 f.payload)) = true ∧
    s.isMaster = true :=
  ⟨(State.modCan (withF [(Fld.EPC_ERR_CFG.ESC_U, 0, 0), (Fld.TOP_STRAP.CASC_EN, 0, 1), (Fld.CAN_STAT.MASTER, 0, 1)])
    .hoist (fun x => { x with role := .active })), .hoist, .prev, ⟨3, 0, 2, List.replicate 2 0 ++ [4] ++
    List.replicate 20 0, true⟩,
    by decide +kernel⟩
theorem wit_announceSend : ∃ (s : State) (p : Plane), s.cascEn = true ∧ s.mgr = some p ∧ s.waits p = false :=
  ⟨(State.modCan (withF [(Fld.EPC_ERR_CFG.ESC_U, 0, 0), (Fld.TOP_STRAP.CASC_EN, 0, 1)]) .hoist (fun x =>
    { x with role := .active })), .hoist,
    by decide +kernel⟩
theorem wit_announce : ∃ (s : State) (p : Plane) (slot : BitVec 3) (serial : BitVec 64) (eligible : Bool), s.cascEn
    = true ∧ s.mgr = some p ∧ slot.toNat ≠ s.slot :=
  ⟨(State.modCan (withF [(Fld.EPC_ERR_CFG.ESC_U, 0, 0), (Fld.TOP_STRAP.CASC_EN, 0, 1)]) .hoist (fun x =>
    { x with role := .active })), .hoist, 3, 5, true,
    by decide +kernel⟩
theorem wit_announce_master : ∃ (s : State) (p : Plane) (slot : BitVec 3) (serial : BitVec 64) (eligible : Bool),
    s.cascEn = true ∧ s.mgr = some p ∧ slot.toNat ≠ s.slot ∧ (s.isMaster = false ∨ slot.toNat < s.slot) ∧
    (s.pkg.master.map (fun v => v.toNat)).getD 15 ≠ slot.toNat :=
  ⟨(State.modCan (withF [(Fld.EPC_ERR_CFG.ESC_U, 0, 0), (Fld.TOP_STRAP.CASC_EN, 0, 1)]) .hoist (fun x =>
    { x with role := .active })), .hoist, 3, 5, true,
    by decide +kernel⟩
theorem wit_memberLost : ∃ (s : State) (p : Plane) (slot : BitVec 3), s.cascEn = true ∧ s.mgr = some p ∧ s.isMaster
    = true ∧ slot.toNat ≠ s.slot ∧ (s.heardAt slot.toNat).isSome = true :=
  ⟨(State.modPkg (State.modCan (withF [(Fld.EPC_ERR_CFG.ESC_U, 0, 0), (Fld.TOP_STRAP.CASC_EN, 0, 1),
    (Fld.CAN_STAT.MASTER, 0, 1)]) .hoist (fun x => { x with role := .active })) (fun x =>
    { x with heard := [(3, some ⟨5, true, false, 0⟩)] })), .hoist, 3,
    by decide +kernel⟩
theorem wit_trayTimeFrame : ∃ (s : State) (p : Plane) (side : Sys2Proof.Side) (lock : Bool) (tm rx : BitVec 64),
    s.cascEn = true ∧ s.mgr = some p ∧ s.isMaster = false :=
  ⟨(State.modCan (withF [(Fld.EPC_ERR_CFG.ESC_U, 0, 0), (Fld.TOP_STRAP.CASC_EN, 0, 1)]) .hoist (fun x =>
    { x with role := .active })), .hoist, .next, true, 5, 6,
    by decide +kernel⟩
theorem wit_trayTimeFrame_echo : ∃ (s : State) (p : Plane) (side : Sys2Proof.Side) (lock : Bool) (tm rx : BitVec
    64), s.cascEn = true ∧ s.mgr = some p :=
  ⟨(State.modCan (withF [(Fld.EPC_ERR_CFG.ESC_U, 0, 0), (Fld.TOP_STRAP.CASC_EN, 0, 1)]) .hoist (fun x =>
    { x with role := .active })), .hoist, .next, true, 5, 6,
    by decide +kernel⟩
theorem wit_trayTimeFrame_delay : ∃ (s : State) (p : Plane) (side : Sys2Proof.Side) (lock : Bool) (tm rx : BitVec
    64), s.cascEn = true ∧ s.mgr = some p :=
  ⟨(State.modCan (withF [(Fld.EPC_ERR_CFG.ESC_U, 0, 0), (Fld.TOP_STRAP.CASC_EN, 0, 1)]) .hoist (fun x =>
    { x with role := .active })), .hoist, .next, true, 5, 9,
    by decide +kernel⟩
theorem wit_trayTimeSend : ∃ (s : State) (p : Plane), s.cascEn = true ∧ s.mgr = some p ∧ s.isMaster = true :=
  ⟨(State.modCan (withF [(Fld.EPC_ERR_CFG.ESC_U, 0, 0), (Fld.TOP_STRAP.CASC_EN, 0, 1), (Fld.CAN_STAT.MASTER, 0, 1)])
    .hoist (fun x => { x with role := .active })), .hoist,
    by decide +kernel⟩
theorem wit_trayTimeSend_ask : ∃ (s : State) (p : Plane), s.cascEn = true ∧ s.mgr = some p :=
  ⟨(State.modCan (withF [(Fld.EPC_ERR_CFG.ESC_U, 0, 0), (Fld.TOP_STRAP.CASC_EN, 0, 1)]) .hoist (fun x =>
    { x with role := .active })), .hoist,
    by decide +kernel⟩
theorem wit_powerFrame : ∃ (s : State) (p : Plane) (share : BitVec 16), s.cascEn = true ∧ s.mgr = some p ∧
    s.noOrders = false ∧ s.pkg.split = false :=
  ⟨(State.modCan (withF [(Fld.EPC_ERR_CFG.ESC_U, 0, 0), (Fld.TOP_STRAP.CASC_EN, 0, 1)]) .hoist (fun x =>
    { x with role := .active })), .hoist, 300,
    by decide +kernel⟩
theorem wit_masterElection : ∃ (s : State), s.managed = true ∧ s.cascEn = false ∧ (s.pkg.master.map (fun v =>
    v.toNat)).getD 15 ≠ s.slot :=
  ⟨(State.modCan (withF [(Fld.EPC_ERR_CFG.ESC_U, 0, 0)]) .hoist (fun x => { x with role := .active })),
    by decide +kernel⟩
theorem wit_masterElection_lowest : ∃ (s : State) (k : Fin 8), s.managed = true ∧ s.cascEn = true ∧ s.pkg.master =
    none ∧ s.lowestOk = some k.val :=
  ⟨(State.modPkg (State.modCan (withF [(Fld.EPC_ERR_CFG.ESC_U, 0, 0), (Fld.TOP_STRAP.CASC_EN, 0, 1)]) .hoist (fun x
    => { x with role := .active })) (fun x => { x with heard := [(3, some ⟨5, true, false, 0⟩)] })), 3,
    by decide +kernel⟩
theorem wit_mgmtEthLinkChange : ∃ (s : State) (up : Bool), s.pkg.resetN = true ∧ (up = true ∨ s.isMaster = false) :=
  ⟨(State.modCan (withF [(Fld.EPC_ERR_CFG.ESC_U, 0, 0)]) .hoist (fun x => { x with role := .active })), true,
    by decide +kernel⟩
theorem wit_ptpMessage_sync : ∃ (s : State) (kind : Byte) (tm rx : BitVec 64), s.managed = true ∧ s.isMaster = true
    ∧ s.flag .hoist Fld.CAN_STAT.ETH_UP 0 = true ∧ kind.toNat % 16 = 0 ∧ bit 4 kind.toNat = false :=
  ⟨(State.modCan (withF [(Fld.EPC_ERR_CFG.ESC_U, 0, 0), (Fld.CAN_STAT.MASTER, 0, 1), (Fld.CAN_STAT.ETH_UP, 0, 1)])
    .hoist (fun x => { x with role := .active })), 0, 5, 9,
    by decide +kernel⟩
theorem wit_ptpMessage_two : ∃ (s : State) (kind : Byte) (tm rx : BitVec 64), s.managed = true ∧ s.isMaster = true ∧
    s.flag .hoist Fld.CAN_STAT.ETH_UP 0 = true ∧ kind.toNat % 16 = 0 ∧ bit 4 kind.toNat = true :=
  ⟨(State.modCan (withF [(Fld.EPC_ERR_CFG.ESC_U, 0, 0), (Fld.CAN_STAT.MASTER, 0, 1), (Fld.CAN_STAT.ETH_UP, 0, 1)])
    .hoist (fun x => { x with role := .active })), 16, 5, 9,
    by decide +kernel⟩
theorem wit_ptpMessage_delay : ∃ (s : State) (kind : Byte) (tm rx t3 : BitVec 64), s.managed = true ∧ s.isMaster =
    true ∧ s.flag .hoist Fld.CAN_STAT.ETH_UP 0 = true ∧ kind.toNat % 16 = 9 ∧ s.pkg.ptpT1 = some t3 :=
  ⟨(State.modPkg (State.modCan (withF [(Fld.EPC_ERR_CFG.ESC_U, 0, 0), (Fld.CAN_STAT.MASTER, 0, 1),
    (Fld.CAN_STAT.ETH_UP, 0, 1)]) .hoist (fun x => { x with role := .active })) (fun x =>
    { x with ptpT1 := some 4 })), 9, 5, 9, 4,
    by decide +kernel⟩
theorem wit_trayCapSplit : ∃ (s : State) (p : Plane) (members : List (BitVec 3 × BitVec 16 × BitVec 16)) (own :
    BitVec 16) (rest : List (Nat × Nat)), s.mgr = some p ∧ s.waits p = false ∧ s.pkg.split = false ∧ s.isMaster =
    true ∧ s.noOrders = false ∧ (if s.pkg.trayCap = 0 then (members.map (fun m => (m.1.toNat, m.2.1.toNat,
    m.2.2.toNat))).map (fun m => (m.1, 0)) else trayShares s.pkg.trayCap (members.map (fun m => (m.1.toNat,
    m.2.1.toNat, m.2.2.toNat)))) = (s.slot, own.toNat) :: rest ∧ (∀ e ∈ rest, e.1 ≠ s.slot) :=
  ⟨(State.modPkg (State.modCan (withF [(Fld.EPC_ERR_CFG.ESC_U, 0, 0), (Fld.CAN_STAT.MASTER, 0, 1)]) .hoist (fun x =>
    { x with role := .active })) (fun x => { x with trayCap := 1000 })), .hoist, [(0, 300, 100), (3, 200, 50)],
    (BitVec.ofNat 16 600), [(3, 400)],
    by decide +kernel⟩
theorem wit_notifyAck : ∃ (s : State) (seq : BitVec 32), s.managed = true :=
  ⟨(State.modCan (withF [(Fld.EPC_ERR_CFG.ESC_U, 0, 0)]) .hoist (fun x => { x with role := .active })), 3,
    by decide +kernel⟩
theorem wit_inventorySave : ∃ (s : State), s.managed = true :=
  ⟨(State.modCan (withF [(Fld.EPC_ERR_CFG.ESC_U, 0, 0)]) .hoist (fun x => { x with role := .active })),
    by decide +kernel⟩
theorem wit_neighbourLost : ∃ (s : State) (p : Plane) (ser : BitVec 64), s.mgr = some p ∧ s.waits p = false ∧ dedup
    (s.pkg.lastDown.map (·.2)) = [ser] :=
  ⟨(State.modPkg (State.modCan (withF [(Fld.EPC_ERR_CFG.ESC_U, 0, 0)]) .hoist (fun x => { x with role := .active }))
    (fun x => { x with lastDown := [(4, 9)] })), .hoist, 9,
    by decide +kernel⟩
theorem wit_neighbourNotify : ∃ (s : State) (p : Plane), s.mgr = some p ∧ s.waits p = false ∧ s.neighRows.filter
    (fun e => mget none e.1 s.pkg.neigh != e.2) ≠ [] :=
  ⟨(State.modPkg (State.modCan (withF [(Fld.EPC_ERR_CFG.ESC_U, 0, 0)]) .hoist (fun x => { x with role := .active }))
    (fun x => { x with neigh := [(0, some ⟨1, 0, 5, 0, 0⟩)] })), .hoist,
    by decide +kernel⟩
theorem wit_packetIngress_frame : ∃ (s : State) (p : Plane) (i : Fin 576) (k : Packet) (bad : Bool) (unknown got :
    Nat) (more : Bool), k.hdr.type ≠ 4 :=
  ⟨(withF [(Fld.EPC_ERR_CFG.ESC_U, 0, 0)]), .hoist, 0, (req 0x10 5 6), false, 0, 0, false,
    by decide +kernel⟩
theorem wit_packetTransmit_frame : ∃ (s : State) (p : Plane) (c : Code), c.toNat < 580 :=
  ⟨(State.modSwc (State.modCred (State.modLink (withF [(Fld.EPC_ERR_CFG.ESC_U, 0, 0), (Fld.LNE_PORT_CFG.PORT_EN, 0,
    1), (Fld.LNE_PORT_STAT.STAGE, 0, 5)]) .hoist 0 (fun x => { x with counting := true })) .hoist 0 8 (fun c =>
    { c with limRx := 4 })) .hoist (fun x =>
    { x with stages := [(8, [⟨1, 1, true, 0, true, 0, none, 0, req 0x10 5 6⟩])], pkts := [(1, some (held (req 0x10 5 6) 0))] })),
    .hoist, 8,
    by decide +kernel⟩
theorem wit_registerWrite_frame : ∃ (s : State) (addr : BitVec 27) (v : Word) (i : Nat), s.live (planeAt addr.toNat)
    = true ∧ regAt (addr.toNat % 0x4000000) = some (.LNE_WIRE_FAB, i, 0) ∧ i < 576 :=
  ⟨(withF [(Fld.EPC_ERR_CFG.ESC_U, 0, 0)]), (BitVec.ofNat 27 (Reg.off .LNE_WIRE_FAB 3 0)), 7, 3,
    by decide +kernel⟩
theorem wit_registerWrite_staged_frame : ∃ (s : State) (addr : BitVec 27) (v : Word), s.live (planeAt addr.toNat) =
    true ∧ regAt (addr.toNat % 0x4000000) = some (.LFP_GLB_CFG, 0, 0) ∧ s.flag (planeAt addr.toNat)
    Fld.EPC_COMMIT_STAT.BUSY 0 = false :=
  ⟨(withF [(Fld.EPC_ERR_CFG.ESC_U, 0, 0)]), (BitVec.ofNat 27 (Reg.off .LFP_GLB_CFG 0 0)), 0x1234,
    by decide +kernel⟩
theorem wit_registerWrite_ro_frame : ∃ (s : State) (addr : BitVec 27) (v : Word), s.live (planeAt addr.toNat) = true
    ∧ regAt (addr.toNat % 0x4000000) = some (.TOP_CHIP_ID, 0, 0) :=
  ⟨(withF [(Fld.EPC_ERR_CFG.ESC_U, 0, 0)]), (BitVec.ofNat 27 (Reg.off .TOP_CHIP_ID 0 0)), 5,
    by decide +kernel⟩
theorem wit_registerWrite_rc_frame : ∃ (s : State) (addr : BitVec 27) (v : Word), s.live (planeAt addr.toNat) = true
    ∧ regAt (addr.toNat % 0x4000000) = some (.LFP_AGE_DISC, 0, 0) :=
  ⟨(withF [(Fld.EPC_ERR_CFG.ESC_U, 0, 0)]), (BitVec.ofNat 27 (Reg.off .LFP_AGE_DISC 0 0)), 5,
    by decide +kernel⟩
theorem wit_discard_frame : ∃ (s : State) (p : Plane), s.live p = true ∧ s.commitBusy (s.involved p) = false :=
  ⟨(withF [(Fld.EPC_ERR_CFG.ESC_U, 0, 0)]), .hoist,
    by decide +kernel⟩
theorem wit_configEccError_frame : ∃ (s : State) (p : Plane) (off : BitVec 26) (r : Reg) (i w : Nat), s.live p =
    true ∧ regAt off.toNat = some (r, i, w) ∧ (r.fieldsOf w).any (fun f => f.acc == .rw) = true ∧ (r = .RTE_ENTRY ∨
    r = .RTE_SET ∨ r = .GWM_WIN) :=
  ⟨(withF [(Fld.EPC_ERR_CFG.ESC_U, 0, 0)]), .hoist, (BitVec.ofNat 26 (Reg.off .RTE_ENTRY 3 0)), .RTE_ENTRY, 3, 0,
    by decide +kernel⟩
theorem wit_regWr_frame : ∃ (s : State) (p : Plane) (h : CmdHead) (off v : Word) (i : Nat), s.cmdMay p 1 h (leBytes
    4 off.toNat ++ leBytes 4 v.toNat) = true ∧ (∀ f ∈ (s.pl p).hif.fetched, f.2 ≠ []) ∧ regAt off.toNat = some
    (.LNE_WIRE_FAB, i, 0) ∧ i < 576 ∧ rangeOk off.toNat 1 = true :=
  ⟨(State.modHif (withF [(Fld.EPC_ERR_CFG.ESC_U, 0, 0), (Fld.HIF_CTL.EN, 0, 3), (Fld.HIF_RING_CFG.SIZE, 1, 3)])
    .hoist (fun x =>
    { x with fetched := [(0, [1, 0, 7, 0, 0, 0, 0, 0] ++ (leBytes 4 (Reg.off .LNE_WIRE_FAB 3 0) ++ leBytes 4 9))] })),
    .hoist, ⟨false, 7⟩, (BitVec.ofNat 32 (Reg.off .LNE_WIRE_FAB 3 0)), 9, 3,
    by decide +kernel⟩
theorem wit_mmioWr_frame : ∃ (s : State) (p : Plane) (m : GlMsg) (i : Nat), s.glOn p = true ∧ s.glStage p = 5 ∧
    s.glRoom p = true ∧ m.addr.toNat < 0x8000000 ∧ m.addr.toNat % 4 = 0 ∧ s.mmioReach p (planeAt m.addr.toNat) =
    true ∧ regAt (m.addr.toNat % 0x4000000) = some (.LNE_WIRE_FAB, i, 0) ∧ i < 576 :=
  ⟨(withF [(Fld.EPC_ERR_CFG.ESC_U, 0, 0), (Fld.HIF_LINK_CFG.EN, 0, 1), (Fld.HIF_LINK_STAT.STAGE, 0, 5)]), .hoist,
    ⟨0x08, 0, 9, 0, BitVec.ofNat 64 (Reg.off .LNE_WIRE_FAB 3 0), []⟩, 3,
    by decide +kernel⟩
theorem wit_mmioRd_frame : ∃ (s : State) (p : Plane) (m : GlMsg) (r : Reg) (i w : Nat), s.glOn p = true ∧ s.glStage
    p = 5 ∧ s.glRoom p = true ∧ m.addr.toNat < 0x8000000 ∧ m.addr.toNat % 4 = 0 ∧ s.mmioReach p (planeAt
    m.addr.toNat) = true ∧ regAt (m.addr.toNat % 0x4000000) = some (r, i, w) ∧ (∀ g, r.wideAt w = some g → w = g.1)
    :=
  ⟨(withF [(Fld.EPC_ERR_CFG.ESC_U, 0, 0), (Fld.HIF_LINK_CFG.EN, 0, 1), (Fld.HIF_LINK_STAT.STAGE, 0, 5)]), .hoist,
    ⟨0x08, 0, 9, 0, BitVec.ofNat 64 (Reg.off .TOP_CHIP_ID 0 0), []⟩, .TOP_CHIP_ID, 0, 0,
    by refine ⟨by decide +kernel, by decide +kernel, by decide +kernel, by decide +kernel, by decide +kernel, by decide +kernel, by decide +kernel, fun g h => by cases h⟩⟩
theorem wit_glFlit_frame : ∃ (s : State) (p : Plane) (f : GlFlit), s.glOn p = true ∧ s.glStage p = 5 ∧ f.crcOk =
    true ∧ f.kind = 2 ∧ f.nak = false ∧ f.txSeq = (s.half p).rxSeq + 1 ∧ (s.half p).txq = [] ∧ (∀ q, (s.pl
    q).hif.waiting = [] ∧ (s.pl q).hif.ending = none) :=
  ⟨(withF [(Fld.EPC_ERR_CFG.ESC_U, 0, 0), (Fld.HIF_LINK_CFG.EN, 0, 1), (Fld.HIF_LINK_STAT.STAGE, 0, 5)]), .hoist,
    { msgs := [], txSeq := 0, kind := 2, ackSeq := 0, nak := false, crReq := 3, crSnp := 0, crMmio := 0, crcOk := true },
    by refine ⟨by decide +kernel, by decide +kernel, rfl, rfl, rfl, by decide +kernel, rfl, fun q => by cases q <;> exact ⟨rfl, rfl⟩⟩⟩
theorem wit_glData_frame : ∃ (s : State) (p : Plane) (m : GlMsg) (q : Plane) (r : GlReq) (i : Word), s.glOn p = true
    ∧ s.glStage p = 5 ∧ s.answering p m.mtag = some (q, r) ∧ r.what = .descr i ∧ m.status = 0 ∧ m.line ≠ [] ∧
    s.ringOn q 0 = true ∧ (∀ f ∈ (s.pl q).hif.fetched, f.2 ≠ []) ∧ (∀ o, (s.pl o).hif.ending = none) :=
  ⟨(State.modHif (withF [(Fld.EPC_ERR_CFG.ESC_U, 0, 0), (Fld.HIF_LINK_CFG.EN, 0, 1), (Fld.HIF_LINK_STAT.STAGE, 0,
    5), (Fld.HIF_CTL.EN, 0, 1)]) .hoist (fun x => { x with outst := [⟨⟨1, 0, 5, 0, 0, []⟩, .descr 2, .hoist⟩] })),
    .hoist, ⟨0x10, 0, 5, 0, 0, [1, 2, 3]⟩, .hoist, ⟨⟨1, 0, 5, 0, 0, []⟩, .descr 2, .hoist⟩, 2,
    by refine ⟨by decide +kernel, by decide +kernel, by decide +kernel, by decide +kernel, by decide +kernel, by decide +kernel, by decide +kernel, by decide +kernel, fun q => by cases q <;> rfl⟩⟩
theorem wit_glCmp_frame : ∃ (s : State) (p : Plane) (m : GlMsg) (q : Plane) (r : GlReq) (k : Nat) (i : Word) (l :
    Nat), s.glOn p = true ∧ s.glStage p = 5 ∧ s.answering p m.mtag = some (q, r) ∧ r.what = .entry k i l ∧ m.status
    = 0 ∧ (s.answered q r).entryOut q k = false ∧ (∀ o, (s.pl o).hif.ending = none) :=
  ⟨(State.modHif (withF [(Fld.EPC_ERR_CFG.ESC_U, 0, 0), (Fld.HIF_LINK_CFG.EN, 0, 1), (Fld.HIF_LINK_STAT.STAGE, 0,
    5), (Fld.HIF_CTL.EN, 0, 2)]) .hoist (fun x =>
    { x with outst := [⟨⟨3, 0, 5, 0, 0, []⟩, .entry 1 4 0, .hoist⟩] })), .hoist, ⟨0x11, 0, 5, 0, 0, []⟩, .hoist,
    ⟨⟨3, 0, 5, 0, 0, []⟩, .entry 1 4 0, .hoist⟩, 1, 4, 0,
    by refine ⟨by decide +kernel, by decide +kernel, by decide +kernel, by decide +kernel, by decide +kernel, by decide +kernel, fun q => by cases q <;> rfl⟩⟩
theorem wit_healthReport_frame : ∃ (s : State) (p : Plane) (agree flashOk : Bool), s.canUp p = true ∧ (s.pl
    p).can.role ≠ .booting ∧ s.pkg.activating = none ∧ (∀ q, s.flag q Fld.CAN_MBOX_CTL.SEND 0 = false) :=
  ⟨(State.modCan (withF [(Fld.EPC_ERR_CFG.ESC_U, 0, 0)]) .hoist (fun x => { x with role := .active })), .hoist,
    true, true,
    by refine ⟨by decide +kernel, by decide +kernel, by decide +kernel, fun q => by cases q <;> decide +kernel⟩⟩
theorem wit_cantonBoot_frame : ∃ (s : State) (p : Plane) (v : FlashView) (c : Nat) (d : FlashDir), s.canUp p = true
    ∧ (s.pl p).can.role = .booting ∧ (s.pl p).can.imgRuns = false ∧ (s.setView p (some v)).flashDir p = some (c, d)
    ∧ d.pref ≤ 1 ∧ imageCode 1 s.pkg.svnFw s.pkg.revoked ((s.setView p (some v)).slotHdr p d d.pref) ((s.setView p
    (some v)).slotProof p d d.pref) = 0 ∧ s.pkg.activating = none ∧ (∀ q, s.flag q Fld.CAN_MBOX_CTL.SEND 0 = false)
    :=
  ⟨(withF [(Fld.EPC_ERR_CFG.ESC_U, 0, 0)]), .hoist, ⟨some ⟨1, 0, 0x10000, 0x100000⟩, none, [], ⟨false, none, none,
    []⟩, ([0x01, 0x0B, 0xA5, 0xC4, 1, 1, 0, 0, 0, 0, 0, 0, 0, 0, 0, 0, 1] ++ List.replicate 495 0), ([0x01, 0x0B,
    0xA5, 0xC4, 1, 1, 0, 0, 0, 0, 0, 0, 0, 0, 0, 0, 1] ++ List.replicate 495 0), ⟨true, true, true⟩, ⟨true, true,
    true⟩⟩, 0, ⟨1, 0, 0x10000, 0x100000⟩,
    by refine ⟨by decide +kernel, by decide +kernel, by decide +kernel, by decide +kernel, by decide +kernel, by decide +kernel, by decide +kernel, fun q => by cases q <;> decide +kernel⟩⟩
theorem wit_cantonBootDone_fail_frame : ∃ (s : State) (p : Plane) (mc : Option Image), s.canUp p = true ∧ (s.pl
    p).can.role = .booting ∧ (s.pl p).can.imgRuns = true ∧ s.pkg.activating = none ∧ (∀ q, s.flag q
    Fld.CAN_MBOX_CTL.SEND 0 = false) :=
  ⟨(State.modCan (withF [(Fld.EPC_ERR_CFG.ESC_U, 0, 0)]) .hoist (fun x => { x with imgRuns := true })), .hoist,
    none,
    by refine ⟨by decide +kernel, by decide +kernel, by decide +kernel, by decide +kernel, fun q => by cases q <;> decide +kernel⟩⟩
theorem wit_heartbeatMiss_frame : ∃ (s : State) (p : Plane), s.canEligible p = true ∧ s.pkg.active = some p.other ∧
    s.halUp p = true ∧ s.pkg.split = false ∧ s.power ≠ 0 ∧ s.power = s.target p ∧ (∀ q, s.flag q
    Fld.CAN_MBOX_CTL.SEND 0 = false) ∧ (∀ r, s.power = s.target r) :=
  ⟨((State.setF (State.modPkg (State.modCan (withF [(Fld.EPC_ERR_CFG.ESC_U, 0, 0), (Fld.TOP_PG_STAT.HALYARD_OK, 0,
    1), (Fld.CAN_PWR_STATE.STATE, 0, 3), (Fld.CAN_PWR_STATE.RM_LIMIT, 0, 3), (Fld.CAN_PWR_STATE.HOST_REQ, 0, 3)])
    .hoist (fun x => { x with role := .standby, health := List.replicate 16 0 ++ [3] })) (fun x =>
    { x with active := some .fly })) .fly Fld.CAN_PWR_STATE.RM_LIMIT 0 3).setF .fly Fld.CAN_PWR_STATE.HOST_REQ 0 3),
    .hoist,
    by refine ⟨by decide +kernel, by decide +kernel, by decide +kernel, by decide +kernel, by decide +kernel, by decide +kernel, fun q => by cases q <;> decide +kernel, fun q => by cases q <;> decide +kernel⟩⟩
theorem wit_cantonClaim_frame : ∃ (s : State) (p : Plane) (q : Plane), s.pkg.active = none ∧ s.claims p = true ∧ q =
    (if s.claims p.other = true then (if s.flag p Fld.TOP_STRAP.CANTON_SEL 0 = true then Plane.fly else Plane.hoist)
    else p) ∧ s.power ≠ 0 ∧ s.power = s.target q ∧ (∀ q, s.flag q Fld.CAN_MBOX_CTL.SEND 0 = false) ∧ (∀ r, s.power =
    s.target r) :=
  ⟨((State.setF (State.modPkg (State.modCan (withF [(Fld.EPC_ERR_CFG.ESC_U, 0, 0), (Fld.CAN_PWR_STATE.STATE, 0, 3),
    (Fld.CAN_PWR_STATE.RM_LIMIT, 0, 3), (Fld.CAN_PWR_STATE.HOST_REQ, 0, 3)]) .hoist (fun x =>
    { x with role := .standby, health := List.replicate 16 0 ++ [3] })) (fun x => { x with active := none })) .fly
    Fld.CAN_PWR_STATE.RM_LIMIT 0 3).setF .fly Fld.CAN_PWR_STATE.HOST_REQ 0 3), .hoist, .hoist,
    by refine ⟨by decide +kernel, by decide +kernel, by decide +kernel, by decide +kernel, by decide +kernel, fun q => by cases q <;> decide +kernel, fun q => by cases q <;> decide +kernel⟩⟩
theorem wit_handoverAck_frame : ∃ (s : State) (p : Plane), s.pkg.handing = true ∧ s.canHand = true ∧ s.mgr = some
    p.other ∧ s.power ≠ 0 ∧ s.power = s.target p ∧ (∀ q, s.flag q Fld.CAN_MBOX_CTL.SEND 0 = false) ∧ (∀ r, s.power =
    s.target r) :=
  ⟨((State.setF (State.modPkg (State.modCan (State.modCan (withF [(Fld.EPC_ERR_CFG.ESC_U, 0, 0),
    (Fld.CAN_PWR_STATE.STATE, 0, 3), (Fld.CAN_PWR_STATE.RM_LIMIT, 0, 3), (Fld.CAN_PWR_STATE.HOST_REQ, 0, 3)]) .fly
    (fun x => { x with role := .handing })) .hoist (fun x =>
    { x with role := .standby, health := List.replicate 16 0 ++ [3] })) (fun x =>
    { x with active := some .fly, handing := true })) .fly Fld.CAN_PWR_STATE.RM_LIMIT 0 3).setF .fly
    Fld.CAN_PWR_STATE.HOST_REQ 0 3), .hoist,
    by refine ⟨by decide +kernel, by decide +kernel, by decide +kernel, by decide +kernel, by decide +kernel, fun q => by cases q <;> decide +kernel, fun q => by cases q <;> decide +kernel⟩⟩
theorem wit_mgmtUnknown_frame : ∃ (s : State) (p : Plane) (req : MgmtReq) (code : Byte), s.pkg.resetN = true ∧ s.mgr
    = some p ∧ s.pkg.split = false ∧ s.waits p = false ∧ req.transport = .ethernet ∧ ((req.target = 0xFF ∨
    req.target.toNat = s.slot)) ∧ mgmtCodes.contains code.toNat = false :=
  ⟨(State.modCan (withF [(Fld.EPC_ERR_CFG.ESC_U, 0, 0)]) .hoist (fun x => { x with role := .active })), .hoist,
    ⟨.hoist, .ethernet, false, 9, 0xFF, [], [], List.replicate 32 7, false⟩, 0x7F,
    by decide +kernel⟩
theorem wit_cascadeMsg_frame : ∃ (s : State) (p : Plane) (side : Sys2Proof.Side) (f : CascFrame), s.cascEn = true ∧
    s.mgr = some p ∧ f.crcOk = true ∧ f.src.toNat ≠ s.slot ∧ f.dst.toNat ≠ s.slot ∧ f.dst ≠ 0xF :=
  ⟨(State.modCan (withF [(Fld.EPC_ERR_CFG.ESC_U, 0, 0), (Fld.TOP_STRAP.CASC_EN, 0, 1)]) .hoist (fun x =>
    { x with role := .active })), .hoist, .prev, ⟨3, 4, 1, [], true⟩,
    by decide +kernel⟩

end Sys2Proof.Tests
end

section
/-! PROOFS. Addresses that no register occupies (R8): such an offset decodes to no register word, and reads and writes
there fall through the decoder. -/

namespace Sys2Proof.Machine

variable {a : Nat} {s : State} {p : Plane}

/-- Whatever register of its block an offset is tried against, a hit would make that register own it. -/
theorem regAt_eq_none_of_not_owns (h : ∀ r : Reg, ¬ r.Owns a) : regAt a = none := by
  refine List.findSome?_eq_none_iff.mpr fun r _ => ?_
  cases hat : r.at? a with
  | none => rfl
  | some x => exact absurd (Reg.owns_of_at hat) (h r)

theorem State.readReg_of_regAt_eq_none (h : regAt a = none) : s.readReg p a = (0, s) := by
  rw [State.readReg, h]

theorem State.writeReg_of_regAt_eq_none (h : regAt a = none) (v : Word) : s.writeReg p a v = (false, s) := by
  rw [State.writeReg, h]

theorem State.when_eq_self {b : Bool} {f : State → State} (h : f s = s) : s.when b f = s :=
  ite_eq_right_iff.mpr fun _ => h

theorem exec_registerWrite (addr : BitVec 27) (v : Word) :
    exec (.registerWrite addr v) s = execRegisterWrite addr v s := rfl

/-- Live or not, the plane that the address names keeps its state: the write that a live one makes changes nothing. -/
theorem execRegisterWrite_of_regAt_eq_none {addr : BitVec 27} (h : regAt (addr.toNat % 0x4000000) = none) (v : Word) :
    execRegisterWrite addr v s = .next s := by
  have hw : (s.writeReg (planeAt addr.toNat) (addr.toNat % 0x4000000) v).2 = s := by
    rw [State.writeReg_of_regAt_eq_none h]
  exact congrArg Host.Outcome.next (State.when_eq_self hw)

/-- Settles O8: an offset that no register owns decodes to nothing, and the read, the write and REGISTER_WRITE all
answer by that decoding. -/
theorem unoccupiedAddresses : Obligations.UnoccupiedAddresses := by
  unfold Obligations.UnoccupiedAddresses
  constructor
  · intro s p a v h
    have hnone := regAt_eq_none_of_not_owns h
    exact ⟨State.readReg_of_regAt_eq_none hnone, State.writeReg_of_regAt_eq_none hnone v⟩
  · intro s addr v h
    rw [exec_registerWrite]
    exact execRegisterWrite_of_regAt_eq_none (regAt_eq_none_of_not_owns h) v

end Sys2Proof.Machine
end
